-- ==== Sys2Proof/Word.lean ====
section
/-!
DEFINITION. The word types of the machine (R3, R64) and the plainest arithmetic on them. Everything a test could show wrong stands in the files under Machine/ and in Decode.lean.
-/
namespace Sys2Proof

/-- The contents of an x, m, OX or special register (R64). -/
abbrev Word := BitVec 64

/-- The smallest addressable unit (R3). -/
abbrev Byte := BitVec 8

/-- A vector register: one row of an accumulator tile, 64 bytes, lane 0 in the lowest bytes (R64, R142). -/
abbrev Row := BitVec 512

/-- A row of an operand slot of the matrix engine, 256 bytes (R168). -/
abbrev SlotRow := BitVec 2048

/-- A task identifier (R12). -/
abbrev Tid := BitVec 32

/-- An address-space and tenant identifier (R5). -/
abbrev Asid := BitVec 14

end Sys2Proof
end

