-- ==== Sys2Proof/Syntax.lean ====
section
/-!
DEFINITION. The instructions and events of the opcode table (spec/opcode_table.json), one constructor per row, with their operands as the encoding tables of the spec name them, lowest field first. Rows without an encoding are steps of the device (95_what_each_step_holds.md); their operands are what the event carries.
-/
namespace Sys2Proof

/-- Precision of a scalar floating-point instruction (R62). -/
inductive Prec where | f32 | f64
deriving DecidableEq, Repr

/-- Rounding of a scalar floating-point instruction (R62); dyn takes the mode in FCTL. -/
inductive Rnd where | rne | rtz | rup | rdn | rs | dyn
deriving DecidableEq, Repr

/-- Condition of FCMP (R146). -/
inductive FCond where | eq | lt | le | un | ne
deriving DecidableEq, Repr

/-- Conversion selector of FCVT (R148): P is the precision field, the other type is named. -/
inductive Conv where
  | otherPrec | toI64 | toU64 | toI32 | toU32 | ofI64 | ofU64 | ofI32 | ofU32 | toBf16 | ofBf16 | toF16 | ofF16
deriving DecidableEq, Repr

/-- Element type of formats V and H (R70). -/
inductive Et where | f32 | bf16 | f16 | e4m3 | e5m2 | i32 | i16 | i8
deriving DecidableEq, Repr

/-- Ordering suffix of an atomic (R84). -/
inductive Order where | none | acq | rel | ar
deriving DecidableEq, Repr

/-- Size suffix of an atomic (R84). -/
inductive Sz where | w | d
deriving DecidableEq, Repr

/-- Level named by CALLOC (R41). -/
inductive ALevel where | tile | clus | hbm
deriving DecidableEq, Repr

/-- Option of CRECV (R41). -/
inductive RecvOpt where | task | poll | tile | tilePoll
deriving DecidableEq, Repr

/-- Condition of CWAIT (R41). -/
inductive WaitCond where | full | nodr | joined
deriving DecidableEq, Repr

/-- Mode of CREVOKE (R41). -/
inductive RevMode where | frozen | all
deriving DecidableEq, Repr

/-- A neighbour (R226, R227). -/
inductive Dir where | n | e | s | w
deriving DecidableEq, Repr

/-- Direction of a gang exchange (R160, R164). -/
inductive GDir where | h | v | d
deriving DecidableEq, Repr

/-- Condition of VCMP (R153). -/
inductive VCond where | eq | ne | lt | le | gt | ge
deriving DecidableEq, Repr

/-- An accumulator tile of a slot (R142, R176). -/
inductive AccT where | t0 | t1
deriving DecidableEq, Repr

/-- Side of an operand fill (R171): rows of A or columns of B. -/
inductive Side where | a | b
deriving DecidableEq, Repr

/-- The precision of a one-bit code (R62). -/
def Prec.ofCode (c : Nat) : Prec := if c = 0 then .f32 else .f64
def Prec.code : Prec → Nat | .f32 => 0 | .f64 => 1
def Rnd.ofCode : Nat → Option Rnd
  | 0 => some .rne | 1 => some .rtz | 2 => some .rup | 3 => some .rdn | 4 => some .rs | 5 => some .dyn | _ => none
def Rnd.code : Rnd → Nat | .rne => 0 | .rtz => 1 | .rup => 2 | .rdn => 3 | .rs => 4 | .dyn => 5
def FCond.ofCode : Nat → Option FCond
  | 0 => some .eq | 1 => some .lt | 2 => some .le | 3 => some .un | 4 => some .ne | _ => none
def FCond.code : FCond → Nat | .eq => 0 | .lt => 1 | .le => 2 | .un => 3 | .ne => 4
def Conv.ofCode : Nat → Option Conv
  | 0 => some .otherPrec | 1 => some .toI64 | 2 => some .toU64 | 3 => some .toI32 | 4 => some .toU32
  | 5 => some .ofI64 | 6 => some .ofU64 | 7 => some .ofI32 | 8 => some .ofU32 | 9 => some .toBf16
  | 10 => some .ofBf16 | 11 => some .toF16 | 12 => some .ofF16 | _ => none
def Conv.code : Conv → Nat
  | .otherPrec => 0 | .toI64 => 1 | .toU64 => 2 | .toI32 => 3 | .toU32 => 4 | .ofI64 => 5 | .ofU64 => 6
  | .ofI32 => 7 | .ofU32 => 8 | .toBf16 => 9 | .ofBf16 => 10 | .toF16 => 11 | .ofF16 => 12
def Et.ofCode : Nat → Et
  | 0 => .f32 | 1 => .bf16 | 2 => .f16 | 3 => .e4m3 | 4 => .e5m2 | 5 => .i32 | 6 => .i16 | _ => .i8
def Et.code : Et → Nat
  | .f32 => 0 | .bf16 => 1 | .f16 => 2 | .e4m3 => 3 | .e5m2 => 4 | .i32 => 5 | .i16 => 6 | .i8 => 7
def Order.ofCode : Nat → Order | 0 => .none | 1 => .acq | 2 => .rel | _ => .ar
def Order.code : Order → Nat | .none => 0 | .acq => 1 | .rel => 2 | .ar => 3
def Sz.ofCode (c : Nat) : Sz := if c = 0 then .w else .d
def Sz.code : Sz → Nat | .w => 0 | .d => 1
def ALevel.ofCode : Nat → Option ALevel | 0 => some .tile | 1 => some .clus | 2 => some .hbm | _ => none
def ALevel.code : ALevel → Nat | .tile => 0 | .clus => 1 | .hbm => 2
def RecvOpt.ofCode : Nat → RecvOpt | 0 => .task | 1 => .poll | 2 => .tile | _ => .tilePoll
def RecvOpt.code : RecvOpt → Nat | .task => 0 | .poll => 1 | .tile => 2 | .tilePoll => 3
def WaitCond.ofCode : Nat → Option WaitCond | 0 => some .full | 1 => some .nodr | 2 => some .joined | _ => none
def WaitCond.code : WaitCond → Nat | .full => 0 | .nodr => 1 | .joined => 2
def RevMode.ofCode (c : Nat) : RevMode := if c = 0 then .frozen else .all
def RevMode.code : RevMode → Nat | .frozen => 0 | .all => 1
def Dir.ofCode : Nat → Dir | 0 => .n | 1 => .e | 2 => .s | _ => .w
def Dir.code : Dir → Nat | .n => 0 | .e => 1 | .s => 2 | .w => 3
def GDir.ofCode : Nat → Option GDir | 0 => some .h | 1 => some .v | 2 => some .d | _ => none
def GDir.code : GDir → Nat | .h => 0 | .v => 1 | .d => 2
def VCond.ofCode : Nat → Option VCond
  | 0 => some .eq | 1 => some .ne | 2 => some .lt | 3 => some .le | 4 => some .gt | 5 => some .ge | _ => none
def VCond.code : VCond → Nat | .eq => 0 | .ne => 1 | .lt => 2 | .le => 3 | .gt => 4 | .ge => 5
def AccT.ofCode (c : Nat) : AccT := if c = 0 then .t0 else .t1
def AccT.code : AccT → Nat | .t0 => 0 | .t1 => 1
def Side.ofCode (c : Nat) : Side := if c = 0 then .a else .b
def Side.code : Side → Nat | .a => 0 | .b => 1

/-- Lanes of an element type (R70). -/
def Et.lanes : Et → Nat | .f32 => 16 | .bf16 => 32 | .f16 => 32 | .e4m3 => 64 | .e5m2 => 64 | .i32 => 16 | .i16 => 32 | .i8 => 64
/-- Bits per lane of an element type (R70, R142). -/
def Et.width (e : Et) : Nat := 512 / e.lanes
/-- The five floating-point element types (R149). -/
def Et.isFloat : Et → Bool | .f32 | .bf16 | .f16 | .e4m3 | .e5m2 => true | _ => false
/-- The element types of the special functions (R155). -/
def Et.isWideFloat : Et → Bool | .f32 | .bf16 | .f16 => true | _ => false
/-- The ratio of the lane counts of a conversion (R157). -/
def vcvtRatio (dst src : Et) : Nat := max dst.lanes src.lanes / min dst.lanes src.lanes

/-- The numbers of the special registers (R66). -/
def sregListed (n : Nat) : Bool := n ≤ 0x00E || (0x020 ≤ n && n ≤ 0x023) || (0x030 ≤ n && n ≤ 0x037)

/-- A fault of the matrix arrays, met by an operation before its drain: the element and the bit that is inverted. Physical faults are inputs of the model (R182). -/
structure Upset where
  row : Nat
  col : Nat
  bit : Nat
deriving DecidableEq, Repr

/-- What an engine leg can meet after its fork edge (R200, R205). -/
inductive LegError where
  | revk | pflt (far : Bool) | merr (inSource : Bool) | lnke (port : Nat) | capv (sub : Nat)
deriving DecidableEq, Repr

/-- What the path-delay and ring-oscillator monitors of a cluster read (R332). -/
structure MonitorReading where
  cluster : Nat
  delay : Nat
  ring : Nat
deriving DecidableEq, Repr

/-- The configuration block that the Wawin controller reads at bring-up (R334): fenced tiles, withdrawn paths, clock steps, trained margins, the monitor history and the public helper data of the identity. -/
structure ConfigBlock where
  fenced : List Nat
  withdrawn : List Nat
  steps : List Nat
  margins : List Nat := []
  history : List MonitorReading := []
  helper : List Byte := []
deriving DecidableEq, Repr

/-- What the Wawin controller does after a reading of its monitors (R332). -/
inductive AgeingAction where
  | none | withdraw (tile : Nat) | lower (die : Nat) | fence (tile : Nat)
deriving DecidableEq, Repr

/-- A read of the monitors (R332): what they read, the margins that the controller plans from their history, and what it does. -/
structure MonitorRead where
  readings : List MonitorReading
  margins : List Nat
  action : AgeingAction
deriving DecidableEq, Repr

/-- A host access to BAR0 (R278, R360), with its size in bytes. -/
inductive BarAccess where
  | read (size : Nat) | write (size : Nat) (v : Word)
deriving DecidableEq, Repr

/-- A subgroup of a launch: its exponents and its top-left member relative to the launch origin (R234). -/
structure Subgroup where
  a : Nat
  b : Nat
  row : Nat
  col : Nat
deriving DecidableEq, Repr

/-- An HNT packet: header and payload (R366). The stamp is the sending time. -/
structure Packet where
  kind : Nat
  src : Nat
  dst : Nat
  seq : Nat
  len : Nat
  rsv0 : Nat
  asid : Asid
  version : BitVec 16
  rsv1 : Nat
  root : BitVec 23
  arg : BitVec 24
  off : BitVec 40
  stamp : BitVec 32
  status : BitVec 32
  payload : List Byte
deriving DecidableEq, Repr

/-- An AtomicOp of the host on the W register of queue q (R358, R360): the FetchAdd of 1 that claims a ticket, or a CAS. -/
inductive HostAtomic where
  | fetchAdd (q : Nat) | cas (q : Nat) (expected new : Word)
deriving DecidableEq, Repr

/-- A host access to a line of the flag window (R250): it reads the line, or writes one word of it; the line is then held in the host's cache when hold is set. -/
inductive WindowAccess where
  | read (hold : Bool) | write (word : Nat) (v : Word) (hold : Bool)
deriving DecidableEq, Repr

/-- One row of the opcode table each. -/
inductive Instr where
  /-- C_ADDI (R55): Compact add of a signed 6-bit immediate to xd. -/
  | cAddi (d : BitVec 5) (i : BitVec 6)
  /-- C_MOV (R55): Compact copy of xs into xd. -/
  | cMov (d : BitVec 5) (s : BitVec 5)
  /-- C_ADD (R55): Compact add of xs to xd. -/
  | cAdd (d : BitVec 5) (s : BitVec 5)
  /-- C_LD (R55): Compact doubleword load through h0-h3. -/
  | cLd (d : BitVec 5) (n : BitVec 2) (o : BitVec 4)
  /-- C_ST (R55): Compact doubleword store through h0-h3. -/
  | cSt (s : BitVec 5) (n : BitVec 2) (o : BitVec 4)
  /-- C_BEQZ (R55): Compact branch if xs is zero. -/
  | cBeqz (s : BitVec 5) (i : BitVec 6)
  /-- C_BNEZ (R55): Compact branch if xs is nonzero. -/
  | cBnez (s : BitVec 5) (i : BitVec 6)
  /-- C_J (R55): Compact unconditional jump. -/
  | cJ (i : BitVec 11)
  /-- C_YIELD (R55): Compact form of YIELD. -/
  | cYield
  /-- C_NOP (R55): Compact no-operation. -/
  | cNop
  /-- C_QR (R55): Compact read of a word queue register. -/
  | cQr (d : BitVec 5) (n : BitVec 3)
  /-- C_QW (R55): Compact write of a word queue register. -/
  | cQw (s : BitVec 5) (n : BitVec 3)
  /-- ADD (R77): 64-bit add of two registers. -/
  | add (d : BitVec 5) (a : BitVec 5) (b : BitVec 5)
  /-- SUB (R77): 64-bit subtract. -/
  | sub (d : BitVec 5) (a : BitVec 5) (b : BitVec 5)
  /-- MIN (R77): Signed minimum. -/
  | min (d : BitVec 5) (a : BitVec 5) (b : BitVec 5)
  /-- MAX (R77): Signed maximum. -/
  | max (d : BitVec 5) (a : BitVec 5) (b : BitVec 5)
  /-- MINU (R77): Unsigned minimum. -/
  | minu (d : BitVec 5) (a : BitVec 5) (b : BitVec 5)
  /-- MAXU (R77): Unsigned maximum. -/
  | maxu (d : BitVec 5) (a : BitVec 5) (b : BitVec 5)
  /-- SLT (R77): Set if signed less than. -/
  | slt (d : BitVec 5) (a : BitVec 5) (b : BitVec 5)
  /-- SLTU (R77): Set if unsigned less than. -/
  | sltu (d : BitVec 5) (a : BitVec 5) (b : BitVec 5)
  /-- AND (R77): Bitwise AND. -/
  | and (d : BitVec 5) (a : BitVec 5) (b : BitVec 5)
  /-- OR (R77): Bitwise OR. -/
  | or (d : BitVec 5) (a : BitVec 5) (b : BitVec 5)
  /-- XOR (R77): Bitwise XOR. -/
  | xor (d : BitVec 5) (a : BitVec 5) (b : BitVec 5)
  /-- ANDN (R77): A AND NOT B. -/
  | andn (d : BitVec 5) (a : BitVec 5) (b : BitVec 5)
  /-- SEL (R77): Select xa or xb by the old xd. -/
  | sel (d : BitVec 5) (a : BitVec 5) (b : BitVec 5)
  /-- SLL (R77): Shift left logical by register. -/
  | sll (d : BitVec 5) (a : BitVec 5) (b : BitVec 5)
  /-- SRL (R77): Shift right logical by register. -/
  | srl (d : BitVec 5) (a : BitVec 5) (b : BitVec 5)
  /-- SRA (R77): Shift right arithmetic by register. -/
  | sra (d : BitVec 5) (a : BitVec 5) (b : BitVec 5)
  /-- CLZ (R77): Count leading zero bits. -/
  | clz (d : BitVec 5) (a : BitVec 5)
  /-- CTZ (R77): Count trailing zero bits. -/
  | ctz (d : BitVec 5) (a : BitVec 5)
  /-- POPC (R77): Count one bits. -/
  | popc (d : BitVec 5) (a : BitVec 5)
  /-- MUL (R77): Low 64 bits of product; parks 4 clk. -/
  | mul (d : BitVec 5) (a : BitVec 5) (b : BitVec 5)
  /-- MULH (R77): High 64 bits of signed product. -/
  | mulh (d : BitVec 5) (a : BitVec 5) (b : BitVec 5)
  /-- MULHU (R77): High 64 bits of unsigned product. -/
  | mulhu (d : BitVec 5) (a : BitVec 5) (b : BitVec 5)
  /-- DIV (R77): Signed divide with defined zero and overflow results; parks 18 clk. -/
  | div (d : BitVec 5) (a : BitVec 5) (b : BitVec 5)
  /-- DIVU (R77): Unsigned divide. -/
  | divu (d : BitVec 5) (a : BitVec 5) (b : BitVec 5)
  /-- REM (R77): Signed remainder. -/
  | rem (d : BitVec 5) (a : BitVec 5) (b : BitVec 5)
  /-- REMU (R77): Unsigned remainder. -/
  | remu (d : BitVec 5) (a : BitVec 5) (b : BitVec 5)
  /-- ADDI (R78): Add sign-extended 12-bit immediate. -/
  | addi (d : BitVec 5) (a : BitVec 5) (i : BitVec 12)
  /-- ANDI (R78): AND with immediate. -/
  | andi (d : BitVec 5) (a : BitVec 5) (i : BitVec 12)
  /-- ORI (R78): OR with immediate. -/
  | ori (d : BitVec 5) (a : BitVec 5) (i : BitVec 12)
  /-- XORI (R78): XOR with immediate. -/
  | xori (d : BitVec 5) (a : BitVec 5) (i : BitVec 12)
  /-- SLLI (R78): Shift left logical by immediate. -/
  | slli (d : BitVec 5) (a : BitVec 5) (s : BitVec 6)
  /-- SRLI (R78): Shift right logical by immediate. -/
  | srli (d : BitVec 5) (a : BitVec 5) (s : BitVec 6)
  /-- SRAI (R78): Shift right arithmetic by immediate. -/
  | srai (d : BitVec 5) (a : BitVec 5) (s : BitVec 6)
  /-- SLTI (R78): Set if signed less than immediate. -/
  | slti (d : BitVec 5) (a : BitVec 5) (i : BitVec 12)
  /-- SLTIU (R78): Set if unsigned less than immediate. -/
  | sltiu (d : BitVec 5) (a : BitVec 5) (i : BitVec 12)
  /-- LUI (R79): Load upper immediate times 4096. -/
  | lui (d : BitVec 5) (i : BitVec 19)
  /-- ADDPC (R79): Code offset relative to the ADDPC. -/
  | addpc (d : BitVec 5) (i : BitVec 19)
  /-- BEQ (R80): Branch if equal. -/
  | beq (a : BitVec 5) (b : BitVec 5) (i : BitVec 12)
  /-- BNE (R80): Branch if not equal. -/
  | bne (a : BitVec 5) (b : BitVec 5) (i : BitVec 12)
  /-- BLT (R80): Branch if signed less than. -/
  | blt (a : BitVec 5) (b : BitVec 5) (i : BitVec 12)
  /-- BGE (R80): Branch if signed greater or equal. -/
  | bge (a : BitVec 5) (b : BitVec 5) (i : BitVec 12)
  /-- BLTU (R80): Branch if unsigned less than. -/
  | bltu (a : BitVec 5) (b : BitVec 5) (i : BitVec 12)
  /-- BGEU (R80): Branch if unsigned greater or equal. -/
  | bgeu (a : BitVec 5) (b : BitVec 5) (i : BitVec 12)
  /-- JAL (R80): Jump and link, PC-relative. -/
  | jal (d : BitVec 5) (i : BitVec 20)
  /-- JALR (R80): Jump and link to register plus offset. -/
  | jalr (d : BitVec 5) (a : BitVec 5) (i : BitVec 15)
  /-- FADD (R147): Scalar floating-point add. -/
  | fadd (d : BitVec 5) (a : BitVec 5) (b : BitVec 5) (r : Rnd) (p : Prec)
  /-- FSUB (R147): Scalar floating-point subtract. -/
  | fsub (d : BitVec 5) (a : BitVec 5) (b : BitVec 5) (r : Rnd) (p : Prec)
  /-- FMUL (R147): Scalar floating-point multiply. -/
  | fmul (d : BitVec 5) (a : BitVec 5) (b : BitVec 5) (r : Rnd) (p : Prec)
  /-- FMA (R147): Fused multiply-add into xd. -/
  | fma (d : BitVec 5) (a : BitVec 5) (b : BitVec 5) (r : Rnd) (p : Prec)
  /-- FDIV (R147): Correctly rounded divide; parks 12 or 24 clk. -/
  | fdiv (d : BitVec 5) (a : BitVec 5) (b : BitVec 5) (r : Rnd) (p : Prec)
  /-- FSQRT (R147): Correctly rounded square root. -/
  | fsqrt (d : BitVec 5) (a : BitVec 5) (r : Rnd) (p : Prec)
  /-- FMIN (R147): Scalar floating-point minimum. -/
  | fmin (d : BitVec 5) (a : BitVec 5) (b : BitVec 5) (p : Prec)
  /-- FMAX (R147): Scalar floating-point maximum. -/
  | fmax (d : BitVec 5) (a : BitVec 5) (b : BitVec 5) (p : Prec)
  /-- FCMP (R147): Floating-point compare to integer result. -/
  | fcmp (d : BitVec 5) (a : BitVec 5) (b : BitVec 5) (c : FCond) (p : Prec)
  /-- FCVT (R148): Scalar conversion selected by the b field. -/
  | fcvt (d : BitVec 5) (a : BitVec 5) (s : Conv) (r : Rnd) (p : Prec)
  /-- FCLASS (R147): Write the class word of a value. -/
  | fclass (d : BitVec 5) (a : BitVec 5) (p : Prec)
  /-- LD_B (R81): Load byte, sign-extended. -/
  | ldB (d : BitVec 5) (h : BitVec 4) (x : BitVec 5) (i : BitVec 8)
  /-- LD_BU (R81): Load byte, zero-extended. -/
  | ldBu (d : BitVec 5) (h : BitVec 4) (x : BitVec 5) (i : BitVec 8)
  /-- LD_H (R81): Load halfword, sign-extended. -/
  | ldH (d : BitVec 5) (h : BitVec 4) (x : BitVec 5) (i : BitVec 8)
  /-- LD_HU (R81): Load halfword, zero-extended. -/
  | ldHu (d : BitVec 5) (h : BitVec 4) (x : BitVec 5) (i : BitVec 8)
  /-- LD_W (R81): Load word, sign-extended. -/
  | ldW (d : BitVec 5) (h : BitVec 4) (x : BitVec 5) (i : BitVec 8)
  /-- LD_WU (R81): Load word, zero-extended. -/
  | ldWu (d : BitVec 5) (h : BitVec 4) (x : BitVec 5) (i : BitVec 8)
  /-- LD_D (R81): Load doubleword. -/
  | ldD (d : BitVec 5) (h : BitVec 4) (x : BitVec 5) (i : BitVec 8)
  /-- LDV (R82): Load 64 bytes into a vector row. -/
  | ldv (d : BitVec 5) (h : BitVec 4) (x : BitVec 5) (i : BitVec 8)
  /-- ST_B (R81): Store byte into the store buffer. -/
  | stB (s : BitVec 5) (h : BitVec 4) (x : BitVec 5) (i : BitVec 8)
  /-- ST_H (R81): Store halfword. -/
  | stH (s : BitVec 5) (h : BitVec 4) (x : BitVec 5) (i : BitVec 8)
  /-- ST_W (R81): Store word. -/
  | stW (s : BitVec 5) (h : BitVec 4) (x : BitVec 5) (i : BitVec 8)
  /-- ST_D (R81): Store doubleword. -/
  | stD (s : BitVec 5) (h : BitVec 4) (x : BitVec 5) (i : BitVec 8)
  /-- STV (R82): Store a 64-byte vector row. -/
  | stv (s : BitVec 5) (h : BitVec 4) (x : BitVec 5) (i : BitVec 8)
  /-- STL_W (R83): Release store of a word. -/
  | stlW (s : BitVec 5) (h : BitVec 4) (x : BitVec 5) (i : BitVec 8)
  /-- STL_D (R83): Release store of a doubleword. -/
  | stlD (s : BitVec 5) (h : BitVec 4) (x : BitVec 5) (i : BitVec 8)
  /-- AMO_ADD (R85): Atomic add at the home bank. -/
  | amoAdd (d : BitVec 5) (h : BitVec 4) (b : BitVec 5) (z : Sz) (o : Order)
  /-- AMO_AND (R85): Atomic AND. -/
  | amoAnd (d : BitVec 5) (h : BitVec 4) (b : BitVec 5) (z : Sz) (o : Order)
  /-- AMO_OR (R85): Atomic OR. -/
  | amoOr (d : BitVec 5) (h : BitVec 4) (b : BitVec 5) (z : Sz) (o : Order)
  /-- AMO_XOR (R85): Atomic XOR. -/
  | amoXor (d : BitVec 5) (h : BitVec 4) (b : BitVec 5) (z : Sz) (o : Order)
  /-- AMO_MIN (R85): Atomic signed minimum. -/
  | amoMin (d : BitVec 5) (h : BitVec 4) (b : BitVec 5) (z : Sz) (o : Order)
  /-- AMO_MAX (R85): Atomic signed maximum. -/
  | amoMax (d : BitVec 5) (h : BitVec 4) (b : BitVec 5) (z : Sz) (o : Order)
  /-- AMO_MINU (R85): Atomic unsigned minimum. -/
  | amoMinu (d : BitVec 5) (h : BitVec 4) (b : BitVec 5) (z : Sz) (o : Order)
  /-- AMO_MAXU (R85): Atomic unsigned maximum. -/
  | amoMaxu (d : BitVec 5) (h : BitVec 4) (b : BitVec 5) (z : Sz) (o : Order)
  /-- AMO_SWAP (R85): Atomic swap. -/
  | amoSwap (d : BitVec 5) (h : BitVec 4) (b : BitVec 5) (z : Sz) (o : Order)
  /-- CAS (R85): Atomic compare-and-swap with success flag. -/
  | cas (d : BitVec 4) (h : BitVec 4) (b : BitVec 5) (z : Sz) (o : Order)
  /-- LDA (R85): Acquire load performed at the home. -/
  | lda (d : BitVec 5) (h : BitVec 4) (b : BitVec 5) (z : Sz)
  /-- CALLOC (R44): Create a new root buffer at a level. -/
  | calloc (d : BitVec 4) (a : BitVec 5) (b : BitVec 5) (l : ALevel)
  /-- CFREE (R45): Free a buffer or drop a commons holder. -/
  | cfree (a : BitVec 4)
  /-- CGET (R46): Read a field of a capability record. -/
  | cget (d : BitVec 5) (a : BitVec 4) (s : BitVec 3)
  /-- CNARROW (R47): Reduce a record's rights and move the handle. -/
  | cnarrow (d : BitVec 4) (a : BitVec 4) (m : BitVec 4)
  /-- CSPLIT (R48): Split shares into a new FRAC record. -/
  | csplit (d : BitVec 4) (a : BitVec 4) (b : BitVec 5)
  /-- CJOIN (R48): Join a FRAC record's shares back. -/
  | cjoin (a : BitVec 4) (b : BitVec 4)
  /-- CSEND_KEEP (R33): Send a capability moving rights only. -/
  | csendKeep (d : BitVec 5) (a : BitVec 4) (b : BitVec 5)
  /-- CSEND_MOVE (R33): Send a capability moving its bytes to the receiver's tile. -/
  | csendMove (d : BitVec 5) (a : BitVec 4) (b : BitVec 5)
  /-- CSEND_AUTO (R33): Send a capability moving bytes only when small and remote. -/
  | csendAuto (d : BitVec 5) (a : BitVec 4) (b : BitVec 5)
  /-- CSEND_DUP (R33): Send a new commons holder record. -/
  | csendDup (d : BitVec 5) (a : BitVec 4) (b : BitVec 5)
  /-- CRECV (R50): Take the oldest message from the task or tile inbox. -/
  | crecv (d : BitVec 4) (p : BitVec 5) (s : BitVec 5) (o : RecvOpt)
  /-- CWAIT (R51): Wait for a buffer state or for all shares joined. -/
  | cwait (a : BitVec 4) (c : WaitCond)
  /-- CREVOKE (R52): Revoke frozen or all fractions of a root. -/
  | crevoke (a : BitVec 4) (m : RevMode)
  /-- CMARK_FILL (R53): Move a root from FULL to FILLING. -/
  | cmarkFill (a : BitVec 4)
  /-- CMARK_FULL (R53): Move a root from FILLING to FULL, a release. -/
  | cmarkFull (a : BitVec 4)
  /-- CMARK_CLRP (R53): Clear poison in a root and its fractions. -/
  | cmarkClrp (a : BitVec 4)
  /-- QW (R89): Append a word to a queue register, a release. -/
  | qw (s : BitVec 5) (n : BitVec 3)
  /-- QR (R89): Remove the head word of a queue register. -/
  | qr (d : BitVec 5) (n : BitVec 3)
  /-- VQW (R89): Append a vector row to a row queue. -/
  | vqw (s : BitVec 5) (n : BitVec 3)
  /-- VQR (R89): Remove the head row of a row queue. -/
  | vqr (d : BitVec 5) (n : BitVec 3)
  /-- SFORK (R91): Start a sibling stream on a free slot. -/
  | sfork (d : BitVec 5) (a : BitVec 5) (b : BitVec 5)
  /-- SJOIN (R92): Wait for sibling streams to end. -/
  | sjoin (a : BitVec 5)
  /-- CHW (R228): Write a word to a neighbour channel. -/
  | chw (s : BitVec 5) (r : Dir)
  /-- CHR (R228): Read the oldest word of an own channel. -/
  | chr (d : BitVec 5) (r : Dir)
  /-- SPAWN (R94): Create a task from a record on the local deque. -/
  | spawn (d : BitVec 5) (a : BitVec 4) (b : BitVec 5)
  /-- SPAWNAT (R94): Create a pinned task at the tile of handle field 0. -/
  | spawnat (d : BitVec 5) (a : BitVec 4) (b : BitVec 5)
  /-- JOINW (R95): Wait until the join counter is zero. -/
  | joinw
  /-- YIELD (R96): Clear the watchdog, deliver pending error, and offer the slot. -/
  | yield
  /-- EXIT (R19): End a sibling stream or the task in ordered steps. -/
  | exit
  /-- WAKEAT (R97): Wait until an absolute PTP time. -/
  | wakeat (a : BitVec 5)
  /-- EVTH (R106): Install the user event handler and enables. -/
  | evth (a : BitVec 5) (b : BitVec 5)
  /-- EVRET (R107): Return from a user event handler. -/
  | evret
  /-- TRAP (R104): Raise SYSC with a detail value. -/
  | trap (a : BitVec 5)
  /-- ERET (R118): Return from the supervisor handler. -/
  | eret
  /-- RDS (R105): Read a special register. -/
  | rds (d : BitVec 5) (n : BitVec 12)
  /-- WRS (R105): Write a special register under its field map. -/
  | wrs (s : BitVec 5) (n : BitVec 12)
  /-- EWAIT (R102): Wait for the stream's accesses and raise any pending error. -/
  | ewait
  /-- BKPT (R104): Raise BRKP. -/
  | bkpt
  /-- OXL (R108): Load 8 bytes into an OX register. -/
  | oxl (n : BitVec 3) (h : BitVec 4) (i : BitVec 15)
  /-- OXL_H (R108): Copy a handle image into an OX register. -/
  | oxlH (n : BitVec 3) (h : BitVec 4)
  /-- OXLI (R108): Set an OX register to a register plus immediate. -/
  | oxli (n : BitVec 3) (a : BitVec 5) (i : BitVec 15)
  /-- VADD (R150): Vector floating-point add. -/
  | vadd (d : BitVec 5) (a : BitVec 5) (b : BitVec 5) (e : Et) (k : BitVec 2)
  /-- VSUB (R150): Vector floating-point subtract. -/
  | vsub (d : BitVec 5) (a : BitVec 5) (b : BitVec 5) (e : Et) (k : BitVec 2)
  /-- VMUL (R150): Vector floating-point multiply. -/
  | vmul (d : BitVec 5) (a : BitVec 5) (b : BitVec 5) (e : Et) (k : BitVec 2)
  /-- VFMA (R150): Vector fused multiply-add. -/
  | vfma (d : BitVec 5) (a : BitVec 5) (b : BitVec 5) (e : Et) (k : BitVec 2)
  /-- VFNMA (R150): Vector negated fused multiply-add. -/
  | vfnma (d : BitVec 5) (a : BitVec 5) (b : BitVec 5) (e : Et) (k : BitVec 2)
  /-- VMIN (R150): Vector floating-point minimum. -/
  | vmin (d : BitVec 5) (a : BitVec 5) (b : BitVec 5) (e : Et) (k : BitVec 2)
  /-- VMAX (R150): Vector floating-point maximum. -/
  | vmax (d : BitVec 5) (a : BitVec 5) (b : BitVec 5) (e : Et) (k : BitVec 2)
  /-- VABS (R150): Vector absolute value by sign bit. -/
  | vabs (d : BitVec 5) (a : BitVec 5) (e : Et) (k : BitVec 2)
  /-- VNEG (R150): Vector negate by sign bit. -/
  | vneg (d : BitVec 5) (a : BitVec 5) (e : Et) (k : BitVec 2)
  /-- VIADD (R151): Vector integer add, wrapping or saturating. -/
  | viadd (d : BitVec 5) (a : BitVec 5) (b : BitVec 5) (e : Et) (k : BitVec 2) (s : Bool)
  /-- VISUB (R151): Vector integer subtract. -/
  | visub (d : BitVec 5) (a : BitVec 5) (b : BitVec 5) (e : Et) (k : BitVec 2) (s : Bool)
  /-- VIMUL (R151): Vector integer multiply. -/
  | vimul (d : BitVec 5) (a : BitVec 5) (b : BitVec 5) (e : Et) (k : BitVec 2) (s : Bool)
  /-- VIMAC (R151): Vector integer multiply-accumulate. -/
  | vimac (d : BitVec 5) (a : BitVec 5) (b : BitVec 5) (e : Et) (k : BitVec 2) (s : Bool)
  /-- VAND (R152): Vector bitwise AND. -/
  | vand (d : BitVec 5) (a : BitVec 5) (b : BitVec 5) (e : Et) (k : BitVec 2)
  /-- VOR (R152): Vector bitwise OR. -/
  | vor (d : BitVec 5) (a : BitVec 5) (b : BitVec 5) (e : Et) (k : BitVec 2)
  /-- VXOR (R152): Vector bitwise XOR. -/
  | vxor (d : BitVec 5) (a : BitVec 5) (b : BitVec 5) (e : Et) (k : BitVec 2)
  /-- VSHL (R152): Vector shift left. -/
  | vshl (d : BitVec 5) (a : BitVec 5) (b : BitVec 5) (e : Et) (k : BitVec 2)
  /-- VSHR (R152): Vector logical shift right. -/
  | vshr (d : BitVec 5) (a : BitVec 5) (b : BitVec 5) (e : Et) (k : BitVec 2)
  /-- VSRA (R152): Vector arithmetic shift right. -/
  | vsra (d : BitVec 5) (a : BitVec 5) (b : BitVec 5) (e : Et) (k : BitVec 2)
  /-- VCMP (R154): Vector compare into a mask register. -/
  | vcmp (d : BitVec 5) (a : BitVec 5) (b : BitVec 5) (e : Et) (k : BitVec 2) (u : Bool) (c : VCond)
  /-- VSEL (R154): Select lanes of two rows by a mask. -/
  | vsel (d : BitVec 5) (a : BitVec 5) (b : BitVec 5) (e : Et) (k : BitVec 2)
  /-- VMSK_AND (R153): Mask AND. -/
  | vmskAnd (d : BitVec 2) (a : BitVec 2) (b : BitVec 2)
  /-- VMSK_OR (R153): Mask OR. -/
  | vmskOr (d : BitVec 2) (a : BitVec 2) (b : BitVec 2)
  /-- VMSK_XOR (R153): Mask XOR. -/
  | vmskXor (d : BitVec 2) (a : BitVec 2) (b : BitVec 2)
  /-- VMSK_ANDN (R153): Mask AND NOT. -/
  | vmskAndn (d : BitVec 2) (a : BitVec 2) (b : BitVec 2)
  /-- VMSK_MOV (R153): Mask from a scalar register. -/
  | vmskMov (d : BitVec 2) (a : BitVec 5)
  /-- VMSK_GET (R153): Scalar register from a mask. -/
  | vmskGet (d : BitVec 5) (a : BitVec 2)
  /-- VRCP (R155): Vector reciprocal. -/
  | vrcp (d : BitVec 5) (a : BitVec 5) (e : Et) (k : BitVec 2)
  /-- VRSQ (R155): Vector reciprocal square root. -/
  | vrsq (d : BitVec 5) (a : BitVec 5) (e : Et) (k : BitVec 2)
  /-- VSQRT (R155): Vector square root; parks 12 clk. -/
  | vsqrt (d : BitVec 5) (a : BitVec 5) (e : Et) (k : BitVec 2)
  /-- VDIV (R155): Vector divide; parks 12 clk. -/
  | vdiv (d : BitVec 5) (a : BitVec 5) (b : BitVec 5) (e : Et) (k : BitVec 2)
  /-- VEXP (R155): Vector natural exponential. -/
  | vexp (d : BitVec 5) (a : BitVec 5) (e : Et) (k : BitVec 2)
  /-- VEXP2 (R155): Vector base-2 exponential. -/
  | vexp2 (d : BitVec 5) (a : BitVec 5) (e : Et) (k : BitVec 2)
  /-- VLOG (R155): Vector natural logarithm. -/
  | vlog (d : BitVec 5) (a : BitVec 5) (e : Et) (k : BitVec 2)
  /-- VLOG2 (R155): Vector base-2 logarithm. -/
  | vlog2 (d : BitVec 5) (a : BitVec 5) (e : Et) (k : BitVec 2)
  /-- VTANH (R155): Vector hyperbolic tangent. -/
  | vtanh (d : BitVec 5) (a : BitVec 5) (e : Et) (k : BitVec 2)
  /-- VSIGM (R155): Vector sigmoid. -/
  | vsigm (d : BitVec 5) (a : BitVec 5) (e : Et) (k : BitVec 2)
  /-- VCVT (R157): Convert between vector types by part. -/
  | vcvt (d : BitVec 5) (a : BitVec 5) (c : Et) (e : Et) (s : Bool) (p : BitVec 2)
  /-- VQNT (R158): Quantise lanes into a packed narrow format. -/
  | vqnt (d : BitVec 5) (a : BitVec 5) (p : BitVec 5) (e : Et) (k : BitVec 2) (s : Bool)
  /-- VDQN (R158): Dequantise packed narrow elements into lanes. -/
  | vdqn (d : BitVec 5) (a : BitVec 5) (p : BitVec 5) (e : Et) (k : BitVec 2)
  /-- VBADDQ (R159): Add two scaled blocks and requantise. -/
  | vbaddq (d : BitVec 5) (a : BitVec 5) (b : BitVec 5) (k : BitVec 2)
  /-- VPERM (R161): Permute lanes by an index row. -/
  | vperm (d : BitVec 5) (a : BitVec 5) (b : BitVec 5) (e : Et) (k : BitVec 2)
  /-- VBCAST (R161): Broadcast a scalar register to active lanes. -/
  | vbcast (d : BitVec 5) (a : BitVec 5) (e : Et) (k : BitVec 2)
  /-- VBCAST_LANE (R161): Broadcast lane 0-31 of a row. -/
  | vbcastLane (d : BitVec 5) (a : BitVec 5) (i : BitVec 5) (e : Et) (k : BitVec 2)
  /-- VBCAST_LANE_HIGH (R160): Broadcast lane 32-63 of a byte-lane row. -/
  | vbcastLaneHigh (d : BitVec 5) (a : BitVec 5) (i : BitVec 5) (e : Et) (k : BitVec 2)
  /-- VREDS (R162): Pairwise-tree sum reduction to a scalar. -/
  | vreds (d : BitVec 5) (a : BitVec 5) (e : Et) (k : BitVec 2)
  /-- VREDM_MAX (R162): Maximum reduction to a scalar. -/
  | vredmMax (d : BitVec 5) (a : BitVec 5) (e : Et) (k : BitVec 2) (u : Bool)
  /-- VREDM_MIN (R162): Minimum reduction to a scalar. -/
  | vredmMin (d : BitVec 5) (a : BitVec 5) (e : Et) (k : BitVec 2) (u : Bool)
  /-- VTRN (R163): Transpose a 16x16 accumulator tile; parks 16 clk. -/
  | vtrn (d : AccT) (a : AccT) (e : Et)
  /-- VGX (R164): Rendezvous row exchange with a gang partner. -/
  | vgx (d : BitVec 5) (a : BitVec 5) (r : GDir)
  /-- VMOVI (R166): Fill every lane with an immediate. -/
  | vmovi (d : BitVec 5) (e : Et) (i : BitVec 16)
  /-- VMULI (R166): Multiply every lane by a float immediate. -/
  | vmuli (d : BitVec 5) (e : Et) (i : BitVec 16)
  /-- VADDI (R166): Add an integer immediate to every lane. -/
  | vaddi (d : BitVec 5) (e : Et) (i : BitVec 16)
  /-- REP (R69): Repeat the next word with stepped register fields. -/
  | rep (c : BitVec 6) (s : BitVec 3) (t : BitVec 2)
  /-- OCLM (R172): Claim a free operand slot or pair. -/
  | oclm (d : BitVec 5) (a : BitVec 5) (p : Bool)
  /-- OREL (R173): Release and scrub an owned operand slot. -/
  | orel (a : BitVec 5)
  /-- OLD (R174): Fill an operand slot from a buffer as an engine operation. -/
  | old (n : BitVec 3) (k : BitVec 2) (h : BitVec 4) (a : BitVec 3) (s : Side) (e : BitVec 3)
  /-- MMA (R177): Matrix multiply-accumulate of one k-block into a tile. -/
  | mma (d : AccT) (a : BitVec 2) (b : BitVec 2) (e : BitVec 3) (n : Bool) (t : BitVec 3) (s : BitVec 3)
  /-- MMAP (R177): Matrix partial of one k-block, unscaled. -/
  | mmap (d : AccT) (a : BitVec 2) (b : BitVec 2) (e : BitVec 3) (n : Bool) (t : BitVec 3) (s : BitVec 3)
  /-- MZERO (R177): Zero an accumulator tile through the engine. -/
  | mzero (d : AccT) (n : Bool)
  /-- HBIND (R192): Bind a husk to a weight capability. -/
  | hbind (n : BitVec 4) (h : BitVec 4) (c : BitVec 3)
  /-- MMD (R193): Delta-reuse matrix multiply of a bound layer. -/
  | mmd (n : BitVec 4) (v : AccT) (h : BitVec 4) (e : BitVec 3) (f : Bool) (t : BitVec 3) (s : BitVec 3)
  /-- HKILL (R196): Invalidate one husk or all of the ASID. -/
  | hkill (n : BitVec 4) (l : Bool)
  /-- HSTAT (R197): Read husk state or binding. -/
  | hstat (d : BitVec 5) (n : BitVec 4) (b : Bool)
  /-- GGEO_RNG (R188): Compute the task's range of a shape. -/
  | ggeoRng (d : BitVec 3) (h : BitVec 4) (k : BitVec 3)
  /-- GGEO_EDGE (R189): Derive the edge word of one engine block. -/
  | ggeoEdge (d : BitVec 3) (k : BitVec 3) (b : BitVec 5)
  /-- COPY (R203): Engine byte copy between two buffers. -/
  | copy (d : BitVec 4) (h : BitVec 4) (a : BitVec 2) (b : BitVec 5) (n : Bool)
  /-- COPY_MOVE (R203): Relocate a whole buffer to the issuing tile. -/
  | copyMove (d : BitVec 4) (h : BitVec 4) (n : Bool)
  /-- COPY_AUTO (R203): Relocate a buffer when the AUTO rule admits bytes. -/
  | copyAuto (d : BitVec 4) (h : BitVec 4) (n : Bool)
  /-- COPY_PKT (R205): Execute a multicast copy packet. -/
  | copyPkt (h : BitVec 4) (b : BitVec 5)
  /-- COPYM (R206): Fill an operand slot by the transfer engine with optional follow-on. -/
  | copym (n : BitVec 3) (k : BitVec 2) (h : BitVec 4) (a : BitVec 3) (s : Side) (e : BitVec 3) (c : BitVec 3) (f : Bool)
  /-- GATH (R208): Gather rows by an index list. -/
  | gath (d : BitVec 4) (h : BitVec 4) (a : BitVec 3) (f : Bool) (i : BitVec 4)
  /-- FILL (R209): Fill a range with an 8-byte pattern. -/
  | fill (d : BitVec 4) (a : BitVec 2) (b : BitVec 5) (f : Bool)
  /-- SRINV (R215): Remove one shape record from the record cache. -/
  | srinv (h : BitVec 4) (a : BitVec 3)
  /-- SRINV_ALL (R215): Remove every cached record of the ASID. -/
  | srinvAll
  /-- QAPP (R219): Claim a ticket and append a packet to a user queue. -/
  | qapp (d : BitVec 5) (h : BitVec 4) (a : BitVec 3) (b : BitVec 5) (f : Bool)
  /-- SELT (R210): Select elements above a threshold via channel scan units. -/
  | selt (d : BitVec 4) (h : BitVec 4) (a : BitVec 2) (b : Bool) (f : Bool)
  /-- HALO (R232): Deposit bytes into a neighbour's phase buffer. -/
  | halo (p : BitVec 4) (h : BitVec 4) (a : BitVec 3) (r : Dir) (f : Bool)
  /-- MBOX (R233): Read the deposit counts and swaps of a phase buffer. -/
  | mbox (h : BitVec 4) (d : BitVec 5)
  /-- MBOX_WAIT (R233): Wait for deposit counts to reach thresholds. -/
  | mboxWait (h : BitVec 4) (b : BitVec 5)
  /-- BARA (R235): Record a barrier arrival, a release. -/
  | bara (h : BitVec 4) (s : Bool) (a : BitVec 3) (b : BitVec 4)
  /-- BARW (R235): Wait for release of the open arrival's generation. -/
  | barw
  /-- BAR (R235): Barrier arrival then wait. -/
  | bar (h : BitVec 4) (s : Bool) (a : BitVec 3) (b : BitVec 4)
  /-- SCNB (R287): Configure a scan context and join a line. -/
  | scnb (a : BitVec 5) (c : BitVec 2)
  /-- SCNP (R290): Deposit the aggregate of the next epoch. -/
  | scnp (s : BitVec 5) (c : BitVec 2)
  /-- SCNG (R291): Take the carry of the oldest untaken epoch. -/
  | scng (d : BitVec 5) (c : BitVec 2)
  /-- SCNE (R292): Retire one epoch once all have deposited. -/
  | scne (d : BitVec 5) (c : BitVec 2)
  /-- SCNE_CLOSE (R292): Leave the line and free the context. -/
  | scneClose (d : BitVec 5) (c : BitVec 2)
  /-- SWCR (R309): Create a rate-classed set in a calendar. -/
  | swcr (d : BitVec 5) (c : BitVec 3) (a : BitVec 5)
  /-- SWADD (R310): Add a NEWBORN member for a parent. -/
  | swadd (d : BitVec 5) (c : BitVec 3) (a : BitVec 5)
  /-- SWDEL (R313): Make a member DYING. -/
  | swdel (a : BitVec 5)
  /-- SWNXT (R311): Hand out the next due member. -/
  | swnxt (d : BitVec 5) (a : BitVec 5)
  /-- SWRPT (R312): Report a member's change. -/
  | swrpt (b : BitVec 5) (a : BitVec 5)
  /-- SWSET (R313): Write a member's values and slopes. -/
  | swset (b : BitVec 5) (c : BitVec 3) (a : BitVec 5)
  /-- SWSET_NB (R313): Write a member's neighbour slots. -/
  | swsetNb (c : BitVec 3) (a : BitVec 5)
  /-- SWNB (R306): Read a neighbour's value held or extrapolated. -/
  | swnb (d : BitVec 5) (i : Bool) (k : BitVec 2) (a : BitVec 5)
  /-- SWADV (R314): Sweep barrier that advances the set. -/
  | swadv (d : BitVec 5) (a : BitVec 5)
  /-- CSWD_READ (R278): RDS of CSWD reads the control-space register at CSWA. -/
  | cswdRead (d : BitVec 5)
  /-- CSWD_WRITE (R278): WRS of CSWD writes the control-space register at CSWA. -/
  | cswdWrite (s : BitVec 5)
  /-- CONTROL_SPACE_WRITE (R277): Write of a control-space register without a row of its own, refused and logged if it breaks its map. -/
  | controlSpaceWrite (die : Nat) (off : Nat) (acc : BarAccess)
  /-- ELSTAT_CLEAR (R328): Free log entries at or below a sequence number. -/
  | elstatClear (die : Nat) (v : Word)
  /-- WINREQ_GO (R278): Create a flag-window record and report it in WINRES. -/
  | winreqGo (v : Word)
  /-- WINFREE (R278): Free a window record whose holder count is zero. -/
  | winfree (v : Word)
  /-- PEER_EPOCH_WRITE (R369): Declare a destination lost by incrementing its peer-table epoch. -/
  | peerEpochWrite (dev : Nat) (v : Word)
  /-- SHARE_TABLE_WRITE (R113): Supervisor write of a share entry, effective at the next window. -/
  | shareTableWrite (die : Nat) (off : Nat) (v : Word)
  /-- QUEUE_TABLE_WRITE (R216): Supervisor write of a queue-table entry, refused while the ring is busy. -/
  | queueTableWrite (die : Nat) (off : Nat) (v : Word)
  /-- TRANSLATION_INVALIDATE (R38): Supervisor invalidation of an ASID's translations after in-flight walks. -/
  | translationInvalidate (asid : BitVec 14)
  /-- SEIZE (R338): Seize command: stop, quiesce, stream and freeze. -/
  | seize
  /-- RESUME_FROM_IMAGE (R345): Resume command: verify and load an image. -/
  | resumeFromImage
  /-- THAW (R337): Thaw command returning to RUNNING with no reload. -/
  | thaw
  /-- QUIESCE_COMPLETE (R339): All in-flight work settled or captured; enter STREAMING. -/
  | quiesceComplete
  /-- STREAM_COMPLETE (R338): Host acknowledges the last image byte; write header and freeze. -/
  | streamComplete
  /-- STREAM_PORTS_FAILED (R337): Every host port fails during streaming; enter FAILED. -/
  | streamPortsFailed
  /-- RESTORE_COMPLETE (R345): Image loaded and verified; restart issue on every die. -/
  | restoreComplete
  /-- RESTORE_FAILURE (R345): Digest mismatch or failed read during restore; scrub and refuse. -/
  | restoreFailure
  /-- RESET (R277): Reset returns every control space to reset values. -/
  | reset
  /-- CONFIG_BLOCK_LOAD (R334): Wawin controller reads and verifies the signed configuration block. -/
  | configBlockLoad (blk : ConfigBlock) (signed : Bool)
  /-- LAUNCH (R263): Accept a launch packet: place, deliver capabilities, queue tile-task records. -/
  | launch (q : Nat) (idx : Nat)
  /-- LAUNCH_COMPLETE (R264): Last task exits; return buffers, commit shadows, write completion record. -/
  | launchComplete (l : Nat)
  /-- SIGNAL_PACKET (R266): Deliver a kind-3 signal packet to an inbox. -/
  | signalPacket (q : Nat) (idx : Nat)
  /-- SPAWN_PACKET (R266): Create a detached task from a kind-0 queue packet. -/
  | spawnPacket (q : Nat) (idx : Nat)
  /-- CAPABILITY_MESSAGE_CONSUME (R218): Launch machinery delivers a capability message from a ring. -/
  | capabilityMessageConsume (q : Nat) (idx : Nat)
  /-- HOST_CONSUME (R218): Host marks a capability-message entry consumed; capability bounces. -/
  | hostConsume (q : Nat) (idx : Nat)
  /-- QUEUE_CONSUME (R217): Consumer takes the entry at RI and advances RI. -/
  | queueConsume (q : Nat)
  /-- COPY_PACKET_CONSUME (R217): Transfer engines execute a copy packet taken from a queue. -/
  | copyPacketConsume (q : Nat) (idx : Nat)
  /-- QAPP_ENTRY_WRITE (R219): Engine thread writes a claimed entry once room frees. -/
  | qappEntryWrite (tile : Nat) (op : Nat)
  /-- TIMER_TICK (R272): Wheel tick releases bucket records to deques. -/
  | timerTick (die : Nat)
  /-- PTP_STEP (R273): Forward or backward step of the PTP timebase. -/
  | ptpStep (now : Nat)
  /-- PTP_LOCK_LOST (R273): Loss of PTP lock; timebase runs on oscillator and is logged. -/
  | ptpLockLost (offset : Word)
  /-- ROTATION_BOUNDARY (R114): Update class balances and assign QOWN fields. -/
  | rotationBoundary (tile : Nat)
  /-- SHARE_WINDOW_START (R114): Reset balances at the start of a share window. -/
  | shareWindowStart (tile : Nat)
  /-- RAMP_INTERVAL (R116): Interval boundary sets the duty ceiling. -/
  | rampInterval (tile : Nat)
  /-- BUDG (R18): Cycle budget reaches zero; trap at the next boundary. -/
  | budg (tid : BitVec 32)
  /-- WDOG (R18): Watchdog reaches the limit; trap at the next boundary. -/
  | wdog (tid : BitVec 32)
  /-- SLOT_CHOICE (R269): A freed slot chooses a record or saved context. -/
  | slotChoice (tile : Nat) (slot : Nat)
  /-- DEQUE_PLACE_FREED (R382): A freed deque place admits the earliest waiting record. -/
  | dequePlaceFreed (tile : Nat)
  /-- STEAL_ROUND (R270): Thief starts a round of steal requests after back-off. -/
  | stealRound (tile : Nat) (victims : List Nat)
  /-- STEAL_REQUEST (R270): Victim answers a steal request with an offer or none. -/
  | stealRequest (thief : Nat) (victim : Nat) (far : Bool)
  /-- STEAL_OFFER (R270): Thief accepts an offered record into its deque. -/
  | stealOffer (thief : Nat) (victim : Nat) (tid : BitVec 32)
  /-- DONATION_ARRIVAL (R271): A priority donation takes effect or ends at a donee. -/
  | donationArrival (donor : BitVec 32) (donee : BitVec 32) (prio : Nat) (hops : Nat)
  /-- WAIT_CONDITION_MET (R13): A parked stream's condition is met and it becomes ready. -/
  | waitConditionMet (tid : BitVec 32) (no : Nat)
  /-- TASK_REQUEUE (R13): A WAITING task's condition is met and its record is queued. -/
  | taskRequeue (tid : BitVec 32)
  /-- USER_EVENT (R106): Stream 0 takes a pending enabled user event. -/
  | userEvent (tid : BitVec 32)
  /-- LOAD_RESPONSE (R121): Load data returns and the slot becomes ready. -/
  | loadResponse (tid : BitVec 32) (no : Nat)
  /-- HOME_PERFORM (R243): An access is performed at its home in coherence order. -/
  | homePerform (id : Nat)
  /-- STORE_BUFFER_DRAIN (R115): An eligible store-buffer entry drains to its home. -/
  | storeBufferDrain (tile : Nat) (idx : Nat)
  /-- WALK_START (R38): A queued miss starts a walk when a walker frees. -/
  | walkStart (die : Nat)
  /-- WALK_COMPLETE (R38): A walk completes and merged waiters resume or fault. -/
  | walkComplete (die : Nat) (idx : Nat)
  /-- MATRIX_OP_START (R179): Accepted matrix operation starts on the engine. -/
  | matrixOpStart (tile : Nat)
  /-- MATRIX_OP_COMPLETE (R182): Drain compares checksums and writes the tile. -/
  | matrixOpComplete (tile : Nat) (upsets : List Upset)
  /-- OLD_JOIN (R174): Operand slot fill reaches its join edge. -/
  | oldJoin (tile : Nat) (op : Nat) (err : Option LegError)
  /-- TRANSFER_JOIN (R198): Transfer destination's last byte performed; state FULL. -/
  | transferJoin (tile : Nat) (op : Nat)
  /-- ENGINE_LEG_ERROR (R200): Error after the fork stops and poisons one destination. -/
  | engineLegError (tile : Nat) (op : Nat) (leg : Nat) (done : Nat) (err : LegError)
  /-- SCAN_UNIT_LEG (R325): A channel scan unit finishes its SELT leg. -/
  | scanUnitLeg (tile : Nat) (op : Nat) (channel : Nat)
  /-- CSEND_DELIVERY (R33): Message accepted at the receiver's tile; policy chosen. -/
  | csendDelivery (id : Nat)
  /-- MOVE_BYTES_LANDED (R33): Last moved byte lands; message arrives. -/
  | moveBytesLanded (id : Nat)
  /-- BOUNCE_ENQUEUE (R34): Held bounce enters the inbox when a place frees. -/
  | bounceEnqueue (tid : BitVec 32)
  /-- TILE_ASID_CLEAR (R195): Tile clears husks, cache entries and inbox messages of a departed ASID. -/
  | tileAsidClear (tile : Nat) (asid : BitVec 14)
  /-- CHANNEL_WORD_ARRIVAL (R228): A channel word becomes readable at the reader. -/
  | channelWordArrival (tid : BitVec 32) (dir : Dir)
  /-- CHANNEL_CREDIT_RETURN (R228): A credit returns to the writer after a CHR. -/
  | channelCreditReturn (tid : BitVec 32) (dir : Dir)
  /-- NEIGHBOUR_EXITED_FLAG (R229): Exited flag of a neighbour arrives. -/
  | neighbourExitedFlag (tid : BitVec 32) (dir : Dir)
  /-- HALO_RECEIVE (R232): Receiver accepts or refuses a deposit request. -/
  | haloReceive (tile : Nat) (op : Nat)
  /-- HALO_REPLY (R232): Reply reaches the sender; ready or trap. -/
  | haloReply (tile : Nat) (op : Nat)
  /-- HALO_DEPOSIT_JOIN (R232): Deposit bytes written; region count rises. -/
  | haloDepositJoin (tile : Nat) (op : Nat)
  /-- BARRIER_RELEASE (R235): Generation released to all members. -/
  | barrierRelease (l : Nat) (g : Subgroup)
  /-- SCAN_CARRY_READY (R295): A member's carry becomes ready and is written. -/
  | scanCarryReady (tid : BitVec 32) (no : Nat)
  /-- EPOCH_CLOSE (R290): An epoch's closing becomes known at a member. -/
  | epochClose (tid : BitVec 32) (ctx : Nat) (epoch : Nat)
  /-- LEAVING_MARK (R296): A leaving mark reaches other line members. -/
  | leavingMark (tid : BitVec 32) (ctx : Nat)
  /-- SWEEP_RELEASE (R314): SWADV release reaches participants. -/
  | sweepRelease (die : Nat) (cal : Nat)
  /-- HBM_RECALIBRATION (R326): Channel recalibration burst at its interval. -/
  | hbmRecalibration (die : Nat) (channel : Nat)
  /-- ALERT_BACKOFF (R327): Activation-count alert triggers refresh management. -/
  | alertBackoff (die : Nat) (channel : Nat) (bank : Nat)
  /-- POWER_MEASUREMENT (R330): Package power measured; cap or restore clock steps. -/
  | powerMeasurement (power : Nat) (draw : List Nat) (restore : Nat)
  /-- THERMAL_READING (R330): Junction monitor lowers a step or stops a die. -/
  | thermalReading (die : Nat) (celsius : Nat)
  /-- CLOCK_STEP_CHANGE (R331): Stop issue, change die clock, resume. -/
  | clockStepChange (die : Nat) (step : Nat)
  /-- AGEING_MONITOR_READ (R332): Controller reads monitors and degrades parts. -/
  | ageingMonitorRead (read : MonitorRead)
  /-- MESH_FLIT_CRC_ERROR (R282): Flit retried from the link's retry buffer. -/
  | meshFlitCrcError (die : Nat) (link : Nat)
  /-- MESH_LINK_FAILURE (R282): Link fails retraining; routing reprogrammed. -/
  | meshLinkFailure (die : Nat) (link : Nat) (lost : Option (BitVec 32 × Nat))
  /-- TORUS_RESTITCH (R276): Region re-stitched as a folded torus for a torus launch. -/
  | torusRestitch (l : Nat)
  /-- REPLAY (R350): Replay a launch from its snapshot after a start condition. -/
  | replay (l : Nat)
  /-- PORT_RETRAIN (R359): Host or peer port retrains or recovers a flit; logged. -/
  | portRetrain (port : Nat) (lanes : Nat)
  /-- HOST_HNT_WRITE (R361): Host posts an HNT packet to the HNT aperture. -/
  | hostHntWrite (port : Nat) (size : Nat) (p : Packet)
  /-- HPKST_READ (R361): Non-posted read returning after earlier host packets. -/
  | hpkstRead (port : Nat)
  /-- HOST_TICKET_CLAIM (R360): Host FetchAdd to W claims a ticket. -/
  | hostTicketClaim (op : HostAtomic)
  /-- HOST_RING_WRITE (R360): Host writes a whole ring entry, word 0 last. -/
  | hostRingWrite (q : Nat) (idx : Nat) (entry : List Word)
  /-- HOST_WINDOW_ACCESS (R250): Host read or write of a window line at its home. -/
  | hostWindowAccess (line : Nat) (acc : WindowAccess)
  /-- BIRSP (R250): Host back-invalidate response lets the device access proceed. -/
  | birsp (line : Nat) (dirty : Option (BitVec 512))
  /-- FLUSH_PACKET (R363): Flush completion acknowledges earlier posted writes. -/
  | flushPacket (port : Nat)
  /-- WRITE (R372): Receive an HNT remote write. -/
  | write (p : Packet)
  /-- READ (R372): Receive an HNT remote read. -/
  | read (p : Packet)
  /-- RDRESP (R372): Receive read response data. -/
  | rdresp (p : Packet)
  /-- ATOMIC (R367): Receive a remote atomic. -/
  | atomic (p : Packet)
  /-- ATRESP (R372): Receive an atomic response. -/
  | atresp (p : Packet)
  /-- CAPXFER (R370): Receive a capability transfer offer or done. -/
  | capxfer (p : Packet)
  /-- ACK (R368): Receive a cumulative acknowledgement. -/
  | ack (p : Packet)
  /-- NAK (R368): Receive a refusal or BUSY for one sequence. -/
  | nak (p : Packet)
  /-- REVOKE (R371): Receive a revoke: set version, tombstone proxies. -/
  | revoke (p : Packet)
  /-- WRENQ (R373): Write data then append a packet to a queue. -/
  | wrenq (p : Packet)
  /-- REDBLK (R375): Reduction block handed to a gateway tile. -/
  | redblk (port : Nat) (p : Packet)
  /-- RESYNC (R369): Resynchronise sequences and resend in-doubt transfers. -/
  | resync (p : Packet)
  /-- FRZ (R371): Holder reports a proxy frozen or thawed. -/
  | frz (p : Packet)
  /-- HNT_ACK_TIMER (R368): Receiver sends an ACK at least every 2 us. -/
  | hntAckTimer (dev : Nat)
  /-- HNT_RETRANSMIT (R368): RTO expiry resends unacknowledged packets. -/
  | hntRetransmit (dev : Nat)
  /-- HNT_BEYOND_RECOVERY (R369): Timeout drops packets and keeps transfers in doubt. -/
  | hntBeyondRecovery (dev : Nat)
  /-- GET_VERSION (R377): SPDM GET_VERSION request. -/
  | getVersion (port : Nat)
  /-- GET_CAPABILITIES (R377): SPDM GET_CAPABILITIES request. -/
  | getCapabilities (port : Nat)
  /-- NEGOTIATE_ALGORITHMS (R377): SPDM NEGOTIATE_ALGORITHMS request. -/
  | negotiateAlgorithms (port : Nat)
  /-- GET_CERTIFICATE (R377): SPDM GET_CERTIFICATE request. -/
  | getCertificate (port : Nat)
  /-- CHALLENGE (R377): SPDM CHALLENGE signed with the device identity. -/
  | challenge (port : Nat) (nonce : BitVec 256)
  /-- GET_MEASUREMENTS (R377): SPDM GET_MEASUREMENTS returning three digests. -/
  | getMeasurements (port : Nat) (nonce : BitVec 256)
  /-- PORT_FAILURE (R364): A host or peer port fails, so packets move to the next trained port of the mask and SEIZEEST lanes and bound are recomputed. -/
  | portFailure (port : Nat)
  /-- QUEUE_VIEW_CREATE (R267): Supervisor code creates a read-only 16-byte COMMONS record whose words read W and RI of a user queue. -/
  | queueViewCreate (q : Nat) (asid : BitVec 14)
  /-- SINK_CREATE (R375): Supervisor code creates a peer-level EXCL write-only sink record naming an owner device and a target port. -/
  | sinkCreate (asid : BitVec 14) (dev : Nat) (port : Nat) (len : Nat)
deriving DecidableEq, Repr

end Sys2Proof
end

