-- ==== Sys2Proof/WellFormed.lean ====
section
/-!
DEFINITION. Which terms of Instr an encoding can hold (R55, R58 and the entries of the instruction chapters). An event of the device carries no encoding and is well formed.
-/
namespace Sys2Proof

/-- The checks that an entry of an instruction chapter puts on its fields; a pattern that breaks one is not an instruction (R58). -/
def Instr.wf : Instr → Bool
  | .cAddi d _ => d != 0
  | .cMov d _ => d != 0
  | .cAdd d _ => d != 0
  | .cLd _ _ _ => true
  | .cSt _ _ _ => true
  | .cBeqz _ _ => true
  | .cBnez _ _ => true
  | .cJ _ => true
  | .cYield => true
  | .cNop => true
  | .cQr _ n => n.toNat < 4
  | .cQw _ n => n.toNat < 4
  | .add _ _ _ => true
  | .sub _ _ _ => true
  | .min _ _ _ => true
  | .max _ _ _ => true
  | .minu _ _ _ => true
  | .maxu _ _ _ => true
  | .slt _ _ _ => true
  | .sltu _ _ _ => true
  | .and _ _ _ => true
  | .or _ _ _ => true
  | .xor _ _ _ => true
  | .andn _ _ _ => true
  | .sel _ _ _ => true
  | .sll _ _ _ => true
  | .srl _ _ _ => true
  | .sra _ _ _ => true
  | .clz _ _ => true
  | .ctz _ _ => true
  | .popc _ _ => true
  | .mul _ _ _ => true
  | .mulh _ _ _ => true
  | .mulhu _ _ _ => true
  | .div _ _ _ => true
  | .divu _ _ _ => true
  | .rem _ _ _ => true
  | .remu _ _ _ => true
  | .addi _ _ _ => true
  | .andi _ _ _ => true
  | .ori _ _ _ => true
  | .xori _ _ _ => true
  | .slli _ _ _ => true
  | .srli _ _ _ => true
  | .srai _ _ _ => true
  | .slti _ _ _ => true
  | .sltiu _ _ _ => true
  | .lui _ _ => true
  | .addpc _ _ => true
  | .beq _ _ _ => true
  | .bne _ _ _ => true
  | .blt _ _ _ => true
  | .bge _ _ _ => true
  | .bltu _ _ _ => true
  | .bgeu _ _ _ => true
  | .jal _ _ => true
  | .jalr _ _ _ => true
  | .fadd _ _ _ _ _ => true
  | .fsub _ _ _ _ _ => true
  | .fmul _ _ _ _ _ => true
  | .fma _ _ _ _ _ => true
  | .fdiv _ _ _ _ _ => true
  | .fsqrt _ _ _ _ => true
  | .fmin _ _ _ _ => true
  | .fmax _ _ _ _ => true
  | .fcmp _ _ _ _ _ => true
  | .fcvt _ _ _ _ _ => true
  | .fclass _ _ _ => true
  | .ldB _ _ _ _ => true
  | .ldBu _ _ _ _ => true
  | .ldH _ _ _ _ => true
  | .ldHu _ _ _ _ => true
  | .ldW _ _ _ _ => true
  | .ldWu _ _ _ _ => true
  | .ldD _ _ _ _ => true
  | .ldv _ _ _ _ => true
  | .stB _ _ _ _ => true
  | .stH _ _ _ _ => true
  | .stW _ _ _ _ => true
  | .stD _ _ _ _ => true
  | .stv _ _ _ _ => true
  | .stlW _ _ _ _ => true
  | .stlD _ _ _ _ => true
  | .amoAdd _ _ _ _ _ => true
  | .amoAnd _ _ _ _ _ => true
  | .amoOr _ _ _ _ _ => true
  | .amoXor _ _ _ _ _ => true
  | .amoMin _ _ _ _ _ => true
  | .amoMax _ _ _ _ _ => true
  | .amoMinu _ _ _ _ _ => true
  | .amoMaxu _ _ _ _ _ => true
  | .amoSwap _ _ _ _ _ => true
  | .cas d _ _ _ _ => d != 0
  | .lda _ _ _ _ => true
  | .calloc _ _ _ _ => true
  | .cfree _ => true
  | .cget _ _ _ => true
  | .cnarrow _ _ _ => true
  | .csplit _ _ _ => true
  | .cjoin _ _ => true
  | .csendKeep _ _ b => b.toNat % 2 == 0
  | .csendMove _ _ b => b.toNat % 2 == 0
  | .csendAuto _ _ b => b.toNat % 2 == 0
  | .csendDup _ _ b => b.toNat % 2 == 0
  | .crecv _ p _ _ => p.toNat % 2 == 0
  | .cwait _ _ => true
  | .crevoke _ _ => true
  | .cmarkFill _ => true
  | .cmarkFull _ => true
  | .cmarkClrp _ => true
  | .qw _ n => n.toNat < 4
  | .qr _ n => n.toNat < 4
  | .vqw _ n => 4 ≤ n.toNat
  | .vqr _ n => 4 ≤ n.toNat
  | .sfork _ _ _ => true
  | .sjoin _ => true
  | .chw _ _ => true
  | .chr _ _ => true
  | .spawn _ _ _ => true
  | .spawnat _ _ _ => true
  | .joinw => true
  | .yield => true
  | .exit => true
  | .wakeat _ => true
  | .evth _ _ => true
  | .evret => true
  | .trap _ => true
  | .eret => true
  | .rds _ n => sregListed n.toNat
  | .wrs _ n => sregListed n.toNat
  | .ewait => true
  | .bkpt => true
  | .oxl _ _ _ => true
  | .oxlH _ _ => true
  | .oxli _ _ _ => true
  | .vadd _ _ _ e _ => e.isFloat
  | .vsub _ _ _ e _ => e.isFloat
  | .vmul _ _ _ e _ => e.isFloat
  | .vfma _ _ _ e _ => e.isFloat
  | .vfnma _ _ _ e _ => e.isFloat
  | .vmin _ _ _ e _ => e.isFloat
  | .vmax _ _ _ e _ => e.isFloat
  | .vabs _ _ e _ => e.isFloat
  | .vneg _ _ e _ => e.isFloat
  | .viadd _ _ _ e _ _ => !e.isFloat
  | .visub _ _ _ e _ _ => !e.isFloat
  | .vimul _ _ _ e _ _ => !e.isFloat
  | .vimac _ _ _ e _ _ => !e.isFloat
  | .vand _ _ _ _ _ => true
  | .vor _ _ _ _ _ => true
  | .vxor _ _ _ _ _ => true
  | .vshl _ _ _ e _ => !e.isFloat
  | .vshr _ _ _ e _ => !e.isFloat
  | .vsra _ _ _ e _ => !e.isFloat
  | .vcmp d _ _ e _ u _ => decide (d.toNat < 4) && !(u && e.isFloat)
  | .vsel _ _ _ _ _ => true
  | .vmskAnd _ _ _ => true
  | .vmskOr _ _ _ => true
  | .vmskXor _ _ _ => true
  | .vmskAndn _ _ _ => true
  | .vmskMov _ _ => true
  | .vmskGet _ _ => true
  | .vrcp _ _ e _ => e.isWideFloat
  | .vrsq _ _ e _ => e.isWideFloat
  | .vsqrt _ _ e _ => e.isWideFloat
  | .vdiv _ _ _ e _ => e.isWideFloat
  | .vexp _ _ e _ => e.isWideFloat
  | .vexp2 _ _ e _ => e.isWideFloat
  | .vlog _ _ e _ => e.isWideFloat
  | .vlog2 _ _ e _ => e.isWideFloat
  | .vtanh _ _ e _ => e.isWideFloat
  | .vsigm _ _ e _ => e.isWideFloat
  | .vcvt _ _ c e _ p => p.toNat < vcvtRatio e c
  | .vqnt _ _ _ _ _ _ => true
  | .vdqn _ _ _ _ _ => true
  | .vbaddq _ _ _ _ => true
  | .vperm _ _ _ _ _ => true
  | .vbcast _ _ _ _ => true
  | .vbcastLane _ _ i e _ => i.toNat < e.lanes
  | .vbcastLaneHigh _ _ _ e _ => e.lanes == 64
  | .vreds _ _ e _ => e.isWideFloat || !e.isFloat
  | .vredmMax _ _ e _ u => !(u && e.isFloat)
  | .vredmMin _ _ e _ u => !(u && e.isFloat)
  | .vtrn _ _ e => e == .f32 || e == .i32
  | .vgx _ _ _ => true
  | .vmovi _ _ _ => true
  | .vmuli _ e _ => e.isFloat
  | .vaddi _ e _ => !e.isFloat
  | .rep _ _ _ => true
  | .oclm _ _ _ => true
  | .orel _ => true
  | .old _ _ _ _ _ _ => true
  | .mma _ _ _ _ _ _ _ => true
  | .mmap _ _ _ _ _ _ _ => true
  | .mzero _ _ => true
  | .hbind _ _ _ => true
  | .mmd _ _ _ _ _ _ _ => true
  | .hkill n l => !(l && n != 0)
  | .hstat _ _ _ => true
  | .ggeoRng d _ _ => d.toNat % 2 == 0
  | .ggeoEdge _ _ _ => true
  | .copy _ _ _ _ _ => true
  | .copyMove _ _ _ => true
  | .copyAuto _ _ _ => true
  | .copyPkt _ _ => true
  | .copym _ _ _ _ _ _ _ _ => true
  | .gath _ _ a _ _ => a.toNat < 6
  | .fill _ _ _ _ => true
  | .srinv _ _ => true
  | .srinvAll => true
  | .qapp _ _ _ _ _ => true
  | .selt _ _ _ _ _ => true
  | .halo _ _ _ _ _ => true
  | .mbox _ _ => true
  | .mboxWait _ _ => true
  | .bara h s _ b => b.toNat < 10 && (s || h == 0)
  | .barw => true
  | .bar h s _ b => b.toNat < 10 && (s || h == 0)
  | .scnb _ _ => true
  | .scnp _ _ => true
  | .scng _ _ => true
  | .scne _ _ => true
  | .scneClose _ _ => true
  | .swcr _ _ _ => true
  | .swadd _ _ _ => true
  | .swdel _ => true
  | .swnxt _ _ => true
  | .swrpt _ _ => true
  | .swset _ _ _ => true
  | .swsetNb _ _ => true
  | .swnb _ _ _ _ => true
  | .swadv _ _ => true
  | .cswdRead _ => true
  | .cswdWrite _ => true
  | .controlSpaceWrite _ _ _ => true
  | .elstatClear _ _ => true
  | .winreqGo _ => true
  | .winfree _ => true
  | .peerEpochWrite _ _ => true
  | .shareTableWrite _ _ _ => true
  | .queueTableWrite _ _ _ => true
  | .translationInvalidate _ => true
  | .seize => true
  | .resumeFromImage => true
  | .thaw => true
  | .quiesceComplete => true
  | .streamComplete => true
  | .streamPortsFailed => true
  | .restoreComplete => true
  | .restoreFailure => true
  | .reset => true
  | .configBlockLoad _ _ => true
  | .launch _ _ => true
  | .launchComplete _ => true
  | .signalPacket _ _ => true
  | .spawnPacket _ _ => true
  | .capabilityMessageConsume _ _ => true
  | .hostConsume _ _ => true
  | .queueConsume _ => true
  | .copyPacketConsume _ _ => true
  | .qappEntryWrite _ _ => true
  | .timerTick _ => true
  | .ptpStep _ => true
  | .ptpLockLost _ => true
  | .rotationBoundary _ => true
  | .shareWindowStart _ => true
  | .rampInterval _ => true
  | .budg _ => true
  | .wdog _ => true
  | .slotChoice _ _ => true
  | .dequePlaceFreed _ => true
  | .stealRound _ _ => true
  | .stealRequest _ _ _ => true
  | .stealOffer _ _ _ => true
  | .donationArrival _ _ _ _ => true
  | .waitConditionMet _ _ => true
  | .taskRequeue _ => true
  | .userEvent _ => true
  | .loadResponse _ _ => true
  | .homePerform _ => true
  | .storeBufferDrain _ _ => true
  | .walkStart _ => true
  | .walkComplete _ _ => true
  | .matrixOpStart _ => true
  | .matrixOpComplete _ _ => true
  | .oldJoin _ _ _ => true
  | .transferJoin _ _ => true
  | .engineLegError _ _ _ _ _ => true
  | .scanUnitLeg _ _ _ => true
  | .csendDelivery _ => true
  | .moveBytesLanded _ => true
  | .bounceEnqueue _ => true
  | .tileAsidClear _ _ => true
  | .channelWordArrival _ _ => true
  | .channelCreditReturn _ _ => true
  | .neighbourExitedFlag _ _ => true
  | .haloReceive _ _ => true
  | .haloReply _ _ => true
  | .haloDepositJoin _ _ => true
  | .barrierRelease _ _ => true
  | .scanCarryReady _ _ => true
  | .epochClose _ _ _ => true
  | .leavingMark _ _ => true
  | .sweepRelease _ _ => true
  | .hbmRecalibration _ _ => true
  | .alertBackoff _ _ _ => true
  | .powerMeasurement _ _ _ => true
  | .thermalReading _ _ => true
  | .clockStepChange _ _ => true
  | .ageingMonitorRead _ => true
  | .meshFlitCrcError _ _ => true
  | .meshLinkFailure _ _ _ => true
  | .torusRestitch _ => true
  | .replay _ => true
  | .portRetrain _ _ => true
  | .hostHntWrite _ _ _ => true
  | .hpkstRead _ => true
  | .hostTicketClaim _ => true
  | .hostRingWrite _ _ _ => true
  | .hostWindowAccess _ _ => true
  | .birsp _ _ => true
  | .flushPacket _ => true
  | .write _ => true
  | .read _ => true
  | .rdresp _ => true
  | .atomic _ => true
  | .atresp _ => true
  | .capxfer _ => true
  | .ack _ => true
  | .nak _ => true
  | .revoke _ => true
  | .wrenq _ => true
  | .redblk _ _ => true
  | .resync _ => true
  | .frz _ => true
  | .hntAckTimer _ => true
  | .hntRetransmit _ => true
  | .hntBeyondRecovery _ => true
  | .getVersion _ => true
  | .getCapabilities _ => true
  | .negotiateAlgorithms _ => true
  | .getCertificate _ => true
  | .challenge _ _ => true
  | .getMeasurements _ _ => true
  | .portFailure _ => true
  | .queueViewCreate _ _ => true
  | .sinkCreate _ _ _ _ => true

end Sys2Proof
end

