-- ==== Sys2Proof/Decode.lean ====
section
/-!
DEFINITION. The decoder, total on any bytes (R54 to R60 and the encoding tables of the instruction chapters), and after it the encoder.
-/
namespace Sys2Proof

/-- Bits [lo + n - 1 : lo] of a word, as a number. -/
def field (n lo w : Nat) : Nat := w / 2 ^ lo % 2 ^ n

/-- Bits [lo + n - 1 : lo] of a word, as an operand. -/
def bits (n lo w : Nat) : BitVec n := BitVec.ofNat n (w / 2 ^ lo)

/-- Bit lo of a word. -/
def flag (lo w : Nat) : Bool := field 1 lo w == 1

/-- The bits of a one-bit operand. -/
def boolNat (b : Bool) : Nat := if b then 1 else 0

/-- Rows of the table in the group compact. -/
def decodeCompact (w : Nat) : Option Instr :=
  match field 4 1 w with
  | 1 => let d := (bits 5 5 w); let i := (bits 6 10 w); if d != 0 then some (.cAddi d i) else none
  | 2 => if field 1 15 w = 0 then let d := (bits 5 5 w); let s := (bits 5 10 w); if d != 0 then some (.cMov d s) else none else none
  | 3 => if field 1 15 w = 0 then let d := (bits 5 5 w); let s := (bits 5 10 w); if d != 0 then some (.cAdd d s) else none else none
  | 4 => let d := (bits 5 5 w); let n := (bits 2 10 w); let o := (bits 4 12 w); some (.cLd d n o)
  | 5 => let s := (bits 5 5 w); let n := (bits 2 10 w); let o := (bits 4 12 w); some (.cSt s n o)
  | 6 => let s := (bits 5 5 w); let i := (bits 6 10 w); some (.cBeqz s i)
  | 7 => let s := (bits 5 5 w); let i := (bits 6 10 w); some (.cBnez s i)
  | 8 => let i := (bits 11 5 w); some (.cJ i)
  | 9 => if field 11 5 w = 0 then some .cYield else none
  | 10 => if field 11 5 w = 0 then some .cNop else none
  | 11 => if field 3 13 w = 0 then let d := (bits 5 5 w); let n := (bits 3 10 w); if n.toNat < 4 then some (.cQr d n) else none else none
  | 12 => if field 3 13 w = 0 then let s := (bits 5 5 w); let n := (bits 3 10 w); if n.toNat < 4 then some (.cQw s n) else none else none
  | _ => none
/-- Rows of the table in the group intReg. -/
def decodeIntReg (w : Nat) : Option Instr :=
  match field 7 25 w with
  | 0 => if field 3 22 w = 0 then let d := (bits 5 7 w); let a := (bits 5 12 w); let b := (bits 5 17 w); some (.add d a b) else none
  | 1 => if field 3 22 w = 0 then let d := (bits 5 7 w); let a := (bits 5 12 w); let b := (bits 5 17 w); some (.sub d a b) else none
  | 2 => if field 3 22 w = 0 then let d := (bits 5 7 w); let a := (bits 5 12 w); let b := (bits 5 17 w); some (.min d a b) else none
  | 3 => if field 3 22 w = 0 then let d := (bits 5 7 w); let a := (bits 5 12 w); let b := (bits 5 17 w); some (.max d a b) else none
  | 4 => if field 3 22 w = 0 then let d := (bits 5 7 w); let a := (bits 5 12 w); let b := (bits 5 17 w); some (.minu d a b) else none
  | 5 => if field 3 22 w = 0 then let d := (bits 5 7 w); let a := (bits 5 12 w); let b := (bits 5 17 w); some (.maxu d a b) else none
  | 6 => if field 3 22 w = 0 then let d := (bits 5 7 w); let a := (bits 5 12 w); let b := (bits 5 17 w); some (.slt d a b) else none
  | 7 => if field 3 22 w = 0 then let d := (bits 5 7 w); let a := (bits 5 12 w); let b := (bits 5 17 w); some (.sltu d a b) else none
  | 8 => if field 3 22 w = 0 then let d := (bits 5 7 w); let a := (bits 5 12 w); let b := (bits 5 17 w); some (.and d a b) else none
  | 9 => if field 3 22 w = 0 then let d := (bits 5 7 w); let a := (bits 5 12 w); let b := (bits 5 17 w); some (.or d a b) else none
  | 10 => if field 3 22 w = 0 then let d := (bits 5 7 w); let a := (bits 5 12 w); let b := (bits 5 17 w); some (.xor d a b) else none
  | 11 => if field 3 22 w = 0 then let d := (bits 5 7 w); let a := (bits 5 12 w); let b := (bits 5 17 w); some (.andn d a b) else none
  | 12 => if field 3 22 w = 0 then let d := (bits 5 7 w); let a := (bits 5 12 w); let b := (bits 5 17 w); some (.sel d a b) else none
  | 13 => if field 3 22 w = 0 then let d := (bits 5 7 w); let a := (bits 5 12 w); let b := (bits 5 17 w); some (.sll d a b) else none
  | 14 => if field 3 22 w = 0 then let d := (bits 5 7 w); let a := (bits 5 12 w); let b := (bits 5 17 w); some (.srl d a b) else none
  | 15 => if field 3 22 w = 0 then let d := (bits 5 7 w); let a := (bits 5 12 w); let b := (bits 5 17 w); some (.sra d a b) else none
  | 16 => if field 8 17 w = 0 then let d := (bits 5 7 w); let a := (bits 5 12 w); some (.clz d a) else none
  | 17 => if field 8 17 w = 0 then let d := (bits 5 7 w); let a := (bits 5 12 w); some (.ctz d a) else none
  | 18 => if field 8 17 w = 0 then let d := (bits 5 7 w); let a := (bits 5 12 w); some (.popc d a) else none
  | 19 => if field 3 22 w = 0 then let d := (bits 5 7 w); let a := (bits 5 12 w); let b := (bits 5 17 w); some (.mul d a b) else none
  | 20 => if field 3 22 w = 0 then let d := (bits 5 7 w); let a := (bits 5 12 w); let b := (bits 5 17 w); some (.mulh d a b) else none
  | 21 => if field 3 22 w = 0 then let d := (bits 5 7 w); let a := (bits 5 12 w); let b := (bits 5 17 w); some (.mulhu d a b) else none
  | 22 => if field 3 22 w = 0 then let d := (bits 5 7 w); let a := (bits 5 12 w); let b := (bits 5 17 w); some (.div d a b) else none
  | 23 => if field 3 22 w = 0 then let d := (bits 5 7 w); let a := (bits 5 12 w); let b := (bits 5 17 w); some (.divu d a b) else none
  | 24 => if field 3 22 w = 0 then let d := (bits 5 7 w); let a := (bits 5 12 w); let b := (bits 5 17 w); some (.rem d a b) else none
  | 25 => if field 3 22 w = 0 then let d := (bits 5 7 w); let a := (bits 5 12 w); let b := (bits 5 17 w); some (.remu d a b) else none
  | _ => none
/-- Rows of the table in the group intImm. -/
def decodeIntImm (w : Nat) : Option Instr :=
  match field 3 17 w with
  | 0 => let d := (bits 5 7 w); let a := (bits 5 12 w); let i := (bits 12 20 w); some (.addi d a i)
  | 1 => let d := (bits 5 7 w); let a := (bits 5 12 w); let i := (bits 12 20 w); some (.andi d a i)
  | 2 => let d := (bits 5 7 w); let a := (bits 5 12 w); let i := (bits 12 20 w); some (.ori d a i)
  | 3 => let d := (bits 5 7 w); let a := (bits 5 12 w); let i := (bits 12 20 w); some (.xori d a i)
  | 4 => if field 6 26 w = 0 then (let d := (bits 5 7 w); let a := (bits 5 12 w); let s := (bits 6 20 w); some (.slli d a s)) else if field 6 26 w = 16 then (let d := (bits 5 7 w); let a := (bits 5 12 w); let s := (bits 6 20 w); some (.srli d a s)) else if field 6 26 w = 32 then (let d := (bits 5 7 w); let a := (bits 5 12 w); let s := (bits 6 20 w); some (.srai d a s)) else none
  | 5 => let d := (bits 5 7 w); let a := (bits 5 12 w); let i := (bits 12 20 w); some (.slti d a i)
  | 6 => let d := (bits 5 7 w); let a := (bits 5 12 w); let i := (bits 12 20 w); some (.sltiu d a i)
  | _ => none
/-- Rows of the table in the group upper. -/
def decodeUpper (w : Nat) : Option Instr :=
  match field 1 12 w with
  | 0 => let d := (bits 5 7 w); let i := (bits 19 13 w); some (.lui d i)
  | 1 => let d := (bits 5 7 w); let i := (bits 19 13 w); some (.addpc d i)
  | _ => none
/-- Rows of the table in the group branch. -/
def decodeBranch (w : Nat) : Option Instr :=
  match field 3 17 w with
  | 0 => let a := (bits 5 7 w); let b := (bits 5 12 w); let i := (bits 12 20 w); some (.beq a b i)
  | 1 => let a := (bits 5 7 w); let b := (bits 5 12 w); let i := (bits 12 20 w); some (.bne a b i)
  | 2 => let a := (bits 5 7 w); let b := (bits 5 12 w); let i := (bits 12 20 w); some (.blt a b i)
  | 3 => let a := (bits 5 7 w); let b := (bits 5 12 w); let i := (bits 12 20 w); some (.bge a b i)
  | 4 => let a := (bits 5 7 w); let b := (bits 5 12 w); let i := (bits 12 20 w); some (.bltu a b i)
  | 5 => let a := (bits 5 7 w); let b := (bits 5 12 w); let i := (bits 12 20 w); some (.bgeu a b i)
  | _ => none
/-- Rows of the table in the group jal. -/
def decodeJal (w : Nat) : Option Instr :=
  let d := (bits 5 7 w); let i := (bits 20 12 w); some (.jal d i)
/-- Rows of the table in the group jalr. -/
def decodeJalr (w : Nat) : Option Instr :=
  let d := (bits 5 7 w); let a := (bits 5 12 w); let i := (bits 15 17 w); some (.jalr d a i)
/-- Rows of the table in the group scalarFp. -/
def decodeScalarFp (w : Nat) : Option Instr :=
  match field 6 26 w with
  | 0 => let d := (bits 5 7 w); let a := (bits 5 12 w); let b := (bits 5 17 w); match (Rnd.ofCode (field 3 22 w)) with | some r => (let p := (Prec.ofCode (field 1 25 w)); some (.fadd d a b r p)) | none => none
  | 1 => let d := (bits 5 7 w); let a := (bits 5 12 w); let b := (bits 5 17 w); match (Rnd.ofCode (field 3 22 w)) with | some r => (let p := (Prec.ofCode (field 1 25 w)); some (.fsub d a b r p)) | none => none
  | 2 => let d := (bits 5 7 w); let a := (bits 5 12 w); let b := (bits 5 17 w); match (Rnd.ofCode (field 3 22 w)) with | some r => (let p := (Prec.ofCode (field 1 25 w)); some (.fmul d a b r p)) | none => none
  | 3 => let d := (bits 5 7 w); let a := (bits 5 12 w); let b := (bits 5 17 w); match (Rnd.ofCode (field 3 22 w)) with | some r => (let p := (Prec.ofCode (field 1 25 w)); some (.fma d a b r p)) | none => none
  | 4 => let d := (bits 5 7 w); let a := (bits 5 12 w); let b := (bits 5 17 w); match (Rnd.ofCode (field 3 22 w)) with | some r => (let p := (Prec.ofCode (field 1 25 w)); some (.fdiv d a b r p)) | none => none
  | 5 => if field 5 17 w = 0 then let d := (bits 5 7 w); let a := (bits 5 12 w); match (Rnd.ofCode (field 3 22 w)) with | some r => (let p := (Prec.ofCode (field 1 25 w)); some (.fsqrt d a r p)) | none => none else none
  | 6 => if field 3 22 w = 0 then let d := (bits 5 7 w); let a := (bits 5 12 w); let b := (bits 5 17 w); let p := (Prec.ofCode (field 1 25 w)); some (.fmin d a b p) else none
  | 7 => if field 3 22 w = 0 then let d := (bits 5 7 w); let a := (bits 5 12 w); let b := (bits 5 17 w); let p := (Prec.ofCode (field 1 25 w)); some (.fmax d a b p) else none
  | 8 => let d := (bits 5 7 w); let a := (bits 5 12 w); let b := (bits 5 17 w); match (FCond.ofCode (field 3 22 w)) with | some c => (let p := (Prec.ofCode (field 1 25 w)); some (.fcmp d a b c p)) | none => none
  | 9 => let d := (bits 5 7 w); let a := (bits 5 12 w); match (Conv.ofCode (field 5 17 w)) with | some s => (match (Rnd.ofCode (field 3 22 w)) with | some r => (let p := (Prec.ofCode (field 1 25 w)); some (.fcvt d a s r p)) | none => none) | none => none
  | 10 => if field 8 17 w = 0 then let d := (bits 5 7 w); let a := (bits 5 12 w); let p := (Prec.ofCode (field 1 25 w)); some (.fclass d a p) else none
  | _ => none
/-- Rows of the table in the group load. -/
def decodeLoad (w : Nat) : Option Instr :=
  match field 3 21 w with
  | 0 => let d := (bits 5 7 w); let h := (bits 4 12 w); let x := (bits 5 16 w); let i := (bits 8 24 w); some (.ldB d h x i)
  | 1 => let d := (bits 5 7 w); let h := (bits 4 12 w); let x := (bits 5 16 w); let i := (bits 8 24 w); some (.ldBu d h x i)
  | 2 => let d := (bits 5 7 w); let h := (bits 4 12 w); let x := (bits 5 16 w); let i := (bits 8 24 w); some (.ldH d h x i)
  | 3 => let d := (bits 5 7 w); let h := (bits 4 12 w); let x := (bits 5 16 w); let i := (bits 8 24 w); some (.ldHu d h x i)
  | 4 => let d := (bits 5 7 w); let h := (bits 4 12 w); let x := (bits 5 16 w); let i := (bits 8 24 w); some (.ldW d h x i)
  | 5 => let d := (bits 5 7 w); let h := (bits 4 12 w); let x := (bits 5 16 w); let i := (bits 8 24 w); some (.ldWu d h x i)
  | 6 => let d := (bits 5 7 w); let h := (bits 4 12 w); let x := (bits 5 16 w); let i := (bits 8 24 w); some (.ldD d h x i)
  | 7 => let d := (bits 5 7 w); let h := (bits 4 12 w); let x := (bits 5 16 w); let i := (bits 8 24 w); some (.ldv d h x i)
  | _ => none
/-- Rows of the table in the group store. -/
def decodeStore (w : Nat) : Option Instr :=
  match field 3 21 w with
  | 0 => let s := (bits 5 7 w); let h := (bits 4 12 w); let x := (bits 5 16 w); let i := (bits 8 24 w); some (.stB s h x i)
  | 1 => let s := (bits 5 7 w); let h := (bits 4 12 w); let x := (bits 5 16 w); let i := (bits 8 24 w); some (.stH s h x i)
  | 2 => let s := (bits 5 7 w); let h := (bits 4 12 w); let x := (bits 5 16 w); let i := (bits 8 24 w); some (.stW s h x i)
  | 3 => let s := (bits 5 7 w); let h := (bits 4 12 w); let x := (bits 5 16 w); let i := (bits 8 24 w); some (.stD s h x i)
  | 4 => let s := (bits 5 7 w); let h := (bits 4 12 w); let x := (bits 5 16 w); let i := (bits 8 24 w); some (.stv s h x i)
  | 5 => let s := (bits 5 7 w); let h := (bits 4 12 w); let x := (bits 5 16 w); let i := (bits 8 24 w); some (.stlW s h x i)
  | 6 => let s := (bits 5 7 w); let h := (bits 4 12 w); let x := (bits 5 16 w); let i := (bits 8 24 w); some (.stlD s h x i)
  | _ => none
/-- Rows of the table in the group atomic. -/
def decodeAtomic (w : Nat) : Option Instr :=
  match field 7 25 w with
  | 0 => if field 1 16 w = 0 then let d := (bits 5 7 w); let h := (bits 4 12 w); let b := (bits 5 17 w); let z := (Sz.ofCode (field 1 22 w)); let o := (Order.ofCode (field 2 23 w)); some (.amoAdd d h b z o) else none
  | 1 => if field 1 16 w = 0 then let d := (bits 5 7 w); let h := (bits 4 12 w); let b := (bits 5 17 w); let z := (Sz.ofCode (field 1 22 w)); let o := (Order.ofCode (field 2 23 w)); some (.amoAnd d h b z o) else none
  | 2 => if field 1 16 w = 0 then let d := (bits 5 7 w); let h := (bits 4 12 w); let b := (bits 5 17 w); let z := (Sz.ofCode (field 1 22 w)); let o := (Order.ofCode (field 2 23 w)); some (.amoOr d h b z o) else none
  | 3 => if field 1 16 w = 0 then let d := (bits 5 7 w); let h := (bits 4 12 w); let b := (bits 5 17 w); let z := (Sz.ofCode (field 1 22 w)); let o := (Order.ofCode (field 2 23 w)); some (.amoXor d h b z o) else none
  | 4 => if field 1 16 w = 0 then let d := (bits 5 7 w); let h := (bits 4 12 w); let b := (bits 5 17 w); let z := (Sz.ofCode (field 1 22 w)); let o := (Order.ofCode (field 2 23 w)); some (.amoMin d h b z o) else none
  | 5 => if field 1 16 w = 0 then let d := (bits 5 7 w); let h := (bits 4 12 w); let b := (bits 5 17 w); let z := (Sz.ofCode (field 1 22 w)); let o := (Order.ofCode (field 2 23 w)); some (.amoMax d h b z o) else none
  | 6 => if field 1 16 w = 0 then let d := (bits 5 7 w); let h := (bits 4 12 w); let b := (bits 5 17 w); let z := (Sz.ofCode (field 1 22 w)); let o := (Order.ofCode (field 2 23 w)); some (.amoMinu d h b z o) else none
  | 7 => if field 1 16 w = 0 then let d := (bits 5 7 w); let h := (bits 4 12 w); let b := (bits 5 17 w); let z := (Sz.ofCode (field 1 22 w)); let o := (Order.ofCode (field 2 23 w)); some (.amoMaxu d h b z o) else none
  | 8 => if field 1 16 w = 0 then let d := (bits 5 7 w); let h := (bits 4 12 w); let b := (bits 5 17 w); let z := (Sz.ofCode (field 1 22 w)); let o := (Order.ofCode (field 2 23 w)); some (.amoSwap d h b z o) else none
  | 9 => if field 1 16 w = 0 ∧ field 1 7 w = 0 then let d := (bits 4 8 w); let h := (bits 4 12 w); let b := (bits 5 17 w); let z := (Sz.ofCode (field 1 22 w)); let o := (Order.ofCode (field 2 23 w)); if d != 0 then some (.cas d h b z o) else none else none
  | 10 => if field 2 23 w = 0 ∧ field 1 16 w = 0 then let d := (bits 5 7 w); let h := (bits 4 12 w); let b := (bits 5 17 w); let z := (Sz.ofCode (field 1 22 w)); some (.lda d h b z) else none
  | _ => none
/-- Rows of the table in the group capability. -/
def decodeCapability (w : Nat) : Option Instr :=
  match field 7 25 w with
  | 0 => if field 1 24 w = 0 ∧ field 1 11 w = 0 then let d := (bits 4 7 w); let a := (bits 5 12 w); let b := (bits 5 17 w); match (ALevel.ofCode (field 2 22 w)) with | some l => (some (.calloc d a b l)) | none => none else none
  | 1 => if field 9 16 w = 0 ∧ field 5 7 w = 0 then let a := (bits 4 12 w); some (.cfree a) else none
  | 2 => if field 6 16 w = 0 then let d := (bits 5 7 w); let a := (bits 4 12 w); let s := (bits 3 22 w); some (.cget d a s) else none
  | 3 => if field 4 21 w = 0 ∧ field 1 16 w = 0 ∧ field 1 11 w = 0 then let d := (bits 4 7 w); let a := (bits 4 12 w); let m := (bits 4 17 w); some (.cnarrow d a m) else none
  | 4 => if field 3 22 w = 0 ∧ field 1 16 w = 0 ∧ field 1 11 w = 0 then let d := (bits 4 7 w); let a := (bits 4 12 w); let b := (bits 5 17 w); some (.csplit d a b) else none
  | 5 => if field 4 21 w = 0 ∧ field 1 16 w = 0 ∧ field 5 7 w = 0 then let a := (bits 4 12 w); let b := (bits 4 17 w); some (.cjoin a b) else none
  | 6 => if field 3 22 w = 0 ∧ field 1 16 w = 0 then (let d := (bits 5 7 w); let a := (bits 4 12 w); let b := (bits 5 17 w); if b.toNat % 2 == 0 then some (.csendKeep d a b) else none) else if field 3 22 w = 1 ∧ field 1 16 w = 0 then (let d := (bits 5 7 w); let a := (bits 4 12 w); let b := (bits 5 17 w); if b.toNat % 2 == 0 then some (.csendMove d a b) else none) else if field 3 22 w = 2 ∧ field 1 16 w = 0 then (let d := (bits 5 7 w); let a := (bits 4 12 w); let b := (bits 5 17 w); if b.toNat % 2 == 0 then some (.csendAuto d a b) else none) else if field 3 22 w = 3 ∧ field 1 16 w = 0 then (let d := (bits 5 7 w); let a := (bits 4 12 w); let b := (bits 5 17 w); if b.toNat % 2 == 0 then some (.csendDup d a b) else none) else none
  | 7 => if field 1 24 w = 0 ∧ field 1 11 w = 0 then let d := (bits 4 7 w); let p := (bits 5 12 w); let s := (bits 5 17 w); let o := (RecvOpt.ofCode (field 2 22 w)); if p.toNat % 2 == 0 then some (.crecv d p s o) else none else none
  | 8 => if field 1 24 w = 0 ∧ field 6 16 w = 0 ∧ field 5 7 w = 0 then let a := (bits 4 12 w); match (WaitCond.ofCode (field 2 22 w)) with | some c => (some (.cwait a c)) | none => none else none
  | 9 => if field 2 23 w = 0 ∧ field 6 16 w = 0 ∧ field 5 7 w = 0 then let a := (bits 4 12 w); let m := (RevMode.ofCode (field 1 22 w)); some (.crevoke a m) else none
  | 10 => if field 9 16 w = 0 ∧ field 5 7 w = 0 then (let a := (bits 4 12 w); some (.cmarkFill a)) else if field 9 16 w = 64 ∧ field 5 7 w = 0 then (let a := (bits 4 12 w); some (.cmarkFull a)) else if field 9 16 w = 128 ∧ field 5 7 w = 0 then (let a := (bits 4 12 w); some (.cmarkClrp a)) else none
  | _ => none
/-- Rows of the table in the group queue. -/
def decodeQueue (w : Nat) : Option Instr :=
  match field 7 25 w with
  | 0 => if field 5 20 w = 0 ∧ field 5 7 w = 0 then let s := (bits 5 12 w); let n := (bits 3 17 w); if n.toNat < 4 then some (.qw s n) else none else none
  | 1 => if field 5 20 w = 0 ∧ field 5 12 w = 0 then let d := (bits 5 7 w); let n := (bits 3 17 w); if n.toNat < 4 then some (.qr d n) else none else none
  | 2 => if field 5 20 w = 0 ∧ field 5 7 w = 0 then let s := (bits 5 12 w); let n := (bits 3 17 w); if 4 ≤ n.toNat then some (.vqw s n) else none else none
  | 3 => if field 5 20 w = 0 ∧ field 5 12 w = 0 then let d := (bits 5 7 w); let n := (bits 3 17 w); if 4 ≤ n.toNat then some (.vqr d n) else none else none
  | 4 => if field 3 22 w = 0 then let d := (bits 5 7 w); let a := (bits 5 12 w); let b := (bits 5 17 w); some (.sfork d a b) else none
  | 5 => if field 8 17 w = 0 ∧ field 5 7 w = 0 then let a := (bits 5 12 w); some (.sjoin a) else none
  | 6 => if field 6 19 w = 0 ∧ field 5 7 w = 0 then let s := (bits 5 12 w); let r := (Dir.ofCode (field 2 17 w)); some (.chw s r) else none
  | 7 => if field 6 19 w = 0 ∧ field 5 12 w = 0 then let d := (bits 5 7 w); let r := (Dir.ofCode (field 2 17 w)); some (.chr d r) else none
  | _ => none
/-- Rows of the table in the group taskControl. -/
def decodeTaskControl (w : Nat) : Option Instr :=
  match field 7 25 w with
  | 0 => if field 3 22 w = 0 ∧ field 1 16 w = 0 then let d := (bits 5 7 w); let a := (bits 4 12 w); let b := (bits 5 17 w); some (.spawn d a b) else none
  | 1 => if field 3 22 w = 0 ∧ field 1 16 w = 0 then let d := (bits 5 7 w); let a := (bits 4 12 w); let b := (bits 5 17 w); some (.spawnat d a b) else none
  | 2 => if field 18 7 w = 0 then some .joinw else none
  | 3 => if field 18 7 w = 0 then some .yield else none
  | 4 => if field 18 7 w = 0 then some .exit else none
  | 5 => if field 8 17 w = 0 ∧ field 5 7 w = 0 then let a := (bits 5 12 w); some (.wakeat a) else none
  | _ => none
/-- Rows of the table in the group system. -/
def decodeSystem (w : Nat) : Option Instr :=
  match field 7 25 w with
  | 0 => if field 3 22 w = 0 ∧ field 5 7 w = 0 then let a := (bits 5 12 w); let b := (bits 5 17 w); some (.evth a b) else none
  | 1 => if field 18 7 w = 0 then some .evret else none
  | 2 => if field 8 17 w = 0 ∧ field 5 7 w = 0 then let a := (bits 5 12 w); some (.trap a) else none
  | 3 => if field 18 7 w = 0 then some .eret else none
  | 4 => if field 1 24 w = 0 then let d := (bits 5 7 w); let n := (bits 12 12 w); if sregListed n.toNat then some (.rds d n) else none else none
  | 5 => if field 1 24 w = 0 then let s := (bits 5 7 w); let n := (bits 12 12 w); if sregListed n.toNat then some (.wrs s n) else none else none
  | 6 => if field 18 7 w = 0 then some .ewait else none
  | 7 => if field 18 7 w = 0 then some .bkpt else none
  | _ => none
/-- Rows of the table in the group operandExt. -/
def decodeOperandExt (w : Nat) : Option Instr :=
  match field 2 10 w with
  | 0 => if field 1 16 w = 0 then let n := (bits 3 7 w); let h := (bits 4 12 w); let i := (bits 15 17 w); some (.oxl n h i) else none
  | 1 => if field 16 16 w = 0 then let n := (bits 3 7 w); let h := (bits 4 12 w); some (.oxlH n h) else none
  | 2 => let n := (bits 3 7 w); let a := (bits 5 12 w); let i := (bits 15 17 w); some (.oxli n a i)
  | _ => none
/-- Rows of the table in the group vecFp. -/
def decodeVecFp (w : Nat) : Option Instr :=
  match field 4 28 w with
  | 0 => if field 1 27 w = 0 then let d := (bits 5 7 w); let a := (bits 5 12 w); let b := (bits 5 17 w); let e := (Et.ofCode (field 3 22 w)); let k := (bits 2 25 w); if e.isFloat then some (.vadd d a b e k) else none else none
  | 1 => if field 1 27 w = 0 then let d := (bits 5 7 w); let a := (bits 5 12 w); let b := (bits 5 17 w); let e := (Et.ofCode (field 3 22 w)); let k := (bits 2 25 w); if e.isFloat then some (.vsub d a b e k) else none else none
  | 2 => if field 1 27 w = 0 then let d := (bits 5 7 w); let a := (bits 5 12 w); let b := (bits 5 17 w); let e := (Et.ofCode (field 3 22 w)); let k := (bits 2 25 w); if e.isFloat then some (.vmul d a b e k) else none else none
  | 3 => if field 1 27 w = 0 then let d := (bits 5 7 w); let a := (bits 5 12 w); let b := (bits 5 17 w); let e := (Et.ofCode (field 3 22 w)); let k := (bits 2 25 w); if e.isFloat then some (.vfma d a b e k) else none else none
  | 4 => if field 1 27 w = 0 then let d := (bits 5 7 w); let a := (bits 5 12 w); let b := (bits 5 17 w); let e := (Et.ofCode (field 3 22 w)); let k := (bits 2 25 w); if e.isFloat then some (.vfnma d a b e k) else none else none
  | 5 => if field 1 27 w = 0 then let d := (bits 5 7 w); let a := (bits 5 12 w); let b := (bits 5 17 w); let e := (Et.ofCode (field 3 22 w)); let k := (bits 2 25 w); if e.isFloat then some (.vmin d a b e k) else none else none
  | 6 => if field 1 27 w = 0 then let d := (bits 5 7 w); let a := (bits 5 12 w); let b := (bits 5 17 w); let e := (Et.ofCode (field 3 22 w)); let k := (bits 2 25 w); if e.isFloat then some (.vmax d a b e k) else none else none
  | 7 => if field 1 27 w = 0 ∧ field 5 17 w = 0 then let d := (bits 5 7 w); let a := (bits 5 12 w); let e := (Et.ofCode (field 3 22 w)); let k := (bits 2 25 w); if e.isFloat then some (.vabs d a e k) else none else none
  | 8 => if field 1 27 w = 0 ∧ field 5 17 w = 0 then let d := (bits 5 7 w); let a := (bits 5 12 w); let e := (Et.ofCode (field 3 22 w)); let k := (bits 2 25 w); if e.isFloat then some (.vneg d a e k) else none else none
  | _ => none
/-- Rows of the table in the group vecInt. -/
def decodeVecInt (w : Nat) : Option Instr :=
  match field 4 28 w with
  | 0 => let d := (bits 5 7 w); let a := (bits 5 12 w); let b := (bits 5 17 w); let e := (Et.ofCode (field 3 22 w)); let k := (bits 2 25 w); let s := (flag 27 w); if !e.isFloat then some (.viadd d a b e k s) else none
  | 1 => let d := (bits 5 7 w); let a := (bits 5 12 w); let b := (bits 5 17 w); let e := (Et.ofCode (field 3 22 w)); let k := (bits 2 25 w); let s := (flag 27 w); if !e.isFloat then some (.visub d a b e k s) else none
  | 2 => let d := (bits 5 7 w); let a := (bits 5 12 w); let b := (bits 5 17 w); let e := (Et.ofCode (field 3 22 w)); let k := (bits 2 25 w); let s := (flag 27 w); if !e.isFloat then some (.vimul d a b e k s) else none
  | 3 => let d := (bits 5 7 w); let a := (bits 5 12 w); let b := (bits 5 17 w); let e := (Et.ofCode (field 3 22 w)); let k := (bits 2 25 w); let s := (flag 27 w); if !e.isFloat then some (.vimac d a b e k s) else none
  | _ => none
/-- Rows of the table in the group vecLogic. -/
def decodeVecLogic (w : Nat) : Option Instr :=
  match field 4 28 w with
  | 0 => if field 1 27 w = 0 then let d := (bits 5 7 w); let a := (bits 5 12 w); let b := (bits 5 17 w); let e := (Et.ofCode (field 3 22 w)); let k := (bits 2 25 w); some (.vand d a b e k) else none
  | 1 => if field 1 27 w = 0 then let d := (bits 5 7 w); let a := (bits 5 12 w); let b := (bits 5 17 w); let e := (Et.ofCode (field 3 22 w)); let k := (bits 2 25 w); some (.vor d a b e k) else none
  | 2 => if field 1 27 w = 0 then let d := (bits 5 7 w); let a := (bits 5 12 w); let b := (bits 5 17 w); let e := (Et.ofCode (field 3 22 w)); let k := (bits 2 25 w); some (.vxor d a b e k) else none
  | 3 => if field 1 27 w = 0 then let d := (bits 5 7 w); let a := (bits 5 12 w); let b := (bits 5 17 w); let e := (Et.ofCode (field 3 22 w)); let k := (bits 2 25 w); if !e.isFloat then some (.vshl d a b e k) else none else none
  | 4 => if field 1 27 w = 0 then let d := (bits 5 7 w); let a := (bits 5 12 w); let b := (bits 5 17 w); let e := (Et.ofCode (field 3 22 w)); let k := (bits 2 25 w); if !e.isFloat then some (.vshr d a b e k) else none else none
  | 5 => if field 1 27 w = 0 then let d := (bits 5 7 w); let a := (bits 5 12 w); let b := (bits 5 17 w); let e := (Et.ofCode (field 3 22 w)); let k := (bits 2 25 w); if !e.isFloat then some (.vsra d a b e k) else none else none
  | _ => none
/-- Rows of the table in the group vecCompare. -/
def decodeVecCompare (w : Nat) : Option Instr :=
  match field 4 28 w with
  | 0 => let d := (bits 5 7 w); let a := (bits 5 12 w); let b := (bits 5 17 w); let e := (Et.ofCode (field 3 22 w)); let k := (bits 2 25 w); let u := (flag 27 w); match (VCond.ofCode (field 4 28 w)) with | some c => (if field 3 9 w = 0 ∧ !(u && e.isFloat) then some (.vcmp d a b e k u c) else none) | none => none
  | 1 => let d := (bits 5 7 w); let a := (bits 5 12 w); let b := (bits 5 17 w); let e := (Et.ofCode (field 3 22 w)); let k := (bits 2 25 w); let u := (flag 27 w); match (VCond.ofCode (field 4 28 w)) with | some c => (if field 3 9 w = 0 ∧ !(u && e.isFloat) then some (.vcmp d a b e k u c) else none) | none => none
  | 2 => let d := (bits 5 7 w); let a := (bits 5 12 w); let b := (bits 5 17 w); let e := (Et.ofCode (field 3 22 w)); let k := (bits 2 25 w); let u := (flag 27 w); match (VCond.ofCode (field 4 28 w)) with | some c => (if field 3 9 w = 0 ∧ !(u && e.isFloat) then some (.vcmp d a b e k u c) else none) | none => none
  | 3 => let d := (bits 5 7 w); let a := (bits 5 12 w); let b := (bits 5 17 w); let e := (Et.ofCode (field 3 22 w)); let k := (bits 2 25 w); let u := (flag 27 w); match (VCond.ofCode (field 4 28 w)) with | some c => (if field 3 9 w = 0 ∧ !(u && e.isFloat) then some (.vcmp d a b e k u c) else none) | none => none
  | 4 => let d := (bits 5 7 w); let a := (bits 5 12 w); let b := (bits 5 17 w); let e := (Et.ofCode (field 3 22 w)); let k := (bits 2 25 w); let u := (flag 27 w); match (VCond.ofCode (field 4 28 w)) with | some c => (if field 3 9 w = 0 ∧ !(u && e.isFloat) then some (.vcmp d a b e k u c) else none) | none => none
  | 5 => let d := (bits 5 7 w); let a := (bits 5 12 w); let b := (bits 5 17 w); let e := (Et.ofCode (field 3 22 w)); let k := (bits 2 25 w); let u := (flag 27 w); match (VCond.ofCode (field 4 28 w)) with | some c => (if field 3 9 w = 0 ∧ !(u && e.isFloat) then some (.vcmp d a b e k u c) else none) | none => none
  | 6 => if field 1 27 w = 0 then let d := (bits 5 7 w); let a := (bits 5 12 w); let b := (bits 5 17 w); let e := (Et.ofCode (field 3 22 w)); let k := (bits 2 25 w); some (.vsel d a b e k) else none
  | 7 => if field 9 19 w = 0 ∧ field 3 14 w = 0 ∧ field 3 9 w = 0 then let d := (bits 2 7 w); let a := (bits 2 12 w); let b := (bits 2 17 w); some (.vmskAnd d a b) else none
  | 8 => if field 9 19 w = 0 ∧ field 3 14 w = 0 ∧ field 3 9 w = 0 then let d := (bits 2 7 w); let a := (bits 2 12 w); let b := (bits 2 17 w); some (.vmskOr d a b) else none
  | 9 => if field 9 19 w = 0 ∧ field 3 14 w = 0 ∧ field 3 9 w = 0 then let d := (bits 2 7 w); let a := (bits 2 12 w); let b := (bits 2 17 w); some (.vmskXor d a b) else none
  | 10 => if field 9 19 w = 0 ∧ field 3 14 w = 0 ∧ field 3 9 w = 0 then let d := (bits 2 7 w); let a := (bits 2 12 w); let b := (bits 2 17 w); some (.vmskAndn d a b) else none
  | 11 => if field 11 17 w = 0 ∧ field 3 9 w = 0 then let d := (bits 2 7 w); let a := (bits 5 12 w); some (.vmskMov d a) else none
  | 12 => if field 14 14 w = 0 then let d := (bits 5 7 w); let a := (bits 2 12 w); some (.vmskGet d a) else none
  | _ => none
/-- Rows of the table in the group vecSpecial. -/
def decodeVecSpecial (w : Nat) : Option Instr :=
  match field 4 28 w with
  | 0 => if field 1 27 w = 0 ∧ field 5 17 w = 0 then let d := (bits 5 7 w); let a := (bits 5 12 w); let e := (Et.ofCode (field 3 22 w)); let k := (bits 2 25 w); if e.isWideFloat then some (.vrcp d a e k) else none else none
  | 1 => if field 1 27 w = 0 ∧ field 5 17 w = 0 then let d := (bits 5 7 w); let a := (bits 5 12 w); let e := (Et.ofCode (field 3 22 w)); let k := (bits 2 25 w); if e.isWideFloat then some (.vrsq d a e k) else none else none
  | 2 => if field 1 27 w = 0 ∧ field 5 17 w = 0 then let d := (bits 5 7 w); let a := (bits 5 12 w); let e := (Et.ofCode (field 3 22 w)); let k := (bits 2 25 w); if e.isWideFloat then some (.vsqrt d a e k) else none else none
  | 3 => if field 1 27 w = 0 then let d := (bits 5 7 w); let a := (bits 5 12 w); let b := (bits 5 17 w); let e := (Et.ofCode (field 3 22 w)); let k := (bits 2 25 w); if e.isWideFloat then some (.vdiv d a b e k) else none else none
  | 4 => if field 1 27 w = 0 ∧ field 5 17 w = 0 then let d := (bits 5 7 w); let a := (bits 5 12 w); let e := (Et.ofCode (field 3 22 w)); let k := (bits 2 25 w); if e.isWideFloat then some (.vexp d a e k) else none else none
  | 5 => if field 1 27 w = 0 ∧ field 5 17 w = 0 then let d := (bits 5 7 w); let a := (bits 5 12 w); let e := (Et.ofCode (field 3 22 w)); let k := (bits 2 25 w); if e.isWideFloat then some (.vexp2 d a e k) else none else none
  | 6 => if field 1 27 w = 0 ∧ field 5 17 w = 0 then let d := (bits 5 7 w); let a := (bits 5 12 w); let e := (Et.ofCode (field 3 22 w)); let k := (bits 2 25 w); if e.isWideFloat then some (.vlog d a e k) else none else none
  | 7 => if field 1 27 w = 0 ∧ field 5 17 w = 0 then let d := (bits 5 7 w); let a := (bits 5 12 w); let e := (Et.ofCode (field 3 22 w)); let k := (bits 2 25 w); if e.isWideFloat then some (.vlog2 d a e k) else none else none
  | 8 => if field 1 27 w = 0 ∧ field 5 17 w = 0 then let d := (bits 5 7 w); let a := (bits 5 12 w); let e := (Et.ofCode (field 3 22 w)); let k := (bits 2 25 w); if e.isWideFloat then some (.vtanh d a e k) else none else none
  | 9 => if field 1 27 w = 0 ∧ field 5 17 w = 0 then let d := (bits 5 7 w); let a := (bits 5 12 w); let e := (Et.ofCode (field 3 22 w)); let k := (bits 2 25 w); if e.isWideFloat then some (.vsigm d a e k) else none else none
  | _ => none
/-- Rows of the table in the group vecConvert. -/
def decodeVecConvert (w : Nat) : Option Instr :=
  match field 4 28 w with
  | 0 => if field 2 25 w = 0 ∧ field 2 20 w = 0 then let d := (bits 5 7 w); let a := (bits 5 12 w); let c := (Et.ofCode (field 3 17 w)); let e := (Et.ofCode (field 3 22 w)); let s := (flag 27 w); let p := (bits 2 28 w); if p.toNat < vcvtRatio e c then some (.vcvt d a c e s p) else none else none
  | 1 => if field 2 25 w = 0 ∧ field 2 20 w = 0 then let d := (bits 5 7 w); let a := (bits 5 12 w); let c := (Et.ofCode (field 3 17 w)); let e := (Et.ofCode (field 3 22 w)); let s := (flag 27 w); let p := (bits 2 28 w); if p.toNat < vcvtRatio e c then some (.vcvt d a c e s p) else none else none
  | 2 => if field 2 25 w = 0 ∧ field 2 20 w = 0 then let d := (bits 5 7 w); let a := (bits 5 12 w); let c := (Et.ofCode (field 3 17 w)); let e := (Et.ofCode (field 3 22 w)); let s := (flag 27 w); let p := (bits 2 28 w); if p.toNat < vcvtRatio e c then some (.vcvt d a c e s p) else none else none
  | 3 => if field 2 25 w = 0 ∧ field 2 20 w = 0 then let d := (bits 5 7 w); let a := (bits 5 12 w); let c := (Et.ofCode (field 3 17 w)); let e := (Et.ofCode (field 3 22 w)); let s := (flag 27 w); let p := (bits 2 28 w); if p.toNat < vcvtRatio e c then some (.vcvt d a c e s p) else none else none
  | 4 => let d := (bits 5 7 w); let a := (bits 5 12 w); let p := (bits 5 17 w); let e := (Et.ofCode (field 3 22 w)); let k := (bits 2 25 w); let s := (flag 27 w); some (.vqnt d a p e k s)
  | 5 => if field 1 27 w = 0 then let d := (bits 5 7 w); let a := (bits 5 12 w); let p := (bits 5 17 w); let e := (Et.ofCode (field 3 22 w)); let k := (bits 2 25 w); some (.vdqn d a p e k) else none
  | 6 => if field 1 27 w = 0 ∧ field 3 22 w = 0 then let d := (bits 5 7 w); let a := (bits 5 12 w); let b := (bits 5 17 w); let k := (bits 2 25 w); some (.vbaddq d a b k) else none
  | _ => none
/-- Rows of the table in the group vecPermute. -/
def decodeVecPermute (w : Nat) : Option Instr :=
  match field 4 28 w with
  | 0 => if field 1 27 w = 0 then let d := (bits 5 7 w); let a := (bits 5 12 w); let b := (bits 5 17 w); let e := (Et.ofCode (field 3 22 w)); let k := (bits 2 25 w); some (.vperm d a b e k) else none
  | 1 => if field 1 27 w = 0 ∧ field 5 17 w = 0 then (let d := (bits 5 7 w); let a := (bits 5 12 w); let e := (Et.ofCode (field 3 22 w)); let k := (bits 2 25 w); some (.vbcast d a e k)) else if field 1 27 w = 1 then (let d := (bits 5 7 w); let a := (bits 5 12 w); let i := (bits 5 17 w); let e := (Et.ofCode (field 3 22 w)); let k := (bits 2 25 w); if i.toNat < e.lanes then some (.vbcastLane d a i e k) else none) else none
  | 2 => if field 1 27 w = 0 ∧ field 5 17 w = 0 then let d := (bits 5 7 w); let a := (bits 5 12 w); let e := (Et.ofCode (field 3 22 w)); let k := (bits 2 25 w); if e.isWideFloat || !e.isFloat then some (.vreds d a e k) else none else none
  | 3 => if field 5 17 w = 0 then let d := (bits 5 7 w); let a := (bits 5 12 w); let e := (Et.ofCode (field 3 22 w)); let k := (bits 2 25 w); let u := (flag 27 w); if !(u && e.isFloat) then some (.vredmMax d a e k u) else none else none
  | 4 => if field 5 17 w = 0 then let d := (bits 5 7 w); let a := (bits 5 12 w); let e := (Et.ofCode (field 3 22 w)); let k := (bits 2 25 w); let u := (flag 27 w); if !(u && e.isFloat) then some (.vredmMin d a e k u) else none else none
  | 5 => if field 3 25 w = 0 ∧ field 5 17 w = 0 ∧ field 4 12 w = 0 ∧ field 4 7 w = 0 then let d := (AccT.ofCode (field 1 11 w)); let a := (AccT.ofCode (field 1 16 w)); let e := (Et.ofCode (field 3 22 w)); if e == .f32 || e == .i32 then some (.vtrn d a e) else none else none
  | 6 => if field 9 19 w = 0 then let d := (bits 5 7 w); let a := (bits 5 12 w); match (GDir.ofCode (field 2 17 w)) with | some r => (some (.vgx d a r)) | none => none else none
  | 7 => if field 1 27 w = 1 then let d := (bits 5 7 w); let a := (bits 5 12 w); let i := (bits 5 17 w); let e := (Et.ofCode (field 3 22 w)); let k := (bits 2 25 w); if e.lanes == 64 then some (.vbcastLaneHigh d a i e k) else none else none
  | _ => none
/-- Rows of the table in the group vecImm. -/
def decodeVecImm (w : Nat) : Option Instr :=
  match field 1 15 w with
  | 0 => let d := (bits 5 7 w); let e := (Et.ofCode (field 3 12 w)); let i := (bits 16 16 w); some (.vmovi d e i)
  | 1 => let i := (bits 16 16 w); let e := (Et.ofCode (field 3 12 w)); let d := (bits 5 7 w); if e.isFloat then some (.vmuli d e i) else some (.vaddi d e i)
  | _ => none
/-- Rows of the table in the group operandSlot. -/
def decodeOperandSlot (w : Nat) : Option Instr :=
  match field 5 27 w with
  | 0 => if field 2 25 w = 0 ∧ field 7 12 w = 0 then let d := (bits 5 7 w); let a := (bits 5 19 w); let p := (flag 24 w); some (.oclm d a p) else none
  | 1 => if field 15 12 w = 0 then let a := (bits 5 7 w); some (.orel a) else none
  | 2 => if field 4 23 w = 0 then let n := (bits 3 7 w); let k := (bits 2 10 w); let h := (bits 4 12 w); let a := (bits 3 16 w); let s := (Side.ofCode (field 1 19 w)); let e := (bits 3 20 w); some (.old n k h a s e) else none
  | _ => none
/-- Rows of the table in the group matrix. -/
def decodeMatrix (w : Nat) : Option Instr :=
  match field 5 27 w with
  | 0 => if field 1 20 w = 0 ∧ field 4 7 w = 0 then let d := (AccT.ofCode (field 1 11 w)); let a := (bits 2 12 w); let b := (bits 2 14 w); let e := (bits 3 16 w); let n := (flag 19 w); let t := (bits 3 21 w); let s := (bits 3 24 w); some (.mma d a b e n t s) else none
  | 1 => if field 1 20 w = 0 ∧ field 4 7 w = 0 then let d := (AccT.ofCode (field 1 11 w)); let a := (bits 2 12 w); let b := (bits 2 14 w); let e := (bits 3 16 w); let n := (flag 19 w); let t := (bits 3 21 w); let s := (bits 3 24 w); some (.mmap d a b e n t s) else none
  | 2 => if field 7 20 w = 0 ∧ field 7 12 w = 0 ∧ field 4 7 w = 0 then let d := (AccT.ofCode (field 1 11 w)); let n := (flag 19 w); some (.mzero d n) else none
  | _ => none
/-- Rows of the table in the group husk. -/
def decodeHusk (w : Nat) : Option Instr :=
  match field 5 27 w with
  | 0 => if field 8 19 w = 0 ∧ field 1 11 w = 0 then let n := (bits 4 7 w); let h := (bits 4 12 w); let c := (bits 3 16 w); some (.hbind n h c) else none
  | 1 => if field 1 20 w = 0 then let n := (bits 4 7 w); let v := (AccT.ofCode (field 1 11 w)); let h := (bits 4 12 w); let e := (bits 3 16 w); let f := (flag 19 w); let t := (bits 3 21 w); let s := (bits 3 24 w); some (.mmd n v h e f t s) else none
  | 2 => if field 15 12 w = 0 then let n := (bits 4 7 w); let l := (flag 11 w); if !(l && n != 0) then some (.hkill n l) else none else none
  | 3 => if field 3 24 w = 0 ∧ field 7 12 w = 0 then let d := (bits 5 7 w); let n := (bits 4 19 w); let b := (flag 23 w); some (.hstat d n b) else none
  | _ => none
/-- Rows of the table in the group geometry. -/
def decodeGeometry (w : Nat) : Option Instr :=
  match field 5 27 w with
  | 0 => if field 8 19 w = 0 ∧ field 2 10 w = 0 then let d := (bits 3 7 w); let h := (bits 4 12 w); let k := (bits 3 16 w); if d.toNat % 2 == 0 then some (.ggeoRng d h k) else none else none
  | 1 => if field 3 24 w = 0 ∧ field 6 10 w = 0 then let d := (bits 3 7 w); let k := (bits 3 16 w); let b := (bits 5 19 w); some (.ggeoEdge d k b) else none
  | _ => none
/-- Rows of the table in the group transferA. -/
def decodeTransferA (w : Nat) : Option Instr :=
  match field 5 27 w with
  | 0 => if field 2 24 w = 0 ∧ field 1 16 w = 0 ∧ field 1 11 w = 0 then (let d := (bits 4 7 w); let h := (bits 4 12 w); let a := (bits 2 17 w); let b := (bits 5 19 w); let n := (flag 26 w); some (.copy d h a b n)) else if field 10 16 w = 256 ∧ field 1 11 w = 0 then (let d := (bits 4 7 w); let h := (bits 4 12 w); let n := (flag 26 w); some (.copyMove d h n)) else if field 10 16 w = 512 ∧ field 1 11 w = 0 then (let d := (bits 4 7 w); let h := (bits 4 12 w); let n := (flag 26 w); some (.copyAuto d h n)) else none
  | 1 => if field 3 24 w = 0 ∧ field 3 16 w = 0 ∧ field 5 7 w = 0 then let h := (bits 4 12 w); let b := (bits 5 19 w); some (.copyPkt h b) else none
  | 2 => let n := (bits 3 7 w); let k := (bits 2 10 w); let h := (bits 4 12 w); let a := (bits 3 16 w); let s := (Side.ofCode (field 1 19 w)); let e := (bits 3 20 w); let c := (bits 3 23 w); let f := (flag 26 w); some (.copym n k h a s e c f)
  | 3 => if field 3 19 w = 0 ∧ field 1 11 w = 0 then let d := (bits 4 7 w); let h := (bits 4 12 w); let a := (bits 3 16 w); let f := (flag 22 w); let i := (bits 4 23 w); if a.toNat < 6 then some (.gath d h a f i) else none else none
  | 4 => if field 2 24 w = 0 ∧ field 6 11 w = 0 then let d := (bits 4 7 w); let a := (bits 2 17 w); let b := (bits 5 19 w); let f := (flag 26 w); some (.fill d a b f) else none
  | _ => none
/-- Rows of the table in the group transferB. -/
def decodeTransferB (w : Nat) : Option Instr :=
  match field 5 27 w with
  | 0 => if field 8 19 w = 0 ∧ field 5 7 w = 0 then (let h := (bits 4 12 w); let a := (bits 3 16 w); some (.srinv h a)) else if field 20 7 w = 524288 then (some .srinvAll) else none
  | 1 => if field 2 24 w = 0 then let d := (bits 5 7 w); let h := (bits 4 12 w); let a := (bits 3 16 w); let b := (bits 5 19 w); let f := (flag 26 w); some (.qapp d h a b f) else none
  | 2 => if field 6 19 w = 0 ∧ field 1 16 w = 0 ∧ field 1 11 w = 0 then let d := (bits 4 7 w); let h := (bits 4 12 w); let a := (bits 2 17 w); let b := (flag 25 w); let f := (flag 26 w); some (.selt d h a b f) else none
  | _ => none
/-- Rows of the table in the group cluster. -/
def decodeCluster (w : Nat) : Option Instr :=
  match field 5 27 w with
  | 0 => if field 5 21 w = 0 ∧ field 1 11 w = 0 then let p := (bits 4 7 w); let h := (bits 4 12 w); let a := (bits 3 16 w); let r := (Dir.ofCode (field 2 19 w)); let f := (flag 26 w); some (.halo p h a r f) else none
  | 1 => if field 3 24 w = 0 ∧ field 3 16 w = 0 ∧ field 5 7 w = 0 then (let h := (bits 4 12 w); let d := (bits 5 19 w); some (.mbox h d)) else if field 3 24 w = 4 ∧ field 3 16 w = 0 ∧ field 5 7 w = 0 then (let h := (bits 4 12 w); let b := (bits 5 19 w); some (.mboxWait h b)) else none
  | 2 => if field 3 16 w = 0 ∧ field 5 7 w = 0 then let h := (bits 4 12 w); let s := (flag 19 w); let a := (bits 3 20 w); let b := (bits 4 23 w); if b.toNat < 10 && (s || h == 0) then some (.bara h s a b) else none else none
  | 3 => if field 20 7 w = 0 then some .barw else none
  | 4 => if field 3 16 w = 0 ∧ field 5 7 w = 0 then let h := (bits 4 12 w); let s := (flag 19 w); let a := (bits 3 20 w); let b := (bits 4 23 w); if b.toNat < 10 && (s || h == 0) then some (.bar h s a b) else none else none
  | _ => none
/-- Rows of the table in the group scanSweep. -/
def decodeScanSweep (w : Nat) : Option Instr :=
  match field 5 27 w with
  | 0 => if field 13 12 w = 0 then let a := (bits 5 7 w); let c := (bits 2 25 w); some (.scnb a c) else none
  | 1 => if field 13 12 w = 0 then let s := (bits 5 7 w); let c := (bits 2 25 w); some (.scnp s c) else none
  | 2 => if field 13 12 w = 0 then let d := (bits 5 7 w); let c := (bits 2 25 w); some (.scng d c) else none
  | 3 => if field 13 12 w = 0 then (let d := (bits 5 7 w); let c := (bits 2 25 w); some (.scne d c)) else if field 13 12 w = 4096 then (let d := (bits 5 7 w); let c := (bits 2 25 w); some (.scneClose d c)) else none
  | 4 => if field 3 19 w = 0 ∧ field 4 12 w = 0 then let d := (bits 5 7 w); let c := (bits 3 16 w); let a := (bits 5 22 w); some (.swcr d c a) else none
  | 5 => if field 3 19 w = 0 ∧ field 4 12 w = 0 then let d := (bits 5 7 w); let c := (bits 3 16 w); let a := (bits 5 22 w); some (.swadd d c a) else none
  | 6 => if field 15 7 w = 0 then let a := (bits 5 22 w); some (.swdel a) else none
  | 7 => if field 10 12 w = 0 then let d := (bits 5 7 w); let a := (bits 5 22 w); some (.swnxt d a) else none
  | 8 => if field 10 12 w = 0 then let b := (bits 5 7 w); let a := (bits 5 22 w); some (.swrpt b a) else none
  | 9 => if field 3 19 w = 0 ∧ field 4 12 w = 0 then (let b := (bits 5 7 w); let c := (bits 3 16 w); let a := (bits 5 22 w); some (.swset b c a)) else if field 3 19 w = 1 ∧ field 9 7 w = 0 then (let c := (bits 3 16 w); let a := (bits 5 22 w); some (.swsetNb c a)) else none
  | 10 => if field 7 12 w = 0 then let d := (bits 5 7 w); let i := (flag 19 w); let k := (bits 2 20 w); let a := (bits 5 22 w); some (.swnb d i k a) else none
  | 11 => if field 10 12 w = 0 then let d := (bits 5 7 w); let a := (bits 5 22 w); some (.swadv d a) else none
  | _ => none
/-- Rows of the table in the group repeatWord. -/
def decodeRepeatWord (w : Nat) : Option Instr :=
  if field 14 18 w = 0 then let c := (bits 6 7 w); let s := (bits 3 13 w); let t := (bits 2 16 w); some (.rep c s t) else none
/-- The instruction of a 32-bit word, by its major opcode (R57). -/
def decodeWord (w : Nat) : Option Instr :=
  match w % 128 with
  | 0x03 => decodeIntReg w
  | 0x05 => decodeIntImm w
  | 0x07 => decodeUpper w
  | 0x09 => decodeBranch w
  | 0x0B => decodeJal w
  | 0x0D => decodeJalr w
  | 0x0F => decodeScalarFp w
  | 0x11 => decodeLoad w
  | 0x13 => decodeStore w
  | 0x15 => decodeAtomic w
  | 0x17 => decodeCapability w
  | 0x19 => decodeQueue w
  | 0x1B => decodeTaskControl w
  | 0x1D => decodeSystem w
  | 0x1F => decodeOperandExt w
  | 0x21 => decodeVecFp w
  | 0x23 => decodeVecInt w
  | 0x25 => decodeVecLogic w
  | 0x27 => decodeVecCompare w
  | 0x29 => decodeVecSpecial w
  | 0x2B => decodeVecConvert w
  | 0x2D => decodeVecPermute w
  | 0x2F => decodeVecImm w
  | 0x31 => decodeOperandSlot w
  | 0x33 => decodeMatrix w
  | 0x35 => decodeHusk w
  | 0x37 => decodeGeometry w
  | 0x39 => decodeTransferA w
  | 0x3B => decodeTransferB w
  | 0x3D => decodeCluster w
  | 0x3F => decodeScanSweep w
  | 0x7D => decodeRepeatWord w
  | _ => none

/-- Why bytes are no instruction: they end too early, or their halfword or word is a pattern that raises ILL (R58). -/
inductive DecodeError where
  | truncated | illegalCompact (w : Nat) | illegalWord (w : Nat)
deriving DecidableEq, Repr

/-- The number a list of bytes holds, little-endian (R3). -/
def leNat : List Byte → Nat
  | [] => 0
  | b :: bs => b.toNat + 256 * leNat bs

/-- The decoder: bit 0 of the first halfword selects a compact halfword or a word of two halfwords, low one first (R54). It answers the instruction, its length in bytes and what follows. -/
def decode (bytes : List Byte) : Except DecodeError (Instr × Nat × List Byte) :=
  match bytes with
  | b0 :: b1 :: rest =>
    if b0.toNat % 2 = 0 then
      let w := leNat [b0, b1]
      match decodeCompact w with
      | some i => .ok (i, 2, rest)
      | none => .error (.illegalCompact w)
    else
      match rest with
      | b2 :: b3 :: rest' =>
        let w := leNat [b0, b1, b2, b3]
        match decodeWord w with
        | some i => .ok (i, 4, rest')
        | none => .error (.illegalWord w)
      | _ => .error .truncated
  | _ => .error .truncated

/-- The n lowest bytes of a number, little-endian (R3). -/
def leBytes : Nat → Nat → List Byte
  | 0, _ => []
  | n + 1, w => BitVec.ofNat 8 w :: leBytes n (w / 256)

/-- The instruction the decoder reads from an instruction whose bits are w, numbered from bit 0 of the first halfword; bits above nbits are zero. -/
def decodeTableWord (nbits w : Nat) : Option Instr :=
  match decode (leBytes 4 (w % 2 ^ nbits)) with
  | .ok (i, _, _) => some i
  | .error _ => none

/-- A word with its fixed bits and its operands put at their places. -/
def fill (base : Nat) : List (Nat × Nat) → Nat
  | [] => base
  | (lo, v) :: fs => fill (base + v * 2 ^ lo) fs

/-- The word of an instruction and its width in bits, written from the encoding tables of the spec (R55, R56 and the tables of the instruction chapters). An event of the device has no word. -/
def encodeWord : Instr → Option (Nat × Nat)
  | .cAddi d i => some (16, fill 0x2 [(5, d.toNat), (10, i.toNat)])
  | .cMov d s => some (16, fill 0x4 [(5, d.toNat), (10, s.toNat)])
  | .cAdd d s => some (16, fill 0x6 [(5, d.toNat), (10, s.toNat)])
  | .cLd d n o => some (16, fill 0x8 [(5, d.toNat), (10, n.toNat), (12, o.toNat)])
  | .cSt s n o => some (16, fill 0xA [(5, s.toNat), (10, n.toNat), (12, o.toNat)])
  | .cBeqz s i => some (16, fill 0xC [(5, s.toNat), (10, i.toNat)])
  | .cBnez s i => some (16, fill 0xE [(5, s.toNat), (10, i.toNat)])
  | .cJ i => some (16, fill 0x10 [(5, i.toNat)])
  | .cYield => some (16, fill 0x12 [])
  | .cNop => some (16, fill 0x14 [])
  | .cQr d n => some (16, fill 0x16 [(5, d.toNat), (10, n.toNat)])
  | .cQw s n => some (16, fill 0x18 [(5, s.toNat), (10, n.toNat)])
  | .add d a b => some (32, fill 0x3 [(7, d.toNat), (12, a.toNat), (17, b.toNat)])
  | .sub d a b => some (32, fill 0x2000003 [(7, d.toNat), (12, a.toNat), (17, b.toNat)])
  | .min d a b => some (32, fill 0x4000003 [(7, d.toNat), (12, a.toNat), (17, b.toNat)])
  | .max d a b => some (32, fill 0x6000003 [(7, d.toNat), (12, a.toNat), (17, b.toNat)])
  | .minu d a b => some (32, fill 0x8000003 [(7, d.toNat), (12, a.toNat), (17, b.toNat)])
  | .maxu d a b => some (32, fill 0xA000003 [(7, d.toNat), (12, a.toNat), (17, b.toNat)])
  | .slt d a b => some (32, fill 0xC000003 [(7, d.toNat), (12, a.toNat), (17, b.toNat)])
  | .sltu d a b => some (32, fill 0xE000003 [(7, d.toNat), (12, a.toNat), (17, b.toNat)])
  | .and d a b => some (32, fill 0x10000003 [(7, d.toNat), (12, a.toNat), (17, b.toNat)])
  | .or d a b => some (32, fill 0x12000003 [(7, d.toNat), (12, a.toNat), (17, b.toNat)])
  | .xor d a b => some (32, fill 0x14000003 [(7, d.toNat), (12, a.toNat), (17, b.toNat)])
  | .andn d a b => some (32, fill 0x16000003 [(7, d.toNat), (12, a.toNat), (17, b.toNat)])
  | .sel d a b => some (32, fill 0x18000003 [(7, d.toNat), (12, a.toNat), (17, b.toNat)])
  | .sll d a b => some (32, fill 0x1A000003 [(7, d.toNat), (12, a.toNat), (17, b.toNat)])
  | .srl d a b => some (32, fill 0x1C000003 [(7, d.toNat), (12, a.toNat), (17, b.toNat)])
  | .sra d a b => some (32, fill 0x1E000003 [(7, d.toNat), (12, a.toNat), (17, b.toNat)])
  | .clz d a => some (32, fill 0x20000003 [(7, d.toNat), (12, a.toNat)])
  | .ctz d a => some (32, fill 0x22000003 [(7, d.toNat), (12, a.toNat)])
  | .popc d a => some (32, fill 0x24000003 [(7, d.toNat), (12, a.toNat)])
  | .mul d a b => some (32, fill 0x26000003 [(7, d.toNat), (12, a.toNat), (17, b.toNat)])
  | .mulh d a b => some (32, fill 0x28000003 [(7, d.toNat), (12, a.toNat), (17, b.toNat)])
  | .mulhu d a b => some (32, fill 0x2A000003 [(7, d.toNat), (12, a.toNat), (17, b.toNat)])
  | .div d a b => some (32, fill 0x2C000003 [(7, d.toNat), (12, a.toNat), (17, b.toNat)])
  | .divu d a b => some (32, fill 0x2E000003 [(7, d.toNat), (12, a.toNat), (17, b.toNat)])
  | .rem d a b => some (32, fill 0x30000003 [(7, d.toNat), (12, a.toNat), (17, b.toNat)])
  | .remu d a b => some (32, fill 0x32000003 [(7, d.toNat), (12, a.toNat), (17, b.toNat)])
  | .addi d a i => some (32, fill 0x5 [(7, d.toNat), (12, a.toNat), (20, i.toNat)])
  | .andi d a i => some (32, fill 0x20005 [(7, d.toNat), (12, a.toNat), (20, i.toNat)])
  | .ori d a i => some (32, fill 0x40005 [(7, d.toNat), (12, a.toNat), (20, i.toNat)])
  | .xori d a i => some (32, fill 0x60005 [(7, d.toNat), (12, a.toNat), (20, i.toNat)])
  | .slli d a s => some (32, fill 0x80005 [(7, d.toNat), (12, a.toNat), (20, s.toNat)])
  | .srli d a s => some (32, fill 0x40080005 [(7, d.toNat), (12, a.toNat), (20, s.toNat)])
  | .srai d a s => some (32, fill 0x80080005 [(7, d.toNat), (12, a.toNat), (20, s.toNat)])
  | .slti d a i => some (32, fill 0xA0005 [(7, d.toNat), (12, a.toNat), (20, i.toNat)])
  | .sltiu d a i => some (32, fill 0xC0005 [(7, d.toNat), (12, a.toNat), (20, i.toNat)])
  | .lui d i => some (32, fill 0x7 [(7, d.toNat), (13, i.toNat)])
  | .addpc d i => some (32, fill 0x1007 [(7, d.toNat), (13, i.toNat)])
  | .beq a b i => some (32, fill 0x9 [(7, a.toNat), (12, b.toNat), (20, i.toNat)])
  | .bne a b i => some (32, fill 0x20009 [(7, a.toNat), (12, b.toNat), (20, i.toNat)])
  | .blt a b i => some (32, fill 0x40009 [(7, a.toNat), (12, b.toNat), (20, i.toNat)])
  | .bge a b i => some (32, fill 0x60009 [(7, a.toNat), (12, b.toNat), (20, i.toNat)])
  | .bltu a b i => some (32, fill 0x80009 [(7, a.toNat), (12, b.toNat), (20, i.toNat)])
  | .bgeu a b i => some (32, fill 0xA0009 [(7, a.toNat), (12, b.toNat), (20, i.toNat)])
  | .jal d i => some (32, fill 0xB [(7, d.toNat), (12, i.toNat)])
  | .jalr d a i => some (32, fill 0xD [(7, d.toNat), (12, a.toNat), (17, i.toNat)])
  | .fadd d a b r p => some (32, fill 0xF [(7, d.toNat), (12, a.toNat), (17, b.toNat), (22, r.code), (25, p.code)])
  | .fsub d a b r p => some (32, fill 0x400000F [(7, d.toNat), (12, a.toNat), (17, b.toNat), (22, r.code), (25, p.code)])
  | .fmul d a b r p => some (32, fill 0x800000F [(7, d.toNat), (12, a.toNat), (17, b.toNat), (22, r.code), (25, p.code)])
  | .fma d a b r p => some (32, fill 0xC00000F [(7, d.toNat), (12, a.toNat), (17, b.toNat), (22, r.code), (25, p.code)])
  | .fdiv d a b r p => some (32, fill 0x1000000F [(7, d.toNat), (12, a.toNat), (17, b.toNat), (22, r.code), (25, p.code)])
  | .fsqrt d a r p => some (32, fill 0x1400000F [(7, d.toNat), (12, a.toNat), (22, r.code), (25, p.code)])
  | .fmin d a b p => some (32, fill 0x1800000F [(7, d.toNat), (12, a.toNat), (17, b.toNat), (25, p.code)])
  | .fmax d a b p => some (32, fill 0x1C00000F [(7, d.toNat), (12, a.toNat), (17, b.toNat), (25, p.code)])
  | .fcmp d a b c p => some (32, fill 0x2000000F [(7, d.toNat), (12, a.toNat), (17, b.toNat), (22, c.code), (25, p.code)])
  | .fcvt d a s r p => some (32, fill 0x2400000F [(7, d.toNat), (12, a.toNat), (17, s.code), (22, r.code), (25, p.code)])
  | .fclass d a p => some (32, fill 0x2800000F [(7, d.toNat), (12, a.toNat), (25, p.code)])
  | .ldB d h x i => some (32, fill 0x11 [(7, d.toNat), (12, h.toNat), (16, x.toNat), (24, i.toNat)])
  | .ldBu d h x i => some (32, fill 0x200011 [(7, d.toNat), (12, h.toNat), (16, x.toNat), (24, i.toNat)])
  | .ldH d h x i => some (32, fill 0x400011 [(7, d.toNat), (12, h.toNat), (16, x.toNat), (24, i.toNat)])
  | .ldHu d h x i => some (32, fill 0x600011 [(7, d.toNat), (12, h.toNat), (16, x.toNat), (24, i.toNat)])
  | .ldW d h x i => some (32, fill 0x800011 [(7, d.toNat), (12, h.toNat), (16, x.toNat), (24, i.toNat)])
  | .ldWu d h x i => some (32, fill 0xA00011 [(7, d.toNat), (12, h.toNat), (16, x.toNat), (24, i.toNat)])
  | .ldD d h x i => some (32, fill 0xC00011 [(7, d.toNat), (12, h.toNat), (16, x.toNat), (24, i.toNat)])
  | .ldv d h x i => some (32, fill 0xE00011 [(7, d.toNat), (12, h.toNat), (16, x.toNat), (24, i.toNat)])
  | .stB s h x i => some (32, fill 0x13 [(7, s.toNat), (12, h.toNat), (16, x.toNat), (24, i.toNat)])
  | .stH s h x i => some (32, fill 0x200013 [(7, s.toNat), (12, h.toNat), (16, x.toNat), (24, i.toNat)])
  | .stW s h x i => some (32, fill 0x400013 [(7, s.toNat), (12, h.toNat), (16, x.toNat), (24, i.toNat)])
  | .stD s h x i => some (32, fill 0x600013 [(7, s.toNat), (12, h.toNat), (16, x.toNat), (24, i.toNat)])
  | .stv s h x i => some (32, fill 0x800013 [(7, s.toNat), (12, h.toNat), (16, x.toNat), (24, i.toNat)])
  | .stlW s h x i => some (32, fill 0xA00013 [(7, s.toNat), (12, h.toNat), (16, x.toNat), (24, i.toNat)])
  | .stlD s h x i => some (32, fill 0xC00013 [(7, s.toNat), (12, h.toNat), (16, x.toNat), (24, i.toNat)])
  | .amoAdd d h b z o => some (32, fill 0x15 [(7, d.toNat), (12, h.toNat), (17, b.toNat), (22, z.code), (23, o.code)])
  | .amoAnd d h b z o => some (32, fill 0x2000015 [(7, d.toNat), (12, h.toNat), (17, b.toNat), (22, z.code), (23, o.code)])
  | .amoOr d h b z o => some (32, fill 0x4000015 [(7, d.toNat), (12, h.toNat), (17, b.toNat), (22, z.code), (23, o.code)])
  | .amoXor d h b z o => some (32, fill 0x6000015 [(7, d.toNat), (12, h.toNat), (17, b.toNat), (22, z.code), (23, o.code)])
  | .amoMin d h b z o => some (32, fill 0x8000015 [(7, d.toNat), (12, h.toNat), (17, b.toNat), (22, z.code), (23, o.code)])
  | .amoMax d h b z o => some (32, fill 0xA000015 [(7, d.toNat), (12, h.toNat), (17, b.toNat), (22, z.code), (23, o.code)])
  | .amoMinu d h b z o => some (32, fill 0xC000015 [(7, d.toNat), (12, h.toNat), (17, b.toNat), (22, z.code), (23, o.code)])
  | .amoMaxu d h b z o => some (32, fill 0xE000015 [(7, d.toNat), (12, h.toNat), (17, b.toNat), (22, z.code), (23, o.code)])
  | .amoSwap d h b z o => some (32, fill 0x10000015 [(7, d.toNat), (12, h.toNat), (17, b.toNat), (22, z.code), (23, o.code)])
  | .cas d h b z o => some (32, fill 0x12000015 [(8, d.toNat), (12, h.toNat), (17, b.toNat), (22, z.code), (23, o.code)])
  | .lda d h b z => some (32, fill 0x14000015 [(7, d.toNat), (12, h.toNat), (17, b.toNat), (22, z.code)])
  | .calloc d a b l => some (32, fill 0x17 [(7, d.toNat), (12, a.toNat), (17, b.toNat), (22, l.code)])
  | .cfree a => some (32, fill 0x2000017 [(12, a.toNat)])
  | .cget d a s => some (32, fill 0x4000017 [(7, d.toNat), (12, a.toNat), (22, s.toNat)])
  | .cnarrow d a m => some (32, fill 0x6000017 [(7, d.toNat), (12, a.toNat), (17, m.toNat)])
  | .csplit d a b => some (32, fill 0x8000017 [(7, d.toNat), (12, a.toNat), (17, b.toNat)])
  | .cjoin a b => some (32, fill 0xA000017 [(12, a.toNat), (17, b.toNat)])
  | .csendKeep d a b => some (32, fill 0xC000017 [(7, d.toNat), (12, a.toNat), (17, b.toNat)])
  | .csendMove d a b => some (32, fill 0xC400017 [(7, d.toNat), (12, a.toNat), (17, b.toNat)])
  | .csendAuto d a b => some (32, fill 0xC800017 [(7, d.toNat), (12, a.toNat), (17, b.toNat)])
  | .csendDup d a b => some (32, fill 0xCC00017 [(7, d.toNat), (12, a.toNat), (17, b.toNat)])
  | .crecv d p s o => some (32, fill 0xE000017 [(7, d.toNat), (12, p.toNat), (17, s.toNat), (22, o.code)])
  | .cwait a c => some (32, fill 0x10000017 [(12, a.toNat), (22, c.code)])
  | .crevoke a m => some (32, fill 0x12000017 [(12, a.toNat), (22, m.code)])
  | .cmarkFill a => some (32, fill 0x14000017 [(12, a.toNat)])
  | .cmarkFull a => some (32, fill 0x14400017 [(12, a.toNat)])
  | .cmarkClrp a => some (32, fill 0x14800017 [(12, a.toNat)])
  | .qw s n => some (32, fill 0x19 [(12, s.toNat), (17, n.toNat)])
  | .qr d n => some (32, fill 0x2000019 [(7, d.toNat), (17, n.toNat)])
  | .vqw s n => some (32, fill 0x4000019 [(12, s.toNat), (17, n.toNat)])
  | .vqr d n => some (32, fill 0x6000019 [(7, d.toNat), (17, n.toNat)])
  | .sfork d a b => some (32, fill 0x8000019 [(7, d.toNat), (12, a.toNat), (17, b.toNat)])
  | .sjoin a => some (32, fill 0xA000019 [(12, a.toNat)])
  | .chw s r => some (32, fill 0xC000019 [(12, s.toNat), (17, r.code)])
  | .chr d r => some (32, fill 0xE000019 [(7, d.toNat), (17, r.code)])
  | .spawn d a b => some (32, fill 0x1B [(7, d.toNat), (12, a.toNat), (17, b.toNat)])
  | .spawnat d a b => some (32, fill 0x200001B [(7, d.toNat), (12, a.toNat), (17, b.toNat)])
  | .joinw => some (32, fill 0x400001B [])
  | .yield => some (32, fill 0x600001B [])
  | .exit => some (32, fill 0x800001B [])
  | .wakeat a => some (32, fill 0xA00001B [(12, a.toNat)])
  | .evth a b => some (32, fill 0x1D [(12, a.toNat), (17, b.toNat)])
  | .evret => some (32, fill 0x200001D [])
  | .trap a => some (32, fill 0x400001D [(12, a.toNat)])
  | .eret => some (32, fill 0x600001D [])
  | .rds d n => some (32, fill 0x800001D [(7, d.toNat), (12, n.toNat)])
  | .wrs s n => some (32, fill 0xA00001D [(7, s.toNat), (12, n.toNat)])
  | .ewait => some (32, fill 0xC00001D [])
  | .bkpt => some (32, fill 0xE00001D [])
  | .oxl n h i => some (32, fill 0x1F [(7, n.toNat), (12, h.toNat), (17, i.toNat)])
  | .oxlH n h => some (32, fill 0x41F [(7, n.toNat), (12, h.toNat)])
  | .oxli n a i => some (32, fill 0x81F [(7, n.toNat), (12, a.toNat), (17, i.toNat)])
  | .vadd d a b e k => some (32, fill 0x21 [(7, d.toNat), (12, a.toNat), (17, b.toNat), (22, e.code), (25, k.toNat)])
  | .vsub d a b e k => some (32, fill 0x10000021 [(7, d.toNat), (12, a.toNat), (17, b.toNat), (22, e.code), (25, k.toNat)])
  | .vmul d a b e k => some (32, fill 0x20000021 [(7, d.toNat), (12, a.toNat), (17, b.toNat), (22, e.code), (25, k.toNat)])
  | .vfma d a b e k => some (32, fill 0x30000021 [(7, d.toNat), (12, a.toNat), (17, b.toNat), (22, e.code), (25, k.toNat)])
  | .vfnma d a b e k => some (32, fill 0x40000021 [(7, d.toNat), (12, a.toNat), (17, b.toNat), (22, e.code), (25, k.toNat)])
  | .vmin d a b e k => some (32, fill 0x50000021 [(7, d.toNat), (12, a.toNat), (17, b.toNat), (22, e.code), (25, k.toNat)])
  | .vmax d a b e k => some (32, fill 0x60000021 [(7, d.toNat), (12, a.toNat), (17, b.toNat), (22, e.code), (25, k.toNat)])
  | .vabs d a e k => some (32, fill 0x70000021 [(7, d.toNat), (12, a.toNat), (22, e.code), (25, k.toNat)])
  | .vneg d a e k => some (32, fill 0x80000021 [(7, d.toNat), (12, a.toNat), (22, e.code), (25, k.toNat)])
  | .viadd d a b e k s => some (32, fill 0x23 [(7, d.toNat), (12, a.toNat), (17, b.toNat), (22, e.code), (25, k.toNat), (27, boolNat s)])
  | .visub d a b e k s => some (32, fill 0x10000023 [(7, d.toNat), (12, a.toNat), (17, b.toNat), (22, e.code), (25, k.toNat), (27, boolNat s)])
  | .vimul d a b e k s => some (32, fill 0x20000023 [(7, d.toNat), (12, a.toNat), (17, b.toNat), (22, e.code), (25, k.toNat), (27, boolNat s)])
  | .vimac d a b e k s => some (32, fill 0x30000023 [(7, d.toNat), (12, a.toNat), (17, b.toNat), (22, e.code), (25, k.toNat), (27, boolNat s)])
  | .vand d a b e k => some (32, fill 0x25 [(7, d.toNat), (12, a.toNat), (17, b.toNat), (22, e.code), (25, k.toNat)])
  | .vor d a b e k => some (32, fill 0x10000025 [(7, d.toNat), (12, a.toNat), (17, b.toNat), (22, e.code), (25, k.toNat)])
  | .vxor d a b e k => some (32, fill 0x20000025 [(7, d.toNat), (12, a.toNat), (17, b.toNat), (22, e.code), (25, k.toNat)])
  | .vshl d a b e k => some (32, fill 0x30000025 [(7, d.toNat), (12, a.toNat), (17, b.toNat), (22, e.code), (25, k.toNat)])
  | .vshr d a b e k => some (32, fill 0x40000025 [(7, d.toNat), (12, a.toNat), (17, b.toNat), (22, e.code), (25, k.toNat)])
  | .vsra d a b e k => some (32, fill 0x50000025 [(7, d.toNat), (12, a.toNat), (17, b.toNat), (22, e.code), (25, k.toNat)])
  | .vcmp d a b e k u c => some (32, fill 0x27 [(7, d.toNat), (12, a.toNat), (17, b.toNat), (22, e.code), (25, k.toNat), (27, boolNat u), (28, c.code)])
  | .vsel d a b e k => some (32, fill 0x60000027 [(7, d.toNat), (12, a.toNat), (17, b.toNat), (22, e.code), (25, k.toNat)])
  | .vmskAnd d a b => some (32, fill 0x70000027 [(7, d.toNat), (12, a.toNat), (17, b.toNat)])
  | .vmskOr d a b => some (32, fill 0x80000027 [(7, d.toNat), (12, a.toNat), (17, b.toNat)])
  | .vmskXor d a b => some (32, fill 0x90000027 [(7, d.toNat), (12, a.toNat), (17, b.toNat)])
  | .vmskAndn d a b => some (32, fill 0xA0000027 [(7, d.toNat), (12, a.toNat), (17, b.toNat)])
  | .vmskMov d a => some (32, fill 0xB0000027 [(7, d.toNat), (12, a.toNat)])
  | .vmskGet d a => some (32, fill 0xC0000027 [(7, d.toNat), (12, a.toNat)])
  | .vrcp d a e k => some (32, fill 0x29 [(7, d.toNat), (12, a.toNat), (22, e.code), (25, k.toNat)])
  | .vrsq d a e k => some (32, fill 0x10000029 [(7, d.toNat), (12, a.toNat), (22, e.code), (25, k.toNat)])
  | .vsqrt d a e k => some (32, fill 0x20000029 [(7, d.toNat), (12, a.toNat), (22, e.code), (25, k.toNat)])
  | .vdiv d a b e k => some (32, fill 0x30000029 [(7, d.toNat), (12, a.toNat), (17, b.toNat), (22, e.code), (25, k.toNat)])
  | .vexp d a e k => some (32, fill 0x40000029 [(7, d.toNat), (12, a.toNat), (22, e.code), (25, k.toNat)])
  | .vexp2 d a e k => some (32, fill 0x50000029 [(7, d.toNat), (12, a.toNat), (22, e.code), (25, k.toNat)])
  | .vlog d a e k => some (32, fill 0x60000029 [(7, d.toNat), (12, a.toNat), (22, e.code), (25, k.toNat)])
  | .vlog2 d a e k => some (32, fill 0x70000029 [(7, d.toNat), (12, a.toNat), (22, e.code), (25, k.toNat)])
  | .vtanh d a e k => some (32, fill 0x80000029 [(7, d.toNat), (12, a.toNat), (22, e.code), (25, k.toNat)])
  | .vsigm d a e k => some (32, fill 0x90000029 [(7, d.toNat), (12, a.toNat), (22, e.code), (25, k.toNat)])
  | .vcvt d a c e s p => some (32, fill 0x2B [(7, d.toNat), (12, a.toNat), (17, c.code), (22, e.code), (27, boolNat s), (28, p.toNat)])
  | .vqnt d a p e k s => some (32, fill 0x4000002B [(7, d.toNat), (12, a.toNat), (17, p.toNat), (22, e.code), (25, k.toNat), (27, boolNat s)])
  | .vdqn d a p e k => some (32, fill 0x5000002B [(7, d.toNat), (12, a.toNat), (17, p.toNat), (22, e.code), (25, k.toNat)])
  | .vbaddq d a b k => some (32, fill 0x6000002B [(7, d.toNat), (12, a.toNat), (17, b.toNat), (25, k.toNat)])
  | .vperm d a b e k => some (32, fill 0x2D [(7, d.toNat), (12, a.toNat), (17, b.toNat), (22, e.code), (25, k.toNat)])
  | .vbcast d a e k => some (32, fill 0x1000002D [(7, d.toNat), (12, a.toNat), (22, e.code), (25, k.toNat)])
  | .vbcastLane d a i e k => some (32, fill 0x1800002D [(7, d.toNat), (12, a.toNat), (17, i.toNat), (22, e.code), (25, k.toNat)])
  | .vbcastLaneHigh d a i e k => some (32, fill 0x7800002D [(7, d.toNat), (12, a.toNat), (17, i.toNat), (22, e.code), (25, k.toNat)])
  | .vreds d a e k => some (32, fill 0x2000002D [(7, d.toNat), (12, a.toNat), (22, e.code), (25, k.toNat)])
  | .vredmMax d a e k u => some (32, fill 0x3000002D [(7, d.toNat), (12, a.toNat), (22, e.code), (25, k.toNat), (27, boolNat u)])
  | .vredmMin d a e k u => some (32, fill 0x4000002D [(7, d.toNat), (12, a.toNat), (22, e.code), (25, k.toNat), (27, boolNat u)])
  | .vtrn d a e => some (32, fill 0x5000002D [(11, d.code), (16, a.code), (22, e.code)])
  | .vgx d a r => some (32, fill 0x6000002D [(7, d.toNat), (12, a.toNat), (17, r.code)])
  | .vmovi d e i => some (32, fill 0x2F [(7, d.toNat), (12, e.code), (16, i.toNat)])
  | .vmuli d e i => some (32, fill 0x802F [(7, d.toNat), (12, e.code), (16, i.toNat)])
  | .vaddi d e i => some (32, fill 0x802F [(7, d.toNat), (12, e.code), (16, i.toNat)])
  | .rep c s t => some (32, fill 0x7D [(7, c.toNat), (13, s.toNat), (16, t.toNat)])
  | .oclm d a p => some (32, fill 0x31 [(7, d.toNat), (19, a.toNat), (24, boolNat p)])
  | .orel a => some (32, fill 0x8000031 [(7, a.toNat)])
  | .old n k h a s e => some (32, fill 0x10000031 [(7, n.toNat), (10, k.toNat), (12, h.toNat), (16, a.toNat), (19, s.code), (20, e.toNat)])
  | .mma d a b e n t s => some (32, fill 0x33 [(11, d.code), (12, a.toNat), (14, b.toNat), (16, e.toNat), (19, boolNat n), (21, t.toNat), (24, s.toNat)])
  | .mmap d a b e n t s => some (32, fill 0x8000033 [(11, d.code), (12, a.toNat), (14, b.toNat), (16, e.toNat), (19, boolNat n), (21, t.toNat), (24, s.toNat)])
  | .mzero d n => some (32, fill 0x10000033 [(11, d.code), (19, boolNat n)])
  | .hbind n h c => some (32, fill 0x35 [(7, n.toNat), (12, h.toNat), (16, c.toNat)])
  | .mmd n v h e f t s => some (32, fill 0x8000035 [(7, n.toNat), (11, v.code), (12, h.toNat), (16, e.toNat), (19, boolNat f), (21, t.toNat), (24, s.toNat)])
  | .hkill n l => some (32, fill 0x10000035 [(7, n.toNat), (11, boolNat l)])
  | .hstat d n b => some (32, fill 0x18000035 [(7, d.toNat), (19, n.toNat), (23, boolNat b)])
  | .ggeoRng d h k => some (32, fill 0x37 [(7, d.toNat), (12, h.toNat), (16, k.toNat)])
  | .ggeoEdge d k b => some (32, fill 0x8000037 [(7, d.toNat), (16, k.toNat), (19, b.toNat)])
  | .copy d h a b n => some (32, fill 0x39 [(7, d.toNat), (12, h.toNat), (17, a.toNat), (19, b.toNat), (26, boolNat n)])
  | .copyMove d h n => some (32, fill 0x1000039 [(7, d.toNat), (12, h.toNat), (26, boolNat n)])
  | .copyAuto d h n => some (32, fill 0x2000039 [(7, d.toNat), (12, h.toNat), (26, boolNat n)])
  | .copyPkt h b => some (32, fill 0x8000039 [(12, h.toNat), (19, b.toNat)])
  | .copym n k h a s e c f => some (32, fill 0x10000039 [(7, n.toNat), (10, k.toNat), (12, h.toNat), (16, a.toNat), (19, s.code), (20, e.toNat), (23, c.toNat), (26, boolNat f)])
  | .gath d h a f i => some (32, fill 0x18000039 [(7, d.toNat), (12, h.toNat), (16, a.toNat), (22, boolNat f), (23, i.toNat)])
  | .fill d a b f => some (32, fill 0x20000039 [(7, d.toNat), (17, a.toNat), (19, b.toNat), (26, boolNat f)])
  | .srinv h a => some (32, fill 0x3B [(12, h.toNat), (16, a.toNat)])
  | .srinvAll => some (32, fill 0x400003B [])
  | .qapp d h a b f => some (32, fill 0x800003B [(7, d.toNat), (12, h.toNat), (16, a.toNat), (19, b.toNat), (26, boolNat f)])
  | .selt d h a b f => some (32, fill 0x1000003B [(7, d.toNat), (12, h.toNat), (17, a.toNat), (25, boolNat b), (26, boolNat f)])
  | .halo p h a r f => some (32, fill 0x3D [(7, p.toNat), (12, h.toNat), (16, a.toNat), (19, r.code), (26, boolNat f)])
  | .mbox h d => some (32, fill 0x800003D [(12, h.toNat), (19, d.toNat)])
  | .mboxWait h b => some (32, fill 0xC00003D [(12, h.toNat), (19, b.toNat)])
  | .bara h s a b => some (32, fill 0x1000003D [(12, h.toNat), (19, boolNat s), (20, a.toNat), (23, b.toNat)])
  | .barw => some (32, fill 0x1800003D [])
  | .bar h s a b => some (32, fill 0x2000003D [(12, h.toNat), (19, boolNat s), (20, a.toNat), (23, b.toNat)])
  | .scnb a c => some (32, fill 0x3F [(7, a.toNat), (25, c.toNat)])
  | .scnp s c => some (32, fill 0x800003F [(7, s.toNat), (25, c.toNat)])
  | .scng d c => some (32, fill 0x1000003F [(7, d.toNat), (25, c.toNat)])
  | .scne d c => some (32, fill 0x1800003F [(7, d.toNat), (25, c.toNat)])
  | .scneClose d c => some (32, fill 0x1900003F [(7, d.toNat), (25, c.toNat)])
  | .swcr d c a => some (32, fill 0x2000003F [(7, d.toNat), (16, c.toNat), (22, a.toNat)])
  | .swadd d c a => some (32, fill 0x2800003F [(7, d.toNat), (16, c.toNat), (22, a.toNat)])
  | .swdel a => some (32, fill 0x3000003F [(22, a.toNat)])
  | .swnxt d a => some (32, fill 0x3800003F [(7, d.toNat), (22, a.toNat)])
  | .swrpt b a => some (32, fill 0x4000003F [(7, b.toNat), (22, a.toNat)])
  | .swset b c a => some (32, fill 0x4800003F [(7, b.toNat), (16, c.toNat), (22, a.toNat)])
  | .swsetNb c a => some (32, fill 0x4808003F [(16, c.toNat), (22, a.toNat)])
  | .swnb d i k a => some (32, fill 0x5000003F [(7, d.toNat), (19, boolNat i), (20, k.toNat), (22, a.toNat)])
  | .swadv d a => some (32, fill 0x5800003F [(7, d.toNat), (22, a.toNat)])
  | .cswdRead _ => none
  | .cswdWrite _ => none
  | .controlSpaceWrite _ _ _ => none
  | .elstatClear _ _ => none
  | .winreqGo _ => none
  | .winfree _ => none
  | .peerEpochWrite _ _ => none
  | .shareTableWrite _ _ _ => none
  | .queueTableWrite _ _ _ => none
  | .translationInvalidate _ => none
  | .seize => none
  | .resumeFromImage => none
  | .thaw => none
  | .quiesceComplete => none
  | .streamComplete => none
  | .streamPortsFailed => none
  | .restoreComplete => none
  | .restoreFailure => none
  | .reset => none
  | .configBlockLoad _ _ => none
  | .launch _ _ => none
  | .launchComplete _ => none
  | .signalPacket _ _ => none
  | .spawnPacket _ _ => none
  | .capabilityMessageConsume _ _ => none
  | .hostConsume _ _ => none
  | .queueConsume _ => none
  | .copyPacketConsume _ _ => none
  | .qappEntryWrite _ _ => none
  | .timerTick _ => none
  | .ptpStep _ => none
  | .ptpLockLost _ => none
  | .rotationBoundary _ => none
  | .shareWindowStart _ => none
  | .rampInterval _ => none
  | .budg _ => none
  | .wdog _ => none
  | .slotChoice _ _ => none
  | .dequePlaceFreed _ => none
  | .stealRound _ _ => none
  | .stealRequest _ _ _ => none
  | .stealOffer _ _ _ => none
  | .donationArrival _ _ _ _ => none
  | .waitConditionMet _ _ => none
  | .taskRequeue _ => none
  | .userEvent _ => none
  | .loadResponse _ _ => none
  | .homePerform _ => none
  | .storeBufferDrain _ _ => none
  | .walkStart _ => none
  | .walkComplete _ _ => none
  | .matrixOpStart _ => none
  | .matrixOpComplete _ _ => none
  | .oldJoin _ _ _ => none
  | .transferJoin _ _ => none
  | .engineLegError _ _ _ _ _ => none
  | .scanUnitLeg _ _ _ => none
  | .csendDelivery _ => none
  | .moveBytesLanded _ => none
  | .bounceEnqueue _ => none
  | .tileAsidClear _ _ => none
  | .channelWordArrival _ _ => none
  | .channelCreditReturn _ _ => none
  | .neighbourExitedFlag _ _ => none
  | .haloReceive _ _ => none
  | .haloReply _ _ => none
  | .haloDepositJoin _ _ => none
  | .barrierRelease _ _ => none
  | .scanCarryReady _ _ => none
  | .epochClose _ _ _ => none
  | .leavingMark _ _ => none
  | .sweepRelease _ _ => none
  | .hbmRecalibration _ _ => none
  | .alertBackoff _ _ _ => none
  | .powerMeasurement _ _ _ => none
  | .thermalReading _ _ => none
  | .clockStepChange _ _ => none
  | .ageingMonitorRead _ => none
  | .meshFlitCrcError _ _ => none
  | .meshLinkFailure _ _ _ => none
  | .torusRestitch _ => none
  | .replay _ => none
  | .portRetrain _ _ => none
  | .hostHntWrite _ _ _ => none
  | .hpkstRead _ => none
  | .hostTicketClaim _ => none
  | .hostRingWrite _ _ _ => none
  | .hostWindowAccess _ _ => none
  | .birsp _ _ => none
  | .flushPacket _ => none
  | .write _ => none
  | .read _ => none
  | .rdresp _ => none
  | .atomic _ => none
  | .atresp _ => none
  | .capxfer _ => none
  | .ack _ => none
  | .nak _ => none
  | .revoke _ => none
  | .wrenq _ => none
  | .redblk _ _ => none
  | .resync _ => none
  | .frz _ => none
  | .hntAckTimer _ => none
  | .hntRetransmit _ => none
  | .hntBeyondRecovery _ => none
  | .getVersion _ => none
  | .getCapabilities _ => none
  | .negotiateAlgorithms _ => none
  | .getCertificate _ => none
  | .challenge _ _ => none
  | .getMeasurements _ _ => none
  | .portFailure _ => none
  | .queueViewCreate _ _ => none
  | .sinkCreate _ _ _ _ => none

/-- The bytes of an instruction as the hardware stores them; an event has none. -/
def encode (i : Instr) : Option (List Byte) :=
  match encodeWord i with
  | some (nbits, w) => some (leBytes (nbits / 8) w)
  | none => none

end Sys2Proof
end

