-- ==== Sys2Proof/Config.lean ====
section
/-!
DEFINITION. What an implementation of the part fixes, and the values the spec leaves open: constants without a body, of which nothing can be proved but that they are functions of their arguments.
-/
namespace Sys2Proof.Config

open Sys2Proof

/-- A value the spec leaves open, drawn at a counter of the state (log 2). -/
opaque freeWord : Nat → Word

/-- Where along its operands a special function reaches each code of its result: function, element type, sign of the result and code name a place, which decides among the codes inside the accuracy bound of R140 (log 3). -/
opaque specialReach : Nat → Nat → Bool → Nat → Nat

/-- SHA-512 of a byte string, and the identity's ECDSA P-521 signature over a digest, two numbers of 66 bytes (R334, R341, R377): fixed functions whose values the spec leaves to the standards it names (log 9). -/
opaque digest : List Byte → BitVec 512
opaque sign : Nat → BitVec 512 → BitVec 1056

/-- The certificate of the device and its firmware (R377). -/
opaque firmware : List Byte

/-- The per-core generator of steal victims (R270): the tile and the round select eight tiles of the die and four of other dies, each number read modulo the tiles it may name (log 16). -/
opaque stealPick : Nat → Nat → Nat → Nat

/-- The clock, modulo 1,024, in which a tile that nothing has touched starts its rounds of steal requests (R270; log 59). -/
opaque stealPhase : Nat → Nat

/-- Latencies of R121 where the rule gives a range: its lower end, in clk (log 7). -/
def latL3 : Nat := 300
def latL4 : Nat := 450
/-- 1.5 µs at 2.4 GHz. -/
def latL5 : Nat := 3600

end Sys2Proof.Config
end

