-- ==== Sys2Proof/Machine/State.lean ====
section
/-!
DEFINITION. The state of the machine as plain data: everything the spec gives the part, and State.reset. One stream, its task and its tile stand in focus (the fields hart, task and tile); the others stand in lists kept in key order, and a tile, cluster or die that nothing has changed is not listed. Operations over it stand in the other files of Machine/.
-/
namespace Sys2Proof.Machine

open Sys2Proof

/-- Causes of traps (R100). -/
inductive Cause where
  | ill | capv | revk | pflt | algn | budg | wdog | ownx | mchk | merr | lnke | seiz | sysc | brkp
deriving DecidableEq, Repr

/-- A trap or an error as ERRST records it (R103): cause, CAPV subcode, detail, the handle whose check failed, and whether it is imprecise. -/
structure TrapInfo where
  cause : Cause
  sub : Nat := 0
  detail : BitVec 16 := 0
  handle : Option (BitVec 4) := none
  imprecise : Bool := false
deriving DecidableEq, Repr

/-- Privilege level of a stream (R118, R119). -/
inductive Level where | u | s
deriving DecidableEq, Repr

/-! ## Capability records (chapter 02) -/

inductive CapState where | free | filling | full | draining
deriving DecidableEq, Repr
inductive CapKind where | excl | frac | commons | phase
deriving DecidableEq, Repr
inductive CapLevel where | tile | cluster | hbm | host | peer
deriving DecidableEq, Repr

/-- The rights of a record (R23 [43:40]). -/
structure Rights where
  root : Bool
  xfer : Bool
  wr : Bool
  rd : Bool
deriving DecidableEq, Repr

/-- A proxy of a record that a peer device holds (R365, R371): the peer, the image of its record there, the shares, and whether its holder is known to be frozen. -/
structure Grant where
  dev : Nat
  image : Nat
  count : Nat
  frozen : Bool
deriving DecidableEq, Repr

/-- What a record on this device stands for when its root is held by a peer (R365): the owner device and the image of the root there. -/
structure ProxyOf where
  dev : Nat
  image : Nat
  port : Nat
deriving DecidableEq, Repr

/-- The banks of a PHASE buffer (R230, R232, R233): the front bank, the deposit count of each region and the swaps made. -/
structure PhaseState where
  frontHigh : Bool
  counts : Vector Nat 4
  swaps : Nat
  exited : Bool
deriving DecidableEq, Repr

/-- A capability record of the quire (R23), with what the quire keeps beside it: the launch that holds it (R25), the rights it held at acceptance, the revocation version (R32), the engine operations that read and write it (R27), a phase buffer's banks (R230), the proxies granted to peers (R371), for a proxy its root on the peer (R365), the owner a launch took it from (R264), the device it came from (R369), the other launches that hold it (R262), and the launches through which it was lent before, each with the owner it took it from (R264). img is the die and record number of R22 [22:0]. -/
structure CapRec where
  img : Nat
  base : Nat
  version : BitVec 16
  state : CapState
  kind : CapKind
  level : CapLevel
  len : Nat
  count : Nat
  asid : Asid
  owner : Tid
  written : Bool
  frozen : Bool
  revoked : Bool
  poisoned : Bool
  far : Bool
  replayable : Bool
  packable : Bool
  format : BitVec 5
  rights : Rights
  shape : BitVec 16
  root : Nat
  launch : Option Nat := none
  heldRights : Rights := ⟨false, false, false, false⟩
  fromLaunch : Option Nat := none
  revVersion : BitVec 16 := 0
  readers : Nat := 0
  writers : Nat := 0
  filler : Tid := 0
  phase : Option PhaseState := none
  grants : List Grant := []
  proxy : Option ProxyOf := none
  window : Bool := false
  openDeposits : Nat := 0
  lender : Tid := 0xFFFFFFFF
  origin : Nat := 0
  alsoHeld : List Nat := []
  outer : List (Option Nat × Tid) := []
deriving DecidableEq, Repr

/-- A message in an inbox or on its way (R33, R34, R50): the capability it carries, the payload words, its sender and the sender's tenant, the outcome of R50, the status of a peer's refusal, and the device of a sender on a peer. -/
structure Msg where
  cap : Option Nat
  p0 : Word
  p1 : Word
  sender : Tid
  asid : Asid
  outcome : Nat := 0
  nak : Nat := 0
  dev : Nat := 0
deriving DecidableEq, Repr

/-! ## Task records, deques and launches (chapters 01, 15) -/

/-- A priority donation in force at its donee (R271). -/
structure Donation where
  donor : Tid
  prio : Nat
  hops : Nat
deriving DecidableEq, Repr

/-- A task record in its queued form (R8), or the record of a task with a saved context (R14). -/
structure TaskRec where
  tid : Tid
  flags : BitVec 12
  asid : Asid
  cls : BitVec 10
  prio : Nat
  replayable : Bool
  pinned : Bool
  entry : Nat
  deadline : Word
  release : Word
  parent : Tid
  budget : BitVec 32
  arg : Word
  h : List Nat
  fs : List Word
  launch : Nat
  coord : Option (Nat × Nat)
  saved : Bool
  home : Nat
  donations : List Donation
deriving DecidableEq, Repr

/-- A record in a deque or its spill region, with the clock in which it entered, whether it is offered to a thief, and its place in the spill region (R120, R268, R270). -/
structure Queued where
  item : TaskRec
  clk : Nat
  offered : Bool
  place : Nat := 0
deriving DecidableEq, Repr

/-- A record that waits to enter a deque, with the clock in which it came, and whether it found the deque full (R382) or only waits for its turn at the controller (R268). -/
structure WaitingRec where
  item : TaskRec
  since : Nat
  full : Bool
deriving DecidableEq, Repr

/-! ## Streams and tasks -/

/-- Where an access lands: a buffer of the quire by its image. -/
abbrev Image := Nat

/-- What a parked load restores when its wait is abandoned, so that it re-executes (R18, R106). -/
structure Undo where
  pc : Word
  repst : Word
  x : Option (BitVec 5 × Word) := none
  v : Option (BitVec 5 × Row) := none
deriving DecidableEq, Repr

/-- What a sweep instruction does at its calendar (R309 to R314). -/
inductive SweepAct where
  | create | add | del | next | report | set | links | neighbour (second : Bool) (k : Nat) | advance
deriving DecidableEq, Repr

/-- A request on its way to the calendar of a die (R308, R315): the destination register, the operands as they were sampled at issue, and the clock in which its reply returns. -/
structure SweepReq where
  act : SweepAct
  d : BitVec 5
  word : Word
  v : Word
  ox : Word
  reply : Nat
deriving DecidableEq, Repr

/-- What serves the streams of a tile in their order of issue: slots for new streams (R111), a neighbour channel in a direction (R228), a scan context (R283). -/
inductive ServedBy where
  | fork | chanOut (d : Dir) | chanIn (d : Dir) | scan (ctx : Nat)
deriving DecidableEq, Repr

/-- The condition a parked stream waits for (R13, R14 and the entry of the instruction that waits). -/
inductive Wait where
  /-- a load's data, at a clock (R121) -/
  | data (due : Nat) (undo : Undo)
  /-- the reply of an access that has been performed, at a clock (R85, R278) -/
  | reply (due : Nat)
  /-- a buffer admits the access again (R28); cases 0 load, 1 store, 2 whole buffer -/
  | admits (img : Image) (access : Nat)
  /-- a place in the store buffer (R115) -/
  | sbPlace
  /-- entries of the store buffer, by their numbers, have drained (R115) -/
  | sbEntries (ids : List Nat)
  /-- posted writes to host memory, by their numbers, have been performed (R242) -/
  | posted (ids : List Nat)
  /-- every entry of the slot has been performed (R115) -/
  | sbEmpty
  /-- earlier remote packets and flushes of the stream are acknowledged (R102, R249, R251) -/
  | remote
  /-- a translation (R38) -/
  | walk (asid : Asid) (page : Nat)
  /-- an entry or a place in a queue register (R89) -/
  | qEntry (n : Nat)
  | qPlace (n : Nat)
  /-- a slot of the tile for a new stream (R91) -/
  | slotFree
  /-- its turn at what serves streams in their order of issue (R228, R283) -/
  | turn (u : ServedBy)
  /-- the end of sibling streams (R92) -/
  | streams (nos : List Nat)
  /-- the join counter (R95) -/
  | joinZero
  /-- a value of the join counter that can be raised (R94) -/
  | joinRoom
  /-- a PTP time (R97) -/
  | time (t : Word)
  /-- a message (R50) -/
  | inbox
  | tileInbox
  /-- a place in an inbox (R34, R35) -/
  | inboxPlace (tid : Tid)
  | tileInboxPlace (tile : Nat)
  /-- the join edge of the operations that still write a buffer (R53) -/
  | marking (img : Image)
  /-- a state of a buffer (R51) -/
  | cap (img : Image) (c : WaitCond)
  /-- a free record number (R384), a free TID (R12), a place in a deque (R94) or in the timer wheel (R272) -/
  | quireRoom (die : Nat)
  | tidRoom
  | dequeRoom (tile : Nat) (since : Nat)
  | wheelRoom (die : Nat)
  /-- a free HBM page for a shadow version (R348) -/
  | hbmPage (die : Nat)
  /-- the engine operations of the task have joined (R19) -/
  | enginesDone
  /-- a place in the matrix engine's queue or in the transfer engine (R179, R199), or the ramp limiter (R116) -/
  | matrixPlace
  | transferPlace
  | ramp (clks : Nat)
  /-- vector rows an accepted operation will read or write (R143), an operand slot (R172, R175), a husk (R192) -/
  | tiles (t : List Bool)
  | operand (n : Nat)
  | operandFree (mask : Nat) (pair : Bool)
  | husk (n : Nat)
  /-- a gang partner, with the row that the stream offers (R164) -/
  | partner (dir : GDir) (v : Nat) (row : Row)
  /-- a channel's credit or word (R228) -/
  | credit (d : Dir)
  | word (d : Dir)
  /-- deposit counts (R233), a halo reply (R232), a barrier (R235) -/
  | mbox (img : Image) (need : Word)
  | halo (op : Nat) (reply : Nat) (hp : BitVec 4)
  | barrier
  | arrival
  /-- an epoch of a scan context: 0 the carry of a SCNG, 1 the deposits of a SCNE, 2 the closing or the place of a SCNP, with its register (R290 to R293) -/
  | scan (ctx : Nat) (phase : Nat) (reg : BitVec 5)
  /-- the release of a SWADV with its destination register, the end of an advance, or the arrival of a request at a calendar (R314, R315) -/
  | sweep (die cal : Nat) (d : BitVec 5)
  | sweepBusy (die cal : Nat)
  | sweepReq (due : Nat) (r : SweepReq)
  /-- the bytes that a peer has answered of a read that an instruction makes before it decides, for its next issue -/
  | answered (len v : Nat)
  /-- a peer's reply (R372) -/
  | peerReply (dev : Nat) (seq : Nat)
  /-- a window line recalled from the host (R250) -/
  | window (line : Nat)
deriving DecidableEq, Repr

/-- Where a response from a peer goes: a sign- or zero-extended load, a vector row, an operand-extension register, the old word of an atomic, the pair of a CAS, or 64 more bytes, beside those that stand already, for the instruction that asked, which issues again. -/
inductive Reply where
  | x (d : BitVec 5) (size : Nat) (signed : Bool)
  | v (d : BitVec 5)
  | ox (n : BitVec 3)
  | amo (d : BitVec 5) (size : Nat)
  | cas (d : BitVec 4) (size : Nat)
  | hold (len v : Nat)
deriving DecidableEq, Repr

/-- A request that has left its slot for a peer: its packet, where its response goes, the handle it went through, the bytes of its instruction and whether REP issued it (R340, R372). -/
structure Remote where
  dev : Nat
  seq : Nat
  what : Reply
  handle : BitVec 4
  img : Image
  bytes : Nat
  rep : Bool
deriving DecidableEq, Repr

/-- A stream with its slot's registers (R64). wait is what it is parked for; met is the wait whose condition has been met, for the instruction that re-executes; order is what serves its instruction in the order of issue, with its place there (R111, R228, R283). -/
structure Hart where
  tid : Tid
  no : Nat
  tile : Nat
  slot : Option Nat
  live : Bool
  pc : Word
  x : Vector Word 32
  ush : Vector Word 8
  ssh : Vector Word 8
  v : Vector Row 32
  m : Vector Word 4
  ox : Vector Word 8
  fs : Vector Word 4
  fctl : Word
  fflg : Word
  lfsr : Word
  repst : Word
  repstU : Word
  repstS : Word
  evhpc : Word
  errst : Word
  errstSeiz : Option Word
  geo : Word
  inj : Word
  injCount : Nat
  notify : Bool
  cswa : Word
  level : Level
  wait : Option Wait
  met : Option Wait
  readyAt : Nat
  inRep : Bool
  walkFail : Option (Asid × Nat × Bool)
  remote : Option Remote
  remoteTrap : Option TrapInfo
  posted : List Nat
  order : Option (ServedBy × Nat)
deriving DecidableEq, Repr

/-- States of a task (R13). RUNNING and PARKED are told apart by the waits of its streams. -/
inductive TaskState where | timed | queued | running | waiting | trapped | exited
deriving DecidableEq, Repr

/-- The pending imprecise error of a task and the stream it concerns (R102). -/
structure PendErr where
  err : TrapInfo
  stream : Nat
deriving DecidableEq, Repr

/-- A scan context of a tile task (R284); begun counts the SCNBs executed on its number, of which generation is the value modulo 2^16 (R383). -/
structure ScanCtx where
  configured : Bool
  op : Nat
  int32 : Bool
  snake : Bool
  inclusive : Bool
  a : Nat
  b : Nat
  queue : Nat
  ed : BitVec 32
  eg : BitVec 32
  er : BitVec 32
  position : Nat
  n : Nat
  generation : BitVec 16
  begun : Nat
deriving DecidableEq, Repr

/-- A task's open arrival at a barrier (R235, R236): its subgroup exponents, generation, the phase buffer it carries, whether the generation has been released and its swap waits for open deposits, whether BARW may complete, and the stream and address of the BAR that made it. -/
structure Arrival where
  a : Nat
  b : Nat
  gen : Nat
  img : Option Image
  swapping : Bool
  released : Bool
  by_ : Option (Nat × Word)
deriving DecidableEq, Repr

/-- A row of a vector queue register; from_ is the context and generation of the USER line whose deposit it is (R293). -/
structure QRow where
  row : Row
  from_ : Option (Nat × Nat)
deriving DecidableEq, Repr

/-- A task with the registers its streams share (R10, R15), its inbox, and what the device keeps for it: ending while a terminated task's operations are still in flight (R21), exiting once stream 0 has executed EXIT (R16). -/
structure Task where
  tid : Tid
  state : TaskState
  tile : Nat
  launch : Nat
  asid : Asid
  cls : BitVec 10
  replayable : Bool
  pinned : Bool
  farSteal : Bool
  detached : Bool
  parent : Tid
  coord : Option (Nat × Nat)
  arg : Word
  prioBase : Nat
  donations : List Donation
  deadline : Word
  budget : BitVec 32
  unlimited : Bool
  watchdog : Nat
  h : Vector Word 16
  q : Vector (List Word) 4
  qv : Vector (List QRow) 4
  writers : Vector (List Nat) 8
  readers : Vector (List Nat) 8
  inbox : List Msg
  returns : List Msg
  join : Nat
  pendErr : Option PendErr
  ev2 : Bool
  ev3 : Bool
  targets : List Tid
  handler : Option Nat
  frame : List (Nat × Nat)
  chan : Vector (List Word) 4
  credits : Vector Nat 4
  gone : Vector Bool 4
  arriving : Vector (List (Nat × Word)) 4
  scan : Vector ScanCtx 4
  openArrival : Option Arrival
  seizPending : Bool
  ending : Bool
  exiting : Bool
deriving DecidableEq, Repr

/-! ## Tiles, clusters and dies -/

/-- The home of a byte: a physical address of this device, or a virtual address on a peer (R37, R240). -/
inductive Home where
  | mem (a : Nat)
  | peer (dev : Nat) (va : Nat)
deriving DecidableEq, Repr

/-- An entry of the store buffer (R115): its number, one aligned 64-byte granule of one buffer, with its byte mask and bytes, the storing slot and stream, the version, the release mark, the home of its first byte, and the clock from which it may drain. key names the buffer itself: two proxies of one root of a peer are one buffer (R83, R365). asid, image, words and packable are what its draining needs of the record: the tenant, the root on a peer, whether the buffer takes words only, and whether it packs. -/
structure SbEntry where
  id : Nat
  key : Nat
  slot : Nat
  tid : Tid
  no : Nat
  handle : BitVec 4
  img : Image
  granule : Nat
  mask : BitVec 64
  data : Row
  version : BitVec 16
  release : Bool
  home : Home
  due : Nat
  asid : Asid
  image : Nat
  words : Bool
  packable : Bool
deriving DecidableEq, Repr

/-- A class of the share arbiter with its balance and the slot-cycles charged to it in this rotation (R114). -/
structure ClassShare where
  cls : Nat
  balance : Int
  used : Nat
deriving DecidableEq, Repr

/-- What a core does about stealing (R270): nothing, a request on its way to a victim, or the back-off until a clock. -/
inductive StealState where
  | idle | asking (victim : Nat) (rest : List Nat) | backoff (until_ : Nat)
deriving DecidableEq, Repr

/-! ## Engines of a tile (chapters 08, 09, 11) -/

/-- An operand slot of the matrix engine (R168, R213): owner 0 is none. -/
structure OperandSlot where
  owner : Tid
  filling : Bool
  poison : Bool
  pair : Bool
  rows : Vector SlotRow 16
  table : List (BitVec 16)
deriving DecidableEq, Repr

/-- A husk (R190). -/
structure Husk where
  bound : Bool
  valid : Bool
  asid : Asid
  root : Nat
  version : BitVec 16
  tag : BitVec 16
  inFmt : BitVec 5
  deltaInt4 : Bool
  limit : BitVec 8
  count : BitVec 8
  threshold : BitVec 32
  rho : BitVec 32
  edge : Word
  kept : Vector (BitVec 1024) 16
  result : Vector Row 16
deriving DecidableEq, Repr

inductive MatKind where | mma | mmap | mzero | mmd
deriving DecidableEq, Repr

/-- An accepted operation of the matrix engine (R177, R179, R193). seq is its place in the issue order of the core (R175); result holds the elements computed at its start, prior the husk as an MMD found it, checked whether its checksums have been compared, issuer the stream and slot that issued it, and corrected what the log entry of a correction will hold (R183, R221). -/
structure MatOp where
  seq : Nat
  kind : MatKind
  tid : Tid
  no : Nat
  slot : Nat
  acc : AccT
  sa : Nat
  sb : Nat
  fa : BitVec 5
  fb : BitVec 5
  edge : Word
  ntf : Bool
  husk : Nat
  use : Bool
  delta : Bool
  version : BitVec 16
  inject : Option Upset
  started : Bool
  earliest : Nat
  due : Nat
  result : List (BitVec 32)
  skipped : Bool
  checked : Bool
  prior : Option Husk
  issuer : Nat
  issuerSlot : Nat
  corrected : Option Word
deriving DecidableEq, Repr

/-- A fill of an operand slot, by OLD or by COPYM (R174, R206), from its fork edge to its join edge, with the bytes that a peer has sent, by row and place in it, its instruction word and the operands that it read at issue (R342). -/
structure FillOp where
  seq : Nat
  tid : Tid
  no : Nat
  n : Nat
  fmt : BitVec 5
  img : Image
  handle : BitVec 4
  off : Nat
  stride : Nat
  kv : Nat
  skip : BitVec 16
  transfer : Bool
  ntf : Bool
  table : List (BitVec 16)
  due : Nat
  blocks : List (Nat × Nat × List Byte)
  word : BitVec 32 := 0
  args : List Word := []
deriving DecidableEq, Repr

/-- A destination leg of a transfer operation (R198, R205): its buffer and range, the clock from which it may join, whether its bytes have been sent to a peer or posted to the host, the bytes done, its status once it has joined (R205), whether an index lay outside the source (R208), and the posted writes behind which its flush goes (R251). -/
structure Leg where
  dst : Image
  handle : BitVec 4
  off : Nat
  len : Nat
  due : Nat
  sent : Bool
  done : Nat
  status : Option Nat
  bad : Bool := false
  posts : List Nat := []
deriving DecidableEq, Repr

/-- Bytes that an operation has asked of a peer: from its source or from its index list, and the answer (R372). -/
structure Fetched where
  index : Bool
  off : Nat
  len : Nat
  data : Option (List Byte)
deriving DecidableEq, Repr

/-- What a transfer operation does (chapter 09, R232). -/
inductive XferKind where
  | copy | packet (hp : Option (Image × Nat)) (ring : Option (Nat × Nat))
  | gather (rowBytes count base idxOff : Nat) (idx : Image)
  | pattern (p : Word)
  | select (count : Nat) (theta : BitVec 32) (abs : Bool)
  | append (q ticket : Nat) (packet : List Word)
  | move
  | halo (receiver : Tid) (region : Nat) (handle : BitVec 4) (len : Nat) (img : Option Image) (skip : List (Nat × Nat))
deriving DecidableEq, Repr

/-- An operation of the transfer engine from fork edge to last join edge (R198, R199, R201), with its instruction word and the operands that it read at issue (R342). -/
structure XferOp where
  id : Nat
  seq : Nat
  tid : Tid
  no : Nat
  asid : Asid
  kind : XferKind
  src : Option Image
  srcHandle : BitVec 4
  srcOff : Nat
  legs : List Leg
  ntf : Bool
  due : Nat
  units : List Nat
  fetches : List Fetched
  word : BitVec 32 := 0
  args : List Word := []
deriving DecidableEq, Repr

/-- An entry of the record cache (R214): 192 bytes as 24 words, and the codebook tables read under it, by their offsets (R127). -/
structure CachedRecord where
  asid : Asid
  root : Nat
  off : Nat
  words : List Word
  tables : List (Nat × List (BitVec 16))
deriving DecidableEq, Repr

/-- A tile (chapter 05) with its core's scheduling state and its store buffer: prevSlot is the slot that issued before the one that issues now (R116), took holds the classes that each slot has taken in this rotation (R114), dequeAt the clock from which the deque controller is free (R268), ended the streams that have ended while matrix results are owed to their slots (R180), wrote the slots and accumulator tiles that the engine has written, with the clock (R143). -/
structure Tile where
  idx : Nat
  lastSlot : Nat
  prevSlot : Nat
  sb : List SbEntry
  sbNext : Nat
  qown : Vector Nat 8
  shares : List ClassShare
  took : Vector (List Nat) 8
  dequeAt : Nat
  deque : List Queued
  spill : List Queued
  waiting : List WaitingRec
  freeAt : Vector Nat 8
  steal : StealState
  tidNext : Nat
  inbox : List Msg
  rampCeil : Nat
  rampDuty : Nat
  rampBusy : Nat
  rampHeld : Nat
  rampc : Word
  opSeq : Nat
  operands : Vector OperandSlot 8
  matrix : List MatOp
  fills : List FillOp
  husks : Vector Husk 16
  xfers : List XferOp
  xferNext : Nat
  cache : List CachedRecord
  ended : List Hart
  wrote : List (Nat × AccT × Nat)
deriving DecidableEq, Repr

/-- A page that a walk found (R279): the ASID and virtual base, its size, where it lies and what it permits. -/
structure PageMap where
  asid : Asid
  vbase : Nat
  size : Nat
  target : Nat
  device : Nat
  pbase : Nat
  wr : Bool
  rd : Bool
deriving DecidableEq, Repr

/-- A miss of a cluster, one per page (R38). -/
structure Miss where
  asid : Asid
  page : Nat
deriving DecidableEq, Repr

/-- A cluster: translation cache and miss table (R37, R38). -/
structure Cluster where
  idx : Nat
  tc : List PageMap
  misses : List Miss
deriving DecidableEq, Repr

/-- A walk that waits or runs (R38): the cluster that missed, the page, and the clock in which it ends. -/
structure Walk where
  cluster : Nat
  asid : Asid
  page : Nat
  due : Nat
  discard : Bool
deriving DecidableEq, Repr

/-- A record or saved context in the timer wheel of its die (R272), with the clock of the tick at which it found its deque full (R382). -/
structure Timed where
  item : TaskRec
  since : Option Nat
deriving DecidableEq, Repr

/-- An entry of a die's error log (R329): slot is its place, tick the clock of its event as the device counts it, seized or not. -/
structure LogEntry where
  slot : Nat
  seq : BitVec 32
  cls : Nat
  sub : Nat
  src : Nat
  time : Word
  a : Word
  b : Word
  tick : Nat
deriving DecidableEq, Repr

/-! ## Sweep calendars (chapter 17) -/

inductive MemberState where | live | newborn | dying
deriving DecidableEq, Repr

/-- A member record that is not FREE (R302). -/
structure Member where
  idx : Nat
  v0 : BitVec 32
  v1 : BitVec 32
  slope0 : BitVec 32
  slope1 : BitVec 32
  sLast : BitVec 32
  holder : Nat
  handed : Bool
  report : Nat
  pending : Bool
  valid : BitVec 4
  r : Nat
  state : MemberState
  slots : Vector (BitVec 16) 4
deriving DecidableEq, Repr

/-- A participant's part in SWADV (R301, R314). -/
structure Participant where
  tid : Tid
  arrived : Bool
  done : Bool
  ended : Bool
deriving DecidableEq, Repr

/-- A live calendar of a die (R300, R301); releaseAt is the clock in which an advance in progress ends (R314). -/
structure Calendar where
  no : Nat
  asid : Asid
  launch : Nat
  a : Nat
  b : Nat
  height : Nat
  width : Nat
  lo : BitVec 32
  hi : BitVec 32
  rmax : Nat
  extrap : Bool
  s : BitVec 32
  dueList : List Nat
  members : List Member
  parts : List Participant
  advancing : Bool
  releaseAt : Nat
  poisoned : Bool
deriving DecidableEq, Repr

/-- A die: walkers (R38), timer wheel and the launch records that wait for room in it (R272), control-space registers (R277, R278), error log and counters (R328, R329), clock step and stop of issue (R330, R331), postponed refreshes (R327), the latest recalibration burst of each channel with its start and end (R326), and the bytes of its calendar memory in which a correctable or an uncorrectable error stands that has not been found yet (R316, R329). -/
structure Die where
  idx : Nat
  walkQ : List Walk
  walks : List Walk
  rrLast : Nat
  wheel : List Timed
  wheelWait : List TaskRec
  wdlim : Nat
  hbmctl : Word
  degr : Word
  logNext : BitVec 32
  logOverflow : Nat
  log : List LogEntry
  logDropped : List LogEntry
  ecnt : Vector Nat 12
  chanCnt : List (Nat × Nat)
  share : List (Nat × Word)
  shareNext : List (Nat × Word)
  clockStep : Nat
  hotStop : Bool
  stopUntil : Nat
  postponed : List (Nat × Nat)
  bqcfg : Vector Word 3
  blocks : List (Nat × Nat × Row)
  calendars : List Calendar
  bursts : List (Nat × Nat × Nat)
  calCE : List Nat
  calUE : List Nat
deriving DecidableEq, Repr

/-- A generation of a subgroup's barrier (R234, R235): the members that have arrived with the phase buffers they carry, and whether its release is on its way. -/
structure Barrier where
  a : Nat
  b : Nat
  row : Nat
  col : Nat
  gen : Nat
  arrived : List (Tid × Option Image)
  releasing : Bool
deriving DecidableEq, Repr

/-- A deposit in the laid line (R290, R297): the member's position, its epoch, the rows, the clock and the configuration word. -/
structure Deposit where
  pos : Nat
  epoch : Nat
  row0 : Row
  row1 : Row
  clk : Nat
  config : Nat
deriving DecidableEq, Repr

/-- A member of a line: its position, task, whether it has joined it and with which queue register, epochs taken, the leaving epoch with the clock in which it left (R296), and the configuration of its deposit of epoch 0 (R297). -/
structure LineMember where
  pos : Nat
  tid : Tid
  joined : Bool
  queue : Nat
  taken : Nat
  left : Option (Nat × Nat)
  config : Option Nat
deriving DecidableEq, Repr

/-- A line of the laid line network (R285, R383), as the members of one subgroup see it: gen counts the SCNBs of a member on the context number, and the deposits are those of every member of the subgroup in that generation, whatever exponents it gave (R297). -/
structure ScanLine where
  ctx : Nat
  gen : Nat
  a : Nat
  b : Nat
  row : Nat
  col : Nat
  lambda : Nat
  affineExtra : Nat
  user : Bool
  members : List LineMember
  deposits : List Deposit
  lastDeposit : Nat
  closed : List (Nat × Nat)
  broken : Bool
deriving DecidableEq, Repr

/-- State that the tasks of a launch share and in which an uncorrectable error can stand that has not been found yet (R349): a scan context of a tile, or the barrier state. -/
inductive SharedPart where
  | scan (tile ctx : Nat) | barrier
deriving DecidableEq, Repr

/-- A buffer in the snapshot of a replayable launch (R348): its record as it stood, and, of a tile-level or cluster-level one, the HBM range that holds its copy. -/
structure SnapBuffer where
  cap : CapRec
  copy : Option (Nat × Nat)
deriving DecidableEq, Repr

/-- A shadow version of a page (R348): the page and the storage that holds the launch's copy. -/
structure Shadow where
  page : Nat
  copy : Nat
deriving DecidableEq, Repr

/-- A resident launch (R263, R278): idx is its launch-table index plus 4,096 times the die of its origin; stitch is 1 while a torus launch waits for its region, 2 while the region is re-stitched, 3 once it runs (R276); with it the ring entry its packet came from, the packet, the origin it was given, and the tasks terminated after a trap; gone holds the coordinates of the tile tasks that have ended with the clocks in which they did, and restored is set while a replay has restored the snapshot and its packet waits to be accepted again (R350). -/
structure Launch where
  idx : Nat
  queue : Nat
  entry : Nat
  packet : List Word
  row : Nat
  col : Nat
  rows : Nat
  cols : Nat
  asid : Asid
  cls : BitVec 10
  prio : Nat
  code : Image
  params : Image
  vector : Nat
  replayable : Bool
  test : Bool
  ganged : Bool
  torus : Bool
  replays : Nat
  terminated : Nat
  barriers : List Barrier
  lines : List ScanLine
  snapshot : List SnapBuffer
  shadows : List Shadow
  replayPending : Bool
  created : List Image
  members : List (Nat × Nat × Tid)
  gone : List (Nat × Nat × Nat)
  spawned : List Tid
  stitch : Nat
  sharedUE : List SharedPart := []
  restored : Bool := false
deriving DecidableEq, Repr

/-! ## Fabric (chapter 22) and seize (chapter 20) -/

/-- A sequenced packet that is not acknowledged yet, with the PTP time of its last sending (R368). -/
structure Sent where
  packet : Packet
  at_ : Nat
  tid : Tid
  no : Nat
  handle : BitVec 4
  xfer : Option (Nat × Nat × Nat)
  cap : Option Image
deriving DecidableEq, Repr

/-- The link queue to a peer and what the receiver keeps for it (R368, R369, R374): asked are the requests without a response, arriving the roots whose bytes a transfer brings, ownerWait the packet that waits for a state of its root, and stamp that of the packet performed last. -/
structure Link where
  dev : Nat
  nextSeq : Nat
  unacked : List Sent
  waiting : List Sent
  window : Nat
  sample : Nat
  sampleSeq : Nat
  expect : Nat
  kept : List (Nat × Packet)
  sinceAck : Nat
  unansweredAt : Option Nat
  lastHeard : Nat
  doubt : List Sent
  epoch : Nat
  peerEpoch : Nat
  ownerWait : List Packet
  asked : List Sent
  arriving : List Image
  stamp : BitVec 32
deriving DecidableEq, Repr

/-- A CSEND message on its way to a receiver on this device (R33, R34), or to a claimed ticket of a user queue (R218); moving is the new record while its bytes move, header the word 0 that a ring entry gets. -/
structure Transit where
  id : Nat
  msg : Msg
  policy : Nat
  toTile : Option Nat
  toTid : Tid
  ring : Option (Nat × Nat)
  moving : Option Image
  header : Word
deriving DecidableEq, Repr

/-- A posted write on its way to host memory (R242, R251): its port and the stream that stored. -/
structure HostWrite where
  id : Nat
  addr : Nat
  bytes : List Byte
  port : Nat
  tid : Tid
  no : Nat
deriving DecidableEq, Repr

/-- A capability message that CSEND wrote into a ring (R218). -/
structure RingMsg where
  q : Nat
  ticket : Nat
  img : Image
  sender : Tid
deriving DecidableEq, Repr

/-- A packet that a WRENQ appends and that waits for room in its ring (R373): the host port or the device and sequence it came from, its ticket, and the WRENQ itself. -/
structure Wrenq where
  port : Option Nat
  dev : Nat
  seq : Nat
  q : Nat
  ticket : Nat
  packet : Packet
deriving DecidableEq, Repr

/-- An answer of the attestation mailbox (R377); an ECDSA signature on P-521 is two numbers of 521 bits, 66 bytes each. -/
inductive Attest where
  | busy | version | capabilities | algorithms | certificate
  | signed (nonce : BitVec 256) (signature : BitVec 1056)
  | measurements (nonce : BitVec 256) (m1 m2 m3 : BitVec 512) (signature : BitVec 1056)
deriving DecidableEq, Repr

inductive SeizeState where | running | quiescing | streaming | frozen | restoring | failed
deriving DecidableEq, Repr

/-- The seize control block (R336). -/
structure SeizeBlock where
  command : Nat
  seizes : BitVec 32
  refusal : Nat
  state : SeizeState
  base : Word
  length : Word
  streamed : Word
  frozenAt : Word
  stale : Bool
deriving DecidableEq, Repr

/-- A step of the device without an encoding (95_what_each_step_holds.md), with what it carries: one constructor for each row of the opcode table that has no encoding, named as its constructor of Instr. The agenda holds these. -/
inductive Event where
  | cswdRead (d : BitVec 5)
  | cswdWrite (s : BitVec 5)
  | controlSpaceWrite (die : Nat) (off : Nat) (acc : BarAccess)
  | elstatClear (die : Nat) (v : Word)
  | winreqGo (v : Word)
  | winfree (v : Word)
  | peerEpochWrite (dev : Nat) (v : Word)
  | shareTableWrite (die : Nat) (off : Nat) (v : Word)
  | queueTableWrite (die : Nat) (off : Nat) (v : Word)
  | translationInvalidate (asid : BitVec 14)
  | seize
  | resumeFromImage
  | thaw
  | quiesceComplete
  | streamComplete
  | streamPortsFailed
  | restoreComplete
  | restoreFailure
  | reset
  | configBlockLoad (blk : ConfigBlock) (signed : Bool)
  | launch (q : Nat) (idx : Nat)
  | launchComplete (l : Nat)
  | signalPacket (q : Nat) (idx : Nat)
  | spawnPacket (q : Nat) (idx : Nat)
  | capabilityMessageConsume (q : Nat) (idx : Nat)
  | hostConsume (q : Nat) (idx : Nat)
  | queueConsume (q : Nat)
  | copyPacketConsume (q : Nat) (idx : Nat)
  | qappEntryWrite (tile : Nat) (op : Nat)
  | timerTick (die : Nat)
  | ptpStep (now : Nat)
  | ptpLockLost (offset : Word)
  | rotationBoundary (tile : Nat)
  | shareWindowStart (tile : Nat)
  | rampInterval (tile : Nat)
  | budg (tid : BitVec 32)
  | wdog (tid : BitVec 32)
  | slotChoice (tile : Nat) (slot : Nat)
  | dequePlaceFreed (tile : Nat)
  | stealRound (tile : Nat) (victims : List Nat)
  | stealRequest (thief : Nat) (victim : Nat) (far : Bool)
  | stealOffer (thief : Nat) (victim : Nat) (tid : BitVec 32)
  | donationArrival (donor : BitVec 32) (donee : BitVec 32) (prio : Nat) (hops : Nat)
  | waitConditionMet (tid : BitVec 32) (no : Nat)
  | taskRequeue (tid : BitVec 32)
  | userEvent (tid : BitVec 32)
  | loadResponse (tid : BitVec 32) (no : Nat)
  | homePerform (id : Nat)
  | storeBufferDrain (tile : Nat) (idx : Nat)
  | walkStart (die : Nat)
  | walkComplete (die : Nat) (idx : Nat)
  | matrixOpStart (tile : Nat)
  | matrixOpComplete (tile : Nat) (upsets : List Upset)
  | oldJoin (tile : Nat) (op : Nat) (err : Option LegError)
  | transferJoin (tile : Nat) (op : Nat)
  | engineLegError (tile : Nat) (op : Nat) (leg : Nat) (done : Nat) (err : LegError)
  | scanUnitLeg (tile : Nat) (op : Nat) (channel : Nat)
  | csendDelivery (id : Nat)
  | moveBytesLanded (id : Nat)
  | bounceEnqueue (tid : BitVec 32)
  | tileAsidClear (tile : Nat) (asid : BitVec 14)
  | channelWordArrival (tid : BitVec 32) (dir : Dir)
  | channelCreditReturn (tid : BitVec 32) (dir : Dir)
  | neighbourExitedFlag (tid : BitVec 32) (dir : Dir)
  | haloReceive (tile : Nat) (op : Nat)
  | haloReply (tile : Nat) (op : Nat)
  | haloDepositJoin (tile : Nat) (op : Nat)
  | barrierRelease (l : Nat) (g : Subgroup)
  | scanCarryReady (tid : BitVec 32) (no : Nat)
  | epochClose (tid : BitVec 32) (ctx : Nat) (epoch : Nat)
  | leavingMark (tid : BitVec 32) (ctx : Nat)
  | sweepRelease (die : Nat) (cal : Nat)
  | hbmRecalibration (die : Nat) (channel : Nat)
  | alertBackoff (die : Nat) (channel : Nat) (bank : Nat)
  | powerMeasurement (power : Nat) (draw : List Nat) (restore : Nat)
  | thermalReading (die : Nat) (celsius : Nat)
  | clockStepChange (die : Nat) (step : Nat)
  | ageingMonitorRead (read : MonitorRead)
  | meshFlitCrcError (die : Nat) (link : Nat)
  | meshLinkFailure (die : Nat) (link : Nat) (lost : Option (BitVec 32 × Nat))
  | torusRestitch (l : Nat)
  | replay (l : Nat)
  | portRetrain (port : Nat) (lanes : Nat)
  | hostHntWrite (port : Nat) (size : Nat) (p : Packet)
  | hpkstRead (port : Nat)
  | hostTicketClaim (op : HostAtomic)
  | hostRingWrite (q : Nat) (idx : Nat) (entry : List Word)
  | hostWindowAccess (line : Nat) (acc : WindowAccess)
  | birsp (line : Nat) (dirty : Option (BitVec 512))
  | flushPacket (port : Nat)
  | write (p : Packet)
  | read (p : Packet)
  | rdresp (p : Packet)
  | atomic (p : Packet)
  | atresp (p : Packet)
  | capxfer (p : Packet)
  | ack (p : Packet)
  | nak (p : Packet)
  | revoke (p : Packet)
  | wrenq (p : Packet)
  | redblk (port : Nat) (p : Packet)
  | resync (p : Packet)
  | frz (p : Packet)
  | hntAckTimer (dev : Nat)
  | hntRetransmit (dev : Nat)
  | hntBeyondRecovery (dev : Nat)
  | getVersion (port : Nat)
  | getCapabilities (port : Nat)
  | negotiateAlgorithms (port : Nat)
  | getCertificate (port : Nat)
  | challenge (port : Nat) (nonce : BitVec 256)
  | getMeasurements (port : Nat) (nonce : BitVec 256)
  | portFailure (port : Nat)
  | queueViewCreate (q : Nat) (asid : BitVec 14)
  | sinkCreate (asid : BitVec 14) (dev : Nat) (port : Nat) (len : Nat)
deriving DecidableEq, Repr

/-! ## The device -/

/-- Everything the device holds. A stream, its task and its tile stand in focus. ue and ce are the coded units of memory in which an error stands; quireCE and quireUE the records in which one stands that the quire has not found yet, quireBad those it has found (R40); tick counts clocks, those of a freeze too; power holds the measurements of the last 1 ms (R330), and ageingAt the time of the last reading of the monitors (R332). -/
structure Device where
  hart : Hart
  task : Task
  tile : Tile
  harts : List Hart
  tasks : List Task
  tiles : List Tile
  clusters : List Cluster
  dies : List Die
  quire : List CapRec
  mem : List Host.Cell
  ue : List Nat
  ce : List Nat
  quireCE : List Nat
  quireUE : List Nat
  quireBad : List Nat
  pages : List PageMap
  groupModes : List (Nat × Nat)
  launches : List Launch
  ptp : Nat
  ptpLocked : Bool
  clk : Nat
  tick : Nat
  cursor : Nat
  agenda : List (Nat × Event)
  free : Nat
  asids : List (Nat × Word)
  queues : List (Nat × Vector Word 4)
  pcap : Word
  hntcfg : Word
  peers : List (Nat × Word)
  winres : Word
  winHeld : List Nat
  winDirty : List Nat
  winSnooped : List Nat
  hostWrites : List HostWrite
  ringMsgs : List RingMsg
  transits : List Transit
  nextId : Nat
  links : List Link
  wire : List Packet
  lanes : Vector Nat 20
  portDown : Vector Bool 20
  flushWait : List Nat
  hpkstFailed : BitVec 32
  hpkstLast : BitVec 8
  wrenqs : List Wrenq
  hostPackets : List (Nat × Packet)
  seize : SeizeBlock
  config : ConfigBlock
  configGood : Bool
  calmTicks : Nat
  power : List Nat
  ageingAt : Option Nat
  measure3 : BitVec 512
  mailbox : List (Nat × Attest)
deriving DecidableEq, Repr

/-- A seize image in host memory (R341): where it stands and how long it is; what its header states, the device that signed it, the digest of its sections, the signature over that, and the ranges of free pages that it does not hold; the context frames of the tasks that it captured in slots, by TID (R119); the records of the operations that it captured, by tile (R342); and the device that its sections hold. -/
structure Image0 where
  base : Nat
  length : Nat
  device : Nat
  digest : BitVec 512
  signature : BitVec 1056
  free : List (Nat × Nat)
  contexts : List (BitVec 32 × List Byte)
  records : List (Nat × List Word)
  body : Device
deriving DecidableEq, Repr

/-- The state of the machine: the device, and the images that host memory holds. -/
structure State extends Device where
  images : List Image0
deriving DecidableEq, Repr

/-- Why the machine could stop without a next state. -/
inductive Fault where
  /-- No instruction raises it: every error of the spec is a trap, a log entry or an error state of a buffer, which are next states. It is kept so that a claim can say that the machine never faults; safe. -/
  | unraised
deriving DecidableEq, Repr

/-- Why an instruction has no meaning. -/
inductive Refusal where
  /-- raised by an arm of exec for an instruction without a meaning in the model; safe, since nothing is claimed of it -/
  | notModelled (mnemonic : String)
deriving DecidableEq, Repr

/-! ## Reset -/

/-- A stream that holds nothing: not live, every register zero, m0 all ones (R11). -/
def Hart.blank : Hart :=
  { tid := 0, no := 0, tile := 0, slot := none, live := false, pc := 0
    x := Vector.replicate 32 0, ush := Vector.replicate 8 0, ssh := Vector.replicate 8 0
    v := Vector.replicate 32 0, m := #v[BitVec.allOnes 64, 0, 0, 0], ox := Vector.replicate 8 0
    fs := Vector.replicate 4 0, fctl := 0, fflg := 0, lfsr := 1, repst := 0, repstU := 0, repstS := 0
    evhpc := 0, errst := 0, errstSeiz := none, geo := 0, inj := 0, injCount := 0, notify := false, cswa := 0
    level := .u, wait := none, met := none, readyAt := 0, inRep := false
    walkFail := none, remote := none, remoteTrap := none, posted := [], order := none }

def ScanCtx.blank : ScanCtx :=
  { configured := false, op := 0, int32 := false, snake := false, inclusive := false, a := 0, b := 0
    queue := 0, ed := 0, eg := 0, er := 0, position := 0, n := 0, generation := 0, begun := 0 }

/-- A task that does not exist. -/
def Task.blank : Task :=
  { tid := 0, state := .exited, tile := 0, launch := 0, asid := 0, cls := 0, replayable := false
    pinned := false, farSteal := false, detached := false, parent := 0, coord := none, arg := 0
    prioBase := 0, donations := [], deadline := 0, budget := 0, unlimited := true, watchdog := 0
    h := Vector.replicate 16 0, q := Vector.replicate 4 [], qv := Vector.replicate 4 []
    writers := Vector.replicate 8 [], readers := Vector.replicate 8 [], inbox := [], returns := []
    join := 0, pendErr := none, ev2 := false, ev3 := false, targets := [], handler := none, frame := []
    chan := Vector.replicate 4 [], credits := Vector.replicate 4 4, gone := Vector.replicate 4 false
    arriving := Vector.replicate 4 [], scan := Vector.replicate 4 ScanCtx.blank, openArrival := none
    seizPending := false, ending := false, exiting := false }

/-- A free operand slot (R168). -/
def OperandSlot.blank : OperandSlot :=
  { owner := 0, filling := false, poison := false, pair := false, rows := Vector.replicate 16 0, table := [] }

/-- A cleared husk (R190). -/
def Husk.blank : Husk :=
  { bound := false, valid := false, asid := 0, root := 0, version := 0, tag := 0, inFmt := 0
    deltaInt4 := false, limit := 0, count := 0, threshold := 0, rho := 0, edge := 0
    kept := Vector.replicate 16 0, result := Vector.replicate 16 0 }

/-- A tile at release from reset: slot 7 counts as the one that issued last (R109), every QOWN admits any class (R113), the ramp ceiling is 16 and both steps are 2 (R116). -/
def Tile.blank (idx : Nat) : Tile :=
  { idx := idx, lastSlot := 7, prevSlot := 7, sb := [], sbNext := 0, qown := Vector.replicate 8 0x3FF, shares := []
    took := Vector.replicate 8 [], dequeAt := 0, deque := [], spill := [], waiting := [], freeAt := Vector.replicate 8 0
    steal := .idle, tidNext := 0, inbox := [], rampCeil := 16, rampDuty := 0, rampBusy := 0, rampHeld := 0, rampc := 0x22
    opSeq := 0, operands := Vector.replicate 8 OperandSlot.blank, matrix := [], fills := []
    husks := Vector.replicate 16 Husk.blank, xfers := [], xferNext := 0, cache := [], ended := [], wrote := [] }

def Cluster.blank (idx : Nat) : Cluster := { idx := idx, tc := [], misses := [] }

/-- A die at reset: WDLIM 24 (R277), HBMCTL postpone 4 and interval 10,000 (R327), log and counters zero (R328). -/
def Die.blank (idx : Nat) : Die :=
  { idx := idx, walkQ := [], walks := [], rrLast := 0, wheel := [], wheelWait := [], wdlim := 24, hbmctl := 0x402710, degr := 0
    logNext := 0, logOverflow := 0, log := [], logDropped := [], ecnt := Vector.replicate 12 0, chanCnt := [], share := []
    shareNext := [], clockStep := 0, hotStop := false, stopUntil := 0, postponed := []
    bqcfg := Vector.replicate 3 0, blocks := [], calendars := [], bursts := [], calCE := [], calUE := [] }

def SeizeBlock.blank : SeizeBlock :=
  { command := 0, seizes := 0, refusal := 0, state := .running, base := 0, length := 0, streamed := 0
    frozenAt := 0, stale := false }

/-- The device at reset (R277, R330, R336, R343, R374): no ASID live, no queue valid, no launch resident, every record number free. -/
def Device.blank : Device :=
  { hart := Hart.blank, task := Task.blank, tile := Tile.blank 0, harts := [], tasks := [], tiles := []
    clusters := [], dies := [], quire := [], mem := [], ue := [], ce := [], quireCE := [], quireUE := [], quireBad := [], pages := [], groupModes := []
    launches := [], ptp := 0, ptpLocked := true, clk := 0, tick := 0, cursor := 0, agenda := [], free := 0
    asids := [], queues := [], pcap := 4500, hntcfg := 0x0080006400080064, peers := [], winres := 0
    winHeld := [], winDirty := [], winSnooped := [], hostWrites := [], ringMsgs := [], transits := [], nextId := 0, links := [], wire := []
    lanes := #v[16, 16, 16, 16, 4, 4, 4, 4, 4, 4, 4, 4, 4, 4, 4, 4, 4, 4, 4, 4]
    portDown := Vector.replicate 20 false, flushWait := [], hpkstFailed := 0, hpkstLast := 0, wrenqs := [], hostPackets := []
    seize := SeizeBlock.blank, config := { fenced := [], withdrawn := [], steps := [] }, configGood := true, calmTicks := 0, power := [], ageingAt := none
    measure3 := 0, mailbox := [] }

/-- The machine right after reset. -/
def State.reset : State := { Device.blank with images := [] }

end Sys2Proof.Machine
end

