-- ==== Sys2Proof/Machine/Base.lean ====
section
/-!
DEFINITION. Lookup and update of the parts of the state, the focus, the address map, memory, geometry and the error log.
-/
namespace Sys2Proof.Machine

open Sys2Proof

/-! ## Lists in key order -/

/-- The element of a key. -/
def findBy {α : Type} (key : α → Nat) (k : Nat) : List α → Option α
  | [] => none
  | a :: as => if key a = k then some a else findBy key k as

/-- The list with an element put at its place in key order, replacing one of the same key. -/
def putBy {α : Type} (key : α → Nat) (a : α) : List α → List α
  | [] => [a]
  | b :: bs => if key a < key b then a :: b :: bs else if key a = key b then a :: bs else b :: putBy key a bs

/-- The list without the elements of a key. -/
def dropBy {α : Type} (key : α → Nat) (k : Nat) (l : List α) : List α := l.filter fun a => key a != k

/-- The elements at the positions below n. -/
def upTo (n : Nat) : List Nat := List.range n

/-! ## Setters of the focus -/

def State.setHart (h : Hart) (s : State) : State := { s with hart := h }
def State.setTask (t : Task) (s : State) : State := { s with task := t }
def State.setTile (t : Tile) (s : State) : State := { s with tile := t }
def State.setQuire (q : List CapRec) (s : State) : State := { s with quire := q }
def State.setMem (m : List Host.Cell) (s : State) : State := { s with mem := m }
def State.setAgenda (a : List (Nat × Event)) (s : State) : State := { s with agenda := a }

/-! ## Streams, tasks, tiles, clusters, dies, launches -/

def Hart.key (h : Hart) : Nat := h.tid.toNat * 4 + h.no
def Task.key (t : Task) : Nat := t.tid.toNat

/-- A live stream of a task. -/
def State.hartAt? (s : State) (tid : Tid) (no : Nat) : Option Hart :=
  if s.hart.tid = tid ∧ s.hart.no = no ∧ s.hart.live then some s.hart else findBy Hart.key (tid.toNat * 4 + no) s.harts

/-- A stream written back, in focus or in the list; a stream that has ended leaves the list. -/
def State.putHart (s : State) (h : Hart) : State :=
  if s.hart.tid = h.tid ∧ s.hart.no = h.no then { s with hart := h }
  else if h.live then { s with harts := putBy Hart.key h s.harts }
  else { s with harts := dropBy Hart.key h.key s.harts }

/-- A task that has not exited. -/
def State.taskAt? (s : State) (tid : Tid) : Option Task :=
  if s.task.tid = tid then (if s.task.state = .exited then none else some s.task) else findBy Task.key tid.toNat s.tasks

def State.putTask (s : State) (t : Task) : State :=
  if s.task.tid = t.tid then { s with task := t }
  else if t.state = .exited then { s with tasks := dropBy Task.key t.key s.tasks }
  else { s with tasks := putBy Task.key t s.tasks }

/-- A tile that nothing has touched: after the first interval its ramp ceiling stands at the rise step (R116). -/
def Tile.idle (clk i : Nat) : Tile := { Tile.blank i with rampCeil := if clk < 240 then 16 else 2 }
def State.tileAt (s : State) (i : Nat) : Tile :=
  if s.tile.idx = i then s.tile else (findBy Tile.idx i s.tiles).getD (Tile.idle s.clk i)

def State.putTile (s : State) (t : Tile) : State :=
  if s.tile.idx = t.idx then { s with tile := t } else { s with tiles := putBy Tile.idx t s.tiles }

def State.modTile (s : State) (i : Nat) (f : Tile → Tile) : State := s.putTile (f (s.tileAt i))
def State.modTask (s : State) (tid : Tid) (f : Task → Task) : State :=
  match s.taskAt? tid with | some t => s.putTask (f t) | none => s
def State.modHart (s : State) (tid : Tid) (no : Nat) (f : Hart → Hart) : State :=
  match s.hartAt? tid no with | some h => s.putHart (f h) | none => s

def State.clusterAt (s : State) (i : Nat) : Cluster := (findBy Cluster.idx i s.clusters).getD (Cluster.blank i)
def State.putCluster (s : State) (c : Cluster) : State := { s with clusters := putBy Cluster.idx c s.clusters }
def State.dieAt (s : State) (i : Nat) : Die := (findBy Die.idx i s.dies).getD (Die.blank i)
def State.putDie (s : State) (d : Die) : State := { s with dies := putBy Die.idx d s.dies }
def State.modDie (s : State) (i : Nat) (f : Die → Die) : State := s.putDie (f (s.dieAt i))
def State.launchAt? (s : State) (i : Nat) : Option Launch := findBy Launch.idx i s.launches
def State.putLaunch (s : State) (l : Launch) : State := { s with launches := putBy Launch.idx l s.launches }
def State.modLaunch (s : State) (i : Nat) (f : Launch → Launch) : State :=
  match s.launchAt? i with | some l => s.putLaunch (f l) | none => s

/-- Every live stream, the focus first. -/
def State.allHarts (s : State) : List Hart := if s.hart.live then s.hart :: s.harts else s.harts
/-- Every task that has not exited. -/
def State.allTasks (s : State) : List Task := if s.task.state = .exited then s.tasks else s.task :: s.tasks
/-- Every tile that something has changed, in index order. -/
def State.allTiles (s : State) : List Tile := putBy Tile.idx s.tile s.tiles
/-- The live streams of a task. -/
def State.hartsOf (s : State) (tid : Tid) : List Hart := s.allHarts.filter fun h => h.tid == tid

/-- The state with a stream, its task and its tile in focus. -/
def State.focusOn (s : State) (tid : Tid) (no : Nat) : Option State :=
  if s.hart.tid = tid ∧ s.hart.no = no ∧ s.hart.live ∧ s.task.tid = tid ∧ s.tile.idx = s.hart.tile then some s
  else
    match s.hartAt? tid no with
    | none => none
    | some h =>
      let harts := dropBy Hart.key h.key (if s.hart.live then putBy Hart.key s.hart s.harts else s.harts)
      let task := (s.taskAt? tid).getD Task.blank
      let tasks := dropBy Task.key task.key (if s.task.state = .exited then s.tasks else putBy Task.key s.task s.tasks)
      let tile := s.tileAt h.tile
      let tiles := dropBy Tile.idx tile.idx (putBy Tile.idx s.tile s.tiles)
      some { s with hart := h, harts := harts, task := task, tasks := tasks, tile := tile, tiles := tiles }

/-! ## Geometry (R2) -/

def rowOf (t : Nat) : Nat := t / 320
def colOf (t : Nat) : Nat := t % 320
def tileIx (r c : Nat) : Nat := r * 320 + c
def dieOf (t : Nat) : Nat := rowOf t / 64 * 4 + colOf t / 80
def clusterOf (t : Nat) : Nat := rowOf t / 4 * 80 + colOf t / 4
def dieOfCluster (c : Nat) : Nat := c / 80 / 16 * 4 + c % 80 / 20
/-- The core number of a tile within its die (R278). -/
def coreOf (t : Nat) : Nat := rowOf t % 64 * 80 + colOf t % 80
/-- The global tile of a die-local coordinate. -/
def tileOfDie (d r c : Nat) : Nat := tileIx (d / 4 * 64 + r) (d % 4 * 80 + c)
/-- Routers on a minimal path of the mesh between two tiles, one way (R121). -/
def hops (a b : Nat) : Nat :=
  (max (rowOf a) (rowOf b) - min (rowOf a) (rowOf b)) + (max (colOf a) (colOf b) - min (colOf a) (colOf b))
/-! ## Addresses and memory (R1, R3, R120, R223, R250, R320) -/

/-- The model's one address space: tile SRAM, cluster SRAM, HBM, the flag window and host memory stand at these bases (log 4). -/
def tileBase (t : Nat) : Nat := t * 2 ^ 18
def clusterBase (c : Nat) : Nat := 2 ^ 40 + c * 2 ^ 22
def hbmBase : Nat := 2 ^ 41
def windowBase : Nat := 2 ^ 42
/-- Queue views stand above the window, 16 bytes for each queue (R267). -/
def viewBase : Nat := 2 ^ 43
def hostBase : Nat := 2 ^ 60
def isHbm (a : Nat) : Bool := hbmBase ≤ a && a < windowBase
def isWindow (a : Nat) : Bool := windowBase ≤ a && a < windowBase + 2 ^ 18
def isView (a : Nat) : Bool := viewBase ≤ a && a < viewBase + 2 ^ 18
def isHost (a : Nat) : Bool := hostBase ≤ a
/-- Bytes of main memory of the package and of one die (R1, R320). -/
def hbmSize : Nat := 768 * 2 ^ 30
def hbmPerDie : Nat := 96 * 2 ^ 30
def dieOfHbm (a : Nat) : Nat := (a - hbmBase) / hbmPerDie

/-- What a byte that nothing has written reads as (log 4). -/
def unlisted : Byte := 0

/-- The byte at an address. -/
def memGet (a : Nat) : List Host.Cell → Byte
  | [] => unlisted
  | (k, b) :: r => if k = a then b else if a < k then unlisted else memGet a r

/-- Memory with a byte written, in canonical form. -/
def memSet (a : Nat) (v : Byte) : List Host.Cell → List Host.Cell
  | [] => if v = unlisted then [] else [(a, v)]
  | (k, b) :: r =>
    if k = a then (if v = unlisted then r else (a, v) :: r)
    else if a < k then (if v = unlisted then (k, b) :: r else (a, v) :: (k, b) :: r)
    else (k, b) :: memSet a v r

/-- The canonical form: addresses rise strictly, and no entry holds what an unlisted byte reads as. -/
def Memory.wf : List Host.Cell → Bool
  | [] => true
  | (k, b) :: r => b != unlisted && (match r with | [] => true | (k', _) :: _ => decide (k < k')) && Memory.wf r

/-- n bytes from an address, lowest first. -/
def memBytes : Nat → Nat → List Host.Cell → List Byte
  | 0, _, _ => []
  | n + 1, a, m => memGet a m :: memBytes n (a + 1) m

/-- Bytes written from an address. -/
def memPut : Nat → List Byte → List Host.Cell → List Host.Cell
  | _, [], m => m
  | a, b :: bs, m => memPut (a + 1) bs (memSet a b m)

/-- The number that bytes hold, little-endian (R3). -/
def leValue : List Byte → Nat
  | [] => 0
  | b :: bs => b.toNat + 256 * leValue bs

/-- The n lowest bytes of a number (R3). -/
def bytesOf : Nat → Nat → List Byte
  | 0, _ => []
  | n + 1, v => BitVec.ofNat 8 v :: bytesOf n (v / 256)

/-- Bytes of words, 8 each. -/
def wordBytes (ws : List Word) : List Byte := (ws.map fun w => bytesOf 8 w.toNat).flatten

/-- The coded unit of a byte: 8 bytes of SRAM, 64 bytes of HBM (R40). -/
def unitSize (a : Nat) : Nat := if isHbm a then 64 else 8
def unitOf (a : Nat) : Nat := a / unitSize a * unitSize a

/-- Whether any byte of a range lies in a unit that holds an uncorrectable error, or in a group of HBM whose mode reads as one (R322). -/
def State.hasUE (s : State) (a n : Nat) : Bool :=
  (s.ue.any fun u => decide (u < a + n ∧ a < u + unitSize u)) || s.groupModes.any fun p => p.2 == 3 && decide (p.1 < a + n ∧ a < p.1 + 256)

/-- Bytes written at a physical address; a unit written whole stores a fresh code (R40). -/
def State.writePhys (s : State) (a : Nat) (bs : List Byte) : State :=
  { s with mem := memPut a bs s.mem
           ue := s.ue.filter fun u => !decide (a ≤ u ∧ u + unitSize u ≤ a + bs.length)
           ce := s.ce.filter fun u => !decide (a ≤ u ∧ u + unitSize u ≤ a + bs.length) }

def State.readPhys (s : State) (a n : Nat) : List Byte := memBytes n a s.mem

/-- A range scrubbed to zero (R45): the bytes read zero, no error remains in it, and its groups are raw again (R322). -/
def State.scrub (s : State) (a n : Nat) : State :=
  { s with mem := s.mem.filter fun c => !decide (a ≤ c.1 ∧ c.1 < a + n)
           ue := s.ue.filter fun u => !decide (a < u + unitSize u ∧ u < a + n)
           ce := s.ce.filter fun u => !decide (a < u + unitSize u ∧ u < a + n)
           groupModes := s.groupModes.filter fun p => !decide (a ≤ p.1 ∧ p.1 < a + n) }
/-- A range takes the bytes, the errors and the group modes of another. -/
def State.copyRange (s : State) (source dest n : Nat) : State :=
  let inside (a : Nat) : Bool := decide (source ≤ a ∧ a < source + n)
  let moved (a : Nat) : Nat := a - source + dest
  let t := s.scrub dest n
  { t with mem := ((s.mem.filter fun c => inside c.1).map fun c => (moved c.1, c.2)).foldl (fun m x => memSet x.1 x.2 m) t.mem
           ue := t.ue ++ (s.ue.filter inside).map moved
           ce := t.ce ++ (s.ce.filter inside).map moved
           groupModes := ((s.groupModes.filter fun g => inside g.1).map fun g => (moved g.1, g.2)).foldl (fun (l : List (Nat × Nat)) g => putBy (·.1) g l) t.groupModes }

/-! ## Time, agenda and free values -/

/-- An event put into the agenda at a clock, behind those of the same clock. -/
def agendaPut (t : Nat) (i : Event) : List (Nat × Event) → List (Nat × Event)
  | [] => [(t, i)]
  | (u, j) :: r => if t < u then (t, i) :: (u, j) :: r else (u, j) :: agendaPut t i r

def State.schedule (s : State) (t : Nat) (i : Event) : State := { s with agenda := agendaPut t i s.agenda }

/-- The next free value, and the state with the counter advanced (log 2). -/
def State.draw (s : State) : Word × State := (Config.freeWord s.free, { s with free := s.free + 1 })

/-! ## Error log (R328, R329) -/

/-- A new event among the events of its own clock, which take consecutive sequence numbers in ascending source index (R328 point 3). -/
def placeBySource (e : LogEntry) : List LogEntry → List LogEntry
  | [] => [e]
  | x :: xs => if e.src < x.src then { e with seq := x.seq } :: (x :: xs).map fun y => { y with seq := y.seq + 1 } else x :: placeBySource e xs

/-- The lowest place of the log that no entry holds (log 20). -/
def freePlace : Nat → Nat → List Nat → Nat
  | 0, n, _ => n
  | fuel + 1, n, used => if used.contains n then freePlace fuel (n + 1) used else n
/-- Entries given places in order. -/
def givePlaces (used : List Nat) : List LogEntry → List LogEntry
  | [] => []
  | e :: es => let k := freePlace used.length 0 used; { e with slot := k } :: givePlaces (k :: used) es

/-- An error event of a die: its sequence number, its class counter, and its entry when the log has room (R328). -/
def Die.logEvent (d : Die) (tick ptp cls sub src : Nat) (a b : Word) : Die :=
  let ecnt := if h : cls < 12 then d.ecnt.set cls ((d.ecnt[cls] + 1) % 2 ^ 48) h else d.ecnt
  let e : LogEntry := ⟨0, d.logNext, cls, sub, src, BitVec.ofNat 64 ptp, a, b, tick⟩
  let old := d.log.filter fun x => x.tick != tick
  let now := placeBySource e ((d.log.filter fun x => x.tick == tick) ++ d.logDropped.filter fun x => x.tick == tick)
  let room := 32 - old.length
  { d with logNext := d.logNext + 1, ecnt := ecnt
           log := old ++ givePlaces (old.map (·.slot)) (now.take room), logDropped := now.drop room
           logOverflow := if now.length ≤ room then d.logOverflow else min (d.logOverflow + 1) (2 ^ 26 - 1) }

/-- Entries at or below a sequence number freed; a clear is taken before the events of its own clock (R328 point 4). -/
def Die.logClear (d : Die) (tick : Nat) (seq : BitVec 32) : Die :=
  let old := d.log.filter fun x => x.tick != tick && decide (seq.toNat < x.seq.toNat)
  let now := (d.log.filter fun x => x.tick == tick) ++ d.logDropped.filter fun x => x.tick == tick
  let room := 32 - old.length
  let entered := (now.take room).length - (d.log.filter fun x => x.tick == tick).length
  { d with log := old ++ givePlaces (old.map (·.slot)) (now.take room), logDropped := now.drop room
           logOverflow := d.logOverflow - entered }

def State.log (s : State) (die cls sub src : Nat) (a b : Word) : State := s.modDie die fun d => d.logEvent s.tick s.ptp cls sub src a b

/-- The source index of a tile (R328). -/
def srcTile (t : Nat) : Nat := 64 + coreOf t
def srcQuire : Nat := 5216
def srcControl : Nat := 5217
def srcLaunch : Nat := 5218
/-- The die of a port and its place in the die's list (R278, R357). -/
def dieOfPort (p : Nat) : Nat := if p < 4 then p else (p - 4) / 2
def portPlace (p : Nat) : Nat := if p < 4 then 0 else if dieOfPort p < 4 then 1 + p % 2 else p % 2
def srcPort (p : Nat) : Nat := 5219 + portPlace p
def srcChannel (ch : Nat) : Nat := ch % 64

end Sys2Proof.Machine
end

