-- ==== Sys2Proof/Machine/Link.lean ====
section
/-!
DEFINITION. Link queues to peers: numbering, the congestion window and what leaves on the ports (R364, R366 to R368, R374).
-/
namespace Sys2Proof.Machine

open Sys2Proof

/-- Fields of HNTCFG (R374). -/
def State.ownDevice (s : State) : Nat := s.hntcfg.toNat / 2 ^ 56
def State.hntBeta (s : State) : Nat := s.hntcfg.toNat / 2 ^ 48 % 256
/-- T in ns. -/
def State.hntTarget (s : State) : Nat := s.hntcfg.toNat / 2 ^ 32 % 65536 * 100
def State.hntInc (s : State) : Nat := s.hntcfg.toNat / 2 ^ 16 % 65536 * 1024
/-- The beyond-recovery time in ns. -/
def State.hntTimeout (s : State) : Nat := s.hntcfg.toNat % 65536 * 1000000

/-- The peer table's entry of a device (R364). -/
def State.peerWord (s : State) (dev : Nat) : Nat := ((findBy (·.1) dev s.peers).map (·.2.toNat)).getD 0
def State.peerValid (s : State) (dev : Nat) : Bool := 1 ≤ dev && dev ≤ 254 && s.peerWord dev / 2 ^ 63 == 1
def State.peerEpochOf (s : State) (dev : Nat) : Nat := s.peerWord dev / 2 ^ 40 % 65536
/-- The lowest-numbered trained port of the mask (R364). -/
def State.peerPort (s : State) (dev : Nat) : Option Nat :=
  (upTo 20).find? fun p => s.peerWord dev / 2 ^ 20 / 2 ^ p % 2 == 1 && s.lanes.toArray.getD p 0 != 0 && !(s.portDown.toArray.getD p false)
/-- Whether a destination device number means this device (R364). -/
def State.isThisDevice (s : State) (dev : Nat) : Bool := dev == 0 || dev == s.ownDevice

def Link.blank (dev : Nat) : Link :=
  { dev := dev, nextSeq := 1, unacked := [], waiting := [], window := 256 * 1024, sample := 0, sampleSeq := 0, expect := 1
    kept := [], sinceAck := 0, unansweredAt := none, lastHeard := 0, doubt := [], epoch := 0, peerEpoch := 0, ownerWait := [], asked := [], arriving := []
    stamp := 0 }
def State.linkAt (s : State) (dev : Nat) : Link := (findBy Link.dev dev s.links).getD (Link.blank dev)
def State.putLink (s : State) (l : Link) : State := { s with links := putBy Link.dev l s.links }

/-- Bytes of a packet with its header (R366, R374). -/
def packetSize (p : Packet) : Nat := 32 + p.payload.length
def Link.inFlight (l : Link) : Nat := (l.unacked.map fun x => packetSize x.packet).foldl (· + ·) 0

/-- Packets that wait go out while the window and the 4,096 unacknowledged packets of R368 have room. -/
def Link.pump : Nat → Nat → Link → Link × List Packet
  | 0, _, l => (l, [])
  | fuel + 1, now, l =>
    match l.waiting with
    | [] => (l, [])
    | x :: rest =>
      if l.inFlight + packetSize x.packet ≤ l.window ∧ l.unacked.length < 4096 then
        let x := { x with at_ := now, packet := { x.packet with stamp := BitVec.ofNat 32 now } }
        let (l', out) := Link.pump fuel now { l with waiting := rest, unacked := l.unacked ++ [x] }
        (l', x.packet :: out)
      else (l, [])

/-- Waiting packets go out on the port of the peer; without a trained port they leave at their retransmission (R364, R368). -/
def State.pumpLink (s : State) (l : Link) : State :=
  let (l, out) := l.pump l.waiting.length s.ptp
  let l := if out.isEmpty ∨ l.unansweredAt.isSome then l else { l with unansweredAt := some s.ptp }
  { s.putLink l with wire := if (s.peerPort l.dev).isSome then s.wire ++ out else s.wire }

/-- A packet for a peer, with the fields the sender fills (R366). -/
def State.packetTo (s : State) (dev kind : Nat) (asid : Asid) (version : BitVec 16) (root : Nat) (off : Nat) (arg : Nat) (payload : List Byte) : Packet :=
  { kind := kind, src := s.ownDevice, dst := dev, seq := 0, len := payload.length, rsv0 := 0, asid := asid
    version := version, rsv1 := 0, root := BitVec.ofNat 23 root, arg := BitVec.ofNat 24 arg, off := BitVec.ofNat 40 off
    stamp := BitVec.ofNat 32 s.ptp, status := 0, payload := payload }

/-- A sequenced packet enters the link queue with the next sequence number (R368); the number is answered too. -/
def State.sendSequenced (s : State) (dev : Nat) (p : Packet) (tid : Tid) (no : Nat) (handle : BitVec 4)
    (xfer : Option (Nat × Nat × Nat)) (cap : Option Image) : State × Nat :=
  let l := s.linkAt dev
  let seq := l.nextSeq
  let x : Sent := { packet := { p with seq := seq }, at_ := s.ptp, tid := tid, no := no, handle := handle, xfer := xfer, cap := cap }
  (s.pumpLink { l with nextSeq := seq + 1, waiting := l.waiting ++ [x], asked := if p.kind = 1 ∨ p.kind = 3 then l.asked ++ [x] else l.asked }, seq)

/-- An unsequenced packet (ACK, NAK, RESYNC) leaves at once (R367). -/
def State.sendPlain (s : State) (p : Packet) : State := { s with wire := s.wire ++ [p] }

end Sys2Proof.Machine
end

