-- ==== Sys2Proof/Machine/Quire.lean ====
section
/-!
DEFINITION. Capability records: lookup, the checks of R24, admission under R28, translation (R37, R279), storage, and the disposal of a record.
-/
namespace Sys2Proof.Machine

open Sys2Proof

/-! ## Records -/

def State.rec? (s : State) (img : Image) : Option CapRec := findBy CapRec.img img s.quire
def State.putRec (s : State) (c : CapRec) : State := s.setQuire (putBy CapRec.img c s.quire)
def State.modRec (s : State) (img : Image) (f : CapRec → CapRec) : State :=
  match s.rec? img with | some c => s.putRec (f c) | none => s
/-- A record number freed: the words read zero (R23), and no error of the record remains. -/
def State.dropRec (s : State) (img : Image) : State :=
  let keep (l : List Nat) : List Nat := l.filter fun i => i != img
  { s.setQuire (dropBy CapRec.img img s.quire) with quireCE := keep s.quireCE, quireUE := keep s.quireUE, quireBad := keep s.quireBad }

def Rights.toNat (r : Rights) : Nat :=
  (if r.root then 8 else 0) + (if r.xfer then 4 else 0) + (if r.wr then 2 else 0) + (if r.rd then 1 else 0)
def Rights.ofNat (n : Nat) : Rights := ⟨n / 8 % 2 == 1, n / 4 % 2 == 1, n / 2 % 2 == 1, n % 2 == 1⟩
def Rights.and (a b : Rights) : Rights := ⟨a.root && b.root, a.xfer && b.xfer, a.wr && b.wr, a.rd && b.rd⟩
/-- The rights asked for that a record lacks. -/
def Rights.lacks (have_ need : Rights) : Bool :=
  (need.root && !have_.root) || (need.xfer && !have_.xfer) || (need.wr && !have_.wr) || (need.rd && !have_.rd)
def needRD : Rights := ⟨false, false, false, true⟩
def needWR : Rights := ⟨false, false, true, false⟩
def needRW : Rights := ⟨false, false, true, true⟩
def needXFER : Rights := ⟨false, true, false, false⟩
def needROOT : Rights := ⟨true, false, false, false⟩
def needNone : Rights := ⟨false, false, false, false⟩

def CapState.code : CapState → Nat | .free => 0 | .filling => 1 | .full => 2 | .draining => 3
def CapKind.code : CapKind → Nat | .excl => 0 | .frac => 1 | .commons => 2 | .phase => 3
def CapLevel.code : CapLevel → Nat | .tile => 0 | .cluster => 1 | .hbm => 2 | .host => 3 | .peer => 4

/-- The handle image of a record (R22): its rights above its die and number. -/
def CapRec.image (c : CapRec) : Nat := c.rights.toNat * 2 ^ 24 + c.img
/-- The record a handle value names (R22). -/
def imgOf (h : Word) : Image := h.toNat % 2 ^ 23
/-- A root of this device: a proxy stands for a root elsewhere (R365). -/
def CapRec.isRoot (c : CapRec) : Bool := c.root == c.img && c.proxy.isNone
/-- Attributes as R23 [51:49] holds them. -/
def CapRec.attrs (c : CapRec) : Nat := (if c.far then 4 else 0) + (if c.replayable then 2 else 0) + (if c.packable then 1 else 0)
def noOwner : Tid := 0xFFFFFFFF
def launchOwner : Tid := 0xFFFFFFFE

/-- The record's words as the quire holds them (R23). -/
def CapRec.words (c : CapRec) : List Nat :=
  [ c.base % 2 ^ 52,
    c.version.toNat * 2 ^ 48 + c.state.code * 2 ^ 46 + c.kind.code * 2 ^ 44 + c.level.code * 2 ^ 40 + (c.len - 1),
    c.count * 2 ^ 46 + c.asid.toNat * 2 ^ 32 + c.owner.toNat,
    (if c.written then 2 ^ 55 else 0) + (if c.frozen then 2 ^ 54 else 0) + (if c.revoked then 2 ^ 53 else 0)
      + (if c.poisoned then 2 ^ 52 else 0) + c.attrs * 2 ^ 49 + c.format.toNat * 2 ^ 44 + c.rights.toNat * 2 ^ 40
      + c.shape.toNat * 2 ^ 24 + c.root % 2 ^ 24 ]

/-- The state that admission reads: a FRAC record's state follows its root's (R28). -/
def State.capState (s : State) (c : CapRec) : CapState :=
  if c.kind = .frac then (match s.rec? c.root with | some r => r.state | none => c.state) else c.state
/-- The version of a record: that of its root (R31). -/
def State.capVersion (s : State) (c : CapRec) : BitVec 16 :=
  match s.rec? c.root with | some r => r.version | none => c.version
/-- The count that CGET and the rules read: the holders of a COMMONS buffer stand in its root. -/
def State.capCount (s : State) (c : CapRec) : Nat :=
  if c.kind = .commons then (match s.rec? c.root with | some r => r.count | none => c.count) else c.count

/-! ## Checks (R24, R25) -/

def trapCapv (sub : Nat) (handle : Option (BitVec 4) := none) : TrapInfo := { cause := .capv, sub := sub, handle := handle }
def trapIll : TrapInfo := { cause := .ill }
def subNULL : Nat := 0
def subRGT : Nat := 1
def subKIND : Nat := 2
def subSTATE : Nat := 3
def subFRAC : Nat := 4
def subCNT : Nat := 5
def subROOT : Nat := 6
def subDEST : Nat := 7
def subLEN : Nat := 8
def subRECD : Nat := 9
def subOWN : Nat := 10

/-- Whether a launch holds a record (R25, R262). -/
def CapRec.heldBy (c : CapRec) (l : Nat) : Bool := c.launch == some l || c.alsoHeld.contains l
/-- Whether a task may use a record: it owns it, or its launch holds it (R24 check 2, R25). -/
def CapRec.usableBy (c : CapRec) (t : Task) : Bool :=
  (c.owner == t.tid || (c.owner == launchOwner && c.heldBy t.launch)) && c.asid == t.asid

/-- Checks 1 to 5 of R24 on a handle of the task in focus; skipPoison is CMARK.clrp's. A record in which the quire has found an uncorrectable error reports MERR to its holder (R40). -/
def State.checkHandle (s : State) (h : BitVec 4) (need : Rights) (skipPoison : Bool := false) : Except TrapInfo CapRec :=
  let w := s.task.h[h.toNat]'h.isLt
  if w = 0 then .error (trapCapv subNULL h)
  else match s.rec? (imgOf w) with
    | none => .error (trapCapv subOWN h)
    | some c =>
      if !c.usableBy s.task then .error (trapCapv subOWN h)
      else if c.revoked then .error { cause := .revk, handle := h }
      else if s.quireBad.contains c.img || (c.poisoned && !skipPoison) then .error { cause := .merr, handle := h }
      else if c.rights.lacks need then .error (trapCapv (if c.kind = .frac ∧ need.wr ∧ !c.rights.wr then subFRAC else subRGT) h)
      else .ok c

/-! ## Admission (R28, R81, R86) -/

/-- What an instruction wants of a record (R28). -/
inductive Use where
  | load (word : Bool) | store (word : Bool) | atomic | engineRead | engineWrite | send (policy : Nat) | split | free
deriving DecidableEq, Repr

/-- The outcome of admission: proceed, wait in the slot, or CAPV with a subcode. -/
inductive Admit where
  | ok | wait | no (sub : Nat)
deriving DecidableEq, Repr

/-- Admission of an EXCL record in FULL by its shares, else by its state (R28). -/
def admitExcl (st : CapState) (shares : Nat) (u : Use) : Admit :=
  match st with
  | .filling | .free => .wait
  | .draining => (match u with | .load _ | .engineRead => .ok | _ => .wait)
  | .full =>
    if shares = 0 then .ok
    else match u with
      | .load _ | .engineRead | .split => .ok
      | .send p => if p = 0 then .ok else .no subFRAC
      | .store _ | .atomic | .engineWrite | .free => .no subFRAC

/-- The table of R28, with the words of COMMONS and the front bank of PHASE as R81 gives them. -/
def State.admits (s : State) (c : CapRec) (u : Use) : Admit :=
  match c.kind with
  | .excl => admitExcl c.state c.count u
  | .frac =>
    match u with
    | .load _ | .engineRead => admitExcl (s.capState c) 0 u
    | .store _ | .engineWrite | .atomic => .no subFRAC
    | .send p => if p = 0 then admitExcl (s.capState c) 0 u else .no subKIND
    | .split => .ok
    | .free => .no subKIND
  | .commons =>
    match u with
    | .load word | .store word => if word then .ok else .no subKIND
    | .atomic => .ok
    | .engineRead | .engineWrite | .split => .no subKIND
    | .send p => if p = 0 ∨ p = 3 then .ok else .no subKIND
    | .free => .ok
  | .phase =>
    match u with
    | .load _ | .engineRead | .free => .ok
    | .store _ | .atomic | .engineWrite | .send _ | .split => .no subKIND

/-! ## Translation (R37 to R39, R279) -/

inductive WalkRes where
  | page (p : PageMap) | noMap (malformed : Bool) | merr
deriving DecidableEq, Repr

/-- The word of a page-table entry, or none where it holds an uncorrectable error. -/
def State.tableWord (s : State) (a : Nat) : Option Nat :=
  if s.hasUE (hbmBase + a) 8 then none else some (leValue (s.readPhys (hbmBase + a) 8))

/-- A walk from a table down (R279); each level gives the low bit of its index, the index width, the size that a leaf maps (0: none) and the size of the next table. -/
def State.walkLevels (s : State) (asid : Asid) (va : Nat) : List (Nat × Nat × Nat × Nat) → Nat → WalkRes
  | [], _ => .noMap true
  | (lo, w, leafSize, nextSize) :: ls, table =>
    match s.tableWord (table + va / 2 ^ lo % 2 ^ w * 8) with
    | none => .merr
    | some e =>
      let base := e / 2 ^ 8 % 2 ^ 46 * 2 ^ 8
      let target := e / 2 ^ 62
      let device := e / 2 ^ 54 % 2 ^ 8
      if e % 2 = 0 then .noMap false
      else if target = 3 then .noMap false
      else if e / 16 % 16 ≠ 0 ∨ (target ≠ 2 ∧ device ≠ 0) then .noMap true
      else if e / 2 % 2 = 1 then
        if leafSize = 0 ∨ base % leafSize ≠ 0 then .noMap true
        else if target = 0 ∧ hbmSize < base + leafSize then .noMap true
        else .page ⟨asid, va / leafSize * leafSize, leafSize, target, device, base, e / 8 % 2 == 1, e / 4 % 2 == 1⟩
      else if nextSize = 0 ∨ base % nextSize ≠ 0 then .noMap true
      else s.walkLevels asid va ls base

def walkShape : List (Nat × Nat × Nat × Nat) :=
  [(39, 13, 0, 4096), (30, 9, 2 ^ 30, 4096), (21, 9, 2 ^ 21, 256), (16, 5, 2 ^ 16, 0)]

/-- The ASID table's entry (R277). -/
def State.asidWord (s : State) (a : Asid) : Nat := ((findBy (·.1) a.toNat s.asids).map (·.2.toNat)).getD 0
def State.asidLive (s : State) (a : Asid) : Bool := s.asidWord a / 2 ^ 63 == 1

/-- The mapping of a virtual address: the mappings that CALLOC and MOVE made, then the page tables of the ASID (log 12). -/
def State.walk (s : State) (asid : Asid) (va : Nat) : WalkRes :=
  match s.pages.find? fun p => p.asid == asid && decide (p.vbase ≤ va ∧ va < p.vbase + p.size) with
  | some p => .page p
  | none =>
    if s.asidLive asid then s.walkLevels asid va walkShape (s.asidWord asid / 2 ^ 16 % 2 ^ 38 * 2 ^ 16)
    else .noMap false

/-- Where a page puts a virtual address: HBM or host memory of this device, or nothing that the spec gives a packet for (log 11). -/
def PageMap.phys (p : PageMap) (va : Nat) : Option Nat :=
  match p.target with
  | 0 => some (hbmBase + p.pbase + (va - p.vbase))
  | 1 => some (hostBase + p.pbase + (va - p.vbase))
  | _ => none

/-- The translation cache of a cluster (R37). -/
def State.tcFind (s : State) (cluster : Nat) (asid : Asid) (va : Nat) : Option PageMap :=
  (s.clusterAt cluster).tc.find? fun p => p.asid == asid && decide (p.vbase ≤ va ∧ va < p.vbase + p.size)

/-- The bank of a PHASE buffer that loads read (R230). -/
def CapRec.frontOff (c : CapRec) : Nat := match c.phase with | some p => if p.frontHigh then c.len else 0 | none => 0
def CapRec.backOff (c : CapRec) : Nat := match c.phase with | some p => if p.frontHigh then 0 else c.len | none => 0

/-- A launch's view of an HBM address: its shadow version of the page when it has one (R348). -/
def State.shadowOf (s : State) (launch : Nat) (a : Nat) : Nat :=
  if isHbm a then
    match s.launchAt? launch with
    | some l =>
      match l.shadows.find? fun sh => sh.page == a / 2 ^ 16 * 2 ^ 16 with
      | some sh => sh.copy + a % 2 ^ 16
      | none => a
    | none => a
  else a

/-- The physical address of an access by the walk alone, for engines, fetch and records; a launch's shadow versions stand apart. -/
def State.rawPhys (s : State) (c : CapRec) (off : Nat) (write : Bool) : Except TrapInfo Nat :=
  match c.level with
  | .tile | .cluster => .ok (c.base + c.frontOff + off)
  | .hbm | .host =>
    match s.walk c.asid (c.base + off) with
    | .page p =>
      if (if write then p.wr else p.rd) then
        match p.phys (c.base + off) with
        | some a => .ok a
        | none => .error { cause := .pflt }
      else .error { cause := .pflt }
    | .noMap _ => .error { cause := .pflt }
    | .merr => .error { cause := .merr }
  | .peer => .error { cause := .pflt }

/-- Whether a launch is replayable. -/
def State.replayable (s : State) (l : Nat) : Bool := match s.launchAt? l with | some x => x.replayable | none => false
/-- The launches that a buffer was lent through, the last first: those of its root (R264). -/
def State.lendChain (s : State) (c : CapRec) : List Nat :=
  let r := (s.rec? c.root).getD c
  r.fromLaunch.toList ++ r.outer.filterMap (·.1)
/-- The launch to whose shadow versions the writes of a buffer go (R348). -/
def State.shadowLaunch (s : State) (c : CapRec) : Option Nat := (s.lendChain c).find? s.replayable
/-- An address as the launch that a buffer was lent to sees it: its own shadow version of the page, else that of a launch before it (R348). -/
def State.shadowView (s : State) (c : CapRec) (a : Nat) : Nat := (((s.lendChain c).map fun l => s.shadowOf l a).find? fun b => b != a).getD a
/-- The address as the launch of the record sees it (R348). -/
def State.physOf (s : State) (c : CapRec) (off : Nat) (write : Bool) : Except TrapInfo Nat :=
  match s.rawPhys c off write with
  | .ok a => .ok (s.shadowView c a)
  | .error e => .error e

/-- The byte at an offset of a buffer as an engine reads it. -/
def State.capByte (s : State) (c : CapRec) (off : Nat) : Except TrapInfo Byte :=
  match s.physOf c off false with
  | .ok a => if s.hasUE a 1 then .error { cause := .merr } else .ok (memGet a s.mem)
  | .error e => .error e

/-! ## Storage (R44, R384; log 12) -/

/-- Bytes of storage a record holds, in the granules of its level. -/
def storageSize (level : CapLevel) (kind : CapKind) (len : Nat) : Nat :=
  let n := if kind = .phase then 2 * len else len
  let g := match level with | .tile => 64 | .cluster => 128 | _ => 2 ^ 16
  (n + g - 1) / g * g

/-- The lowest start in lo..hi at which size bytes overlap no taken range. -/
def firstFit (lo hi size : Nat) (taken : List (Nat × Nat)) : Option Nat :=
  let fits (a : Nat) : Bool := decide (lo ≤ a ∧ a + size ≤ hi) && taken.all fun r => decide (a + size ≤ r.1 ∨ r.1 + r.2 ≤ a)
  (lo :: taken.map fun r => r.1 + r.2).foldl (fun best a =>
    if fits a then (match best with | some b => if a < b then some a else some b | none => some a) else best) none

/-- Ranges of on-chip storage that records and context frames hold. -/
def State.takenOnChip (s : State) : List (Nat × Nat) :=
  (s.quire.filterMap fun c => match c.level with
    | .tile | .cluster => if c.window || c.kind = .frac then none else some (c.base, storageSize c.level c.kind c.len)
    | _ => none)
  ++ (s.allTasks.map fun t => t.frame).flatten

/-- The allocatable range of a tile (R1, R120) and of a cluster. -/
def State.allocTile (s : State) (t size : Nat) : Option Nat :=
  firstFit (tileBase t) (tileBase t + 240 * 1024) size (s.takenOnChip.filter fun r => r.1 / 2 ^ 18 == t && decide (r.1 < 2 ^ 40))
def State.allocCluster (s : State) (c size : Nat) : Option Nat :=
  firstFit (clusterBase c) (clusterBase c + 2 ^ 22) size (s.takenOnChip.filter fun r => decide (clusterBase c ≤ r.1 ∧ r.1 < clusterBase c + 2 ^ 22))

/-- Physical pages that CALLOC, the shadow versions and the snapshots hold: the upper half of a die's range serves them (log 12). -/
def State.takenHbm (s : State) : List (Nat × Nat) :=
  (s.pages.map fun p => (hbmBase + p.pbase, p.size)) ++ (s.launches.map fun l => (l.shadows.map fun sh => (sh.copy, 2 ^ 16)) ++ l.snapshot.filterMap (·.copy)).flatten
def State.allocHbm (s : State) (die size : Nat) : Option Nat :=
  let lo := hbmBase + die * hbmPerDie
  firstFit (lo + hbmPerDie / 2) (lo + hbmPerDie) size s.takenHbm
/-- A virtual range of an ASID that no HBM record and no mapping holds, in the upper half of the space. -/
def State.allocVirtual (s : State) (asid : Asid) (size : Nat) : Option Nat :=
  firstFit (2 ^ 51) (2 ^ 52) size
    ((s.pages.filterMap fun p => if p.asid = asid then some (p.vbase, p.size) else none)
     ++ s.quire.filterMap fun c => if c.asid = asid ∧ c.level = .hbm then some (c.base, storageSize .hbm c.kind c.len) else none)

/-- The lowest free record number of a die's quire (R384); number 0 is never allocated. -/
def lowestFree : Nat → Nat → List Nat → Option Nat
  | 0, _, _ => none
  | fuel + 1, n, used => if used.contains n then lowestFree fuel (n + 1) used else some n
def State.freeRecord (s : State) (die : Nat) : Option Image :=
  let used := s.quire.filterMap fun c => if c.img / 2 ^ 20 = die then some (c.img % 2 ^ 20) else none
  match lowestFree (used.length + 1) 1 used with
  | some n => if n < 2 ^ 20 then some (die * 2 ^ 20 + n) else none
  | none => none

/-- The storage of a record released and scrubbed (R45), with the mapping that CALLOC made for it. -/
def State.releaseStorage (s : State) (c : CapRec) : State :=
  if c.window then s
  else match c.level with
  | .tile | .cluster => s.scrub c.base (storageSize c.level c.kind c.len)
  | .hbm =>
    match s.pages.find? fun p => p.asid == c.asid && p.vbase == c.base with
    | some p =>
      let s := s.scrub (hbmBase + p.pbase) p.size
      { s with pages := s.pages.filter fun q => !(q.asid == c.asid && q.vbase == c.base)
               clusters := s.clusters.map fun k => { k with tc := k.tc.filter fun q => !(q.asid == c.asid && q.vbase == c.base) } }
    | none => s
  | _ => s

/-- Record-cache entries whose record lies in a buffer leave every tile's cache (R214). -/
def State.dropCached (s : State) (root : Nat) : State :=
  let f (t : Tile) : Tile := { t with cache := t.cache.filter fun e => e.root != root }
  { s with tile := f s.tile, tiles := s.tiles.map f }

/-- Store-buffer entries of a buffer that is freed leave with its bytes. -/
def State.dropStores (s : State) (root : Nat) : State :=
  let f (t : Tile) : Tile := { t with sb := t.sb.filter fun e => e.img != root }
  { s with tile := f s.tile, tiles := s.tiles.map f }

/-- A root freed with its storage; FRAC records that still name it become tombstones (log 13). -/
def State.freeRoot (s : State) (c : CapRec) : State :=
  let s := (s.releaseStorage c).dropRec c.img
  let s := s.dropStores c.img
  let s := s.dropCached c.img
  s.setQuire (s.quire.map fun f => if f.kind = .frac ∧ f.root = c.img then { f with revoked := true } else f)

/-- A COMMONS holder dropped: the count in the root falls, and at zero the storage is freed (R45); a window record keeps its number until WINFREE (R278). -/
def State.dropHolder (s : State) (c : CapRec) : State :=
  let s := if c.isRoot then s.modRec c.img fun r => { r with owner := 0 } else s.dropRec c.img
  match s.rec? c.root with
  | none => s
  | some r =>
    let r := { r with count := r.count - 1 }
    if r.count = 0 ∧ !r.window then s.freeRoot r else s.putRec r

/-- Husks bound to a root are invalidated on every tile (R31, at a wrap of its version). -/
def State.invalidateHusks (s : State) (root : Nat) : State :=
  let f (t : Tile) : Tile := { t with husks := t.husks.map fun h => if h.bound && h.root == root then { h with valid := false } else h }
  { s with tile := f s.tile, tiles := s.tiles.map f }

/-! ## Revocation packets (R32, R371) -/

/-- Lists cut into pieces of at most n. -/
def pieces {α : Type} (n : Nat) : Nat → List α → List (List α)
  | 0, _ => []
  | _ + 1, [] => []
  | fuel + 1, l => l.take n :: pieces n fuel (l.drop n)

/-- The REVOKE packets of a root to one peer: the new version and the proxies it revokes, 32 to a packet (R371). -/
def State.sendRevoke (s : State) (root : CapRec) (dev : Nat) (images : List Nat) : State :=
  let send (st : State) (is : List Nat) : State :=
    (st.sendSequenced dev (st.packetTo dev 8 root.asid root.version root.img 0 is.length ((is.map fun i => bytesOf 8 i).flatten)) 0 0 0 none none).1
  if images.isEmpty then send s [] else (pieces 32 images.length images).foldl send s

/-- Every peer that holds proxies of a root. -/
def CapRec.peers (c : CapRec) : List Nat := (c.grants.map (·.dev)).eraseDups
/-- At a wrap of a root's version every peer that holds proxies is told (R32). -/
def State.tellWrap (s : State) (root : Image) : State :=
  match s.rec? root with
  | some r => r.peers.foldl (fun st d => st.sendRevoke r d []) s
  | none => s

/-! ## Versions, poison, forks and joins -/

/-- A root's version incremented, with what a wrap does on this device and at its peers (R31, R32). -/
def State.bumpVersion (s : State) (root : Image) : State :=
  match s.rec? root with
  | none => s
  | some r =>
    let v := r.version + 1
    let s := s.setQuire (s.quire.map fun c => if c.img = root then { c with version := v, revVersion := if v = 0 then v else c.revVersion }
                                              else if c.kind = .frac ∧ c.root = root then { c with version := v } else c)
    if v = 0 then (s.invalidateHusks root).tellWrap root else s

/-- The first store since the written bit was cleared increments the version and sets the bit (R31). -/
def State.noteStore (s : State) (root : Image) : State :=
  match s.rec? root with
  | some r => if r.written then s else (s.bumpVersion root).modRec root fun c => { c with written := true }
  | none => s
def State.clearWritten (s : State) (root : Image) : State := s.modRec root fun c => { c with written := false }

/-- Poison set in a root and in its FRAC records (R40). -/
def State.poison (s : State) (root : Image) : State :=
  s.setQuire (s.quire.map fun c => if c.img = root ∨ c.root = root then { c with poisoned := true } else c)

/-- An engine operation forks: its source drains, a fraction of a peer's root in its own record, and its destination fills with a new version (R27, R31, R198, R247). -/
def State.forkRead (s : State) (img : Image) (tid : Tid) : State :=
  match s.rec? img with
  | none => s
  | some c =>
    let root := if c.kind = .frac then c.root else c.img
    (s.modRec root fun r => { r with readers := r.readers + 1, written := false, filler := tid
                                     state := if r.kind = .excl ∨ r.kind = .frac then .draining else r.state })
def State.forkWrite (s : State) (img : Image) (tid : Tid) : State :=
  (s.bumpVersion img).modRec img fun r => { r with writers := r.writers + 1, filler := tid
                                                   state := if r.kind = .excl then .filling else r.state }
/-- An engine operation joins (R27). -/
def State.joinRead (s : State) (img : Image) : State :=
  match s.rec? img with
  | none => s
  | some c =>
    let root := if c.kind = .frac then c.root else c.img
    s.modRec root fun r => { r with readers := r.readers - 1
                                    state := if r.state = .draining ∧ r.readers ≤ 1 then .full else r.state }
def State.joinWrite (s : State) (img : Image) : State :=
  s.modRec img fun r => { r with writers := r.writers - 1
                                 state := if r.state = .filling ∧ r.writers ≤ 1 then .full else r.state }

/-- A new record with the fields of another, at a free number. -/
def CapRec.fresh (img : Image) (base : Nat) (level : CapLevel) (kind : CapKind) (len : Nat) (asid : Asid) (owner : Tid) : CapRec :=
  { img := img, base := base, version := 0, state := .full, kind := kind, level := level, len := len
    count := if kind = .commons then 1 else 0, asid := asid, owner := owner, written := false, frozen := false
    revoked := false, poisoned := false, far := false, replayable := false, packable := false, format := 0
    rights := ⟨true, true, true, true⟩, shape := 0, root := img
    phase := if kind = .phase then some ⟨false, Vector.replicate 4 0, 0, false⟩ else none }

/-- FRAC shares returned to the root and joined (R20, R48). -/
def State.returnShares (s : State) (c : CapRec) : State :=
  (s.dropRec c.img).modRec c.root fun r => { r with count := r.count - c.count }

/-! ## Frozen fractions and disposal (R20, R21, R371) -/

/-- A change of the frozen state of a proxy, reported to its owner (R371). -/
def State.sendFrz (s : State) (c : CapRec) (frozen : Bool) : State :=
  match c.proxy with
  | none => s
  | some px => (s.sendSequenced px.dev (s.packetTo px.dev 12 c.asid c.version px.image 0 (c.img * 2 + (if frozen then 1 else 0)) []) 0 0 0 none none).1

/-- The frozen bits of the FRAC records a task holds, set or cleared (R21); revoked records keep theirs, and so does one in which the quire has found an error (R40). -/
def State.freezeAll (s : State) (tid : Tid) (frozen : Bool) : State :=
  s.quire.foldl (fun st c =>
    if c.owner = tid ∧ c.kind = .frac ∧ !c.revoked ∧ c.frozen ≠ frozen ∧ !(s.quireBad.contains c.img) then (st.putRec { c with frozen := frozen }).sendFrz c frozen else st) s

/-- The payload of a CAPXFER (R370): phase 0 offer, 1 done; owner and image of the root. -/
def capxferBytes (phase policy : Nat) (c : CapRec) (version : BitVec 16) (sender : Tid) (owner root : Nat) (dest p0 p1 : Word) : List Byte :=
  let rights := if c.kind = .excl then c.rights.toNat else c.rights.toNat % 8
  wordBytes
    [ BitVec.ofNat 64 (phase * 2 ^ 56 + policy * 2 ^ 54 + c.kind.code * 2 ^ 52 + rights * 2 ^ 48 + version.toNat * 2 ^ 32 + sender.toNat),
      BitVec.ofNat 64 (c.format.toNat * 2 ^ 59 + c.shape.toNat * 2 ^ 43 + c.attrs * 2 ^ 40 + (c.len - 1)),
      BitVec.ofNat 64 ((if c.kind = .frac then c.count else 0) * 2 ^ 31 + owner * 2 ^ 23 + root),
      dest, p0, p1, 0, 0 ]

/-- A proxy whose holder has ended returns to the root's owner (R20): a CAPXFER of TID 0 to destination word 0, which names no task, so that the owner joins its shares, or counts its holder down; the record is freed on the acknowledgement (R370; log 17). -/
def State.returnProxy (s : State) (c : CapRec) (p : ProxyOf) : State :=
  let s := s.putRec { c with owner := noOwner, state := .draining }
  (s.sendSequenced p.dev (s.packetTo p.dev 5 c.asid c.version p.image 0 0 (capxferBytes 0 0 c c.version 0 p.dev p.image 0 0 0)) 0 0 0 none (some c.img)).1

/-- A phase buffer whose owner has ended: owner-exited, with no deposit, and its back bank is scrubbed (R20, R232, R255, R256). -/
def State.exitPhase (s : State) (c : CapRec) : State :=
  let s := s.scrub (c.base + c.backOff) c.len
  s.putRec { c with phase := c.phase.map fun p => { p with exited := true, counts := Vector.replicate 4 0 }
                    owner := if c.fromLaunch.isSome then launchOwner else noOwner }

/-- The disposal of a capability of a task that ends (R20); trapped is the column for termination after a trap. -/
def State.dispose (s : State) (img : Image) (trapped : Bool) : State :=
  match s.rec? img with
  | none => s
  | some c =>
    if c.owner = launchOwner then s
    else match c.kind with
    | .excl =>
      match c.fromLaunch with
      | some _ => s.putRec { c with owner := launchOwner }
      | none => if c.level = .peer then s.dropRec img else s.freeRoot c
    | .frac =>
      if c.revoked then s.dropRec img
      else if trapped then s.putRec { c with frozen := true }
      else (match c.proxy with | some p => s.returnProxy c p | none => s.returnShares c)
    | .commons =>
      if c.revoked then s.dropRec img
      else (match c.proxy with | some p => s.returnProxy c p | none => s.dropHolder c)
    | .phase => s.exitPhase c

end Sys2Proof.Machine
end

