-- ==== Sys2Proof/Machine/Group.lean ====
section
/-!
DEFINITION. Subgroups of a launch and what the end of a member does to its barriers, lines and sets: R226, R234, R235, R237, R285, R295, R296, R300, R314.
-/
namespace Sys2Proof.Machine

open Sys2Proof

/-! ## Subgroups -/

/-- The place of a launch in the launch tables of the dies it covers (R263, R278). -/
def Launch.tableIndex (l : Launch) : Nat := l.idx % 4096
/-- A coordinate relative to the launch origin. -/
def Launch.rel (l : Launch) (c : Nat × Nat) : Nat × Nat := (c.1 - l.row, c.2 - l.col)
/-- The subgroup of a relative coordinate for exponents a and b (R234). -/
def subgroupOf (a b : Nat) (rc : Nat × Nat) : Subgroup := ⟨a, b, rc.1 / 2 ^ a * 2 ^ a, rc.2 / 2 ^ b * 2 ^ b⟩
/-- Height and width of a subgroup, cut at the launch's far edges. -/
def Launch.extent (l : Launch) (g : Subgroup) : Nat × Nat := (min (2 ^ g.a) (l.rows - g.row), min (2 ^ g.b) (l.cols - g.col))
def subgroupHas (g : Subgroup) (rc : Nat × Nat) : Bool := rc.1 / 2 ^ g.a * 2 ^ g.a == g.row && rc.2 / 2 ^ g.b * 2 ^ g.b == g.col
/-- Members of a subgroup whose tile tasks have not ended, by global coordinate. -/
def Launch.liveMembers (l : Launch) (g : Subgroup) : List (Nat × Nat × Tid) := l.members.filter fun m => subgroupHas g (l.rel (m.1, m.2.1))
/-- Position of a relative coordinate in a subgroup (R285). -/
def positionIn (g : Subgroup) (width : Nat) (snake : Bool) (rc : Nat × Nat) : Nat :=
  let r := rc.1 - g.row
  let c := rc.2 - g.col
  if snake && r % 2 == 1 then r * width + (width - 1 - c) else r * width + c
/-- The global tiles at the corners of a subgroup lie in one cluster, or on one die. -/
def Launch.corners (l : Launch) (g : Subgroup) : Nat × Nat :=
  let (h, w) := l.extent g
  (tileIx (l.row + g.row) (l.col + g.col), tileIx (l.row + g.row + h - 1) (l.col + g.col + w - 1))

/-- The neighbour of a coordinate in a direction, if it holds a tile task of the launch (R226, R276). -/
def Launch.neighbour (l : Launch) (rc : Nat × Nat) (d : Dir) : Option (Nat × Nat) :=
  let (r, c) := rc
  match d with
  | .n => if r > 0 then some (r - 1, c) else if l.torus then some (l.rows - 1, c) else none
  | .s => if r + 1 < l.rows then some (r + 1, c) else if l.torus then some (0, c) else none
  | .w => if c > 0 then some (r, c - 1) else if l.torus then some (r, l.cols - 1) else none
  | .e => if c + 1 < l.cols then some (r, c + 1) else if l.torus then some (r, 0) else none
def dirOpposite : Dir → Dir | .n => .s | .s => .n | .e => .w | .w => .e
/-- The place of a direction in a vector of four. -/
def dirIx : Dir → Fin 4 | .n => 0 | .e => 1 | .s => 2 | .w => 3
/-- Latency of a channel between two tiles (R228). -/
def channelLatency (a b : Nat) : Nat := if dieOf a = dieOf b then 2 else 150
/-! ## Mesh and torus (R121, R276) -/

/-- A tile lies in the rectangle of a launch. -/
def Launch.holds (l : Launch) (t : Nat) : Bool :=
  decide (l.row ≤ rowOf t ∧ rowOf t < l.row + l.rows ∧ l.col ≤ colOf t ∧ colOf t < l.col + l.cols)
/-- Steps between two places of a ring of n (R276). -/
def ringSteps (n a b : Nat) : Nat := min (max a b - min a b) (n - (max a b - min a b))
/-- Routers on a minimal path between two tiles, one way: along the rings of a re-stitched torus region that holds both, else along the mesh (R121, R276). -/
def State.steps (s : State) (a b : Nat) : Nat :=
  match s.launches.find? fun l => l.stitch == 3 && l.holds a && l.holds b with
  | some l => ringSteps l.rows (rowOf a) (rowOf b) + ringSteps l.cols (colOf a) (colOf b)
  | none => hops a b
/-- Latency between two tiles (R121, R276). -/
def State.mesh (s : State) (a b : Nat) : Nat :=
  if a = b then 3 else if clusterOf a = clusterOf b then 24 else if dieOf a = dieOf b then 20 + 2 * s.steps a b else Config.latL3
/-- The TID of the tile task at a relative coordinate, if it has not ended. -/
def Launch.tidAt (l : Launch) (rc : Nat × Nat) : Option Tid :=
  (l.members.find? fun m => l.rel (m.1, m.2.1) == rc).map (·.2.2)

/-! ## Barriers -/

/-- From the last arrival to the release (R237). -/
def Launch.barrierDelay (l : Launch) (g : Subgroup) : Nat :=
  let (h, w) := l.extent g
  let (p, q) := l.corners g
  if clusterOf p = clusterOf q then 8 else if dieOf p = dieOf q then 16 + 2 * (h + w) else 16 + 2 * (h + w) + 600

def Barrier.group (b : Barrier) : Subgroup := ⟨b.a, b.b, b.row, b.col⟩
/-- Whether every member has arrived or ended (R235). -/
def Launch.barrierFull (l : Launch) (b : Barrier) : Bool :=
  !b.arrived.isEmpty && (l.liveMembers b.group).all fun m => b.arrived.any fun x => x.1 == m.2.2

/-- Releases of a launch that have become due start on their way (R235, R237). -/
def State.startReleases (s : State) (li : Nat) : State :=
  match s.launchAt? li with
  | none => s
  | some l =>
    let ready := l.barriers.filter fun b => !b.releasing && l.barrierFull b
    let s := s.putLaunch { l with barriers := l.barriers.map fun b => if !b.releasing && l.barrierFull b then { b with releasing := true } else b }
    ready.foldl (fun st b => st.schedule (st.clk + l.barrierDelay b.group) (.barrierRelease li b.group)) s

/-! ## Lines (R285, R290, R295, R296) -/

/-- Levels of the radix-4 tree of n members: the least L with 4^L ≥ n. -/
def log4up : Nat → Nat → Nat → Nat
  | 0, _, _ => 0
  | fuel + 1, n, p => if n ≤ p then 0 else 1 + log4up fuel n (p * 4)

/-- The delay of a line for a subgroup (R295); AFFINE adds 4 clk per level. -/
def Launch.lambda (l : Launch) (g : Subgroup) (n : Nat) : Nat × Nat :=
  let (h, w) := l.extent g
  let (p, q) := l.corners g
  let lv := log4up 9 n 1
  (10 + 4 * lv + 2 * (h + w) + (if dieOf p = dieOf q then 0 else 600), 4 * lv)

/-- A member's taken count and left mark for closing an epoch (R290): deposited, or left before it; taken, or left, or behind one that left; no row of a USER line goes to position 0. -/
def LineMember.leftBy (m : LineMember) (e : Nat) : Bool := match m.left with | some (x, _) => decide (x ≤ e) | none => false
def ScanLine.deposited (ln : ScanLine) (m : LineMember) (e : Nat) : Bool :=
  m.leftBy e || ln.deposits.any fun d => d.pos == m.pos && d.epoch == e
def ScanLine.tookOrGone (ln : ScanLine) (m : LineMember) (e : Nat) : Bool :=
  m.leftBy e || decide (e < m.taken) || (ln.user && m.pos == 0) || ln.members.any fun k => decide (k.pos < m.pos) && k.leftBy e
def ScanLine.closes (ln : ScanLine) (e : Nat) : Bool := ln.members.all fun m => ln.deposited m e && ln.tookOrGone m e

/-- The delay of a line (R295). -/
def ScanLine.delay (ln : ScanLine) : Nat := ln.lambda + ln.affineExtra
/-- The closing of an epoch becomes known one delay after the event that closes it (R290); no more than three epochs can close at once. -/
def ScanLine.noteFrom : Nat → Nat → ScanLine → ScanLine
  | 0, _, ln => ln
  | fuel + 1, clk, ln =>
    let e := ln.closed.length
    if ln.closes e ∧ ln.deposits.any (fun d => d.epoch == e) then
      ScanLine.noteFrom fuel clk { ln with closed := ln.closed ++ [(e, clk + ln.delay)] }
    else ln
def ScanLine.noteClosings (ln : ScanLine) (clk : Nat) : ScanLine := ScanLine.noteFrom 3 clk ln

def ScanLine.leave (ln : ScanLine) (tid : Tid) (epoch clk : Nat) : ScanLine :=
  (ScanLine.noteClosings { ln with members := ln.members.map fun m => if m.tid = tid ∧ m.left.isNone then { m with left := some (epoch, clk) } else m } clk)

/-- The lines of a context number and a generation in which a task stands, each changed with the task's place in it. -/
def Launch.onLines (l : Launch) (ctx gen : Nat) (tid : Tid) (f : ScanLine → LineMember → ScanLine) : Launch :=
  { l with lines := l.lines.map fun ln =>
      if ln.ctx == ctx && ln.gen == gen then (match ln.members.find? fun m => m.tid == tid with | some m => f ln m | none => ln) else ln }
/-- The lines that an ending tile task leaves (R296): with its deposits counted where it had joined, with epoch 0 where it had not. -/
def Task.leaveLines (t : Task) (clk : Nat) (l : Launch) : Launch :=
  { l with lines := l.lines.map fun ln =>
      if ln.members.any fun m => m.tid == t.tid then
        let c := (t.scan.toArray.getD ln.ctx ScanCtx.blank)
        ln.leave t.tid (if c.configured && c.begun == ln.gen then c.ed.toNat else 0) clk
      else ln }

/-- A member takes its oldest untaken epoch (R290). -/
def ScanLine.take (ln : ScanLine) (tid : Tid) (clk : Nat) : ScanLine :=
  let ms := ln.members.map fun (m : LineMember) => if m.tid = tid then { m with taken := m.taken + 1 } else m
  ScanLine.noteClosings { ln with members := ms } clk
/-- A row of a USER deposit taken by its successor (R290, R293). -/
def State.tookRow (s : State) (from_ : Option (Nat × Nat)) : State :=
  match from_ with
  | none => s
  | some (ctx, gen) => s.modLaunch s.task.launch fun l => l.onLines ctx gen s.task.tid fun ln m => ln.take m.tid s.clk

/-! ## Sets (R300, R314) -/

/-- Clocks from the last arrival of a SWADV to its release (R314). -/
def Calendar.releaseDelay (c : Calendar) (passes : Nat) : Nat :=
  16 + 2 * (c.height + c.width) + (c.members.length + 15) / 16 * (passes + 2)

/-- A participant ends: it counts as arrived ever after, and a set whose participants have all ended is scrubbed and freed (R300, R314). -/
def Calendar.endPart (c : Calendar) (tid : Tid) : Calendar :=
  { c with parts := c.parts.map fun p => if p.tid = tid then { p with ended := true } else p }
def Die.endParts (d : Die) (tid : Tid) : Die :=
  { d with calendars := (d.calendars.map fun c => c.endPart tid).filter fun c => c.parts.any fun p => !p.ended }

end Sys2Proof.Machine
end

