-- ==== Sys2Proof/Machine/Ops.lean ====
section
/-!
DEFINITION. The operations that the meanings share: registers, completing and waiting, errors, taking an exception and returning from it, messages, records, saved contexts and the end of a task.
-/
namespace Sys2Proof.Machine

open Sys2Proof

/-- What a meaning answers. -/
abbrev Out := Host.Outcome State Fault Refusal

/-! ## Registers (R64, R65) -/

def Hart.getX (h : Hart) (i : BitVec 5) : Word := if i = 0 then 0 else h.x[i.toNat]'i.isLt
def Hart.setX (h : Hart) (i : BitVec 5) (w : Word) : Hart := if i = 0 then h else { h with x := h.x.set i.toNat w i.isLt }
def Hart.getV (h : Hart) (i : BitVec 5) : Row := h.v[i.toNat]'i.isLt
def Hart.setV (h : Hart) (i : BitVec 5) (r : Row) : Hart := { h with v := h.v.set i.toNat r i.isLt }
def Hart.getM (h : Hart) (i : BitVec 2) : Word := h.m[i.toNat]'i.isLt
def Hart.setM (h : Hart) (i : BitVec 2) (w : Word) : Hart := { h with m := h.m.set i.toNat w i.isLt }
def Hart.getOX (h : Hart) (i : BitVec 3) : Word := h.ox[i.toNat]'i.isLt
def Hart.setOX (h : Hart) (i : BitVec 3) (w : Word) : Hart := { h with ox := h.ox.set i.toNat w i.isLt }
def Hart.getFS (h : Hart) (i : BitVec 2) : Word := h.fs[i.toNat]'i.isLt
def Task.getH (t : Task) (i : BitVec 4) : Word := t.h[i.toNat]'i.isLt
def Task.setH (t : Task) (i : BitVec 4) (w : Word) : Task := { t with h := t.h.set i.toNat w i.isLt }

def State.x (s : State) (i : BitVec 5) : Word := s.hart.getX i
def State.setX (i : BitVec 5) (w : Word) (s : State) : State := s.setHart (s.hart.setX i w)
def State.v (s : State) (i : BitVec 5) : Row := s.hart.getV i
def State.setV (i : BitVec 5) (r : Row) (s : State) : State := s.setHart (s.hart.setV i r)
def State.setM (i : BitVec 2) (w : Word) (s : State) : State := s.setHart (s.hart.setM i w)
def State.setOX (i : BitVec 3) (w : Word) (s : State) : State := s.setHart (s.hart.setOX i w)
def State.handle (s : State) (i : BitVec 4) : Word := s.task.getH i
def State.setHandle (i : BitVec 4) (w : Word) (s : State) : State := s.setTask (s.task.setH i w)

/-! ## Completing, jumping and waiting -/

/-- Fields of REPST (R69). -/
def repNext (r : Word) : Nat := r.toNat % 64
def repCount (r : Word) : Nat := r.toNat / 64 % 64
def repActive (r : Word) : Bool := r.toNat / 2 ^ 17 % 2 == 1

/-- The stream after an instruction of n bytes: the next instruction, or the next repeat of a REP (R69). -/
def Hart.advance (h : Hart) (n : Nat) : Hart :=
  if h.inRep then
    if repCount h.repst ≤ repNext h.repst then
      { h with repst := 0, pc := h.pc + 8, inRep := false, wait := none, met := none, order := none, walkFail := none }
    else { h with repst := h.repst + 1, inRep := false, wait := none, met := none, order := none, walkFail := none }
  else { h with pc := h.pc + BitVec.ofNat 64 n, wait := none, met := none, order := none, walkFail := none }

/-- The instruction of n bytes is complete. -/
def State.done (n : Nat) (s : State) : State := s.setHart (s.hart.advance n)
def finish (n : Nat) (s : State) : Out := .next (s.done n)

/-- The stream continues at a target. -/
def jump (pc : Word) (s : State) : Out := .next (s.setHart { s.hart with pc := pc, wait := none, met := none, order := none, walkFail := none })

/-- The slot is parked until some clocks after its issue (R109). -/
def State.busy (n : Nat) (s : State) : State := s.setHart { s.hart with readyAt := s.clk + n }

/-- The instruction waits in its slot and is issued again when its condition holds (R14). -/
def park (w : Wait) (s : State) : Out := .next (s.setHart { s.hart with wait := some w, met := none, inRep := false })

/-! ## Service in the order of issue (R111, R228, R283) -/

/-- The stream in focus has come to what serves its instruction, in the place of its first issue. -/
def State.lineUp (u : ServedBy) (s : State) : State :=
  if s.hart.order.any fun o => o.1 == u then s else { s.setHart { s.hart with order := some (u, s.nextId) } with nextId := s.nextId + 1 }
/-- How many streams of a list stand before the stream in focus. -/
def State.linedBefore (s : State) (u : ServedBy) (l : List Hart) : Nat :=
  match s.hart.order with
  | some (_, k) => (l.filter fun h => match h.order with | some (v, j) => v == u && decide (j < k) | none => false).length
  | none => 0
/-- Whether the stream in focus is the first of its task there. -/
def State.isFirst (s : State) (u : ServedBy) : Bool := s.linedBefore u (s.hartsOf s.task.tid) == 0
/-- The instruction held at issue by the ramp limiter: its slot is not ready in this clock, and others may issue (R109, R116). -/
def holdForRamp (clks : Nat) (s : State) : Out :=
  park (.ramp clks) { s.setTile { s.tile with lastSlot := s.tile.prevSlot } with cursor := s.tile.idx }

/-! ## Imprecise errors (R102) -/

/-- An imprecise error becomes pending for a task, or is counted in ERRST.lost of its stream (R102). -/
def State.pend (s : State) (tid : Tid) (stream : Nat) (e : TrapInfo) : State :=
  match s.taskAt? tid with
  | none => s
  | some t =>
    match t.pendErr with
    | none => s.putTask { t with pendErr := some ⟨{ e with imprecise := true }, stream⟩ }
    | some _ =>
      s.modHart tid stream fun h =>
        let lost := h.errst.toNat / 2 ^ 40 % 256
        if lost < 255 then { h with errst := h.errst + BitVec.ofNat 64 (2 ^ 40) } else h

/-! ## Abandoning a wait (R18, R106, R314) -/

/-- A parked stream whose wait is abandoned re-executes its instruction; a load's registers are as before it, and a SWADV before its advance withdraws its arrival. A reply of an access that has been performed, and a request on its way to a calendar, is no wait that can be abandoned (log 8); of the sweep instructions SWADV alone waits, from its issue on (R355). -/
def Hart.abandon (h : Hart) : Hart :=
  match h.wait with
  | none => h
  | some (.reply _) => h
  | some (.peerReply _ _) => h
  | some (.halo _ _ _) => h
  | some (.sweepReq _ r) => if r.act = .advance then { h with wait := none, met := none, order := none } else h
  | some (.data _ u) =>
    let h := { h with pc := u.pc, repst := u.repst, wait := none, met := none }
    let h := match u.x with | some (i, w) => h.setX i w | none => h
    match u.v with | some (i, r) => h.setV i r | none => h
  | some _ => { h with wait := none, met := none, order := none }

/-- Whether a parked stream is at an instruction boundary once its wait is abandoned. -/
def Hart.atBoundary (h : Hart) : Bool :=
  match h.wait with | some (.reply _) | some (.peerReply _ _) | some (.halo _ _ _) => false | some (.sweepReq _ r) => r.act == .advance | _ => true

/-- The arrival of a participant at a SWADV withdrawn (R314). -/
def Calendar.withdraw (c : Calendar) (tid : Tid) : Calendar :=
  { c with parts := c.parts.map fun p => if p.tid = tid then { p with arrived := false } else p }

def State.abandonWait (s : State) (h : Hart) : State :=
  let s := match h.wait with
    | some (.sweep die cal _) => s.modDie die fun d =>
        { d with calendars := d.calendars.map fun (c : Calendar) => if c.no = cal ∧ !c.advancing then c.withdraw h.tid else c }
    | _ => s
  s.putHart h.abandon

/-! ## Taking an exception (R20, R100, R101, R103, R118) -/

def Cause.code : Cause → Nat
  | .ill => 1 | .capv => 2 | .revk => 3 | .pflt => 4 | .algn => 5 | .budg => 6 | .wdog => 7 | .ownx => 8
  | .mchk => 9 | .merr => 10 | .lnke => 11 | .seiz => 12 | .sysc => 13 | .brkp => 14

/-- ERRST as a delivery writes it (R103): lost is kept, pending says whether another imprecise error waits. -/
def errstWord (t : TrapInfo) (stream : Nat) (pending : Bool) (old : Word) : Word :=
  BitVec.ofNat 64 ((if t.imprecise then 2 ^ 55 else 0) + (if pending then 2 ^ 54 else 0)
    + old.toNat / 2 ^ 40 % 256 * 2 ^ 40 + stream % 4 * 2 ^ 38
    + (match t.handle with | some h => 2 ^ 36 + h.toNat * 2 ^ 32 | none => 0)
    + t.detail.toNat * 2 ^ 16 + t.sub * 2 ^ 8 + t.cause.code)

/-- x24 to x31 exchanged with a set of shadows. -/
def swapShadow (x : Vector Word 32) (sh : Vector Word 8) : Vector Word 32 × Vector Word 8 :=
  (Vector.ofFn fun i => if h : 24 ≤ i.val then sh[i.val - 24]'(by omega) else x[i],
   Vector.ofFn fun i => x[i.val + 24]'(by omega))

/-- Engine operations of a task that have not joined (R19 step 2). -/
def Tile.opsOf (t : Tile) (tid : Tid) : Nat :=
  (t.matrix.filter fun o => o.tid == tid).length + (t.fills.filter fun o => o.tid == tid).length
    + (t.xfers.filter fun o => o.tid == tid).length

/-- Operand slots of a task released and scrubbed (R173). -/
def Tile.releaseOperands (t : Tile) (tid : Tid) : Tile :=
  { t with operands := t.operands.map fun o => if o.owner = tid then OperandSlot.blank else o }

/-- Where a task leaves its launch: the tile task's neighbours learn it one channel latency later (R229), its lines and sets are left (R296, R300), barriers that waited for it may release (R235), and the last task completes the launch (R264). -/
def State.leaveLaunch (s : State) (t : Task) : State :=
  match s.launchAt? t.launch with
  | none => s
  | some l =>
    let l := t.leaveLines s.clk l
    let l := { l with members := l.members.filter fun m => m.2.2 != t.tid, spawned := l.spawned.filter fun x => x != t.tid
                      gone := match t.coord with | some rc => l.gone ++ [(rc.1, rc.2, s.clk)] | none => l.gone }
    let s := s.putLaunch l
    let s := match t.coord with
      | none => s
      | some rc =>
        let s := [Dir.n, .e, .s, .w].foldl (fun (st : State) d =>
          match l.neighbour (l.rel rc) d with
          | none => st
          | some nb =>
            match l.tidAt nb with
            | none => st
            | some nt => st.schedule (st.clk + channelLatency t.tile (tileIx (l.row + nb.1) (l.col + nb.2))) (.neighbourExitedFlag nt (dirOpposite d))) s
        s.modDie (dieOf t.tile) fun d => d.endParts t.tid
    let s := s.startReleases l.idx
    if l.members.isEmpty ∧ l.spawned.isEmpty then s.schedule s.clk (.launchComplete l.idx) else s

/-- The parent's join counter falls by one (R19 step 5). -/
def State.joinParent (s : State) (t : Task) : State :=
  if t.detached ∨ t.parent = 0 then s else s.modTask t.parent fun p => { p with join := p.join - 1 }

/-- Every capability a task holds: the records it owns, with or without a handle (R48), and those in its inbox and held returns, and those of its record while no slot has taken it (R9, R20, R34). -/
def State.holdings (s : State) (t : Task) : List Image :=
  ((s.quire.filter fun c => c.owner == t.tid).map (·.img)) ++ t.inbox.filterMap (·.cap) ++ t.returns.filterMap (·.cap)
    ++ (if t.frame.isEmpty ∧ (t.state = .queued ∨ t.state = .timed) then t.h.toList.filterMap fun w => (s.rec? (imgOf w)).bind fun c => if c.owner = noOwner then some c.img else none else [])

/-- Donations that a task made end (R271). -/
def State.endDonations (s : State) (donor : Tid) : State :=
  let f (t : Task) : Task := { t with donations := t.donations.filter fun d => d.donor != donor }
  let g (q : Queued) : Queued := { q with item := { q.item with donations := q.item.donations.filter fun d => d.donor != donor } }
  let r (i : TaskRec) : TaskRec := { i with donations := i.donations.filter fun d => d.donor != donor }
  let k (t : Tile) : Tile := { t with deque := t.deque.map g, spill := t.spill.map g, waiting := t.waiting.map fun w => { w with item := r w.item } }
  let w (d : Die) : Die := { d with wheel := d.wheel.map fun x => { x with item := r x.item }, wheelWait := d.wheelWait.map r }
  { s with task := f s.task, tasks := s.tasks.map f, tile := k s.tile, tiles := s.tiles.map k, dies := s.dies.map w }

/-- The end of a task whose engine operations have joined: capabilities disposed of, slots and operand slots freed, the parent told (R19, R20, R21). -/
def State.finishTask (s : State) (t : Task) (trapped : Bool) : State :=
  let s := if trapped then s.freezeAll t.tid true else s
  let s := (s.holdings t).foldl (fun st i => st.dispose i trapped) s
  let slots := (s.hartsOf t.tid).filterMap (·.slot)
  let s := s.modTile t.tile fun tl =>
    { tl.releaseOperands t.tid with freeAt := slots.foldl (fun v k => if h : k < 8 then v.set k s.clk h else v) tl.freeAt }
  let s := (s.hartsOf t.tid).foldl (fun st h => st.putHart { h with live := false, slot := none, wait := none }) s
  let s := s.joinParent t
  let s := s.putTask { t with state := .exited, frame := [], h := Vector.replicate 16 0, inbox := [], returns := [], pendErr := none, ending := false, exiting := false }
  (s.endDonations t.tid).leaveLaunch t

/-- A start condition of a replay is met for a launch (R349). -/
def State.startReplay (s : State) (li : Nat) : State :=
  match s.launchAt? li with
  | some l => if l.replayable ∧ !l.replayPending then (s.putLaunch { l with replayPending := true }).schedule s.clk (.replay li) else s
  | none => s
/-- An uncorrectable error in a commons buffer: the replayable launches that share it replay (R349). -/
def State.sharedError (s : State) (root : Image) : State :=
  match s.rec? root with
  | some c =>
    if c.kind = .commons then (s.launches.filter fun l => c.fromLaunch == some l.idx || l.created.contains root).foldl (fun (st : State) l => st.startReplay l.idx) s else s
  | none => s

/-- The replayable launches that an uncorrectable error in a quire record concerns (R349): a record that the launch holds, was given, or that its tasks created, or a fraction of one. -/
def State.launchesOf (s : State) (c : CapRec) : List Nat :=
  (s.launches.filter fun l => c.heldBy l.idx || c.fromLaunch == some l.idx || l.created.contains c.img || l.created.contains c.root).map (·.idx)
/-- The quire finds an uncorrectable error in a record (R40, R329): logged, and an allocated record is frozen; its holder takes MERR at its next access. -/
def State.quireError (s : State) (img : Image) : State :=
  let s := { s with quireUE := s.quireUE.erase img }
  let s := s.log (img / 2 ^ 20) 4 4 srcQuire (BitVec.ofNat 64 (img % 2 ^ 20)) 0
  match s.rec? img with
  | none => s
  | some c =>
    let s := { s with quireBad := s.quireBad ++ [img] }
    let s := if c.kind = .frac ∧ !c.revoked ∧ !c.frozen then (s.putRec { c with frozen := true }).sendFrz c true else s.putRec { c with frozen := true }
    (s.launchesOf c).foldl (fun (st : State) l => st.startReplay l) s
/-- The quire corrects a record (R329). -/
def State.quireCorrected (s : State) (img : Image) : State :=
  { s with quireCE := s.quireCE.erase img }.log (img / 2 ^ 20) 3 4 srcQuire (BitVec.ofNat 64 (img % 2 ^ 20)) 0
/-- Bytes of calendar memory for one set: 2 MiB (chapter 17), and the source index of a calendar (R328). -/
def calendarBytes : Nat := 2 ^ 21
def srcCalendar (k : Nat) : Nat := 5184 + k % 16
/-- An uncorrectable error found in a die's calendar memory (R316, R329, R349): logged, the set that stands there is poisoned, and its launch replays. -/
def State.calendarError (s : State) (die off : Nat) : State :=
  let k := off / calendarBytes
  let s := s.modDie die fun d => { d with calUE := d.calUE.erase off, calendars := d.calendars.map fun (c : Calendar) => if c.no = k then { c with poisoned := true } else c }
  let s := s.log die 4 5 (srcCalendar k) (BitVec.ofNat 64 off) 0
  ((s.dieAt die).calendars.filter fun c => c.no == k).foldl (fun (st : State) c => st.startReplay c.launch) s
def State.calendarCorrected (s : State) (die off : Nat) : State :=
  (s.modDie die fun d => { d with calCE := d.calCE.erase off }).log die 3 5 (srcCalendar (off / calendarBytes)) (BitVec.ofNat 64 off) 0
/-- An uncorrectable error found in a scan context of a launch's lines or in its barrier state (R349): logged with the tile, or with the launch machinery of the origin die, as its source, in a subclass of 0, as R329 gives these none (log 84), and the launch replays. -/
def State.sharedPartError (s : State) (li : Nat) (p : SharedPart) : State :=
  match s.launchAt? li with
  | none => s
  | some l =>
    let s := s.putLaunch { l with sharedUE := l.sharedUE.erase p }
    let s := match p with
      | .scan tile ctx => s.log (dieOf tile) 4 0 (srcTile tile) (BitVec.ofNat 64 ctx) 0
      | .barrier => s.log (dieOf (tileIx l.row l.col)) 4 0 srcLaunch (BitVec.ofNat 64 l.tableIndex) 0
    s.startReplay li
/-- The next error of the quire, of the calendars or of a launch's shared state that is found. -/
def State.pollErrors (s : State) : Option State :=
  match s.quireUE, s.quireCE with
  | i :: _, _ => some (s.quireError i)
  | [], i :: _ => some (s.quireCorrected i)
  | [], [] =>
    match s.dies.findSome? fun d => (match d.calUE, d.calCE with
        | o :: _, _ => some (s.calendarError d.idx o)
        | [], o :: _ => some (s.calendarCorrected d.idx o)
        | [], [] => none) with
    | some t => some t
    | none => s.launches.findSome? fun l => (match l.sharedUE with | p :: _ => some (s.sharedPartError l.idx p) | [] => none)

/-! ## Termination (R19 to R21, R101, R118) -/

/-- The siblings of a trapping stream stop (R101): a VGX or SWADV that one is parked on is abandoned, the latter with its arrival (R165, R314). -/
def State.stopSiblings (s : State) (tid : Tid) : State :=
  (s.hartsOf tid).foldl (fun (st : State) h => match h.wait with | some (.partner _ _ _) | some (.sweep _ _ _) | some (.sweepReq _ _) => st.abandonWait h | _ => st) s

/-- Remote packets of a stream, or of every stream of a task, that are not acknowledged: its stores, its requests and its CAPXFERs, not the legs of its engine operations (R102). -/
def State.sentOpen (s : State) (f : Sent → Bool) : Bool :=
  s.links.any fun l => (l.unacked ++ l.waiting).any fun x => x.xfer.isNone && f x
/-- Whether a task's engine operations have joined, its stores are performed, its posted writes flushed and its remote packets acknowledged (R19). -/
def State.taskQuiet (s : State) (tid : Tid) (tile : Nat) : Bool :=
  (s.tileAt tile).opsOf tid == 0 && !((s.tileAt tile).sb.any fun e => e.tid == tid)
    && ((s.hartsOf tid).all fun h => h.posted.isEmpty) && !s.sentOpen fun x => x.tid == tid

/-- A terminated task whose accesses and engine operations are complete ends: its decrement is a release (R19, R21). -/
def State.settle (s : State) (tid : Tid) : State :=
  match s.taskAt? tid with
  | some t => if t.ending ∧ s.taskQuiet tid t.tile then s.finishTask t true else s
  | none => s

/-- A task terminated after a trap (R20, R21, R118): it is TRAPPED, its fractions are frozen and its streams stopped, it is counted in its launch, and it ends once its accesses are performed and its engine operations have joined. A replayable launch replays after MCHK or MERR (R349). -/
def State.terminate (s : State) (tid : Tid) (cause : Cause) : State :=
  match s.taskAt? tid with
  | none => s
  | some t =>
    if t.ending then s
    else
      let s := s.modLaunch t.launch fun l => { l with terminated := l.terminated + 1 }
      let s := if cause = Cause.mchk ∨ cause = Cause.merr then s.startReplay t.launch else s
      let s := (s.freezeAll tid true).stopSiblings tid
      let s := s.modTask tid fun t => { t with state := .trapped, handler := none, ending := true }
      s.settle tid

/-- After a precise REVK the handle reads empty and the tombstone is freed (R24). -/
def State.dropTombstone (s : State) (t : TrapInfo) : State :=
  match t.cause, t.handle with
  | .revk, some h =>
    match s.rec? (imgOf (s.handle h)) with
    | some c => if c.revoked then (s.dropRec c.img).setHandle h 0 else s
    | none => s
  | _, _ => s

/-- The supervisor vector of the task's launch (R118, R278). -/
def State.vector (s : State) : Nat := match s.launchAt? s.task.launch with | some l => l.vector | none => 0

/-- Entry to the supervisor handler by the stream in focus (R118): siblings stop, x24 to x31 and REPST are saved, x31 and x30 are written, the level is S, and the stream is at the vector. -/
def Hart.enterHandler (h : Hart) (t : TrapInfo) (stream : Nat) (pending : Bool) (pc : Word) (vector : Nat) : Hart :=
  let (x, sh) := swapShadow h.x h.ssh
  let x := (x.set 31 pc).set 30 (BitVec.ofNat 64 (t.cause.code + t.sub * 256))
  { h with x := x, ssh := sh, repstS := h.repst, repst := 0, level := .s, pc := BitVec.ofNat 64 vector
           errst := errstWord t stream pending h.errst, wait := none, met := none, order := none, inRep := false
           walkFail := none }

/-- TAKING AN EXCEPTION (R101, R103, R118): pc is the one R100 names. Without a supervisor handler, or in handler code, the task is terminated and the event is logged. -/
def State.takeTrapAt (s : State) (t : TrapInfo) (stream : Nat) (pc : Word) : State :=
  let s := s.dropTombstone t
  let logTerm (st : State) (sub : Nat) : State :=
    st.log (dieOf st.tile.idx) 11 sub (srcTile st.tile.idx)
      (BitVec.ofNat 64 (st.task.tid.toNat * 2 ^ 32 + t.sub * 256 + t.cause.code)) pc
  let written (st : State) : State := st.setHart { st.hart with errst := errstWord t stream st.task.pendErr.isSome st.hart.errst }
  if s.hart.level = .s then (logTerm (written s) 2).terminate s.task.tid t.cause
  else if s.vector = 0 then (logTerm (written s) 1).terminate s.task.tid t.cause
  else
    let s := (s.freezeAll s.task.tid true).stopSiblings s.task.tid
    let pending := s.task.pendErr.isSome
    let s := s.setTask { s.task with state := .trapped, handler := some s.hart.no }
    s.setHart (s.hart.enterHandler t stream pending pc s.vector)

/-- A precise trap of the instruction in focus. -/
def State.takeTrap (s : State) (t : TrapInfo) : State := s.takeTrapAt t s.hart.no s.hart.pc
def raise (t : TrapInfo) (s : State) : Out := .next (s.takeTrap t)

/-- The pending imprecise error delivered as a trap at the instruction in focus (R100, R102). -/
def State.deliver (s : State) (e : PendErr) : State :=
  (s.setTask { s.task with pendErr := none }).takeTrapAt e.err e.stream s.hart.pc

/-- Return from the supervisor handler (R118): x24 to x31 and REPST are restored, the level is U, the siblings run on, frozen fractions thaw (R21), and after a SEIZ trap ERRST returns to its value before (R347). -/
def State.returnFromTrap (s : State) (pc : Word) : State :=
  let (x, sh) := swapShadow s.hart.x s.hart.ssh
  let s := s.freezeAll s.task.tid false
  let s := s.setTask { s.task with state := .running, handler := none, exiting := false }
  s.setHart { s.hart with x := x, ssh := sh, repst := s.hart.repstS, repstS := 0, level := .u, pc := pc
                          errst := s.hart.errstSeiz.getD s.hart.errst, errstSeiz := none }

/-! ## Messages (R33 to R35) -/

/-- A message enters a task inbox with a free place; in an empty inbox it makes the inbox event pending (R106). -/
def State.enterInbox (s : State) (tid : Tid) (m : Msg) : State :=
  s.modTask tid fun t => { t with inbox := t.inbox ++ [m], ev2 := t.ev2 || t.inbox.isEmpty }
def State.inboxRoom (s : State) (tid : Tid) : Bool :=
  match s.taskAt? tid with | some t => decide (t.inbox.length < 8) | none => false

/-- A message returns to its sender with status BOUNCE, is held when the inbox is full, or is disposed of when the sender has gone (R34) or stands on a peer, to which no packet returns it. -/
def State.bounce (s : State) (m : Msg) (nak : Nat := 0) : State :=
  let m := { m with outcome := 3, nak := nak }
  match (if m.dev = 0 then s.taskAt? m.sender else none) with
  | none => (match m.cap with | some i => s.dispose i false | none => s)
  | some t => if t.inbox.length < 8 ∧ t.returns.isEmpty then s.enterInbox m.sender m else s.putTask { t with returns := t.returns ++ [m] }

/-! ## Task records, deques, saved contexts (R13, R14, R119, R268, R272, R382) -/

def Hart.granted (h : Hart) (tile : Nat) : Bool := match h.met with | some (.dequeRoom t _) => t == tile | _ => false
/-- Whether a deque and its spill region hold all they can, with the places granted to parked spawners (R94, R382). -/
def State.dequePacked (s : State) (tile : Nat) : Bool :=
  let t := s.tileAt tile
  decide (288 ≤ t.deque.length + t.spill.length + (s.allHarts.filter fun h => h.granted tile).length)
/-- Whether a newcomer finds no place: records that came before it take theirs first (R382). -/
def State.dequeFull (s : State) (tile : Nat) : Bool :=
  let t := s.tileAt tile
  let parked := (s.allHarts.filter fun h => h.granted tile || (match h.wait with | some (.dequeRoom k _) => k == tile | _ => false)).length
  let held := ((s.dieAt (dieOf tile)).wheel.filter fun w => w.since.isSome && w.item.home == tile).length
  decide (288 ≤ t.deque.length + t.spill.length + t.waiting.length + parked + held)

/-- A push onto the bottom of a deque; the oldest hardware record moves to the spill region when the 32 entries are full (R268). The back-off of a thief ends (R270). -/
def Tile.push (t : Tile) (r : TaskRec) (clk : Nat) : Tile :=
  let q : Queued := ⟨r, clk, false, 0⟩
  let t := { t with steal := match t.steal with | .backoff _ => .idle | x => x }
  if t.deque.length < 32 then { t with deque := t.deque ++ [q] }
  else match t.deque with
    | [] => { t with deque := [q] }
    | o :: rest => { t with deque := rest ++ [q], spill := t.spill ++ [{ o with place := freePlace 256 0 (t.spill.map (·.place)) }] }

/-- Place j of a tile's spill region: 64 bytes at the top of its SRAM (R120). -/
def spillPlace (tile j : Nat) : Nat := tileBase tile + 240 * 1024 + 64 * j
/-- A record written into a place of the spill region stores a fresh code (R40, R120). -/
def State.spillWritten (s : State) (tile j : Nat) : State :=
  let keep (l : List Nat) : List Nat := l.filter fun u => !decide (spillPlace tile j ≤ u ∧ u < spillPlace tile j + 64)
  { s with ue := keep s.ue, ce := keep s.ce }

/-- A record read from its place of the spill region (R120, R329): correctable errors are corrected and logged; an uncorrectable one is logged, and MERR becomes pending for the task of the record (log 89). -/
def State.spillRead (s : State) (tile : Nat) (q : Queued) : State :=
  let a := spillPlace tile q.place
  let units := (List.range 8).map fun i => a + 8 * i
  let note (cls : Nat) (st : State) (u : Nat) : State := st.log (dieOf tile) cls 2 (srcTile tile) (BitVec.ofNat 64 (u % 2 ^ 18)) 0
  let s := (units.filter s.ce.contains).foldl (note 3) s
  let s := { s with ce := s.ce.filter fun u => !units.contains u }
  let bad := units.filter s.ue.contains
  if bad.isEmpty then s else (bad.foldl (note 4) s).pend q.item.tid 0 { cause := .merr }

/-- While fewer than 8 hardware entries are occupied, the youngest spilled record returns (R268). -/
def State.refillDeque : Nat → Nat → State → State
  | 0, _, s => s
  | n + 1, tile, s =>
    let t := s.tileAt tile
    if t.deque.length < 8 then
      match t.spill.reverse with
      | [] => s
      | y :: rest => State.refillDeque n tile ((s.spillRead tile y).modTile tile fun t => { t with spill := rest.reverse, deque := y :: t.deque })
    else s
/-- A record taken out of a deque or its spill region, which the deque refills from (R268): the controller is busy for the clock. -/
def State.takeRecord (s : State) (tile : Nat) (q : Queued) : State :=
  let s := if (s.tileAt tile).spill.any fun p => p.item.tid == q.item.tid then s.spillRead tile q else s
  let f (l : List Queued) : List Queued := l.filter fun p => p.item.tid != q.item.tid
  State.refillDeque 8 tile (s.modTile tile fun t => { t with deque := f t.deque, spill := f t.spill, dequeAt := s.clk + 1 })

/-- A record enters a deque at the bottom (R268): the controller is busy for the clock. From then on its task is QUEUED (R13). -/
def State.enterDeque (s : State) (tile : Nat) (r : TaskRec) : State :=
  let before := (s.tileAt tile).spill.length
  let s := s.modTile tile fun t => { t.push r s.clk with dequeAt := s.clk + 1 }
  let s := match (s.tileAt tile).spill.getLast? with | some o => if before < (s.tileAt tile).spill.length then s.spillWritten tile o.place else s | none => s
  s.modTask r.tid fun t => { t with state := .queued }
/-- A record comes to a deque. The controller makes one insertion or removal in a clock, so it enters now or waits for its turn; where the deque is full it waits at its source in the order in which it found it so, and behind those that came before (R268, R382). A task that leaves by YIELD is QUEUED from then on all the same (R13), and its entry takes the clock in which it is made; R382 lists no YIELD (log 85). The record of a spawner that has been granted a place, with the clock in which the spawner found the deque full, comes before the others. -/
def State.pushRecord (s : State) (tile : Nat) (r : TaskRec) (since : Option Nat := none) : State :=
  let t := s.tileAt tile
  if since.isSome then
    if s.clk < t.dequeAt then s.modTile tile fun t => { t with waiting := ⟨r, since.getD 0, false⟩ :: t.waiting } else s.enterDeque tile r
  else if s.dequeFull tile then s.modTile tile fun t => { t with waiting := t.waiting ++ [⟨r, s.clk, true⟩] }
  else if s.clk < t.dequeAt ∨ !t.waiting.isEmpty then s.modTile tile fun t => { t with waiting := t.waiting ++ [⟨r, s.clk, false⟩] }
  else s.enterDeque tile r

/-- Timed records of a die (R272). -/
def State.wheelFull (s : State) (die : Nat) : Bool := decide (65536 ≤ (s.dieAt die).wheel.length)
/-- A record is TIMED until its release time, else QUEUED (R13, R272). A record that finds the wheel full, as only a launch's can, is held by the launch machinery until there is room (log 86). -/
def State.enqueue (s : State) (tile : Nat) (r : TaskRec) (since : Option Nat := none) : State :=
  if s.ptp < r.release.toNat then
    let r := { r with home := tile }
    if s.wheelFull (dieOf tile) then s.modDie (dieOf tile) fun d => { d with wheelWait := d.wheelWait ++ [r] }
    else s.modDie (dieOf tile) fun d => { d with wheel := d.wheel ++ [⟨r, none⟩] }
  else s.pushRecord tile r since

/-- The highest of base and donations, at most 47 (R12, R271). -/
def effective (base : Nat) (ds : List Donation) : Nat := ds.foldl (fun m d => max m d.prio) base
def Task.prio (t : Task) : Nat := effective t.prioBase t.donations
def TaskRec.effPrio (r : TaskRec) : Nat := effective r.prio r.donations

/-- The record of a task with a saved context (R14). -/
def Task.record (t : Task) (release : Word) : TaskRec :=
  { tid := t.tid, flags := 0, asid := t.asid, cls := t.cls, prio := t.prioBase, replayable := t.replayable, pinned := true
    entry := 0, deadline := t.deadline, release := release, parent := t.parent, budget := t.budget, arg := t.arg
    h := [], fs := [], launch := t.launch, coord := t.coord, saved := true, home := t.tile, donations := t.donations }

/-- The task of a record that no slot has taken yet: QUEUED or TIMED (R7, R8, R11, R13). -/
def TaskRec.task (r : TaskRec) (tile : Nat) : Task :=
  { Task.blank with
    tid := r.tid, state := .queued, tile := tile, launch := r.launch, asid := r.asid, cls := r.cls, replayable := r.replayable
    pinned := r.pinned, farSteal := r.flags.getLsbD 0, detached := r.flags.getLsbD 1, parent := r.parent, coord := r.coord
    arg := r.arg, prioBase := r.prio, deadline := r.deadline, budget := r.budget, unlimited := r.budget == 0 }

/-- A record of a new task is TIMED or QUEUED, and the task exists (R13). -/
def State.admitRecord (s : State) (tile : Nat) (r : TaskRec) (since : Option Nat := none) : State :=
  (s.putTask { r.task tile with state := if s.ptp < r.release.toNat then .timed else .queued }).enqueue tile r since

/-- Whether a slot of a tile is free: no stream holds it, no frame of it is still written, and no matrix result is still owed to it (R111, R180, R269). -/
def State.slotFree (s : State) (tile k : Nat) : Bool :=
  !(s.allHarts.any fun h => h.tile == tile && h.slot == some k) && !((s.tileAt tile).matrix.any fun o => o.slot == k) && decide ((s.tileAt tile).freeAt.toArray.getD k 0 ≤ s.clk)
def State.freeSlots (s : State) (tile : Nat) : List Nat := (upTo 8).filter (s.slotFree tile)

/-- Trained host lanes, 0 to 64, and the seize bound (R343). -/
def State.hostLanes (s : State) : Nat := ((upTo 4).map fun p => if s.portDown.toArray.getD p false then 0 else s.lanes.toArray.getD p 0).foldl (· + ·) 0
def seizeBound (lanes : Nat) : Nat :=
  if lanes = 0 then 0xFFFFFFFF else 1000 + (850000000000 * 2 + 15125 * lanes - 1) / (15125 * lanes)
/-- SEIZEEST of a stream as it reads (R343). -/
def State.seizeestOf (s : State) (h : Hart) : Word :=
  BitVec.ofNat 64 ((if h.notify then 2 ^ 63 else 0) + s.hostLanes * 2 ^ 48 + seizeBound s.hostLanes)

/-- The stream part of a context frame (R119), 2,688 bytes; est is SEIZEEST as it reads. -/
def Hart.frameBytes (h : Hart) (est : Word) : List Byte :=
  wordBytes (0 :: h.x.toList.drop 1) ++ wordBytes h.ush.toList ++ wordBytes h.m.toList ++ wordBytes h.ox.toList ++ wordBytes h.fs.toList
    ++ wordBytes [h.pc, h.fctl, h.fflg, h.lfsr, h.repst, h.evhpc, h.errst, h.geo]
    ++ (h.v.toList.map fun r => bytesOf 64 r.toNat).flatten
    ++ wordBytes h.ssh.toList ++ wordBytes [h.repstU, h.repstS, if h.level = .s then 1 else 0, h.inj, est, h.cswa]
    ++ bytesOf 16 0

/-- PRIO as it reads (R12). -/
def Task.prioWord (t : Task) : Word := BitVec.ofNat 64 (t.prio * 256 + t.prioBase)
/-- CYCBUD as it reads (R12). -/
def Task.cycbud (t : Task) : Word := BitVec.ofNat 64 ((if t.unlimited then 2 ^ 32 else 0) + t.budget.toNat)
/-- A list of bytes as n of them, with zeros in the rest. -/
def padTo (n : Nat) (l : List Byte) : List Byte := (l ++ bytesOf n 0).take n
/-- An inbox message in a frame, 32 bytes: the record it carries, its two payload words, and the status word that CRECV would write (log 87). -/
def Msg.frameBytes (m : Msg) : List Byte :=
  wordBytes [BitVec.ofNat 64 (m.cap.getD 0), m.p0, m.p1, BitVec.ofNat 64 (m.outcome + m.nak * 256 + m.sender.toNat * 2 ^ 32)]
/-- Streams of a list as a mask of 8 bits. -/
def streamMask (l : List Nat) : Nat := (upTo 8).foldl (fun a i => if l.contains i then a + 2 ^ i else a) 0
/-- The counts of the queue registers, then their writing and their reading streams, a byte for each (log 87). -/
def Task.queueBytes (t : Task) : List Byte :=
  (t.q.toList.map fun l => BitVec.ofNat 8 l.length) ++ (t.qv.toList.map fun l => BitVec.ofNat 8 l.length)
    ++ (t.writers.toList.map fun l => BitVec.ofNat 8 (streamMask l)) ++ (t.readers.toList.map fun l => BitVec.ofNat 8 (streamMask l)) ++ bytesOf 8 0
/-- The pending error of a task as a word: none is 0, another reads as ERRST would (log 87). -/
def Task.pendWord (t : Task) : Word := match t.pendErr with | some e => errstWord e.err e.stream false 0 | none => 0
/-- The task part of a context frame, 2,048 bytes (R119). -/
def Task.frameBytes (t : Task) : List Byte :=
  wordBytes t.h.toList ++ (t.q.toList.map fun l => padTo 128 (wordBytes l)).flatten
    ++ (t.qv.toList.map fun l => padTo 256 ((l.map fun r => bytesOf 64 r.row.toNat).flatten)).flatten
    ++ padTo 256 ((t.inbox.map Msg.frameBytes).flatten) ++ t.queueBytes
    ++ wordBytes [BitVec.ofNat 64 t.tid.toNat, t.prioWord, t.deadline, t.cycbud, BitVec.ofNat 64 t.watchdog, BitVec.ofNat 64 t.join, t.pendWord, 0]
    ++ bytesOf 32 0
/-- A context frame of a task and its live streams (R119): the task part first, then the stream parts in stream order (log 87). -/
def State.frameOf (s : State) (t : Task) (hs : List Hart) : List Byte :=
  t.frameBytes ++ (hs.map fun h => h.frameBytes (s.seizeestOf h)).flatten

/-- A place for a frame of one stream part and one task part, 4,736 bytes: on the tile, else in its cluster (R119). -/
def State.framePlace (s : State) (tile : Nat) : Option Nat :=
  match s.allocTile tile 4736 with
  | some a => some a
  | none => s.allocCluster (clusterOf tile) 4736

/-- The task in focus leaves its slot with its context saved: the frame is written, its task part before its stream part (log 87), and the slot frees 48 clk later (R119, R269). -/
def State.saveContext (s : State) (place : Nat) (st : TaskState) : State :=
  let s := s.writePhys place (s.frameOf s.task [s.hart])
  let s := match s.hart.slot with
    | some k => if h : k < 8 then s.setTile { s.tile with freeAt := s.tile.freeAt.set k (s.clk + 48) h } else s
    | none => s
  let s := s.setTask { s.task with state := st, frame := [(place, 4736)], pinned := true }
  s.setHart { s.hart with slot := none }

/-- Whether the stream in focus is stream 0 of a running task without live siblings. -/
def State.alone (s : State) : Bool := s.hart.no == 0 && s.task.state == .running && (s.hartsOf s.task.tid).length == 1

/-- What a context save waits for: the store buffer, as it stands when the save is first tried, is drained (R115), and operations that target the stream's tiles are complete (R180). -/
def State.saveWait (s : State) : Option Wait :=
  let drained := match s.hart.met with | some (.sbEntries _) => true | _ => s.tile.sb.isEmpty
  if !drained ∨ (s.tile.sb.any fun e => e.tid == s.hart.tid && e.no == s.hart.no) then some (.sbEntries (s.tile.sb.map (·.id)))
  else if s.tile.matrix.any fun o => o.tid == s.hart.tid && o.no == s.hart.no then some (.tiles [true, true])
  else none

end Sys2Proof.Machine
end

