-- ==== Sys2Proof/Machine/Packer.lean ====
section
/-!
DEFINITION. The BF16 packer of the base dies (R322, R323): the test of a block, its packed string, the stored form of a group, and the decode.
-/
namespace Sys2Proof.Machine

open Sys2Proof

/-- The 32 BF16 codes of a 64-byte block. -/
def blockCodes (bs : List Byte) : List Nat := (List.range 32).map fun i => leValue ((bs.drop (2 * i)).take 2)
def codeExponent (c : Nat) : Nat := c / 128 % 256
/-- The shared exponent E: the least nonzero exponent field, or 0 (R323). -/
def sharedExponent (cs : List Nat) : Nat :=
  match (cs.map codeExponent).filter fun e => e != 0 with | [] => 0 | e :: r => r.foldl min e
/-- Whether a block packs (R323): no field is 255, and the nonzero ones lie within E to E + 6. -/
def packableCodes (cs : List Nat) : Bool :=
  let e0 := sharedExponent cs
  cs.all fun c => codeExponent c != 255 && (codeExponent c == 0 || decide (codeExponent c ≤ e0 + 6))
def packableBlock (bs : List Byte) : Bool := packableCodes (blockCodes bs)

/-- The 11-bit field of a code: sign, offset and mantissa (R323). -/
def packField (e0 c : Nat) : Nat :=
  c / 2 ^ 15 * 2 ^ 10 + (if codeExponent c = 0 then 7 else codeExponent c - e0) * 2 ^ 7 + c % 2 ^ 7
/-- Fields one above the other, 11 bits each. -/
def packFields (e0 : Nat) : List Nat → Nat
  | [] => 0
  | c :: cs => packField e0 c + 2 ^ 11 * packFields e0 cs
/-- The 360-bit string of a packable block (R323). -/
def packString (cs : List Nat) : Nat := sharedExponent cs + 2 ^ 8 * packFields (sharedExponent cs) cs
/-- The code that a field restores (R323). -/
def unpackField (e0 f : Nat) : Nat :=
  f / 2 ^ 10 % 2 * 2 ^ 15 + (if f / 2 ^ 7 % 8 = 7 then 0 else e0 + f / 2 ^ 7 % 8) * 2 ^ 7 + f % 2 ^ 7
def unpackFields (e0 : Nat) : Nat → Nat → List Nat
  | 0, _ => []
  | n + 1, v => unpackField e0 (v % 2 ^ 11) :: unpackFields e0 n (v / 2 ^ 11)
/-- The decode of a string (R323). -/
def unpackString (v : Nat) : List Nat := unpackFields (v % 2 ^ 8) 32 (v / 2 ^ 8)

/-- The four blocks of a group of 256 bytes. -/
def groupBlocks (bs : List Byte) : List (List Byte) := (List.range 4).map fun k => (bs.drop (64 * k)).take 64
def packableGroupBytes (bs : List Byte) : Bool := (groupBlocks bs).all packableBlock
/-- The stored form of a group (R322, R323): 192 bytes in mode 1, its 256 bytes as written in the modes 0 and 2. -/
def storedGroup (mode : Nat) (bs : List Byte) : List Byte :=
  if mode = 1 then ((groupBlocks bs).map fun b => bytesOf 48 (packString (blockCodes b))).flatten else bs
/-- The bytes that a stored form reads as, unpacked in the base die (R324). -/
def readGroup (mode : Nat) (stored : List Byte) : List Byte :=
  if mode = 1 then
    ((List.range 4).map fun k => ((unpackString (leValue ((stored.drop (48 * k)).take 48))).map fun c => bytesOf 2 c).flatten).flatten
  else stored
/-- The mode of the group at an address (R322). -/
def State.groupMode (s : State) (g : Nat) : Nat := ((findBy (·.1) g s.groupModes).map (·.2)).getD 0
/-- What the channel holds for the group at an address; packing never changes a value, so memory keeps the bytes it reads as (R322). -/
def State.storedAt (s : State) (g : Nat) : List Byte := storedGroup (s.groupMode g) (s.readPhys g 256)

end Sys2Proof.Machine
end

