-- ==== Sys2Proof/Machine/Operands.lean ====
section
/-!
DEFINITION. Operand forms: immediates, branch targets, and the memory operand with the decision order of R81, translation, homes, the store buffer and the posted writes.
-/
namespace Sys2Proof.Machine

open Sys2Proof

/-! ## Immediates and targets (R54, R59, R61, R79, R80) -/

/-- A signed immediate. -/
def sx {n : Nat} (i : BitVec n) : Word := i.signExtend 64
/-- The upper immediate of LUI and ADDPC. -/
def upper (i : BitVec 19) : Word := sx i * 4096
/-- The target of a branch or jump whose offset counts halfwords. -/
def State.target {n : Nat} (s : State) (i : BitVec n) : Word := s.hart.pc + sx i * 2
/-- The byte offset of a memory operand: x[index] + imm8 × size as a 64-bit sum (R61). -/
def State.offset (s : State) (x : BitVec 5) (i : BitVec 8) (size : Nat) : Word := s.x x + BitVec.ofNat 64 (i.toNat * size)
/-- The low bytes of a number, zero- or sign-extended (R81, R85). -/
def extendBytes (size : Nat) (signed : Bool) (v : Nat) : Word :=
  if signed then (BitVec.ofNat (8 * size) v).signExtend 64 else BitVec.ofNat 64 (v % 2 ^ (8 * size))

/-! ## Accumulator rows (R142, R143) -/

/-- The tile of a vector register: rows 0 to 15 are T0, 16 to 31 are T1. -/
def rowTile (v : BitVec 5) : AccT := if v.toNat < 16 then .t0 else .t1
/-- The slot number of the stream in focus. -/
def State.slot (s : State) : Nat := s.hart.slot.getD 8
/-- Whether a matrix operation that the same slot issued targets a tile and has not written it. -/
def State.tileOwed (s : State) (t : AccT) : Bool :=
  s.tile.matrix.any fun o => s.hart.slot == some o.slot && o.acc == t
/-- Whether an instruction that is issued now waits for a tile: until the clock after its last row is written. -/
def State.tileBusy (s : State) (t : AccT) : Bool :=
  s.tileOwed t || s.tile.wrote.any fun w => s.hart.slot == some w.1 && w.2.1 == t && w.2.2 == s.clk
/-- The interlock of R143 over the rows an instruction names. -/
def State.rowWait (s : State) (rows : List (BitVec 5)) : Option Wait :=
  if rows.any fun r => s.tileBusy (rowTile r) then
    some (.tiles [rows.any fun r => rowTile r == .t0, rows.any fun r => rowTile r == .t1])
  else none

/-! ## Homes (R120, R121, R223, R320) -/

/-- The channel of an HBM address in its die: group g of page p lies on channel (g + p) mod 64 (R320). -/
def channelOf (a : Nat) : Nat := ((a - hbmBase) % 65536 / 256 + (a - hbmBase) / 65536) % 64
/-- The bank, channel, line or peer that performs an access, as a number of its own (R240). -/
def Home.bank : Home → Nat
  | .mem a =>
    if a < 2 ^ 40 then a / 2 ^ 18 * 16 + a / 64 % 16
    else if a < hbmBase then 2 ^ 32 + (a - 2 ^ 40) / 2 ^ 22 * 32 + a / 128 % 32
    else if isHbm a then 2 ^ 33 + dieOfHbm a * 64 + channelOf a
    else if isHost a then 2 ^ 35 else 2 ^ 34 + (a - windowBase) / 64
  | .peer dev _ => 2 ^ 36 + dev
/-- The die that logs an error of an address, with class-3 and class-4 subclass, source and detail A (R328, R329). -/
def memSite (a : Nat) : Nat × Nat × Nat × Nat :=
  if a < 2 ^ 40 then (dieOf (a / 2 ^ 18), 2, srcTile (a / 2 ^ 18), a % 2 ^ 18 / 8 * 8)
  else if a < hbmBase then
    let c := (a - 2 ^ 40) / 2 ^ 22
    (dieOfCluster c, 3, 5222 + c / 80 % 16 * 20 + c % 80 % 20, (a - 2 ^ 40) % 2 ^ 22 / 8 * 8)
  else (dieOfHbm a, 1, channelOf a, (a - hbmBase) / 64 * 64)
/-- An access of n bytes at an address corrects every unit in which it finds a correctable error, and logs each in class 3 (R120, R223, R321, R329). -/
def State.correct (s : State) (a n : Nat) : State :=
  let hit (u : Nat) : Bool := decide (u < a + n ∧ a < u + unitSize u)
  (s.ce.filter hit).foldl (fun (st : State) u => let (die, sub, src, detail) := memSite u; st.log die 3 sub src (BitVec.ofNat 64 detail) 0)
    { s with ce := s.ce.filter fun u => !hit u }
/-- The table entries that a walk reads (R279). -/
def State.walkAddrs (s : State) (va : Nat) : List (Nat × Nat × Nat × Nat) → Nat → List Nat
  | [], _ => []
  | (lo, w, _, _) :: ls, table =>
    let a := table + va / 2 ^ lo % 2 ^ w * 8
    match s.tableWord a with
    | none => [hbmBase + a]
    | some e => (hbmBase + a) :: if e % 2 = 1 ∧ e / 2 % 2 = 0 then s.walkAddrs va ls (e / 2 ^ 8 % 2 ^ 46 * 2 ^ 8) else []
/-- The entries of a page's walk; a mapping that the part made itself stands in a table of four levels (log 12). -/
def State.walkReads (s : State) (asid : Asid) (va : Nat) : List Nat :=
  if (s.pages.any fun p => p.asid == asid && decide (p.vbase ≤ va ∧ va < p.vbase + p.size)) then [0, 0, 0, 0]
  else if s.asidLive asid then s.walkAddrs va walkShape (s.asidWord asid / 2 ^ 16 % 2 ^ 38 * 2 ^ 16) else []
/-- What a walk leaves in the log of a die (R279, R321, R329): an entry that is malformed, an uncorrectable error in one, and the correctable errors it corrects. -/
def State.noteWalk (s : State) (die : Nat) (asid : Asid) (va : Nat) : State :=
  let reads := s.walkReads asid va
  let s := if s.ce.isEmpty then s else reads.foldl (fun (st : State) a => st.correct a 8) s
  let last := reads.getLast?.getD hbmBase
  match s.walk asid va with
  | .page _ => s
  | .noMap malformed => if malformed then s.log die 7 0 srcControl (BitVec.ofNat 64 (last - hbmBase)) 0 else s
  | .merr => let (d, sub, src, detail) := memSite last; s.log d 4 sub src (BitVec.ofNat 64 detail) 0
/-- The walk of an access that the walk alone translates: an engine's, a fetch, a record's or a ring's. -/
def State.noteRawWalk (s : State) (die : Nat) (c : CapRec) (off : Nat) : State :=
  match c.level with | .hbm | .host => s.noteWalk die c.asid (c.base + off) | _ => s
/-- Units of a range of a buffer corrected as an engine or a peer reads them. -/
def State.correctBuf (s : State) (c : CapRec) (off n : Nat) : State :=
  if s.ce.isEmpty then s
  else (List.range n).foldl (fun (st : State) i => match st.physOf c (off + i) false with | .ok a => st.correct a 1 | .error _ => st) s
/-- The latency of an access from a tile (R121, R276; log 7). -/
def State.latencyTo (s : State) (tile : Nat) : Home → Nat
  | .mem a =>
    if a < 2 ^ 40 then s.mesh tile (a / 2 ^ 18)
    else if a < hbmBase then
      let c := (a - 2 ^ 40) / 2 ^ 22
      if c = clusterOf tile then 24 else
        let t := tileIx (c / 80 * 4) (c % 80 * 4)
        if dieOf t = dieOf tile then 20 + 2 * s.steps tile t else Config.latL3
    else if isHbm a then Config.latL4
    else if isHost a then Config.latL5
    else if dieOf tile = 0 then 20 + 2 * s.steps tile 0 else Config.latL3
  | .peer _ _ => Config.latL5

/-- Clocks for which a channel of HBM holds new requests behind a recalibration burst (R326). -/
def State.channelStall (s : State) (a : Nat) : Nat :=
  if isHbm a then (match findBy (·.1) (channelOf a) (s.dieAt (dieOfHbm a)).bursts with | some b => b.2.2 - s.clk | none => 0) else 0
/-- The latency of an access to a home, with what its channel holds it (R121, R326). -/
def State.homeLatency (s : State) (home : Home) : Nat :=
  s.latencyTo s.tile.idx home + (match home with | .mem a => s.channelStall a | .peer _ _ => 0)

/-! ## Errors in storage (R40, R81, R85, R329) -/

/-- An uncorrectable error found at an address of a buffer: the root and its fractions are poisoned, the event is logged, and replayable launches that share the buffer replay. -/
def State.bufferError (s : State) (root : Image) (a : Nat) : State :=
  let (die, sub, src, detail) := memSite a
  ((s.poison root).log die 4 sub src (BitVec.ofNat 64 detail) (BitVec.ofNat 64 root)).sharedError root
/-- A load or atomic of the stream met an uncorrectable error: MERR is pending. -/
def State.memError (s : State) (c : CapRec) (h : BitVec 4) (a : Nat) : State :=
  (s.bufferError c.root a).pend s.hart.tid s.hart.no { cause := .merr, handle := some h }
/-- What the reading of bytes of a record without the store buffer finds in storage and in the page tables (R120, R321): the first uncorrectable error is that of the buffer, correctable ones are corrected. -/
def State.touch (s : State) (die : Nat) (c : CapRec) (off n : Nat) : State :=
  let s := if (s.rawPhys c off false matches .error _) ∨ !s.ce.isEmpty then s.noteRawWalk die c off else s
  if s.ue.isEmpty ∧ s.groupModes.isEmpty then s.correctBuf c off n
  else match (List.range n).findSome? fun i => (match s.physOf c (off + i) false with | .ok a => if s.hasUE a 1 then some a else none | .error _ => none) with
    | some a => s.bufferError c.root a
    | none => s.correctBuf c off n

/-! ## The BF16 packer (R322 to R324) -/

/-- Whether a 256-byte group at an address packs. -/
def State.packableGroup (s : State) (g : Nat) : Bool := packableGroupBytes (s.readPhys g 256)
/-- A per-channel counter of a die stepped by one (R329): 0 ALRT, 1 RTRN, 2 PACK, 3 FALL. -/
def Die.count (d : Die) (k ch : Nat) : Die :=
  let key := k * 64 + ch
  let n := ((findBy (·.1) key d.chanCnt).map (·.2)).getD 0
  { d with chanCnt := putBy (·.1) (key, (n + 1) % 2 ^ 48) d.chanCnt }
/-- The mode and statistics of one written group of a packable buffer (R324). -/
def State.packGroup (s : State) (g : Nat) : State :=
  let ok := s.packableGroup g
  let s := s.modDie (dieOfHbm g) fun d => d.count (if ok then 2 else 3) (channelOf g)
  { s with groupModes := putBy (·.1) (g, if ok then 1 else 2) s.groupModes }
/-- Runs of bytes written through a record as one write, with the packer's part for HBM (R322, R324): each group that the write touches is packed, set to fallback or raw once; one that it covers only in part is read, with its correctable errors corrected, merged and rewritten. -/
def State.writeRuns (s : State) (packable : Bool) (runs : List (Nat × List Byte)) : State :=
  let runs := runs.filter fun r => !r.2.isEmpty
  let groups := ((runs.filter fun r => isHbm r.1).map fun r => (List.range ((r.1 + r.2.length - 1) / 256 - r.1 / 256 + 1)).map fun i => r.1 / 256 * 256 + 256 * i).flatten.eraseDups
  let whole (g : Nat) : Bool := runs.any fun r => decide (r.1 ≤ g ∧ g + 256 ≤ r.1 + r.2.length)
  let s := if packable ∧ !s.ce.isEmpty then groups.foldl (fun (st : State) g => if whole g then st else st.correct g 256) s else s
  let s := runs.foldl (fun (st : State) r => st.writePhys r.1 r.2) s
  if packable then groups.foldl State.packGroup s
  else { s with groupModes := s.groupModes.filter fun p => !(groups.contains p.1 && (p.2 != 3 || whole p.1)) }
/-- Bytes written through a record at a physical address. -/
def State.writeVia (s : State) (packable : Bool) (a : Nat) (bs : List Byte) : State := s.writeRuns packable [(a, bs)]

/-! ## Shadow versions (R348) -/

/-- The address a write of a replayable launch goes to: its shadow version of the page, copied at the first write; none when no HBM page is free. -/
def State.shadowWrite (s : State) (c : CapRec) (a : Nat) : Option (State × Nat) :=
  match s.shadowLaunch c with
  | none => some (s, a)
  | some li =>
    if !isHbm a then some (s, a)
    else
      let b := s.shadowOf li a
      if b ≠ a then some (s, b)
      else
        let page := a / 2 ^ 16 * 2 ^ 16
        let seen := s.shadowView c page
        match s.allocHbm (dieOfHbm a) (2 ^ 16) with
        | none => none
        | some q =>
          let s := (s.correct seen (2 ^ 16)).copyRange seen q (2 ^ 16)
          some (s.modLaunch li fun l => { l with shadows := l.shadows ++ [⟨page, q⟩] }, a - page + q)

/-! ## The flag window (R250) -/

def windowLine (a : Nat) : Nat := (a - windowBase) / 64
/-- A line that the home must first recall from the host: for a store or atomic when the host may hold it, for a load when the host may hold it modified. -/
def State.mustRecall (s : State) (a : Nat) (write : Bool) : Bool :=
  isWindow a && (if write then s.winHeld.contains (windowLine a) else s.winDirty.contains (windowLine a))
/-- BISnp sent for a line. -/
def State.snoop (s : State) (line : Nat) : State :=
  if s.winSnooped.contains line then s else { s with winSnooped := s.winSnooped ++ [line] }

/-! ## The memory operand (R24, R28, R37 to R39, R81) -/

/-- What the decision of R81 finds: the record and home of the access, a wait, or a trap. -/
inductive Found where
  | at_ (c : CapRec) (home : Home) (s : State)
  | wait (w : Wait) (s : State)
  | trap (t : TrapInfo)

/-- A peer's packets are admitted only to a valid entry of the peer table (R364). -/
def State.locatePeer (s : State) (c : CapRec) (h : BitVec 4) (off : Nat) : Found :=
  match c.proxy with
  | none => .trap { cause := .pflt }
  | some p => if s.peerValid p.dev then .at_ c (.peer p.dev off) s else .trap (trapCapv subDEST h)

/-- A miss enters the cluster's miss table when it has room; the slot waits for the walk (R38). Before the walk nothing tells the size of the page, so the model's entries stand for units of 64 KiB: misses in two units of a larger page take two (log 88). -/
def State.miss (s : State) (asid : Asid) (va : Nat) : State :=
  let k := clusterOf s.tile.idx
  let c := s.clusterAt k
  let page := va / 2 ^ 16
  if c.misses.any (fun m => m.asid == asid && m.page == page) ∨ 64 ≤ c.misses.length then s
  else
    let s := s.putCluster { c with misses := c.misses ++ [⟨asid, page⟩] }
    s.modDie (dieOfCluster k) fun d => { d with walkQ := d.walkQ ++ [⟨k, asid, page, 0, false⟩] }

/-- Translation and shadow versions of an access at an offset of a record (R37 to R39, R348). A load of a window line that the host may hold modified waits for the recall; a store's is made when its entry drains (R250). -/
def State.locate (s : State) (c : CapRec) (h : BitVec 4) (off : Nat) (write : Bool) : Found :=
  match c.level with
  | .tile | .cluster =>
    let a := c.base + c.frontOff + off
    if !write ∧ s.mustRecall a false then .wait (.window (windowLine a)) (s.snoop (windowLine a)) else .at_ c (.mem a) s
  | .peer => s.locatePeer c h off
  | .hbm | .host =>
    let va := c.base + off
    match s.tcFind (clusterOf s.tile.idx) c.asid va with
    | some p =>
      if !(if write then p.wr else p.rd) then .trap { cause := .pflt, handle := none }
      else match p.phys va with
        | none => .trap { cause := .pflt, handle := none }
        | some a =>
          if write then
            match s.shadowWrite c a with
            | some (s, a) => .at_ c (.mem a) s
            | none => .wait (.hbmPage (dieOfHbm a)) s
          else .at_ c (.mem (s.shadowView c a)) s
    | none =>
      match s.hart.walkFail with
      | some (asid, page, merr) =>
        if asid = c.asid ∧ page = va / 2 ^ 16 then .trap { cause := if merr then .merr else .pflt, handle := none }
        else .wait (.walk c.asid (va / 2 ^ 16)) (s.miss c.asid va)
      | none => .wait (.walk c.asid (va / 2 ^ 16)) (s.miss c.asid va)

/-- The number by which a parked stream's wait names its access. -/
def Use.code : Use → Nat | .load _ | .engineRead => 0 | .store _ | .atomic | .engineWrite => 1 | _ => 2

/-- Stores, atomics and engine writes of a replayable launch to host or peer level are refused (R348). -/
def State.replayKind (s : State) (c : CapRec) : Bool :=
  s.replayable s.task.launch && (c.level == .host || c.level == .peer)

/-- Steps 2 to 6 of R81. -/
def State.find (s : State) (h : BitVec 4) (off : Word) (size : Nat) (need : Rights) (use : Use) (write : Bool) : Found :=
  match s.checkHandle h need with
  | .error t => .trap t
  | .ok c =>
    if off.toNat % size ≠ 0 then .trap { cause := .algn, handle := some h }
    else if c.len < off.toNat + size then .trap (trapCapv subLEN h)
    else match s.admits c use with
      | .no sub => .trap (trapCapv sub h)
      | .wait => .wait (.admits c.img use.code) s
      | .ok => if write && s.replayKind c then .trap (trapCapv subKIND h) else s.locate c h off.toNat write

/-! ## The store buffer (R115) -/

/-- The bytes of a granule that an access covers, as a mask. -/
def accessMask (off size : Nat) : BitVec 64 := BitVec.ofNat 64 ((2 ^ size - 1) * 2 ^ (off % 64))
/-- The buffer and the granule of an access, as the store buffer tells them apart: two proxies of one root of a peer are one buffer, and window records share the lines of the window (R83, R115). -/
def CapRec.granuleOf (c : CapRec) (off : Nat) : Nat × Nat :=
  match c.proxy with
  | some p => (2 ^ 40 + p.dev * 2 ^ 23 + p.image, off / 64)
  | none => if isWindow c.base then (2 ^ 50, (c.base - windowBase) / 64 + off / 64) else (c.root, off / 64)
def SbEntry.overlaps (e : SbEntry) (kg : Nat × Nat) (off size : Nat) : Bool :=
  e.key == kg.1 && e.granule == kg.2 && (e.mask &&& accessMask off size) != 0
def SbEntry.covers (e : SbEntry) (off size : Nat) : Bool := (e.mask &&& accessMask off size) == accessMask off size
def SbEntry.value (e : SbEntry) (off size : Nat) : Nat := e.data.toNat / 2 ^ (8 * (off % 64)) % 2 ^ (8 * size)
def SbEntry.own (e : SbEntry) (h : Hart) : Bool := e.tid == h.tid && e.no == h.no

/-- The answer of the buffer to a load: its home, a value, or the entries that must drain first. -/
inductive Forward where | home | value (v : Nat) | wait (ids : List Nat)

/-- Forwarding (R115): E is the list of entries that hold any byte of the load, oldest first. -/
def forwardFrom (h : Hart) (off size : Nat) (e : List SbEntry) : Forward :=
  let own := e.filter fun x => x.own h
  match (if own.isEmpty then e else own).getLast? with
  | none => .home
  | some y => if y.covers off size then .value (y.value off size) else .wait (e.map (·.id))
/-- A load that has waited for its entries is performed at its home (R115). -/
def State.forward (s : State) (c : CapRec) (off size : Nat) : Forward :=
  match s.hart.met with
  | some (.sbEntries _) => .home
  | _ => forwardFrom s.hart off size (s.tile.sb.filter fun e => e.overlaps (c.granuleOf off) off size)

/-- The stream's entries for a granule, which must drain before an atomic or LDA (R115). -/
def State.ownGranule (s : State) (c : CapRec) (off : Nat) : List Nat :=
  (s.tile.sb.filter fun e => e.own s.hart && (e.key, e.granule) == c.granuleOf off).map (·.id)
/-- The stream's posted writes that hold a byte of an access to host memory, which are performed before it (R242). -/
def State.ownPosted (s : State) (home : Home) (size : Nat) : List Nat :=
  match home with
  | .mem a =>
    if isHost a then (s.hostWrites.filter fun w => w.tid == s.hart.tid && w.no == s.hart.no && decide (w.addr < a + size ∧ a < w.addr + w.bytes.length)).map (·.id)
    else []
  | .peer _ _ => []
def State.ownEntries (s : State) : Bool := s.tile.sb.any fun e => e.own s.hart

/-- The place, counted from the youngest, of the entry that a relaxed store may merge into: the youngest entry of its slot for the granule, when every younger entry of the slot is for another bank. Entries made through two records do not merge. -/
def mergeAt (h : Hart) (img : Image) (kg : Nat × Nat) (bank : Nat) : List SbEntry → Option Nat
  | [] => none
  | e :: es =>
    if !e.own h then (mergeAt h img kg bank es).map (· + 1)
    else if (e.key, e.granule) = kg then (if e.img = img then some 0 else none)
    else if e.home.bank = bank then none
    else (mergeAt h img kg bank es).map (· + 1)

def SbEntry.merge (e : SbEntry) (off size v : Nat) (version : BitVec 16) : SbEntry :=
  let shift := 8 * (off % 64)
  let m := BitVec.ofNat 512 ((2 ^ (8 * size) - 1) * 2 ^ shift)
  { e with mask := e.mask ||| accessMask off size, version := version
           data := (e.data &&& ~~~m) ||| (BitVec.ofNat 512 (v * 2 ^ shift) &&& m) }

/-- A store through a record retires into the buffer, or finds no place. -/
def Tile.retire (t : Tile) (h : Hart) (handle : BitVec 4) (c : CapRec) (home : Home) (off size v : Nat) (version : BitVec 16) (release : Bool) (clk : Nat) : Option Tile :=
  let place := if release then none else mergeAt h c.root (c.granuleOf off) home.bank t.sb.reverse
  match place with
  | some k =>
    let i := t.sb.length - 1 - k
    some { t with sb := t.sb.modify i fun e => e.merge off size v version }
  | none =>
    if 16 ≤ t.sb.length then none
    else
      let base : Home := match home with | .mem a => .mem (a - off % 64) | .peer d o => .peer d (o - off % 64)
      let e : SbEntry := { id := t.sbNext, key := (c.granuleOf off).1, slot := h.slot.getD 8, tid := h.tid, no := h.no, handle := handle
                           img := c.root, granule := (c.granuleOf off).2, mask := 0, data := 0, version := version, release := release
                           home := base, due := clk + 1, asid := c.asid, image := (c.proxy.map (·.image)).getD 0
                           words := c.kind == .commons, packable := c.packable }
      some { t with sb := t.sb ++ [e.merge off size v version], sbNext := t.sbNext + 1 }

/-! ## Releases (R102, R115, R244, R249, R251) -/

/-- Remote packets of a stream that are not acknowledged (R102). -/
def State.remoteOpen (s : State) (tid : Tid) (no : Nat) : Bool := s.sentOpen fun x => x.tid == tid && x.no == no

/-- The flushes of the ports that a stream's posted host writes used start (R251, R363). -/
def State.startFlush (s : State) (ports : List Nat) : State :=
  ports.foldl (fun st p => if st.flushWait.contains p then st else
    ({ st with flushWait := st.flushWait ++ [p] }).schedule (st.clk + Config.latL5) (.flushPacket p)) s

/-- What a release, a fork or EWAIT waits for before it is taken, with the flushes it starts; none when every earlier access of the stream is performed. -/
def State.releaseWait (s : State) : Option (Wait × State) :=
  if s.ownEntries then some (.sbEmpty, s)
  else if !s.hart.posted.isEmpty then some (.remote, s.startFlush s.hart.posted)
  else if s.remoteOpen s.hart.tid s.hart.no then some (.remote, s)
  else none

/-- The port of posted writes to host memory: the lowest-numbered trained host port (log 14). -/
def State.hostPort (s : State) : Nat :=
  ((upTo 4).find? fun p => s.lanes.toArray.getD p 0 != 0 && !(s.portDown.toArray.getD p false)).getD 0

/-! ## Posted writes to host memory (R242, R251) -/

/-- A write posted to host memory; it is performed there after the latency of R121 (log 7). -/
def State.postHost (s : State) (a : Nat) (bs : List Byte) (tid : Tid) (no : Nat) : State :=
  let id := s.nextId
  { s with nextId := id + 1, hostWrites := s.hostWrites ++ [(⟨id, a, bs, s.hostPort, tid, no⟩ : HostWrite)] }.schedule (s.clk + Config.latL5) (.homePerform id)
/-- A posted write is performed in host memory. -/
def State.performHost (s : State) (w : HostWrite) : State :=
  { s.writePhys w.addr w.bytes with hostWrites := s.hostWrites.filter fun x => x.id != w.id }
/-- A flush packet of a port completes after every posted write of the port (R363). -/
def State.performPort (s : State) (port : Nat) : State :=
  (s.hostWrites.filter fun w => w.port == port).foldl (fun (st : State) w => st.performHost w) s

end Sys2Proof.Machine
end

