-- ==== Sys2Proof/Machine/Fetch.lean ====
section
/-!
DEFINITION. Instruction fetch from the code capability of the launch (R25, R54).
-/
namespace Sys2Proof.Machine

open Sys2Proof

/-- The code capability of the focus task's launch. -/
def State.codeRec (s : State) : Option CapRec :=
  match s.launchAt? s.task.launch with | some l => s.rec? l.code | none => none
/-- Length of the code capability, 0 when there is none. -/
def State.codeLen (s : State) : Nat := match s.codeRec with | some c => c.len | none => 0

/-- n bytes of a record from an offset, read without the store buffer; the first failing byte decides. -/
def State.recBytes (s : State) (c : CapRec) : Nat → Nat → Except TrapInfo (List Byte)
  | 0, _ => .ok []
  | n + 1, off =>
    match s.capByte c off with
    | .error t => .error t
    | .ok b => match s.recBytes c n (off + 1) with | .error t => .error t | .ok bs => .ok (b :: bs)

/-- n bytes of code from an offset; an instruction outside the code capability raises CAPV subcode LEN (R54), a poisoned code record MERR (log 15). -/
def State.codeBytes (s : State) (n off : Nat) : Except TrapInfo (List Byte) :=
  match s.codeRec with
  | none => .error (trapCapv subLEN)
  | some c =>
    if c.len < off + n then .error (trapCapv subLEN)
    else if c.poisoned then .error { cause := .merr }
    else s.recBytes c n off

/-- The bytes of the instruction at an offset: two, or four when bit 0 of the first halfword is 1 (R54). -/
def State.fetchBytes (s : State) (off : Nat) : Except TrapInfo (List Byte) :=
  match s.codeBytes 2 off with
  | .error t => .error t
  | .ok bs => if leValue bs % 2 = 1 then s.codeBytes 4 off else .ok bs

/-- The instruction at an offset; a pattern that is no instruction raises ILL at decode (R58). -/
def State.fetch (s : State) (off : Nat) : Except TrapInfo Instr :=
  match s.fetchBytes off with
  | .error t => .error t
  | .ok bs => match decode bs with | .ok (i, _, _) => .ok i | .error _ => .error trapIll

/-- The instruction word at the PC, as an operation record keeps it (R342). -/
def State.issueWord (s : State) : BitVec 32 := match s.fetchBytes s.hart.pc.toNat with | .ok bs => BitVec.ofNat 32 (leValue bs) | .error _ => 0

/-- What a fetch finds in storage and in the page tables (R120, R321): correctable errors are corrected, an uncorrectable one is that of the code buffer. -/
def State.noteFetch (s : State) (off : Nat) : State :=
  match s.codeRec with
  | none => s
  | some c =>
    let n := match s.codeBytes 2 off with | .error _ => 2 | .ok bs => if leValue bs % 2 = 1 then 4 else 2
    if c.len < off + n ∨ c.poisoned then s else s.touch (dieOf s.tile.idx) c off n

/-- The word after a REP (R67): its number, or the trap of a fetch outside the code. -/
def State.fetchWordAt (s : State) (off : Nat) : Except TrapInfo Nat :=
  match s.fetchBytes off with
  | .error t => .error t
  | .ok bs => .ok (leValue bs)

end Sys2Proof.Machine
end

