-- ==== Sys2Proof/Machine/Fp.lean ====
section
/-!
DEFINITION. Number formats, rounding, special values and conversions (chapter 06). A value is exact: a sign, a natural mantissa and a power of two, so that nothing is lost before the one rounding of an operation.
-/
namespace Sys2Proof.Machine

open Sys2Proof

/-- The special codes of a format (R123): infinities and NaNs, the one NaN pattern of E4M3, or none. -/
inductive Specials where | ieee | nanOnly | none
deriving DecidableEq, Repr

/-- A floating-point layout (R123): exponent bits, mantissa bits, bias. -/
structure FpFmt where
  ebits : Nat
  mbits : Nat
  bias : Nat
  specials : Specials
  ftz : Bool
deriving DecidableEq, Repr

def fp64 : FpFmt := ⟨11, 52, 1023, .ieee, false⟩
def fp32 : FpFmt := ⟨8, 23, 127, .ieee, true⟩
def bf16 : FpFmt := ⟨8, 7, 127, .ieee, true⟩
def fp16 : FpFmt := ⟨5, 10, 15, .ieee, true⟩
def e4m3 : FpFmt := ⟨4, 3, 7, .nanOnly, false⟩
def e5m2 : FpFmt := ⟨5, 2, 15, .ieee, false⟩
def e3m2 : FpFmt := ⟨3, 2, 3, .none, false⟩
def e2m3 : FpFmt := ⟨2, 3, 1, .none, false⟩
def e2m1 : FpFmt := ⟨2, 1, 1, .none, false⟩

/-- The floating-point layout of a vector element type (R70, R122); integer types have none. -/
def etFmt : Et → Option FpFmt
  | .f32 => some fp32 | .bf16 => some bf16 | .f16 => some fp16 | .e4m3 => some e4m3 | .e5m2 => some e5m2
  | .i32 | .i16 | .i8 => none

/-- The layout of a scalar precision (R62). -/
def precFmt : Prec → FpFmt | .f32 => fp32 | .f64 => fp64

/-- A decoded value (R124): a NaN with its sign, whether it signals and its mantissa of a width; an infinity; or the exact value ±m × 2^e. -/
inductive Fp where
  | nan (neg sig : Bool) (mant w : Nat)
  | inf (neg : Bool)
  | fin (neg : Bool) (m : Nat) (e : Int)
deriving DecidableEq, Repr

/-- Bits of a code, the top exponent field, and the exponent of the smallest normal value. -/
def FpFmt.width (f : FpFmt) : Nat := 1 + f.ebits + f.mbits
def FpFmt.eTop (f : FpFmt) : Nat := 2 ^ f.ebits - 1
def FpFmt.emin (f : FpFmt) : Int := 1 - (f.bias : Int)
/-- The magnitude of the largest finite code (R123). -/
def FpFmt.maxCode (f : FpFmt) : Nat :=
  match f.specials with
  | .ieee => f.eTop * 2 ^ f.mbits - 1
  | .nanOnly => 2 ^ (f.ebits + f.mbits) - 2
  | .none => 2 ^ (f.ebits + f.mbits) - 1
/-- The default NaN (R123). -/
def FpFmt.defaultNaN (f : FpFmt) : Nat :=
  match f.specials with
  | .ieee => f.eTop * 2 ^ f.mbits + 2 ^ (f.mbits - 1)
  | .nanOnly => 2 ^ (f.ebits + f.mbits) - 1
  | .none => 0
def FpFmt.signBit (f : FpFmt) (neg : Bool) : Nat := if neg then 2 ^ (f.ebits + f.mbits) else 0

/-- The value of a code (R124). -/
def FpFmt.decode (f : FpFmt) (c : Nat) : Fp :=
  let m := c % 2 ^ f.mbits
  let e := c / 2 ^ f.mbits % 2 ^ f.ebits
  let neg := c / 2 ^ (f.ebits + f.mbits) % 2 == 1
  let finite := if e = 0 then Fp.fin neg m (f.emin - f.mbits) else Fp.fin neg (m + 2 ^ f.mbits) (f.emin - f.mbits + (e - 1 : Nat))
  match f.specials with
  | .ieee => if e = f.eTop then (if m = 0 then .inf neg else .nan neg (m / 2 ^ (f.mbits - 1) == 0) m f.mbits) else finite
  | .nanOnly => if e = f.eTop ∧ m = 2 ^ f.mbits - 1 then .nan neg false m f.mbits else finite
  | .none => finite

/-- Whether a value is a subnormal of a format. -/
def FpFmt.subnormal (f : FpFmt) : Fp → Bool
  | .fin _ m e => m != 0 && decide (e = f.emin - f.mbits) && decide (m < 2 ^ f.mbits)
  | _ => false

/-- A code read as an operand: with FTZ a subnormal of FP32, BF16 or FP16 reads as zero of its sign (R134). -/
def FpFmt.read (f : FpFmt) (ftz : Bool) (c : Nat) : Fp :=
  match f.decode c with
  | .fin neg m e => if ftz && f.ftz && f.subnormal (.fin neg m e) then .fin neg 0 e else .fin neg m e
  | v => v

/-- Rounding modes (R129). -/
inductive RMode where | rne | rtz | rup | rdn | rs
deriving DecidableEq, Repr

/-- Flags of FFLG (R131): NV, DZ, OF, UF, NX from bit 4 to bit 0. -/
abbrev FFlags := BitVec 5
def flNV : FFlags := 16
def flDZ : FFlags := 8
def flOF : FFlags := 4
def flUF : FFlags := 2
def flNX : FFlags := 1

/-- An exact nonnegative magnitude (m + s) × 2^e, where s lies strictly between 0 and 1 when sticky and is 0 otherwise. Quotients and roots carry more bits than any rounding reads, so that sticky decides every comparison. -/
structure Exact where
  neg : Bool
  m : Nat
  e : Int
  sticky : Bool := false
deriving DecidableEq, Repr

/-- m shifted by a signed power of two, and what falls below the unit: the remainder and its width in bits. -/
def scaleTo (x : Exact) (q : Int) : Nat × Nat × Nat :=
  if q ≤ x.e then (x.m * 2 ^ (x.e - q).toNat, 0, 0)
  else let k := (q - x.e).toNat; (x.m / 2 ^ k, x.m % 2 ^ k, k)

/-- Whether a truncated magnitude n with a remainder of k bits is taken one unit away from zero (R129, R130); u is the low half of the new LFSR state. -/
def roundsAway (mode : RMode) (u : Nat) (neg : Bool) (n rem k : Nat) (sticky : Bool) : Bool :=
  let inexact := rem != 0 || sticky
  match mode with
  | .rne => decide (2 * rem > 2 ^ k ∨ (2 * rem = 2 ^ k ∧ k ≠ 0 ∧ (sticky ∨ n % 2 = 1)))
  | .rtz => false
  | .rup => inexact && !neg
  | .rdn => inexact && neg
  | .rs => decide (rem * 2 ^ 16 / 2 ^ k + u ≥ 2 ^ 16)

/-- An exact magnitude rounded to multiples of 2^q: the multiple and whether it is inexact. -/
def roundAt (mode : RMode) (u : Nat) (x : Exact) (q : Int) : Nat × Bool :=
  let (n, rem, k) := scaleTo x q
  (if roundsAway mode u x.neg n rem k x.sticky then n + 1 else n, rem != 0 || x.sticky)

/-- Exponent of the leading one bit of a magnitude. -/
def Exact.top (x : Exact) : Int := (Nat.log2 x.m : Int) + x.e

/-- The code an overflow takes (R129). -/
def FpFmt.overflow (f : FpFmt) (mode : RMode) (sat neg : Bool) : Nat :=
  let big := f.signBit neg + f.maxCode
  let away := match mode with | .rne => true | .rs => true | .rtz => false | .rup => !neg | .rdn => neg
  if sat || !away then big
  else match f.specials with
    | .ieee => f.signBit neg + f.eTop * 2 ^ f.mbits
    | .nanOnly => f.signBit neg + f.defaultNaN
    | .none => big

/-- A magnitude rounded into a format (R129, R130): the code and its flags. A result that is tiny after rounding to the format's precision and inexact raises UF. -/
def FpFmt.round (f : FpFmt) (mode : RMode) (sat : Bool) (u : Nat) (x : Exact) : Nat × FFlags :=
  if x.m = 0 then (f.signBit x.neg, 0)
  else
    let q := max x.top f.emin - f.mbits
    let (n, inexact) := roundAt mode u x q
    let code := (q - (f.emin - f.mbits)).toNat * 2 ^ f.mbits + n
    if code > f.maxCode then (f.overflow mode sat x.neg, flOF ||| flNX)
    else
      let tiny := decide (x.top < f.emin) && decide ((roundAt mode u x (x.top - f.mbits)).1 < 2 ^ (f.emin - x.top).toNat * 2 ^ f.mbits)
      (f.signBit x.neg + code, (if tiny && inexact then flUF else 0) ||| (if inexact then flNX else 0))

/-- A rounded result with FTZ: a subnormal of FP32, BF16 or FP16 is written as zero of its sign and raises UF and NX (R134). -/
def FpFmt.flush (f : FpFmt) (ftz : Bool) (r : Nat × FFlags) : Nat × FFlags :=
  if ftz && f.ftz && f.subnormal (f.decode r.1) then (f.signBit (r.1 / 2 ^ (f.ebits + f.mbits) % 2 == 1), r.2 ||| flUF ||| flNX) else r

/-- What rounds an operation: the destination, the mode, FTZ, saturation and the low half of the LFSR state after its step (used in mode RS only). -/
structure Env where
  fmt : FpFmt
  mode : RMode
  ftz : Bool
  sat : Bool := false
  u : Nat := 0
deriving DecidableEq, Repr

def Env.finish (v : Env) (x : Exact) : Nat × FFlags := v.fmt.flush v.ftz (v.fmt.round v.mode v.sat v.u x)

/-- An infinity written in a format (R135 rule 3); the NaN of E4M3 takes its sign (log 99). -/
def FpFmt.infCode (f : FpFmt) (sat neg : Bool) : Nat :=
  if sat then f.signBit neg + f.maxCode
  else match f.specials with
    | .ieee => f.signBit neg + f.eTop * 2 ^ f.mbits
    | .nanOnly => f.signBit neg + f.defaultNaN
    | .none => f.signBit neg + f.maxCode

/-- A NaN operand written in a format, quieted, keeping its sign and the top bits of its payload (R133, R135). -/
def FpFmt.nanCode (f : FpFmt) (neg : Bool) (mant w : Nat) : Nat :=
  match f.specials with
  | .ieee =>
    let p := if w ≤ f.mbits then mant * 2 ^ (f.mbits - w) else mant / 2 ^ (w - f.mbits)
    f.signBit neg + f.eTop * 2 ^ f.mbits + (p ||| 2 ^ (f.mbits - 1))
  | .nanOnly => f.signBit neg + f.defaultNaN
  | .none => 0

/-- The NaN rule of R133 over the operands in order: the first NaN, or none; and whether any operand signals. -/
def firstNaN : List Fp → Option (Bool × Nat × Nat)
  | [] => none
  | .nan neg _ m w :: _ => some (neg, m, w)
  | _ :: vs => firstNaN vs
def anySignals (vs : List Fp) : Bool := vs.any fun v => match v with | .nan _ sig _ _ => sig | _ => false

/-- The result when an operand is a NaN (R133). -/
def Env.nanOf (v : Env) (vs : List Fp) (neg : Bool) (m w : Nat) (invalid : Bool) : Nat × FFlags :=
  (v.fmt.nanCode neg m w, if invalid || anySignals vs then flNV else 0)
/-- The result of an invalid operation without a NaN operand (R133). -/
def Env.invalid (v : Env) : Nat × FFlags := (v.fmt.defaultNaN, flNV)

/-- The sum of two exact values; a zero sum is +0, or −0 in mode RDN or when both are −0. -/
def addExact (mode : RMode) (n1 : Bool) (m1 : Nat) (e1 : Int) (n2 : Bool) (m2 : Nat) (e2 : Int) : Exact :=
  let e := min e1 e2
  let a : Int := (m1 * 2 ^ (e1 - e).toNat : Nat)
  let b : Int := (m2 * 2 ^ (e2 - e).toNat : Nat)
  let s := (if n1 then -a else a) + (if n2 then -b else b)
  if s = 0 then ⟨if m1 = 0 ∧ m2 = 0 ∧ n1 = n2 then n1 else mode == .rdn, 0, e, false⟩
  else ⟨decide (s < 0), s.natAbs, e, false⟩

/-- A + B (R147, R150). -/
def fpAdd (v : Env) (a b : Fp) : Nat × FFlags :=
  match firstNaN [a, b] with
  | some (neg, m, w) => v.nanOf [a, b] neg m w false
  | none =>
    match a, b with
    | .inf na, .inf nb => if na = nb then (v.fmt.infCode v.sat na, 0) else v.invalid
    | .inf na, _ => (v.fmt.infCode v.sat na, 0)
    | _, .inf nb => (v.fmt.infCode v.sat nb, 0)
    | .fin n1 m1 e1, .fin n2 m2 e2 => v.finish (addExact v.mode n1 m1 e1 n2 m2 e2)
    | _, _ => v.invalid

/-- A value with its sign inverted; a NaN keeps its sign. -/
def fpNegate : Fp → Fp
  | .nan n s m w => .nan n s m w
  | .inf n => .inf (!n)
  | .fin n m e => .fin (!n) m e

/-- A − B (R147, R150). -/
def fpSub (v : Env) (a b : Fp) : Nat × FFlags := fpAdd v a (fpNegate b)

/-- A × B (R147, R150). -/
def fpMul (v : Env) (a b : Fp) : Nat × FFlags :=
  match firstNaN [a, b] with
  | some (neg, m, w) => v.nanOf [a, b] neg m w false
  | none =>
    match a, b with
    | .inf na, .inf nb => (v.fmt.infCode v.sat (na != nb), 0)
    | .inf na, .fin nb m _ => if m = 0 then v.invalid else (v.fmt.infCode v.sat (na != nb), 0)
    | .fin na m _, .inf nb => if m = 0 then v.invalid else (v.fmt.infCode v.sat (na != nb), 0)
    | .fin n1 m1 e1, .fin n2 m2 e2 => v.finish ⟨n1 != n2, m1 * m2, e1 + e2, false⟩
    | _, _ => v.invalid

/-- A × B + C with one rounding; negated negates the product (R147, R150). -/
def fpFma (v : Env) (negated : Bool) (a b c : Fp) : Nat × FFlags :=
  let zeroTimesInf := match a, b with
    | .inf _, .fin _ m _ => m == 0
    | .fin _ m _, .inf _ => m == 0
    | _, _ => false
  match firstNaN [a, b, c] with
  | some (neg, m, w) => v.nanOf [a, b, c] neg m w zeroTimesInf
  | none =>
    if zeroTimesInf then v.invalid
    else
      let pneg (na nb : Bool) : Bool := (na != nb) != negated
      match a, b, c with
      | .fin na ma ea, .fin nb mb eb, .fin nc mc ec => v.finish (addExact v.mode (pneg na nb) (ma * mb) (ea + eb) nc mc ec)
      | .fin _ _ _, .fin _ _ _, .inf nc => (v.fmt.infCode v.sat nc, 0)
      | .inf na, .inf nb, .inf nc => if pneg na nb = nc then (v.fmt.infCode v.sat nc, 0) else v.invalid
      | .inf na, .fin nb _ _, .inf nc => if pneg na nb = nc then (v.fmt.infCode v.sat nc, 0) else v.invalid
      | .fin na _ _, .inf nb, .inf nc => if pneg na nb = nc then (v.fmt.infCode v.sat nc, 0) else v.invalid
      | .inf na, .inf nb, _ => (v.fmt.infCode v.sat (pneg na nb), 0)
      | .inf na, .fin nb _ _, _ => (v.fmt.infCode v.sat (pneg na nb), 0)
      | .fin na _ _, .inf nb, _ => (v.fmt.infCode v.sat (pneg na nb), 0)
      | _, _, _ => v.invalid

/-- An exact quotient with more bits than a rounding into f reads. -/
def divExact (f : FpFmt) (neg : Bool) (m1 : Nat) (e1 : Int) (m2 : Nat) (e2 : Int) : Exact :=
  let k := Nat.log2 m2 + f.mbits + 24
  ⟨neg, m1 * 2 ^ k / m2, e1 - e2 - k, m1 * 2 ^ k % m2 != 0⟩

/-- A ÷ B (R140, R147, R155). -/
def fpDiv (v : Env) (a b : Fp) : Nat × FFlags :=
  match firstNaN [a, b] with
  | some (neg, m, w) => v.nanOf [a, b] neg m w false
  | none =>
    match a, b with
    | .inf _, .inf _ => v.invalid
    | .inf na, .fin nb _ _ => (v.fmt.infCode v.sat (na != nb), 0)
    | .fin na _ _, .inf nb => (v.fmt.signBit (na != nb), 0)
    | .fin n1 m1 e1, .fin n2 m2 e2 =>
      if m2 = 0 then (if m1 = 0 then v.invalid else (v.fmt.infCode v.sat (n1 != n2), flDZ))
      else if m1 = 0 then (v.fmt.signBit (n1 != n2), 0)
      else v.finish (divExact v.fmt (n1 != n2) m1 e1 m2 e2)
    | _, _ => v.invalid

/-- The integer square root, bit by bit from bit k - 1 down. -/
def isqrtFrom : Nat → Nat → Nat → Nat
  | 0, _, r => r
  | k + 1, x, r => if (r + 2 ^ k) * (r + 2 ^ k) ≤ x then isqrtFrom k x (r + 2 ^ k) else isqrtFrom k x r
def isqrt (x : Nat) : Nat := isqrtFrom (Nat.log2 x / 2 + 1) x 0

/-- An exact root with more bits than a rounding into f reads. -/
def sqrtExact (f : FpFmt) (m : Nat) (e : Int) : Exact :=
  let k := 2 * (f.mbits + 24)
  let (m, e) := if e % 2 = 0 then (m, e) else (2 * m, e - 1)
  let r := isqrt (m * 2 ^ k)
  ⟨false, r, e / 2 - (f.mbits + 24 : Nat), r * r != m * 2 ^ k⟩

/-- √A (R140, R147, R155). -/
def fpSqrt (v : Env) (a : Fp) : Nat × FFlags :=
  match a with
  | .nan neg _ m w => v.nanOf [a] neg m w false
  | .inf neg => if neg then v.invalid else (v.fmt.infCode v.sat false, 0)
  | .fin neg m e => if m = 0 then (v.fmt.signBit neg, 0) else if neg then v.invalid else v.finish (sqrtExact v.fmt m e)

/-- A < B for values that are no NaN, −0 and +0 being equal. -/
def fpLt : Fp → Fp → Bool
  | .inf na, .inf nb => na && !nb
  | .inf na, _ => na
  | _, .inf nb => !nb
  | .fin n1 m1 e1, .fin n2 m2 e2 =>
    let e := min e1 e2
    let a : Int := (m1 * 2 ^ (e1 - e).toNat : Nat)
    let b : Int := (m2 * 2 ^ (e2 - e).toNat : Nat)
    decide ((if n1 then -a else a) < (if n2 then -b else b))
  | _, _ => false
def Fp.isNaN : Fp → Bool | .nan _ _ _ _ => true | _ => false
def Fp.sign : Fp → Bool | .nan n _ _ _ => n | .inf n => n | .fin n _ _ => n

/-- FMIN and VMIN, FMAX and VMAX (R133): −0 counts as less than +0, and a quiet NaN against a number yields the number. The result carries the chosen operand as it was read. -/
def fpMinMax (v : Env) (isMax : Bool) (a b : Fp) : Nat × FFlags :=
  let write (x : Fp) : Nat × FFlags := match x with
    | .nan neg _ m w => (v.fmt.nanCode neg m w, 0)
    | .inf n => (v.fmt.infCode false n, 0)
    | .fin n m e => v.fmt.flush v.ftz (v.fmt.round .rne false 0 ⟨n, m, e, false⟩)
  if anySignals [a, b] || (a.isNaN && b.isNaN) then
    match firstNaN [a, b] with
    | some (neg, m, w) => v.nanOf [a, b] neg m w false
    | none => v.invalid
  else if a.isNaN then write b
  else if b.isNaN then write a
  else
    let less := fpLt a b || (!fpLt b a && a.sign && !b.sign)
    write (if less != isMax then a else b)

/-- FCMP (R147): the truth of a condition and NV. -/
def fpCompare (c : FCond) (a b : Fp) : Bool × FFlags :=
  let un := a.isNaN || b.isNaN
  let eq := !un && !fpLt a b && !fpLt b a
  let sig := if anySignals [a, b] then flNV else 0
  match c with
  | .eq => (eq, sig)
  | .ne => (!eq, sig)
  | .un => (un, sig)
  | .lt => (!un && fpLt a b, if un then flNV else 0)
  | .le => (!un && (fpLt a b || eq), if un then flNV else 0)

/-- A value converted into the destination of v (R135). -/
def fpConvert (v : Env) (a : Fp) : Nat × FFlags :=
  match a with
  | .nan neg sig m w =>
    match v.fmt.specials with
    | .none => (0, flNV)
    | _ => (v.fmt.nanCode neg m w, if sig then flNV else 0)
  | .inf neg => (v.fmt.infCode v.sat neg, 0)
  | .fin neg m e => v.finish ⟨neg, m, e, false⟩

/-- An integer converted into the destination of v (R135). -/
def fpOfInt (v : Env) (i : Int) : Nat × FFlags := v.finish ⟨decide (i < 0), i.natAbs, 0, false⟩

/-- A value rounded to an integer and clamped to lo..hi (R135 rule 5). -/
def fpToInt (mode : RMode) (u : Nat) (lo hi : Int) (a : Fp) : Int × FFlags :=
  match a with
  | .nan _ _ _ _ => (0, flNV)
  | .inf neg => (if neg then lo else hi, flNV)
  | .fin neg m e =>
    let (n, inexact) := roundAt mode u ⟨neg, m, e, false⟩ 0
    let i : Int := if neg then -(n : Int) else n
    if i < lo then (lo, flNV) else if i > hi then (hi, flNV) else (i, if inexact then flNX else 0)

/-- An integer narrowed to lo..hi: clamped with .sat, else its low bits (R135 rule 6), as w bits. -/
def intNarrow (sat : Bool) (w : Nat) (lo hi : Int) (i : Int) : Nat :=
  let j := if sat then (if i < lo then lo else if i > hi then hi else i) else i
  (j % (2 ^ w : Nat)).toNat

/-- One step of the stochastic generator (R130). -/
def lfsrStep (s : BitVec 32) : BitVec 32 :=
  if s.getLsbD 0 then (s >>> 1) ^^^ 0x80200003 else s >>> 1

/-- The class word of FCLASS (R147). -/
def fpClass (f : FpFmt) (c : Nat) : Nat :=
  let v := f.decode c
  let s := if v.sign then 8 else 0
  match v with
  | .nan _ sig _ _ => s + (if sig then 5 else 4)
  | .inf _ => s + 3
  | .fin _ m e =>
    if m = 0 then s
    else
      let x : Int := (Nat.log2 m : Int) + e
      (x % 4096).toNat * 16 + s + (if f.subnormal v then 1 else 2)

/-- E8M0 block scale as FP32, never flushed (R128). -/
def e8m0ToFp32 (e : Nat) : Nat :=
  if e = 255 then fp32.defaultNaN else (fp32.round .rne false 0 ⟨false, 1, (e : Int) - 127, false⟩).1

/-! ## Operands of the matrix engine (R122, R125, R136) -/

/-- Bits of an element code (R122). -/
def elemBits (c : Nat) : Nat :=
  match c with
  | 0 => 32 | 1 => 16 | 2 => 16 | 3 => 8 | 4 => 8 | 5 => 6 | 6 => 6 | 7 => 4
  | 8 => 8 | 9 => 8 | 10 => 4 | 11 => 4 | 12 => 2 | 13 => 2 | 14 => 4 | _ => 2
/-- The layout of a float element code. -/
def elemFmt (c : Nat) : Option FpFmt :=
  match c with
  | 0 => some fp32 | 1 => some bf16 | 2 => some fp16 | 3 => some e4m3 | 4 => some e5m2
  | 5 => some e3m2 | 6 => some e2m3 | 7 => some e2m1 | _ => none
/-- Integer element codes (R136). -/
def elemIsInt (c : Nat) : Bool := 8 ≤ c && c ≤ 13
/-- Codebook element codes (R127). -/
def elemIsCb (c : Nat) : Bool := 14 ≤ c
/-- The integer of a code of an integer element type (R125). -/
def elemInt (c x : Nat) : Int :=
  let w := elemBits c
  if c % 2 = 0 ∧ x ≥ 2 ^ (w - 1) then (x : Int) - (2 ^ w : Nat) else x

end Sys2Proof.Machine
end

