-- ==== Sys2Proof/Machine/Flags.lean ====
section
/-!
DEFINITION. Floating-point flags and modes (R129 to R132), the stochastic generator's steps, and the field maps of the special registers (R12, R65, R66, R69, R103, R106, R131, R185, R186, R278, R343).
-/
namespace Sys2Proof.Machine

open Sys2Proof

/-! ## Rounding mode, FTZ, generator and flags -/

/-- The mode that FCTL.mode names (R131). -/
def fctlMode (c : Word) : RMode :=
  match c.toNat % 8 with | 1 => .rtz | 2 => .rup | 3 => .rdn | 4 => .rs | _ => .rne
/-- The mode of an instruction: its own, or FCTL's for .dyn (R62). -/
def roundMode (r : Rnd) (fctl : Word) : RMode :=
  match r with | .rne => .rne | .rtz => .rtz | .rup => .rup | .rdn => .rdn | .rs => .rs | .dyn => fctlMode fctl
def State.mode (s : State) (r : Rnd) : RMode := roundMode r s.hart.fctl
def State.ftz (s : State) : Bool := s.hart.fctl.toNat / 8 % 2 == 1

/-- Flags set by OR (R132). -/
def Hart.raise (h : Hart) (f : FFlags) : Hart := { h with fflg := h.fflg ||| f.zeroExtend 64 }
def State.raiseFlags (f : FFlags) (s : State) : State := s.setHart (s.hart.raise f)

/-- The generator after a step, and the number u of R130. -/
def stepWord (l : Word) : Word := (lfsrStep (l.setWidth 32)).zeroExtend 64
def lfsrLow (l : Word) : Nat := (stepWord l).toNat % 65536
/-- What rounds an operation, and the stream's generator afterwards: stepped once in the mode RS (R130). -/
def State.env (s : State) (fmt : FpFmt) (mode : RMode) (sat : Bool := false) : Env × Word :=
  if mode = .rs then ({ fmt := fmt, mode := mode, ftz := s.ftz, sat := sat, u := lfsrLow s.hart.lfsr }, stepWord s.hart.lfsr)
  else ({ fmt := fmt, mode := mode, ftz := s.ftz, sat := sat }, s.hart.lfsr)
def State.setLfsr (w : Word) (s : State) : State := s.setHart { s.hart with lfsr := w }

/-! ## Field maps -/

/-- Bits [hi:lo] of a word. -/
def wordBits (hi lo : Nat) (w : Word) : Nat := w.toNat / 2 ^ lo % 2 ^ (hi + 1 - lo)

/-- SEIZEEST of the stream in focus (R343). -/
def State.seizeest (s : State) : Word := s.seizeestOf s.hart

/-- FCTL accepts a write (R131). -/
def fctlOk (w : Word) : Bool := wordBits 63 4 w == 0 && wordBits 2 0 w ≤ 4
def fflgOk (w : Word) : Bool := wordBits 63 5 w == 0
def lfsrOk (w : Word) : Bool := wordBits 63 32 w == 0
/-- REPST accepts a write at S (R69). -/
def repstOk (w : Word) : Bool := wordBits 63 18 w == 0 && wordBits 5 0 w ≤ wordBits 11 6 w
/-- EVHPC accepts a write (R106); active is writable at S only. -/
def evhpcOk (w : Word) : Bool := wordBits 62 51 w == 0 && wordBits 0 0 w == 0
def evhpcWrite (l : Level) (old w : Word) : Word :=
  if l = .s then w else BitVec.ofNat 64 (wordBits 63 63 old * 2 ^ 63 + wordBits 50 0 w)
def cycbudOk (w : Word) : Bool := wordBits 63 33 w == 0
/-- PRIO accepts a write (R12). -/
def prioOk (l : Level) (base : Nat) (w : Word) : Bool :=
  wordBits 63 14 w == 0 && wordBits 7 6 w == 0 && wordBits 5 0 w ≤ 47 && (l == .s || wordBits 5 0 w ≤ base)
def injOk (w : Word) : Bool := wordBits 63 32 w == 0 && wordBits 30 24 w == 0 && wordBits 15 13 w == 0
/-- ERRST accepts a write at S (R103); pending is read only. -/
def errstOk (w : Word) : Bool := wordBits 63 56 w == 0 && wordBits 53 48 w == 0 && wordBits 37 37 w == 0
def errstWrite (old w : Word) : Word := BitVec.ofNat 64 (wordBits 63 55 w * 2 ^ 55 + wordBits 54 54 old * 2 ^ 54 + wordBits 53 0 w)
def seizeestOk (w : Word) : Bool := wordBits 62 55 w == 0 && wordBits 47 32 w == 0
def cswaOk (w : Word) : Bool := wordBits 63 27 w == 0 && wordBits 2 0 w == 0
def fsOk (w : Word) : Bool := wordBits 63 5 w == 0

/-- The event word x30 of R106. -/
def eventWord (cls cause sub : Nat) : Word := BitVec.ofNat 64 (cls + cause * 256 + sub * 65536)

end Sys2Proof.Machine
end

