-- ==== Sys2Proof/Machine/Memory.lean ====
section
/-!
DEFINITION. Loads and stores through handles, their compact forms, and the loads of the operand-extension registers (R55, R61, R81 to R83, R108, R115, R372).
-/
namespace Sys2Proof.Machine

open Sys2Proof

/-! ## Loads -/

/-- What a load writes. -/
def State.writeReply (s : State) (r : Reply) (v : Nat) : State :=
  match r with
  | .x d size signed => s.setX d (extendBytes size signed v)
  | .v d => s.setV d (BitVec.ofNat 512 v)
  | .ox n => s.setOX n (BitVec.ofNat 64 v)
  | .amo d size => s.setX d (extendBytes size (size == 4) v)
  | .hold n w => s.setHart { s.hart with met := some (.answered (n + 64) (w + v * 2 ^ (8 * n))) }
  | .cas d size =>
    let lo := BitVec.ofNat 5 (2 * d.toNat)
    (s.setX lo (extendBytes size (size == 4) (v % 2 ^ 64))).setX (lo + 1) (BitVec.ofNat 64 (v / 2 ^ 64))

/-- What the registers held that a load writes, so that an abandoned wait restores them. -/
def Hart.undo (h : Hart) (r : Reply) : Undo :=
  match r with
  | .x d _ _ => { pc := h.pc, repst := h.repst, x := some (d, h.getX d) }
  | .v d => { pc := h.pc, repst := h.repst, v := some (d, h.getV d) }
  | _ => { pc := h.pc, repst := h.repst }

/-- A load of n bytes of code has its data: the destination is written, and the slot is parked for the latency of the access (R109, R121). -/
def State.loaded (s : State) (n : Nat) (r : Reply) (v latency : Nat) : State :=
  let u := s.hart.undo r
  let s := (s.writeReply r v).done n
  let due := s.clk + latency
  (s.setHart { s.hart with wait := some (.data due u) }).schedule due (.loadResponse s.hart.tid s.hart.no)

/-- A request leaves the slot for a peer (R340, R372). -/
def State.request (s : State) (c : CapRec) (h : BitVec 4) (kind off arg : Nat) (payload : List Byte) (r : Reply) (n : Nat) : State :=
  match c.proxy with
  | none => s
  | some p =>
    let pk := s.packetTo p.dev kind c.asid c.version p.image off arg payload
    let (s, seq) := s.sendSequenced p.dev pk s.hart.tid s.hart.no h none none
    s.setHart { s.hart with wait := some (.peerReply p.dev seq), inRep := false
                            remote := some ⟨p.dev, seq, r, h, c.img, n, s.hart.inRep⟩ }

/-- What a queue view reads (R267): W in word 0 and RI in word 1 of its queue, at the address of the view. -/
def State.viewValue (s : State) (a size : Nat) : Nat :=
  let q := (a - viewBase) / 16
  let words := ((findBy (·.1) q s.queues).map (·.2)).getD (Vector.replicate 4 0)
  leValue (((bytesOf 8 words[2].toNat ++ bytesOf 8 words[3].toNat).drop ((a - viewBase) % 16)).take size)

/-- A load performed at its home: zero, poison and MERR when the home finds an uncorrectable error (R81). -/
def State.readHome (s : State) (c : CapRec) (h : BitVec 4) (a size : Nat) : State × Nat :=
  if isView a then (s, s.viewValue a size)
  else if s.hasUE a size then (s.memError c h a, 0) else (s.correct a size, leValue (s.readPhys a size))

/-- The class a load is admitted as: COMMONS buffers admit word sizes only (R81). -/
def wordSize (size : Nat) : Bool := size == 4 || size == 8

/-- What the reading part of an instruction comes to: the bytes with their latency, a wait, a trap, or a peer that must be asked. -/
inductive Got where
  | value (c : CapRec) (v latency : Nat) (s : State)
  | wait (w : Wait) (s : State)
  | trap (t : TrapInfo)
  | peer (c : CapRec) (off : Nat) (s : State)

/-- A read of a size at an offset through a handle (R81, R82, R115): forwarded, ready 3 clk after its issue; or performed at its home, after the entries it must wait for and the stream's own posted writes. -/
def State.readOf (s : State) (size : Nat) (h : BitVec 4) (off : Word) (need : Rights) (word : Bool) : Got :=
  match s.find h off size need (.load word) false with
  | .trap t => .trap t
  | .wait w s => .wait w s
  | .at_ c home s =>
    match s.forward c off.toNat size with
    | .value v => .value c v 2 s
    | .wait ids => .wait (.sbEntries ids) s
    | .home =>
      match home with
      | .peer _ o => .peer c o s
      | .mem a =>
        let posted := s.ownPosted home size
        if !posted.isEmpty then .wait (.posted posted) s
        else
          let latency := s.homeLatency home
          let (s, v) := s.readHome c h a size
          .value c v latency s

/-- A load of a size at an offset through a handle (R81, R82, R115); n is the length of its instruction. -/
def load (n : Nat) (r : Reply) (size : Nat) (h : BitVec 4) (off : Word) (s : State) : Out :=
  match s.readOf size h off needRD (wordSize size) with
  | .trap t => raise t s
  | .wait w s => park w s
  | .value _ v latency s => .next (s.loaded n r v latency)
  | .peer c o s => .next (s.request c h 1 o (size - 1) [] r n)

/-- The 64 bytes that an instruction reads before it decides (R94, R205, R219): a packet or a record, once here, or once a peer has answered. -/
def readRecord (n : Nat) (h : BitVec 4) (off : Word) (k : List Byte → Nat → State → Out) (s : State) : Out :=
  match s.readOf 64 h off needRD false with
  | .trap t => raise t s
  | .wait w s => park w s
  | .value _ v latency s => k (bytesOf 64 v) latency s
  | .peer c o s =>
    match s.hart.met with
    | some (.answered _ v) => k (bytesOf 64 v) 1 s
    | _ => .next (s.request c h 1 o 63 [] (.hold 0 0) n)

/-- LD.b (R81). -/
def execLdB (d : BitVec 5) (h : BitVec 4) (x : BitVec 5) (i : BitVec 8) (s : State) : Out := load 4 (.x d 1 true) 1 h (s.offset x i 1) s
/-- LD.bu (R81). -/
def execLdBu (d : BitVec 5) (h : BitVec 4) (x : BitVec 5) (i : BitVec 8) (s : State) : Out := load 4 (.x d 1 false) 1 h (s.offset x i 1) s
/-- LD.h (R81). -/
def execLdH (d : BitVec 5) (h : BitVec 4) (x : BitVec 5) (i : BitVec 8) (s : State) : Out := load 4 (.x d 2 true) 2 h (s.offset x i 2) s
/-- LD.hu (R81). -/
def execLdHu (d : BitVec 5) (h : BitVec 4) (x : BitVec 5) (i : BitVec 8) (s : State) : Out := load 4 (.x d 2 false) 2 h (s.offset x i 2) s
/-- LD.w (R81). -/
def execLdW (d : BitVec 5) (h : BitVec 4) (x : BitVec 5) (i : BitVec 8) (s : State) : Out := load 4 (.x d 4 true) 4 h (s.offset x i 4) s
/-- LD.wu (R81). -/
def execLdWu (d : BitVec 5) (h : BitVec 4) (x : BitVec 5) (i : BitVec 8) (s : State) : Out := load 4 (.x d 4 false) 4 h (s.offset x i 4) s
/-- LD.d (R81). -/
def execLdD (d : BitVec 5) (h : BitVec 4) (x : BitVec 5) (i : BitVec 8) (s : State) : Out := load 4 (.x d 8 false) 8 h (s.offset x i 8) s
/-- C.LD (R55), as LD.d xd, hn[x0 + off]. -/
def execCLd (d : BitVec 5) (n : BitVec 2) (o : BitVec 4) (s : State) : Out :=
  load 2 (.x d 8 false) 8 (n.zeroExtend 4) (s.offset 0 (o.zeroExtend 8) 8) s
/-- LDV (R82), after the interlock of R143. -/
def execLdv (d : BitVec 5) (h : BitVec 4) (x : BitVec 5) (i : BitVec 8) (s : State) : Out :=
  match s.rowWait [d] with
  | some w => park w s
  | none => load 4 (.v d) 64 h (s.offset x i 64) s
/-- OXL (R108): 8 bytes into OXn, checked as LD.d; a negative offset raises CAPV subcode LEN. -/
def execOxl (n : BitVec 3) (h : BitVec 4) (i : BitVec 15) (s : State) : Out := load 4 (.ox n) 8 h (sx i * 8) s
/-- OXL.h (R108): the handle image; an empty handle gives 0. -/
def execOxlH (n : BitVec 3) (h : BitVec 4) (s : State) : Out := finish 4 (s.setOX n (s.handle h))
/-- OXLI (R108). -/
def execOxli (n : BitVec 3) (a : BitVec 5) (i : BitVec 15) (s : State) : Out := finish 4 (s.setOX n (s.x a + sx i))

/-! ## Stores -/

/-- The root's version steps and its written bit is set by the first store since the bit was cleared (R31). -/
def State.storeVersion (s : State) (c : CapRec) : BitVec 16 := match s.rec? c.root with | some r => r.version | none => c.version

/-- A store of a value at an offset through a handle (R81, R83, R115). -/
def store (n size : Nat) (release : Bool) (v : Nat) (h : BitVec 4) (off : Word) (s : State) : Out :=
  match s.find h off size needWR (.store (wordSize size)) true with
  | .trap t => raise t s
  | .wait w s => park w s
  | .at_ c home s =>
    if c.level = .peer ∧ (c.proxy.map (·.image)) = some 0 ∧ size ≠ 64 then raise (trapCapv subLEN h) s
    else
      let s' := if c.level = .peer then s else s.noteStore c.root
      match s'.tile.retire s'.hart h c home off.toNat size v (s'.storeVersion c) release s'.clk with
      | none => park .sbPlace s
      | some t => finish n (s'.setTile t)

/-- ST.b (R81). -/
def execStB (b : BitVec 5) (h : BitVec 4) (x : BitVec 5) (i : BitVec 8) (s : State) : Out := store 4 1 false ((s.x b).toNat % 2 ^ 8) h (s.offset x i 1) s
/-- ST.h (R81). -/
def execStH (b : BitVec 5) (h : BitVec 4) (x : BitVec 5) (i : BitVec 8) (s : State) : Out := store 4 2 false ((s.x b).toNat % 2 ^ 16) h (s.offset x i 2) s
/-- ST.w (R81). -/
def execStW (b : BitVec 5) (h : BitVec 4) (x : BitVec 5) (i : BitVec 8) (s : State) : Out := store 4 4 false ((s.x b).toNat % 2 ^ 32) h (s.offset x i 4) s
/-- ST.d (R81). -/
def execStD (b : BitVec 5) (h : BitVec 4) (x : BitVec 5) (i : BitVec 8) (s : State) : Out := store 4 8 false (s.x b).toNat h (s.offset x i 8) s
/-- C.ST (R55), as ST.d xs, hn[x0 + off]. -/
def execCSt (b : BitVec 5) (n : BitVec 2) (o : BitVec 4) (s : State) : Out :=
  store 2 8 false (s.x b).toNat (n.zeroExtend 4) (s.offset 0 (o.zeroExtend 8) 8) s
/-- STL.w (R83). -/
def execStlW (b : BitVec 5) (h : BitVec 4) (x : BitVec 5) (i : BitVec 8) (s : State) : Out := store 4 4 true ((s.x b).toNat % 2 ^ 32) h (s.offset x i 4) s
/-- STL.d (R83). -/
def execStlD (b : BitVec 5) (h : BitVec 4) (x : BitVec 5) (i : BitVec 8) (s : State) : Out := store 4 8 true (s.x b).toNat h (s.offset x i 8) s
/-- STV (R82), after the interlock of R143. -/
def execStv (b : BitVec 5) (h : BitVec 4) (x : BitVec 5) (i : BitVec 8) (s : State) : Out :=
  match s.rowWait [b] with
  | some w => park w s
  | none => store 4 64 false (s.v b).toNat h (s.offset x i 64) s

end Sys2Proof.Machine
end

