-- ==== Sys2Proof/Machine/Atomics.lean ====
section
/-!
DEFINITION. Atomics and LDA (R83 to R86, R225, R244, R245, R367).
-/
namespace Sys2Proof.Machine

open Sys2Proof

/-- The operation of an AMO on the low bytes of a word (R85). -/
inductive AmoOp where | add | and | or | xor | min | max | minu | maxu | swap
deriving DecidableEq, Repr

/-- A number of n bytes read as signed. -/
def signedOf (n v : Nat) : Int := (BitVec.ofNat (8 * n) v).toInt

/-- Op(old, v) of R85, before it is cut to n bytes. -/
def amoOf (op : AmoOp) (n old v : Nat) : Nat :=
  match op with
  | .add => (old + v) % 2 ^ (8 * n)
  | .and => old &&& v
  | .or => old ||| v
  | .xor => old ^^^ v
  | .min => if signedOf n v < signedOf n old then v else old
  | .max => if signedOf n old < signedOf n v then v else old
  | .minu => if v < old then v else old
  | .maxu => if old < v then v else old
  | .swap => v

/-- Bytes of a size suffix (R84). -/
def szBytes : Sz → Nat | .w => 4 | .d => 8
/-- Whether a suffix orders earlier accesses before the atomic. -/
def orderReleases : Order → Bool | .rel | .ar => true | _ => false

/-- The admission of R86: FRAC records raise FRAC, PHASE and what the level does not admit raise KIND; at tile and cluster level an EXCL buffer waits as a store would. -/
def State.admitAtomic (s : State) (c : CapRec) (peerOp : Bool) : Admit :=
  match c.kind, c.level with
  | .frac, _ => .no subFRAC
  | .phase, _ => .no subKIND
  | .excl, .tile | .excl, .cluster => s.admits c .atomic
  | .commons, .tile | .commons, .cluster => .ok
  | .commons, .peer => if peerOp ∧ !s.replayKind c then .ok else .no subKIND
  | _, _ => .no subKIND

/-- What an atomic does with the old word: the new word, and for CAS whether it matched. -/
inductive AtomicAct where
  | amo (op : AmoOp) (v : Nat)
  | cas (expected new : Nat)

/-- The word an atomic leaves in its home, if it writes one, and the success of a CAS. -/
def AtomicAct.result (act : AtomicAct) (n old : Nat) : Option Nat × Nat :=
  match act with
  | .amo op v => (some (amoOf op n old v), 0)
  | .cas e w => if old = e then (some w, 1) else (none, 0)

/-- Operation code and operands of an ATOMIC packet (R367). -/
def AtomicAct.packet (act : AtomicAct) (n : Nat) : Nat × List Byte :=
  match act with
  | .amo _ v => (if n = 8 then 8 else 0, bytesOf 8 v)
  | .cas e w => (0x90 + (if n = 8 then 8 else 0), bytesOf 8 e ++ bytesOf 8 w)

/-- The reply of an atomic performed on this device: the registers are written, and the slot is parked for the latency of the home and 1 clk in the atomic unit (R225). -/
def State.atomicDone (s : State) (r : Reply) (v latency : Nat) : State :=
  let s := (s.writeReply r v).done 4
  let due := s.clk + latency + 1
  (s.setHart { s.hart with wait := some (.reply due) }).schedule due (.loadResponse s.hart.tid s.hart.no)

/-- An atomic performed at its home bank in one step (R85): an uncorrectable error writes zero, leaves memory and leaves MERR pending. -/
def State.atomicHome (s : State) (c : CapRec) (h : BitVec 4) (n a : Nat) (act : AtomicAct) (r : Reply) : State :=
  let lat := s.homeLatency (.mem a)
  if s.hasUE a n then (s.memError c h a).atomicDone r 0 lat
  else
    let old := leValue (s.readPhys a n)
    let (new, ok) := act.result n old
    let s := s.correct a n
    let s := match new with | some w => (s.noteStore c.root).writePhys a (bytesOf n w) | none => s
    s.atomicDone r (old + ok * 2 ^ 64) lat

/-- The atomics of R85: the checks of R24 and R86, alignment, bounds; the releases of the ordering suffix; the wait for the slot's own entries of the granule (R115); then the home. -/
def atomic (n : Nat) (o : Order) (peerOp : Bool) (act : AtomicAct) (r : Reply) (h : BitVec 4) (off : Word) (s : State) : Out :=
  match s.checkHandle h needRW with
  | .error t => raise t s
  | .ok c =>
    match s.admitAtomic c peerOp with
    | .no sub => raise (trapCapv sub h) s
    | .wait => park (.admits c.img 1) s
    | .ok =>
      if off.toNat % n ≠ 0 then raise { cause := .algn, handle := some h } s
      else if c.len < off.toNat + n then raise (trapCapv subLEN h) s
      else match (if orderReleases o then s.releaseWait else none) with
        | some (w, s) => park w s
        | none =>
          let own := s.ownGranule c off.toNat
          if !own.isEmpty then park (.sbEntries own) s
          else match s.locate c h off.toNat true with
            | .trap t => raise t s
            | .wait w s => park w s
            | .at_ c (.mem a) s =>
              if s.mustRecall a true then park (.window (windowLine a)) (s.snoop (windowLine a)) else .next (s.atomicHome c h n a act r)
            | .at_ c (.peer _ po) s => let (arg, ops) := act.packet n; .next (s.request c h 3 po arg ops r 4)

/-- The operand of an AMO: the low bytes of x[d]. -/
def State.amoArg (s : State) (d : BitVec 5) (z : Sz) : Nat := (s.x d).toNat % 2 ^ (8 * szBytes z)

/-- AMO.ADD (R85). -/
def execAmoAdd (d : BitVec 5) (h : BitVec 4) (b : BitVec 5) (z : Sz) (o : Order) (s : State) : Out :=
  atomic (szBytes z) o true (.amo .add (s.amoArg d z)) (.amo d (szBytes z)) h (s.x b) s
/-- AMO.AND (R85). -/
def execAmoAnd (d : BitVec 5) (h : BitVec 4) (b : BitVec 5) (z : Sz) (o : Order) (s : State) : Out :=
  atomic (szBytes z) o false (.amo .and (s.amoArg d z)) (.amo d (szBytes z)) h (s.x b) s
/-- AMO.OR (R85). -/
def execAmoOr (d : BitVec 5) (h : BitVec 4) (b : BitVec 5) (z : Sz) (o : Order) (s : State) : Out :=
  atomic (szBytes z) o false (.amo .or (s.amoArg d z)) (.amo d (szBytes z)) h (s.x b) s
/-- AMO.XOR (R85). -/
def execAmoXor (d : BitVec 5) (h : BitVec 4) (b : BitVec 5) (z : Sz) (o : Order) (s : State) : Out :=
  atomic (szBytes z) o false (.amo .xor (s.amoArg d z)) (.amo d (szBytes z)) h (s.x b) s
/-- AMO.MIN (R85). -/
def execAmoMin (d : BitVec 5) (h : BitVec 4) (b : BitVec 5) (z : Sz) (o : Order) (s : State) : Out :=
  atomic (szBytes z) o false (.amo .min (s.amoArg d z)) (.amo d (szBytes z)) h (s.x b) s
/-- AMO.MAX (R85). -/
def execAmoMax (d : BitVec 5) (h : BitVec 4) (b : BitVec 5) (z : Sz) (o : Order) (s : State) : Out :=
  atomic (szBytes z) o false (.amo .max (s.amoArg d z)) (.amo d (szBytes z)) h (s.x b) s
/-- AMO.MINU (R85). -/
def execAmoMinu (d : BitVec 5) (h : BitVec 4) (b : BitVec 5) (z : Sz) (o : Order) (s : State) : Out :=
  atomic (szBytes z) o false (.amo .minu (s.amoArg d z)) (.amo d (szBytes z)) h (s.x b) s
/-- AMO.MAXU (R85). -/
def execAmoMaxu (d : BitVec 5) (h : BitVec 4) (b : BitVec 5) (z : Sz) (o : Order) (s : State) : Out :=
  atomic (szBytes z) o false (.amo .maxu (s.amoArg d z)) (.amo d (szBytes z)) h (s.x b) s
/-- AMO.SWAP (R85). -/
def execAmoSwap (d : BitVec 5) (h : BitVec 4) (b : BitVec 5) (z : Sz) (o : Order) (s : State) : Out :=
  atomic (szBytes z) o false (.amo .swap (s.amoArg d z)) (.amo d (szBytes z)) h (s.x b) s
/-- CAS (R85): d names the even register of the pair, its number halved. -/
def execCas (d : BitVec 4) (h : BitVec 4) (b : BitVec 5) (z : Sz) (o : Order) (s : State) : Out :=
  let lo := BitVec.ofNat 5 (2 * d.toNat)
  atomic (szBytes z) o true (.cas (s.amoArg lo z) (s.amoArg (lo + 1) z)) (.cas d (szBytes z)) h (s.x b) s
/-- LDA (R83, R85): a load performed at its home, after the slot's own entries of the granule have drained (R115). -/
def execLda (d : BitVec 5) (h : BitVec 4) (b : BitVec 5) (z : Sz) (s : State) : Out :=
  let n := szBytes z
  let off := s.x b
  match s.find h off n needRD (.load true) false with
  | .trap t => raise t s
  | .wait w s => park w s
  | .at_ c home s =>
    let own := s.ownGranule c off.toNat
    let posted := s.ownPosted home n
    if !own.isEmpty then park (.sbEntries own) s
    else if !posted.isEmpty then park (.posted posted) s
    else match home with
      | .mem a =>
        let latency := s.homeLatency home
        let (s, v) := s.readHome c h a n
        .next (s.loaded 4 (.x d n (n == 4)) v latency)
      | .peer _ o => .next (s.request c h 1 o (n - 1) [] (.x d n (n == 4)) 4)

end Sys2Proof.Machine
end

