-- ==== Sys2Proof/Machine/Rings.lean ====
section
/-!
DEFINITION. Packets (R5) and user queues (R216 to R219): the queue table, tickets, ring entries and what leaves them.
-/
namespace Sys2Proof.Machine

open Sys2Proof

/-! ## Packets (R5) -/

/-- The words of a 64-byte packet. -/
def packetWords (bs : List Byte) : List Word := (List.range 8).map fun i => BitVec.ofNat 64 (leValue ((bs.drop (8 * i)).take 8))
def pw (p : List Word) (i : Nat) : Word := p.getD i 0
/-- Bits [hi:lo] of word i of a packet. -/
def pf (p : List Word) (i hi lo : Nat) : Nat := (pw p i).toNat / 2 ^ lo % 2 ^ (hi + 1 - lo)
def pkKind (p : List Word) : Nat := pf p 0 3 0
def pkAsid (p : List Word) : Asid := BitVec.ofNat 14 (pf p 0 45 32)
def pkPrio (p : List Word) : Nat := pf p 0 21 16

/-- Flag bits [15:4] that a kind leaves unassigned (R5, R8, R204, R260, R266). -/
def flagsOk (p : List Word) : Bool :=
  match pf p 0 3 0 with
  | 0 => pf p 0 15 6 == 0
  | 1 => pf p 0 15 7 == 0
  | 2 => pf p 0 15 7 == 0
  | 3 => pf p 0 15 5 == 0
  | _ => false
/-- The rules of R5 on word 0. -/
def State.r5 (s : State) (p : List Word) : Bool :=
  pf p 0 63 48 == 0 && s.asidLive (pkAsid p) && pkPrio p ≤ 47 && flagsOk p
/-- A rejected packet is counted and logged in class 6 (R5, R329). -/
def State.reject (s : State) (die src : Nat) (p : List Word) (cause : Nat) : State :=
  s.log die 6 0 src (pw p 0) (BitVec.ofNat 64 cause)

/-! ## The queue table (R216) -/

def State.queueWords (s : State) (q : Nat) : Vector Word 4 := ((findBy (·.1) q s.queues).map (·.2)).getD (Vector.replicate 4 0)
def State.putQueue (s : State) (q : Nat) (w : Vector Word 4) : State := { s with queues := putBy (·.1) (q, w) s.queues }
def qConsumer (w : Vector Word 4) : Nat := w[0].toNat / 2 ^ 60 % 8
def qExp (w : Vector Word 4) : Nat := w[0].toNat / 2 ^ 46 % 16
def qAsid (w : Vector Word 4) : Asid := BitVec.ofNat 14 (w[0].toNat / 2 ^ 32)
def qValid (w : Vector Word 4) : Bool := w[0].toNat / 2 ^ 63 == 1 && qConsumer w ≤ 2 && 2 ≤ qExp w && qExp w ≤ 14
def qW (w : Vector Word 4) : Nat := w[2].toNat
def qRI (w : Vector Word 4) : Nat := w[3].toNat
/-- The die that serves a queue (R278). -/
def dieOfQueue (q : Nat) : Nat := q / 2048

/-! ## Ring entries (R217) -/

/-- The record that a queue's ring lies in. -/
def State.ringRec (s : State) (q : Nat) : Option CapRec := s.rec? ((s.queueWords q)[1].toNat % 2 ^ 23)
/-- The offset of a ticket's entry in its ring. -/
def State.ringOff (s : State) (q ticket : Nat) : Nat := ticket % 2 ^ qExp (s.queueWords q) * 64
/-- The physical address of the entry of a ticket, when the ring's record and its translation stand. -/
def State.ringAddr (s : State) (q ticket : Nat) : Option Nat :=
  match s.ringRec q with
  | none => none
  | some c => (match s.physOf c (s.ringOff q ticket) true with | .ok a => some a | .error _ => none)
def State.ringEntry (s : State) (q ticket : Nat) : List Word :=
  match s.ringAddr q ticket with | some a => packetWords (s.readPhys a 64) | none => []
/-- An entry is empty when the kind field of its word 0 is 15. -/
def State.ringEmpty (s : State) (q ticket : Nat) : Bool :=
  match s.ringAddr q ticket with | some a => leValue (s.readPhys a 8) % 16 == 15 | none => false
/-- Whether an entry cannot be read: an uncorrectable error stands in it, or its ring is poisoned (R40; log 92). -/
def State.ringBad (s : State) (q ticket : Nat) : Bool :=
  (match s.ringRec q with | some c => c.poisoned | none => false) || (match s.ringAddr q ticket with | some a => s.hasUE a 64 | none => false)
/-- What a consumer's reading of an entry finds in storage (R40, R321): correctable errors are corrected, an uncorrectable one poisons the ring and is logged. -/
def State.touchRing (s : State) (q ticket : Nat) : State :=
  match s.ringRec q with
  | some c => if c.poisoned then s else s.touch (dieOfQueue q) c (s.ringOff q ticket) 64
  | none => s
/-- Room for a claimed ticket: w < RI + 2^s and its entry is empty. -/
def State.ringRoom (s : State) (q ticket : Nat) : Bool :=
  let w := s.queueWords q
  decide (ticket < qRI w + 2 ^ qExp w) && s.ringEmpty q ticket
/-- A ticket claimed by one atomic add of 1 to W. -/
def State.claim (s : State) (q : Nat) : Nat × State :=
  let w := s.queueWords q
  (qW w, s.putQueue q (w.set 2 (w[2] + 1)))
/-- Bytes of an entry written, with the packer's part where the ring is packable (R324). -/
def State.ringWrite (s : State) (q ticket : Nat) (bs : List Byte) : State :=
  match s.ringRec q, s.ringAddr q ticket with
  | some c, some a => s.writeVia c.packable a bs
  | _, _ => s
/-- An entry filled, its word 0 last (R217); the consumer of a device queue looks at it. -/
def State.fillEntry (s : State) (q ticket : Nat) (p : List Word) : State :=
  if (s.ringAddr q ticket).isNone then s
  else
    let s := s.ringWrite q ticket (wordBytes p)
    if qConsumer (s.queueWords q) = 0 then s else s.schedule (s.clk + 1) (.queueConsume q)
/-- Word 0 of an entry written: all ones for a consumed entry, or a completion record (R205, R217, R265). -/
def State.entryWord0 (s : State) (q ticket : Nat) (w : Word) : State := s.ringWrite q ticket (bytesOf 8 w.toNat)

/-- Threads that wait for room in a ring: the QAPP operations of every tile, and the capability messages of CSEND (R218, R219). -/
def State.wakeProducers (s : State) (q : Nat) : State :=
  let ops := (s.allTiles.map fun t => t.xfers.filterMap fun o => match o.kind with | .append q' _ _ => if q' = q then some (t.idx, o.id) else none | _ => none).flatten
  let s := ops.foldl (fun (st : State) x => st.schedule (st.clk + 1) (.qappEntryWrite x.1 x.2)) s
  (s.transits.filter fun t => match t.ring with | some (q', _) => q' == q | none => false).foldl
    (fun (st : State) t => st.schedule (st.clk + 1) (.csendDelivery t.id)) s
/-- The entry at RI is consumed: RI steps, and the consumer and waiting producers look again. -/
def State.stepRI (s : State) (q : Nat) : State :=
  let w := s.queueWords q
  let s := s.putQueue q (w.set 3 (w[3] + 1))
  let s := s.wakeProducers q
  if qConsumer w = 0 then s else s.schedule (s.clk + 1) (.queueConsume q)

end Sys2Proof.Machine
end

