-- ==== Sys2Proof/Machine/Waiting.lean ====
section
/-!
DEFINITION. Waits that leave the slot (R13, R14) and the donation of priority through waits (R271).
-/
namespace Sys2Proof.Machine

open Sys2Proof

/-! ## Records that stand in deques and in the wheel -/

/-- Every queued, waiting or timed record with the tile it belongs to. -/
def State.allRecords (s : State) : List (Nat × TaskRec) :=
  (s.allTiles.map fun t => (t.deque.map fun q => (t.idx, q.item)) ++ (t.spill.map fun q => (t.idx, q.item)) ++ t.waiting.map fun w => (t.idx, w.item)).flatten
  ++ (s.dies.map fun d => (d.wheel.map fun w => (w.item.home, w.item)) ++ d.wheelWait.map fun r => (r.home, r)).flatten
/-- Whether a record counts in its parent's join counter (R8). -/
def TaskRec.detached (r : TaskRec) : Bool := r.flags.getLsbD 1
/-- Where a task stands, and its effective priority. -/
def State.placeOf (s : State) (tid : Tid) : Option (Nat × Nat) :=
  (s.taskAt? tid).map fun t => (t.tile, t.prio)

/-- A record changed wherever it stands. -/
def Tile.modRecord (t : Tile) (tid : Tid) (f : TaskRec → TaskRec) : Tile :=
  let g (q : Queued) : Queued := if q.item.tid = tid then { q with item := f q.item } else q
  { t with deque := t.deque.map g, spill := t.spill.map g
           waiting := t.waiting.map fun w => if w.item.tid = tid then { w with item := f w.item } else w }
def Die.modRecord (d : Die) (tid : Tid) (f : TaskRec → TaskRec) : Die :=
  { d with wheel := d.wheel.map fun w => if w.item.tid = tid then { w with item := f w.item } else w
           wheelWait := d.wheelWait.map fun r => if r.tid = tid then f r else r }
def State.modRecord (s : State) (tid : Tid) (f : TaskRec → TaskRec) : State :=
  { s with tile := s.tile.modRecord tid f, tiles := s.tiles.map fun t => t.modRecord tid f, dies := s.dies.map fun d => d.modRecord tid f }

/-! ## Donees (R271) -/

/-- The line that a context of a tile task has joined: that of its generation, its exponents and its subgroup, which a later line of the same number does not replace (R285, R383). -/
def Task.lineOf (t : Task) (l : Launch) (ctx : Nat) : Option ScanLine :=
  let c := t.scan.toArray.getD ctx ScanCtx.blank
  l.lines.find? fun ln => ln.ctx == ctx && ln.gen == c.begun && ln.a == c.a && ln.b == c.b && ln.members.any fun m => m.tid == t.tid && m.joined

/-- Members of a line before a position that have not deposited an epoch. -/
def ScanLine.owing (ln : ScanLine) (pos epoch : Nat) : List Tid :=
  (ln.members.filter fun m => decide (m.pos < pos) && !ln.deposited m epoch).map (·.tid)

/-- The tasks to which a waiting stream donates, by what it waits for. -/
def State.doneesOf (s : State) (t : Task) (w : Wait) : List Tid :=
  match w with
  | .joinZero =>
    (s.allTasks.filter fun k => k.parent == t.tid && !k.detached).map (·.tid)
  | .cap img .joined => (s.quire.filter fun c => c.kind == .frac && c.root == img).map (·.owner)
  | .cap img _ => (match s.rec? img with | some c => (match s.rec? c.root with | some r => [r.filler] | none => []) | none => [])
  | .inbox | .tileInbox => t.targets
  | .barrier =>
    (match t.openArrival, s.launchAt? t.launch, t.coord with
    | some a, some l, some rc =>
      let g := subgroupOf a.a a.b (l.rel rc)
      (match l.barriers.find? fun b => b.group == g && b.gen == a.gen with
      | some b => ((l.liveMembers g).filter fun m => !b.arrived.any fun x => x.1 == m.2.2).map (·.2.2)
      | none => [])
    | _, _, _ => [])
  | .scan ctx 0 _ =>
    (match s.launchAt? t.launch with
    | some l =>
      let c := t.scan.toArray.getD ctx ScanCtx.blank
      (match t.lineOf l ctx with
      | some ln => ln.owing c.position c.eg.toNat
      | none => [])
    | none => [])
  | _ => []

/-- Donations start on their way to every donee whose effective priority is lower. -/
def State.donateTo (s : State) (donor : Tid) (tile prio hop : Nat) (donees : List Tid) : State :=
  donees.foldl (fun (st : State) d =>
    match st.placeOf d with
    | some (t, p) => if p < prio ∧ d ≠ donor then st.schedule (st.clk + s.mesh tile t) (.donationArrival donor d prio hop) else st
    | none => st) s
/-- Hops from the first waiter of the priority a task now waits with. -/
def Task.hop (t : Task) : Nat :=
  if t.prio = t.prioBase then 1 else 1 + ((t.donations.filter fun d => d.prio == t.prio).map (·.hops)).foldl min 8
def State.donate (s : State) (w : Wait) : State :=
  if 8 < s.task.hop then s else s.donateTo s.task.tid s.task.tile s.task.prio s.task.hop (s.doneesOf s.task w)

/-- What a task waits for that donates, over all its streams. -/
def State.donees (s : State) (t : Task) : List Tid := ((s.hartsOf t.tid).filterMap fun h => h.wait.map fun w => s.doneesOf t w).flatten
/-- The end of a wait: its donations end one mesh latency later, but for those that another stream's wait still makes (R271). -/
def State.stopDonating (s : State) (donor : Tid) (tile : Nat) : State :=
  let still := match s.taskAt? donor with | some t => s.donees t | none => []
  let held := ((s.allTasks.filter fun t => t.donations.any fun d => d.donor == donor).map (·.tid))
    ++ s.agenda.filterMap fun e => match e.2 with | .donationArrival d donee p _ => if d = donor ∧ p ≠ 0 then some donee else none | _ => none
  (held.filter fun d => !still.contains d).foldl (fun (st : State) d =>
    match st.placeOf d with
    | some (t, _) => st.schedule (st.clk + s.mesh tile t) (.donationArrival donor d 0 0)
    | none => st) s

/-! ## Leaving the slot -/

/-- A wait of JOINW, CRECV or CWAIT: stream 0 alone saves its context and the task is WAITING; else, or when no frame finds room, the stream parks in its slot (R13, R14, R119). -/
def leaveOrPark (w : Wait) (s : State) : Out :=
  let s' := s.donate w
  if s.alone then
    match s.saveWait with
    | some v => park v s
    | none =>
      match s.framePlace s.tile.idx with
      | some a => .next ((s'.setHart { s'.hart with wait := some w, met := none, inRep := false }).saveContext a .waiting)
      | none => park w s'
  else park w s'

end Sys2Proof.Machine
end

