-- ==== Sys2Proof/Machine/Caps.lean ====
section
/-!
DEFINITION. Capability instructions (R41 to R53) and the CAPXFER packets of a CSEND to a peer (R365, R370, R371).
-/
namespace Sys2Proof.Machine

open Sys2Proof

/-! ## CALLOC and CFREE (R43 to R45, R384) -/

/-- The largest length of a level (R44). -/
def levelMax : ALevel → Nat | .tile => 240 * 1024 | .clus => 4 * 2 ^ 20 | .hbm => 2 ^ 40
def levelOf : ALevel → CapLevel | .tile => .tile | .clus => .cluster | .hbm => .hbm
def kindOfCode : Nat → CapKind | 0 => .excl | 1 => .frac | 2 => .commons | _ => .phase

/-- Whether a level admits a kind (R44, R224, R230). -/
def kindFits (k : CapKind) (l : ALevel) : Bool :=
  match k, l with | .excl, _ => true | .frac, _ => false | .commons, .hbm => false | .commons, _ => true | .phase, .tile => true | .phase, _ => false

/-- Errors in a page that no buffer holds are logged; the page is written with zeros before it is allocated (R321). -/
def State.freePageErrors (s : State) (a size : Nat) : State :=
  let inside (u : Nat) : Bool := decide (a ≤ u ∧ u < a + size)
  let note (cls : Nat) (st : State) (u : Nat) : State := let (die, sub, src, detail) := memSite u; st.log die cls sub src (BitVec.ofNat 64 detail) 0
  (s.ue.filter inside).foldl (note 4) ((s.ce.filter inside).foldl (note 3) s)
/-- Storage for a new buffer: its base, and the state with the mapping that HBM pages need (log 12). -/
def State.takeStorage (s : State) (l : ALevel) (k : CapKind) (len : Nat) : Option (Nat × State) :=
  let size := storageSize (levelOf l) k len
  match l with
  | .tile => (s.allocTile s.tile.idx size).map fun a => (a, s.scrub a size)
  | .clus => (s.allocCluster (clusterOf s.tile.idx) size).map fun a => (a, s.scrub a size)
  | .hbm =>
    match s.allocHbm (dieOf s.tile.idx) size, s.allocVirtual s.task.asid size with
    | some a, some va =>
      let s := (s.freePageErrors a size).scrub a size
      some (va, { s with pages := s.pages ++ [⟨s.task.asid, va, size, 0, 0, a - hbmBase, true, true⟩] })
    | _, _ => none

/-- A buffer that a task of a replayable launch creates is remembered for its replay (R350). -/
def State.noteCreated (s : State) (img : Image) : State :=
  if s.replayable s.task.launch then s.modLaunch s.task.launch fun l => { l with created := l.created ++ [img] } else s

/-- CALLOC (R44): the first failure in the rule's order decides. -/
def execCalloc (d : BitVec 4) (a b : BitVec 5) (l : ALevel) (s : State) : Out :=
  let desc := s.x b
  let n := (s.x a).toNat
  let k := kindOfCode (wordBits 25 24 desc)
  if s.handle d ≠ 0 then raise (trapCapv subKIND d) s
  else if wordBits 63 26 desc ≠ 0 then raise trapIll s
  else if !kindFits k l then raise (trapCapv subKIND) s
  else if n = 0 ∨ levelMax l < n ∨ (k = .phase ∧ n % 256 ≠ 0) then raise (trapCapv subLEN) s
  else match s.freeRecord (dieOf s.tile.idx), s.takeStorage l k n with
    | some img, some (base, s') =>
      let c := { CapRec.fresh img base (levelOf l) k n s.task.asid s.task.tid with
        format := BitVec.ofNat 5 (wordBits 4 0 desc), shape := BitVec.ofNat 16 (wordBits 20 5 desc)
        packable := wordBits 21 21 desc == 1, replayable := wordBits 22 22 desc == 1, far := wordBits 23 23 desc == 1 }
      finish 4 (((s'.putRec c).noteCreated img).setHandle d (BitVec.ofNat 64 c.image))
    | _, _ => finish 4 (s.setHandle d 0)

/-- CFREE (R45). -/
def execCfree (a : BitVec 4) (s : State) : Out :=
  match s.checkHandle a needNone with
  | .error t => raise t s
  | .ok c =>
    if c.owner = launchOwner then raise (trapCapv subKIND a) s
    else match s.admits c .free with
      | .no sub => raise (trapCapv sub a) s
      | .wait => park (.admits c.img 2) s
      | .ok =>
        let s := s.setHandle a 0
        finish 4 (match c.kind with
          | .commons => s.dropHolder c
          | _ => if c.level = .peer then s.dropRec c.img else s.freeRoot c)

/-! ## CGET, CNARROW, CSPLIT, CJOIN (R46 to R48) -/

/-- The field a selector of CGET reads (R46). -/
def State.capField (s : State) (c : CapRec) (handle : Word) (sel : Nat) : Word :=
  match sel with
  | 0 => BitVec.ofNat 64 c.len
  | 1 => BitVec.ofNat 64 ((s.capState c).code + c.kind.code * 4 + c.level.code * 16
      + (if c.poisoned then 256 else 0) + (if c.revoked then 512 else 0) + (if c.frozen then 1024 else 0))
  | 2 => BitVec.ofNat 64 (s.capVersion c).toNat
  | 3 => BitVec.ofNat 64 (s.capCount c)
  | 4 => BitVec.ofNat 64 (c.format.toNat + c.shape.toNat * 32)
  | 5 => BitVec.ofNat 64 c.owner.toNat
  | 6 => BitVec.ofNat 64 c.rights.toNat
  | _ => handle

/-- CGET (R46): an empty handle gives 0. -/
def execCget (d : BitVec 5) (a : BitVec 4) (sel : BitVec 3) (s : State) : Out :=
  let w := s.handle a
  let v := if w = 0 then 0 else match s.rec? (imgOf w) with | some c => s.capField c w sel.toNat | none => 0
  finish 4 (s.setX d v)

/-- CNARROW (R47). -/
def execCnarrow (d a m : BitVec 4) (s : State) : Out :=
  if s.handle d ≠ 0 ∧ d ≠ a then raise (trapCapv subKIND d) s
  else match s.checkHandle a needNone with
    | .error t => raise t s
    | .ok c =>
      let r := c.rights.and (Rights.ofNat m.toNat)
      if c.owner = launchOwner then raise (trapCapv subKIND a) s
      else if c.rights.root ∧ !r.root ∧ c.kind = .excl ∧ c.count ≠ 0 then raise (trapCapv subFRAC a) s
      else
        let c := { c with rights := r }
        finish 4 (((s.putRec c).setHandle a 0).setHandle d (BitVec.ofNat 64 c.image))

/-- The FRAC record that CSPLIT creates from a record (R48). -/
def CapRec.share (c : CapRec) (img : Image) (n : Nat) (tid : Tid) : CapRec :=
  { c with img := img, kind := .frac, count := n, owner := tid, rights := ⟨false, true, false, true⟩
           root := if c.proxy.isSome then img else c.root, written := false, frozen := false, revoked := false
           state := .full, readers := 0, writers := 0, grants := [], launch := none, alsoHeld := [], fromLaunch := none, outer := [], phase := none }

/-- CSPLIT (R48). -/
def execCsplit (d a : BitVec 4) (b : BitVec 5) (s : State) : Out :=
  let n := (s.x b).toNat
  if s.handle d ≠ 0 ∧ d ≠ a then raise (trapCapv subKIND d) s
  else match s.checkHandle a needXFER with
    | .error t => raise t s
    | .ok c =>
      match s.admits c .split with
      | .no sub => raise (trapCapv sub a) s
      | .wait => park (.admits c.img 2) s
      | .ok =>
        let fits := if c.kind = .frac then decide (1 ≤ n ∧ n < c.count) else decide (1 ≤ n ∧ c.count + n ≤ 64)
        if c.kind ≠ .frac ∧ !(c.kind = .excl ∧ c.isRoot) then raise (trapCapv subKIND a) s
        else if !fits then raise (trapCapv subCNT a) s
        else match s.freeRecord (c.root / 2 ^ 20) with
          | none => park (.quireRoom (c.root / 2 ^ 20)) s
          | some img =>
            let c' := { c with count := if c.kind = .frac then c.count - n else c.count + n }
            let f := c.share img n s.task.tid
            finish 4 ((((s.putRec c').putRec f).clearWritten c.root).setHandle d (BitVec.ofNat 64 f.image))

/-- The root two records must share to be joined: the peer's for a proxy. -/
def CapRec.rootKey (c : CapRec) : Nat × Nat := match c.proxy with | some p => (p.dev + 1, p.image) | none => (0, c.root)

/-- CJOIN (R48). -/
def execCjoin (a b : BitVec 4) (s : State) : Out :=
  match s.checkHandle a needNone with
  | .error t => raise t s
  | .ok ca =>
    match s.checkHandle b needNone with
    | .error t => raise t s
    | .ok cb =>
      if a = b then raise (trapCapv subROOT a) s
      else if cb.kind ≠ .frac then raise (trapCapv subKIND b) s
      else if ca.rootKey ≠ cb.rootKey then raise (trapCapv subROOT b) s
      else
        let ca := { ca with count := if ca.isRoot then ca.count - cb.count else ca.count + cb.count }
        finish 4 (((s.putRec ca).dropRec cb.img).setHandle b 0)

/-! ## CSEND (R33 to R36, R49, R218, R365, R370) -/

/-- A destination word (R49). -/
structure Dest where
  type : Nat
  dev : Nat
  target : Nat
deriving DecidableEq, Repr

/-- A destination word read, or none where it breaks R49. -/
def Dest.of (w : Word) : Option Dest :=
  let d : Dest := ⟨wordBits 1 0 w, wordBits 15 8 w, wordBits 63 32 w⟩
  if d.type = 3 ∨ wordBits 7 2 w ≠ 0 ∨ wordBits 31 16 w ≠ 0 ∨ d.dev = 255 then none
  else if d.type = 1 ∧ 40959 < d.target then none
  else if d.type = 2 ∧ 16383 < d.target then none
  else some d

/-- Owner device and root image of a record (R365). -/
def State.ownerOf (s : State) (c : CapRec) : Nat × Nat := match c.proxy with | some p => (p.dev, p.image) | none => (s.ownDevice, c.root)

/-- What a peer may be sent (R365). -/
def crossesDevices (k : CapKind) (policy : Nat) : Bool :=
  match k with | .frac => policy == 0 | .commons => policy == 0 || policy == 3 | .excl => policy == 1 || policy == 2 | .phase => false

/-- The offer of a capability to a peer enters the link queue (R34, R36): the record drains until the acknowledgement; DUP leaves the handle and counts a holder at once. -/
def State.offer (s : State) (c : CapRec) (policy : Nat) (h : BitVec 4) (dev : Nat) (dest p0 p1 : Word) : State :=
  let (owner, root) := s.ownerOf c
  let v := s.capVersion c
  let p := s.packetTo dev 5 c.asid v root 0 0 (capxferBytes 0 policy c v s.task.tid owner root dest p0 p1)
  let s := (s.sendSequenced dev p s.task.tid s.hart.no h none (some c.img)).1
  let s := s.clearWritten c.root
  if policy = 3 then (if c.proxy.isSome then s else s.modRec c.root fun r => { r with count := r.count + 1 })
  else
    let s := if c.kind = .excl then s.forkRead c.img s.task.tid else s
    (s.modRec c.img fun r => { r with owner := noOwner, state := if r.isRoot ∧ r.kind ≠ .excl then r.state else .draining }).setHandle h 0

/-- Whether a tile holds anything of a tenant (R35): a task, a saved context, a record in its deque or spill, or a record held for it. -/
def State.tenantOn (s : State) (tile : Nat) (asid : Asid) : Bool :=
  s.allTasks.any fun t => t.tile == tile && t.asid == asid && !(t.state == .timed && t.frame.isEmpty)
/-- Whether a tenant stands on a tile (R195): a task in a slot, a saved context, or a record in the deque or its spill region. -/
def State.tenantStands (s : State) (tile : Nat) (asid : Asid) : Bool :=
  (s.allTasks.any fun t => t.tile == tile && t.asid == asid && !((t.state == .timed || t.state == .queued) && t.frame.isEmpty))
    || ((s.tileAt tile).deque ++ (s.tileAt tile).spill).any fun q => q.item.asid == asid
/-- Whether a task is only a record that no slot has taken: its inbox is empty when it first issues (R11), so what is sent to it waits as for a full one (log 34). -/
def Task.unissued (t : Task) : Bool := (t.state == .queued || t.state == .timed) && t.frame.isEmpty

/-- Places taken in an inbox: messages and reservations. -/
def State.taskInboxFull (s : State) (t : Task) : Bool :=
  t.unissued || decide (8 ≤ t.inbox.length + (s.transits.filter fun x => x.toTile.isNone && x.ring.isNone && x.toTid == t.tid).length) || !t.returns.isEmpty
def State.tileInboxFull (s : State) (tile : Nat) : Bool :=
  decide (16 ≤ (s.tileAt tile).inbox.length + (s.transits.filter fun x => x.toTile == some tile && x.ring.isNone).length)

/-- Where a message goes on this device, or that it returns, or that its sender waits. -/
inductive Route where
  | task (tid : Tid) (tile : Nat) | tile (t : Nat) | ring (q : Nat) | bounce | wait (w : Wait)
deriving DecidableEq, Repr

/-- Admission of a destination (R34, R35). -/
def State.route (s : State) (d : Dest) : Route :=
  match d.type with
  | 0 =>
    (match s.taskAt? (BitVec.ofNat 32 d.target) with
    | none => .bounce
    | some t => if s.taskInboxFull t then .wait (.inboxPlace t.tid) else .task t.tid t.tile)
  | 1 =>
    if !s.tenantOn d.target s.task.asid then .bounce
    else if s.tileInboxFull d.target then .wait (.tileInboxPlace d.target) else .tile d.target
  | _ => .ring d.target

/-- A user queue takes capability messages of the sender (R218). -/
def State.queueTakes (s : State) (q : Nat) : Bool :=
  let w := s.queueWords q
  qValid w && qConsumer w ≤ 1 && qAsid w == s.task.asid

/-- The last four tasks a task sent to (R271). -/
def Task.noteTarget (t : Task) (tid : Tid) : Task := { t with targets := (t.targets ++ [tid]).drop ((t.targets.length + 1) - 4) }

/-- Word 0 of a capability message of a task in a ring (R218). -/
def Task.messageHeader (t : Task) : Word := BitVec.ofNat 64 (3 + 2 ^ 4 + t.prioBase * 2 ^ 16 + t.cls.toNat * 2 ^ 22 + t.asid.toNat * 2 ^ 32)
/-- A CSEND on this device completes: the handle reads empty except under DUP, and the message is on its way (R34). -/
def State.sendLocal (s : State) (c : CapRec) (policy : Nat) (h : BitVec 4) (p0 p1 : Word) (r : Route) (dup : Image) : State :=
  let s := s.clearWritten c.root
  let s := if policy = 3 then
      (s.putRec { c with img := dup, owner := noOwner, fromLaunch := none, outer := [], grants := [], readers := 0, writers := 0 }).modRec c.root fun x => { x with count := x.count + 1 }
    else (s.putRec { c with owner := noOwner, written := false }).setHandle h 0
  let img := if policy = 3 then dup else c.img
  let m : Msg := { cap := some img, p0 := p0, p1 := p1, sender := s.task.tid, asid := s.task.asid }
  match r with
  | .bounce => s.bounce m
  | .task tid tile =>
    let s := s.setTask (s.task.noteTarget tid)
    let id := s.nextId
    ({ s with nextId := id + 1, transits := s.transits ++ [(⟨id, m, policy, none, tid, none, none, 0⟩ : Transit)] }).schedule
      (s.clk + s.mesh s.tile.idx tile) (.csendDelivery id)
  | .tile t =>
    let id := s.nextId
    ({ s with nextId := id + 1, transits := s.transits ++ [(⟨id, m, policy, some t, 0, none, none, 0⟩ : Transit)] }).schedule
      (s.clk + s.mesh s.tile.idx t) (.csendDelivery id)
  | .ring q =>
    let (ticket, s) := s.claim q
    let id := s.nextId
    ({ s with nextId := id + 1, transits := s.transits ++ [(⟨id, m, 0, none, 0, some (q, ticket), none, s.task.messageHeader⟩ : Transit)] }).schedule
      (s.clk + 1) (.csendDelivery id)
  | .wait _ => s

/-- Payload words: the pair x0 sends two zero words (R41). -/
def State.pair (s : State) (p : BitVec 5) : Word × Word := if p = 0 then (0, 0) else (s.x p, s.x (p + 1))

/-- CSEND (R33, R34, R49): the checks of R24, the destination word, the policy, admission, the release, and the place at the destination. -/
def csend (policy : Nat) (d : BitVec 5) (a : BitVec 4) (b : BitVec 5) (s : State) : Out :=
  match s.checkHandle a needXFER with
  | .error t => raise t s
  | .ok c =>
    match Dest.of (s.x d) with
    | none => raise (trapCapv subDEST) s
    | some dest =>
      let away := !s.isThisDevice dest.dev
      if away && !s.peerValid dest.dev then raise (trapCapv subDEST) s
      else if !away && dest.type == 2 && !s.queueTakes dest.target then raise (trapCapv subDEST) s
      else if policy = 3 ∧ c.kind ≠ .commons then raise (trapCapv subKIND a) s
      else if away && !crossesDevices c.kind policy then raise (trapCapv subKIND a) s
      else match s.admits c (.send policy) with
        | .no sub => raise (trapCapv sub a) s
        | .wait => park (.admits c.img 2) s
        | .ok =>
          match s.releaseWait with
          | some (w, s) => park w s
          | none =>
            let (p0, p1) := s.pair b
            if away then finish 4 (s.offer c policy a dest.dev (s.x d) p0 p1)
            else match s.route dest with
              | .wait w => park w s
              | r =>
                if policy = 3 then
                  match s.freeRecord (c.root / 2 ^ 20) with
                  | none => park (.quireRoom (c.root / 2 ^ 20)) s
                  | some img => finish 4 (s.sendLocal c policy a p0 p1 r img)
                else finish 4 (s.sendLocal c policy a p0 p1 r 0)

/-- CSEND.keep (R33). -/
def execCsendKeep (d : BitVec 5) (a : BitVec 4) (b : BitVec 5) (s : State) : Out := csend 0 d a b s
/-- CSEND.move (R33). -/
def execCsendMove (d : BitVec 5) (a : BitVec 4) (b : BitVec 5) (s : State) : Out := csend 1 d a b s
/-- CSEND.auto (R33). -/
def execCsendAuto (d : BitVec 5) (a : BitVec 4) (b : BitVec 5) (s : State) : Out := csend 2 d a b s
/-- CSEND.dup (R33). -/
def execCsendDup (d : BitVec 5) (a : BitVec 4) (b : BitVec 5) (s : State) : Out := csend 3 d a b s

/-! ## CRECV (R34, R35, R50) -/

/-- The status word of a CRECV (R50). -/
def Msg.status (m : Msg) : Word := BitVec.ofNat 64 (m.outcome + m.nak * 256 + m.sender.toNat * 2 ^ 32)
def State.writePair (s : State) (p : BitVec 5) (a b : Word) : State := if p = 0 then s else (s.setX p a).setX (p + 1) b

/-- A message taken: the capability to hd with its owner, the payload words, and the status word last. -/
def State.receive (s : State) (d : BitVec 4) (p x : BitVec 5) (m : Msg) : State :=
  let s := match m.cap with
    | none => s
    | some i =>
      match s.rec? i with
      | none => s
      | some c => (s.putRec { c with owner := s.task.tid }).setHandle d (BitVec.ofNat 64 c.image)
  ((s.writePair p m.p0 m.p1).setX x m.status).setTask { s.task with targets := [] }

/-- The oldest element with a property, and the list without it. -/
def takeFirst {α : Type} (f : α → Bool) : List α → Option (α × List α)
  | [] => none
  | a :: as => if f a then some (a, as) else (takeFirst f as).map fun r => (r.1, a :: r.2)

/-- CRECV (R50). -/
def execCrecv (d : BitVec 4) (p x : BitVec 5) (o : RecvOpt) (s : State) : Out :=
  let tiled := o == .tile || o == .tilePoll
  let polls := o == .poll || o == .tilePoll
  if s.handle d ≠ 0 then raise (trapCapv subKIND d) s
  else
    let asid := s.task.asid
    match takeFirst (fun m => !tiled || m.asid == asid) (if tiled then s.tile.inbox else s.task.inbox) with
    | some (m, rest) =>
      let s := if tiled then s.setTile { s.tile with inbox := rest }
        else
          let s := s.setTask { s.task with inbox := rest }
          if s.task.returns.isEmpty then s else s.schedule s.clk (.bounceEnqueue s.task.tid)
      finish 4 (s.receive d p x m)
    | none =>
      if polls then finish 4 (((s.setHandle d 0).writePair p 0 0).setX x 0)
      else leaveOrPark (if tiled then .tileInbox else .inbox) s

/-! ## CWAIT, CREVOKE, CMARK (R51 to R53) -/

/-- Whether a condition of CWAIT holds of a record. -/
def State.waitHolds (s : State) (c : CapRec) (w : WaitCond) : Bool :=
  match w with
  | .full => s.capState c == .full
  | .nodr => s.capState c != .draining
  | .joined => s.capCount c == 0

/-- CWAIT (R51). -/
def execCwait (a : BitVec 4) (w : WaitCond) (s : State) : Out :=
  match s.checkHandle a needNone with
  | .error t => raise t s
  | .ok c =>
    if w = .joined ∧ !c.isRoot then raise (trapCapv subKIND a) s
    else if s.waitHolds c w then finish 4 s
    else leaveOrPark (.cap c.img w) s

/-- Records revoked by one CREVOKE become tombstones (R52). -/
def revokes (root : Image) (m : RevMode) (c : CapRec) : Bool :=
  c.kind == .frac && c.root == root && c.proxy.isNone && !c.revoked && (m == .all || c.frozen)

/-- CREVOKE (R32, R52, R371). -/
def execCrevoke (a : BitVec 4) (m : RevMode) (s : State) : Out :=
  match s.checkHandle a needROOT with
  | .error t => raise t s
  | .ok c =>
    let gone := s.quire.filter (revokes c.img m)
    let away := if c.kind = .excl then c.grants.filter fun g => m == .all || g.frozen else []
    if gone.isEmpty ∧ away.isEmpty then finish 4 s
    else
      let total := (gone.map (·.count)).foldl (· + ·) 0 + (away.map (·.count)).foldl (· + ·) 0
      let s := s.setQuire (s.quire.map fun r => if revokes c.img m r then { r with revoked := true } else r)
      let peers := c.peers
      let s := s.modRec c.img fun r => { r with count := r.count - total, grants := r.grants.filter fun g => !(away.contains g) }
      let s := s.bumpVersion c.img
      let s := s.modRec c.img fun r => { r with revVersion := r.version }
      let s := s.dropCached c.img
      let s := match s.rec? c.img with
        | some r => peers.foldl (fun st d => st.sendRevoke r d ((away.filter fun g => g.dev == d).map (·.image))) s
        | none => s
      finish 4 s

/-- The checks of CMARK on its record (R53). -/
def cmark (a : BitVec 4) (clears : Bool) (f : CapRec → State → Out) (s : State) : Out :=
  match s.checkHandle a needWR clears with
  | .error t => raise t s
  | .ok c => if !(c.kind = .excl ∧ c.isRoot ∧ c.count = 0) then raise (trapCapv subFRAC a) s else f c s

/-- CMARK.fill (R53). -/
def execCmarkFill (a : BitVec 4) (s : State) : Out :=
  cmark a false (fun c s =>
    match c.state with
    | .draining => park (.admits c.img 2) s
    | .full => finish 4 (s.putRec { c with state := .filling, filler := s.task.tid })
    | _ => raise (trapCapv subSTATE a) s) s
/-- CMARK.full (R53): a release; while an engine operation writes the buffer it waits for the join edge, which leaves the buffer FULL. One that has found the buffer FILLING and waited for its release goes on when the edge has come meanwhile. -/
def execCmarkFull (a : BitVec 4) (s : State) : Out :=
  cmark a false (fun c s =>
    let waited := match s.hart.met with | some .sbEmpty | some .remote | some (.marking _) => true | _ => false
    if c.state == .filling || waited then
      match s.releaseWait with
      | some (w, s) => park w s
      | none => if c.state = .filling ∧ c.writers ≠ 0 then park (.marking c.img) s else finish 4 (if c.state = .filling then s.putRec { c with state := .full } else s)
    else raise (trapCapv subSTATE a) s) s
/-- CMARK.clrp (R53): every check of R24 but the poison. -/
def execCmarkClrp (a : BitVec 4) (s : State) : Out :=
  cmark a true (fun c s =>
    match c.state with
    | .full => finish 4 (s.setQuire (s.quire.map fun r => if r.img = c.img ∨ (r.kind = .frac ∧ r.root = c.img) then { r with poisoned := false } else r))
    | _ => raise (trapCapv subSTATE a) s) s

end Sys2Proof.Machine
end

