-- ==== Sys2Proof/Machine/Queues.lean ====
section
/-!
DEFINITION. Queue registers, sibling streams and neighbour channels (R15, R16, R87 to R92, R226 to R229).
-/
namespace Sys2Proof.Machine

open Sys2Proof

/-! ## Queue registers (R89, R90) -/

/-- The live streams of the task in focus other than the one in focus. -/
def State.siblings (s : State) : List Nat := ((s.hartsOf s.task.tid).map (·.no)).filter fun n => n != s.hart.no
/-- Whether a stream that waits on a queue register takes OWNX (R90): rec lists the streams that have used its other side. -/
def ownxOf (self : Nat) (live rec : List Nat) : Bool :=
  let others := rec.filter fun n => n != self
  if rec.isEmpty then live.isEmpty else !others.isEmpty && others.all fun n => !live.contains n
def trapOwnx (h : Option (BitVec 4) := none) : TrapInfo := { cause := .ownx, handle := h }
/-- A stream's number noted in a record of R90. -/
def noteStream (v : Vector (List Nat) 8) (n : BitVec 3) (no : Nat) : Vector (List Nat) 8 :=
  v.set n.toNat (if (v[n.toNat]'n.isLt).contains no then v[n.toNat]'n.isLt else v[n.toNat]'n.isLt ++ [no]) n.isLt
def Task.noteWriter (t : Task) (n : BitVec 3) (no : Nat) : Task := { t with writers := noteStream t.writers n no }
def Task.noteReader (t : Task) (n : BitVec 3) (no : Nat) : Task := { t with readers := noteStream t.readers n no }
/-- The place of a queue register among those of its shape. -/
def queueIx (n : BitVec 3) : Fin 4 := ⟨n.toNat % 4, Nat.mod_lt _ (by omega)⟩
def Task.words (t : Task) (n : BitVec 3) : List Word := t.q[queueIx n]
def Task.rows (t : Task) (n : BitVec 3) : List QRow := t.qv[queueIx n]
def Task.setWords (t : Task) (n : BitVec 3) (l : List Word) : Task := { t with q := t.q.set (queueIx n) l }
def Task.setRows (t : Task) (n : BitVec 3) (l : List QRow) : Task := { t with qv := t.qv.set (queueIx n) l }

/-- The gateway tiles of a port in the order of their block indices (R357). -/
def gatewayTiles (port : Nat) : List Nat :=
  let d := dieOfPort port
  let (r, c) := if port < 4 then (0, 8) else (if d < 4 then 0 else 63, if port % 2 = 0 then 0 else 4)
  (List.range 4).map fun i => tileOfDie d r (c + i)
/-- The port in a place of a die's list (R278). -/
def portOf (die place : Nat) : Nat := if die < 4 then (if place = 0 then die else 4 + 2 * die + (place - 1)) else 4 + 2 * die + place
/-- Whether a valid block queue feeds a task (R375). -/
def State.gatewayTask (s : State) (t : Task) : Bool :=
  s.dies.any fun d => (List.range 3).any fun i =>
    let w := d.bqcfg.toArray.getD i 0
    w.toNat / 2 ^ 63 == 1 && w.toNat % 2 ^ 32 == t.launch % 4096 && t.coord.isSome && (gatewayTiles (portOf d.idx i)).contains t.tile
/-- The block queue counts as a writing stream of q0 and q4, numbered 4, until its valid bit is cleared (R375). -/
def State.blockStream (s : State) (n : Nat) : List Nat := if (n = 0 ∨ n = 4) ∧ s.gatewayTask s.task then [4] else []

/-- The predecessors of the task in the USER lines that bring rows to a queue register count as its writing streams, numbered from 5, and as ended once their leaving marks have arrived (R293, R296). A predecessor's own register counts from its SCNB, and before that the one that the task has named itself. -/
def State.scanStreams (s : State) (n : Nat) : List (Nat × Bool) :=
  match s.launchAt? s.task.launch with
  | none => []
  | some l =>
    (List.range l.lines.length).filterMap fun i =>
      match l.lines[i]? with
      | none => none
      | some ln =>
        match ln.members.find? fun m => m.tid == s.task.tid with
        | none => none
        | some me =>
          match ln.members.find? fun m => m.pos + 1 == me.pos with
          | none => none
          | some p =>
            let queue := if p.joined then some p.queue else if me.joined then some me.queue else none
            if ln.user ∧ me.left.isNone ∧ queue.map (· + 4) = some n then
              some (5 + i, !(match p.left with | some (_, t) => decide (t + ln.delay ≤ s.clk) | none => false))
            else none

/-- Whether a queue operation that finds no entry or no place takes OWNX (R90, R293, R375). -/
def State.queueOwnx (s : State) (rec : List Nat) (w : Wait) : Bool :=
  let extra := match w with | .qEntry n => s.blockStream n | _ => []
  let before := match w with | .qEntry n => s.scanStreams n | _ => []
  let live := s.siblings ++ extra ++ (before.filter (·.2)).map (·.1)
  ownxOf s.hart.no live (rec ++ extra ++ before.map (·.1))
/-- A queue operation that finds no entry or no place takes OWNX, or waits (R90). -/
def queueBlocked (rec : List Nat) (w : Wait) (s : State) : Out := if s.queueOwnx rec w then raise trapOwnx s else park w s

/-- QW of an instruction of k bytes: a release (R89). -/
def queueWrite (k : Nat) (b : BitVec 5) (n : BitVec 3) (s : State) : Out :=
  if 4 ≤ n.toNat then raise trapIll s
  else if 16 ≤ (s.task.words n).length then queueBlocked (s.task.readers[n.toNat]'n.isLt) (.qPlace n.toNat) s
  else match s.releaseWait with
    | some (w, s) => park w s
    | none => finish k (s.setTask ((s.task.setWords n (s.task.words n ++ [s.x b])).noteWriter n s.hart.no))
/-- QR of an instruction of k bytes (R89). -/
def queueRead (k : Nat) (d : BitVec 5) (n : BitVec 3) (s : State) : Out :=
  if 4 ≤ n.toNat then raise trapIll s
  else match s.task.words n with
    | [] => queueBlocked (s.task.writers[n.toNat]'n.isLt) (.qEntry n.toNat) s
    | w :: ws => finish k ((s.setTask ((s.task.setWords n ws).noteReader n s.hart.no)).setX d w)

/-- QW (R89). -/
def execQw (b : BitVec 5) (n : BitVec 3) (s : State) : Out := queueWrite 4 b n s
/-- QR (R89). -/
def execQr (d : BitVec 5) (n : BitVec 3) (s : State) : Out := queueRead 4 d n s
/-- C.QW (R55). -/
def execCQw (b : BitVec 5) (n : BitVec 3) (s : State) : Out := queueWrite 2 b n s
/-- C.QR (R55). -/
def execCQr (d : BitVec 5) (n : BitVec 3) (s : State) : Out := queueRead 2 d n s
/-- VQW (R89), after the interlock of R143. -/
def execVqw (b : BitVec 5) (n : BitVec 3) (s : State) : Out :=
  if n.toNat < 4 then raise trapIll s
  else match s.rowWait [b] with
  | some w => park w s
  | none =>
    if 4 ≤ (s.task.rows n).length then queueBlocked (s.task.readers[n.toNat]'n.isLt) (.qPlace n.toNat) s
    else match s.releaseWait with
      | some (w, s) => park w s
      | none => finish 4 (s.setTask ((s.task.setRows n (s.task.rows n ++ [⟨s.v b, none⟩])).noteWriter n s.hart.no))
/-- VQR (R89), after the interlock of R143. -/
def execVqr (d : BitVec 5) (n : BitVec 3) (s : State) : Out :=
  if n.toNat < 4 then raise trapIll s
  else match s.rowWait [d] with
  | some w => park w s
  | none =>
    match s.task.rows n with
    | [] => queueBlocked (s.task.writers[n.toNat]'n.isLt) (.qEntry n.toNat) s
    | r :: rs => finish 4 (((s.setTask ((s.task.setRows n rs).noteReader n s.hart.no)).tookRow r.from_).setV d r.row)

/-! ## Sibling streams (R15, R91, R92) -/

/-- The new stream of an SFORK (R91); GEO is the task's (log 18). -/
def Hart.fork (h : Hart) (k slot : Nat) (pc arg : Word) (clk : Nat) : Hart :=
  { Hart.blank with
    tid := h.tid, no := k, tile := h.tile, slot := some slot, live := true, pc := pc
    x := (Vector.replicate 32 0 |>.set 10 arg).set 11 (BitVec.ofNat 64 k)
    fs := h.fs, fctl := h.fctl, lfsr := h.lfsr, geo := h.geo, readyAt := clk + 1 }
/-- An earlier stream of the number counts as ended in the records of R90: no live stream has number 3. -/
def Task.retireStream (t : Task) (k : Nat) : Task :=
  let f (l : List Nat) : List Nat := l.map fun n => if n = k then 3 else n
  { t with writers := t.writers.map f, readers := t.readers.map f }

/-- Streams of a tile that an SFORK waits to start, or is about to (R15). -/
def State.forking (s : State) (tile : Nat) : List Hart := s.allHarts.filter fun h => h.tile == tile && h.order.any fun o => o.1 == .fork
/-- Whether the SFORK in focus finds a slot: the free ones go to the forking streams in the order of their issue (R15, R111). -/
def State.forkRoom (s : State) : Bool := decide (s.linedBefore .fork (s.forking s.tile.idx) < (s.freeSlots s.tile.idx).length)
/-- SFORK (R91): a release. -/
def execSfork (d a b : BitVec 5) (s : State) : Out :=
  let t := s.x a
  let live := (s.hartsOf s.task.tid).map (·.no)
  if t.getLsbD 0 then raise { cause := .algn } s
  else match [1, 2].find? fun k => !live.contains k with
    | none => finish 4 (s.setX d 0)
    | some k =>
      let s := s.lineUp .fork
      match s.releaseWait with
      | some (w, s) => park w s
      | none =>
        match (if s.forkRoom then s.freeSlots s.tile.idx else []) with
        | [] => park .slotFree s
        | slot :: _ =>
          let s := (s.setTask (s.task.retireStream k)).putHart (s.hart.fork k slot t (s.x b) s.clk)
          finish 4 (s.setX d (BitVec.ofNat 64 k))

/-- The streams that an SJOIN waits for (R92). -/
def State.joinNos (s : State) (w : Word) : List Nat :=
  let live := s.siblings
  if (w = 1 ∨ w = 2) ∧ w.toNat ≠ s.hart.no then live.filter fun n => n == w.toNat else live
/-- SJOIN (R92). -/
def execSjoin (a : BitVec 5) (s : State) : Out :=
  let nos := s.joinNos (s.x a)
  let ended := match s.hart.met with | some (.streams _) => true | _ => nos.isEmpty
  if ended then finish 4 s else park (.streams nos) s

/-! ## Neighbour channels (R226 to R229) -/

/-- What a tile task finds in a direction: its launch and the neighbour's coordinate, if it has one. -/
def State.towards (s : State) (d : Dir) : Option (Launch × (Nat × Nat)) :=
  match s.launchAt? s.task.launch, s.task.coord with
  | some l, some rc => (l.neighbour (l.rel rc) d).map fun nb => (l, nb)
  | _, _ => none
def Launch.tileOf (l : Launch) (nb : Nat × Nat) : Nat := tileIx (l.row + nb.1) (l.col + nb.2)

/-- The word of a CHW on its way, and the credit taken (R228). -/
def State.sendWord (s : State) (l : Launch) (nb : Nat × Nat) (d : Dir) (w : Word) : State :=
  let s := s.setTask { s.task with credits := s.task.credits.set (dirIx d) (s.task.credits[dirIx d] - 1) }
  let due := s.clk + channelLatency s.tile.idx (l.tileOf nb)
  match l.tidAt nb with
  | none => s
  | some nt =>
    let o := dirOpposite d
    let s := s.modTask nt fun t => { t with arriving := t.arriving.set (dirIx o) (t.arriving[dirIx o] ++ [(due, w)]) }
    s.schedule due (.channelWordArrival nt o)
/-- CHW (R228, R229). -/
def execChw (b : BitVec 5) (d : Dir) (s : State) : Out :=
  if s.task.coord.isNone then raise trapIll s
  else match s.towards d with
    | none => raise (trapCapv subDEST) s
    | some (l, nb) =>
      if s.task.gone[dirIx d] then raise trapOwnx s
      else
        let s := s.lineUp (.chanOut d)
        if !s.isFirst (.chanOut d) then park (.turn (.chanOut d)) s
        else if s.task.credits[dirIx d] = 0 then park (.credit d) s
        else match s.releaseWait with
          | some (w, s) => park w s
          | none => finish 4 (s.sendWord l nb d (s.x b))
/-- The credit of a word that CHR has taken, on its way back to the writer (R228). -/
def State.sendCredit (s : State) (l : Launch) (nb : Nat × Nat) (r : Dir) : State :=
  match l.tidAt nb with
  | none => s
  | some nt => s.schedule (s.clk + channelLatency s.tile.idx (l.tileOf nb)) (.channelCreditReturn nt (dirOpposite r))
/-- CHR (R228, R229). -/
def execChr (d : BitVec 5) (r : Dir) (s : State) : Out :=
  if s.task.coord.isNone then raise trapIll s
  else match s.towards r with
    | none => raise (trapCapv subDEST) s
    | some (l, nb) =>
      let s := s.lineUp (.chanIn r)
      if !s.isFirst (.chanIn r) then park (.turn (.chanIn r)) s
      else match s.task.chan[dirIx r] with
        | [] => if s.task.gone[dirIx r] && (s.task.arriving[dirIx r]).isEmpty then raise trapOwnx s else park (.word r) s
        | w :: ws =>
          let s := s.setTask { s.task with chan := s.task.chan.set (dirIx r) ws }
          finish 4 ((s.sendCredit l nb r).setX d w)

end Sys2Proof.Machine
end

