-- ==== Sys2Proof/Machine/Vector.lean ====
section
/-!
DEFINITION. Vector floating point, integer, logic, shift, compare, select, masks and immediates (R71, R142 to R145, R149 to R154, R166).
-/
namespace Sys2Proof.Machine

open Sys2Proof

/-! ## Lanes (R70, R142) -/

/-- Lane i of a row in lanes of w bits, as a number. -/
def laneOf (w : Nat) (r : Row) (i : Nat) : Nat := r.toNat / 2 ^ (w * i) % 2 ^ w
/-- The number of a list of lanes, lane 0 lowest. -/
def lanesValue (w : Nat) : List Nat → Nat
  | [] => 0
  | c :: cs => c % 2 ^ w + 2 ^ w * lanesValue w cs
/-- A row of lanes of w bits. -/
def packRow (w : Nat) (l : List Nat) : Row := BitVec.ofNat 512 (lanesValue w l)
/-- Lanes from 0 to n - 1 written by a function of the lane. -/
def rowFrom (e : Et) (f : Nat → Nat) : Row := packRow e.width ((List.range e.lanes).map f)
/-- Whether lane i is active under a mask (R144). -/
def activeLane (m : Word) (i : Nat) : Bool := m.getLsbD i
/-- A row with its active lanes written. -/
def rowMasked (e : Et) (m : Word) (old : Row) (f : Nat → Nat) : Row :=
  rowFrom e fun i => if activeLane m i then f i else laneOf e.width old i

/-- Signed value of a lane. -/
def laneInt (w c : Nat) : Int := if c < 2 ^ (w - 1) then (c : Int) else (c : Int) - (2 ^ w : Nat)
/-- Limits of a signed lane. -/
def laneMin (w : Nat) : Int := -(2 ^ (w - 1) : Nat)
def laneMax (w : Nat) : Int := (2 ^ (w - 1) : Nat) - 1

/-- The layout of an element type; the integer types, which no floating-point meaning reaches, take that of FP32. -/
def laneFmt (e : Et) : FpFmt := (etFmt e).getD fp32

/-! ## Operations that round lane by lane (R130, R132, R150) -/

/-- Lanes computed in ascending order: their codes, the flags of the active ones and the generator, which steps once for each active lane in the mode RS. -/
def roundLanes (v : Env) (active : Nat → Bool) (f : Env → Nat → Nat × FFlags) (keep : Nat → Nat) : List Nat → Word → List Nat × FFlags × Word
  | [], l => ([], 0, l)
  | i :: is, l =>
    if active i then
      let l' := if v.mode = .rs then stepWord l else l
      let r := f { v with u := l'.toNat % 65536 } i
      let rest := roundLanes v active f keep is l'
      (r.1 :: rest.1, r.2 ||| rest.2.1, rest.2.2)
    else
      let rest := roundLanes v active f keep is l
      (keep i :: rest.1, rest.2.1, rest.2.2)

/-- A vector instruction's result row written with its flags and the generator. -/
def State.vecWrite (s : State) (d : BitVec 5) (w : Nat) (r : List Nat × FFlags × Word) : State :=
  ((s.setV d (packRow w r.1)).raiseFlags r.2.1).setLfsr r.2.2

/-- An instruction on rows waits for a matrix operation of its slot that targets one of their tiles (R143), and then runs. -/
def withRows (rows : List (BitVec 5)) (f : State → Out) (s : State) : Out :=
  match s.rowWait rows with
  | some w => park w s
  | none => f s

/-- A masked floating-point operation of an element type, rounding each lane in FCTL.mode. -/
def vecFp (d : BitVec 5) (e : Et) (k : BitVec 2) (clks : Nat) (rows : List (BitVec 5)) (f : State → Env → Nat → Nat × FFlags) (s : State) : Out :=
  withRows rows (fun s =>
    let v : Env := { fmt := laneFmt e, mode := fctlMode s.hart.fctl, ftz := s.ftz }
    let m := s.hart.getM k
    let r := roundLanes v (activeLane m) (f s) (laneOf e.width (s.v d)) (List.range e.lanes) s.hart.lfsr
    finish 4 ((s.vecWrite d e.width r).busy clks)) s

/-- A masked operation that does not round: the mode is not read and the generator does not step. -/
def vecFpExact (d : BitVec 5) (e : Et) (k : BitVec 2) (rows : List (BitVec 5)) (f : State → Env → Nat → Nat × FFlags) (s : State) : Out :=
  withRows rows (fun s =>
    let v : Env := { fmt := laneFmt e, mode := .rne, ftz := s.ftz }
    let m := s.hart.getM k
    let r := roundLanes v (activeLane m) (f s) (laneOf e.width (s.v d)) (List.range e.lanes) s.hart.lfsr
    finish 4 (s.vecWrite d e.width r)) s

/-- Lane i of a row as a floating-point operand (R134, R142). -/
def State.laneFp (s : State) (e : Et) (r : BitVec 5) (i : Nat) : Fp := (laneFmt e).read s.ftz (laneOf e.width (s.v r) i)

/-- VADD (R150). -/
def execVadd (d a b : BitVec 5) (e : Et) (k : BitVec 2) (s : State) : Out :=
  vecFp d e k 1 [d, a, b] (fun s v i => fpAdd v (s.laneFp e a i) (s.laneFp e b i)) s
/-- VSUB (R150). -/
def execVsub (d a b : BitVec 5) (e : Et) (k : BitVec 2) (s : State) : Out :=
  vecFp d e k 1 [d, a, b] (fun s v i => fpSub v (s.laneFp e a i) (s.laneFp e b i)) s
/-- VMUL (R150). -/
def execVmul (d a b : BitVec 5) (e : Et) (k : BitVec 2) (s : State) : Out :=
  vecFp d e k 1 [d, a, b] (fun s v i => fpMul v (s.laneFp e a i) (s.laneFp e b i)) s
/-- VFMA (R150). -/
def execVfma (d a b : BitVec 5) (e : Et) (k : BitVec 2) (s : State) : Out :=
  vecFp d e k 1 [d, a, b] (fun s v i => fpFma v false (s.laneFp e a i) (s.laneFp e b i) (s.laneFp e d i)) s
/-- VFNMA (R150). -/
def execVfnma (d a b : BitVec 5) (e : Et) (k : BitVec 2) (s : State) : Out :=
  vecFp d e k 1 [d, a, b] (fun s v i => fpFma v true (s.laneFp e a i) (s.laneFp e b i) (s.laneFp e d i)) s
/-- VMIN (R150). -/
def execVmin (d a b : BitVec 5) (e : Et) (k : BitVec 2) (s : State) : Out :=
  vecFpExact d e k [d, a, b] (fun s v i => fpMinMax v false (s.laneFp e a i) (s.laneFp e b i)) s
/-- VMAX (R150). -/
def execVmax (d a b : BitVec 5) (e : Et) (k : BitVec 2) (s : State) : Out :=
  vecFpExact d e k [d, a, b] (fun s v i => fpMinMax v true (s.laneFp e a i) (s.laneFp e b i)) s

/-- An operation on masked lanes that sets no flag. -/
def vecLanes (d : BitVec 5) (e : Et) (k : BitVec 2) (rows : List (BitVec 5)) (f : State → Nat → Nat) (s : State) : Out :=
  withRows rows (fun s => finish 4 (s.setV d (rowMasked e (s.hart.getM k) (s.v d) (f s)))) s

/-- VABS (R150): the sign bit 0, nothing else changes. -/
def execVabs (d a : BitVec 5) (e : Et) (k : BitVec 2) (s : State) : Out :=
  vecLanes d e k [d, a] (fun s i => laneOf e.width (s.v a) i % 2 ^ (e.width - 1)) s
/-- VNEG (R150): the sign bit inverted, nothing else changes. -/
def execVneg (d a : BitVec 5) (e : Et) (k : BitVec 2) (s : State) : Out :=
  vecLanes d e k [d, a] (fun s i => (laneOf e.width (s.v a) i + 2 ^ (e.width - 1)) % 2 ^ e.width) s

/-! ## Integer, logic and shift (R151, R152) -/

/-- An exact result clamped or wrapped to w bits. -/
def narrowLane (w : Nat) (sat : Bool) (t : Int) : Nat := intNarrow sat w (laneMin w) (laneMax w) t
/-- A masked integer operation on signed lanes A, B and D. -/
def vecInt (d a b : BitVec 5) (e : Et) (k : BitVec 2) (sat : Bool) (f : Int → Int → Int → Int) (s : State) : Out :=
  vecLanes d e k [d, a, b] (fun s i =>
    let w := e.width
    narrowLane w sat (f (laneInt w (laneOf w (s.v a) i)) (laneInt w (laneOf w (s.v b) i)) (laneInt w (laneOf w (s.v d) i)))) s
/-- VIADD (R151). -/
def execViadd (d a b : BitVec 5) (e : Et) (k : BitVec 2) (sat : Bool) (s : State) : Out := vecInt d a b e k sat (fun x y _ => x + y) s
/-- VISUB (R151). -/
def execVisub (d a b : BitVec 5) (e : Et) (k : BitVec 2) (sat : Bool) (s : State) : Out := vecInt d a b e k sat (fun x y _ => x - y) s
/-- VIMUL (R151). -/
def execVimul (d a b : BitVec 5) (e : Et) (k : BitVec 2) (sat : Bool) (s : State) : Out := vecInt d a b e k sat (fun x y _ => x * y) s
/-- VIMAC (R151). -/
def execVimac (d a b : BitVec 5) (e : Et) (k : BitVec 2) (sat : Bool) (s : State) : Out := vecInt d a b e k sat (fun x y z => z + x * y) s

/-- A masked operation on the codes of two lanes. -/
def vecBits (d a b : BitVec 5) (e : Et) (k : BitVec 2) (f : Nat → Nat → Nat → Nat) (s : State) : Out :=
  vecLanes d e k [d, a, b] (fun s i => f e.width (laneOf e.width (s.v a) i) (laneOf e.width (s.v b) i)) s
/-- VAND (R152). -/
def execVand (d a b : BitVec 5) (e : Et) (k : BitVec 2) (s : State) : Out := vecBits d a b e k (fun _ x y => x &&& y) s
/-- VOR (R152). -/
def execVor (d a b : BitVec 5) (e : Et) (k : BitVec 2) (s : State) : Out := vecBits d a b e k (fun _ x y => x ||| y) s
/-- VXOR (R152). -/
def execVxor (d a b : BitVec 5) (e : Et) (k : BitVec 2) (s : State) : Out := vecBits d a b e k (fun _ x y => x ^^^ y) s
/-- VSHL (R152). -/
def execVshl (d a b : BitVec 5) (e : Et) (k : BitVec 2) (s : State) : Out :=
  vecBits d a b e k (fun w x y => if w ≤ y then 0 else x * 2 ^ y % 2 ^ w) s
/-- VSHR (R152). -/
def execVshr (d a b : BitVec 5) (e : Et) (k : BitVec 2) (s : State) : Out :=
  vecBits d a b e k (fun w x y => if w ≤ y then 0 else x / 2 ^ y) s
/-- VSRA (R152). -/
def execVsra (d a b : BitVec 5) (e : Et) (k : BitVec 2) (s : State) : Out :=
  vecBits d a b e k (fun w x y => (laneInt w x / (2 ^ min y w : Nat) % (2 ^ w : Nat)).toNat) s

/-! ## Compare, select and masks (R153, R154) -/

/-- The truth of a condition on floating-point lanes, and NV. -/
def vcmpFloat (c : VCond) (a b : Fp) : Bool × FFlags :=
  match c with
  | .eq => fpCompare .eq a b
  | .ne => fpCompare .ne a b
  | .lt => fpCompare .lt a b
  | .le => fpCompare .le a b
  | .gt => fpCompare .lt b a
  | .ge => fpCompare .le b a
def vcmpInt (c : VCond) (a b : Int) : Bool :=
  match c with
  | .eq => a == b | .ne => a != b | .lt => decide (a < b) | .le => decide (a ≤ b) | .gt => decide (b < a) | .ge => decide (b ≤ a)
/-- One lane of a compare. -/
def State.vcmpLane (s : State) (a b : BitVec 5) (e : Et) (u : Bool) (c : VCond) (i : Nat) : Bool × FFlags :=
  let w := e.width
  if e.isFloat then vcmpFloat c (s.laneFp e a i) (s.laneFp e b i)
  else
    let x := laneOf w (s.v a) i
    let y := laneOf w (s.v b) i
    (if u then vcmpInt c x y else vcmpInt c (laneInt w x) (laneInt w y), 0)
/-- VCMP (R154): .u with a float type raises ILL, and so does a vd field above 3, which names no mask register (R58, R153). -/
def execVcmp (d a b : BitVec 5) (e : Et) (k : BitVec 2) (u : Bool) (c : VCond) (s : State) : Out :=
  if (u && e.isFloat) || decide (4 ≤ d.toNat) then raise trapIll s
  else withRows [a, b] (fun s =>
    let m := s.hart.getM k
    let lanes := (List.range e.lanes).map fun i => if activeLane m i then s.vcmpLane a b e u c i else (false, 0)
    let bits := lanesValue 1 (lanes.map fun r => if r.1 then 1 else 0)
    let flags := lanes.foldl (fun (f : FFlags) r => f ||| r.2) 0
    finish 4 ((s.setM (BitVec.ofNat 2 d.toNat) (BitVec.ofNat 64 bits)).raiseFlags flags)) s
/-- VSEL (R154): every lane is written. -/
def execVsel (d a b : BitVec 5) (e : Et) (k : BitVec 2) (s : State) : Out :=
  withRows [d, a, b] (fun s =>
    let m := s.hart.getM k
    finish 4 (s.setV d (rowFrom e fun i => laneOf e.width (s.v (if activeLane m i then a else b)) i))) s
/-- VMSK.and (R153). -/
def execVmskAnd (d a b : BitVec 2) (s : State) : Out := finish 4 (s.setM d (s.hart.getM a &&& s.hart.getM b))
/-- VMSK.or (R153). -/
def execVmskOr (d a b : BitVec 2) (s : State) : Out := finish 4 (s.setM d (s.hart.getM a ||| s.hart.getM b))
/-- VMSK.xor (R153). -/
def execVmskXor (d a b : BitVec 2) (s : State) : Out := finish 4 (s.setM d (s.hart.getM a ^^^ s.hart.getM b))
/-- VMSK.andn (R153). -/
def execVmskAndn (d a b : BitVec 2) (s : State) : Out := finish 4 (s.setM d (s.hart.getM a &&& ~~~ s.hart.getM b))
/-- VMSK.mov (R153). -/
def execVmskMov (d : BitVec 2) (a : BitVec 5) (s : State) : Out := finish 4 (s.setM d (s.x a))
/-- VMSK.get (R153). -/
def execVmskGet (d : BitVec 5) (a : BitVec 2) (s : State) : Out := finish 4 (s.setX d (s.hart.getM a))

/-! ## Immediates (R71, R166) -/

/-- The value of lane j of a 16-bit immediate (R71): byte lanes take its low byte when even, its high byte when odd. -/
def immLane (e : Et) (i : BitVec 16) (j : Nat) : Nat :=
  match e with
  | .f32 => i.toNat * 65536
  | .bf16 | .f16 | .i16 => i.toNat
  | .e4m3 | .e5m2 | .i8 => if j % 2 = 0 then i.toNat % 256 else i.toNat / 256
  | .i32 => (i.signExtend 32).toNat
/-- VMOVI (R166). -/
def execVmovi (d : BitVec 5) (e : Et) (i : BitVec 16) (s : State) : Out :=
  withRows [d] (fun s => finish 4 (s.setV d (rowFrom e (immLane e i)))) s
/-- VMULI (R166). -/
def execVmuli (d : BitVec 5) (e : Et) (i : BitVec 16) (s : State) : Out :=
  withRows [d] (fun s =>
    let v : Env := { fmt := laneFmt e, mode := fctlMode s.hart.fctl, ftz := s.ftz }
    finish 4 (s.vecWrite d e.width
      (roundLanes v (fun _ => true) (fun v j => fpMul v (s.laneFp e d j) ((laneFmt e).read s.ftz (immLane e i j))) (fun _ => 0) (List.range e.lanes) s.hart.lfsr))) s
/-- VADDI (R166). -/
def execVaddi (d : BitVec 5) (e : Et) (i : BitVec 16) (s : State) : Out :=
  withRows [d] (fun s => finish 4 (s.setV d (rowFrom e fun j => (laneOf e.width (s.v d) j + immLane e i j) % 2 ^ e.width))) s

end Sys2Proof.Machine
end

