-- ==== Sys2Proof/Machine/Convert.lean ====
section
/-!
DEFINITION. Conversion and quantising instructions (R126, R135, R156 to R159).
-/
namespace Sys2Proof.Machine

open Sys2Proof

/-! ## Element values -/

/-- A value of an element: a floating-point value or an integer. -/
inductive Elem where | fp (v : Fp) | int (i : Int)
deriving DecidableEq, Repr

/-- Where a conversion goes: a floating-point layout, or w bits that hold lo..hi. -/
inductive Into where | fp (f : FpFmt) | int (w : Nat) (lo hi : Int)
deriving DecidableEq, Repr

/-- Limits of an integer element code (R125). -/
def elemMin (c : Nat) : Int := if c % 2 = 0 then laneMin (elemBits c) else 0
def elemMax (c : Nat) : Int := if c % 2 = 0 then laneMax (elemBits c) else (2 ^ elemBits c : Nat) - 1
/-- A lane of a vector type as a value. -/
def laneElem (ftz : Bool) (e : Et) (c : Nat) : Elem :=
  match etFmt e with | some f => .fp (f.read ftz c) | none => .int (laneInt e.width c)
def laneInto (e : Et) : Into := match etFmt e with | some f => .fp f | none => .int e.width (laneMin e.width) (laneMax e.width)
/-- An element of a narrow format as a value (R158). -/
def narrowElem (ftz : Bool) (c x : Nat) : Elem := match elemFmt c with | some f => .fp (f.read ftz x) | none => .int (elemInt c x)
def narrowInto (c : Nat) : Into := match elemFmt c with | some f => .fp f | none => .int (elemBits c) (elemMin c) (elemMax c)

/-- Whether a conversion rounds, so that it steps the generator in the mode RS (R130). -/
def cvtRounds (a : Elem) (i : Into) : Bool := match a, i with | .int _, .int _ _ _ => false | _, _ => true
/-- A conversion (R135): its code and flags. -/
def cvt (v : Env) (i : Into) (a : Elem) : Nat × FFlags :=
  match i, a with
  | .fp f, .fp x => fpConvert { v with fmt := f } x
  | .fp f, .int n => fpOfInt { v with fmt := f } n
  | .int w lo hi, .fp x => let r := fpToInt v.mode v.u lo hi x; ((r.1 % (2 ^ w : Nat)).toNat, r.2)
  | .int w lo hi, .int n => (intNarrow v.sat w lo hi n, 0)

/-- Conversions of a list of values in ascending order (R130, R132). -/
def cvtAll (v : Env) (i : Into) : List Elem → Word → List Nat × FFlags × Word
  | [], l => ([], 0, l)
  | a :: as, l =>
    let l' := if v.mode = .rs && cvtRounds a i then stepWord l else l
    let r := cvt { v with u := l'.toNat % 65536 } i a
    let rest := cvtAll v i as l'
    (r.1 :: rest.1, r.2 ||| rest.2.1, rest.2.2)

/-- A row with fields of w bits written from a bit position on. -/
def putFields (r : Row) (w pos : Nat) (cs : List Nat) : Row :=
  let n := w * cs.length
  let m := BitVec.ofNat 512 ((2 ^ n - 1) * 2 ^ pos)
  (r &&& ~~~m) ||| BitVec.ofNat 512 (lanesValue w cs * 2 ^ pos)
/-- n fields of w bits of a row from a field index on. -/
def getFields (r : Row) (w first n : Nat) : List Nat := (List.range n).map fun i => laneOf w r (first + i)

/-- A conversion of values into consecutive fields of the destination row. -/
def State.cvtWrite (s : State) (d : BitVec 5) (i : Into) (sat : Bool) (w first : Nat) (vs : List Elem) : State :=
  let v : Env := { fmt := fp32, mode := fctlMode s.hart.fctl, ftz := s.ftz, sat := sat }
  let r := cvtAll v i vs s.hart.lfsr
  ((s.setV d (putFields (s.v d) w (w * first) r.1)).raiseFlags r.2.1).setLfsr r.2.2

/-- VCVT (R157): e is the destination type and c the source type. -/
def execVcvt (d a : BitVec 5) (c e : Et) (sat : Bool) (p : BitVec 2) (s : State) : Out :=
  if vcvtRatio e c ≤ p.toNat then raise trapIll s
  else withRows [d, a] (fun s =>
    let n := min e.lanes c.lanes
    let src := if e.lanes < c.lanes then p.toNat * n else 0
    let dst := if c.lanes < e.lanes then p.toNat * n else 0
    finish 4 (s.cvtWrite d (laneInto e) sat e.width dst ((getFields (s.v a) c.width src n).map (laneElem s.ftz c)))) s

/-- The narrow format of FS[k] (R158). -/
def State.narrowFmt (s : State) (k : BitVec 2) : Nat := (s.hart.getFS k).toNat % 16
/-- Elements of a narrow format in a row (R158). -/
def rowCapacity (c : Nat) : Nat := if elemBits c = 6 then 64 else 512 / elemBits c
/-- Whether a part of n elements lies in a row of a format that VQNT and VDQN take. -/
def partOk (c : Nat) (p : BitVec 5) (n : Nat) : Bool := !elemIsCb c && decide (p.toNat * n + n ≤ rowCapacity c)
/-- VQNT (R158). -/
def execVqnt (d a p : BitVec 5) (e : Et) (k : BitVec 2) (sat : Bool) (s : State) : Out :=
  let c := s.narrowFmt k
  if !e.isWideFloat || !partOk c p e.lanes then raise trapIll s
  else withRows [d, a] (fun s =>
    finish 4 (s.cvtWrite d (narrowInto c) sat (elemBits c) (p.toNat * e.lanes) ((getFields (s.v a) e.width 0 e.lanes).map (laneElem s.ftz e)))) s
/-- VDQN (R158). -/
def execVdqn (d a p : BitVec 5) (e : Et) (k : BitVec 2) (s : State) : Out :=
  let c := s.narrowFmt k
  if !(e.isWideFloat || e == .i32) || !partOk c p e.lanes then raise trapIll s
  else withRows [d, a] (fun s =>
    finish 4 (s.cvtWrite d (laneInto e) false e.width 0 ((getFields (s.v a) (elemBits c) (p.toNat * e.lanes) e.lanes).map (narrowElem s.ftz c)))) s

/-! ## VBADDQ (R159) -/

/-- The E8M0 scale of a block row, and its elements. -/
def blockScale (r : Row) : Nat := laneOf 8 r 32
/-- An element times its block scale, exactly. -/
def scaledElem (c x scale : Nat) : Fp :=
  let shift (v : Fp) : Fp := match v with | .fin n m e => .fin n m (e + scale - 127) | v => v
  match narrowElem false c x with
  | .fp v => shift v
  | .int i => shift (.fin (decide (i < 0)) i.natAbs 0)
/-- The largest finite value of a format, as mantissa and exponent. -/
def elemLargest (c : Nat) : Nat × Int :=
  match elemFmt c with
  | some f => (match f.decode f.maxCode with | .fin _ m e => (m, e) | _ => (0, 0))
  | none => ((elemMax c).toNat, 0)
/-- m1 × 2^e1 ≤ m2 × 2^e2. -/
def magLe (m1 : Nat) (e1 : Int) (m2 : Nat) (e2 : Int) : Bool :=
  let lo := min e1 e2
  decide (m1 * 2 ^ (e1 - lo).toNat ≤ m2 * 2 ^ (e2 - lo).toNat)
/-- The scale of the result: 127 for a block of zeros, else the least code that holds every element, else 254. -/
def blockCode (c : Nat) (vs : List Fp) : Nat :=
  let (lm, le) := elemLargest c
  let holds (e : Nat) : Bool := vs.all fun v => match v with | .fin _ m x => magLe m x lm (le + e - 127) | _ => false
  if vs.all fun v => match v with | .fin _ m _ => m == 0 | _ => false then 127
  else ((List.range 255).find? holds).getD 254
/-- A scaled sum divided by the block's scale, converted with saturation (R135); an infinite one saturates to ±L, also where a signed integer format goes one further below zero (R159). -/
def blockElem (c e : Nat) (v : Fp) : Nat × FFlags :=
  let r := cvt { fmt := fp32, mode := .rne, ftz := false, sat := true } (narrowInto c)
    (.fp (match v with | .fin n m x => .fin n m (x - e + 127) | v => v))
  match v with
  | .inf true => if elemIsInt c ∧ elemMin c < 0 then ((BitVec.ofInt (elemBits c) (-(elemMax c))).toNat, r.2) else r
  | _ => r
/-- The block row that VBADDQ writes, and its flags. -/
def blockAdd (c : Nat) (ra rb : Row) : Row × FFlags :=
  let sa := blockScale ra
  let sb := blockScale rb
  let w := elemBits c
  let v : Env := { fmt := fp32, mode := .rne, ftz := false }
  let sums := (List.range 32).map fun i => fpAdd v (scaledElem c (laneOf w ra i) sa) (scaledElem c (laneOf w rb i) sb)
  let vals := sums.map fun r => fp32.decode r.1
  if sa = 255 ∨ sb = 255 ∨ vals.any Fp.isNaN then (BitVec.ofNat 512 (255 * 2 ^ 256), flNV)
  else
    let e := blockCode c vals
    let q := vals.map (blockElem c e)
    (BitVec.ofNat 512 (lanesValue w (q.map (·.1)) + e * 2 ^ 256), ((sums ++ q).foldl (fun (f : FFlags) r => f ||| r.2) 0))
/-- VBADDQ (R159). -/
def execVbaddq (d a b : BitVec 5) (k : BitVec 2) (s : State) : Out :=
  let fs := (s.hart.getFS k).toNat
  let c := fs % 16
  if !(decide (3 ≤ c ∧ c ≤ 0xD) && fs / 16 % 2 == 1) then raise trapIll s
  else withRows [d, a, b] (fun s =>
    let r := blockAdd c (s.v a) (s.v b)
    finish 4 ((s.setV d r.1).raiseFlags r.2)) s

end Sys2Proof.Machine
end

