-- ==== Sys2Proof/Machine/Records.lean ====
section
/-!
DEFINITION. Shape records and the record cache (R211 to R215), and what the engines share: places of their queues, sources and errors (R27, R198 to R201).
-/
namespace Sys2Proof.Machine

open Sys2Proof

/-! ## Shape records (R211, R212, R214) -/

/-- Words of a list of bytes. -/
def wordsOf (bs : List Byte) (n : Nat) : List Word := (List.range n).map fun i => BitVec.ofNat 64 (leValue ((bs.drop (8 * i)).take 8))
/-- Reserved words of a shape record are zero (R211). -/
def shapeOk (w : List Word) : Bool :=
  pf w 1 63 15 == 0 && pf w 5 62 40 == 0 && pf w 6 62 40 == 0 && (List.range 7).all fun i => pw w (9 + i) == 0
/-- The cached record of a buffer's root at an offset. -/
def Tile.cached (t : Tile) (asid : Asid) (root off : Nat) : Option (List Word) :=
  (t.cache.find? fun e => e.asid == asid && e.root == root && e.off == off).map (·.words)
/-- A record entered in the tile's cache while it has room (R214). -/
def State.cacheRecord (s : State) (c : CapRec) (off : Nat) (w : List Word) : State :=
  if s.tile.cache.length < 16 then s.setTile { s.tile with cache := s.tile.cache ++ [⟨c.asid, c.root, off, w, []⟩] } else s
/-- A shape record read through the tile's cache: a miss reads the buffer, and enters it while the cache has room. -/
def State.shapeRecord (s : State) (c : CapRec) (off : Nat) : State × Except TrapInfo (List Word) :=
  let ok (w : List Word) : Except TrapInfo (List Word) := if shapeOk w then .ok w else .error (trapCapv subKIND)
  match s.tile.cached c.asid c.root off with
  | some w => (s, ok w)
  | none =>
    let st := s.touch (dieOf s.tile.idx) c off 192
    match s.recBytes c 192 off with
    | .error e => (st, .error e)
    | .ok bs => let w := wordsOf bs 24; (st.cacheRecord c off w, ok w)
/-- A codebook table of n codes read under the caching rule of its record (R127, R214): while an entry holds the record, the copy read first under it is used (log 90). -/
def State.tableOf (s : State) (c : CapRec) (off o n : Nat) : State × Except TrapInfo (List (BitVec 16)) :=
  let mine (e : CachedRecord) : Bool := e.asid == c.asid && e.root == c.root && e.off == off
  match (s.tile.cache.find? mine).bind fun e => e.tables.find? fun t => t.1 == o && t.2.length == n with
  | some t => (s, .ok t.2)
  | none =>
    let st := s.touch (dieOf s.tile.idx) c o (2 * n)
    match s.recBytes c (2 * n) o with
    | .error e => (st, .error e)
    | .ok bs =>
      let t := (List.range n).map fun i => BitVec.ofNat 16 (leValue ((bs.drop (2 * i)).take 2))
      (st.setTile { st.tile with cache := st.tile.cache.map fun e => if mine e then { e with tables := e.tables ++ [(o, t)] } else e }, .ok t)

/-! ## Engines -/

/-- The record an engine reads through: the root of a fraction on this device. -/
def CapRec.engineImg (c : CapRec) : Image := if c.kind = .frac ∧ c.proxy.isNone then c.root else c.img
/-- Latency of R121 for the level of a buffer, from a tile. -/
def State.levelLatency (s : State) (tile : Nat) (c : CapRec) : Nat :=
  match c.level with
  | .tile | .cluster => s.latencyTo tile (.mem c.base)
  | .hbm => Config.latL4
  | .host | .peer => Config.latL5

/-- The next place in a core's issue order (R175). -/
def State.nextSeq (s : State) : Nat × State := (s.tile.opSeq, s.setTile { s.tile with opSeq := s.tile.opSeq + 1 })
/-- Operations that a transfer engine has accepted (R199). -/
def Tile.accepted (t : Tile) : Nat := t.xfers.length + (t.fills.filter (·.transfer)).length

/-- An imprecise error of an operation's stream: MERR poisons the buffer in which it was found and is logged (R40, R102, R329). -/
def State.engineMerr (s : State) (root : Image) (a : Nat) (tid : Tid) (no : Nat) (h : Option (BitVec 4)) : State :=
  (s.bufferError root a).pend tid no { cause := .merr, handle := h }

/-- The class-3 event of an operation with its notify option (R117). -/
def State.notifyTask (s : State) (tid : Tid) (ntf : Bool) : State := if ntf then s.modTask tid fun t => { t with ev3 := true } else s

end Sys2Proof.Machine
end

