-- ==== Sys2Proof/Machine/Matrix.lean ====
section
/-!
DEFINITION. Operand slots, the matrix engine and its checksums (R136 to R138, R168 to R185, R116).
-/
namespace Sys2Proof.Machine

open Sys2Proof

/-! ## Edge words (R170) -/

def edgeKv (e : Word) : Nat := if wordBits 38 32 e = 0 then 128 else wordBits 38 32 e
def edgeRow (e : Word) (i : Nat) : Bool := e.getLsbD i
def edgeCol (e : Word) (j : Nat) : Bool := e.getLsbD (16 + j)
def edgeOk (e : Word) : Bool := wordBits 63 39 e == 0

/-! ## Operand slots (R168, R169, R172, R173) -/

def Tile.slotAt (t : Tile) (n : Nat) : OperandSlot := t.operands.toArray.getD n OperandSlot.blank
def Tile.setSlot (t : Tile) (n : Nat) (o : OperandSlot) : Tile :=
  { t with operands := if h : n < 8 then t.operands.set n o h else t.operands }
/-- The operand slots that an operand in a format occupies. -/
def slotsOf (n : Nat) (fmt : BitVec 5) : List Nat := if fmt.toNat % 16 = 0 then [n, n + 1] else [n]
/-- Whether a task may name slot n for an operand of a format (R168). -/
def Tile.names (t : Tile) (tid : Tid) (n : Nat) (fmt : BitVec 5) : Bool :=
  let fp32 := fmt.toNat % 16 == 0
  (t.slotAt n).owner == tid && !(fp32 && n % 2 == 1) && !(n % 2 == 1 && (t.slotAt n).pair) && (!fp32 || (t.slotAt (n + 1)).owner == tid)
/-- The slots an operation reads. -/
def MatOp.reads (o : MatOp) : List Nat := match o.kind with | .mzero => [] | _ => slotsOf o.sa o.fa ++ slotsOf o.sb o.fb
/-- Whether an accepted operation names a slot. -/
def Tile.slotInUse (t : Tile) (n : Nat) : Bool :=
  (t.matrix.any fun o => o.reads.contains n) || (t.fills.any fun f => (slotsOf f.n f.fmt).contains n)

/-- OCLM (R172). -/
def execOclm (d a : BitVec 5) (p : Bool) (s : State) : Out :=
  let m := s.x a
  let free (n : Nat) : Bool := (s.tile.slotAt n).owner == 0
  if wordBits 63 8 m ≠ 0 ∨ m = 0 then raise trapIll s
  else
    let pick := if p then ([0, 2, 4, 6].find? fun n => m.getLsbD n && free n && free (n + 1)) else (upTo 8).find? fun n => m.getLsbD n && free n
    match pick with
    | none => park (.operandFree m.toNat p) s
    | some n =>
      let own (t : Tile) (k : Nat) : Tile := t.setSlot k { t.slotAt k with owner := s.task.tid, filling := false, poison := false, pair := p }
      let t := own s.tile n
      let t := if p then own t (n + 1) else t
      finish 4 ((s.setTile t).setX d (BitVec.ofNat 64 n))

/-- OREL (R173). -/
def execOrel (a : BitVec 5) (s : State) : Out :=
  let n := (s.x a).toNat
  let o := s.tile.slotAt n
  if 7 < n ∨ o.owner ≠ s.task.tid ∨ (n % 2 = 1 ∧ o.pair) then raise trapIll s
  else
    let ns := if o.pair then [n, n + 1] else [n]
    if ns.any s.tile.slotInUse then park (.operand n) s
    else finish 4 (s.setTile (ns.foldl (fun (t : Tile) k => t.setSlot k OperandSlot.blank) s.tile))

/-! ## Fills (R174, R175, R206, R213) -/

/-- The byte range of row i of a fill. -/
def FillOp.rowOff (f : FillOp) (i : Nat) : Nat := f.off + i * f.stride
def fillRowBytes (kv : Nat) (fmt : BitVec 5) : Nat := (kv * elemBits (fmt.toNat % 16) + 7) / 8
def FillOp.rowBytes (f : FillOp) : Nat := fillRowBytes f.kv f.fmt
/-- A row as it stands in the slot: elements at k ≥ kv and the bytes above are 0. -/
def FillOp.rowValue (f : FillOp) (bs : List Byte) : Nat := leValue bs % 2 ^ (f.kv * elemBits (f.fmt.toNat % 16))
/-- Clocks from the start of a fill to its join edge (R174). -/
def State.fillClks (s : State) (tile : Nat) (c : CapRec) (f : FillOp) : Nat := s.levelLatency tile c + (16 * f.rowBytes + 63) / 64

/-- A row of an operand written into its slot, or pair of slots. -/
def Tile.setOperandRow (t : Tile) (f : FillOp) (i v : Nat) : Tile :=
  (slotsOf f.n f.fmt).foldl (fun (t : Tile) n =>
    let o := t.slotAt n
    let w := if n = f.n then v % 2 ^ 2048 else v / 2 ^ 2048
    t.setSlot n { o with rows := if h : i < 16 then o.rows.set i (BitVec.ofNat 2048 w) h else o.rows }) t

/-- A range cut at multiples of 256, the blocks that one packet may name (R367): offset and length of each. -/
def readBlocks : Nat → Nat → Nat → List (Nat × Nat)
  | 0, _, _ => []
  | fuel + 1, off, n => if n = 0 then [] else let k := min n (256 - off % 256); (off, k) :: readBlocks fuel (off + k) (n - k)

/-- A fill starts: its join edge is scheduled, or a source on a peer is asked for its rows (R200, R372). -/
def State.startFill (s : State) (tile : Nat) (f : FillOp) : State :=
  match s.rec? f.img with
  | none => s.schedule s.clk (.oldJoin tile f.seq (some .revk))
  | some c =>
    let due := s.clk + s.fillClks tile c f
    let s := s.modTile tile fun t => { t with fills := t.fills.map fun (g : FillOp) => if g.seq = f.seq then { g with due := due } else g }
    match c.proxy with
    | none => s.schedule due (.oldJoin tile f.seq none)
    | some p =>
      let rows := (upTo 16).filter fun i => !f.skip.getLsbD i
      if rows.isEmpty then s.schedule due (.oldJoin tile f.seq none)
      else rows.foldl (fun (st : State) i => (readBlocks f.rowBytes (f.rowOff i) f.rowBytes).foldl (fun (st : State) (b : Nat × Nat) =>
        (st.sendSequenced p.dev (st.packetTo p.dev 1 c.asid c.version p.image b.1 (b.2 - 1) []) f.tid f.no f.handle
          (some (tile, f.seq, 3 * i + 2)) none).1) st) s

/-- Whether a fill waits for earlier operations that read its slots (R175). -/
def Tile.fillHeld (t : Tile) (f : FillOp) : Bool :=
  t.matrix.any fun o => decide (o.seq < f.seq) && o.reads.any fun n => (slotsOf f.n f.fmt).contains n
/-- Fills that no earlier operation holds any more start. -/
def State.startFills (s : State) (tile : Nat) : State :=
  let t := s.tileAt tile
  (t.fills.filter fun f => f.due == 0 && !t.fillHeld f).foldl (fun (st : State) f => st.startFill tile f) s

/-- The codebook table of a CB4 or CB2 operand (R127, R212, R213). -/
def State.codebook (s : State) (c : CapRec) (h : BitVec 4) (code : Nat) (side : Side) : State × Except TrapInfo (List (BitVec 16)) :=
  if !elemIsCb code then (s, .ok [])
  else if c.shape = 0xFFFF then (s, .error (trapCapv subKIND h))
  else match (s.launchAt? s.task.launch).bind fun l => s.rec? l.params with
    | none => (s, .error (trapCapv subLEN))
    | some pb =>
      let off := 192 * c.shape.toNat
      if pb.len < off + 192 then (s, .error (trapCapv subLEN))
      else if pb.revoked then (s, .error { cause := .revk })
      else if pb.poisoned ∨ s.quireBad.contains pb.img then (s, .error { cause := .merr })
      else match s.shapeRecord pb off with
        | (s, .error e) => (s, .error e)
        | (s, .ok w) =>
          let k := match side with | .a => 5 | .b => 6
          let n := if code = 14 then 16 else 4
          if pf w k 63 63 = 0 then (s, .error (trapCapv subKIND h))
          else if pb.len < pf w k 39 0 + 2 * n then (s, .error (trapCapv subLEN))
          else s.tableOf pb off (pf w k 39 0) n

/-- The checks of a fill (R174): what it would do, a wait, or a trap. -/
inductive FillPlan where
  | ok (f : FillOp) (s : State) | wait (w : Wait) | trap (t : TrapInfo) (s : State)

def State.planFill (s : State) (n : Nat) (k : BitVec 2) (h : BitVec 4) (oa oe : BitVec 3) (side : Side) (transfer ntf : Bool) : FillPlan :=
  let fs := s.hart.getFS k
  let fmt := BitVec.ofNat 5 (fs.toNat % 16)
  let code := fs.toNat % 16
  let addr := s.hart.getOX oa
  let edge := s.hart.getOX oe
  if !s.tile.names s.task.tid n fmt ∨ wordBits 63 56 addr ≠ 0 ∨ !edgeOk edge then .trap trapIll s
  else match s.checkHandle h needRD with
    | .error t => .trap t s
    | .ok c =>
      match s.admits c .engineRead with
      | .no sub => .trap (trapCapv sub h) s
      | .wait => .wait (.admits c.img 0)
      | .ok =>
        let off := wordBits 39 0 addr
        let st := wordBits 55 40 addr * 16
        let kv := edgeKv edge
        let skip := BitVec.ofNat 16 (match side with | .a => wordBits 15 0 edge | .b => wordBits 31 16 edge)
        let nb := fillRowBytes kv fmt
        if off % 16 ≠ 0 then .trap { cause := .algn, handle := some h } s
        else if (upTo 16).any fun i => !skip.getLsbD i && decide (c.len < off + i * st + nb) then .trap (trapCapv subLEN h) s
        else match s.codebook c h code side with
          | (s, .error t) => .trap t s
          | (s, .ok table) =>
            .ok { seq := s.tile.opSeq, tid := s.task.tid, no := s.hart.no, n := n, fmt := fmt, img := c.engineImg, handle := h, off := off
                  stride := st, kv := kv, skip := skip, transfer := transfer, ntf := ntf, table := table, due := 0, blocks := [], word := s.issueWord, args := [s.handle h, addr, edge] } s

/-- The fork edge of a fill: its slots are FILLING and its source drains (R27, R174). -/
def State.forkFill (s : State) (f : FillOp) : State :=
  let (seq, s) := s.nextSeq
  let f := { f with seq := seq }
  let t := (slotsOf f.n f.fmt).foldl (fun (t : Tile) k => t.setSlot k { t.slotAt k with filling := true }) { s.tile with fills := s.tile.fills ++ [f] }
  let s := (s.setTile t).forkRead f.img f.tid
  s.startFills s.tile.idx

/-- OLD (R174): the fork waits for the store buffer of its slot (R198, R247). -/
def execOld (n : BitVec 3) (k : BitVec 2) (h : BitVec 4) (a : BitVec 3) (side : Side) (e : BitVec 3) (s : State) : Out :=
  match s.planFill n.toNat k h a e side false false with
  | .trap t s => raise t s
  | .wait w => park w s
  | .ok f s =>
    match s.releaseWait with
    | some (w, s) => park w s
    | none => finish 4 (s.forkFill f)

/-- Rows of a fill read at its join edge: the values, and the first failure with the address or none. -/
def State.fillRows (s : State) (c : CapRec) (f : FillOp) : Nat → Nat → List (Nat × Nat) × Option (Cause × Nat)
  | 0, _ => ([], none)
  | n + 1, i =>
    if f.skip.getLsbD i then let (l, e) := s.fillRows c f n (i + 1); ((i, 0) :: l, e)
    else
      let o := f.rowOff i
      match s.recBytes c f.rowBytes o with
      | .ok bs => let (l, e) := s.fillRows c f n (i + 1); ((i, f.rowValue bs) :: l, e)
      | .error t =>
        let bad := ((upTo f.rowBytes).find? fun k => match s.capByte c (o + k) with | .error _ => true | .ok _ => false).getD 0
        ([], some (t.cause, match s.physOf c (o + bad) false with | .ok a => a | .error _ => 0))

/-- The rows of a fill from a peer: those whose bytes have all come, and zeros (R174). -/
def FillOp.peerRow (f : FillOp) (i : Nat) : Nat :=
  let mine := f.blocks.filter fun b => b.1 == i
  if (mine.map fun b => b.2.2.length).foldl (· + ·) 0 < f.rowBytes then 0
  else mine.foldl (fun v b => v ||| (leValue b.2.2 * 2 ^ (8 * b.2.1))) 0 % 2 ^ (f.kv * elemBits (f.fmt.toNat % 16))
/-- The sixteen rows of a fill written into its slot at the join edge. -/
def State.writeRows (s : State) (tile : Nat) (f : FillOp) (row : Nat → Nat) : State :=
  s.modTile tile fun t => (upTo 16).foldl (fun (t : Tile) i => t.setOperandRow f i (row i)) t
/-- The end of a fill: READY, poisoned or not, the source leaves DRAINING, and what it held goes on, a matrix operation in the clock after (R27, R174, R175, R179). -/
def State.endFill (s : State) (tile : Nat) (f : FillOp) (bad : Bool) : State :=
  let s := s.modTile tile fun t =>
    let t := { t with fills := t.fills.filter fun g => g.seq != f.seq }
    let busy := t.fills.any fun g => g.n == f.n
    let t := { t with matrix := t.matrix.map fun o => if !o.started && (slotsOf f.n f.fmt).any o.reads.contains then { o with earliest := max o.earliest (s.clk + 1) } else o }
    (slotsOf f.n f.fmt).foldl (fun (t : Tile) k =>
      t.setSlot k { t.slotAt k with filling := busy, poison := bad, table := if k = f.n ∧ elemIsCb (f.fmt.toNat % 16) then f.table else (t.slotAt k).table }) t
  ((s.joinRead f.img).notifyTask f.tid f.ntf).settle f.tid

/-- The cause that an engine leg's error pends (R102, R200). -/
def LegErrorTrap (e : LegError) (h : Option (BitVec 4)) : TrapInfo :=
  match e with
  | .revk => { cause := .revk, handle := h }
  | .pflt far => { cause := .pflt, detail := if far then 1 else 0, handle := h }
  | .merr _ => { cause := .merr, handle := h }
  | .lnke p => { cause := .lnke, detail := BitVec.ofNat 16 p, handle := h }
  | .capv n => { cause := .capv, sub := n, handle := h }

/-- OLD_JOIN (R174): the rows are read and written, up to the first failure; a peer's rows have been written as they arrived. -/
def execOldJoin (tile op : Nat) (err : Option LegError) (s : State) : Out :=
  let t := s.tileAt tile
  match t.fills.find? fun f => f.seq == op with
  | none => .next s
  | some f =>
    if t.fills.any fun g => decide (g.seq < f.seq) && (slotsOf g.n g.fmt).any (slotsOf f.n f.fmt).contains then
      .next (s.schedule (s.clk + 1) (.oldJoin tile op err))
    else match err with
      | some e => .next (((s.writeRows tile f f.peerRow).endFill tile f true).pend f.tid f.no (LegErrorTrap e (some f.handle)))
      | none =>
        match s.rec? f.img with
        | none => .next ((s.writeRows tile f f.peerRow).endFill tile f true)
        | some c =>
          if c.proxy.isSome then .next ((s.writeRows tile f f.peerRow).endFill tile f false)
          else
            let (rows, bad) := s.fillRows c f 16 0
            let s := (upTo 16).foldl (fun (st : State) i => if f.skip.getLsbD i then st else st.correctBuf c (f.rowOff i) f.rowBytes) s
            let s := (s.writeRows tile f fun i => ((rows.find? fun r => r.1 == i).map (·.2)).getD 0).endFill tile f bad.isSome
            .next (match bad with
              | none => s
              | some (.merr, a) => s.engineMerr c.root a f.tid f.no (some f.handle)
              | some (cause, _) => (s.noteRawWalk (dieOf tile) c f.off).pend f.tid f.no { cause := cause, handle := some f.handle })

/-! ## Operand values (R124 to R127, R136, R138) -/

def fpZero : Fp := .fin false 0 0
/-- The exact value of an element code. -/
def elemValue (table : List (BitVec 16)) (c x : Nat) : Fp :=
  if elemIsCb c then bf16.decode (table.getD x 0).toNat
  else match elemFmt c with
    | some f => f.decode x
    | none => let i := elemInt c x; .fin (decide (i < 0)) i.natAbs 0
/-- A row of an operand as a number. -/
def Tile.operandRow (t : Tile) (n : Nat) (fmt : BitVec 5) (i : Nat) : Nat :=
  let r (k : Nat) : Nat := ((t.slotAt k).rows.toArray.getD i 0).toNat
  if fmt.toNat % 16 = 0 then r n + 2 ^ 2048 * r (n + 1) else r n
/-- Codes of a row; elements at or above kv, and a row that is excluded, read as +0 with no access. -/
def Tile.operandCodes (t : Tile) (n : Nat) (fmt : BitVec 5) (out : Bool) (kv i : Nat) : List Nat :=
  let w := elemBits (fmt.toNat % 16)
  let v := t.operandRow n fmt i
  (List.range 128).map fun k => if out || kv ≤ k then 0 else v / 2 ^ (w * k) % 2 ^ w
def Tile.operandVals (t : Tile) (n : Nat) (fmt : BitVec 5) (out : Bool) (kv i : Nat) : List Fp :=
  let c := fmt.toNat % 16
  (List.range 128).zip (t.operandCodes n fmt out kv i) |>.map fun x => if out || kv ≤ x.1 then fpZero else elemValue (t.slotAt n).table c x.2

/-! ## The float sum (R137, R138) -/

def canonicalNaN : Nat := 0x7FC00000
def rne32 (x : Exact) : Nat := (fp32.round .rne false 0 x).1
/-- An exact product. -/
def mulFp (a b : Fp) : Fp :=
  match a, b with
  | .fin n1 m1 e1, .fin n2 m2 e2 => .fin (n1 != n2) (m1 * m2) (e1 + e2)
  | .inf n1, .inf n2 => .inf (n1 != n2)
  | .inf n1, .fin n2 m _ => if m = 0 then .nan false false 0 0 else .inf (n1 != n2)
  | .fin n1 m _, .inf n2 => if m = 0 then .nan false false 0 0 else .inf (n1 != n2)
  | _, _ => .nan false false 0 0
/-- An exact sum; a zero sum is −0 when both are −0. -/
def addFp (a b : Fp) : Fp :=
  match a, b with
  | .fin n1 m1 e1, .fin n2 m2 e2 => let x := addExact .rne n1 m1 e1 n2 m2 e2; .fin x.neg x.m x.e
  | .inf n1, .inf n2 => if n1 = n2 then .inf n1 else .nan false false 0 0
  | .inf n, .fin _ _ _ => .inf n
  | .fin _ _ _, .inf n => .inf n
  | _, _ => .nan false false 0 0
/-- A value rounded to FP32, a NaN canonical. -/
def codeOf (v : Fp) : Nat :=
  match v with
  | .nan _ _ _ _ => canonicalNaN
  | .inf n => fp32.infCode false n
  | .fin n m e => rne32 ⟨n, m, e, false⟩
/-- RoundRNE32 of the sum of two FP32 codes. -/
def add32 (a b : Nat) : Nat := codeOf (addFp (fp32.decode a) (fp32.decode b))
/-- The exact sum of a list of products: −0 only when every product is −0. -/
def sumFp : List Fp → Fp
  | [] => .fin true 0 0
  | v :: vs => addFp v (sumFp vs)
/-- Neighbours of a list added in FP32, level by level: P01, P23, …, Q0, Q1, S. -/
def addPairs : List Nat → List Nat
  | a :: b :: r => add32 a b :: addPairs r
  | l => l
/-- S(i, j) of one 128-element k-block (R137). -/
def floatSum (a b : List Fp) : Nat :=
  let p := List.zipWith mulFp a b
  let g := (List.range 8).map fun i => codeOf (sumFp ((p.drop (16 * i)).take 16))
  (addPairs (addPairs (addPairs g))).headD 0
/-- The exact integer sum of the integer path (R136). -/
def intOf : Fp → Int | .fin n m e => (if n then -1 else 1) * (m * 2 ^ e.toNat : Nat) | _ => 0
def intSum (a b : List Fp) : Int := (List.zipWith (fun x y => intOf x * intOf y) a b).foldl (· + ·) 0

/-! ## Accepted operations (R177 to R180, R116) -/

def fmtClks (withdrawn : Bool) (c : Nat) : Nat :=
  match c with
  | 0 => 2048
  | 1 | 2 | 14 | 15 => 256
  | 3 | 4 | 5 | 6 | 8 | 9 => 128
  | _ => if withdrawn then 128 else 64
/-- The compute time of the slower operand's class (R179). -/
def State.pairClks (s : State) (tile ca cb : Nat) : Nat :=
  let w := s.config.withdrawn.contains tile
  max (fmtClks w ca) (fmtClks w cb)
def MatOp.integer (o : MatOp) : Bool := elemIsInt (o.fa.toNat % 16) && elemIsInt (o.fb.toNat % 16) && o.kind != .mmd

/-- Clocks left in the interval of 240 from the next clock on (R116). -/
def intervalLeft (clk : Nat) : Nat := 240 - (clk + 1) % 240
/-- Whether starting an operation of n compute clocks would raise the interval's duty above the ceiling. -/
def Tile.rampHolds (t : Tile) (clk n : Nat) : Bool := decide (t.rampCeil < 16 ∧ 15 * t.rampCeil < t.rampBusy + min n (intervalLeft clk))

/-- What INJ makes of the next operation that a slot issues (R185): the fault, and the stream with its count stepped. -/
def Hart.injected (h : Hart) : Option Upset × Hart :=
  if h.inj.toNat / 2 ^ 31 % 2 = 0 then (none, h)
  else
    let u : Upset := ⟨wordBits 3 0 h.inj, wordBits 7 4 h.inj, wordBits 12 8 h.inj⟩
    (if h.injCount = wordBits 23 16 h.inj then some u else none, { h with injCount := h.injCount + 1 })

/-- The acceptance of an operation into the queue (R179). -/
def State.acceptMatrix (s : State) (o : MatOp) : State :=
  let (seq, s) := s.nextSeq
  let (u, h) := match o.kind with | .mzero => (none, s.hart) | _ => s.hart.injected
  let o := { o with seq := seq, earliest := s.clk + 1, inject := u, issuer := s.hart.no, issuerSlot := s.slot }
  (s.setHart h).setTile { s.tile with matrix := s.tile.matrix ++ [o] }

def matOp0 (s : State) (kind : MatKind) (d : AccT) (ntf : Bool) : MatOp :=
  { seq := 0, kind := kind, tid := s.task.tid, no := s.hart.no, slot := s.slot, acc := d, sa := 0, sb := 0, fa := 8, fb := 8, edge := 0
    ntf := ntf, husk := 0, use := false, delta := false, version := 0, inject := none, started := false, earliest := 0, due := 0
    result := [], skipped := false, checked := false, prior := none, issuer := 0, issuerSlot := 0, corrected := none }

/-- An MMA or MMAP checked at issue (R177): the operation, or none for ILL. -/
def State.planMul (s : State) (kind : MatKind) (d : AccT) (a b : BitVec 2) (e : BitVec 3) (ntf : Bool) (sb sa : Nat) : Option MatOp :=
  let fa := BitVec.ofNat 5 (s.hart.getFS a).toNat
  let fb := BitVec.ofNat 5 (s.hart.getFS b).toNat
  let edge := s.hart.getOX e
  let scaled := kind == .mma && (fa.getLsbD 4 || fb.getLsbD 4)
  if scaled || !s.tile.names s.task.tid sa fa || !s.tile.names s.task.tid sb fb || !edgeOk edge then none
  else some { matOp0 s kind d ntf with sa := sa, sb := sb, fa := fa, fb := fb, edge := edge }

/-- An operation that has passed its checks waits for a place and for the ramp limiter, and is accepted. -/
def acceptOrWait (o : MatOp) (clks : Nat) (s : State) : Out :=
  if 4 ≤ s.tile.matrix.length then park .matrixPlace s
  else if s.tile.rampHolds s.clk clks then holdForRamp clks s
  else finish 4 (s.acceptMatrix o)

/-- MMA and MMAP (R177); the fields are named as the encoding places them: t is sb, s0 is sa. -/
def mul (kind : MatKind) (d : AccT) (a b : BitVec 2) (e : BitVec 3) (n : Bool) (t s0 : BitVec 3) (s : State) : Out :=
  match s.planMul kind d a b e n t.toNat s0.toNat with
  | none => raise trapIll s
  | some o => acceptOrWait o (s.pairClks s.tile.idx (o.fa.toNat % 16) (o.fb.toNat % 16)) s
/-- MMA (R177). -/
def execMma (d : AccT) (a b : BitVec 2) (e : BitVec 3) (n : Bool) (t s0 : BitVec 3) (s : State) : Out := mul .mma d a b e n t s0 s
/-- MMAP (R177). -/
def execMmap (d : AccT) (a b : BitVec 2) (e : BitVec 3) (n : Bool) (t s0 : BitVec 3) (s : State) : Out := mul .mmap d a b e n t s0 s
/-- MZERO (R177). -/
def execMzero (d : AccT) (n : Bool) (s : State) : Out := acceptOrWait (matOp0 s .mzero d n) 8 s

/-! ## The husk step of an MMD (R190, R193) -/

def Tile.huskAt (t : Tile) (n : Nat) : Husk := t.husks.toArray.getD n Husk.blank
def Tile.setHusk (t : Tile) (n : Nat) (h : Husk) : Tile := { t with husks := if k : n < 16 then t.husks.set n h k else t.husks }

/-- Elements of a kept input row. -/
def keptVals (fmt : BitVec 5) (r : BitVec 1024) : List Fp := (List.range 128).map fun k => elemValue [] (fmt.toNat % 16) (r.toNat / 2 ^ (8 * k) % 256)
def Fp.finite : Fp → Bool | .fin _ _ _ => true | _ => false
def subFp (a b : Fp) : Fp := addFp a (fpNegate b)
def absFp : Fp → Fp | .fin _ m e => .fin false m e | v => v
def fpMag : Fp → Nat × Int | .fin _ m e => (m, e) | _ => (0, 0)

/-- A row of differences quantised (R193): its scale code, the products q × s, and the residuals. -/
def quantRow (q : Nat) (d : List Fp) : Nat × List Fp × List Fp :=
  let zero := d.all fun v => (fpMag v).1 == 0
  let e := if zero then 127 else ((List.range 255).find? fun (e : Nat) => d.all fun v => let (m, x) := fpMag v; magLe m x q ((e : Int) - 127)).getD 254
  let one (v : Fp) : Fp :=
    match v with
    | .fin n m x => let (k, _) := roundAt .rne 0 ⟨n, m, x, false⟩ ((e : Int) - 127); .fin n (min k q) ((e : Int) - 127)
    | v => v
  let qs := d.map one
  (e, qs, List.zipWith subFp d qs)

/-- What an MMD finds at its start: the input rows, and whether it computes a delta with its quantised rows. -/
structure MmdStart where
  x : List (List Fp)
  delta : Bool
  rows : List (List Fp)
  residual : Nat
  nz : Nat

def State.mmdStart (t : Tile) (o : MatOp) (h : Husk) : MmdStart :=
  let kv := edgeKv o.edge
  let x := (upTo 16).map fun i => t.operandVals o.sa o.fa (edgeRow o.edge i) kv i
  let kept := (upTo 16).map fun i => keptVals o.fa (h.kept.toArray.getD i 0)
  let ok := o.delta && (x.all fun r => r.all Fp.finite) && kept.all fun r => r.all Fp.finite
  if ok then
    let q := (List.zipWith (fun a b => quantRow (if h.deltaInt4 then 7 else 127) (List.zipWith subFp a b)) x kept)
    let sums := q.map fun r => sumFp ((r.2.2.map absFp) ++ [fpZero])
    let big := sums.foldl (fun m v => if fpLt m v then v else m) fpZero
    ⟨x, true, q.map (·.2.1), (match big with | .fin n m e => (fp32.round .rup false 0 ⟨n, m, e, false⟩).1 | _ => 0),
      (q.filter fun r => r.2.1.any fun v => (fpMag v).1 != 0).length⟩
  else ⟨x, false, x, 0, 0⟩

/-- FP32 sum rounded up. -/
def add32Up (a b : Nat) : Nat :=
  match addFp (fp32.decode a) (fp32.decode b) with
  | .fin n m e => (fp32.round .rup false 0 ⟨n, m, e, false⟩).1
  | .inf n => fp32.infCode false n
  | .nan _ _ _ _ => canonicalNaN
/-- The code of a kept result element. -/
def Husk.res (h : Husk) (i j : Nat) : Nat := laneOf 32 (h.result.toArray.getD i 0) j

/-- The husk after an MMD whose use holds (R193); y holds the 256 results. -/
def Husk.after (h : Husk) (o : MatOp) (m : MmdStart) (t : Tile) (y : List Nat) : Husk :=
  let kv := edgeKv o.edge
  let kept : Vector (BitVec 1024) 16 := Vector.ofFn fun i => BitVec.ofNat 1024 (lanesValue 8 (t.operandCodes o.sa o.fa (edgeRow o.edge i) kv i))
  let result : Vector Row 16 := Vector.ofFn fun i => packRow 32 ((upTo 16).map fun j => if edgeRow o.edge i || edgeCol o.edge j then 0 else y.getD (16 * i + j) 0)
  let h := if m.delta then
      let rho := add32Up h.rho.toNat m.residual
      { h with rho := BitVec.ofNat 32 rho, count := h.count + 1
               valid := h.valid && !fpLt (fp32.decode h.threshold.toNat) (fp32.decode rho) }
    else { h with version := o.version, edge := o.edge, count := 0, rho := 0, valid := true }
  { h with kept := kept, result := result }

/-! ## Starting an operation (R175, R177, R179) -/

/-- The accumulator element as it stands in the slot. -/
def accAt (h : Option Hart) (t : AccT) (i j : Nat) : Nat := match h with | some h => laneOf 32 (h.getV (tileRow0 t i)) j | none => 0
where tileRow0 (t : AccT) (i : Nat) : BitVec 5 := BitVec.ofNat 5 ((match t with | .t0 => 0 | .t1 => 16) + i)
/-- The stream whose slot an operation's result goes to: the one that holds that slot, else the one that has ended there and to whose rows results are still owed (R180). -/
def State.opHart (s : State) (tile : Nat) (o : MatOp) : Option Hart :=
  let mine (h : Hart) : Bool := h.tid == o.tid && h.no == o.no && h.slot == some o.slot
  match s.hartAt? o.tid o.no with
  | some h => if h.slot = some o.slot then some h else (s.tileAt tile).ended.find? mine
  | none => (s.tileAt tile).ended.find? mine
/-- Rows of A and columns of B as an operation multiplies them. -/
def State.opRows (t : Tile) (o : MatOp) : List (List Fp) × List (List Fp) :=
  let kv := edgeKv o.edge
  let a := match o.kind, o.prior with
    | .mmd, some h => (State.mmdStart t o h).rows
    | _, _ => (upTo 16).map fun i => t.operandVals o.sa o.fa (edgeRow o.edge i) kv i
  (a, (upTo 16).map fun j => t.operandVals o.sb o.fb (edgeCol o.edge j) kv j)
/-- The value an element starts from: the accumulator of an MMA, the kept result of a delta, else none. -/
def State.opStart (s : State) (tile : Nat) (o : MatOp) (delta : Bool) (i j : Nat) : Option Nat :=
  match o.kind with
  | .mma => some (accAt (s.opHart tile o) o.acc i j)
  | .mmd => if delta then o.prior.map fun h => h.res i j else none
  | _ => none
/-- The 256 elements of a fault-free operation (R177, R193). -/
def State.opResult (s : State) (t : Tile) (o : MatOp) (delta : Bool) : List Nat :=
  let (a, b) := State.opRows t o
  let elem (i j : Nat) (x y : List Fp) : Nat :=
    if edgeRow o.edge i || edgeCol o.edge j then 0
    else if o.integer then
      let v := intSum x y
      (match s.opStart t.idx o delta i j with | some c => (((c : Int) + v) % (2 ^ 32 : Nat)).toNat | none => (v % (2 ^ 32 : Nat)).toNat)
    else match s.opStart t.idx o delta i j with | some c => add32 c (floatSum x y) | none => floatSum x y
  ((upTo 16).zip a |>.map fun p => (upTo 16).zip b |>.map fun q => elem p.1 q.1 p.2 q.2).flatten

/-- Whether an operation can start: it heads the queue, and the fills of its slots that were issued before it have joined. -/
def Tile.canStart (t : Tile) (clk : Nat) : Bool :=
  match t.matrix with
  | o :: _ => !o.started && decide (o.earliest ≤ clk) && !(t.fills.any fun f => decide (f.seq < o.seq) && (slotsOf f.n f.fmt).any o.reads.contains)
  | [] => false

/-- The operation at the head replaced. -/
def Tile.setHead (t : Tile) (o : MatOp) : Tile := { t with matrix := match t.matrix with | _ :: r => o :: r | [] => [] }

/-- MATRIX_OP_START (R175, R179): the results are computed from the operand slots and the accumulator as they stand, and the husk of an MMD is refreshed. -/
def execMatrixOpStart (tile : Nat) (s : State) : Out :=
  let t := s.tileAt tile
  match t.matrix with
  | [] => .next s
  | o :: _ =>
    if !t.canStart s.clk then .next s
    else
      let go (o : MatOp) (t : Tile) (clks due : Nat) : Out :=
        let t := { t.setHead { o with started := true, due := due } with rampBusy := t.rampBusy + min clks (240 - s.clk % 240) }
        .next ((s.putTile t).schedule due (.matrixOpComplete tile []))
      if o.kind = .mzero then go { o with checked := true, result := List.replicate 256 0 } t 8 (s.clk + 7)
      else if o.reads.any fun n => (t.slotAt n).poison then go { o with skipped := true, checked := true } t 0 s.clk
      else
        let h := t.huskAt o.husk
        let o := if o.kind = .mmd then { o with prior := some h } else o
        let m := State.mmdStart t o h
        let delta := o.kind == .mmd && m.delta
        let y := s.opResult t o delta
        let ca := o.fa.toNat % 16
        let cb := o.fb.toNat % 16
        let clks := if delta then max 16 (s.pairClks tile (if h.deltaInt4 then 10 else 8) cb * m.nz / 16) else s.pairClks tile ca cb
        let t := if o.kind = .mmd ∧ o.use then t.setHusk o.husk (h.after o m t y) else t
        go { o with result := y.map (BitVec.ofNat 32) } t clks (s.clk + clks + 11)

/-! ## Checksums and completion (R180, R182 to R185) -/

/-- The elements as written, with the faults that lie in written positions. -/
def faulted (o : MatOp) (us : List Upset) : List Nat :=
  let hit (i j : Nat) (v : Nat) : Nat := us.foldl (fun v u => if u.row = i ∧ u.col = j then v ^^^ 2 ^ u.bit else v) v
  (upTo 16).flatMap fun i => (upTo 16).map fun j => (hit i j (o.result.getD (16 * i + j) 0).toNat) % 2 ^ 32

/-- The comparison of one line (R182): written codes, starts, and the exact products of its elements. -/
def lineMismatch (integer : Bool) (written : List Nat) (starts : List Nat) (products : List Fp) : Bool :=
  if integer then
    let chk : Int := (starts.map fun (c : Nat) => (c : Int)).foldl (· + ·) 0 + (products.map intOf).foldl (· + ·) 0
    decide (((written.map fun (c : Nat) => (c : Int)).foldl (· + ·) 0 - chk) % (2 ^ 32 : Nat) ≠ 0)
  else
    let terms := (starts.map fp32.decode) ++ products
    let w := written.map fp32.decode
    if !(terms.all Fp.finite && w.all Fp.finite) then false
    else
      let diff := absFp (subFp (sumFp w) (sumFp terms))
      let t := sumFp ((terms.map absFp) ++ [fpZero])
      match t, diff with
      | .fin _ tm te, .fin _ dm de => !magLe dm de tm (te - 14)
      | _, _ => false

/-- Rows and columns that mismatch. -/
def State.mismatches (s : State) (t : Tile) (o : MatOp) (written : List Nat) : List Nat × List Nat :=
  let (a, b) := State.opRows t o
  let delta := match o.prior with | some h => o.kind == .mmd && (State.mmdStart t o h).delta | none => false
  let rows := (upTo 16).filter fun i => !edgeRow o.edge i
  let cols := (upTo 16).filter fun j => !edgeCol o.edge j
  let line (cells : List (Nat × Nat)) : Bool :=
    lineMismatch o.integer (cells.map fun c => written.getD (16 * c.1 + c.2) 0) (cells.filterMap fun c => s.opStart t.idx o delta c.1 c.2)
      (cells.flatMap fun c => List.zipWith mulFp (a.getD c.1 []) (b.getD c.2 []))
  (rows.filter fun i => line (cols.map fun j => (i, j)), cols.filter fun j => line (rows.map fun i => (i, j)))

/-- The rows of a tile of a stream written: rows and columns that are not excluded (R178). -/
def Hart.writeAcc (h : Hart) (o : MatOp) (vals : List Nat) : Hart :=
  (upTo 16).foldl (fun (h : Hart) i =>
    if edgeRow o.edge i then h
    else
      let r := accAt.tileRow0 o.acc i
      let old := h.getV r
      h.setV r (packRow 32 ((upTo 16).map fun j => if edgeCol o.edge j then laneOf 32 old j else vals.getD (16 * i + j) 0))) h
/-- The rows of a stream that has ended, while results are still owed to its slot (R180). -/
def State.writeEnded (s : State) (tile : Nat) (o : MatOp) (vals : List Nat) : State :=
  s.modTile tile fun t => { t with ended := t.ended.map fun h => if h.tid == o.tid && h.no == o.no && h.slot == some o.slot then h.writeAcc o vals else h }
/-- The tile written in the slot, also in one whose stream has ended (R178, R180). -/
def State.writeTile (s : State) (tile : Nat) (o : MatOp) (vals : List Nat) : State :=
  match s.hartAt? o.tid o.no with
  | some h => if h.slot = some o.slot then s.putHart (h.writeAcc o vals) else s.writeEnded tile o vals
  | none => s.writeEnded tile o vals

/-- INJ is disarmed by the operation that it struck (R185). -/
def State.disarm (s : State) (o : MatOp) : State :=
  match o.inject with
  | none => s
  | some _ => s.modHart o.tid o.issuer fun h => { h with inj := BitVec.ofNat 64 (h.inj.toNat % 2 ^ 31), injCount := 0 }

/-- The end of an operation: it leaves the queue, its tile counts as written in this clock, the next may start in the clock after, and fills it held start. -/
def State.endMatrix (s : State) (tile : Nat) (o : MatOp) : State :=
  let s := s.modTile tile fun t =>
    let rest := (t.matrix.drop 1).map fun (p : MatOp) => { p with earliest := max p.earliest (s.clk + 1) }
    { t with matrix := rest, wrote := (t.wrote.filter fun w => w.2.2 == s.clk) ++ [(o.slot, o.acc, s.clk)]
             ended := t.ended.filter fun h => rest.any fun p => p.tid == h.tid && p.no == h.no && h.slot == some p.slot }
  (((s.disarm o).notifyTask o.tid o.ntf).startFills tile).settle o.tid

/-- MATRIX_OP_COMPLETE (R182 to R184): the drain compares the checksums; one row and one column are corrected in 32 clk more, and logged as the tile is written (R221), and any other mismatch raises MCHK. An MMD whose mismatch raises MCHK has refreshed its husk at its start, and the husk keeps that (R193; log 38). -/
def execMatrixOpComplete (tile : Nat) (upsets : List Upset) (s : State) : Out :=
  let t := s.tileAt tile
  match t.matrix with
  | [] => .next s
  | o :: _ =>
    if !o.started ∨ s.clk < o.due then .next s
    else if o.skipped then .next (s.endMatrix tile o)
    else if o.checked then
      let s := match o.corrected with | some a => s.log (dieOf tile) 1 0 (srcTile tile) a (o.tid.zeroExtend 64) | none => s
      .next ((s.writeTile tile o (o.result.map (·.toNat))).endMatrix tile o)
    else
      let us := (o.inject.toList ++ upsets).filter fun u => !edgeRow o.edge u.row && !edgeCol o.edge u.col
      let w := faulted o us
      match s.mismatches t o w with
      | ([], []) => .next ((s.writeTile tile o w).endMatrix tile o)
      | ([i], [j]) =>
        let good := (o.result.getD (16 * i + j) 0).toNat
        let x := w.getD (16 * i + j) 0 ^^^ good
        let entry := BitVec.ofNat 64 (x * 2 ^ 32 + i * 2 ^ 28 + j * 2 ^ 24 + o.issuerSlot % 8 * 2 ^ 21)
        let t := t.setHead { o with checked := true, corrected := some entry, due := s.clk + 32, result := (w.set (16 * i + j) good).map (BitVec.ofNat 32) }
        .next ((s.putTile t).schedule (s.clk + 32) (.matrixOpComplete tile []))
      | (rows, cols) =>
        let mask (l : List Nat) : Nat := (l.map fun k => 2 ^ k).foldl (· + ·) 0
        let s := s.log (dieOf tile) 2 0 (srcTile tile) (BitVec.ofNat 64 (mask rows + mask cols * 65536)) (o.tid.zeroExtend 64)
        let s := s.pend o.tid o.issuer { cause := .mchk }
        .next ((s.writeTile tile o w).endMatrix tile o)

/-- RAMP_INTERVAL (R116): the duty of the interval that ends, with its idle-fill, sets the ceiling of the next. -/
def execRampInterval (tile : Nat) (s : State) : Out :=
  .next (s.modTile tile fun t =>
    let rise := t.rampc.toNat % 16
    let fall := t.rampc.toNat / 16 % 16
    let d := max (min 16 (t.rampBusy / 15)) (if fall = 0 then 0 else t.rampDuty - fall)
    let left := match t.matrix with | o :: _ => if o.started then (if o.kind = .mzero then o.due + 1 - s.clk else o.due - 11 - s.clk) else 0 | [] => 0
    { t with rampDuty := d, rampCeil := if rise = 0 then 16 else min 16 (d + rise), rampBusy := min 240 left })

end Sys2Proof.Machine
end

