-- ==== Sys2Proof/Machine/Transfer.lean ====
section
/-!
DEFINITION. The transfer engine: COPY, copy packets, COPYM, GATH, FILL, SELT, SRINV and QAPP, their join edges and their errors (R198 to R219, R325, R372, R375).
-/
namespace Sys2Proof.Machine

open Sys2Proof

/-! ## Checks at issue (R24, R28, R203 to R210) -/

/-- The answer of a check on a handle: its record, a wait, or a trap. -/
inductive Gate where
  | ok (c : CapRec) | wait (w : Wait) | trap (t : TrapInfo)

/-- A peer-level record is used only towards a valid entry of the peer table (R364). -/
def State.peerOk (s : State) (c : CapRec) : Bool := match c.proxy with | some p => s.peerValid p.dev | none => c.level != .peer
/-- A sink (R375). -/
def CapRec.isSink (c : CapRec) : Bool := match c.proxy with | some p => p.image == 0 | none => false

/-- R28 after the checks of R24 have passed; what R348 and R364 refuse. -/
def State.gateRec (s : State) (h : BitVec 4) (c : CapRec) (use : Use) : Gate :=
  match s.admits c use with
  | .no sub => .trap (trapCapv sub h)
  | .wait => .wait (.admits c.img use.code)
  | .ok =>
    if use = .engineWrite ∧ s.replayKind c then .trap (trapCapv subKIND h)
    else if !s.peerOk c then .trap (trapCapv subDEST h)
    else .ok c
/-- R24 and R28 on a handle of an engine operation. -/
def State.gate (s : State) (h : BitVec 4) (need : Rights) (use : Use) : Gate :=
  match s.checkHandle h need with
  | .error t => .trap t
  | .ok c => s.gateRec h c use

/-- The waits before a fork edge: a place in the engine (R199), and the release (R198). -/
def forkOrWait (s : State) (k : State → Out) : Out :=
  if 16 ≤ s.tile.accepted then park .transferPlace s
  else match s.releaseWait with
    | some (w, s) => park w s
    | none => k s

/-- Whether a range of a destination leaves its buffer, or cuts a 64-byte unit of a sink (R203, R375). -/
def CapRec.rangeBad (c : CapRec) (off n : Nat) : Bool := decide (c.len < off + n) || (c.isSink && (off % 64 != 0 || n % 64 != 0))

/-! ## Accepting an operation (R198, R199) -/

/-- Clocks from fork edge to join edge, of n bytes written (R199). -/
def State.xferClks (s : State) (tile : Nat) (cs : List CapRec) (n : Nat) : Nat := (cs.map (s.levelLatency tile)).foldl max 0 + (n + 63) / 64
def mkLeg (c : CapRec) (h : BitVec 4) (off n due : Nat) : Leg :=
  { dst := c.img, handle := h, off := off, len := n, due := due, sent := false, done := 0, status := none }
/-- An operation of a stream before it is accepted, with the operands that it has read, in the order in which its entry reads them (R342). -/
def State.newXfer (s : State) (kind : XferKind) (ntf : Bool) (args : List Word) : XferOp :=
  { id := s.tile.xferNext, seq := s.tile.opSeq, tid := s.task.tid, no := s.hart.no, asid := s.task.asid, kind := kind, src := none
    srcHandle := 0, srcOff := 0, legs := [], ntf := ntf, due := s.clk + 1, units := [], fetches := [], word := s.issueWord, args := args }

def Tile.xfer? (t : Tile) (id : Nat) : Option XferOp := t.xfers.find? fun o => o.id == id
def State.setXfer (s : State) (tile : Nat) (o : XferOp) : State :=
  s.modTile tile fun t => { t with xfers := t.xfers.map fun (x : XferOp) => if x.id = o.id then o else x }

/-- READs of a range of a proxy leave for its owner, and what they will answer is noted (R372). -/
def State.askPeer (s : State) (tile : Nat) (o : XferOp) (index : Bool) (c : CapRec) (off n : Nat) : State × XferOp :=
  match c.proxy with
  | none => (s, o)
  | some p =>
    (readBlocks n off n).foldl (fun (a : State × XferOp) (b : Nat × Nat) =>
      ((a.1.sendSequenced p.dev (a.1.packetTo p.dev 1 c.asid c.version p.image b.1 (b.2 - 1) []) o.tid o.no o.srcHandle
        (some (tile, o.id, 3 * a.2.fetches.length + 1)) none).1,
       { a.2 with fetches := a.2.fetches ++ [⟨index, b.1, b.2, none⟩] })) (s, o)

/-- The first requests of an operation whose source or index list lies on a peer. -/
def State.askFirst (s : State) (tile : Nat) (o : XferOp) : State × XferOp :=
  match o.kind, o.src with
  | .gather _ count _ idxOff idx, _ => (match s.rec? idx with | some c => s.askPeer tile o true c idxOff (4 * count) | none => (s, o))
  | .copy, some i | .packet _ _, some i =>
    (match s.rec? i with | some c => s.askPeer tile o false c o.srcOff ((o.legs.map (·.len)).foldl max 0) | none => (s, o))
  | _, _ => (s, o)

/-- Whether a leg writes host memory, by posted writes with a flush behind them (R251). -/
def State.postsTo (s : State) (l : Leg) : Bool := match s.rec? l.dst with | some c => c.level == .host && c.proxy.isNone | none => false

/-- The fork edge on a tile: sources drain, destinations fill, and the join edge of each leg is on its way (R27, R198, R199). -/
def State.forkXfer (s : State) (tile : Nat) (o : XferOp) (srcs dsts : List Image) : State :=
  let s := srcs.foldl (fun (st : State) i => st.forkRead i o.tid) s
  let s := dsts.foldl (fun (st : State) i => st.forkWrite i o.tid) s
  let t := s.tileAt tile
  let o := { o with id := t.xferNext, seq := t.opSeq }
  let s := s.putTile { t with xfers := t.xfers ++ [o], xferNext := t.xferNext + 1, opSeq := t.opSeq + 1 }
  let (s, o) := s.askFirst tile o
  let s := s.setXfer tile o
  let s := o.units.foldl (fun (st : State) ch => st.schedule o.due (.scanUnitLeg tile o.id ch)) s
  match o.kind with
  | .append _ _ _ => s.schedule o.due (.qappEntryWrite tile o.id)
  | .halo _ _ _ _ _ _ => s
  | _ => ((o.legs.map (·.due)) ++ (o.legs.map fun l => if s.postsTo l then l.due - Config.latL5 else l.due) ++ (if o.legs.isEmpty then [o.due] else [])).eraseDups.foldl (fun (st : State) d => st.schedule d (.transferJoin tile o.id)) s

/-! ## COPY (R203) -/

/-- COPY of bytes (R203). -/
def execCopy (d h : BitVec 4) (a : BitVec 2) (b : BitVec 5) (ntf : Bool) (s : State) : Out :=
  let a0 := s.hart.getOX (BitVec.ofNat 3 (2 * a.toNat))
  let a1 := s.hart.getOX (BitVec.ofNat 3 (2 * a.toNat + 1))
  let n := (s.x b).toNat
  let so := wordBits 39 0 a0
  let do_ := wordBits 39 0 a1
  if wordBits 63 40 a0 ≠ 0 ∨ wordBits 63 40 a1 ≠ 0 then raise trapIll s
  else match s.gate h needRD .engineRead with
    | .trap t => raise t s
    | .wait w => park w s
    | .ok c =>
      match s.gate d needWR .engineWrite with
      | .trap t => raise t s
      | .wait w => park w s
      | .ok e =>
        if c.img = e.img then raise (trapCapv subDEST d) s
        else if n = 0 ∨ c.len < so + n then raise (trapCapv subLEN h) s
        else if e.rangeBad do_ n then raise (trapCapv subLEN d) s
        else forkOrWait s fun s =>
          let o := { s.newXfer .copy ntf [s.handle d, s.handle h, a0, a1, s.x b] with
            src := some c.engineImg, srcHandle := h, srcOff := so, legs := [mkLeg e d do_ n (s.clk + s.xferClks s.tile.idx [c, e] n)] }
          finish 4 (s.forkXfer s.tile.idx o [c.engineImg] [e.img])

/-- Whether a relocation moves bytes, and to which place in the tile (R33). -/
def State.movePlace (s : State) (tile : Nat) (auto : Bool) (c : CapRec) : Option Nat :=
  if c.level = .peer then none
  else if auto then
    if c.level = .tile ∧ clusterOf (c.base / 2 ^ 18) ≠ clusterOf tile ∧ c.len ≤ 16 * 1024 then s.allocTile tile (storageSize .tile c.kind c.len) else none
  else if c.len ≤ 240 * 1024 then s.allocTile tile (storageSize .tile c.kind c.len) else none

/-- The record that bytes move into: at a free number of the tile's die (R384), FILLING, with the next version (R31). -/
def CapRec.moved (c : CapRec) (img base : Nat) (owner : Tid) (filler : Tid) : CapRec :=
  { c with img := img, root := img, base := base, level := .tile, owner := owner, version := c.version + 1, state := .filling, written := false
           readers := 0, writers := 1, filler := filler, grants := [] }
/-- The record that bytes move out of: it drains without an owner until they have landed. -/
def CapRec.leaving (c : CapRec) : CapRec := { c with owner := noOwner, state := .draining, readers := c.readers + 1, fromLaunch := none, outer := [] }

/-- COPY.move and COPY.auto (R203, R33, R384). -/
def relocate (auto : Bool) (d h : BitVec 4) (ntf : Bool) (s : State) : Out :=
  if s.handle d ≠ 0 then raise trapIll s
  else match s.checkHandle h needXFER with
    | .error t => raise t s
    | .ok c =>
      match s.admits c (.send (if auto then 2 else 1)) with
      | .no sub => raise (trapCapv sub h) s
      | .wait => park (.admits c.img 2) s
      | .ok =>
        let args := [s.handle d, s.handle h]
        forkOrWait s fun s =>
          match s.movePlace s.tile.idx auto c with
          | none =>
            let s := ((s.clearWritten c.root).setHandle h 0).setHandle d (s.handle h)
            finish 4 (s.forkXfer s.tile.idx (s.newXfer .move ntf args) [] [])
          | some base =>
            match s.freeRecord (dieOf s.tile.idx) with
            | none => park (.quireRoom (dieOf s.tile.idx)) s
            | some img =>
              let n := c.moved img base s.task.tid s.task.tid
              let due := s.clk + s.xferClks s.tile.idx [c] c.len
              let s := ((s.scrub base (storageSize .tile c.kind c.len)).putRec c.leaving).putRec n
              let s := (s.setHandle h 0).setHandle d (BitVec.ofNat 64 n.image)
              let o := { s.newXfer .move ntf args with src := some c.img, srcHandle := d, legs := [mkLeg n d 0 c.len due] }
              finish 4 ((s.dropCached c.root).forkXfer s.tile.idx o [] [])
/-- COPY.move (R203). -/
def execCopyMove (d h : BitVec 4) (n : Bool) (s : State) : Out := relocate false d h n s
/-- COPY.auto (R203). -/
def execCopyAuto (d h : BitVec 4) (n : Bool) (s : State) : Out := relocate true d h n s

/-! ## Copy packets (R204, R205) -/

def packetDests (p : List Word) : Nat := pf p 0 5 4 + 1
/-- The table of R204 but for the length. -/
def copyPacketOk (p : List Word) : Bool :=
  pkKind p == 2 && pf p 1 63 28 == 0 && pf p 2 63 40 == 0 && pf p 3 63 41 == 0 && pf p 2 39 0 % 16 == 0
    && (List.range 4).all fun i => decide (i < packetDests p) || pw p (4 + i) == 0
def copyLenOk (p : List Word) : Bool := decide (1 ≤ pf p 3 40 0 ∧ pf p 3 40 0 ≤ 2 ^ 40)
/-- Images of a packet: the source first. -/
def packetImages (p : List Word) : List Nat := pf p 1 27 0 :: (List.range (packetDests p)).map fun i => pf p (4 + i) 27 0
def packetOffs (p : List Word) : List Nat := (List.range (packetDests p)).map fun i => pf p (4 + i) 63 28 * 16
/-- The handle of a task that holds an image. -/
def Task.handleOf (t : Task) (image : Nat) : Option (BitVec 4) :=
  ((upTo 16).find? fun i => decide (image ≠ 0 ∧ (t.getH (BitVec.ofNat 4 i)).toNat = image)).map (BitVec.ofNat 4)

/-- The gates of a packet's handles in order; the first that does not pass decides. -/
def State.gateAll (s : State) : List (BitVec 4 × Bool) → Gate ⊕ List (BitVec 4 × CapRec)
  | [] => .inr []
  | (h, w) :: r =>
    match s.gate h (if w then needWR else needRD) (if w then .engineWrite else .engineRead) with
    | .ok c => (match s.gateAll r with | .inr l => .inr ((h, c) :: l) | g => g)
    | g => .inl g

/-- Checks 4 and 5 of R205: no record twice, and every range within its buffer. -/
def packetRanges (p : List Word) (cs : List CapRec) : Option Nat :=
  let n := pf p 3 40 0
  match cs with
  | [] => none
  | src :: ds =>
    if !decide ((cs.map (·.img)).Nodup) then some subDEST
    else if src.len < pf p 2 39 0 + n ∨ (ds.zip (packetOffs p)).any (fun x => x.1.rangeBad x.2 n) then some subLEN
    else none

/-- The operation of a packet: one leg for each destination. -/
def State.packetXfer (s : State) (o : XferOp) (tile : Nat) (p : List Word) (cs : List (BitVec 4 × CapRec)) : XferOp :=
  match cs with
  | [] => o
  | (h, src) :: ds =>
    let n := pf p 3 40 0
    { o with src := some src.engineImg, srcHandle := h, srcOff := pf p 2 39 0, ntf := pf p 0 6 6 == 1
             legs := (ds.zip (packetOffs p)).map fun x => mkLeg x.1.2 x.1.1 x.2 n (s.clk + s.xferClks tile [src, x.1.2] n) }

/-- COPY.pkt once its packet is read, through a handle. -/
def copyPacketFrom (h : BitVec 4) (hp : CapRec) (off : Nat) (p : List Word) (s : State) : Out :=
  let die := dieOf s.tile.idx
  if !s.r5 p then raise (trapCapv subDEST) (s.reject die (srcTile s.tile.idx) p subDEST)
  else if !copyPacketOk p then raise (trapCapv subDEST) s
  else if !copyLenOk p then raise (trapCapv subLEN) s
  else
    let hs := (packetImages p).map s.task.handleOf
    if hs.any Option.isNone then raise (trapCapv subOWN) s
    else
      let names := (hs.filterMap id).zip (false :: List.replicate (packetDests p) true)
      match s.gateAll names with
      | .inl (.trap t) => raise t s
      | .inl (.wait w) => park w s
      | .inl (.ok _) => finish 4 s
      | .inr cs =>
        match packetRanges p (cs.map (·.2)) with
        | some sub => raise (trapCapv sub) s
        | none => forkOrWait s fun s =>
          let o := s.packetXfer (s.newXfer (.packet (some (hp.img, off)) none) false [s.handle h, BitVec.ofNat 64 off]) s.tile.idx p cs
          finish 4 (s.forkXfer s.tile.idx o o.src.toList (hp.img :: o.legs.map (·.dst)))

/-- COPY.pkt (R205): the packet is read as a 64-byte load. -/
def execCopyPkt (h : BitVec 4) (b : BitVec 5) (s : State) : Out :=
  let off := s.x b
  match s.find h off 64 needRW (.load false) false with
  | .trap t => raise t s
  | .wait w s => park w s
  | .at_ c _ _ =>
    match s.gateRec h c .engineWrite with
    | .trap t => raise t s
    | .wait w => park w s
    | .ok _ =>
      match s.readOf 64 h off needRW false with
      | .trap t => raise t s
      | .wait w s => park w s
      | .value c v _ s => copyPacketFrom h c off.toNat (packetWords (bytesOf 64 v)) s
      | .peer _ _ s => raise (trapCapv subKIND h) s

/-! ## COPYM (R206, R207) -/

/-- A follow-on word read: none where it breaks R207; an empty one carries no command. -/
def followOn (w : Word) : Option (Option (Instr × Nat)) :=
  if wordBits 63 34 w ≠ 0 then none
  else if wordBits 31 0 w = 0 then (if w = 0 then some none else none)
  else match decode (bytesOf 4 (wordBits 31 0 w)) with
    | .ok (i, _, _) => some (some (i, wordBits 33 32 w))
    | .error _ => none

/-- What a COPYM's follow-on comes to: nothing, an operation with its clocks, a wait, or ILL. -/
inductive Follow where
  | none_ | op (o : MatOp) (clks : Nat) | wait (w : Wait) | ill

/-- An MMD checked at issue (R193). -/
def State.planMmd (s : State) (n : BitVec 4) (v : AccT) (h : BitVec 4) (e : BitVec 3) (ntf : Bool) (sb sa : Nat) : Except TrapInfo (CapRec × MatOp) :=
  match s.checkHandle h needRD with
  | .error t => .error t
  | .ok c =>
    let k := s.tile.huskAt n.toNat
    let edge := s.hart.getOX e
    if !s.tile.names s.task.tid sa k.inFmt ∨ !s.tile.names s.task.tid sb c.format ∨ !edgeOk edge then .error trapIll
    else if c.format.getLsbD 4 then .error (trapCapv subKIND h)
    else if !k.bound then .error trapIll
    else
      let ve := s.capVersion c
      let use := k.bound && k.asid == s.task.asid && k.root == c.root
      let delta := use && k.valid && k.version == ve && k.edge == edge && decide (k.count.toNat < k.limit.toNat)
      .ok (c, { matOp0 s .mmd v ntf with sa := sa, sb := sb, fa := k.inFmt, fb := c.format, edge := edge, husk := n.toNat
                                         use := use, delta := delta, version := ve })

/-- The follow-on checked as though the stream it names issued it, with the operands of the issuing slot (R207); slot n is one that it names, or one of the pair that an FP32 operand names. -/
def State.planFollow (s : State) (w : Word) (n : Nat) : Follow :=
  match followOn w with
  | none => .ill
  | some none => .none_
  | some (some (i, k)) =>
    match s.hartAt? s.task.tid k with
    | none => .ill
    | some h =>
      let place (o : MatOp) : Follow :=
        if (slotsOf o.sa o.fa).contains n || (slotsOf o.sb o.fb).contains n then
          .op { o with no := k, slot := h.slot.getD 8 } (s.pairClks s.tile.idx (o.fa.toNat % 16) (o.fb.toNat % 16))
        else .ill
      match i with
      | .mma d a b e f t s0 => (match s.planMul .mma d a b e f t.toNat s0.toNat with | some o => place o | none => .ill)
      | .mmap d a b e f t s0 => (match s.planMul .mmap d a b e f t.toNat s0.toNat with | some o => place o | none => .ill)
      | .mmd m v h e f t s0 =>
        (match s.planMmd m v h e f t.toNat s0.toNat with
        | .error _ => .ill
        | .ok (c, o) => (match s.admits c .engineRead with | .no _ => .ill | .wait => .wait (.admits c.img 0) | .ok => place o))
      | _ => .ill

/-- COPYM (R206, R207): the fill counts in the transfer engine, and the follow-on is accepted with it. -/
def execCopym (n : BitVec 3) (k : BitVec 2) (h : BitVec 4) (a : BitVec 3) (side : Side) (e c : BitVec 3) (f : Bool) (s : State) : Out :=
  match s.planFill n.toNat k h a e side true f with
  | .trap t s => raise t s
  | .wait w => park w s
  | .ok fill s' =>
    match s'.planFollow (s.hart.getOX c) n.toNat with
    | .ill => raise trapIll s'
    | .wait w => park w s'
    | .none_ => forkOrWait s' fun s => finish 4 (s.forkFill { fill with args := fill.args ++ [s.hart.getOX c] })
    | .op o clks =>
      if 4 ≤ s'.tile.matrix.length then park .matrixPlace s'
      else if s'.tile.rampHolds s'.clk clks then holdForRamp clks s'
      else forkOrWait s' fun s => finish 4 ((s.forkFill { fill with args := fill.args ++ [s.hart.getOX c] }).acceptMatrix o)

/-! ## GATH, FILL and SELT (R208 to R210) -/

/-- GATH (R208). -/
def execGath (d h : BitVec 4) (a : BitVec 3) (ntf : Bool) (i : BitVec 4) (s : State) : Out :=
  let a0 := s.hart.getOX a
  let a1 := s.hart.getOX (a + 1)
  let a2 := s.hart.getOX (a + 2)
  let base := wordBits 39 0 a0
  let rb := wordBits 63 40 a0 * 16
  let do_ := wordBits 39 0 a1
  let n := wordBits 63 40 a1
  let io := wordBits 39 0 a2
  if wordBits 63 40 a2 ≠ 0 ∨ rb = 0 ∨ n = 0 then raise trapIll s
  else match s.gate h needRD .engineRead with
    | .trap t => raise t s
    | .wait w => park w s
    | .ok c =>
      match s.gate i needRD .engineRead with
      | .trap t => raise t s
      | .wait w => park w s
      | .ok x =>
        match s.gate d needWR .engineWrite with
        | .trap t => raise t s
        | .wait w => park w s
        | .ok e =>
          if base % 16 ≠ 0 then raise { cause := .algn, handle := some h } s
          else if do_ % 16 ≠ 0 then raise { cause := .algn, handle := some d } s
          else if io % 4 ≠ 0 then raise { cause := .algn, handle := some i } s
          else if e.rangeBad do_ (n * rb) then raise (trapCapv subLEN d) s
          else if x.len < io + 4 * n then raise (trapCapv subLEN i) s
          else if e.img = c.img ∨ e.img = x.img then raise (trapCapv subDEST d) s
          else forkOrWait s fun s =>
            let o := { s.newXfer (.gather rb n base io x.engineImg) ntf [s.handle d, s.handle h, s.handle i, a0, a1, a2] with
              src := some c.engineImg, srcHandle := h, legs := [mkLeg e d do_ (n * rb) (s.clk + s.xferClks s.tile.idx [c, x, e] (n * rb))] }
            finish 4 (s.forkXfer s.tile.idx o [c.engineImg, x.engineImg].eraseDups [e.img])

/-- FILL (R209). -/
def execFill (d : BitVec 4) (a : BitVec 2) (b : BitVec 5) (ntf : Bool) (s : State) : Out :=
  let a0 := s.hart.getOX (BitVec.ofNat 3 (2 * a.toNat))
  let p := s.hart.getOX (BitVec.ofNat 3 (2 * a.toNat + 1))
  let n := (s.x b).toNat
  let off := wordBits 39 0 a0
  if wordBits 63 40 a0 ≠ 0 then raise trapIll s
  else match s.gate d needWR .engineWrite with
    | .trap t => raise t s
    | .wait w => park w s
    | .ok e =>
      if n = 0 ∨ e.rangeBad off n then raise (trapCapv subLEN d) s
      else forkOrWait s fun s =>
        let o := { s.newXfer (.pattern p) ntf [s.handle d, a0, p, s.x b] with legs := [mkLeg e d off n (s.clk + s.xferClks s.tile.idx [e] n)] }
        finish 4 (s.forkXfer s.tile.idx o [] [e.img])

/-- Channels, with their dies, that hold a range of an HBM buffer (R320, R325). -/
def State.channelsOf (s : State) (c : CapRec) : Nat → Nat → Nat → List Nat
  | 0, _, _ => []
  | fuel + 1, off, n =>
    if n = 0 then []
    else
      let k := min n (256 - (c.base + off) % 256)
      let rest := s.channelsOf c fuel (off + k) (n - k)
      match s.physOf c off false with
      | .ok a => let ch := dieOfHbm a * 64 + channelOf a; if rest.contains ch then rest else ch :: rest
      | .error _ => rest

def isNan32 (c : Nat) : Bool := match fp32.decode c with | .nan _ _ _ _ => true | _ => false
/-- SELT (R210). -/
def execSelt (d h : BitVec 4) (a : BitVec 2) (abs ntf : Bool) (s : State) : Out :=
  let a0 := s.hart.getOX (BitVec.ofNat 3 (2 * a.toNat))
  let a1 := s.hart.getOX (BitVec.ofNat 3 (2 * a.toNat + 1))
  let off := wordBits 39 0 a0
  let n := wordBits 63 40 a0
  let theta := BitVec.ofNat 32 (wordBits 31 0 a1)
  match s.gate h needRD .engineRead with
  | .trap t => raise t s
  | .wait w => park w s
  | .ok c =>
    match s.gate d needWR .engineWrite with
    | .trap t => raise t s
    | .wait w => park w s
    | .ok e =>
      let es := if c.format = 0 then 4 else 2
      if c.level ≠ .hbm ∨ 2 < c.format.toNat then raise (trapCapv subKIND h) s
      else if isNan32 theta.toNat ∨ n = 0 ∨ wordBits 63 32 a1 ≠ 0 then raise trapIll s
      else if off % es ≠ 0 then raise { cause := .algn, handle := some h } s
      else if c.len < off + n * es then raise (trapCapv subLEN h) s
      else if e.len < 16 then raise (trapCapv subLEN d) s
      else if c.img = e.img then raise (trapCapv subDEST d) s
      else forkOrWait s fun s =>
        let due := s.clk + s.xferClks s.tile.idx [c, e] (n * es)
        let o := { s.newXfer (.select n theta abs) ntf [s.handle d, s.handle h, a0, a1] with
          src := some c.engineImg, srcHandle := h, srcOff := off, legs := [mkLeg e d 0 0 due], due := due
          units := s.channelsOf c (n * es) off (n * es) }
        finish 4 (s.forkXfer s.tile.idx o [c.engineImg] [e.img])

/-! ## SRINV and QAPP (R215, R219) -/

/-- SRINV (R215). -/
def execSrinv (h : BitVec 4) (a : BitVec 3) (s : State) : Out :=
  let w := s.hart.getOX a
  match s.checkHandle h needRD with
  | .error t => raise t s
  | .ok c =>
    let off := wordBits 39 0 w
    if off % 64 ≠ 0 then raise { cause := .algn, handle := some h } s
    else if wordBits 63 40 w ≠ 0 then raise trapIll s
    else if s.ownEntries then park .sbEmpty s
    else finish 4 (s.setTile { s.tile with cache := s.tile.cache.filter fun e => !(e.asid == s.task.asid && e.root == c.root && e.off == off) })
/-- SRINV.all (R215). -/
def execSrinvAll (s : State) : Out :=
  if s.ownEntries then park .sbEmpty s
  else finish 4 (s.setTile { s.tile with cache := s.tile.cache.filter fun e => e.asid != s.task.asid })

/-- A kind-0 packet with a valid handle field, or a capability message that CSEND did not write (R218, R219). -/
def packetHolds (p : List Word) : Bool :=
  (pkKind p == 0 && (List.range 4).any fun i => pf p (6 + i / 2) (32 * (i % 2) + 4) (32 * (i % 2) + 4) == 1) || (pkKind p == 3 && pf p 0 4 4 == 1)

/-- QAPP once its packet is read: the claim, then the thread that fills the entry. -/
def qappFrom (args : List Word) (d : BitVec 5) (q : Nat) (ntf : Bool) (p : List Word) (n : Nat) (s : State) : Out :=
  let w := s.queueWords q
  if !s.r5 p then raise (trapCapv subDEST) (s.reject (dieOf s.tile.idx) (srcTile s.tile.idx) p subDEST)
  else if pkAsid p ≠ s.task.asid ∨ !qValid w ∨ qAsid w ≠ s.task.asid ∨ packetHolds p then raise (trapCapv subDEST) s
  else forkOrWait s fun s =>
    let (ticket, s) := s.claim q
    finish 4 (((s.forkXfer s.tile.idx (s.newXfer (.append q ticket p) ntf args) [] []).setX d (BitVec.ofNat 64 ticket)).busy n)

/-- QAPP (R219). -/
def execQapp (d : BitVec 5) (h : BitVec 4) (a : BitVec 3) (b : BitVec 5) (f : Bool) (s : State) : Out :=
  let w := s.hart.getOX a
  let q := wordBits 13 0 w
  let off := s.x b
  if wordBits 63 14 w ≠ 0 then raise trapIll s
  else readRecord 4 h off (fun bs n s => qappFrom [w, s.handle h, off] d q f (packetWords bs) n s) s

/-! ## The bytes of a leg -/

/-- What stops an engine's read: the cause, the offset, and the buffer. -/
structure ReadStop where
  cause : Cause
  off : Nat
  img : Image

/-- Bytes of a record up to the first that cannot be read. -/
def State.readUpTo (s : State) (c : CapRec) : Nat → Nat → List Byte × Option ReadStop
  | 0, _ => ([], none)
  | n + 1, off =>
    match s.capByte c off with
    | .ok b => let (l, e) := s.readUpTo c n (off + 1); (b :: l, e)
    | .error t => ([], some ⟨t.cause, off, c.img⟩)
/-- A byte that a peer has answered. -/
def XferOp.fetched (o : XferOp) (index : Bool) (off : Nat) : Option Byte :=
  o.fetches.findSome? fun f => if f.index = index ∧ f.off ≤ off ∧ off < f.off + f.len then f.data.bind fun d => d[off - f.off]? else none
def XferOp.fetchedUpTo (o : XferOp) (index : Bool) : Nat → Nat → List Byte
  | 0, _ => []
  | n + 1, off => match o.fetched index off with | some b => b :: o.fetchedUpTo index n (off + 1) | none => []
/-- Bytes of the source or the index list, here or from a peer. -/
def State.opRead (s : State) (o : XferOp) (index : Bool) (img : Image) (n off : Nat) : List Byte × Option ReadStop :=
  match s.rec? img with
  | none => ([], some ⟨.revk, off, img⟩)
  | some c => if c.proxy.isSome then (o.fetchedUpTo index n off, none) else s.readUpTo c n off

/-- What a leg writes: the bytes up to the first error of a source, that error, and whether an index lay outside the source (R208). -/
structure LegData where
  bytes : List Byte
  stop : Option ReadStop
  bad : Bool

/-- Rows of a GATH in order (R208). -/
def State.gatherRows (s : State) (o : XferOp) (src idx : Image) (len rb base io : Nat) : Nat → Nat → LegData
  | 0, _ => ⟨[], none, false⟩
  | n + 1, t =>
    match s.opRead o true idx 4 (io + 4 * t) with
    | (_, some e) => ⟨[], some e, false⟩
    | (ib, none) =>
      let x := (BitVec.ofNat 32 (leValue ib)).toInt
      let zeros := List.replicate rb (0 : Byte)
      if x < 0 then let r := s.gatherRows o src idx len rb base io n (t + 1); { r with bytes := zeros ++ r.bytes }
      else if len < base + (x.toNat + 1) * rb then let r := s.gatherRows o src idx len rb base io n (t + 1); { r with bytes := zeros ++ r.bytes, bad := true }
      else match s.opRead o false src rb (base + x.toNat * rb) with
        | (row, some e) => ⟨row, some e, false⟩
        | (row, none) => let r := s.gatherRows o src idx len rb base io n (t + 1); { r with bytes := row ++ r.bytes }

/-- The FP32 code of an element of SELT, widened exactly (R210). -/
def widen32 (fmt c : Nat) : Nat :=
  match fmt with
  | 0 => c
  | 1 => c * 65536
  | _ => (match fp16.decode c with | .fin n m e => rne32 ⟨n, m, e, false⟩ | .inf n => fp32.infCode false n | .nan _ _ _ _ => canonicalNaN)
/-- Whether an element is selected. -/
def selected (theta : BitVec 32) (abs : Bool) (code : Nat) : Bool :=
  match fp32.decode code with
  | .nan _ _ _ _ => false
  | v =>
    let v := if abs then (match v with | .fin _ m e => .fin false m e | .inf _ => .inf false | v => v) else v
    fpLt (fp32.decode theta.toNat) v
/-- The result of a SELT: the header and the pairs that fit. -/
def selectBytes (fmt cap : Nat) (theta : BitVec 32) (abs : Bool) (codes : List Nat) : List Byte :=
  let hits := ((List.range codes.length).zip codes).filterMap fun x => let v := widen32 fmt x.2; if selected theta abs v then some (x.1, v) else none
  bytesOf 8 (hits.length + if cap < hits.length then 2 ^ 63 else 0) ++ ((hits.take cap).map fun x => bytesOf 8 (x.1 + x.2 * 2 ^ 32)).flatten

/-- The bytes of a leg (R203, R205, R208 to R210). -/
def State.legData (s : State) (o : XferOp) (l : Leg) : LegData :=
  let src := o.src.getD 0
  match o.kind with
  | .copy | .packet _ _ | .move => let (b, e) := s.opRead o false src l.len o.srcOff; ⟨b, e, false⟩
  | .pattern p => ⟨(List.range l.len).map fun i => BitVec.ofNat 8 (p.toNat / 2 ^ (8 * ((l.off + i) % 8))), none, false⟩
  | .gather rb n base io idx => s.gatherRows o src idx (match s.rec? src with | some c => c.len | none => 0) rb base io n 0
  | .select n theta abs =>
    (match s.rec? src, s.rec? l.dst with
    | some c, some d =>
      let es := if c.format = 0 then 4 else 2
      (match s.readUpTo c (n * es) o.srcOff with
      | (_, some e) => ⟨[], some e, false⟩
      | (b, none) =>
        ⟨selectBytes c.format.toNat ((d.len - 8) / 8) theta abs ((List.range n).map fun i => leValue ((b.drop (es * i)).take es)), none, false⟩)
    | _, _ => ⟨[], none, false⟩)
  | _ => ⟨[], none, false⟩

/-! ## Writing a leg (R198, R200) -/

/-- How a write to a destination on this device ends. -/
inductive WriteEnd where | done | stop (c : Cause) | again
deriving DecidableEq, Repr

/-- Bytes written to a record page by page, up to the first page without a mapping (R39), those for host memory posted; a shadow version that finds no page is tried again. -/
def State.legWrite (tile : Nat) (c : CapRec) (tid : Tid) (no : Nat) : Nat → Nat → List Byte → State → State × WriteEnd
  | 0, _, _, s => (s, .done)
  | fuel + 1, off, bs, s =>
    if bs.isEmpty then (s, .done)
    else
      let k := match c.level with | .tile | .cluster => bs.length | _ => min bs.length (65536 - (c.base + off) % 65536)
      match s.rawPhys c off true with
      | .error t => (s.noteRawWalk (dieOf tile) c off, .stop t.cause)
      | .ok a =>
        match s.shadowWrite c a with
        | none => (s, .again)
        | some (s, a) =>
          State.legWrite tile c tid no fuel (off + k) (bs.drop k) (if isHost a then s.postHost a (bs.take k) tid no else s.writeVia c.packable a (bs.take k))
/-- The bytes of an operation written to a record. -/
def State.writeBytes (s : State) (tile : Nat) (o : XferOp) (c : CapRec) (off : Nat) (bs : List Byte) : State × WriteEnd :=
  State.legWrite tile c o.tid o.no (bs.length / 65536 + 2) off bs s

/-- A flush behind posted writes is acknowledged: every posted write of their ports is performed (R251, R363). -/
def State.flushBehind (s : State) (posts : List Nat) : State :=
  (((s.hostWrites.filter fun w => posts.contains w.id).map (·.port)).eraseDups).foldl (fun (st : State) p => st.performPort p) s
/-- Posted writes with a number from one on. -/
def State.postsFrom (s : State) (first : Nat) : List Nat := (s.hostWrites.map (·.id)).filter fun k => decide (first ≤ k)

/-- Status codes of a completion record (R205). -/
def Cause.legStatus : Cause → Nat | .revk => 2 | .pflt => 3 | .merr => 4 | .lnke => 5 | _ => 2

/-- The destination's handle, where the task still holds one (R200): the one the operation named, or another that names the record now. -/
def State.legHandle (s : State) (o : XferOp) (l : Leg) : Option (BitVec 4) :=
  match s.taskAt? o.tid with
  | some t => if imgOf (t.getH l.handle) = l.dst then some l.handle else ((upTo 16).map (BitVec.ofNat 4)).find? fun h => imgOf (t.getH h) == l.dst
  | none => none

/-- A leg joins: its destination leaves FILLING, poisoned when it failed (R198, R200). -/
def State.endLeg (s : State) (tile id i : Nat) (status : Nat) : State :=
  match (s.tileAt tile).xfer? id with
  | none => s
  | some o =>
    match o.legs[i]? with
    | none => s
    | some l =>
      let s := s.setXfer tile { o with legs := o.legs.set i { l with status := some status } }
      let s := s.joinWrite l.dst
      if status = 0 then s else s.poison l.dst
/-- A leg that fails: its error is pending for the issuing stream (R102, R200). -/
def State.failLeg (s : State) (tile id i : Nat) (t : TrapInfo) : State :=
  match (s.tileAt tile).xfer? id with
  | none => s
  | some o =>
    match o.legs[i]? with
    | none => s
    | some l =>
      let h := s.legHandle o l
      (s.endLeg tile id i t.cause.legStatus).pend o.tid o.no { t with handle := h }

/-- A source error found by a leg: an uncorrectable error poisons the source and is logged (R40, R200). -/
def State.stopLeg (s : State) (tile id i : Nat) (e : ReadStop) : State :=
  match e.cause, s.rec? e.img, (s.tileAt tile).xfer? id with
  | .merr, some c, some o =>
    (match s.physOf c e.off false, o.legs[i]? with
    | .ok a, some l =>
      let h := s.legHandle o l
      (s.endLeg tile id i 4).engineMerr c.root a o.tid o.no h
    | _, _ => s.failLeg tile id i { cause := .merr })
  | cause, _, _ => s.failLeg tile id i { cause := cause }

/-- WRITEs of a leg to a peer, or one REDBLK for each 64 bytes of a sink (R372, R375). -/
def State.sendLeg (s : State) (tile : Nat) (o : XferOp) (i : Nat) (l : Leg) (c : CapRec) (bs : List Byte) : State :=
  match c.proxy with
  | none => s
  | some p =>
    let cut := if p.image = 0 then (List.range (l.len / 64)).map fun k => (l.off + 64 * k, 64) else readBlocks l.len l.off l.len
    cut.foldl (fun (st : State) (b : Nat × Nat) =>
      (st.sendSequenced p.dev (st.packetTo p.dev (if p.image = 0 then 10 else 0) c.asid c.version p.image b.1 0 ((bs.drop (b.1 - l.off)).take b.2))
        o.tid o.no l.handle (some (tile, o.id, 3 * i)) none).1) s

/-- Correctable errors that a leg finds in what it reads (R120, R223, R321). -/
def State.correctLeg (s : State) (o : XferOp) (l : Leg) : State :=
  let at_ (st : State) (img : Image) (off n : Nat) : State := match st.rec? img with | some c => st.correctBuf c off n | none => st
  let src := o.src.getD 0
  if s.ce.isEmpty then s
  else match o.kind with
    | .copy | .packet _ _ | .move => at_ s src o.srcOff l.len
    | .select n _ _ => at_ s src o.srcOff (n * (match s.rec? src with | some c => if c.format = 0 then 4 else 2 | none => 0))
    | .gather rb n base io idx =>
      (List.range n).foldl (fun (st : State) t =>
        let x := (BitVec.ofNat 32 (leValue (st.opRead o true idx 4 (io + 4 * t)).1)).toInt
        if x < 0 ∨ (match st.rec? src with | some c => c.len | none => 0) < base + (x.toNat + 1) * rb then st
        else at_ st src (base + x.toNat * rb) rb) (at_ s idx io (4 * n))
    | _ => s

/-- A leg whose bytes stand: it joins, and an index that lay outside the source is pending (R208). -/
def State.landLeg (s : State) (tile id i : Nat) (o : XferOp) (l : Leg) : State :=
  let h := s.legHandle o l
  let s := s.endLeg tile id i 0
  if l.bad then s.pend o.tid o.no (match h with | some k => trapCapv subLEN k | none => trapCapv subLEN) else s
/-- The source errors and the correctable errors that a leg's reading of the page tables and of storage leaves behind. -/
def State.noteRead (s : State) (tile : Nat) (o : XferOp) (l : Leg) (d : LegData) : State :=
  let s := s.correctLeg o l
  match d.stop with
  | some e => (match s.rec? e.img with | some c => (match s.physOf c e.off false with | .ok _ => s | .error _ => s.noteRawWalk (dieOf tile) c e.off) | none => s)
  | none => s

/-- One leg looked at: written and joined at its clock; sent, and joined when its packets are acknowledged; or posted, and joined when its flush is. -/
def State.joinLeg (s : State) (tile id i : Nat) : State :=
  match (s.tileAt tile).xfer? id with
  | none => s
  | some o =>
    match o.legs[i]? with
    | none => s
    | some l =>
      let posts := s.postsTo l
      if l.status.isSome ∨ s.clk < (if posts ∧ !l.sent then l.due - Config.latL5 else l.due) then s
      else match s.rec? l.dst with
        | none => s.failLeg tile id i { cause := .revk }
        | some c =>
          if l.sent then
            if posts then (s.flushBehind l.posts).landLeg tile id i o l
            else if l.len ≤ l.done then s.landLeg tile id i o l else s
          else
            let d := s.legData o l
            let s := s.noteRead tile o l d
            if c.proxy.isSome then
              match d.stop with
              | some e => s.stopLeg tile id i e
              | none =>
                let l := { l with sent := true, len := d.bytes.length, bad := d.bad }
                (s.setXfer tile { o with legs := o.legs.set i l }).sendLeg tile o i l c d.bytes
            else
              let first := s.nextId
              match s.writeBytes tile o c l.off d.bytes with
              | (s, .again) => s.schedule (s.clk + 1) (.transferJoin tile id)
              | (s, .stop cause) => s.failLeg tile id i { cause := cause }
              | (s, .done) =>
                match d.stop with
                | some e => s.stopLeg tile id i e
                | none =>
                  if posts then
                    let due := max l.due (s.clk + Config.latL5)
                    let l := { l with sent := true, due := due, bad := d.bad, posts := s.postsFrom first }
                    (s.setXfer tile { o with legs := o.legs.set i l }).schedule due (.transferJoin tile id)
                  else s.landLeg tile id i o { l with bad := d.bad }

/-! ## Join edges -/

/-- The completion record of a copy packet (R205). -/
def XferOp.completion (o : XferOp) : Word :=
  let st (i : Nat) : Nat := match o.legs[i]? with | some l => l.status.getD 0 | none => 6
  let ok (i : Nat) : Bool := match o.legs[i]? with | some l => l.status == some 0 | none => false
  BitVec.ofNat 64 (((upTo 4).map fun i => st i * 2 ^ (8 + 4 * i) + (if ok i then 2 ^ (4 + i) else 0)).foldl (· + ·) 15)

/-- What a copy packet leaves: its completion record in the packet, or in the entry of its ring (R205, R217); none while a shadow version of the packet's page finds no room. -/
def State.writeCompletion (s : State) (tile : Nat) (o : XferOp) : Option State :=
  match o.kind with
  | .packet (some (hp, off)) _ =>
    (match s.rec? hp with
    | none => some s
    | some c =>
      let first := s.nextId
      match s.writeBytes tile o c off (bytesOf 8 o.completion.toNat) with
      | (_, .again) => none
      | (s, .stop cause) => some (((s.joinWrite hp).poison hp).pend o.tid o.no { cause := cause })
      | (s, .done) => some ((s.flushBehind (s.postsFrom first)).joinWrite hp))
  | .packet none (some (q, ticket)) => some ((s.entryWord0 q ticket o.completion).wakeProducers q)
  | _ => some s

/-- The last join edge: sources leave DRAINING, the storage a move left is freed, the event is raised, and the engine's place is free (R198, R199, R203). -/
def State.finishXfer (s : State) (tile : Nat) (o : XferOp) : State :=
  match s.writeCompletion tile o with
  | none => s.schedule (s.clk + 1) (.transferJoin tile o.id)
  | some s =>
    let s := match o.kind, o.src with
      | .move, some i => (match s.rec? i with | some c => s.freeRoot c | none => s)
      | .gather _ _ _ _ idx, some i => [i, idx].eraseDups.foldl (fun (st : State) j => st.joinRead j) s
      | _, some i => s.joinRead i
      | _, none => s
    let s := s.modTile tile fun t => { t with xfers := t.xfers.filter fun x => x.id != o.id }
    (s.notifyTask o.tid o.ntf).settle o.tid

/-- Rows that a GATH still has to ask of the peer that holds its source, once its index list is here. -/
def State.askRows (s : State) (tile : Nat) (o : XferOp) : Option State :=
  match o.kind, o.src.bind s.rec? with
  | .gather rb n base io idx, some c =>
    if c.proxy.isNone ∨ o.fetches.any (fun f => !f.index) then none
    else
      let wanted := ((List.range n).map fun t => (BitVec.ofNat 32 (leValue (s.opRead o true idx 4 (io + 4 * t)).1)).toInt).filter fun x =>
        decide (0 ≤ x) && decide (base + (x.toNat + 1) * rb ≤ c.len)
      if wanted.isEmpty then none
      else
        let (s, o) := wanted.foldl (fun (a : State × XferOp) x => a.1.askPeer tile a.2 false c (base + x.toNat * rb) rb) (s, o)
        some (s.setXfer tile o)
  | _, _ => none

/-- An operation looked at, at a clock in which something of it may end. -/
def State.stepXfer (s : State) (tile id : Nat) : State :=
  match (s.tileAt tile).xfer? id with
  | none => s
  | some o =>
    if o.fetches.any (fun f => f.data.isNone) ∨ !o.units.isEmpty ∨ (o.legs.isEmpty ∧ s.clk < o.due) then s
    else match s.askRows tile o with
      | some s => s
      | none =>
        let s := (List.range o.legs.length).foldl (fun (st : State) i => st.joinLeg tile id i) s
        match (s.tileAt tile).xfer? id with
        | none => s
        | some o => if o.legs.all fun l => l.status.isSome then s.finishXfer tile o else s

/-- TRANSFER_JOIN (R198, R205). -/
def execTransferJoin (tile op : Nat) (s : State) : Out := .next (s.stepXfer tile op)

/-- SCAN_UNIT_LEG (R325): the unit of a channel has compared its last element. -/
def execScanUnitLeg (tile op channel : Nat) (s : State) : Out :=
  match (s.tileAt tile).xfer? op with
  | none => .next s
  | some o => .next ((s.setXfer tile { o with units := o.units.filter fun c => c != channel }).stepXfer tile op)

/-- Bytes of a leg that came before an error stand in a destination on this device (R200). -/
def State.writePrefix (s : State) (tile id i n : Nat) : State :=
  match (s.tileAt tile).xfer? id with
  | none => s
  | some o =>
    match o.legs[i]? with
    | none => s
    | some l =>
      match s.rec? l.dst with
      | none => s
      | some c => if c.proxy.isSome then s else (s.writeBytes tile o c l.off ((s.legData o l).bytes.take n)).1

/-- Bytes before the first that a peer has not answered. -/
def XferOp.answered (o : XferOp) (l : Leg) : Nat := (o.fetchedUpTo false l.len o.srcOff).length

/-- ENGINE_LEG_ERROR (R200): leg is three times the number of a destination, or that and 1 for a read of a peer, or that and 2 for a row of an operand fill. -/
def execEngineLegError (tile op leg done : Nat) (err : LegError) (s : State) : Out :=
  if leg % 3 = 2 then .next (s.schedule s.clk (.oldJoin tile op (some err)))
  else match (s.tileAt tile).xfer? op with
    | none => .next s
    | some o =>
      let hit : List Nat := (List.range o.legs.length).filter fun i =>
        (leg % 3 = 1 || i == leg / 3) && (match o.legs[i]? with | some l => l.status.isNone | none => false)
      let s := hit.foldl (fun (st : State) i =>
        let n := if leg % 3 = 1 then (match o.legs[i]? with | some l => o.answered l | none => 0) else done
        ((st.writePrefix tile op i n).failLeg tile op i (LegErrorTrap err none))) s
      let s := s.modTile tile fun t => { t with xfers := t.xfers.map fun (x : XferOp) => if x.id = op ∧ leg % 3 = 1 then { x with fetches := [] } else x }
      match (s.tileAt tile).xfer? op with
      | none => .next s
      | some o => .next (if o.legs.all fun l => l.status.isSome then s.finishXfer tile o else s)

/-- QAPP_ENTRY_WRITE (R217, R219): the thread of a claimed ticket fills its entry when it has room. -/
def execQappEntryWrite (tile op : Nat) (s : State) : Out :=
  match (s.tileAt tile).xfer? op with
  | none => .next s
  | some o =>
    match o.kind with
    | .append q ticket p => .next (if s.ringRoom q ticket then (s.fillEntry q ticket p).finishXfer tile o else s)
    | _ => .next s

end Sys2Proof.Machine
end

