-- ==== Sys2Proof/Machine/Cluster.lean ====
section
/-!
DEFINITION. Phase buffers, HALO and MBOX, barriers, and what arrives over the neighbour channels (R228 to R237).
-/
namespace Sys2Proof.Machine

open Sys2Proof

/-! ## HALO (R232) -/

/-- One-way latency of a HALO. -/
def haloLatency (a b : Nat) : Nat := if dieOf a = dieOf b then 12 else 300

/-- HALO (R232): the checks in the rule's order, the fork edge, and the park until the reply. -/
def execHalo (p h : BitVec 4) (a : BitVec 3) (r : Dir) (f : Bool) (s : State) : Out :=
  let w := s.hart.getOX a
  let so := wordBits 31 0 w
  let do_ := wordBits 47 32 w
  let n := wordBits 63 48 w
  if s.task.coord.isNone then raise trapIll s
  else match s.checkHandle h needRD with
    | .error t => raise t s
    | .ok c =>
      if c.kind = .commons ∨ !(c.level = .tile ∨ c.level = .cluster) then raise (trapCapv subKIND h) s
      else match s.admits c .engineRead with
        | .no sub => raise (trapCapv sub h) s
        | .wait => park (.admits c.img 0) s
        | .ok =>
          match s.checkHandle p needNone with
          | .error t => raise t s
          | .ok e =>
            if e.kind ≠ .phase then raise (trapCapv subKIND p) s
            else if so % 4 ≠ 0 ∨ do_ % 4 ≠ 0 ∨ n % 4 ≠ 0 then raise { cause := .algn, handle := some (if do_ % 4 ≠ 0 ∨ n % 4 ≠ 0 then p else h) } s
            else if n < 4 ∨ e.len / 4 < do_ + n then raise (trapCapv subLEN p) s
            else if c.len < so + n then raise (trapCapv subLEN h) s
            else match s.towards r with
              | none => raise (trapCapv subDEST p) s
              | some (l, nb) =>
                forkOrWait s fun s =>
                  let o := { s.newXfer (.halo ((l.tidAt nb).getD 0) (dirIx (dirOpposite r)).val p e.len none []) f [s.handle p, s.handle h, w] with
                    src := some c.engineImg, srcHandle := h, srcOff := so
                    legs := [{ dst := 0, handle := p, off := do_, len := n, due := 0, sent := false, done := 0, status := none }] }
                  let id := s.tile.xferNext
                  let s := (s.forkXfer s.tile.idx o [c.engineImg] []).schedule (s.clk + haloLatency s.tile.idx (l.tileOf nb)) (.haloReceive s.tile.idx id)
                  park (.halo id 0 p) s

/-- The stream that waits for the reply of a HALO. -/
def State.haloHart (s : State) (tile op : Nat) : Option Hart :=
  s.allHarts.find? fun h => h.tile == tile && (match h.wait with | some (.halo k _ _) => k == op | _ => false)

/-- What the receiver answers (R232): 0 accepts into a buffer, 1 OWNX, 2 DEST. -/
def State.haloAnswer (s : State) (receiver : Tid) (handle : BitVec 4) (len : Nat) : Nat × Option CapRec :=
  match s.taskAt? receiver with
  | none => (1, none)
  | some t =>
    if receiver = 0 then (1, none)
    else match s.rec? (imgOf (t.getH handle)) with
      | none => (2, none)
      | some c =>
        match c.phase with
        | none => (2, none)
        | some ph =>
          if t.getH handle = 0 then (2, none)
          else if ph.exited then (1, none)
          else if c.len ≠ len then (2, none)
          else (0, some c)

/-- The latency to the neighbour that a parked HALO deposits into: its place stands in the launch when its task has exited. -/
def State.haloAway (s : State) (tile op region : Nat) : Nat :=
  match (s.haloHart tile op).bind fun h => s.taskAt? h.tid with
  | none => 12
  | some t =>
    match s.launchAt? t.launch, t.coord with
    | some l, some rc =>
      (match l.neighbour (l.rel rc) (dirOpposite ([Dir.n, .e, .s, .w].getD region .n)) with
      | some nb => haloLatency tile (l.tileOf nb)
      | none => 12)
    | _, _ => 12

/-- HALO_RECEIVE (R232): a deposit is accepted into the buffer that the receiver's handle register names, whose version steps as for every engine write (R31), or refused. -/
def execHaloReceive (tile op : Nat) (s : State) : Out :=
  match (s.tileAt tile).xfer? op with
  | none => .next s
  | some o =>
    match o.kind with
    | .halo receiver region handle len _ _ =>
      let n := match o.legs with | l :: _ => l.len | [] => 0
      let lam := match s.taskAt? receiver with | some t => haloLatency tile t.tile | none => s.haloAway tile op region
      let (reply, c) := s.haloAnswer receiver handle len
      let s := match s.haloHart tile op with
        | some h => (s.putHart { h with wait := some (.halo op (reply + 1) handle) }).schedule (s.clk + lam) (.haloReply tile op)
        | none => s
      (match c with
      | some c =>
        let s := (s.bumpVersion c.img).modRec c.img fun r => { r with openDeposits := r.openDeposits + 1 }
        let legs := o.legs.map fun (l : Leg) => { l with dst := c.img }
        .next ((s.setXfer tile { o with kind := .halo receiver region handle len (some c.img) [], legs := legs }).schedule
          (s.clk + (n + 63) / 64) (.haloDepositJoin tile op))
      | none => .next (s.finishXfer tile { o with ntf := false }))
    | _ => .next s

/-- HALO_REPLY (R232): the slot is ready, or the instruction takes its precise trap. -/
def execHaloReply (tile op : Nat) (s : State) : Out :=
  match s.haloHart tile op with
  | none => .next s
  | some h =>
    match h.wait with
    | some (.halo _ 1 _) => .next (s.putHart { h.advance 4 with readyAt := s.clk + 1 })
    | some (.halo _ 2 hp) => .next (s.putHart { h with wait := none, met := none, remoteTrap := some (trapOwnx (some hp)), readyAt := s.clk + 1 })
    | some (.halo _ 3 hp) => .next (s.putHart { h with wait := none, met := none, remoteTrap := some (trapCapv subDEST hp), readyAt := s.clk + 1 })
    | _ => .next s

/-! ## Swaps (R230, R236) -/

/-- The banks exchanged, the counts cleared, one swap more. -/
def PhaseState.swap (p : PhaseState) : PhaseState :=
  { p with frontHigh := !p.frontHigh, counts := Vector.replicate 4 0, swaps := (p.swaps + 1) % 256 }
def State.swapPhase (s : State) (img : Image) : State := s.modRec img fun c => { c with phase := c.phase.map PhaseState.swap }

/-- A released arrival: every stream parked at its BARW completes in this clock, and the arrival is cleared; else it stays until BARW (R235, R237). -/
def State.releaseArrival (s : State) (tid : Tid) : State :=
  match s.taskAt? tid with
  | none => s
  | some t =>
    match (s.hartsOf tid).filter fun h => h.wait == some .barrier with
    | [] => s.putTask { t with openArrival := t.openArrival.map fun a => { a with released := true, swapping := false } }
    | hs => (hs.foldl (fun (st : State) h => st.putHart { h.advance 4 with readyAt := st.clk + 1 }) (s.putTask { t with openArrival := none })).stopDonating tid t.tile

/-- A member of a released generation: its buffer swaps, once it has no open deposit (R236). -/
def State.releaseMember (s : State) (tid : Tid) (img : Option Image) : State :=
  match img with
  | none => s.releaseArrival tid
  | some i =>
    match s.rec? i with
    | none => s.releaseArrival tid
    | some c =>
      if c.openDeposits = 0 then (s.swapPhase i).releaseArrival tid
      else s.modTask tid fun t => { t with openArrival := t.openArrival.map fun a => { a with swapping := true } }

/-- Swaps that waited for the last open deposit of a buffer. -/
def State.swapReady (s : State) (img : Image) : State :=
  match s.rec? img with
  | none => s
  | some c =>
    if c.openDeposits ≠ 0 then s
    else (s.allTasks.filter fun t => match t.openArrival with | some a => a.swapping && a.img == some img | none => false).foldl
      (fun (st : State) t => (st.swapPhase img).releaseArrival t.tid) s

/-! ## Deposits (R232) -/

/-- Bytes of a deposit that no later-accepted deposit has written. -/
def State.writeDeposit (s : State) (a off : Nat) (bs : List Byte) (skip : List (Nat × Nat)) : State :=
  if skip.isEmpty then s.writePhys a bs
  else ((List.range bs.length).zip bs).foldl (fun (st : State) x =>
    if skip.any fun r => decide (r.1 ≤ off + x.1 ∧ off + x.1 < r.1 + r.2) then st else st.writePhys (a + x.1) [x.2]) s

/-- A deposit counted in its region, saturating at 255 (R230). -/
def PhaseState.counted (region : Nat) (p : PhaseState) : PhaseState :=
  { p with counts := if h : region < 4 then p.counts.set region (min 255 (p.counts[region] + 1)) h else p.counts }
/-- An earlier-accepted deposit into the same region leaves a range to the later one that has joined. -/
def XferOp.skipping (img : Image) (region op : Nat) (r : Nat × Nat) (x : XferOp) : XferOp :=
  match x.kind with
  | .halo rc rg hd ln (some i) sk => if i = img ∧ rg = region ∧ x.id < op then { x with kind := .halo rc rg hd ln (some i) (sk ++ [r]) } else x
  | _ => x

/-- HALO_DEPOSIT_JOIN (R232): the bytes stand in the region of the back bank, the count steps, and the buffer has one open deposit less; the bytes of a deposit whose receiver has exited are discarded. -/
def execHaloDepositJoin (tile op : Nat) (s : State) : Out :=
  match (s.tileAt tile).xfer? op with
  | none => .next s
  | some o =>
    match o.kind, o.legs with
    | .halo _ region _ len (some img) skip, l :: _ =>
      let (bs, stop) := s.opRead o false (o.src.getD 0) l.len o.srcOff
      let s := match s.rec? (o.src.getD 0) with | some c => s.correctBuf c o.srcOff l.len | none => s
      let live := match s.rec? img with | some c => (match c.phase with | some ph => !ph.exited | none => false) | none => false
      let s := match s.rec? img with
        | some c =>
          if live ∧ stop.isNone then
            let a := c.base + c.backOff + region * (len / 4) + l.off
            let s := s.writeDeposit a l.off bs skip
            s.modRec img fun r => { r with phase := r.phase.map (PhaseState.counted region) }
          else s
        | none => s
      let s := s.modTile tile fun t => { t with xfers := t.xfers.map (XferOp.skipping img region op (l.off, l.len)) }
      let s := s.modRec img fun r => { r with openDeposits := r.openDeposits - 1 }
      let s := match stop with | some e => s.stopLeg tile op 0 e | none => s
      .next ((s.finishXfer tile o).swapReady img)
    | _, _ => .next s

/-! ## MBOX (R233) -/

def PhaseState.word (p : PhaseState) : Word :=
  BitVec.ofNat 64 (p.counts[0] + p.counts[1] * 2 ^ 8 + p.counts[2] * 2 ^ 16 + p.counts[3] * 2 ^ 24 + p.swaps * 2 ^ 32)

/-- The phase buffer of a handle (R24, R233). -/
def State.phaseRec (s : State) (h : BitVec 4) : Except TrapInfo (CapRec × PhaseState) :=
  match s.checkHandle h needNone with
  | .error t => .error t
  | .ok c => (match c.phase with | some p => .ok (c, p) | none => .error (trapCapv subKIND h))

/-- MBOX (R233). -/
def execMbox (h : BitVec 4) (d : BitVec 5) (s : State) : Out :=
  match s.phaseRec h with
  | .error t => raise t s
  | .ok (_, p) => finish 4 (s.setX d p.word)

/-- The count a word asks of a direction. -/
def wanted (w : Word) (d : Dir) : Nat := w.toNat / 2 ^ (8 * (dirIx d).val) % 256
/-- Directions whose count lies below what is asked. -/
def PhaseState.below (p : PhaseState) (w : Word) : List Dir := [Dir.n, .e, .s, .w].filter fun d => decide (p.counts[dirIx d] < wanted w d)
/-- Whether a MBOX.wait ends: every count is reached, or a neighbour that is still below has exited. -/
def PhaseState.ends (p : PhaseState) (t : Task) (w : Word) : Bool := (p.below w).isEmpty || (p.below w).any fun d => t.gone[dirIx d]

/-- MBOX.wait (R233). -/
def execMboxWait (h : BitVec 4) (b : BitVec 5) (s : State) : Out :=
  let w := s.x b
  if wordBits 63 32 w ≠ 0 then raise trapIll s
  else match s.phaseRec h with
    | .error t => raise t s
    | .ok (c, p) =>
      if [Dir.n, .e, .s, .w].any fun d => wanted w d != 0 && (s.towards d).isNone then raise (trapCapv subDEST h) s
      else if (p.below w).isEmpty then finish 4 s
      else if (p.below w).any fun d => s.task.gone[dirIx d] then raise (trapOwnx (some h)) s
      else park (.mbox c.img w) s

/-! ## Barriers (R234 to R237) -/

/-- The launch of a tile task with its own coordinate in it, where a barrier's exponents are legal (R234). -/
def State.barrierPlace (s : State) (b : BitVec 4) : Option (Launch × (Nat × Nat)) :=
  match s.launchAt? s.task.launch, s.task.coord with
  | some l, some rc => if b.toNat < 10 then some (l, l.rel rc) else none
  | _, _ => none

/-- An arrival at the current generation of a subgroup; the release it completes starts on its way (R235). -/
def State.arrive (s : State) (l : Launch) (rc : Nat × Nat) (a b : Nat) (img : Option Image) : State :=
  let g := subgroupOf a b rc
  let gen := match l.barriers.find? fun x => x.group == g with | some x => x.gen | none => 0
  let here : Tid × Option Image := (s.task.tid, img)
  let bars := if l.barriers.any fun x => x.group == g then
      l.barriers.map fun (x : Barrier) => if x.group = g then { x with arrived := x.arrived ++ [here] } else x
    else l.barriers ++ [(⟨g.a, g.b, g.row, g.col, 0, [here], false⟩ : Barrier)]
  let s := s.setTask { s.task with openArrival := some ⟨a, b, gen, img, false, false, some (s.hart.no, s.hart.pc)⟩ }
  (s.putLaunch { l with barriers := bars }).startReleases l.idx

/-- What BARW does (R235). -/
def awaitRelease (s : State) : Out :=
  match s.task.openArrival with
  | none => finish 4 s
  | some a => if a.released then finish 4 (s.setTask { s.task with openArrival := none }) else park .barrier (s.donate .barrier)

/-- The buffer that an arrival with .sw carries: an empty handle, or one whose record the task does not hold, raises CAPV KIND (R236). -/
def State.swapBuffer (s : State) (h : BitVec 4) : Except TrapInfo (Option Image) :=
  match s.phaseRec h with
  | .ok (c, _) => .ok (some c.img)
  | .error t => .error (if t.cause == .capv then trapCapv subKIND h else t)

/-- BARA and BAR (R235, R236): wait says whether BARW follows in the same clock. -/
def barrier (wait : Bool) (h : BitVec 4) (sw : Bool) (a : BitVec 3) (b : BitVec 4) (s : State) : Out :=
  match s.barrierPlace b with
  | none => raise trapIll s
  | some (l, rc) =>
    if !sw ∧ h ≠ 0 then raise trapIll s
    else if wait && (match s.task.openArrival with | some x => x.by_ == some (s.hart.no, s.hart.pc) | none => false) then awaitRelease s
    else match (if sw then s.swapBuffer h else .ok none) with
      | .error t => raise t s
      | .ok img =>
        if (match s.task.openArrival with | some x => !x.released | none => false) then park .arrival s
        else match s.releaseWait with
          | some (w, s) => park w s
          | none =>
            let s := s.arrive l rc a.toNat b.toNat img
            if wait then awaitRelease s
            else finish 4 (s.setTask { s.task with openArrival := s.task.openArrival.map fun x => { x with by_ := none } })

/-- BARA (R235). -/
def execBara (h : BitVec 4) (w : Bool) (a : BitVec 3) (b : BitVec 4) (s : State) : Out := barrier false h w a b s
/-- BARW (R235). -/
def execBarw (s : State) : Out := if (s.barrierPlace 0).isNone then raise trapIll s else awaitRelease s
/-- BAR (R235). -/
def execBar (h : BitVec 4) (w : Bool) (a : BitVec 3) (b : BitVec 4) (s : State) : Out := barrier true h w a b s

/-- BARRIER_RELEASE (R235, R236): the next generation opens, and the members that arrived are released. -/
def execBarrierRelease (li : Nat) (g : Subgroup) (s : State) : Out :=
  match s.launchAt? li with
  | none => .next s
  | some l =>
    match l.barriers.find? fun b => b.group == g && b.releasing with
    | none => .next s
    | some b =>
      let bars := l.barriers.map fun (x : Barrier) => if x.group = g then { x with gen := x.gen + 1, arrived := [], releasing := false } else x
      .next (b.arrived.foldl (fun (st : State) m => st.releaseMember m.1 m.2) (s.putLaunch { l with barriers := bars }))

/-! ## Channels (R228, R229) -/

/-- CHANNEL_WORD_ARRIVAL (R228). -/
def execChannelWordArrival (tid : Tid) (dir : Dir) (s : State) : Out :=
  .next (s.modTask tid fun t =>
    match t.arriving[dirIx dir] with
    | [] => t
    | (_, w) :: r => { t with arriving := t.arriving.set (dirIx dir) r, chan := t.chan.set (dirIx dir) (t.chan[dirIx dir] ++ [w]) })
/-- CHANNEL_CREDIT_RETURN (R228). -/
def execChannelCreditReturn (tid : Tid) (dir : Dir) (s : State) : Out :=
  .next (s.modTask tid fun t => { t with credits := t.credits.set (dirIx dir) (min 4 (t.credits[dirIx dir] + 1)) })
/-- NEIGHBOUR_EXITED_FLAG (R229). -/
def execNeighbourExitedFlag (tid : Tid) (dir : Dir) (s : State) : Out :=
  .next (s.modTask tid fun t => { t with gone := t.gone.set (dirIx dir) true })

end Sys2Proof.Machine
end

