-- ==== Sys2Proof/Machine/Control.lean ====
section
/-!
DEFINITION. Branches and jumps (R54, R55, R60, R80).
-/
namespace Sys2Proof.Machine

open Sys2Proof

/-- A branch of n bytes: to its target when the condition holds, else to the next instruction. -/
def branch {k : Nat} (n : Nat) (i : BitVec k) (c : Bool) (s : State) : Out := if c then jump (s.target i) s else finish n s

/-- BEQ (R80). -/
def execBeq (a b : BitVec 5) (i : BitVec 12) (s : State) : Out := branch 4 i (s.x a == s.x b) s
/-- BNE (R80). -/
def execBne (a b : BitVec 5) (i : BitVec 12) (s : State) : Out := branch 4 i (s.x a != s.x b) s
/-- BLT (R80), signed. -/
def execBlt (a b : BitVec 5) (i : BitVec 12) (s : State) : Out := branch 4 i ((s.x a).slt (s.x b)) s
/-- BGE (R80), signed. -/
def execBge (a b : BitVec 5) (i : BitVec 12) (s : State) : Out := branch 4 i (!(s.x a).slt (s.x b)) s
/-- BLTU (R80). -/
def execBltu (a b : BitVec 5) (i : BitVec 12) (s : State) : Out := branch 4 i ((s.x a).ult (s.x b)) s
/-- BGEU (R80). -/
def execBgeu (a b : BitVec 5) (i : BitVec 12) (s : State) : Out := branch 4 i (!(s.x a).ult (s.x b)) s
/-- C.BEQZ (R55), as BEQ xs, x0, label. -/
def execCBeqz (a : BitVec 5) (i : BitVec 6) (s : State) : Out := branch 2 i (s.x a == s.x 0) s
/-- C.BNEZ (R55), as BNE xs, x0, label. -/
def execCBnez (a : BitVec 5) (i : BitVec 6) (s : State) : Out := branch 2 i (s.x a != s.x 0) s
/-- JAL (R80). -/
def execJal (d : BitVec 5) (i : BitVec 20) (s : State) : Out := jump (s.target i) (s.setX d (s.hart.pc + 4))
/-- C.J (R55), as JAL x0, label. -/
def execCJ (i : BitVec 11) (s : State) : Out := jump (s.target i) (s.setX 0 (s.hart.pc + 4))
/-- JALR (R80): an odd target raises ALGN and x[d] is not written. -/
def execJalr (d a : BitVec 5) (i : BitVec 15) (s : State) : Out :=
  let t := s.x a + sx i
  if t.getLsbD 0 then raise { cause := .algn } s else jump t (s.setX d (s.hart.pc + 4))

end Sys2Proof.Machine
end

