-- ==== Sys2Proof/Machine/Recover.lean ====
section
/-!
DEFINITION. What a destination beyond recovery leaves at the sender (R36, R369, R370): packets dropped with LNKE, and transfers that stay in doubt or return.
-/
namespace Sys2Proof.Machine

open Sys2Proof

/-- The port that LNKE names: the one in use, else the lowest of the mask (R103). -/
def State.lnkePort (s : State) (dev : Nat) : Nat :=
  match s.peerPort dev with
  | some p => p
  | none => ((upTo 20).find? fun p => s.peerWord dev / 2 ^ 20 / 2 ^ p % 2 == 1).getD 0

def trapLnke (port : Nat) (h : Option (BitVec 4)) : TrapInfo := { cause := .lnke, detail := BitVec.ofNat 16 port, handle := h }

/-- A stream that a peer's answer or loss frees raises its trap at its next turn (R100, R372). -/
def State.failRemote (s : State) (tid : Tid) (no : Nat) (t : TrapInfo) : State :=
  s.modHart tid no fun h => { h with wait := none, met := none, remote := none, remoteTrap := some t, readyAt := s.clk + 1 }

/-- A dropped packet: its issuer is told (R369 step 1). -/
def State.dropSent (s : State) (dev : Nat) (x : Sent) : State :=
  let port := s.lnkePort dev
  match x.xfer with
  | some (tile, op, leg) =>
    let done := match (s.tileAt tile).xfers.find? fun o => o.id == op with | some o => (match o.legs[leg / 3]? with | some l => l.done | none => 0) | none => 0
    s.schedule s.clk (.engineLegError tile op leg (if leg % 3 = 0 then done else 0) (.lnke port))
  | none =>
    if x.packet.kind = 1 ∨ x.packet.kind = 3 then
      match s.hartAt? x.tid x.no with
      | some h => if h.wait = some (.peerReply dev x.packet.seq) then s.failRemote x.tid x.no (trapLnke port none) else s
      | none => s
    else s.pend x.tid x.no (trapLnke port (some x.handle))

/-- The payload words of a CAPXFER (R370). -/
def packetWord (p : Packet) (i : Nat) : Word := BitVec.ofNat 64 (leValue ((p.payload.drop (8 * i)).take 8))
/-- A record of a transfer leaves DRAINING at its sender (R36). -/
def State.undrain (s : State) (img : Image) : State :=
  let s := s.joinRead img
  s.modRec img fun c => { c with state := if c.state = .draining ∧ c.readers = 0 then .full else c.state }
/-- A transfer returns to its sender with status BOUNCE and, of a refusal, its status (R34, R36, R370); a DUP returns a new holder, which its count already includes, or, where the quire has no free record number for it, a message without a capability and a count that falls (log 96). -/
def State.returnXfer (s : State) (x : Sent) (nak : Nat) : State :=
  match x.cap with
  | none => s
  | some img =>
    let policy := wordBits 55 54 (packetWord x.packet 0)
    let m (cap : Option Nat) : Msg :=
      { cap := cap, p0 := packetWord x.packet 4, p1 := packetWord x.packet 5, sender := BitVec.ofNat 32 (wordBits 31 0 (packetWord x.packet 0)), asid := x.packet.asid }
    if policy = 3 then
      match s.rec? img, s.freeRecord (img / 2 ^ 20) with
      | some c, some n => (s.putRec { c with img := n, root := if c.proxy.isSome then n else c.root, owner := noOwner, fromLaunch := none, outer := [], grants := [], readers := 0, writers := 0, state := .full }).bounce (m (some n)) nak
      | some c, none => (s.dropHolder { c with img := 0, root := c.root }).bounce (m none) nak
      | none, _ => s.bounce (m none) nak
    else (s.undrain img).bounce (m (some img)) nak

/-- A destination beyond recovery (R369 steps 1 and 2). -/
def State.beyondRecovery (s : State) (dev : Nat) : State :=
  let l := s.linkAt dev
  let sent := l.unacked ++ l.waiting
  let all := sent ++ l.asked.filter fun a => !(sent.any fun x => x.packet.seq == a.packet.seq)
  let s := s.putLink { l with unacked := [], waiting := [], asked := [], doubt := l.doubt ++ all.filter fun x => x.cap.isSome, unansweredAt := none }
  (all.filter fun x => x.cap.isNone).foldl (fun (st : State) x => st.dropSent dev x) s

/-- A destination declared lost (R369 step 4): transfers return with BOUNCE, and the sequences restart at 1 under the new epoch. -/
def State.declareLost (s : State) (dev : Nat) : State :=
  let s := s.beyondRecovery dev
  let l := s.linkAt dev
  let s := s.putLink { Link.blank dev with window := l.window, epoch := s.peerEpochOf dev, lastHeard := l.lastHeard, peerEpoch := l.peerEpoch, arriving := l.arriving }
  l.doubt.foldl (fun (st : State) x => st.returnXfer x 0) s

end Sys2Proof.Machine
end

