-- ==== Sys2Proof/Machine/CtlSpace.lean ====
section
/-!
DEFINITION. The control space of the dies (R113, R116, R216, R277, R278, R327, R329, R330, R364, R374, R375): its map, reads, writes and refusals.
-/
namespace Sys2Proof.Machine

open Sys2Proof

/-! ## Reads (R278) -/

/-- ELSTAT as it reads (R329). -/
def Die.elstat (d : Die) : Word := BitVec.ofNat 64 (d.logNext.toNat * 2 ^ 32 + d.logOverflow * 64 + d.log.length)
/-- A word of a log entry (R329). -/
def LogEntry.word (e : LogEntry) (i : Nat) : Word :=
  match i with
  | 0 => BitVec.ofNat 64 (e.seq.toNat * 2 ^ 32 + e.cls * 2 ^ 24 + e.sub * 2 ^ 16 + e.src)
  | 1 => e.time | 2 => e.a | _ => e.b
/-- RAMPC of a core (R116). -/
def Tile.rampWord (t : Tile) : Word := BitVec.ofNat 64 (t.rampHeld * 256 + t.rampc.toNat % 256)
/-- A word of a launch-table entry (R278). -/
def Launch.tableWord (l : Launch) (i : Nat) : Word :=
  match i with
  | 0 => BitVec.ofNat 64 (2 ^ 63 + l.vector)
  | 1 => BitVec.ofNat 64 (l.replays * 256 + (if l.torus then 8 else 0) + (if l.ganged then 4 else 0) + (if l.test then 2 else 0) + (if l.replayable then 1 else 0))
  | 2 => BitVec.ofNat 64 ((pw l.packet 1).toNat % 2 ^ 33 / 2 ^ 16 * 2 ^ 16 + l.col * 2 ^ 7 + l.row)
  | _ => BitVec.ofNat 64 l.asid.toNat
/-- Whether a launch covers a tile of a die. -/
def Launch.onDie (l : Launch) (d : Nat) : Bool :=
  decide (l.row < d / 4 * 64 + 64 ∧ d / 4 * 64 < l.row + l.rows ∧ l.col < d % 4 * 80 + 80 ∧ d % 4 * 80 < l.col + l.cols)
/-- The tile of a core number of a die. -/
def tileOfCore (die n : Nat) : Nat := tileOfDie die (n / 80) (n % 80)
def assoc (l : List (Nat × Word)) (k : Nat) : Word := ((findBy (·.1) k l).map (·.2)).getD 0
/-- BQCFG words of a die that the map assigns (R278, R375). -/
def bqWords (die : Nat) : Nat := if die < 4 then 3 else 2

/-- What a control-space register reads as; an unassigned offset reads 0 (R278). -/
def State.ctlRead (s : State) (die off : Nat) : Word :=
  let d := s.dieAt die
  if off % 8 ≠ 0 then 0
  else if off = 0 then BitVec.ofNat 64 d.wdlim
  else if off = 0x8 then s.pcap
  else if off = 0x10 then d.hbmctl
  else if off = 0x18 then d.degr
  else if off = 0x20 then d.elstat
  else if off = 0x28 then s.hntcfg
  else if 0x30 ≤ off ∧ off < 0x30 + 8 * bqWords die then d.bqcfg.toArray.getD ((off - 0x30) / 8) 0
  else if off = 0x88 ∧ die = 0 then s.winres
  else if 0x100 ≤ off ∧ off < 0x180 then BitVec.ofNat 64 (d.ecnt.toArray.getD ((off - 0x100) / 8) 0)
  else if 0x1000 ≤ off ∧ off < 0x1800 then BitVec.ofNat 64 (((findBy (·.1) ((off - 0x1000) / 8) d.chanCnt).map (·.2)).getD 0)
  else if 0x2000 ≤ off ∧ off < 0x2400 then
    (match d.log.find? fun e => e.slot == (off - 0x2000) / 32 with | some e => e.word ((off - 0x2000) / 8 % 4) | none => 0)
  else if 0x10000 ≤ off ∧ off < 0x60000 then assoc d.shareNext ((off - 0x10000) / 8)
  else if 0x60000 ≤ off ∧ off < 0x6A000 then (s.tileAt (tileOfCore die ((off - 0x60000) / 8))).rampWord
  else if 0x70000 ≤ off ∧ off < 0x70800 then assoc s.peers ((off - 0x70000) / 8)
  else if 0x80000 ≤ off ∧ off < 0xA0000 then
    (match s.launches.find? fun l => l.tableIndex == (off - 0x80000) / 32 && l.onDie die with | some l => l.tableWord ((off - 0x80000) / 8 % 4) | none => 0)
  else if 0xA0000 ≤ off ∧ off < 0xB0000 then (s.queueWords (2048 * die + (off - 0xA0000) / 32)).toArray.getD ((off - 0xA0000) / 8 % 4) 0
  else if 0xC0000 ≤ off ∧ off < 0xE0000 then assoc s.asids ((off - 0xC0000) / 8)
  else 0

/-! ## Writes -/

/-- A refused write changes nothing and is logged in class 7 (R278). -/
def State.ctlRefuse (s : State) (die off : Nat) (v : Word) : State := s.log die 7 0 srcControl (BitVec.ofNat 64 off) v

/-- ELSTAT.clear (R328, R329). -/
def State.elstatWrite (s : State) (die : Nat) (v : Word) : State :=
  if wordBits 31 0 v ≠ 0 then s.ctlRefuse die 0x20 v else s.modDie die fun d => d.logClear s.tick (BitVec.ofNat 32 (wordBits 63 32 v))

/-- A share entry, effective at the start of the next share window (R113). -/
def State.shareWrite (s : State) (die off : Nat) (v : Word) : State :=
  if off % 8 ≠ 0 ∨ off < 0x10000 ∨ 0x60000 ≤ off ∨ wordBits 63 19 v ≠ 0 then s.ctlRefuse die off v
  else s.modDie die fun d => { d with shareNext := putBy (·.1) ((off - 0x10000) / 8, v) d.shareNext }

/-- A queue-table entry (R216): refused while the queue is valid and W ≠ RI; words 2 and 3 are not written here. -/
def State.queueWrite (s : State) (die off : Nat) (v : Word) : State :=
  let q := 2048 * die + (off - 0xA0000) / 32
  let i := (off - 0xA0000) / 8 % 4
  let w := s.queueWords q
  if off % 8 ≠ 0 ∨ off < 0xA0000 ∨ 0xB0000 ≤ off ∨ 2 ≤ i ∨ (qValid w ∧ qW w ≠ qRI w) then s.ctlRefuse die off v
  else if i = 0 then
    if wordBits 59 50 v ≠ 0 ∨ wordBits 31 0 v ≠ 0 then s.ctlRefuse die off v
    else
      let s := s.putQueue q (w.set 0 v)
      if qValid (s.queueWords q) ∧ qConsumer (s.queueWords q) ≠ 0 then s.schedule (s.clk + 1) (.queueConsume q) else s
  else if wordBits 63 23 v ≠ 0 then s.ctlRefuse die off v
  else s.putQueue q (w.set 1 v)

/-- A peer-table entry (R364); one that declares its destination lost carries its epoch incremented (R369). -/
def State.peerWrite (s : State) (die dev : Nat) (v : Word) : State :=
  if dev = 0 ∨ 254 < dev ∨ wordBits 62 56 v ≠ 0 ∨ wordBits 19 12 v ≠ 0 then s.ctlRefuse die (0x70000 + 8 * dev) v
  else
    let old := s.peerEpochOf dev
    let s := { s with peers := putBy (·.1) (dev, v) s.peers }
    if wordBits 55 40 v = (old + 1) % 65536 then s.declareLost dev else s

/-- Tiles on which a tenant has left something to clear (R195, R214, R35). -/
def Tile.holdsOf (t : Tile) (asid : Asid) : Bool :=
  (t.husks.any fun h => h.bound && h.asid == asid) || (t.cache.any fun e => e.asid == asid) || (t.inbox.any fun m => m.asid == asid)
/-- An ASID-table entry (R277); retiring an ASID clears it from every tile (R195). -/
def State.asidWrite (s : State) (die off : Nat) (v : Word) : State :=
  let a := (off - 0xC0000) / 8
  if wordBits 62 54 v ≠ 0 ∨ wordBits 15 0 v ≠ 0 then s.ctlRefuse die off v
  else
    let retired := s.asidLive (BitVec.ofNat 14 a) && !(v.toNat / 2 ^ 63 == 1)
    let s := { s with asids := putBy (·.1) (a, v) s.asids }
    if retired then (s.allTiles.filter fun t => t.holdsOf (BitVec.ofNat 14 a)).foldl (fun (st : State) t => st.schedule st.clk (.tileAsidClear t.idx (BitVec.ofNat 14 a))) s else s

/-- WINREQ (R278, R362): a window record in die 0's quire, reported in WINRES; the line of the seize control block is outside its range. -/
def State.winRequest (s : State) (die : Nat) (v : Word) : State :=
  if wordBits 62 46 v ≠ 0 ∨ wordBits 31 24 v ≠ 0 then s.ctlRefuse die 0x80 v
  else if wordBits 63 63 v = 0 then s
  else
    let asid := BitVec.ofNat 14 (wordBits 45 32 v)
    let n := wordBits 23 12 v + 1
    let first := wordBits 11 0 v
    let refused (st : State) : State := { st.ctlRefuse die 0x80 v with winres := 3 <<< 62 }
    if 4095 < first + n ∨ !s.asidLive asid then refused s
    else match s.freeRecord 0 with
      | none => refused s
      | some img =>
        let c := { CapRec.fresh img (windowBase + 64 * first) .cluster .commons (64 * n) asid noOwner with
          rights := ⟨false, true, true, true⟩, count := 0, window := true }
        { s.putRec c with winres := BitVec.ofNat 64 (2 ^ 63 + c.image) }
/-- WINFREE (R278): the window record is freed once its holder count is 0. -/
def State.winRelease (s : State) (die : Nat) (v : Word) : State :=
  match s.rec? (wordBits 22 0 v) with
  | some c =>
    if wordBits 63 28 v = 0 ∧ c.window ∧ isWindow c.base ∧ c.isRoot ∧ c.count = 0 ∧ c.launch.isNone ∧ c.image = v.toNat then s.dropRec c.img
    else s.ctlRefuse die 0x90 v
  | none => s.ctlRefuse die 0x90 v

def wdlimOk (v : Word) : Bool := decide (16 ≤ v.toNat ∧ v.toNat ≤ 32)
def pcapOk (v : Word) : Bool := decide (1000 ≤ v.toNat ∧ v.toNat ≤ 4500)
def hbmctlOk (v : Word) : Bool := wordBits 63 24 v == 0 && decide (wordBits 23 20 v ≤ 8 ∧ 100 ≤ wordBits 19 0 v ∧ wordBits 19 0 v ≤ 1000000)
def hntcfgOk (v : Word) : Bool :=
  decide (1 ≤ wordBits 63 56 v ∧ wordBits 63 56 v ≤ 254 ∧ 1 ≤ wordBits 55 48 v ∧ 1 ≤ wordBits 47 32 v ∧ 1 ≤ wordBits 31 16 v
    ∧ 10 ≤ wordBits 15 0 v ∧ wordBits 15 0 v ≤ 60000)

/-- A write of a control-space register (R277, R278): under its field map, or refused and logged. -/
def State.ctlWrite (s : State) (die off : Nat) (v : Word) : State :=
  if off % 8 ≠ 0 then s.ctlRefuse die off v
  else if off = 0 then (if wdlimOk v then s.modDie die fun d => { d with wdlim := v.toNat } else s.ctlRefuse die off v)
  else if off = 0x8 then (if pcapOk v then { s with pcap := v } else s.ctlRefuse die off v)
  else if off = 0x10 then (if hbmctlOk v then s.modDie die fun d => { d with hbmctl := v } else s.ctlRefuse die off v)
  else if off = 0x20 then s.elstatWrite die v
  else if off = 0x28 then (if hntcfgOk v then { s with hntcfg := v } else s.ctlRefuse die off v)
  else if 0x30 ≤ off ∧ off < 0x30 + 8 * bqWords die then
    (if wordBits 62 46 v ≠ 0 then s.ctlRefuse die off v
     else s.modDie die fun d => { d with bqcfg := if h : (off - 0x30) / 8 < 3 then d.bqcfg.set ((off - 0x30) / 8) v h else d.bqcfg })
  else if off = 0x80 ∧ die = 0 then s.winRequest die v
  else if off = 0x90 ∧ die = 0 then s.winRelease die v
  else if 0x10000 ≤ off ∧ off < 0x60000 then s.shareWrite die off v
  else if 0x60000 ≤ off ∧ off < 0x6A000 then
    (if wordBits 63 40 v ≠ 0 then s.ctlRefuse die off v
     else s.modTile (tileOfCore die ((off - 0x60000) / 8)) fun t => { t with rampHeld := 0, rampc := BitVec.ofNat 64 (wordBits 7 0 v) })
  else if 0x70000 ≤ off ∧ off < 0x70800 then s.peerWrite die ((off - 0x70000) / 8) v
  else if 0xA0000 ≤ off ∧ off < 0xB0000 then s.queueWrite die off v
  else if 0xC0000 ≤ off ∧ off < 0xE0000 then s.asidWrite die off v
  else s.ctlRefuse die off v

/-! ## Steps of the opcode table -/

/-- The register that CSWA selects (R278). -/
def State.cswDie (s : State) : Nat := wordBits 26 24 s.hart.cswa
def State.cswOff (s : State) : Nat := wordBits 23 0 s.hart.cswa
/-- The park of an access to CSWD: L2 to die-local tile (32, 40), or L3 for another die (R121, R278). -/
def State.cswLatency (s : State) : Nat :=
  let t := s.tile.idx
  if s.cswDie = dieOf t then 20 + 2 * s.steps t (tileOfDie (dieOf t) 32 40) else Config.latL3

/-- RDS of CSWD (R278). -/
def execCswdRead (d : BitVec 5) (s : State) : Out :=
  if s.hart.level = .u then raise trapIll s
  else finish 4 ((s.setX d (s.ctlRead s.cswDie s.cswOff)).busy s.cswLatency)
/-- WRS of CSWD (R278). -/
def execCswdWrite (b : BitVec 5) (s : State) : Out :=
  if s.hart.level = .u then raise trapIll s
  else finish 4 ((s.ctlWrite s.cswDie s.cswOff (s.x b)).busy s.cswLatency)
/-- What a host read of BAR0 brings (R278, R360): the register, in 8 bytes; of another size, nothing. -/
def State.barRead (s : State) (die off size : Nat) : Word := if size = 8 then s.ctlRead die off else 0
/-- An access of a control-space register from outside a slot (R277, R278): a write in 8 bytes is made, and a read changes nothing; either in another size is refused and logged. -/
def execControlSpaceWrite (die off : Nat) (acc : BarAccess) (s : State) : Out :=
  match acc with
  | .read n => .next (if n = 8 then s else s.ctlRefuse die off 0)
  | .write n v => .next (if n = 8 then s.ctlWrite die off v else s.ctlRefuse die off v)
/-- ELSTAT.clear (R328). -/
def execElstatClear (die : Nat) (v : Word) (s : State) : Out := .next (s.elstatWrite die v)
/-- WINREQ with go (R278). -/
def execWinreqGo (v : Word) (s : State) : Out := .next (s.winRequest 0 v)
/-- WINFREE (R278). -/
def execWinfree (v : Word) (s : State) : Out := .next (s.winRelease 0 v)
/-- A peer-table write (R364, R369). -/
def execPeerEpochWrite (dev : Nat) (v : Word) (s : State) : Out := .next (s.peerWrite 0 dev v)
/-- A share-table write (R113). -/
def execShareTableWrite (die off : Nat) (v : Word) (s : State) : Out := .next (s.shareWrite die off v)
/-- A queue-table write (R216). -/
def execQueueTableWrite (die off : Nat) (v : Word) (s : State) : Out := .next (s.queueWrite die off v)
/-- The invalidation of an ASID's translations (R38): the results of walks in flight are discarded, and it completes after them. -/
def execTranslationInvalidate (asid : BitVec 14) (s : State) : Out :=
  let busy := s.dies.any fun d => d.walks.any fun w => w.asid == asid
  if busy then
    let s := { s with dies := s.dies.map fun (d : Die) => { d with walks := d.walks.map fun (w : Walk) => if w.asid = asid then { w with discard := true } else w } }
    .next (s.schedule (s.clk + 1) (.translationInvalidate asid))
  else .next { s with clusters := s.clusters.map fun (c : Cluster) => { c with tc := c.tc.filter fun p => p.asid != asid } }

end Sys2Proof.Machine
end

