-- ==== Sys2Proof/Machine/Choice.lean ====
section
/-!
DEFINITION. The choice of a record for a slot (R112, R268, R269) and task identifiers (R12).
-/
namespace Sys2Proof.Machine

open Sys2Proof

/-- What a record is ranked by (R269): effective priority, deadline, entry clock and TID. -/
structure Rank where
  prio : Nat
  deadline : Nat
  clk : Nat
  tid : Nat
deriving DecidableEq, Repr

/-- A deadline of 0 sorts after every deadline. -/
def deadlineKey (w : Word) : Nat := if w = 0 then 2 ^ 64 else w.toNat
def Rank.above (a b : Rank) : Bool :=
  if a.prio ≠ b.prio then decide (b.prio < a.prio)
  else if a.deadline ≠ b.deadline then decide (a.deadline < b.deadline)
  else if a.clk ≠ b.clk then decide (a.clk < b.clk)
  else decide (a.tid < b.tid)
def Queued.rank (q : Queued) : Rank := ⟨q.item.effPrio, deadlineKey q.item.deadline, q.clk, q.item.tid.toNat⟩

/-- The records a slot may choose: those that are not offered, of the class QOWN names, else of any class (R112). -/
def Tile.eligible (t : Tile) (slot : Nat) : List Queued :=
  let all := (t.deque ++ t.spill).filter fun q => !q.offered
  let own := t.qown.toArray.getD slot 0x3FF
  if own = 0x3FF then all
  else
    let mine := all.filter fun q => q.item.cls.toNat == own
    if mine.isEmpty then all else mine
/-- The highest of a list of records. -/
def bestOf : List Queued → Option Queued
  | [] => none
  | q :: qs => match bestOf qs with | none => some q | some p => if q.rank.above p.rank then some q else some p

/-- Whether a record of the deque outranks the task in focus for its slot, as though its record entered now (R96). -/
def State.outranked (s : State) : Bool :=
  match bestOf (s.tile.eligible s.slot) with
  | none => false
  | some q => q.rank.above ⟨s.task.prio, deadlineKey s.task.deadline, s.clk, s.task.tid.toNat⟩

/-- The first number after n, of 1 to 65,535, that no live task holds. -/
def nextSequence : Nat → Nat → List Nat → Option Nat
  | 0, _, _ => none
  | fuel + 1, n, used =>
    let k := if 65535 ≤ n then 1 else n + 1
    if used.contains k then nextSequence fuel k used else some k
/-- A new TID of a tile, and the state with its last sequence number noted (R12). -/
def State.newTid (s : State) (tile : Nat) : Option (Tid × State) :=
  let used := ((s.allTasks.map fun t => t.tid.toNat).filter fun t => t / 65536 == tile).map fun t => t % 65536
  match nextSequence (used.length + 1) (s.tileAt tile).tidNext used with
  | none => none
  | some k => if used.contains k then none else some (BitVec.ofNat 32 (tile * 65536 + k), s.modTile tile fun t => { t with tidNext := k })

end Sys2Proof.Machine
end

