-- ==== Sys2Proof/Machine/TaskCtl.lean ====
section
/-!
DEFINITION. Task control: SPAWN, SPAWNAT, JOINW, YIELD, EXIT and WAKEAT (R8, R9, R14, R19, R93 to R98, R268, R272, R280).
-/
namespace Sys2Proof.Machine

open Sys2Proof

/-! ## SPAWN and SPAWNAT (R8, R9, R94) -/

/-- The handle fields of a written-form record: field index and handle number of each valid one (R8). -/
def handleFields (p : List Word) : List (Nat × Nat) :=
  (List.range 4).filterMap fun i =>
    let f := pf p (6 + i / 2) (32 * (i % 2) + 31) (32 * (i % 2))
    if f / 16 % 2 = 1 then some (i, f % 16) else none
/-- Reserved bits of the handle fields are zero. -/
def handleFieldsOk (p : List Word) : Bool := (List.range 4).all fun i => decide (pf p (6 + i / 2) (32 * (i % 2) + 31) (32 * (i % 2)) < 32)
/-- The launch's replayable bit. -/
def State.launchReplayable (s : State) : Bool := s.replayable s.task.launch

/-- The conditions of R8 and R94 on a written-form record. -/
def State.recordOk (s : State) (p : List Word) (at_ : Bool) : Bool :=
  let hs := handleFields p
  s.r5 p && pkKind p == 0 && pkAsid p == s.task.asid && decide (pkPrio p ≤ s.task.prioBase)
    && (pf p 0 47 47 == 1) == s.launchReplayable
    && pf p 1 63 48 == 0 && pf p 1 0 0 == 0 && decide (pf p 1 47 0 < s.codeLen) && pf p 4 63 32 == 0
    && handleFieldsOk p && hs.all (fun h => s.handle (BitVec.ofNat 4 h.2) != 0)
    && decide ((hs.map (·.2)).Nodup) && (!at_ || hs.any fun h => h.1 == 0)

/-- One handle of a record checked as CSEND.keep would (R9); a record held by the launch is copied (R25). -/
inductive Passed where | ok (c : CapRec) | wait (w : Wait) | trap (t : TrapInfo)
deriving DecidableEq, Repr
def State.passHandle (s : State) (h : BitVec 4) : Passed :=
  match s.checkHandle h needNone with
  | .error t => .trap t
  | .ok c =>
    if c.owner = launchOwner then .ok c
    else match s.checkHandle h needXFER with
      | .error t => .trap t
      | .ok c => (match s.admits c (.send 0) with | .no sub => .trap (trapCapv sub h) | .wait => .wait (.admits c.img 2) | .ok => .ok c)
/-- All handles of a record, in field order; the first failure decides. -/
def State.passAll (s : State) : List (Nat × Nat) → Passed × List (Nat × CapRec)
  | [] => (.wait .remote, [])
  | h :: hs =>
    match s.passHandle (BitVec.ofNat 4 h.2) with
    | .ok c => let (r, l) := s.passAll hs; (r, (h.1, c) :: l)
    | x => (x, [])

/-- The tile with the fewest QUEUED records of a list in ascending order (R94, R280). -/
def State.fewestQueued (s : State) (tiles : List Nat) : Nat :=
  let n (t : Nat) : Nat := (s.tileAt t).deque.length + (s.tileAt t).spill.length
  match tiles with | [] => 0 | t :: ts => ts.foldl (fun b x => if n x < n b then x else b) t
/-- The tiles of a cluster. -/
def clusterTiles (c : Nat) : List Nat := (List.range 16).map fun i => tileIx (c / 80 * 4 + i / 4) (c % 80 * 4 + i % 4)
/-- The tile a buffer sends a SPAWNAT to (R94, R280), or the trap; a flag-window record lies in no cluster, and names a free one of die 0 (log 19). -/
def State.ownerTile (s : State) (c : CapRec) : Except TrapInfo (Nat × State) :=
  match c.level with
  | .tile => .ok (c.base / 2 ^ 18, s)
  | .cluster =>
    if isWindow c.base ∨ isView c.base then
      let (w, s) := s.draw
      .ok (s.fewestQueued (clusterTiles (w.toNat % 16 * 80 + w.toNat / 16 % 20)), s)
    else .ok (s.fewestQueued (clusterTiles ((c.base - 2 ^ 40) / 2 ^ 22)), s)
  | .hbm =>
    (match s.walk c.asid c.base with
    | .page p =>
      (match p.phys c.base with
      | some a => if isHbm a then .ok (s.fewestQueued ((List.range 64).map fun r => tileOfDie (dieOfHbm a) r 79), s) else .error (trapCapv subRECD)
      | none => .error (trapCapv subRECD))
    | .noMap _ => .error { cause := .pflt }
    | .merr => .error { cause := .merr })
  | .host | .peer => .error (trapCapv subRECD)

/-- A malformed entry that the walk of a SPAWNAT's buffer met is logged (R279). -/
def State.noteOwnerWalk (s : State) (caps : List (Nat × CapRec)) : State :=
  match caps with
  | c :: _ => if c.2.level = .hbm then s.noteRawWalk (dieOf s.tile.idx) c.2 0 else s
  | [] => s

/-- The queued form of a record (R8), with what the device keeps beside it. -/
def State.queuedForm (s : State) (p : List Word) (tid : Tid) (pinned : Bool) (caps : List (Nat × CapRec)) (home : Nat) : TaskRec :=
  { tid := tid, flags := BitVec.ofNat 12 (pf p 0 15 4), asid := pkAsid p, cls := BitVec.ofNat 10 (pf p 0 31 22), prio := pkPrio p
    replayable := pf p 0 47 47 == 1, pinned := pinned || pf p 0 46 46 == 1, entry := pf p 1 47 0, deadline := pw p 2
    release := pw p 3, parent := s.task.tid, budget := BitVec.ofNat 32 (pf p 4 31 0), arg := pw p 5
    h := (List.range 4).map fun i => (match caps.find? fun c => c.1 == i with | some c => c.2.image | none => 0)
    fs := s.hart.fs.toList, launch := s.task.launch, coord := none, saved := false, home := home, donations := [] }
/-- Handles of a record in the task that runs it (R9, R11). -/
def placeHandles (l : List Nat) (h : Vector Word 16) : Vector Word 16 :=
  (List.range l.length).foldl (fun v i => if k : i < 16 then v.set i (BitVec.ofNat 64 (l.getD i 0)) k else v) h
/-- The capabilities of a record pass to the new task, the spawner's handles read zero (R9, R23); a launch-held record is copied (R25). -/
def State.moveHandles (s : State) (caps : List (Nat × CapRec)) (fields : List (Nat × Nat)) : State :=
  (caps.zip fields).foldl (fun (st : State) x =>
    if x.1.2.owner = launchOwner then st
    else (st.putRec { x.1.2 with owner := noOwner }).setHandle (BitVec.ofNat 4 x.2.2) 0) s

/-- The new task enters its deque or the wheel, its parent and launch count it (R13, R94). -/
def State.spawnTask (s : State) (r : TaskRec) (dest : Nat) (since : Option Nat) : State :=
  let s := s.admitRecord dest r since
  let s := s.modTask r.tid fun t => { t with h := placeHandles r.h t.h }
  s.modLaunch r.launch fun l => { l with spawned := l.spawned ++ [r.tid] }
/-- The clock in which a spawner that has been granted a place of a deque found it full (R382). -/
def Hart.grantSince (h : Hart) (tile : Nat) : Option Nat := match h.met with | some (.dequeRoom t c) => if t = tile then some c else none | _ => none
/-- The clock since which a spawner waits for a deque's place (R382). -/
def Hart.since (h : Hart) (clk : Nat) : Nat := match h.met with | some (.dequeRoom _ c) => c | _ => clk

/-- SPAWN and SPAWNAT once their record is read (R94); n is the latency of the read. A record that breaks R5 is logged with the index of the tile and the subcode RECD, which the spec does not say (log 95). -/
def spawnFrom (at_ : Bool) (d : BitVec 5) (p : List Word) (n : Nat) (s : State) : Out :=
  if !s.r5 p then raise (trapCapv subRECD) (s.reject (dieOf s.tile.idx) (srcTile s.tile.idx) p subRECD)
  else if !s.recordOk p at_ then raise (trapCapv subRECD) s
  else
    let fields := handleFields p
    match s.passAll fields with
    | (.trap t, _) => raise t s
    | (res, caps) =>
      if caps.length < fields.length then (match res with | .wait w => park w s | _ => finish 4 s)
      else
        match (if at_ then (match caps with | c :: _ => s.ownerTile c.2 | [] => .error (trapCapv subRECD)) else .ok (s.tile.idx, s)) with
        | .error t => raise t (s.noteOwnerWalk caps)
        | .ok (dest, s) =>
          let full := s.dequeFull dest && !s.hart.granted dest
          if full then park (.dequeRoom dest (s.hart.since s.clk)) s
          else if s.ptp < (pw p 3).toNat ∧ s.wheelFull (dieOf dest) then park (.wheelRoom (dieOf dest)) s
          else if pf p 0 5 5 = 0 ∧ 65535 ≤ s.task.join then park .joinRoom s
          else match s.releaseWait with
            | some (w, s) => park w s
            | none =>
              match s.newTid s.tile.idx with
              | none => park .tidRoom s
              | some (tid, s) =>
                let r := s.queuedForm p tid at_ caps dest
                let s := s.moveHandles caps fields
                let s := if pf p 0 5 5 = 0 then s.setTask { s.task with join := s.task.join + 1 } else s
                let since := s.hart.grantSince dest
                finish 4 (((s.setHart { s.hart with met := none }).spawnTask r dest since).setX d (tid.zeroExtend 64) |>.busy n)

/-- The record's read as a 64-byte load under R81 (R94), then the spawn. -/
def spawn (at_ : Bool) (d : BitVec 5) (h : BitVec 4) (b : BitVec 5) (s : State) : Out :=
  readRecord 4 h (s.x b) (fun bs n s => spawnFrom at_ d (packetWords bs) n s) s

/-- SPAWN (R94). -/
def execSpawn (d : BitVec 5) (h : BitVec 4) (b : BitVec 5) (s : State) : Out := spawn false d h b s
/-- SPAWNAT (R94). -/
def execSpawnat (d : BitVec 5) (h : BitVec 4) (b : BitVec 5) (s : State) : Out := spawn true d h b s

/-! ## JOINW, YIELD and WAKEAT (R95 to R97) -/

/-- JOINW (R95). -/
def execJoinw (s : State) : Out := if s.task.join = 0 then finish 4 s else leaveOrPark .joinZero s

/-- The task in focus leaves its slots after its instruction of n bytes: its record enters the deque or the wheel (R13, R14, R96, R97). -/
def State.depart (s : State) (n place : Nat) (release : Word) : State :=
  let s := (s.done n).saveContext place (if s.ptp < release.toNat then .timed else .queued)
  s.enqueue s.task.tile (s.task.record release)

/-- YIELD of n bytes (R96): the watchdog is cleared, a pending error is delivered, and a higher record takes the slot. -/
def yield (n : Nat) (s : State) : Out :=
  let s := s.setTask { s.task with watchdog := 0 }
  match s.task.pendErr with
  | some e => .next (s.deliver e)
  | none =>
    if s.alone && s.outranked then
      match s.saveWait with
      | some w => park w s
      | none => (match s.framePlace s.tile.idx with | some a => .next (s.depart n a 0) | none => finish n s)
    else finish n s
/-- YIELD (R96). -/
def execYield (s : State) : Out := yield 4 s
/-- C.YIELD (R55). -/
def execCYield (s : State) : Out := yield 2 s

/-- WAKEAT (R97, R272). -/
def execWakeat (a : BitVec 5) (s : State) : Out :=
  let t := s.x a
  if s.hart.met = some (.time t) then finish 4 s
  else if t.toNat ≤ s.ptp then yield 4 s
  else if s.alone then
    if s.wheelFull (dieOf s.tile.idx) then park (.wheelRoom (dieOf s.tile.idx)) s
    else match s.saveWait with
      | some w => park w s
      | none => (match s.framePlace s.tile.idx with | some p => .next (s.depart 4 p t) | none => park (.time t) s)
  else park (.time t) s

/-! ## EXIT (R16, R19, R98, R118) -/

def Cause.ofCode : Nat → Cause
  | 1 => .ill | 2 => .capv | 3 => .revk | 4 => .pflt | 5 => .algn | 6 => .budg | 7 => .wdog | 8 => .ownx
  | 9 => .mchk | 10 => .merr | 11 => .lnke | 12 => .seiz | 13 => .sysc | _ => .brkp

/-- A stream ends and its slot frees (R16); matrix results that are owed to the slot are still written there (R180). -/
def State.endStream (s : State) (h : Hart) : State :=
  let s := match h.slot with
    | some k => s.modTile h.tile fun t =>
        let t := if t.matrix.any fun o => o.tid == h.tid && o.no == h.no && o.slot == k then { t with ended := t.ended ++ [{ h with live := false, wait := none }] } else t
        if p : k < 8 then { t with freeAt := t.freeAt.set k s.clk p } else t
    | none => s
  s.putHart { h with live := false, slot := none, wait := none }
/-- The siblings of stream 0 stop at their boundaries, and the contents of the queue registers go (R16); ports of their posted writes are flushed by stream 0. -/
def State.endSiblings (s : State) : State :=
  let sibs := (s.hartsOf s.task.tid).filter fun h => h.no != s.hart.no
  let ready := sibs.filter Hart.atBoundary
  let s := ready.foldl (fun (st : State) h => st.abandonWait h) s
  let s := ready.foldl (fun (st : State) h =>
    let st := st.setHart { st.hart with posted := (st.hart.posted ++ h.posted).eraseDups }
    match st.hartAt? h.tid h.no with | some k => st.endStream k | none => st) s
  s.setTask { s.task with q := Vector.replicate 4 [], qv := Vector.replicate 4 [] }
/-- The flushes of the ports that a task's posted writes used start once its store buffer entries have drained (R251). -/
def State.flushTask (s : State) (tid : Tid) : State :=
  match s.taskAt? tid with
  | some t => if (s.tileAt t.tile).sb.any fun e => e.tid == tid then s else s.startFlush ((s.hartsOf tid).flatMap (·.posted))
  | none => s
/-- A task that has been terminated, or that EXIT ends, for which a flush is to be started or which can end (R19). -/
def State.pollEnding (s : State) : Option State :=
  s.allTasks.findSome? fun t =>
    if t.ending || t.exiting then
      let u := s.flushTask t.tid
      if u.flushWait ≠ s.flushWait then some u
      else if t.ending && s.taskQuiet t.tid t.tile then some (s.settle t.tid) else none
    else none

/-- EXIT of a sibling: a delivery point and a release (R16, R92, R102). -/
def exitSibling (s : State) : Out :=
  match s.task.pendErr with
  | some e => .next (s.deliver e)
  | none => (match s.releaseWait with | some (w, s) => park w s | none => .next (s.endStream s.hart))
/-- EXIT of stream 0 (R19): the siblings end, then the steps of the rule in order. -/
def exitTask (s : State) : Out :=
  let s := s.endSiblings.setTask { s.endSiblings.task with exiting := true }
  if !s.siblings.isEmpty then park .enginesDone s
  else if s.task.join ≠ 0 then leaveOrPark .joinZero s
  else if !s.taskQuiet s.task.tid s.task.tile then park .enginesDone (s.flushTask s.task.tid)
  else match s.task.pendErr with
    | some e => .next (s.deliver e)
    | none => .next (s.finishTask s.task false)
/-- EXIT (R98); at S it terminates the task in the column for termination after a trap (R118). -/
def execExit (s : State) : Out :=
  if s.hart.level = .s then .next (s.terminate s.task.tid (Cause.ofCode (wordBits 7 0 s.hart.errst)))
  else if s.hart.no ≠ 0 then exitSibling s
  else exitTask s

end Sys2Proof.Machine
end

