-- ==== Sys2Proof/Machine/Launching.lean ====
section
/-!
DEFINITION. The launch machinery and the other consumers of user queues: packets taken from rings, launches from acceptance to completion, replay, signals, spawn packets, capability messages, copy packets and queue views (R217, R218, R260 to R267, R276, R348 to R351).
-/
namespace Sys2Proof.Machine

open Sys2Proof

/-! ## The head of a ring (R216, R217) -/

/-- Packets are taken while the device runs (R281, R338). -/
def State.takesPackets (s : State) : Bool := s.seize.state == .running
/-- A launch is taken too while the device stands frozen or failed (R337). -/
def State.takesLaunches (s : State) : Bool :=
  match s.seize.state with | .running | .frozen | .failed => true | _ => false
/-- Whether a ticket is the one its consumer takes next: its entry is filled (R217). -/
def State.atHead (s : State) (q consumer ticket : Nat) : Bool :=
  let w := s.queueWords q
  qValid w && qConsumer w == consumer && ticket == qRI w && decide (ticket < qW w) && (s.ringAddr q ticket).isSome && !s.ringEmpty q ticket && !s.ringBad q ticket
/-- The consumer looks at its ring again in the next clock. -/
def State.lookLater (s : State) (q : Nat) : State :=
  if s.agenda.any fun e => e.2 == .queueConsume q && decide (s.clk < e.1) then s else s.schedule (s.clk + 1) (.queueConsume q)
/-- An entry consumed at once (R217). -/
def State.consume (s : State) (q ticket : Nat) : State := (s.entryWord0 q ticket (BitVec.allOnes 64)).stepRI q
/-- A packet rejected under R5 by the launch machinery: counted, logged with cause 1, and consumed. -/
def State.rejectAt (s : State) (q ticket : Nat) (p : List Word) : State := (s.reject (dieOfQueue q) srcLaunch p 1).consume q ticket

/-! ## The launch packet (R260 to R262) -/

def lpOrigin (p : List Word) : Nat × Nat := (pf p 1 6 0, pf p 1 15 7)
def lpRows (p : List Word) : Nat := pf p 1 23 16
def lpCols (p : List Word) : Nat := pf p 1 32 24
def lpPlace (p : List Word) : Bool := pf p 1 33 33 == 1
def lpBuffers (p : List Word) : Nat := pf p 1 36 34
def lpTable (p : List Word) : Nat := pf p 1 63 37 * 64
def lpGanged (p : List Word) : Bool := pf p 0 5 5 == 1
def lpTorus (p : List Word) : Bool := pf p 0 6 6 == 1
def lpCode (p : List Word) : Image := pf p 6 22 0
def lpParams (p : List Word) : Image := pf p 6 50 28

/-- The rules of R5 and R260 that no cause of R262 covers. -/
def State.launchWordsOk (s : State) (p : List Word) : Bool :=
  s.r5 p && pkKind p == 1 && pf p 0 46 46 == 0 && decide (lpBuffers p ≤ 4 ∧ 1 ≤ lpRows p ∧ 1 ≤ lpCols p)
    && pf p 2 63 48 == 0 && pf p 2 0 0 == 0 && pf p 5 63 52 == 0 && pf p 6 63 56 == 0 && pf p 7 63 48 == 0 && pf p 7 0 0 == 0

/-- Cause 2. -/
def geometryBad (p : List Word) : Bool :=
  let (r, c) := lpOrigin p
  (lpPlace p && pf p 1 15 0 != 0) || decide (128 < lpRows p ∨ 320 < lpCols p ∨ 319 < c ∨ 128 < r + lpRows p ∨ 320 < c + lpCols p)
/-- Cause 3. -/
def gangBad (p : List Word) : Bool :=
  let (r, c) := lpOrigin p
  lpGanged p && (r % 2 != 0 || c % 2 != 0 || lpRows p % 2 != 0 || lpCols p % 2 != 0)
/-- Cause 4. -/
def torusBad (p : List Word) : Bool :=
  let (r, c) := lpOrigin p
  lpTorus p && (r % 64 != 0 || c % 80 != 0 || lpRows p % 64 != 0 || lpCols p % 80 != 0)
/-- The record that the code or parameter-block image names: live, of the packet's ASID, with RD; other launches may hold it already (R262). -/
def State.launchRec (s : State) (p : List Word) (img : Image) : Option CapRec :=
  match s.rec? img with
  | some c => if c.asid = pkAsid p ∧ c.rights.rd ∧ !c.revoked then some c else none
  | none => none
/-- Cause 5. -/
def State.capsBad (s : State) (p : List Word) : Bool :=
  match s.launchRec p (lpCode p), s.launchRec p (lpParams p) with
  | some c, some _ => decide (c.len ≤ pf p 2 47 0 ∨ (pf p 7 47 0 ≠ 0 ∧ c.len ≤ pf p 7 47 0))
  | _, _ => true

/-- The records an entry of the buffer table names, or none where it breaks R261 or cannot be read. -/
def State.tableEntry (s : State) (c : CapRec) (off n : Nat) : Option (List Image) :=
  match s.recBytes c 32 off with
  | .error _ => none
  | .ok bs =>
    let w (i : Nat) : Nat := leValue ((bs.drop (8 * i)).take 8)
    if (upTo 4).all fun i => if i < n then decide (0 < w i ∧ w i < 2 ^ 28) else w i == 0 then some ((upTo n).map fun i => w i % 2 ^ 23) else none
/-- The whole table, one list for each tile task in row-major order. -/
def State.launchTable (s : State) (p : List Word) (c : CapRec) : Option (List (List Image)) :=
  let n := lpRows p * lpCols p
  if lpBuffers p = 0 then some (List.replicate n [])
  else if c.len < lpTable p + 32 * n then none
  else (List.range n).foldr (fun i acc => match acc, s.tableEntry c (lpTable p + 32 * i) (lpBuffers p) with | some l, some e => some (e :: l) | _, _ => none) (some [])
/-- What the reading of a packet's buffer table finds in storage (R40, R321). -/
def State.touchTable (s : State) (die : Nat) (p : List Word) : State :=
  match s.rec? (lpParams p) with
  | some c => if lpBuffers p = 0 ∨ c.len < lpTable p + 32 * (lpRows p * lpCols p) ∨ c.poisoned then s else s.touch die c (lpTable p) (32 * (lpRows p * lpCols p))
  | none => s
/-- Whether the records of a table are of the packet's ASID with XFER, and no EXCL or PHASE record stands in it twice (R262). -/
def State.tableOk (s : State) (p : List Word) (t : List (List Image)) : Bool :=
  let all := t.flatten
  let single := all.filter fun i => match s.rec? i with | some c => c.kind == .excl || c.kind == .phase | none => true
  (all.all fun i => match s.rec? i with | some c => c.asid == pkAsid p && c.rights.xfer && !c.revoked | none => false) && decide single.Nodup
/-- Cause 7. -/
def State.buffersBad (s : State) (p : List Word) : Bool :=
  match s.launchRec p (lpParams p) with
  | none => false
  | some c => decide (lpBuffers p ≤ 4) && (match s.launchTable p c with | some t => !s.tableOk p t | none => true)

/-- Whether a tile of a rectangle is fenced out: cause 6. -/
def State.fencedIn (s : State) (r c h w : Nat) : Bool :=
  s.config.fenced.any fun t => decide (r ≤ rowOf t ∧ rowOf t < r + h ∧ c ≤ colOf t ∧ colOf t < c + w)

/-- The cause with which a packet is refused before it is placed: the lowest cause of R262 that it meets, else 1 for a breach of R5 or R260 (R265). -/
def State.launchCause (s : State) (p : List Word) : Option Nat :=
  if geometryBad p then some 2
  else if gangBad p then some 3
  else if torusBad p then some 4
  else if s.capsBad p then some 5
  else if !lpPlace p ∧ s.fencedIn (lpOrigin p).1 (lpOrigin p).2 (lpRows p) (lpCols p) then some 6
  else if s.buffersBad p then some 7
  else if !s.launchWordsOk p then some 1
  else none

/-- The completion record of a launch (R265). -/
def launchRecord (terminated cause outcome : Nat) : Word := BitVec.ofNat 64 (terminated % 2 ^ 32 * 2 ^ 16 + cause * 2 ^ 8 + outcome * 16 + 15)
/-- A launch refused whole (R262, R265): logged in class 6 by the die of the queue, its completion record written, and the entry passed. -/
def State.refuseLaunch (s : State) (q ticket : Nat) (p : List Word) (cause : Nat) : State :=
  (((s.log (dieOfQueue q) 6 0 srcLaunch (pw p 0) (BitVec.ofNat 64 cause)).entryWord0 q ticket (launchRecord 0 cause 1)).stepRI q)

/-! ## Placement (R263 step 1, R276) -/

def Launch.overlaps (l : Launch) (r c h w : Nat) : Bool :=
  decide (l.row < r + h ∧ r < l.row + l.rows ∧ l.col < c + w ∧ c < l.col + l.cols)
/-- A torus launch admits no other onto its region until it has completed (R276). -/
def State.torusHeld (s : State) (r c h w : Nat) : Bool := s.launches.any fun l => l.torus && l.overlaps r c h w
/-- Whether a tile of a rectangle holds a task or record of a launch other than one. -/
def State.regionBusy (s : State) (but : Option Nat) (r c h w : Nat) : Bool :=
  s.allTasks.any fun t => some t.launch != but && decide (r ≤ rowOf t.tile ∧ rowOf t.tile < r + h ∧ c ≤ colOf t.tile ∧ colOf t.tile < c + w)
/-- The origin of a launch, or none while it has to wait. -/
def State.placeLaunch (s : State) (p : List Word) : Option (Nat × Nat) :=
  let h := lpRows p
  let w := lpCols p
  if lpPlace p then
    let (dr, dc) := if lpTorus p then (64, 80) else if lpGanged p then (2, 2) else (1, 1)
    (List.range ((128 - h) / dr + 1)).findSome? fun i => ((List.range ((320 - w) / dc + 1)).find? fun j =>
      !s.regionBusy none (i * dr) (j * dc) h w && !s.torusHeld (i * dr) (j * dc) h w).map fun j => (i * dr, j * dc)
  else if s.torusHeld (lpOrigin p).1 (lpOrigin p).2 h w then none else some (lpOrigin p)
/-- The lowest launch-table index that is free on every die of a rectangle (R263 step 4). -/
def State.launchIndex (s : State) (l : Launch) : Option Nat :=
  let used := (s.launches.filter fun k => (upTo 8).any fun d => k.onDie d && l.onDie d).map Launch.tableIndex
  match lowestFree (used.length + 1) 0 used with | some n => if n < 4096 then some n else none | none => none

/-! ## Acceptance (R25, R263, R348) -/

/-- A record held by a launch, or by one more (R262): RD only until completion (R25). -/
def CapRec.holdFor (c : CapRec) (li : Nat) : CapRec :=
  if c.heldBy li then c
  else if c.launch.isSome then { c with alsoHeld := c.alsoHeld ++ [li] }
  else { c with outer := (c.fromLaunch, c.lender) :: c.outer, lender := c.owner, owner := launchOwner, launch := some li, heldRights := c.rights, rights := ⟨false, false, false, true⟩ }
/-- A record that a launch takes from its owner for the time it runs, and gives to a task or keeps (R263, R264). -/
def CapRec.lendTo (c : CapRec) (li : Nat) (o : Tid) : CapRec :=
  if c.fromLaunch = some li then { c with owner := o }
  else { c with owner := o, outer := (c.fromLaunch, c.lender) :: c.outer, fromLaunch := some li, lender := c.owner }
/-- A buffer of the table given to a task: an EXCL, FRAC or PHASE record moves, of a COMMONS record the task receives a new holder record while the launch keeps the one named; none while the quire has no free record (R263 step 2). A FRAC record that the table names more than once, which R262 lets pass, moves each time, and the last keeps it (log 91). -/
def State.lendBuffer (s : State) (li : Nat) (tid : Tid) (img : Image) : Option (Nat × State) :=
  match s.rec? img with
  | none => none
  | some c =>
    if c.kind = .commons then
      match s.freeRecord (c.root / 2 ^ 20) with
      | none => none
      | some n =>
        let holder := { c with img := n, owner := tid, count := 0, fromLaunch := none, outer := [], launch := none, alsoHeld := [], lender := noOwner, grants := [], readers := 0, writers := 0 }
        let s := ((s.putRec (c.lendTo li launchOwner)).putRec holder).modRec c.root fun r => { r with count := r.count + 1 }
        some (holder.image, s)
    else some (c.image, s.putRec (c.lendTo li tid))
/-- The buffers of one task in order. -/
def State.lendAll (s : State) (li : Nat) (tid : Tid) : List Image → Option (List Nat × State)
  | [] => some ([], s)
  | i :: is =>
    match s.lendBuffer li tid i with
    | none => none
    | some (h, s) => (s.lendAll li tid is).map fun r => (h :: r.1, r.2)

/-- The launch's default formats (R260). -/
def lpFormats (p : List Word) : List Word := (upTo 4).map fun i => BitVec.ofNat 64 (pf p 5 (36 + 5 * i) (32 + 5 * i))
/-- The record of a tile task (R7, R11, R263 step 3). -/
def Launch.tileRecord (l : Launch) (tid : Tid) (r c : Nat) (h : List Nat) : TaskRec :=
  { tid := tid, flags := 0, asid := l.asid, cls := l.cls, prio := l.prio, replayable := l.replayable, pinned := true
    entry := pf l.packet 2 47 0, deadline := pw l.packet 3, release := pw l.packet 4, parent := 0
    budget := BitVec.ofNat 32 (pf l.packet 5 31 0), arg := 0, h := h, fs := lpFormats l.packet, launch := l.idx
    coord := some (r, c), saved := false, home := tileIx r c, donations := [] }
/-- The tile task of a relative coordinate is created with its handles: its buffers in h0 to h3, the parameter block in h15 (R11, R263). -/
def State.startTileTask (s : State) (li : Nat) (rc : Nat × Nat) (bufs : List Image) : Option State :=
  match s.launchAt? li with
  | none => none
  | some l =>
    let r := l.row + rc.1
    let c := l.col + rc.2
    match s.newTid (tileIx r c) with
    | none => none
    | some (tid, s) =>
      match s.lendAll li tid bufs with
      | none => none
      | some (h, s) =>
        let params := match s.rec? l.params with | some p => p.image | none => 0
        let s := s.admitRecord (tileIx r c) (l.tileRecord tid r c h)
        let s := s.modTask tid fun t => { t with h := (placeHandles h t.h).set 15 (BitVec.ofNat 64 params) }
        some (s.modLaunch li fun k => { k with members := k.members ++ [(r, c, tid)] })
/-- Every tile task of a launch, in row-major order. -/
def State.startTiles (s : State) (li cols : Nat) : Nat → List (List Image) → Option State
  | _, [] => some s
  | i, b :: bs => match s.startTileTask li (i / cols, i % cols) b with | none => none | some s => s.startTiles li cols (i + 1) bs

/-- What the origin die keeps of a buffer of a replayable launch: its record, and a copy of a tile-level or cluster-level one in HBM pages; none while it finds none (R348). -/
def State.snapOf (s : State) (l : Launch) (img : Image) : Option State :=
  match s.rec? img with
  | none => some s
  | some c =>
    let n := match c.level with | .tile | .cluster => storageSize c.level c.kind c.len | _ => 0
    let keep (st : State) (copy : Option (Nat × Nat)) : State := st.modLaunch l.idx fun k => { k with snapshot := k.snapshot ++ [⟨(st.rec? img).getD c, copy⟩] }
    if n = 0 then some (keep s none)
    else
      let size := storageSize .hbm .excl n
      match s.allocHbm (dieOf (tileIx l.row l.col)) size with
      | none => none
      | some a =>
        let s := s.correct c.base n
        let s := match s.ue.find? fun u => decide (c.base ≤ u ∧ u < c.base + n) with | some u => s.bufferError c.root u | none => s
        some (keep ((s.scrub a size).writePhys a (s.readPhys c.base n)) (some (a, size)))
/-- The snapshot of every buffer of a launch's table. -/
def State.snapAll (s : State) (l : Launch) : List Image → Option State
  | [] => some s
  | i :: is => match s.snapOf l i with | none => none | some s => s.snapAll l is

/-- The launch of a packet at an origin, before its index is chosen. -/
def mkLaunch (q ticket : Nat) (p : List Word) (r c : Nat) : Launch :=
  { idx := 0, queue := q, entry := ticket, packet := p, row := r, col := c, rows := lpRows p, cols := lpCols p, asid := pkAsid p
    cls := BitVec.ofNat 10 (pf p 0 31 22), prio := pkPrio p, code := lpCode p, params := lpParams p, vector := pf p 7 47 0
    replayable := pf p 0 47 47 == 1, test := pf p 0 4 4 == 1, ganged := lpGanged p, torus := lpTorus p, replays := 0, terminated := 0
    barriers := [], lines := [], snapshot := [], shadows := [], replayPending := false, created := [], members := [], gone := []
    spawned := [], stitch := if lpTorus p then 1 else 0 }

/-- A record goes back to the task it was taken from, while that lives, else to the one from which a launch before took it, else to none (R264). -/
def State.popLend (s : State) (c : CapRec) : List (Option Nat × Tid) → Tid → CapRec
  | [], t => { c with owner := if (s.taskAt? t).isSome then t else noOwner, fromLaunch := none, lender := noOwner, outer := [] }
  | (l, u) :: r, t => if (s.taskAt? t).isSome then { c with owner := t, fromLaunch := l, lender := u, outer := r } else s.popLend c r u
/-- The records a launch held or received return to the sender of its packet (R25, R264). -/
def State.returnRecords (s : State) (li : Nat) : State :=
  s.setQuire (s.quire.map fun c =>
    if c.launch = some li then
      (match c.alsoHeld with
      | [] => s.popLend { c with rights := c.heldRights, launch := none } c.outer c.lender
      | l :: r => { c with launch := some l, alsoHeld := r })
    else if c.alsoHeld.contains li then { c with alsoHeld := c.alsoHeld.filter fun l => l != li }
    else if c.fromLaunch = some li then
      if c.owner = launchOwner then s.popLend c c.outer c.lender
      else (match c.outer with | [] => { c with fromLaunch := none, lender := noOwner } | (l, u) :: r => { c with fromLaunch := l, lender := u, outer := r })
    else c)

/-- What reaches the device from outside its tasks, or from the machinery of the package: it goes on whatever a seize has done to the work (R337, R344). -/
def Event.external : Event → Bool
  | .controlSpaceWrite _ _ _ | .elstatClear _ _ | .winreqGo _ | .winfree _ | .peerEpochWrite _ _ | .shareTableWrite _ _ _ | .queueTableWrite _ _ _
  | .translationInvalidate _ | .seize | .resumeFromImage | .thaw | .reset | .configBlockLoad _ _ | .hostConsume _ _ | .ptpStep _ | .ptpLockLost _
  | .hbmRecalibration _ _ | .alertBackoff _ _ _ | .powerMeasurement _ _ _ | .thermalReading _ _ | .ageingMonitorRead _
  | .meshFlitCrcError _ _ | .meshLinkFailure _ _ _ | .portRetrain _ _ | .portFailure _ | .hostHntWrite _ _ _ | .hpkstRead _ | .hostTicketClaim _
  | .hostRingWrite _ _ _ | .hostWindowAccess _ _ | .birsp _ _ | .write _ | .read _ | .rdresp _ | .atomic _ | .atresp _ | .capxfer _ | .ack _ | .nak _
  | .revoke _ | .wrenq _ | .redblk _ _ | .resync _ | .frz _ | .getVersion _ | .getCapabilities _ | .negotiateAlgorithms _ | .getCertificate _
  | .challenge _ _ | .getMeasurements _ _ | .queueViewCreate _ _ | .sinkCreate _ _ _ _ => true
  | _ => false
/-- What a seize leaves pending for the device itself: inputs, and steps of the clock that were decided while it was seized (R335). -/
def Event.outlives : Event → Bool
  | .clockStepChange _ _ => true
  | e => e.external
/-- The seized state that a launch accepted on a frozen or failed device displaces: every task, stream, launch and transfer of it, with what they held (R337; log 21). -/
def State.dropSeized (s : State) : State :=
  if s.seize.state = .running then s
  else
    let s := s.launches.foldl (fun (st : State) l => st.returnRecords l.idx) s
    let s := s.allTasks.foldl (fun (st : State) t => (st.holdings t).foldl (fun (x : State) i => x.dispose i false) st) s
    { s with hart := Hart.blank, task := Task.blank, tile := Tile.blank 0, harts := [], tasks := [], tiles := [], launches := []
             agenda := s.agenda.filter fun e => e.2.outlives
             transits := [], dies := s.dies.map fun (d : Die) => { d with walkQ := [], walks := [], wheel := [], wheelWait := [], calendars := [], blocks := [] }
             clusters := s.clusters.map fun (c : Cluster) => { c with misses := [] }
             seize := { s.seize with state := .running, stale := true } }

/-- A launch accepted at an origin under an index, or none while a TID or a record is missing. A torus launch starts its tasks once its region is re-stitched (R276). -/
def State.acceptLaunch (s : State) (l : Launch) : Option State :=
  match s.rec? l.code, s.rec? l.params with
  | some _, some pc =>
    match s.launchTable l.packet pc with
    | none => none
    | some t =>
      match (if l.replayable then (s.putLaunch l).snapAll l t.flatten.eraseDups else some (s.putLaunch l)) with
      | none => none
      | some s =>
      let s := (s.modRec l.code fun c => c.holdFor l.idx).modRec l.params fun c => c.holdFor l.idx
      if l.torus then some (s.schedule (s.clk + 1) (.torusRestitch l.idx)) else s.startTiles l.idx l.cols 0 t
  | _, _ => none

/-- LAUNCH (R263): the packet of a ticket is refused, accepted, or stays at the head of its queue. -/
def execLaunch (q idx : Nat) (s : State) : Out :=
  if !s.takesLaunches || !s.atHead q 1 idx then .next s
  else
    let p := s.ringEntry q idx
    let s := s.touchTable (dieOfQueue q) p
    let k := s.dropSeized
    if pkKind p ≠ 1 then .next s
    else match k.launchCause p with
      | some cause => .next (s.refuseLaunch q idx p cause)
      | none =>
        match (if s.configGood then k.placeLaunch p else none) with
        | none => .next (s.lookLater q)
        | some (r, c) =>
          if s.fencedIn r c (lpRows p) (lpCols p) then .next (s.refuseLaunch q idx p 6)
          else
            let l := mkLaunch q idx p r c
            match k.launchIndex l with
            | none => .next (s.lookLater q)
            | some n =>
              match k.acceptLaunch { l with idx := n + 4096 * dieOf (tileIx r c) } with
              | none => .next (s.lookLater q)
              | some s => .next (s.stepRI q)

/-- TORUS_RESTITCH (R276): the launch waits until no other stands on its region, the region is re-stitched in 20 µs, and the tasks start. -/
def execTorusRestitch (l : Nat) (s : State) : Out :=
  match s.launchAt? l with
  | none => .next s
  | some k =>
    if k.stitch = 1 then
      if s.regionBusy (some l) k.row k.col k.rows k.cols then .next (s.schedule (s.clk + 1) (.torusRestitch l))
      else .next ((s.putLaunch { k with stitch := 2 }).schedule (s.clk + 48000) (.torusRestitch l))
    else if k.stitch = 2 then
      match s.rec? k.params with
      | none => .next s
      | some pc =>
        match (s.launchTable k.packet pc).bind ((s.putLaunch { k with stitch := 3 }).startTiles l k.cols 0) with
        | some s => .next s
        | none => .next (s.schedule (s.clk + 1) (.torusRestitch l))
    else .next s

/-! ## Completion (R264, R265, R351) -/

/-- A page takes the contents of its shadow version. -/
def State.replacePage (s : State) (page copy : Nat) : State := (s.copyRange copy page (2 ^ 16)).scrub copy (2 ^ 16)
/-- A shadow version discarded. -/
def State.dropShadow (s : State) (copy : Nat) : State := s.scrub copy (2 ^ 16)

/-- A launch leaves its table: its completion record is written last (R265, R351). -/
def State.closeLaunch (s : State) (l : Launch) (outcome : Nat) : State :=
  let s := (l.snapshot.filterMap (·.copy)).foldl (fun (st : State) r => st.scrub r.1 r.2) (s.returnRecords l.idx)
  let s := { s with launches := dropBy Launch.idx l.idx s.launches }
  (s.entryWord0 l.queue l.entry (launchRecord l.terminated 0 outcome)).wakeProducers l.queue
/-- LAUNCH_COMPLETE (R264, R351): every task of the launch has ended. -/
def execLaunchComplete (l : Nat) (s : State) : Out :=
  match s.launchAt? l with
  | none => .next s
  | some k =>
    if !k.members.isEmpty ∨ !k.spawned.isEmpty ∨ k.replayPending ∨ k.stitch = 1 ∨ k.stitch = 2 then .next s
    else
      let s := k.shadows.foldl (fun (st : State) sh => st.replacePage sh.page sh.copy) s
      .next (s.closeLaunch k (if k.terminated = 0 then 0 else 3))

/-! ## Replay (R348 to R352) -/

/-- The tasks of a launch. -/
def State.tasksOf (s : State) (li : Nat) : List Task := s.allTasks.filter fun t => t.launch == li
/-- The records of a task taken out of every deque and of the wheel. -/
def State.unqueue (s : State) (tid : Tid) : State :=
  let s := { s with dies := s.dies.map fun (d : Die) => { d with wheel := d.wheel.filter fun w => w.item.tid != tid, wheelWait := d.wheelWait.filter fun w => w.tid != tid } }
  s.allTiles.foldl (fun (st : State) t =>
    let st := match (t.deque ++ t.spill).find? fun q => q.item.tid == tid with | some q => st.takeRecord t.idx q | none => st
    if t.waiting.any fun w => w.item.tid == tid then st.modTile t.idx fun k => { k with waiting := k.waiting.filter fun w => w.item.tid != tid } else st) s
/-- A task of a launch that stops for a replay: its streams are at their boundaries and issue no more. -/
def State.stopForReplay (s : State) (t : Task) : State :=
  let s := s.unqueue t.tid
  let s := (s.hartsOf t.tid).foldl (fun (st : State) h => if h.atBoundary then st.abandonWait h else st) s
  s.putTask { t with state := .trapped, handler := none }
/-- A task of a launch removed for a replay: what it holds that neither it nor the launch made is disposed of, its slots and engines are freed. -/
def State.removeTask (s : State) (l : Launch) (t : Task) : State :=
  let keep (i : Image) : Bool := (match s.rec? i with | some c => l.created.contains c.root || l.snapshot.any (fun b => b.cap.root == c.root) || c.heldBy l.idx | none => true)
  let s := ((s.holdings t).filter fun i => !keep i).foldl (fun (st : State) i => st.dispose i true) s
  let back := s.transits.filter fun x => x.toTid == t.tid && !(match x.msg.cap with | some i => keep i | none => true)
  let s := back.foldl (fun (st : State) x => st.bounce x.msg) s
  let s := { s with tile := s.tile.releaseOperands t.tid, tiles := s.tiles.map fun (k : Tile) => k.releaseOperands t.tid
                    dies := s.dies.map fun (d : Die) => d.endParts t.tid, transits := s.transits.filter fun x => x.toTid != t.tid }
  let s := (s.hartsOf t.tid).foldl (fun (st : State) h => st.endStream h) s
  (s.putTask { t with state := .exited, frame := [], h := Vector.replicate 16 0, inbox := [], returns := [], pendErr := none }).endDonations t.tid
/-- Buffers that the tasks of a launch created are freed, with every record of them (R350 step 2). -/
def State.freeCreated (s : State) (roots : List Image) : State :=
  roots.foldl (fun (st : State) i => match st.rec? i with | some c => if c.isRoot then st.freeRoot c else st.dropRec i | none => st) s
/-- A record of the snapshot restored with its bytes (R350 step 2): what the tasks of the abandoned run made of it goes, the fractions of a buffer and, of a commons buffer, the records that they hold, whose count falls with them; other holders keep theirs. -/
def State.restoreBuffer (s : State) (li : Nat) (mine : List Tid) (b : SnapBuffer) : State :=
  let c := b.cap
  let gone := s.quire.filter fun r => r.root == c.root && r.img != c.root && r.img != c.img && (c.kind != .commons || mine.contains r.owner)
  let s := gone.foldl (fun (st : State) r => st.dropRec r.img) s
  let bad := match b.copy with | some (a, size) => s.hasUE a size | none => false
  let s := match b.copy with
    | none => s
    | some (a, _) =>
      let n := storageSize c.level c.kind c.len
      let bytes := s.readPhys a n
      let s := ((s.correct a n).scrub c.base n).writePhys c.base bytes
      if bad then s.bufferError c.root a else s
  let s := s.dropStores c.root
  if c.isRoot then
    let now := (s.rec? c.img).getD c
    s.putRec { c.lendTo li launchOwner with
      version := now.version, revVersion := now.revVersion, poisoned := c.poisoned || bad
      count := if c.kind = .commons then now.count - gone.length else c.count, grants := if c.kind = .commons then now.grants else c.grants }
  else (s.putRec (c.lendTo li launchOwner)).modRec c.root fun r => { r with count := r.count - gone.length }
/-- The packet of a launch whose snapshot is restored is accepted again at its origin, when its tasks find their records (R350 step 3). -/
def State.reaccept (s : State) (k : Launch) : State :=
  let started := match s.rec? k.params with
    | none => none
    | some pc => (s.launchTable k.packet pc).bind ((s.putLaunch { k with replayPending := false, restored := false }).startTiles k.idx k.cols 0)
  match started with
  | some s => s
  | none => (s.putLaunch { k with restored := true }).schedule (s.clk + 1) (.replay k.idx)

/-- REPLAY (R350): the tasks stop and their operations end; then shadows and created buffers go, the snapshot is restored with its next versions, and the packet is accepted again at its origin, or, for the third time, the launch ends with outcome 2. -/
def execReplay (l : Nat) (s : State) : Out :=
  match s.launchAt? l with
  | none => .next s
  | some k =>
    if !k.replayPending then .next s
    else if k.restored then .next (s.reaccept k)
    else
      let s := (s.tasksOf l).foldl (fun (st : State) t => st.flushTask t.tid) ((s.tasksOf l).foldl (fun (st : State) t => st.stopForReplay t) s)
      let tasks := s.tasksOf l
      if !tasks.all fun t => s.taskQuiet t.tid t.tile && (s.hartsOf t.tid).all Hart.atBoundary then .next (s.schedule (s.clk + 1) (.replay l))
      else
        let s := tasks.foldl (fun (st : State) t => st.removeTask k t) s
        let s := k.shadows.foldl (fun (st : State) sh => st.dropShadow sh.copy) s
        let s := s.freeCreated k.created
        let s := k.snapshot.foldl (fun (st : State) b => st.restoreBuffer l (tasks.map (·.tid)) b) s
        let s := ((k.snapshot.map (·.cap.root)).eraseDups).foldl State.bumpVersion s
        let again := { k with barriers := [], lines := [], shadows := [], created := [], members := [], gone := [], spawned := [], replays := k.replays + 1, sharedUE := [] }
        if k.replays < 2 then .next ((s.putLaunch again).reaccept again)
        else
          let s := s.log (dieOf (tileIx k.row k.col)) 6 0 srcLaunch (pw k.packet 0) 0
          .next ((s.putLaunch { k with shadows := [], created := [], members := [], spawned := [] }).closeLaunch k 2)

/-! ## Signals, spawn packets and capability messages (R218, R266) -/

/-- Where a message of a tenant goes on this device (R34, R35): its route has no sender that could park. -/
inductive Landing where | task (tid : Tid) | tile (t : Nat) | gone | full
deriving DecidableEq, Repr
def State.landing (s : State) (asid : Asid) (d : Dest) : Landing :=
  if d.type = 0 then
    match s.taskAt? (BitVec.ofNat 32 d.target) with
    | none => .gone
    | some t => if s.taskInboxFull t then .full else .task t.tid
  else if !s.tenantOn d.target asid then .gone
  else if s.tileInboxFull d.target then .full else .tile d.target
def State.land (s : State) (m : Msg) : Landing → State
  | .task tid => s.enterInbox tid m
  | .tile t => s.modTile t fun k => { k with inbox := k.inbox ++ [m] }
  | .gone => s.bounce m
  | .full => s
/-- A destination word of type 0 or 1 on this device. -/
def State.inboxDest (s : State) (w : Word) : Option Dest :=
  match Dest.of w with | some d => if d.type ≤ 1 ∧ s.isThisDevice d.dev then some d else none | none => none

/-- SIGNAL_PACKET (R266): a message with an empty capability and sender 0. -/
def execSignalPacket (q idx : Nat) (s : State) : Out :=
  if !s.takesPackets || !s.atHead q 1 idx then .next s
  else
    let p := s.ringEntry q idx
    if pkKind p ≠ 3 ∨ pf p 0 4 4 = 1 then .next s
    else match s.inboxDest (pw p 1) with
      | none => .next (s.rejectAt q idx p)
      | some d =>
        if !s.r5 p ∨ (upTo 4).any (fun i => pw p (4 + i) != 0) then .next (s.rejectAt q idx p)
        else match s.landing (pkAsid p) d with
          | .full => .next (s.lookLater q)
          | x => .next ((s.land { cap := none, p0 := pw p 2, p1 := pw p 3, sender := 0, asid := pkAsid p } x).consume q idx)

/-- FS0 to FS3 of a task: its stream 0's, or those its record holds. -/
def State.formatsOf (s : State) (tid : Tid) : List Word :=
  match s.hartAt? tid 0 with
  | some h => h.fs.toList
  | none => (match s.allRecords.find? fun r => r.2.tid == tid with | some r => r.2.fs | none => [])
/-- The rules of R8 and R266 on a spawn packet, and the task it names. -/
def State.spawnParent (s : State) (q : Nat) (p : List Word) : Option Task :=
  match s.taskAt? (BitVec.ofNat 32 (pf p 4 63 32)) with
  | none => none
  | some t =>
    let len := match (s.launchAt? t.launch).bind fun l => s.rec? l.code with | some c => c.len | none => 0
    if s.r5 p && pkKind p == 0 && pf p 0 5 5 == 1 && (handleFields p).isEmpty && handleFieldsOk p && t.asid == qAsid (s.queueWords q) && pkAsid p == t.asid
        && (pf p 0 47 47 == 1) == s.replayable t.launch && pf p 1 63 48 == 0 && pf p 1 0 0 == 0 && decide (pf p 1 47 0 < len) then some t else none
/-- SPAWN_PACKET (R266): the new task belongs to the launch of the task named and is queued unpinned at its tile. -/
def execSpawnPacket (q idx : Nat) (s : State) : Out :=
  if !s.takesPackets || !s.atHead q 1 idx then .next s
  else
    let p := s.ringEntry q idx
    if pkKind p ≠ 0 then .next s
    else match s.spawnParent q p with
      | none => .next (s.rejectAt q idx p)
      | some t =>
        if s.dequeFull t.tile ∨ (s.ptp < (pw p 3).toNat ∧ s.wheelFull (dieOf t.tile)) then .next (s.lookLater q)
        else match s.newTid t.tile with
          | none => .next (s.lookLater q)
          | some (tid, s) =>
            let r : TaskRec :=
              { tid := tid, flags := BitVec.ofNat 12 (pf p 0 15 4), asid := t.asid, cls := BitVec.ofNat 10 (pf p 0 31 22), prio := pkPrio p
                replayable := pf p 0 47 47 == 1, pinned := false, entry := pf p 1 47 0, deadline := pw p 2, release := pw p 3, parent := t.tid
                budget := BitVec.ofNat 32 (pf p 4 31 0), arg := pw p 5, h := [], fs := s.formatsOf t.tid, launch := t.launch, coord := none
                saved := false, home := t.tile, donations := [] }
            .next ((s.spawnTask r t.tile none).consume q idx)

/-- The message that CSEND wrote into an entry, as R218 records it. -/
def State.ringMsg (s : State) (q ticket : Nat) : Option RingMsg := s.ringMsgs.find? fun m => m.q == q && m.ticket == ticket
def State.dropRingMsg (s : State) (q ticket : Nat) : State := { s with ringMsgs := s.ringMsgs.filter fun m => !(m.q == q && m.ticket == ticket) }
/-- The capability of an entry returned to its sender with both payload words (R34, R218). -/
def State.returnRingMsg (s : State) (m : RingMsg) (p : List Word) : State :=
  s.bounce { cap := some m.img, p0 := pw p 1, p1 := pw p 2, sender := m.sender, asid := pkAsid p }
/-- CAPABILITY_MESSAGE_CONSUME (R5, R218): a message that breaks R5 is rejected, and its capability returns to its sender (log 92). -/
def execCapabilityMessageConsume (q idx : Nat) (s : State) : Out :=
  if !s.takesPackets || !s.atHead q 1 idx then .next s
  else
    let p := s.ringEntry q idx
    if pkKind p ≠ 3 ∨ pf p 0 4 4 = 0 then .next s
    else match s.ringMsg q idx with
      | none => .next (s.rejectAt q idx p)
      | some m =>
        if !s.r5 p then .next (((s.dropRingMsg q idx).returnRingMsg m p).rejectAt q idx p)
        else match s.inboxDest (pw p 1) with
        | none => .next (((s.dropRingMsg q idx).returnRingMsg m p).consume q idx)
        | some d =>
          match s.landing (pkAsid p) d with
          | .full => .next (s.lookLater q)
          | .gone => .next (((s.dropRingMsg q idx).returnRingMsg m p).consume q idx)
          | x => .next (((s.dropRingMsg q idx).land { cap := some m.img, p0 := pw p 2, p1 := 0, sender := m.sender, asid := pkAsid p } x).consume q idx)
/-- HOST_CONSUME (R217, R218): the host marks an entry of its queue consumed; a capability message returns to its sender. -/
def execHostConsume (q idx : Nat) (s : State) : Out :=
  if !s.atHead q 0 idx then .next s
  else match s.ringMsg q idx with
    | none => .next (s.consume q idx)
    | some m => .next (((s.dropRingMsg q idx).returnRingMsg m (s.ringEntry q idx)).consume q idx)

/-! ## Copy packets from rings (R205, R217) -/

/-- The tile of a die whose transfer engine holds the fewest operations; it executes a copy packet from a ring. -/
def State.copyTile (s : State) (die : Nat) : Nat :=
  let busy := (s.allTiles.filter fun t => dieOf t.idx == die && !t.xfers.isEmpty || dieOf t.idx == die && !t.fills.isEmpty).map fun t => (t.idx, t.accepted)
  match (List.range 5120).find? fun n => !busy.any fun b => b.1 == tileOfCore die n with
  | some n => tileOfCore die n
  | none => (busy.foldl (fun (best : Nat × Nat) b => if b.2 < best.2 then b else best) (tileOfCore die 0, (s.tileAt (tileOfCore die 0)).accepted)).1
/-- The records of a copy packet, checked for the queue's ASID (R217), with their rights (R24). -/
def State.ringRecords (s : State) (q : Nat) (p : List Word) : Option (List CapRec) :=
  ((packetImages p).zip (false :: List.replicate 4 true)).foldr (fun x acc =>
    match acc, s.rec? (x.1 % 2 ^ 23) with
    | some l, some c =>
      if c.image = x.1 ∧ c.asid = qAsid (s.queueWords q) ∧ !c.revoked ∧ !c.poisoned ∧ !c.rights.lacks (if x.2 then needWR else needRD) ∧ s.peerOk c then some (c :: l) else none
    | _, _ => none) (some [])
/-- What R28 says of a packet's records: proceed, wait, or not admitted. -/
def State.ringAdmit (s : State) (cs : List CapRec) : Admit :=
  (cs.zip (false :: List.replicate 4 true)).foldl (fun (a : Admit) x =>
    match a with | .ok => s.admits x.1 (if x.2 then .engineWrite else .engineRead) | a => a) .ok
/-- COPY_PACKET_CONSUME (R205, R217): the packet stays in its entry until it completes. -/
def execCopyPacketConsume (q idx : Nat) (s : State) : Out :=
  if !s.takesPackets || !s.atHead q 2 idx then .next s
  else
    let p := s.ringEntry q idx
    let tile := s.copyTile (dieOfQueue q)
    let bad (st : State) : State := (st.reject (dieOfQueue q) (srcTile tile) p 1).consume q idx
    if pkKind p ≠ 2 then .next s
    else if !s.r5 p ∨ !copyPacketOk p ∨ !copyLenOk p then .next (bad s)
    else match s.ringRecords q p with
      | none => .next (bad s)
      | some cs =>
        match s.ringAdmit cs, packetRanges p cs with
        | .no _, _ => .next (bad s)
        | .wait, _ => .next (s.lookLater q)
        | .ok, some _ => .next (bad s)
        | .ok, none =>
          if 16 ≤ (s.tileAt tile).accepted then .next (s.lookLater q)
          else
            let o : XferOp :=
              { id := 0, seq := 0, tid := 0, no := 0, asid := qAsid (s.queueWords q), kind := .packet none (some (q, idx)), src := none
                srcHandle := 0, srcOff := 0, legs := [], ntf := false, due := s.clk + 1, units := [], fetches := [] }
            let o := s.packetXfer o tile p (cs.map fun c => (0, c))
            .next ((s.forkXfer tile { o with ntf := false } o.src.toList (o.legs.map (·.dst))).stepRI q)

/-! ## The consumer of a ring, and queue views -/

/-- QUEUE_CONSUME (R217): the consumer of a device queue looks at its next entry; a packet of a kind it does not take is rejected and consumed. A device that is not running takes launches only, frozen or failed (R337, R338). -/
def execQueueConsume (q : Nat) (s : State) : Out :=
  let t := qRI (s.queueWords q)
  let s := if t < qW (s.queueWords q) then s.touchRing q t else s
  if s.atHead q 1 t then
    let p := s.ringEntry q t
    if !s.takesPackets then .next (if s.takesLaunches ∧ pkKind p = 1 then s.schedule s.clk (.launch q t) else s)
    else match pkKind p with
    | 0 => .next (s.schedule s.clk (.spawnPacket q t))
    | 1 => .next (s.schedule s.clk (.launch q t))
    | 3 => .next (s.schedule s.clk (if pf p 0 4 4 = 1 then .capabilityMessageConsume q t else .signalPacket q t))
    | _ => .next (s.rejectAt q t p)
  else if s.takesPackets && s.atHead q 2 t then
    let p := s.ringEntry q t
    if pkKind p = 2 then .next (s.schedule s.clk (.copyPacketConsume q t))
    else .next ((s.reject (dieOfQueue q) (srcTile (s.copyTile (dieOfQueue q))) p 1).consume q t)
  else .next (if s.ringBad q t ∧ t < qW (s.queueWords q) ∧ qConsumer (s.queueWords q) ≠ 0 then s.lookLater q else s)

/-- QUEUE_VIEW_CREATE (R267): a COMMONS record with RD only over W and RI of a queue, in the quire of the die that serves it; without a free record nothing is made. -/
def execQueueViewCreate (q : Nat) (asid : BitVec 14) (s : State) : Out :=
  match s.freeRecord (dieOfQueue q) with
  | none => .next s
  | some img =>
    .next (s.putRec { CapRec.fresh img (viewBase + 16 * q) .cluster .commons 16 asid noOwner with
      rights := ⟨false, false, false, true⟩, count := 0, window := true })

end Sys2Proof.Machine
end

