-- ==== Sys2Proof/Machine/Delivery.lean ====
section
/-!
DEFINITION. Messages on their way: the arrival of a CSEND, the bytes it moves, its place in a ring, bounces that wait, and what a tile clears of a departed tenant (R33 to R35, R195, R214, R217, R218, R384).
-/
namespace Sys2Proof.Machine

open Sys2Proof

/-- The tile at which a message is accepted: that of its inbox, or the one its task stands on now. -/
def State.transitTile (s : State) (t : Transit) : Option Nat :=
  match t.toTile with
  | some k => some k
  | none => (s.taskAt? t.toTid).map (·.tile)
def State.dropTransit (s : State) (id : Nat) : State := { s with transits := s.transits.filter fun t => t.id != id }
/-- A message enters the inbox in which its place was reserved, or returns when its receiver has gone (R34, R35). -/
def State.deliverTransit (s : State) (t : Transit) (m : Msg) : State :=
  let s := s.dropTransit t.id
  match t.toTile with
  | some k => if s.tenantOn k m.asid then s.modTile k fun tl => { tl with inbox := tl.inbox ++ [m] } else s.bounce m
  | none => if (s.taskAt? t.toTid).isSome then s.enterInbox t.toTid m else s.bounce m

/-- The entry of a capability message (R218). -/
def Transit.entry (t : Transit) (image : Nat) : List Word :=
  [t.header, t.msg.p0, t.msg.p1, BitVec.ofNat 64 image, BitVec.ofNat 64 t.msg.sender.toNat, 0, 0, 0]
/-- The bytes of a message's buffer start to move to the receiver's tile (R33, R199, R384). -/
def State.startMove (s : State) (t : Transit) (c : CapRec) (tile base img : Nat) : State :=
  let n := c.moved img base noOwner t.msg.sender
  let s := ((s.scrub base (storageSize .tile c.kind c.len)).putRec c.leaving).putRec n
  let s := (s.dropTransit t.id).dropCached c.root
  ({ s with transits := s.transits ++ [{ t with moving := some img }] }).schedule (s.clk + s.xferClks tile [c, n] c.len) (.moveBytesLanded t.id)

/-- CSEND_DELIVERY (R33, R218): the message is accepted at the receiver's tile, where the choice of its policy is made; a message for a ring fills its entry when it has room. -/
def execCsendDelivery (id : Nat) (s : State) : Out :=
  match s.transits.find? fun t => t.id == id && t.moving.isNone with
  | none => .next s
  | some t =>
    match t.ring, t.msg.cap with
    | some (q, ticket), some img =>
      if !s.ringRoom q ticket then .next s
      else
        let image := match s.rec? img with | some c => c.image | none => 0
        let s := (s.dropTransit id).fillEntry q ticket (t.entry image)
        .next { s with ringMsgs := s.ringMsgs ++ [(⟨q, ticket, img, t.msg.sender⟩ : RingMsg)] }
    | _, cap =>
      match s.transitTile t, cap.bind s.rec? with
      | some tile, some c =>
        if t.policy = 1 ∨ t.policy = 2 then
          match s.movePlace tile (t.policy = 2) c with
          | none => .next (s.deliverTransit t { t.msg with outcome := if t.policy = 1 then 2 else 0 })
          | some base =>
            match s.freeRecord (dieOf tile) with
            | none => .next (s.schedule (s.clk + 1) (.csendDelivery id))
            | some img => .next (s.startMove t c tile base img)
        else .next (s.deliverTransit t t.msg)
      | _, _ => .next (s.deliverTransit t t.msg)

/-- MOVE_BYTES_LANDED (R31, R33): the old storage is freed, the new buffer is FULL, and the message arrives; a source that cannot be read poisons the new buffer (R200). -/
def execMoveBytesLanded (id : Nat) (s : State) : Out :=
  match s.transits.find? fun t => t.id == id with
  | none => .next s
  | some t =>
    match t.moving, t.msg.cap.bind s.rec? with
    | some img, some c =>
      (match s.rec? img with
      | none => .next (s.dropTransit id)
      | some n =>
        let (bytes, stop) := s.readUpTo c c.len 0
        let s := (s.correctBuf c 0 c.len).writePhys n.base bytes
        let s := match stop with
          | some e =>
            (match s.physOf c e.off false with
            | .ok a => (s.engineMerr c.root a t.msg.sender 0 none).poison img
            | .error _ => (s.poison img).pend t.msg.sender 0 { cause := e.cause })
          | none => s
        let s := (s.freeRoot c).joinWrite img
        .next (s.deliverTransit t { t.msg with cap := some img, outcome := 1 }))
    | _, _ => .next s

/-- BOUNCE_ENQUEUE (R34): the oldest held return enters the inbox. -/
def execBounceEnqueue (tid : Tid) (s : State) : Out :=
  match s.taskAt? tid with
  | none => .next s
  | some t =>
    match t.returns with
    | [] => .next s
    | m :: rest => .next (if t.inbox.length < 8 then (s.putTask { t with returns := rest }).enterInbox tid m else s)

/-- TILE_ASID_CLEAR (R35, R195, R214): the husks and cached records of a tenant of which no task stands on the tile, the messages in the tile inbox of one of which no task is on it, and all of these when the ASID is retired. -/
def execTileAsidClear (tile : Nat) (asid : BitVec 14) (s : State) : Out :=
  let stands := s.tenantStands tile asid && s.asidLive asid
  let on := s.tenantOn tile asid && s.asidLive asid
  let gone := if on then [] else (s.tileAt tile).inbox.filter fun m => m.asid == asid
  let s := s.modTile tile fun t =>
    { t with husks := if stands then t.husks else t.husks.map fun h => if h.bound && h.asid == asid then Husk.blank else h
             cache := if stands then t.cache else t.cache.filter fun e => e.asid != asid
             inbox := if on then t.inbox else t.inbox.filter fun m => m.asid != asid }
  .next (gone.foldl (fun (st : State) m => st.bounce m) s)

end Sys2Proof.Machine
end

