-- ==== Sys2Proof/Machine/Husk.lean ====
section
/-!
DEFINITION. Husks: HBIND, MMD, HKILL and HSTAT (R190 to R197).
-/
namespace Sys2Proof.Machine

open Sys2Proof

/-- A configuration word of HBIND (R192). -/
def huskConfigOk (w : Word) : Bool :=
  let f := wordBits 4 0 w
  (f == 3 || f == 4 || f == 8 || f == 9) && wordBits 13 6 w != 0 && wordBits 15 14 w == 0
    && decide (wordBits 63 32 w ≤ 0x7F800000)
/-- Whether an accepted MMD names a husk; n = 16 stands for every husk of a tenant (R196). -/
def Tile.mmdPending (t : Tile) (asid : Asid) (n : Nat) : Bool :=
  t.matrix.any fun o => o.kind == .mmd && (if n = 16 then (t.huskAt o.husk).asid == asid else o.husk == n)

/-- HBIND (R192). -/
def execHbind (n h : BitVec 4) (c : BitVec 3) (s : State) : Out :=
  let w := s.hart.getOX c
  match s.checkHandle h needRD with
  | .error t => raise t s
  | .ok r =>
    match s.admits r .engineRead with
    | .no sub => raise (trapCapv sub h) s
    | .wait => park (.admits r.img 0) s
    | .ok =>
      if !huskConfigOk w then raise trapIll s
      else if s.tile.mmdPending s.task.asid n.toNat then park (.husk n.toNat) s
      else
        let k := { Husk.blank with
          bound := true, asid := s.task.asid, root := r.root, version := s.capVersion r, tag := BitVec.ofNat 16 (wordBits 31 16 w)
          inFmt := BitVec.ofNat 5 (wordBits 4 0 w), deltaInt4 := w.getLsbD 5, limit := BitVec.ofNat 8 (wordBits 13 6 w)
          threshold := BitVec.ofNat 32 (wordBits 63 32 w) }
        finish 4 ((s.setTile (s.tile.setHusk n.toNat k)).clearWritten r.root)

/-- MMD (R193): t is sb, s0 is sa. -/
def execMmd (n : BitVec 4) (v : AccT) (h : BitVec 4) (e : BitVec 3) (f : Bool) (t s0 : BitVec 3) (s : State) : Out :=
  match s.planMmd n v h e f t.toNat s0.toNat with
  | .error x => raise x s
  | .ok (c, o) =>
    match s.admits c .engineRead with
    | .no sub => raise (trapCapv sub h) s
    | .wait => park (.admits c.img 0) s
    | .ok => acceptOrWait o (s.pairClks s.tile.idx (o.fa.toNat % 16) (o.fb.toNat % 16)) s

/-- A husk killed (R196): the binding and the configuration are kept. -/
def Husk.kill (h : Husk) : Husk := { h with valid := false, count := 0, rho := 0, kept := Vector.replicate 16 0, result := Vector.replicate 16 0 }
/-- HKILL (R196); with .all a nonzero number raises ILL (R191). -/
def execHkill (n : BitVec 4) (l : Bool) (s : State) : Out :=
  if l ∧ n ≠ 0 then raise trapIll s
  else
    let k := if l then 16 else n.toNat
    if s.tile.mmdPending s.task.asid k then park (.husk k) s
    else
      let kill (h : Husk) : Husk := if h.asid = s.task.asid ∧ h.bound then h.kill else h
      finish 4 (s.setTile (if l then { s.tile with husks := s.tile.husks.map kill } else s.tile.setHusk n.toNat (kill (s.tile.huskAt n.toNat))))
/-- What HSTAT reads (R197). -/
def Husk.status (h : Husk) (b : Bool) : Word :=
  if b then BitVec.ofNat 64 (h.limit.toNat * 2 ^ 40 + h.root % 2 ^ 24 * 2 ^ 16 + h.tag.toNat)
  else BitVec.ofNat 64 (h.rho.toNat * 2 ^ 32 + h.version.toNat * 2 ^ 16 + h.count.toNat * 256
    + (if h.deltaInt4 then 8 else 0) + (if h.bound then 2 else 0) + (if h.valid then 1 else 0))
/-- HSTAT (R195, R197). -/
def execHstat (d : BitVec 5) (n : BitVec 4) (b : Bool) (s : State) : Out :=
  if s.tile.mmdPending s.task.asid n.toNat then park (.husk n.toNat) s
  else
    let h := s.tile.huskAt n.toNat
    finish 4 (s.setX d (if h.asid = s.task.asid then h.status b else 0))

end Sys2Proof.Machine
end

