-- ==== Sys2Proof/Machine/Permute.lean ====
section
/-!
DEFINITION. Permute, broadcast, reduce, transpose and the gang exchange (R160 to R165).
-/
namespace Sys2Proof.Machine

open Sys2Proof

/-- VPERM (R161): all lanes are read before any is written. -/
def execVperm (d a b : BitVec 5) (e : Et) (k : BitVec 2) (s : State) : Out :=
  vecLanes d e k [d, a, b] (fun s i => laneOf e.width (s.v a) (laneOf e.width (s.v b) i % e.lanes)) s
/-- VBCAST (R161). -/
def execVbcast (d a : BitVec 5) (e : Et) (k : BitVec 2) (s : State) : Out :=
  vecLanes d e k [d] (fun s _ => (s.x a).toNat % 2 ^ e.width) s
/-- VBCAST.lane for a lane below 32 (R160, R161). -/
def execVbcastLane (d a i : BitVec 5) (e : Et) (k : BitVec 2) (s : State) : Out :=
  if e.lanes ≤ i.toNat then raise trapIll s
  else vecLanes d e k [d, a] (fun s _ => laneOf e.width (s.v a) i.toNat) s
/-- VBCAST.lane for a lane from 32 to 63 (R160, R161). -/
def execVbcastLaneHigh (d a i : BitVec 5) (e : Et) (k : BitVec 2) (s : State) : Out :=
  if e.lanes ≤ i.toNat + 32 then raise trapIll s
  else vecLanes d e k [d, a] (fun s _ => laneOf e.width (s.v a) (i.toNat + 32)) s

/-! ## Reductions (R162) -/

/-- One level of the pairwise tree: element 2j with 2j + 1, in ascending j, with a carried value. -/
def treeLevel {α σ : Type} (f : α → α → σ → α × σ) : List α → σ → List α × σ
  | a :: b :: r, t =>
    let (c, t) := f a b t
    let (cs, t) := treeLevel f r t
    (c :: cs, t)
  | l, t => (l, t)
/-- The tree, level by level, until one value remains. -/
def treeReduce {α σ : Type} (f : α → α → σ → α × σ) : Nat → List α → σ → List α × σ
  | 0, l, t => (l, t)
  | n + 1, l, t =>
    match l with
    | _ :: _ :: _ => let (l, t) := treeLevel f l t; treeReduce f n l t
    | _ => (l, t)

/-- A lane widened exactly to FP32; a signalling NaN stays one (R162). -/
def widenLane (e : Et) (c : Nat) : Nat :=
  match (laneFmt e).decode c with
  | .nan neg _ m w => fp32.signBit neg + fp32.eTop * 2 ^ 23 + m * 2 ^ (23 - w)
  | .inf neg => fp32.infCode false neg
  | .fin neg m x => (fp32.round .rne false 0 ⟨neg, m, x, false⟩).1

/-- What a reduction carries: flags and the generator. -/
abbrev Carried := FFlags × Word
/-- One add of a float VREDS (R134, R162). -/
def redAdd (v : Env) (a b : Nat) (t : Carried) : Nat × Carried :=
  let l := if v.mode = .rs then stepWord t.2 else t.2
  let r := fpAdd { v with u := l.toNat % 65536 } (fp32.read v.ftz a) (fp32.read v.ftz b)
  (r.1, (t.1 ||| r.2, l))
/-- One comparison of a float VREDM (R133, R162). -/
def redPick (v : Env) (isMax : Bool) (a b : Option Nat) (t : Carried) : Option Nat × Carried :=
  match a, b with
  | some x, some y =>
    let r := fpMinMax v isMax (fp32.read v.ftz x) (fp32.read v.ftz y)
    (some r.1, (t.1 ||| r.2, t.2))
  | some x, none => (some x, t)
  | none, y => (y, t)
/-- The largest or smallest of the integers of a list. -/
def intPick (isMax : Bool) : List Int → Int
  | [] => 0
  | i :: is => is.foldl (fun m x => if isMax then max m x else min m x) i

/-- A reduction's result written with its flags and the generator. -/
def State.redWrite (s : State) (d : BitVec 5) (w : Word) (t : Carried) : State := ((s.setX d w).raiseFlags t.1).setLfsr t.2
/-- The active lanes of a row, in order. -/
def State.activeLanes (s : State) (a : BitVec 5) (e : Et) (k : BitVec 2) : List Nat :=
  ((List.range e.lanes).filter (activeLane (s.hart.getM k))).map (laneOf e.width (s.v a))

/-- VREDS (R162). -/
def execVreds (d a : BitVec 5) (e : Et) (k : BitVec 2) (s : State) : Out :=
  withRows [a] (fun s =>
    let act := s.activeLanes a e k
    if !e.isFloat then
      finish 4 (s.setX d (BitVec.ofInt 64 ((act.map (laneInt e.width)).foldl (· + ·) 0)))
    else if act.isEmpty then finish 4 (s.setX d (BitVec.ofNat 64 fp32.defaultNaN))
    else
      let v : Env := { fmt := fp32, mode := fctlMode s.hart.fctl, ftz := s.ftz }
      let m := s.hart.getM k
      let vals := (List.range e.lanes).map fun i => if activeLane m i then widenLane e (laneOf e.width (s.v a) i) else 0
      let (r, t) := treeReduce (redAdd v) 6 vals (0, s.hart.lfsr)
      finish 4 (s.redWrite d (BitVec.ofNat 64 (r.headD 0)) t)) s

/-- VREDM (R162): .u with a float type raises ILL. -/
def vredm (isMax : Bool) (d a : BitVec 5) (e : Et) (k : BitVec 2) (u : Bool) (s : State) : Out :=
  if u && e.isFloat then raise trapIll s
  else withRows [a] (fun s =>
    let act := s.activeLanes a e k
    if !e.isFloat then
      finish 4 (s.setX d (BitVec.ofInt 64 (intPick isMax (act.map fun (c : Nat) => if u then (c : Int) else laneInt e.width c))))
    else if act.isEmpty then finish 4 (s.setX d (BitVec.ofNat 64 fp32.defaultNaN))
    else
      let v : Env := { fmt := fp32, mode := .rne, ftz := s.ftz }
      let m := s.hart.getM k
      let vals := (List.range e.lanes).map fun i => if activeLane m i then some (widenLane e (laneOf e.width (s.v a) i)) else none
      let (r, t) := treeReduce (redPick v isMax) 6 vals (0, s.hart.lfsr)
      finish 4 (s.redWrite d (BitVec.ofNat 64 ((r.headD none).getD 0)) t)) s
/-- VREDM.max (R162). -/
def execVredmMax (d a : BitVec 5) (e : Et) (k : BitVec 2) (u : Bool) (s : State) : Out := vredm true d a e k u s
/-- VREDM.min (R162). -/
def execVredmMin (d a : BitVec 5) (e : Et) (k : BitVec 2) (u : Bool) (s : State) : Out := vredm false d a e k u s

/-! ## VTRN (R163) -/

/-- Row j of a tile. -/
def tileRow (t : AccT) (j : Nat) : BitVec 5 := BitVec.ofNat 5 ((match t with | .t0 => 0 | .t1 => 16) + j)
/-- VTRN (R163): 32-bit lane j of row i takes lane i of row j; the slot is parked 16 clk. -/
def execVtrn (d a : AccT) (_e : Et) (s : State) : Out :=
  withRows [tileRow d 0, tileRow a 0] (fun s =>
    let rows := (List.range 16).map fun i => (i, packRow 32 ((List.range 16).map fun j => laneOf 32 (s.v (tileRow a j)) i))
    finish 4 ((rows.foldl (fun (st : State) x => st.setV (tileRow d x.1) x.2) s).busy 16)) s

/-! ## VGX (R164, R165) -/

/-- The partner's coordinate relative to the launch origin. -/
def gangPartner (r : GDir) (rc : Nat × Nat) : Nat × Nat :=
  match r with
  | .h => (rc.1, rc.2 ^^^ 1)
  | .v => (rc.1 ^^^ 1, rc.2)
  | .d => (rc.1 ^^^ 1, rc.2 ^^^ 1)
/-- The rows of a VGX as its wait names them. -/
def vgxRows (d a : BitVec 5) : Nat := d.toNat + 32 * a.toNat
/-- The partner's stream 0, when it is parked on a VGX of the same direction, with the registers and the row that it offers. -/
def State.gangMatch (s : State) (tid : Tid) (r : GDir) : Option (Hart × Nat × Row) :=
  match s.hartAt? tid 0 with
  | some h => (match h.wait with | some (.partner r' v row) => if r' = r then some (h, v, row) else none | _ => none)
  | none => none
/-- Whether a partner has exited or been terminated (R165). -/
def State.gangEnded (s : State) (tid : Option Tid) : Bool := match tid.bind s.taskAt? with | some t => t.ending | none => true
/-- VGX (R164): an exchange with the partner's row, taken by both in the next clock; a partner that has ended raises OWNX (R165). -/
def execVgx (d a : BitVec 5) (r : GDir) (s : State) : Out :=
  match s.launchAt? s.task.launch, s.task.coord with
  | some l, some rc =>
    let p := gangPartner r (l.rel rc)
    if !l.ganged ∨ s.hart.no ≠ 0 ∨ l.rows ≤ p.1 ∨ l.cols ≤ p.2 then raise trapIll s
    else withRows [d, a] (fun s =>
      match l.tidAt p with
      | none => raise { cause := .ownx } s
      | some tid =>
        if s.gangEnded (some tid) then raise { cause := .ownx } s
        else match s.gangMatch tid r with
        | none => park (.partner r (vgxRows d a) (s.v a)) s
        | some (h, v, his) =>
          let mine := s.v a
          let h := { (h.setV (BitVec.ofNat 5 v) mine) with inRep := repActive h.repst, readyAt := s.clk + 1 }
          finish 4 (((s.setV d his).putHart (h.advance 4)).busy 1)) s
  | _, _ => raise trapIll s

end Sys2Proof.Machine
end

