-- ==== Sys2Proof/Machine/Sweep.lean ====
section
/-!
DEFINITION. Sweep calendars (R300 to R316).
-/
namespace Sys2Proof.Machine

open Sys2Proof

/-! ## Calendars and members -/

def Calendar.member? (c : Calendar) (i : Nat) : Option Member := findBy Member.idx i c.members
def Calendar.put (c : Calendar) (m : Member) : Calendar := { c with members := putBy Member.idx m c.members }
/-- The index of a participant (R300). -/
def Calendar.partOf (c : Calendar) (tid : Tid) : Option Nat := (upTo c.parts.length).find? fun i => match c.parts[i]? with | some p => p.tid == tid && !p.ended | none => false
def Calendar.part? (c : Calendar) (tid : Tid) : Option Participant := c.parts.find? fun p => p.tid == tid && !p.ended
def Die.calendar? (d : Die) (n : Nat) : Option Calendar := d.calendars.find? fun c => c.no == n
def Die.putCalendar (d : Die) (c : Calendar) : Die := { d with calendars := putBy Calendar.no c d.calendars }
/-- The die of the task in focus, whose calendars it names (R303). -/
def State.sweepDie (s : State) : Nat := dieOf s.tile.idx
/-- The round trip to the calendar of a die, at die-local tile (32, 40) (R308). -/
def State.sweepPark (s : State) : Nat := 20 + 2 * s.steps s.tile.idx (tileOfDie s.sweepDie 32 40)

/-- Members named by the valid slots of a member that are allocated. -/
def Calendar.neighbours (c : Calendar) (m : Member) : List Member :=
  (upTo 4).filterMap fun k => if m.valid.getLsbD k then (m.slots.toArray[k]?).bind fun i => c.member? i.toNat else none

/-! ## The advance (R304, R305) -/

/-- Members due on a sweep (R304). -/
def dueOn (s : BitVec 32) (ms : List Member) : List Nat := (ms.filter fun m => m.state == .live && s.toNat % 2 ^ m.r == 0).map (·.idx)

/-- A member in an advance, with whether its exponent has been lowered in it. -/
structure Rated where
  m : Member
  lowered : Bool

def withMembers (c : Calendar) (l : List Rated) : Calendar := { c with members := l.map (·.m) }
/-- NEWBORN members become LIVE, DYING members FREE, and slots that name them are cleared. -/
def Calendar.settle (c : Calendar) : List Rated :=
  let dead := (c.members.filter fun m => m.state == .dying).map (·.idx)
  let mask (m : Member) : BitVec 4 :=
    (upTo 4).foldl (fun (v : BitVec 4) k => if (match m.slots.toArray[k]? with | some i => dead.contains i.toNat | none => false) then v &&& ~~~(1#4 <<< k) else v) m.valid
  (c.members.filter fun m => m.state != .dying).map fun m => ⟨{ m with state := .live, valid := mask m }, false⟩
/-- Drops: a report HIGH lowers the exponent. -/
def dropHigh (r : Rated) : Rated := if r.m.report = 2 ∧ 0 < r.m.r then ⟨{ r.m with r := r.m.r - 1, pending := false }, true⟩ else r
/-- One pass of the cascade over the exponents at its start, and whether it changed anything. -/
def cascadePass (c : Calendar) (l : List Rated) : List Rated × Bool :=
  let k := withMembers c l
  let bound (i : Nat) : Nat := l.foldl (fun b x => if (k.neighbours x.m).any fun y => y.idx == i then min b (x.m.r + 1) else b) 8
  let l' := l.map fun x => if bound x.m.idx < x.m.r then (⟨{ x.m with r := bound x.m.idx, pending := false }, true⟩ : Rated) else x
  (l', l.any fun x => decide (bound x.m.idx < x.m.r))
/-- The cascade, with the number of its passes; each pass but the last lowers an exponent along a chain of at most eight. -/
def cascade (c : Calendar) : Nat → List Rated → List Rated × Nat
  | 0, l => (l, 0)
  | fuel + 1, l =>
    match cascadePass c l with
    | (l, true) => let (l, n) := cascade c fuel l; (l, n + 1)
    | (l, false) => (l, 1)
/-- Pending rises from the reports. -/
def notePending (c : Calendar) (l : List Rated) : List Rated :=
  let k := withMembers c l
  l.map fun x =>
    match x.m.report with
    | 0 => x
    | 3 => { x with m := { x.m with pending := decide (x.m.r < c.rmax) && !x.lowered && (k.neighbours x.m).all fun y => decide (x.m.r ≤ y.r) } }
    | _ => { x with m := { x.m with pending := false } }
/-- Rises whose instant has come; the test reads the exponents before any rise. -/
def raiseDue (c : Calendar) (s : BitVec 32) (l : List Rated) : List Rated :=
  let k := withMembers c l
  l.map fun x =>
    if x.m.pending ∧ s.toNat % 2 ^ (x.m.r + 1) = 0 then
      { x with m := { x.m with r := if (k.neighbours x.m).all fun y => decide (x.m.r ≤ y.r) then x.m.r + 1 else x.m.r, pending := false } }
    else x
/-- Drops and the cascade of an advance. -/
def Calendar.lowering (c : Calendar) : List Rated × Nat := cascade c 16 (c.settle.map dropHigh)
/-- Advance(S) (R305). -/
def Calendar.advance (c : Calendar) : Calendar :=
  let s := c.s + 1
  let l := raiseDue c s (notePending c c.lowering.1)
  let ms := l.map fun x => { x.m with report := 0, handed := false, holder := 0 }
  { c with s := s, members := ms, dueList := dueOn s ms }

/-! ## Checks (R300, R303, R308) -/

/-- Bits of a member word (R303). -/
def memberWordOk (masked bare : Bool) (w : Word) : Bool := wordBits 63 24 w == 0 && (masked || wordBits 23 20 w == 0) && (bare || true)

/-- Checks 1 to 4 of R308: the calendar, and the participant's index. -/
def State.sweepSet (s : State) (w : Word) (masked : Bool) : Except TrapInfo (Calendar × Nat) :=
  if s.task.coord.isNone ∨ !memberWordOk masked true w then .error trapIll
  else match (s.dieAt s.sweepDie).calendar? (wordBits 19 16 w) with
    | none => .error (trapCapv subOWN)
    | some c =>
      if c.asid ≠ s.task.asid ∨ c.launch ≠ s.task.launch then .error (trapCapv subOWN)
      else match c.partOf s.task.tid with
        | none => .error (trapCapv subOWN)
        | some p => if c.poisoned then .error { cause := .merr } else .ok (c, p)

/-- Handed to a participant in the current sweep, or NEWBORN with it as its holder (R310, R313). -/
def Member.heldBy (m : Member) (p : Nat) : Bool := m.holder == p && (m.handed || m.state == .newborn)
/-- Slots as a word holds them. -/
def slotsOfWord (w : Word) : Vector (BitVec 16) 4 := Vector.ofFn fun k => BitVec.ofNat 16 (w.toNat / 2 ^ (16 * k.val))
/-- Whether a valid slot names a FREE index or the member itself (R310, R313). -/
def Calendar.linksBad (c : Calendar) (self : Nat) (valid : Nat) (w : Word) : Bool :=
  (upTo 4).any fun k => valid / 2 ^ k % 2 == 1 && (let i := w.toNat / 2 ^ (16 * k) % 2 ^ 16; i == self || (c.member? i).isNone)
/-- The lowest FREE index (R310). -/
def Calendar.freeIndex (c : Calendar) : Option Nat :=
  match lowestFree (c.members.length + 1) 0 (c.members.map (·.idx)) with | some i => if i < 65536 then some i else none | none => none

/-- The checks of an instruction's own entry, and the allocated member of check 5 (R308, R310, R312, R313). -/
def Calendar.entry (c : Calendar) (p : Nat) (r : SweepReq) : Option TrapInfo :=
  match r.act with
  | .create | .next | .advance => none
  | act =>
    match c.member? (wordBits 15 0 r.word) with
    | none => some (trapCapv subLEN)
    | some m =>
      match act with
      | .add =>
        if !m.heldBy p then some (trapCapv subDEST)
        else (match c.freeIndex with | some i => if c.linksBad i (wordBits 23 20 r.word) r.ox then some (trapCapv subLEN) else none | none => none)
      | .report => if m.holder = p ∧ m.handed ∧ m.state = .live then none else some (trapCapv subDEST)
      | .del | .set => if m.heldBy p then none else some (trapCapv subDEST)
      | .links =>
        if !m.heldBy p then some (trapCapv subDEST)
        else if c.linksBad m.idx (wordBits 23 20 r.word) r.ox then some (trapCapv subLEN) else none
      | _ => none

/-! ## At the calendar (R305, R306, R309 to R313) -/

def allOnes : Word := BitVec.allOnes 64
def lo32 (w : Word) : BitVec 32 := w.setWidth 32
def hi32 (w : Word) : BitVec 32 := (w >>> 32).setWidth 32
/-- The class of a reported change: 1 MID, 2 HIGH, 3 LOW (R305). -/
def Calendar.classify (c : Calendar) (m : BitVec 32) : Nat :=
  match fp32.decode m.toNat with
  | .nan _ _ _ _ => 2
  | v =>
    let a := match v with | .fin _ k e => Fp.fin false k e | .inf _ => .inf false | v => v
    if fpLt (fp32.decode c.hi.toNat) a then 2 else if fpLt a (fp32.decode c.lo.toNat) then 3 else 1
/-- The value a neighbour answers (R306). -/
def Calendar.answer (c : Calendar) (m : Member) (second : Bool) (k : Nat) : Nat :=
  if !m.valid.getLsbD k then 0x7FC00000
  else match (m.slots.toArray[k]?).bind fun i => c.member? i.toNat with
    | none => 0x7FC00000
    | some y =>
      let v := if second then y.v1 else y.v0
      let g := if second then y.slope1 else y.slope0
      let delta := (c.s - y.sLast).toNat
      if !c.extrap ∨ delta = 0 then v.toNat
      else
        let env : Env := { fmt := fp32, mode := .rne, ftz := false, sat := false }
        (fpFma env false (fp32.decode g.toNat) (fp32.decode (fpOfInt env delta).1) (fp32.decode v.toNat)).1

/-- A sweep instruction performed on a set: the set after it, and what x[d] takes, if the instruction writes it. -/
def Calendar.perform (c : Calendar) (p : Nat) (r : SweepReq) : Calendar × Option Word :=
  let name (i : Nat) : Word := BitVec.ofNat 64 (c.no * 2 ^ 16 + i)
  match r.act with
  | .create => (c, none)
  | .next =>
    (match c.dueList with
    | [] => (c, some allOnes)
    | i :: rest =>
      match c.member? i with
      | none => ({ c with dueList := rest }, some allOnes)
      | some m => (Calendar.put { c with dueList := rest } { m with handed := true, holder := p }, some (name i)))
  | act =>
    match c.member? (wordBits 15 0 r.word) with
    | none => (c, none)
    | some m =>
      match act with
      | .add =>
        (match c.freeIndex with
        | none => (c, some allOnes)
        | some i =>
          (c.put { m with idx := i, holder := p, handed := true, report := 0, pending := false, valid := BitVec.ofNat 4 (wordBits 23 20 r.word)
                          state := .newborn, slots := slotsOfWord r.ox }, some (name i)))
      | .del => (Calendar.put { c with dueList := c.dueList.filter fun i => i != m.idx } { m with state := .dying, report := 0 }, none)
      | .report => (c.put { m with report := c.classify (lo32 r.v) }, none)
      | .set => (c.put { m with v0 := lo32 r.v, v1 := hi32 r.v, slope0 := lo32 r.ox, slope1 := hi32 r.ox, sLast := c.s }, none)
      | .links => (c.put { m with valid := BitVec.ofNat 4 (wordBits 23 20 r.word), slots := slotsOfWord r.ox }, none)
      | .neighbour second k => (c, some (BitVec.ofNat 64 (c.answer m second k)))
      | _ => (c, none)

/-- The members of a new set (R309). -/
def newMembers (n r : Nat) (chain : Bool) : List Member :=
  (List.range n).map fun i =>
    let back := chain && decide (0 < i)
    let on := chain && decide (i + 1 < n)
    { idx := i, v0 := 0, v1 := 0, slope0 := 0, slope1 := 0, sLast := 0, holder := 0, handed := false, report := 0, pending := false
      valid := BitVec.ofNat 4 ((if back then 1 else 0) + (if on then 2 else 0)), r := r, state := .live
      slots := #v[if back then BitVec.ofNat 16 (i - 1) else 0, if on then BitVec.ofNat 16 (i + 1) else 0, 0, 0] }

/-- SWCR at the calendar (R309): the lowest free one, or none. -/
def State.createSet (s : State) (r : SweepReq) : State × Word :=
  let w := r.word
  match s.launchAt? s.task.launch, s.task.coord, lowestFree 17 0 ((s.dieAt s.sweepDie).calendars.map (·.no)) with
  | some l, some rc, some n =>
    if 16 ≤ n then (s, allOnes)
    else
      let g := subgroupOf (wordBits 27 25 w) (wordBits 31 28 w) (l.rel rc)
      let (h, wd) := l.extent g
      let part (i : Nat) : Participant :=
        match l.tidAt (g.row + i / wd, g.col + i % wd) with
        | some t => ⟨t, false, false, false⟩
        | none => ⟨0, false, false, true⟩
      let ms := newMembers (wordBits 16 0 w) (wordBits 19 17 w) (w.getLsbD 24)
      let c : Calendar := { no := n, asid := s.task.asid, launch := s.task.launch, a := g.a, b := g.b, height := h, width := wd, lo := lo32 r.ox, hi := hi32 r.ox
                            rmax := wordBits 22 20 w, extrap := w.getLsbD 23, s := 0, dueList := dueOn 0 ms, members := ms
                            parts := (List.range (h * wd)).map part, advancing := false, releaseAt := 0, poisoned := false }
      (s.modDie s.sweepDie fun d => d.putCalendar c, BitVec.ofNat 64 (n * 2 ^ 16))
  | _, _, _ => (s, allOnes)

/-- A participant's flags changed. -/
def Calendar.setPart (c : Calendar) (tid : Tid) (f : Participant → Participant) : Calendar :=
  { c with parts := c.parts.map fun p => if p.tid = tid ∧ !p.ended then f p else p }
/-- Whether another stream of the task in focus waits at a set's barrier (R314). -/
def State.siblingAt (s : State) (c : Calendar) : Bool :=
  (s.hartsOf s.task.tid).any fun h => match h.wait with | some (.sweep die k _) => die == s.sweepDie && k == c.no && h.no != s.hart.no | _ => false

/-- A request arrives at the calendar (R315): it is performed in this clock, and its reply returns at its own; a check that fails now is a precise trap of the instruction. A SWADV completes when its sweep has been advanced already, and else has arrived and waits (R314). -/
def State.sweepArrive (s : State) (r : SweepReq) : State :=
  let answer (v : Option Word) (s : State) : State :=
    let s := (match v with | some w => s.setX r.d w | none => s).done 4
    (s.setHart { s.hart with wait := some (.reply r.reply) }).schedule r.reply (.loadResponse s.hart.tid s.hart.no)
  let fail (t : TrapInfo) : State := s.setHart { s.hart with wait := none, met := none, remoteTrap := some t, readyAt := r.reply + 1 }
  match r.act with
  | .create => let (s, w) := s.createSet r; answer (some w) s
  | _ =>
    match s.sweepSet r.word true with
    | .error t => fail t
    | .ok (c, p) =>
      if r.act = .advance then
        let put (f : Participant → Participant) : State := s.modDie s.sweepDie fun x => x.putCalendar (c.setPart s.task.tid f)
        if (c.part? s.task.tid).any (·.done) then answer (some (c.s.zeroExtend 64)) (put fun q => { q with done := false })
        else if s.siblingAt c then s.setHart { s.hart with wait := some (.sweepBusy s.sweepDie c.no), met := none }
        else
          let s := put fun q => { q with arrived := true }
          s.setHart { s.hart with wait := some (.sweep s.sweepDie c.no r.d), met := none }
      else match c.entry p r with
        | some t => fail t
        | none => let (c, v) := c.perform p r; answer v (s.modDie s.sweepDie fun d => d.putCalendar c)

/-! ## Issue (R308) -/

/-- A request leaves for the calendar; half of the round trip later it is performed there. -/
def sendSweep (act : SweepAct) (d : BitVec 5) (w v ox : Word) (s : State) : Out :=
  park (.sweepReq (s.clk + s.sweepPark / 2) ⟨act, d, w, v, ox, s.clk + s.sweepPark⟩) s

/-- Another stream of the task has arrived at the set's barrier, or its advance runs (R314). -/
def Calendar.busyFor (c : Calendar) (tid : Tid) : Bool := match c.part? tid with | some p => p.arrived | none => false

/-- A sweep instruction other than SWCR and SWADV (R308). -/
def sweepOp (act : SweepAct) (masked : Bool) (d : BitVec 5) (w v ox : Word) (s : State) : Out :=
  match s.sweepSet w masked with
  | .error t => raise t s
  | .ok (c, p) =>
    if c.busyFor s.task.tid then park (.sweepBusy s.sweepDie c.no) s
    else match c.entry p ⟨act, d, w, v, ox, 0⟩ with
      | some t => raise t s
      | none => sendSweep act d w v ox s

/-- A threshold that R309 refuses: negative or a NaN; −0 is zero. -/
def thresholdBad (c : BitVec 32) : Bool := match fp32.decode c.toNat with | .nan _ _ _ _ => true | .inf n => n | .fin n m _ => n && m != 0

/-- SWCR (R309). -/
def execSwcr (d : BitVec 5) (c : BitVec 3) (a : BitVec 5) (s : State) : Out :=
  let w := s.x a
  let ox := s.hart.getOX c
  match s.launchAt? s.task.launch, s.task.coord with
  | some l, some rc =>
    if wordBits 63 32 w ≠ 0 ∨ 9 < wordBits 31 28 w ∨ wordBits 22 20 w < wordBits 19 17 w ∨ thresholdBad (lo32 ox) ∨ thresholdBad (hi32 ox)
        ∨ fpLt (fp32.decode (hi32 ox).toNat) (fp32.decode (lo32 ox).toNat) then raise trapIll s
    else if 65536 < wordBits 16 0 w then raise (trapCapv subLEN) s
    else
      let (p, q) := l.corners (subgroupOf (wordBits 27 25 w) (wordBits 31 28 w) (l.rel rc))
      if dieOf p ≠ dieOf q then raise (trapCapv subDEST) s else sendSweep .create d w 0 ox s
  | _, _ => raise trapIll s
/-- SWADD (R310). -/
def execSwadd (d : BitVec 5) (c : BitVec 3) (a : BitVec 5) (s : State) : Out := sweepOp .add true d (s.x a) 0 (s.hart.getOX c) s
/-- SWDEL (R313). -/
def execSwdel (a : BitVec 5) (s : State) : Out := sweepOp .del false 0 (s.x a) 0 0 s
/-- SWNXT (R311). -/
def execSwnxt (d a : BitVec 5) (s : State) : Out := sweepOp .next false d (s.x a) 0 0 s
/-- SWRPT (R312). -/
def execSwrpt (b a : BitVec 5) (s : State) : Out := sweepOp .report false 0 (s.x a) (s.x b) 0 s
/-- SWSET (R313). -/
def execSwset (b : BitVec 5) (c : BitVec 3) (a : BitVec 5) (s : State) : Out := sweepOp .set false 0 (s.x a) (s.x b) (s.hart.getOX c) s
/-- SWSET.nb (R313). -/
def execSwsetNb (c : BitVec 3) (a : BitVec 5) (s : State) : Out := sweepOp .links true 0 (s.x a) 0 (s.hart.getOX c) s
/-- SWNB (R306). -/
def execSwnb (d : BitVec 5) (i : Bool) (k : BitVec 2) (a : BitVec 5) (s : State) : Out := sweepOp (.neighbour i k.toNat) false d (s.x a) 0 0 s

/-! ## SWADV (R314) -/

/-- SWADV (R314): a release; its request is performed at the calendar like every other (R315). -/
def execSwadv (d a : BitVec 5) (s : State) : Out :=
  match s.sweepSet (s.x a) false with
  | .error t => raise t s
  | .ok (c, _) =>
    if s.siblingAt c then park (.sweepBusy s.sweepDie c.no) s
    else match s.releaseWait with
      | some (w, s) => park w s
      | none => sendSweep .advance d (s.x a) 0 0 s

/-- Whether the last participant has arrived (R314). -/
def Calendar.complete (c : Calendar) : Bool := !c.advancing && !c.poisoned && (c.parts.any fun p => p.arrived && !p.ended) && c.parts.all fun p => p.arrived || p.ended
/-- The advance of a set whose last participant has arrived starts, and its release is on its way (R314). -/
def State.startAdvance (s : State) (die : Nat) (c : Calendar) : State :=
  let due := s.clk + c.releaseDelay c.lowering.2
  (s.modDie die fun d => d.putCalendar { c with advancing := true, releaseAt := due }).schedule due (.sweepRelease die c.no)

/-- A parked SWADV completes with a value in this clock. -/
def State.endSwadv (s : State) (h : Hart) (d : BitVec 5) (v : Word) : State := s.putHart { (h.setX d v).advance 4 with readyAt := s.clk + 1 }
/-- The streams parked at a set's barrier, with their destination registers. -/
def State.parkedAt (s : State) (die cal : Nat) : List (Hart × BitVec 5) :=
  s.allHarts.filterMap fun h => match h.wait with | some (.sweep k n d) => if k = die ∧ n = cal then some (h, d) else none | _ => none

/-- SWEEP_RELEASE (R305, R314): the set has advanced, and the SWADVs parked there complete; a step that a set before it on the calendar has left behind does nothing. -/
def execSweepRelease (die cal : Nat) (s : State) : Out :=
  match (s.dieAt die).calendar? cal with
  | none => .next s
  | some c =>
    if !c.advancing ∨ s.clk < c.releaseAt then .next s
    else
      let c := c.advance
      let c := { c with advancing := false, parts := c.parts.map fun (p : Participant) => if p.arrived then { p with arrived := false, done := true } else p }
      let here := s.parkedAt die cal
      let c := here.foldl (fun (c : Calendar) x => c.setPart x.1.tid fun q => { q with done := false }) c
      .next (here.foldl (fun (st : State) x => st.endSwadv x.1 x.2 (c.s.zeroExtend 64)) (s.modDie die fun d => d.putCalendar c))

end Sys2Proof.Machine
end

