-- ==== Sys2Proof/Machine/Wake.lean ====
section
/-!
DEFINITION. The end of waits: the condition of every wait, parked streams that become ready, waiting tasks that queue, places of deques, and the timer wheel (R13, R14, R94, R109, R268, R271 to R273, R382).
-/
namespace Sys2Proof.Machine

open Sys2Proof

/-! ## Conditions (R13, R14) -/

/-- A buffer that a wait names is gone, or its record is a tombstone: the access that is issued again takes its trap. -/
def State.goneRec (s : State) (img : Image) : Bool := match s.rec? img with | some c => c.revoked | none => true
/-- A page that a stream misses on is in its cluster's cache, or the miss table can take the miss again (R38). -/
def State.missOver (s : State) (tile : Nat) (asid : Asid) (page : Nat) : Bool :=
  let c := s.clusterAt (clusterOf tile)
  (s.tcFind (clusterOf tile) asid (page * 2 ^ 16)).isSome
    || (!(c.misses.any fun m => m.asid == asid && m.page == page) && decide (c.misses.length < 64))

/-- Whether a queue register has an entry (R89). -/
def Task.hasEntry (t : Task) (n : Nat) : Bool := if n < 4 then !(t.words (BitVec.ofNat 3 n)).isEmpty else !(t.rows (BitVec.ofNat 3 n)).isEmpty
/-- Whether a queue register has a place (R89). -/
def Task.hasPlace (t : Task) (n : Nat) : Bool := if n < 4 then decide ((t.words (BitVec.ofNat 3 n)).length < 16) else decide ((t.rows (BitVec.ofNat 3 n)).length < 4)
/-- Operand slots that an OCLM looks for (R172). -/
def Tile.operandFound (t : Tile) (mask : Nat) (pair : Bool) : Bool :=
  let free (n : Nat) : Bool := (t.slotAt n).owner == 0
  if pair then [0, 2, 4, 6].any fun n => (BitVec.ofNat 8 mask).getLsbD n && free n && free (n + 1)
  else (upTo 8).any fun n => (BitVec.ofNat 8 mask).getLsbD n && free n

/-- Whether the condition holds that the stream in focus waits for. Replies, releases and epochs, and places of deques, end their waits themselves; an instruction that the ramp limiter holds is looked at in its core's turn. -/
def State.waitOver (s : State) (w : Wait) : Bool :=
  match w with
  | .admits img code =>
    s.goneRec img || (match s.rec? img with
      | some c => if code = 0 then s.capState c != .filling && s.capState c != .free else s.capState c == .full
      | none => true)
  | .sbPlace => decide (s.tile.sb.length < 16)
  | .sbEntries ids => !(s.tile.sb.any fun e => ids.contains e.id)
  | .posted ids => !(s.hostWrites.any fun w => ids.contains w.id)
  | .sbEmpty => !s.ownEntries
  | .remote => s.hart.posted.isEmpty && !s.remoteOpen s.hart.tid s.hart.no
  | .walk asid page => s.missOver s.tile.idx asid page
  | .qEntry n => s.task.hasEntry n || s.queueOwnx (s.task.writers.toArray.getD n []) w
  | .qPlace n => s.task.hasPlace n || s.queueOwnx (s.task.readers.toArray.getD n []) w
  | .slotFree => s.forkRoom
  | .turn u => s.isFirst u
  | .streams nos => !(nos.any fun n => s.siblings.contains n)
  | .joinZero => s.task.join == 0
  | .joinRoom => decide (s.task.join < 65535)
  | .time t => decide (t.toNat ≤ s.ptp)
  | .inbox => !s.task.inbox.isEmpty
  | .tileInbox => s.tile.inbox.any fun m => m.asid == s.task.asid
  | .inboxPlace tid => (match s.taskAt? tid with | some t => !s.taskInboxFull t | none => true)
  | .tileInboxPlace t => !s.tenantOn t s.task.asid || !s.tileInboxFull t
  | .marking img => (match s.rec? img with | some c => c.writers == 0 | none => true)
  | .cap img c => s.goneRec img || (match s.rec? img with | some r => s.waitHolds r c | none => true)
  | .quireRoom die => (s.freeRecord die).isSome
  | .tidRoom => (s.newTid s.tile.idx).isSome
  | .wheelRoom die => !s.wheelFull die
  | .hbmPage die => (s.allocHbm die (2 ^ 16)).isSome
  | .enginesDone =>
    let sibs := (s.hartsOf s.task.tid).filter fun h => h.no != s.hart.no
    if sibs.isEmpty then s.taskQuiet s.task.tid s.task.tile else sibs.all Hart.atBoundary
  | .matrixPlace => decide (s.tile.matrix.length < 4)
  | .transferPlace => decide (s.tile.accepted < 16)
  | .tiles l => !((l.getD 0 false && s.tileOwed .t0) || (l.getD 1 false && s.tileOwed .t1))
  | .operand n => let o := s.tile.slotAt n; !((if o.pair then [n, n + 1] else [n]).any s.tile.slotInUse)
  | .operandFree mask pair => s.tile.operandFound mask pair
  | .husk n => !s.tile.mmdPending s.task.asid n
  | .partner r _ _ =>
    (match s.launchAt? s.task.launch, s.task.coord with
    | some l, some rc => s.gangEnded (l.tidAt (gangPartner r (l.rel rc)))
    | _, _ => true)
  | .credit d => decide (0 < s.task.credits[dirIx d]) || s.task.gone[dirIx d]
  | .word d => !(s.task.chan[dirIx d]).isEmpty || (s.task.gone[dirIx d] && (s.task.arriving[dirIx d]).isEmpty)
  | .mbox img need => (match s.rec? img with | some c => (match c.phase with | some p => p.ends s.task need | none => true) | none => true)
  | .arrival => (match s.task.openArrival with | some a => a.released | none => true)
  | .sweepBusy die cal => (match (s.dieAt die).calendar? cal with | some c => !c.busyFor s.task.tid | none => true)
  | .window line => !s.winSnooped.contains line
  | .data _ _ | .reply _ | .ramp _ | .dequeRoom _ _ | .halo _ _ _ | .barrier | .scan _ _ _ | .sweep _ _ _ | .sweepReq _ _ | .answered _ _ | .peerReply _ _ => false

/-- The condition of a stream's wait, with the stream in focus. -/
def State.conditionMet (s : State) (h : Hart) : Bool :=
  match h.wait, s.focusOn h.tid h.no with
  | some w, some f => f.waitOver w
  | _, _ => false

/-- The stream of a wait becomes ready in the clock after, and its donations end (R109, R271). -/
def State.endWait (s : State) (h : Hart) : State :=
  (s.putHart { h with wait := none, met := h.wait, readyAt := s.clk + 1 }).stopDonating h.tid h.tile
/-- WAIT_CONDITION_MET (R13). -/
def execWaitConditionMet (tid : Tid) (no : Nat) (s : State) : Out :=
  match s.hartAt? tid no with
  | none => .next s
  | some h => .next (if s.conditionMet h then s.endWait h else s)

/-! ## WAITING tasks (R13, R14, R382) -/

/-- Whether a record of a task stands in a deque, or waits for a place in one. -/
def State.hasRecord (s : State) (tid : Tid) : Bool := s.allRecords.any fun r => r.2.tid == tid
/-- A WAITING task whose condition has been met, without a record. -/
def State.mayRequeue (s : State) (t : Task) : Bool :=
  t.state == .waiting && (match s.hartAt? t.tid 0 with | some h => h.wait.isNone && h.met.isSome | none => false) && !s.hasRecord t.tid
/-- TASK_REQUEUE (R13, R382): the record of a WAITING task enters its deque, or waits for a place with its frame where it is. -/
def execTaskRequeue (tid : Tid) (s : State) : Out :=
  match s.taskAt? tid with
  | none => .next s
  | some t => .next (if s.mayRequeue t then s.pushRecord t.tile (t.record 0) else s)

/-! ## Places of a deque (R268, R382) -/

/-- What waits for a place of a deque: a record at its source, a parked spawner, a record that stays in the wheel. -/
inductive PlaceFor where | record | spawner (no : Nat) | timed
deriving DecidableEq, Repr
/-- A candidate for a place of a deque: the clock in which it came, its TID, and whether it found the deque full; one that has a place and waits for the controller comes before those of its clock. -/
structure Seeker where
  since : Nat
  full : Bool
  tid : Tid
  what : PlaceFor
deriving DecidableEq, Repr
/-- The candidates for the places of a deque, each source in its order. -/
def State.placeSeekers (s : State) (tile : Nat) : List Seeker :=
  ((s.tileAt tile).waiting.map fun w => ⟨w.since, w.full, w.item.tid, .record⟩)
  ++ (s.allHarts.filterMap fun h => match h.wait with | some (.dequeRoom t c) => if t = tile then some ⟨c, true, h.tid, .spawner h.no⟩ else none | _ => none)
  ++ ((s.dieAt (dieOf tile)).wheel.filterMap fun w => match w.since with | some c => if w.item.home = tile then some ⟨c, true, w.item.tid, .timed⟩ else none | none => none)
def Seeker.before (a b : Seeker) : Bool :=
  if a.since ≠ b.since then decide (a.since < b.since)
  else if a.full ≠ b.full then b.full
  else a.full && decide (a.tid.toNat < b.tid.toNat)
/-- The earliest candidate; those that found the deque full in one clock in ascending TID. -/
def earliestSeeker : List Seeker → Option Seeker
  | [] => none
  | a :: l => match earliestSeeker l with | none => some a | some b => if b.before a then some b else some a
/-- The candidate that a place of a deque goes to now: a record needs the controller too, which makes one insertion or removal in a clock (R268). -/
def State.placeReady (s : State) (tile : Nat) : Option Seeker :=
  if s.dequePacked tile then none
  else match earliestSeeker (s.placeSeekers tile) with
    | none => none
    | some k => (match k.what with | .spawner _ => some k | _ => if (s.tileAt tile).dequeAt ≤ s.clk then some k else none)

/-- A record leaves the wheel of a die, and the first that waits for room in it enters (R272). -/
def State.leaveWheel (s : State) (die : Nat) (tid : Tid) : State :=
  s.modDie die fun d =>
    let wheel := d.wheel.filter fun w => w.item.tid != tid
    match d.wheelWait with
    | [] => { d with wheel := wheel }
    | r :: rest => if wheel.length < 65536 then { d with wheel := wheel ++ [⟨r, none⟩], wheelWait := rest } else { d with wheel := wheel }
/-- DEQUE_PLACE_FREED (R382): the place goes to the candidate that found the deque full earliest; a parked spawner is granted it. -/
def execDequePlaceFreed (tile : Nat) (s : State) : Out :=
  match s.placeReady tile with
  | none => .next s
  | some ⟨_, _, tid, .record⟩ =>
    (match (s.tileAt tile).waiting.find? fun w => w.item.tid == tid with
    | none => .next s
    | some w => .next ((s.modTile tile fun t => { t with waiting := t.waiting.filter fun x => x.item.tid != tid }).enterDeque tile w.item))
  | some ⟨_, _, tid, .spawner no⟩ => (match s.hartAt? tid no with | some h => .next (s.endWait h) | none => .next s)
  | some ⟨_, _, tid, .timed⟩ =>
    (match (s.dieAt (dieOf tile)).wheel.find? fun w => w.item.tid == tid with
    | none => .next s
    | some w => .next ((s.leaveWheel (dieOf tile) tid).enterDeque tile w.item))

/-! ## The timer wheel (R272, R273) -/

/-- Records due at a tick in order of release: those that found their deque full at an earlier tick first, then by release time and TID. -/
def timedBefore (a b : Timed) : Bool :=
  if a.since.isSome ≠ b.since.isSome then a.since.isSome
  else if a.item.release ≠ b.item.release then decide (a.item.release.toNat < b.item.release.toNat) else decide (a.item.tid.toNat < b.item.tid.toNat)
def insertTimed (a : Timed) : List Timed → List Timed
  | [] => [a]
  | b :: bs => if timedBefore a b then a :: b :: bs else b :: insertTimed a bs
def sortTimed (l : List Timed) : List Timed := l.foldl (fun acc a => insertTimed a acc) []
/-- A record due at a tick enters its deque, or stays in its bucket (R382). -/
def State.releaseTimed (s : State) (die : Nat) (w : Timed) : State :=
  if s.dequeFull w.item.home then
    s.modDie die fun d => { d with wheel := d.wheel.map fun x => if x.item.tid = w.item.tid ∧ x.since.isNone then { x with since := some s.clk } else x }
  else (s.leaveWheel die w.item.tid).pushRecord w.item.home w.item
/-- TIMER_TICK (R272): every record whose tick has come goes to its deque; a record of release time R is due at tick ⌈R ÷ 1,000⌉. -/
def execTimerTick (die : Nat) (s : State) : Out :=
  let now := s.ptp / 1000 * 1000
  let due := sortTimed ((s.dieAt die).wheel.filter fun w => decide (w.item.release.toNat ≤ now))
  .next (due.foldl (fun (st : State) w => st.releaseTimed die w) s)
/-- PTP_STEP (R273): the timebase is set; what has come due leaves the wheel at the next tick. -/
def execPtpStep (now : Nat) (s : State) : Out := .next { s with ptp := now, ptpLocked := true }
/-- PTP_LOCK_LOST (R273, R329): the timebase runs on the oscillator, and the loss is logged. -/
def execPtpLockLost (offset : Word) (s : State) : Out := .next ({ s with ptpLocked := false }.log 0 9 0 srcControl offset 0)

end Sys2Proof.Machine
end

