-- ==== Sys2Proof/Machine/Drain.lean ====
section
/-!
DEFINITION. Accesses after their issue: load responses, the draining of the store buffer, posted writes to host memory and their flushes, and page walks (R37 to R39, R115, R121, R242, R243, R249 to R251, R279, R363, R372, R375).
-/
namespace Sys2Proof.Machine

open Sys2Proof

/-- LOAD_RESPONSE (R109, R121): the data is back, and the slot is ready in the next clock. -/
def execLoadResponse (tid : Tid) (no : Nat) (s : State) : Out :=
  .next (s.modHart tid no fun h =>
    match h.wait with
    | some (.data due _) | some (.reply due) => if due ≤ s.clk then { h with wait := none, readyAt := max h.readyAt (due + 1) } else h
    | _ => h)

/-! ## Posted writes to host memory (R242, R251, R363) -/

/-- HOME_PERFORM (R243). -/
def execHomePerform (id : Nat) (s : State) : Out :=
  match s.hostWrites.find? fun w => w.id == id with
  | some w => .next (s.performHost w)
  | none => .next s
/-- FLUSH_PACKET (R251, R363): the posted writes of the port are performed in their order, and the streams that posted them know it. -/
def execFlushPacket (port : Nat) (s : State) : Out :=
  let s := s.performPort port
  let f (h : Hart) : Hart := { h with posted := h.posted.filter fun p => p != port }
  .next { s with hart := f s.hart, harts := s.harts.map f, flushWait := s.flushWait.filter fun p => p != port }

/-! ## The store buffer (R115) -/

/-- The contiguous runs of a byte mask from a position: first byte and length. -/
def maskRuns (m : BitVec 64) : List (Nat × Nat) :=
  (List.range 64).foldr (fun i (l : List (Nat × Nat)) =>
    if m.getLsbD i then (match l with | (a, n) :: r => if a = i + 1 then (i, n + 1) :: r else (i, 1) :: l | [] => [(i, 1)]) else l) []
/-- Bytes of an entry. -/
def SbEntry.bytes (e : SbEntry) (first n : Nat) : List Byte := bytesOf n (e.data.toNat / 2 ^ (8 * first))
def SbEntry.stream (e f : SbEntry) : Bool := e.tid == f.tid && e.no == f.no
/-- Whether an entry may drain after those before it (R115): behind none of its slot for the same bank, a release behind none at all, a relaxed one behind no release. -/
def SbEntry.follows (e : SbEntry) (older : List SbEntry) : Bool :=
  let mine := older.filter (e.stream ·)
  if e.release then mine.isEmpty else mine.all fun o => !o.release && o.home.bank != e.home.bank
/-- What a release needs besides: the remote packets of its stream acknowledged, and its posted writes flushed; stream 0 has taken those of a sibling that has ended (R16, R249, R251). -/
def State.postedOf (s : State) (e : SbEntry) : List Nat :=
  match s.hartAt? e.tid e.no with
  | some h => h.posted
  | none => (match s.hartAt? e.tid 0 with | some h => h.posted | none => [])
def State.lineBusy (s : State) (e : SbEntry) : Bool := match e.home with | .mem a => s.mustRecall a true | .peer _ _ => false
/-- Whether the entry in a place of a tile's buffer is eligible. -/
def State.drains (s : State) (tile idx : Nat) : Bool :=
  let sb := (s.tileAt tile).sb
  match sb[idx]? with
  | none => false
  | some e => decide (e.due ≤ s.clk) && e.follows (sb.take idx) && !s.lineBusy e
      && (!e.release || ((s.postedOf e).isEmpty && !s.remoteOpen e.tid e.no))

/-- A run of a mask cut where a word of 8 bytes ends: the pieces in which a buffer of words takes it. -/
def wordPieces : Nat → Nat × Nat → List (Nat × Nat)
  | 0, _ => []
  | fuel + 1, (a, n) => if n = 0 then [] else let k := min n (8 - a % 8); (a, k) :: wordPieces fuel (a + k, n - k)
/-- One run of an entry posted to the host, or sent to a peer (R242, R249, R372, R375). -/
def State.drainRun (s : State) (e : SbEntry) (run : Nat × Nat) : State :=
  match e.home with
  | .mem a =>
    let port := s.hostPort
    let s := s.postHost (a + run.1) (e.bytes run.1 run.2) e.tid e.no
    let note (h : Hart) : Hart := { h with posted := if h.posted.contains port then h.posted else h.posted ++ [port] }
    if (s.hartAt? e.tid e.no).isSome then s.modHart e.tid e.no note else s.modHart e.tid 0 note
  | .peer dev off =>
    (if e.words then wordPieces 9 run else [run]).foldl (fun (st : State) r =>
      (st.sendSequenced dev (st.packetTo dev (if e.image = 0 then 10 else 0) e.asid e.version e.image (off + r.1) 0 (e.bytes r.1 r.2))
        e.tid e.no e.handle none none).1) s
/-- An entry performed at its home on this device as one write, or sent on (R115, R242, R324). -/
def State.drainEntry (s : State) (e : SbEntry) : State :=
  let runs := maskRuns e.mask
  match e.home with
  | .mem a => if isHost a then runs.foldl (fun (st : State) r => st.drainRun e r) s else s.writeRuns e.packable (runs.map fun r => (a + r.1, e.bytes r.1 r.2))
  | .peer _ _ => runs.foldl (fun (st : State) r => st.drainRun e r) s
/-- STORE_BUFFER_DRAIN (R115). -/
def execStoreBufferDrain (tile idx : Nat) (s : State) : Out :=
  if !s.drains tile idx then .next s
  else match (s.tileAt tile).sb[idx]? with
    | none => .next s
    | some e => .next ((s.modTile tile fun t => { t with sb := t.sb.eraseIdx idx }).drainEntry e)
/-- What stands in the way of an eligible entry starts to go: a line is recalled from the host, ports are flushed (R250, R251). -/
def State.pushDrain (s : State) (tile idx : Nat) : State :=
  let sb := (s.tileAt tile).sb
  match sb[idx]? with
  | none => s
  | some e =>
    if s.clk < e.due ∨ !e.follows (sb.take idx) then s
    else
      let s := match e.home with | .mem a => if s.mustRecall a true then s.snoop (windowLine a) else s | .peer _ _ => s
      if e.release then s.startFlush (s.postedOf e) else s

/-! ## Walks (R37 to R39, R279) -/

/-- The queued miss that is served next: the clusters in turn, the oldest first within one (R38). -/
def nextWalk (last : Nat) : List Walk → Option Walk
  | [] => none
  | w :: ws =>
    match nextWalk last ws with
    | none => some w
    | some v => if (v.cluster + 2560 - (last + 1)) % 2560 < (w.cluster + 2560 - (last + 1)) % 2560 then some v else some w
/-- WALK_START (R38): a walker takes a miss; each table entry is read from HBM (R121; log 7). -/
def execWalkStart (die : Nat) (s : State) : Out :=
  let d := s.dieAt die
  if 256 ≤ d.walks.length then .next s
  else match nextWalk d.rrLast d.walkQ with
    | none => .next s
    | some w =>
      let n := max 1 (s.walkReads w.asid (w.page * 2 ^ 16)).length
      let w' := { w with due := s.clk + n * Config.latL4 }
      .next (s.putDie { d with walkQ := d.walkQ.erase w, walks := d.walks ++ [w'], rrLast := w.cluster })

/-- A translation enters a cluster's cache, which holds 512 (R37); the one that entered first makes room, a choice the spec leaves open (log 88). -/
def Cluster.insert (c : Cluster) (p : PageMap) : Cluster := { c with tc := (c.tc ++ [p]).drop ((c.tc.length + 1) - 512) }
def State.dropMiss (s : State) (w : Walk) : State :=
  let c := s.clusterAt w.cluster
  s.putCluster { c with misses := c.misses.filter fun m => !(m.asid == w.asid && m.page == w.page) }
/-- Streams of a cluster that wait for a page (R38). -/
def State.pageWaiters (s : State) (w : Walk) : List Hart :=
  s.allHarts.filter fun h => clusterOf h.tile == w.cluster && h.wait == some (.walk w.asid w.page)
/-- The waiters resume, and find that the walk failed (R39). -/
def State.failWalk (s : State) (w : Walk) (merr : Bool) : State :=
  (s.pageWaiters w).foldl (fun (st : State) h => st.endWait { h with walkFail := some (w.asid, w.page, merr) }) (s.dropMiss w)
/-- The end of a walk (R38, R39, R279): what it found is logged, and the waiters go on. -/
def State.endWalk (s : State) (w : Walk) : State :=
  let va := w.page * 2 ^ 16
  let r := s.walk w.asid va
  let s := s.noteWalk (dieOfCluster w.cluster) w.asid va
  match r with
  | .page p =>
    let s := s.dropMiss w
    let s := s.putCluster ((s.clusterAt w.cluster).insert p)
    (s.pageWaiters w).foldl (fun (st : State) h => st.endWait h) s
  | .noMap _ => s.failWalk w false
  | .merr => s.failWalk w true
/-- WALK_COMPLETE (R38): a walk whose ASID has been invalidated is discarded, and its misses are made again. -/
def execWalkComplete (die idx : Nat) (s : State) : Out :=
  let d := s.dieAt die
  match d.walks[idx]? with
  | none => .next s
  | some w =>
    if s.clk < w.due then .next s
    else
      let s := s.putDie { d with walks := d.walks.eraseIdx idx }
      .next (if w.discard then s.dropMiss w else s.endWalk w)

end Sys2Proof.Machine
end

