-- ==== Sys2Proof/Machine/Geometry.lean ====
section
/-!
DEFINITION. Group geometry (R186 to R189).
-/
namespace Sys2Proof.Machine

open Sys2Proof

/-- n ÷ d rounded up. -/
def ceilDiv (n d : Nat) : Nat := (n + d - 1) / d

/-- The range of a shape that a task computes (R188): the origin word and the extent word. -/
def rangeWords (geo w0 : Word) : Word × Word :=
  let k := wordBits 63 40 w0
  let n := wordBits 39 20 w0
  let m := wordBits 19 0 w0
  let r := wordBits 6 0 geo - wordBits 22 16 geo
  let c := wordBits 15 7 geo - wordBits 31 23 geo
  let mt := 16 * ceilDiv m (16 * wordBits 39 32 geo)
  let nt := 16 * ceilDiv n (16 * wordBits 48 40 geo)
  let row0 := r * mt
  let col0 := c * nt
  (BitVec.ofNat 64 (col0 * 2 ^ 32 + row0), BitVec.ofNat 64 (k * 2 ^ 40 + min nt (n - col0) * 2 ^ 20 + min mt (m - row0)))

/-- GGEO.rng once its record is read. -/
def ggeoFrom (d : BitVec 3) (w : List Word) (s : State) : Out :=
  let w0 := pw w 0
  if !shapeOk w then raise (trapCapv subKIND) s
  else if 1048560 < wordBits 19 0 w0 ∨ 1048560 < wordBits 39 20 w0 then raise (trapCapv subLEN) s
  else
    let (o, e) := rangeWords s.hart.geo w0
    finish 4 ((s.setOX d o).setOX (d + 1) e)

/-- GGEO.rng (R188). -/
def execGgeoRng (d : BitVec 3) (h : BitVec 4) (k : BitVec 3) (s : State) : Out :=
  let a := s.hart.getOX k
  if d.getLsbD 0 then raise trapIll s
  else match s.checkHandle h needRD with
    | .error t => raise t s
    | .ok c =>
      match s.admits c .engineRead with
      | .no sub => raise (trapCapv sub h) s
      | .wait => park (.admits c.img 0) s
      | .ok =>
        let off := wordBits 39 0 a
        if off % 64 ≠ 0 then raise { cause := .algn, handle := some h } s
        else if c.len < off + 192 then raise (trapCapv subLEN h) s
        else if wordBits 63 40 a ≠ 0 then raise trapIll s
        else if c.proxy.isSome ∧ (s.tile.cached c.asid c.root off).isNone then
          let (n, v) := match s.hart.met with | some (.answered n v) => (n, v) | _ => (0, 0)
          if n < 192 then .next (s.request c h 1 (off + n) 63 [] (.hold n v) 4)
          else
            let w := wordsOf (bytesOf 192 v) 24
            ggeoFrom d w (s.cacheRecord c off w)
        else match s.shapeRecord c off with
          | (s, .error t) => raise { t with handle := some h } s
          | (s, .ok w) => ggeoFrom d w s

/-- The edge word of an engine block (R189). -/
def blockEdge (ext b : Word) : Word :=
  let mv := wordBits 19 0 ext
  let nv := wordBits 39 20 ext
  let k := wordBits 63 40 ext
  let done := 128 * wordBits 63 32 b
  let rem := k - done
  let bits (f : Nat → Bool) : Nat := ((List.range 16).map fun i => if f i then 2 ^ i else 0).foldl (· + ·) 0
  let rowx := bits fun i => decide (mv ≤ 16 * wordBits 15 0 b + i) || rem == 0
  let colx := bits fun j => decide (nv ≤ 16 * wordBits 31 16 b + j)
  BitVec.ofNat 64 ((if 128 ≤ rem then 0 else rem) * 2 ^ 32 + colx * 65536 + rowx)
/-- GGEO.edge (R189). -/
def execGgeoEdge (d : BitVec 3) (k : BitVec 3) (b : BitVec 5) (s : State) : Out := finish 4 (s.setOX d (blockEdge (s.hart.getOX k) (s.x b)))

end Sys2Proof.Machine
end

