-- ==== Sys2Proof/Machine/Package.lean ====
section
/-!
DEFINITION. What the package does to itself: refresh and recalibration, power and temperature, clock steps, ageing, the configuration block, failures of the mesh and of ports (R282, R326, R327, R330 to R334, R343, R359, R364).
-/
namespace Sys2Proof.Machine

open Sys2Proof

/-! ## Refresh (R326, R327) -/

/-- The end of the burst that runs on a channel, if one does (R326). -/
def Die.burstEnd (d : Die) (channel clk : Nat) : Option Nat :=
  match findBy (·.1) channel d.bursts with
  | some b => if clk < b.2.2 then some b.2.2 else none
  | none => none
/-- Whether an alert is pending on a channel: it has arrived and has not been served (R326, R327). -/
def State.alertPending (s : State) (die channel : Nat) : Bool :=
  s.agenda.any fun e => decide (e.1 ≤ s.clk) && (match e.2 with | .alertBackoff d c _ => d == die && c == channel | _ => false)
/-- Whether the channel's next burst has come due: one interval of HBMCTL, in ms of 2,400,000 clk, after its last (R326). -/
def State.burstDue (s : State) (d : Die) (channel : Nat) : Bool :=
  let last := ((findBy (·.1) channel d.bursts).map (·.2.1)).getD 0
  (d.burstEnd channel s.clk).isNone && !s.alertPending d.idx channel && decide (last + wordBits 19 0 d.hbmctl * 2400000 ≤ s.clk)
/-- HBM_RECALIBRATION (R326): a burst of at most 400 ns, whose length is free below that, holds the channel's requests and is counted (log 97); it does not start while an alert is pending or another burst runs on the channel, and is then taken up a clock later. -/
def execHbmRecalibration (die channel : Nat) (s : State) : Out :=
  if ((s.dieAt die).burstEnd channel s.clk).isSome || s.alertPending die channel then .next (s.schedule (s.clk + 1) (.hbmRecalibration die channel))
  else
    let (w, s) := s.draw
    .next (s.modDie die fun d => { d.count 1 channel with bursts := putBy (·.1) (channel, s.clk, s.clk + 1 + w.toNat % 960) d.bursts })
/-- ALERT_BACKOFF (R326, R327): with the most postponed refreshes that HBMCTL allows, the bank issues them first; how many it has postponed since is the controller's, and free up to that limit. An alert that arrives during a burst is served when the burst ends. -/
def execAlertBackoff (die channel bank : Nat) (s : State) : Out :=
  match (s.dieAt die).burstEnd channel s.clk with
  | some t => .next (s.schedule t (.alertBackoff die channel bank))
  | none =>
    let key := channel * 2 ^ 20 + bank
    let d := s.dieAt die
    let limit := wordBits 23 20 d.hbmctl
    let had := ((findBy (·.1) key d.postponed).map (·.2)).getD 0
    let (w, s) := s.draw
    let n := had + w.toNat % (limit - had + 1)
    .next (s.modDie die fun d =>
      { d.count 0 channel with postponed := if limit ≤ n then dropBy (·.1) key d.postponed else putBy (·.1) (key, n) d.postponed })

/-! ## Clock steps (R330, R331, R333) -/

/-- DEGR of a die (R333). -/
def State.degrOf (s : State) (die step : Nat) : Word := BitVec.ofNat 64 (step * 2 ^ 16 + (s.config.withdrawn.filter fun t => dieOf t == die).length)
/-- Issue on a die stops for a time that the spec only bounds; it is free below the bound. -/
def State.stopIssue (s : State) (die most : Nat) : State :=
  let (w, s) := s.draw
  s.modDie die fun d => { d with stopUntil := max d.stopUntil (s.clk + w.toNat % (most + 1)) }
/-- CLOCK_STEP_CHANGE (R331): issue stops at instruction boundaries and resumes within 20 µs; no state is lost. -/
def execClockStepChange (die step : Nat) (s : State) : Out :=
  let step := min step 2
  .next ((s.stopIssue die 48000).modDie die fun d => { d with clockStep := step, degr := s.degrOf die step })
/-- A step of a die decided by the controller: logged with the new DEGR, and made (R329, R331). -/
def State.decideStep (s : State) (die step sub : Nat) : State :=
  (s.log die 8 sub srcControl (s.degrOf die step) 0).schedule s.clk (.clockStepChange die step)
/-- The step that a die is on its way to. -/
def State.stepOf (s : State) (die : Nat) : Nat :=
  (s.agenda.foldl (fun (b : Nat) e => match e.2 with | .clockStepChange d k => if d = die then k else b | _ => b) (s.dieAt die).clockStep)
/-- The die that draws most; the lowest number on a tie. -/
def hottest (draw : List Nat) : Nat := (upTo 8).foldl (fun (b : Nat) d => if draw.getD b 0 < draw.getD d 0 then d else b) 0
/-- The step that the configuration gives a die (R333, R334). -/
def State.baseStep (s : State) (die : Nat) : Nat := s.config.steps.getD die 0
/-- POWER_MEASUREMENT (R330; log 98): the measurement joins those of the last 1 ms, 100 of 10 µs, and their mean, here as their sum, is compared. A mean above PCAP lowers the die that draws most; steps come back one at a time once the mean has stayed below 95 % of PCAP for 100 ms, 10,000 measurements: at the die that the controller names, else at the lowest that is lowered. -/
def execPowerMeasurement (power : Nat) (draw : List Nat) (restore : Nat) (s : State) : Out :=
  let s := { s with power := (power :: s.power).take 100 }
  let cap := s.pcap.toNat
  let n := s.power.length
  let sum := s.power.sum
  if cap * n < sum then
    let d := hottest draw
    let s := { s with calmTicks := 0 }
    .next (if s.stepOf d < 2 then s.decideStep d (s.stepOf d + 1) 1 else s)
  else if 95 * (cap * n) ≤ 100 * sum then .next { s with calmTicks := 0 }
  else
    let s := { s with calmTicks := s.calmTicks + 1 }
    let low := (upTo 8).filter fun d => decide (s.baseStep d < s.stepOf d)
    if s.calmTicks < 10000 ∨ low.isEmpty then .next s
    else
      let d := if low.contains restore then restore else low.headD 0
      .next (s.decideStep d (s.stepOf d - 1) 1)
/-- THERMAL_READING (R330): 105 °C lowers a step, 115 °C stops issue until a reading below 95 °C. -/
def execThermalReading (die celsius : Nat) (s : State) : Out :=
  if 115 ≤ celsius then
    .next ((s.log die 8 2 srcControl (s.degrOf die (s.stepOf die)) 0).modDie die fun d => { d with hotStop := true })
  else if 105 ≤ celsius then .next (if s.stepOf die < 2 then s.decideStep die (s.stepOf die + 1) 2 else s)
  else if celsius < 95 then .next (s.modDie die fun d => { d with hotStop := false })
  else .next s

/-! ## Ageing (R282, R332 to R334) -/

/-- The tasks and records of a tile that is fenced out end in the column of a termination (R19, R20, R282). -/
def State.fenceTasks (s : State) (tile : Nat) : State :=
  (s.allTasks.filter fun t => t.tile == tile).foldl (fun (st : State) t => (st.unqueue t.tid).terminate t.tid .ill) s
/-- TILE_FENCE (R282, R329): logged in class 10, listed in the configuration block. -/
def State.fence (s : State) (tile : Nat) : State :=
  let s := s.log (dieOf tile) 10 0 (srcTile tile) (BitVec.ofNat 64 (coreOf tile)) 0
  { s.fenceTasks tile with config := { s.config with fenced := s.config.fenced ++ [tile] } }
/-- Clocks of the 10 minutes between two reads of the monitors (R332). -/
def ageingInterval : Nat := 1440000000000
/-- The readings and the margins of a read, kept in the configuration block (R332, R334). -/
def State.keepReading (s : State) (readings : List MonitorReading) (margins : List Nat) : State :=
  { s with ageingAt := some s.tick, config := { s.config with history := s.config.history ++ readings, margins := margins } }
/-- Whether an action comes in the order of R332: a tile's path goes first, then a clock step of its die, then the tile. -/
def State.ageingTurn (s : State) : AgeingAction → Bool
  | .none => true
  | .withdraw tile => !s.config.withdrawn.contains tile
  | .lower die => (s.config.withdrawn.any fun t => dieOf t == die) && decide (s.baseStep die < 2)
  | .fence tile => s.config.withdrawn.contains tile && decide (0 < s.baseStep (dieOf tile)) && !s.config.fenced.contains tile
/-- What an action of R332 does: logged in class 8 or 10 and recorded in the configuration block (R332, R333). -/
def State.degrade (s : State) : AgeingAction → State
  | .none => s
  | .withdraw tile =>
    let die := dieOf tile
    let s := { s with config := { s.config with withdrawn := s.config.withdrawn ++ [tile] } }
    let s := s.modDie die fun d => { d with degr := s.degrOf die d.clockStep }
    s.log die 8 3 srcControl (s.degrOf die (s.dieAt die).clockStep) 0
  | .lower die =>
    let steps := (upTo 8).map fun d => if d = die then s.baseStep d + 1 else s.baseStep d
    let s := { s with config := { s.config with steps := steps } }
    s.decideStep die (max (s.stepOf die) (s.baseStep die)) 3
  | .fence tile => s.fence tile
/-- AGEING_MONITOR_READ (R332): every 10 minutes the readings join the history and the margins are planned anew, and a margin that no longer holds brings the next action in the order of the rule; a read before its time, or an action out of its order, does nothing. -/
def execAgeingMonitorRead (read : MonitorRead) (s : State) : Out :=
  if s.ageingAt.any fun t => decide (s.tick < t + ageingInterval) then .next s
  else
    let s := s.keepReading read.readings read.margins
    .next (if s.ageingTurn read.action then s.degrade read.action else s)

/-- The dies as the configuration sets them (R333, R334). -/
def State.applyConfig (s : State) : State :=
  (upTo 8).foldl (fun (st : State) d => st.modDie d fun k => { k with clockStep := min (st.baseStep d) 2, degr := st.degrOf d (min (st.baseStep d) 2) }) s
/-- CONFIG_BLOCK_LOAD (R334): a block whose signature fails is ignored; every die then runs at 1.6 GHz with every double-rate path withdrawn, and no launch is accepted. -/
def execConfigBlockLoad (blk : ConfigBlock) (signed : Bool) (s : State) : Out :=
  if signed then .next { s with config := blk, configGood := true }.applyConfig
  else .next { s with config := { fenced := [], withdrawn := List.range 40960, steps := List.replicate 8 2 }, configGood := false }.applyConfig

/-! ## Failures of links and ports (R282, R343, R359, R363, R364) -/

/-- Source index of a mesh link or bridge (R328). -/
def srcLink (link : Nat) : Nat := 5200 + link % 16
/-- MESH_FLIT_CRC_ERROR (R282): retried from the retry buffer, and logged as corrected. -/
def execMeshFlitCrcError (die link : Nat) (s : State) : Out :=
  .next (s.log die 5 1 (srcLink link) (BitVec.ofNat 64 (srcLink link)) 0)
/-- MESH_LINK_FAILURE (R282): issue stops for at most 50 µs; a packet lost beyond replay is logged and leaves MERR to its issuer, the task and the stream of it. -/
def execMeshLinkFailure (die link : Nat) (lost : Option (BitVec 32 × Nat)) (s : State) : Out :=
  let s := s.stopIssue die 120000
  match lost with
  | none => .next s
  | some (tid, no) => .next ((s.log die 5 2 (srcLink link) (BitVec.ofNat 64 (srcLink link)) 0).pend tid no { cause := .merr })
/-- PORT_FAILURE (R343, R364): the port carries nothing; its posted writes and its flush go to the next trained port. -/
def execPortFailure (port : Nat) (s : State) : Out :=
  if h : port < 20 then
    let s := { s with lanes := s.lanes.set port 0 h, portDown := s.portDown.set port true h }
    let p := s.hostPort
    let move (l : List Nat) : List Nat := (l.map fun q => if q = port then p else q).eraseDups
    let f (k : Hart) : Hart := { k with posted := move k.posted }
    let s := { s with hart := f s.hart, harts := s.harts.map f, hostWrites := s.hostWrites.map fun (w : HostWrite) => if w.port = port then { w with port := p } else w }
    if s.flushWait.contains port then
      .next (({ s with flushWait := s.flushWait.filter fun q => q != port }).startFlush [p])
    else .next s
  else .next s

end Sys2Proof.Machine
end

