-- ==== Sys2Proof/Machine/Sched.lean ====
section
/-!
DEFINITION. What a core does by itself: slots that choose records and contexts, the share arbiter, budget and watchdog, SEIZ, user events, and stealing with the donations that move with records (R18, R101, R106, R110 to R114, R186, R268 to R271, R347).
-/
namespace Sys2Proof.Machine

open Sys2Proof

/-! ## Slots (R11, R15, R111, R112, R186, R269) -/

/-- The free slots of a tile that records may take: the lowest go to the forking streams first (R15, R111). -/
def State.openSlots (s : State) (tile : Nat) : List Nat := (s.freeSlots tile).drop (s.forking tile).length
/-- GEO of a task of a launch on a tile (R186). -/
def Launch.geo (l : Launch) (tile : Nat) : Word :=
  BitVec.ofNat 64 ((if l.ganged then 2 ^ 49 else 0) + l.cols * 2 ^ 40 + l.rows * 2 ^ 32 + l.col * 2 ^ 23 + l.row * 2 ^ 16 + colOf tile * 2 ^ 7 + rowOf tile)
def State.geoOf (s : State) (launch tile : Nat) : Word := match s.launchAt? launch with | some l => l.geo tile | none => 0

/-- Stream 0 of a new task in a slot (R11, R131). -/
def TaskRec.stream (r : TaskRec) (tile slot : Nat) (geo : Word) (readyAt : Nat) : Hart :=
  { Hart.blank with
    tid := r.tid, tile := tile, slot := some slot, live := true, pc := BitVec.ofNat 64 r.entry
    x := (Vector.replicate 32 0).set 10 r.arg, geo := geo, readyAt := readyAt
    lfsr := BitVec.ofNat 64 ((2 * r.tid.toNat + 1) % 2 ^ 32)
    fs := Vector.ofFn fun i => r.fs.getD i.val 0 }
/-- The capabilities of a record become its task's (R9, R23). -/
def State.ownHandles (s : State) (tid : Tid) (images : List Nat) : State :=
  images.foldl (fun (st : State) i => st.modRec (i % 2 ^ 23) fun c => if c.owner = noOwner then { c with owner := tid } else c) s
/-- A context frame read back: correctable errors are corrected, and an uncorrectable one is logged and leaves MERR to its task (R120, R329; log 93). -/
def State.readFrame (s : State) (tid : Tid) (a n : Nat) : State :=
  let s := s.correct a n
  match s.ue.find? fun u => decide (a ≤ u ∧ u < a + n) with
  | none => s
  | some u => let (die, sub, src, detail) := memSite u; (s.log die 4 sub src (BitVec.ofNat 64 detail) 0).pend tid 0 { cause := .merr }
/-- A record chosen by a slot: a new task issues for the first time, a saved context is resumed with its watchdog cleared (R11, R14, R18, R111). base is the clock from which the readiness of R111 counts. -/
def State.occupy (s : State) (tile slot : Nat) (r : TaskRec) (spilled : Bool) (base : Nat) : State :=
  if r.saved then
    let s := match s.taskAt? r.tid with | some t => t.frame.foldl (fun (st : State) (f : Nat × Nat) => st.readFrame r.tid f.1 f.2) s | none => s
    let s := s.modTask r.tid fun t => { t with state := .running, frame := [], watchdog := 0 }
    s.modHart r.tid 0 fun h => { h with slot := some slot, readyAt := max (base + 48) (s.clk + 1) }
  else
    let s := (s.ownHandles r.tid r.h).modTask r.tid fun t => { t with state := .running, tile := tile, watchdog := 0 }
    s.putHart (r.stream tile slot (s.geoOf r.launch tile) (max (base + if spilled then 24 else 4) (s.clk + 1)))
/-- SLOT_CHOICE (R112, R268, R269): the choice waits for the deque controller, and the readiness of R111 counts from the clock in which the slot and the record were there. -/
def execSlotChoice (tile slot : Nat) (s : State) : Out :=
  let t := s.tileAt tile
  if !(s.openSlots tile).contains slot ∨ s.clk < t.dequeAt then .next s
  else match bestOf (t.eligible slot) with
    | none => .next s
    | some q =>
      let spilled := t.spill.any fun p => p.item.tid == q.item.tid
      let base := if t.dequeAt = s.clk then max (t.freeAt.toArray.getD slot 0) q.clk else s.clk
      let took (k : Tile) : Tile := { k with took := if h : slot < 8 then k.took.set slot (k.took[slot] ++ [q.item.cls.toNat]) h else k.took }
      .next (((s.takeRecord tile q).modTile tile took).occupy tile slot q.item spilled base)

/-! ## Tenant shares (R110, R112 to R114) -/

/-- The valid entries of a core's share table: class and weight (R113). -/
def Die.shareOf (d : Die) (core : Nat) : List (Nat × Nat) :=
  let es := ((upTo 8).map fun i => assoc d.share (8 * core + i)).filterMap fun w =>
    if w.getLsbD 18 ∧ 1 ≤ wordBits 17 10 w ∧ wordBits 9 0 w ≠ 0x3FF then some (wordBits 9 0 w, wordBits 17 10 w) else none
  es.filter fun e => (es.filter fun f => f.1 == e.1).length == 1
/-- The class of the largest working credit; ties to the lowest class. -/
def topCredit : List (Nat × Int) → Option (Nat × Int)
  | [] => none
  | a :: l => match topCredit l with | none => some a | some b => if a.2 < b.2 ∨ (a.2 = b.2 ∧ b.1 < a.1) then some b else some a
/-- The classes given to n slots in order (R114). -/
def giveSlots : Nat → Nat → List (Nat × Int) → List Nat
  | 0, _, _ => []
  | n + 1, w, t =>
    match topCredit t with
    | none => 0x3FF :: giveSlots n w t
    | some (c, _) => c :: giveSlots n w (t.map fun x => if x.1 = c then (x.1, x.2 - 8 * (w : Int)) else x)
/-- The sum of the valid weights. -/
def totalWeight (v : List (Nat × Nat)) : Nat := v.foldl (fun a e => a + e.2) 0
/-- QOWN for the coming rotation from the balances. -/
def ownersOf (valid : List (Nat × Nat)) (balance : Nat → Int) : Vector Nat 8 :=
  let w := totalWeight valid
  let l := giveSlots 8 w (valid.map fun e => (e.1, (balance e.1 + 64 * Int.ofNat e.2 : Int)))
  Vector.ofFn fun i => l.getD i.val 0x3FF
/-- Whether a slot given a class in the rotation took no record of it (R114). -/
def Tile.leftUnused (t : Tile) (cls : Nat) : Bool := (upTo 8).any fun i => t.qown.toArray.getD i 0x3FF == cls && !(t.took.toArray.getD i []).contains cls
/-- ROTATION_BOUNDARY (R114). -/
def execRotationBoundary (tile : Nat) (s : State) : Out :=
  let t := s.tileAt tile
  let valid := (s.dieAt (dieOf tile)).shareOf (coreOf tile)
  let w := totalWeight valid
  let next (c : ClassShare) : ClassShare :=
    let weight := ((findBy (·.1) c.cls valid).map (·.2)).getD 0
    let b : Int := c.balance + 64 * (weight : Int) - (w : Int) * (c.used : Int)
    { c with balance := if t.leftUnused c.cls then min b 0 else b, used := 0 }
  let shares := t.shares.map next
  let bal (c : Nat) : Int := ((findBy ClassShare.cls c shares).map (·.balance)).getD 0
  .next (s.putTile { t with shares := shares, took := Vector.replicate 8 [], qown := ownersOf valid bal })
/-- SHARE_WINDOW_START (R113, R114): the writes made to the table take effect, and every balance is 0. -/
def execShareWindowStart (tile : Nat) (s : State) : Out :=
  let core := coreOf tile
  let mine (e : Nat × Word) : Bool := e.1 / 8 == core
  let s := s.modDie (dieOf tile) fun d => { d with share := (d.shareNext.filter mine).foldl (fun l e => putBy (·.1) e l) (d.share.filter fun e => !mine e) }
  let valid := (s.dieAt (dieOf tile)).shareOf core
  let shares := valid.foldl (fun (l : List ClassShare) e => putBy ClassShare.cls ⟨e.1, 0, 0⟩ l) []
  .next (s.modTile tile fun t => { t with shares := shares, took := Vector.replicate 8 [], qown := ownersOf valid fun _ => 0 })
/-- The slot-cycles of one clock charged to the classes of the tasks that hold the slots (R110, R112). -/
def Tile.charge (t : Tile) (held : List Nat) : Tile :=
  { t with shares := t.shares.map fun (c : ClassShare) => { c with used := c.used + (held.filter fun k => k == c.cls).length } }

/-! ## Budget, watchdog, SEIZ and user events at the boundaries of stream 0 (R18, R101, R106, R347) -/

/-- Stream 0 of a running task in its slot, at an instruction boundary. -/
def State.boundaryHart (s : State) (tid : Tid) : Option Hart :=
  match s.taskAt? tid, s.hartAt? tid 0 with
  | some t, some h => if t.state = .running ∧ h.slot.isSome ∧ h.level = .u ∧ h.atBoundary ∧ (h.wait.isSome ∨ h.readyAt ≤ s.clk) then some h else none
  | _, _ => none
/-- Stream 0 in focus with its wait abandoned and the donations of the wait ended (R18, R106, R271). -/
def State.atStream0 (s : State) (tid : Tid) (h : Hart) : Option State :=
  (if h.wait.isSome then (s.abandonWait h).stopDonating tid h.tile else s).focusOn tid 0
def State.budgetOut (_ : State) (t : Task) : Bool := !t.unlimited && t.budget == 0
def State.watchdogOut (s : State) (t : Task) : Bool := decide (2 ^ (s.dieAt (dieOf t.tile)).wdlim ≤ t.watchdog)
/-- BUDG (R18): with it a watchdog that has expired is cleared. -/
def execBudg (tid : Tid) (s : State) : Out :=
  match s.boundaryHart tid, s.taskAt? tid with
  | some h, some t =>
    if !s.budgetOut t then .next s
    else match s.atStream0 tid h with
      | none => .next s
      | some f => raise { cause := .budg } (if f.watchdogOut f.task then f.setTask { f.task with watchdog := 0 } else f)
  | _, _ => .next s
/-- WDOG (R18): taking it clears the counter. -/
def execWdog (tid : Tid) (s : State) : Out :=
  match s.boundaryHart tid, s.taskAt? tid with
  | some h, some t =>
    if !s.watchdogOut t then .next s
    else match s.atStream0 tid h with
      | none => .next s
      | some f => raise { cause := .wdog } (f.setTask { f.task with watchdog := 0 })
  | _, _ => .next s
/-- SEIZ in stream 0 after a resume (R347): ERRST as it stood is kept for the ERET. -/
def State.takeSeiz (s : State) : State :=
  let old := s.hart.errst
  let s := (s.setTask { s.task with seizPending := false }).takeTrap { cause := .seiz, detail := BitVec.ofNat 16 s.seize.seizes.toNat }
  s.setHart { s.hart with errstSeiz := some old }

def Cause.userEvent : Cause → Bool | .capv | .revk | .pflt | .ownx => true | _ => false
/-- The user event that a stream 0 takes (R106): class, and the error of class 1; the lower class first. -/
def State.dueEvent (_ : State) (t : Task) (h : Hart) : Option (Nat × Option PendErr) :=
  let on (i : Nat) : Bool := h.evhpc.getLsbD i
  if on 63 then none
  else match t.pendErr with
    | some e => if e.err.cause.userEvent ∧ on 48 then some (1, some e) else if t.ev2 ∧ on 49 then some (2, none) else if t.ev3 ∧ on 50 then some (3, none) else none
    | none => if t.ev2 ∧ on 49 then some (2, none) else if t.ev3 ∧ on 50 then some (3, none) else none
/-- The stream as the handler of a user event finds it (R69, R106). -/
def Hart.enterEvent (h : Hart) (cls cause sub : Nat) : Hart :=
  let (x, sh) := swapShadow h.x h.ush
  { h with x := (x.set 31 h.pc).set 30 (eventWord cls cause sub), ush := sh, repstU := h.repst, repst := 0
           evhpc := h.evhpc ||| (1 <<< 63), pc := BitVec.ofNat 64 (h.evhpc.toNat % 2 ^ 48), met := none, order := none, walkFail := none }
/-- USER_EVENT (R102, R103, R106). -/
def execUserEvent (tid : Tid) (s : State) : Out :=
  match s.boundaryHart tid, s.taskAt? tid with
  | some h, some t =>
    (match s.dueEvent t h, s.atStream0 tid h with
    | some (1, some e), some f =>
      let f := f.setTask { f.task with pendErr := none }
      let k := { f.hart with errst := errstWord e.err e.stream false f.hart.errst }
      .next (f.setHart (k.enterEvent 1 e.err.cause.code e.err.sub))
    | some (2, _), some f => .next ((f.setTask { f.task with ev2 := false }).setHart (f.hart.enterEvent 2 0 0))
    | some (3, _), some f => .next ((f.setTask { f.task with ev3 := false }).setHart (f.hart.enterEvent 3 0 0))
    | _, _ => .next s)
  | _, _ => .next s

/-! ## Stealing (R268, R270; log 16) -/

/-- A position of the snake ring of a cluster (R270). -/
def ringTile (c p : Nat) : Nat :=
  let r := p % 16 / 4
  let k := p % 16 % 4
  tileIx (c / 80 * 4 + r) (c % 80 * 4 + if r % 2 = 0 then k else 3 - k)
def ringPos (t : Nat) : Nat := let r := rowOf t % 4; let k := colOf t % 4; 4 * r + if r % 2 = 0 then k else 3 - k
/-- The victims of a round in order (R270; log 16). -/
def victimsOf (tile clk : Nat) : List Nat :=
  let ring := ((upTo 4).map fun i => [ringTile (clusterOf tile) (ringPos tile + (i + 1)), ringTile (clusterOf tile) (ringPos tile + 16 - (i + 1))]).flatten
  let d := dieOf tile
  let near := (upTo 8).map fun i => tileOfCore d (Config.stealPick tile clk i % 5120)
  let far := (upTo 4).map fun i => let n := Config.stealPick tile clk (8 + i); tileOfCore ((d + 1 + n % 7) % 8) (n / 7 % 5120)
  ring ++ near ++ far

/-- A core that steals: a free slot, nothing eligible, a place in its deque, and no request out (R270, R382). -/
def State.mayAsk (s : State) (tile : Nat) : Bool :=
  !(s.openSlots tile).isEmpty && (bestOf ((s.tileAt tile).eligible 8)).isNone && !s.dequeFull tile && !s.config.fenced.contains tile
def Tile.rests (t : Tile) (clk : Nat) : Bool := match t.steal with | .idle => true | .backoff c => decide (c ≤ clk) | .asking _ _ => false
/-- A record that may be stolen. -/
def Queued.stealable (q : Queued) (far : Bool) : Bool := !q.offered && !q.item.pinned && !q.item.saved && (!far || q.item.flags.getLsbD 0)
/-- The record a victim offers: its topmost of the class asked for, else its topmost (R270). -/
def Tile.offerOf (t : Tile) (far : Bool) (cls : Nat) : Option Queued :=
  let l := (t.spill ++ t.deque).filter fun q => q.stealable far
  match l.find? fun q => q.item.cls.toNat == cls with | some q => some q | none => l.head?
/-- The class a thief asks for: the owner field of its lowest free slot. -/
def State.wantedClass (s : State) (tile : Nat) : Nat :=
  match s.openSlots tile with | k :: _ => (s.tileAt tile).qown.toArray.getD k 0x3FF | [] => 0x3FF

/-- The next request of a round, or the back-off at its end (R270). -/
def State.askNext (s : State) (thief : Nat) : List Nat → State
  | [] => s.modTile thief fun t => { t with steal := .backoff (s.clk + 1024) }
  | v :: vs =>
    (s.modTile thief fun t => { t with steal := .asking v vs }).schedule (s.clk + s.mesh thief v) (.stealRequest thief v (dieOf thief != dieOf v))
/-- STEAL_ROUND (R270). -/
def execStealRound (tile : Nat) (victims : List Nat) (s : State) : Out :=
  .next (if s.mayAsk tile && (s.tileAt tile).rests s.clk then s.askNext tile victims else s)

def Queued.mark (tid : Tid) (on : Bool) (q : Queued) : Queued := if q.item.tid = tid then { q with offered := on } else q
def Tile.markOffer (t : Tile) (tid : Tid) (on : Bool) : Tile := { t with deque := t.deque.map (Queued.mark tid on), spill := t.spill.map (Queued.mark tid on) }
/-- STEAL_REQUEST (R270): a victim with a free slot answers none, else it offers a record. -/
def execStealRequest (thief victim : Nat) (far : Bool) (s : State) : Out :=
  let back := s.clk + s.mesh thief victim
  let offer := if !(s.freeSlots victim).isEmpty then none else (s.tileAt victim).offerOf far (s.wantedClass thief)
  match offer with
  | none => .next (s.schedule back (.stealOffer thief victim 0))
  | some q => .next ((s.modTile victim fun t => t.markOffer q.item.tid true).schedule back (.stealOffer thief victim q.item.tid))

/-- The record on offer leaves the victim and enters the thief's deque (R268, R270). -/
def State.takeOffer (s : State) (thief victim : Nat) (q : Queued) : State :=
  let s := (s.takeRecord victim q).modTile thief fun t => { t with steal := .idle }
  (s.modTask q.item.tid fun t => { t with tile := thief }).pushRecord thief { q.item with home := thief }
/-- Whether a core wants a record of its deque for a slot in this clock (R268, R269). -/
def State.wantsRecord (s : State) (tile : Nat) : Bool := (s.openSlots tile).any fun k => (bestOf ((s.tileAt tile).eligible k)).isSome
/-- STEAL_OFFER (R270): the thief always accepts, when the victim's controller is free of its own core's choice (R268); without an offer it asks the next victim while it still has nothing to choose. -/
def execStealOffer (thief victim : Nat) (tid : Tid) (s : State) : Out :=
  let v := s.tileAt victim
  match (v.spill ++ v.deque).find? fun q => q.item.tid == tid && q.offered with
  | some q =>
    if s.clk < v.dequeAt ∨ s.wantsRecord victim then .next (s.schedule (s.clk + 1) (.stealOffer thief victim tid))
    else .next (s.takeOffer thief victim { q with offered := false })
  | none =>
    match (s.tileAt thief).steal with
    | .asking _ rest => .next (if s.mayAsk thief then s.askNext thief rest else s.modTile thief fun t => { t with steal := .idle })
    | _ => .next s

/-! ## Donations (R271) -/

/-- A donation noted at its donee, or ended: in the task and in the record that stands in a deque. -/
def changeDonation (donor : Tid) (prio hops : Nat) (l : List Donation) : List Donation :=
  let l := l.filter fun d => d.donor != donor
  if prio = 0 then l else l ++ [⟨donor, prio, hops⟩]
/-- The donations that a task passes on change with its effective priority, to at most 8 hops from the first waiter (R271). -/
def State.passOn (s : State) (t : Task) (hops : Nat) : State :=
  if 8 ≤ hops then s
  else (s.donees t).foldl (fun (st : State) d =>
    match st.placeOf d with
    | some (k, _) => if d = t.tid then st else st.schedule (st.clk + s.mesh t.tile k) (.donationArrival t.tid d t.prio (hops + 1))
    | none => st) s
/-- DONATION_ARRIVAL (R271): priority 0 ends the donation. -/
def execDonationArrival (donor donee : Tid) (prio hops : Nat) (s : State) : Out :=
  match s.taskAt? donee with
  | none => .next s
  | some t =>
    let t' := { t with donations := changeDonation donor prio hops t.donations }
    let s := (s.putTask t').modRecord donee fun r => { r with donations := t'.donations }
    .next (if t'.prio = t.prio then s else s.passOn t' hops)

end Sys2Proof.Machine
end

