-- ==== Sys2Proof/Machine/SeizeEv.lean ====
section
/-!
DEFINITION. Seize: the control block, its commands, what quiescing settles, the image, freeze, resume, thaw and reset (R201, R252, R277, R281, R335 to R347).
-/
namespace Sys2Proof.Machine

open Sys2Proof

/-- A host port carries traffic. -/
def State.hostUp (s : State) : Bool := (upTo 4).any fun p => s.lanes.toArray.getD p 0 != 0 && !(s.portDown.toArray.getD p false)
def State.setSeize (s : State) (b : SeizeBlock) : State := { s with seize := b }
/-- A command refused: the state stays, and the reason stands in the block (R336, R337). -/
def State.refuseSeize (s : State) (why : Nat) : State := s.setSeize { s.seize with refusal := why }

/-! ## The stop (R338, R340) -/

/-- Whether a stop of issue abandons the wait of a stream (R338, R340, R355): its request has not left the slot, or it is a SWADV, which waits; and it is no wait of a saved context. -/
def State.abandonable (_ : State) (h : Hart) : Bool :=
  match h.wait with
  | none => false
  | some (.data _ _) | some (.reply _) | some (.peerReply _ _) | some (.halo _ _ _) => false
  | some (.sweepReq _ r) => r.act == .advance
  | some _ => h.slot.isSome
/-- Issue stops at instruction boundaries on every die (R338 step 1); packets that wait for a state of their root stay with their senders (R339). -/
def State.stopWork (s : State) : State :=
  let s := (s.allHarts.filter s.abandonable).foldl (fun (st : State) h => (st.abandonWait h).stopDonating h.tid h.tile) s
  { s with links := s.links.map fun (l : Link) => { l with ownerWait := [] } }

/-! ## What quiescing settles (R339) -/

/-- Whether a record's bytes lie on the tile's cluster. -/
def State.inCluster (s : State) (tile : Nat) (img : Image) : Bool :=
  match s.rec? img with
  | none => true
  | some c =>
    (c.level == .tile && clusterOf (c.base / 2 ^ 18) == clusterOf tile) || (c.level == .cluster && !c.window && (c.base - 2 ^ 40) / 2 ^ 22 == clusterOf tile)
/-- A transfer within the cluster completes; another is captured as a record (R201). -/
def State.opInCluster (s : State) (tile id : Nat) : Bool :=
  match (s.tileAt tile).xfer? id with
  | none => true
  | some o =>
    (match o.kind with
    | .copy | .pattern _ | .select _ _ _ | .move => true
    | .gather _ _ _ _ i => s.inCluster tile i
    | .packet (some (hp, _)) none => s.inCluster tile hp
    | _ => false) && (o.src.toList ++ o.legs.map (·.dst)).all (s.inCluster tile)
/-- A fill completes: an OLD wherever its source lies, a COPYM within the cluster (R181, R201). -/
def State.fillSettles (s : State) (tile : Nat) (f : FillOp) : Bool := !f.transfer || s.inCluster tile f.img
/-- Whether an earlier fill of its slots keeps a fill from joining. -/
def Tile.fillBlocked (t : Tile) (op : Nat) : Bool :=
  match t.fills.find? fun f => f.seq == op with
  | some f => t.fills.any fun g => decide (g.seq < f.seq) && (slotsOf g.n g.fmt).any (slotsOf f.n f.fmt).contains
  | none => false
/-- Whether a replay has stopped a launch's tasks, so that its step is completed at quiescing (R352); one whose packet waits to be accepted goes on after resume. -/
def State.replayRuns (s : State) (li : Nat) : Bool :=
  match s.launchAt? li with
  | some l => l.replayPending && !l.restored && (s.tasksOf li).any fun t => t.state == .trapped && t.handler.isNone && !t.ending
  | none => false
/-- Whether the step of a replay can be completed: what its tasks have in flight has ended. -/
def State.replaySettles (s : State) (li : Nat) : Bool :=
  s.replayRuns li && (s.tasksOf li).all fun t => s.taskQuiet t.tid t.tile && (s.hartsOf t.tid).all Hart.atBoundary
/-- Whether an operation belongs to a task that a replay stops. -/
def State.opReplayed (s : State) (tile id : Nat) : Bool :=
  match (s.tileAt tile).xfer? id with
  | some o => (s.taskAt? o.tid).any fun t => s.replayRuns t.launch
  | none => false
/-- Whether quiescing carries out a step that is on its way. -/
def State.settles (s : State) (e : Event) : Bool :=
  match e with
  | .loadResponse _ _ | .homePerform _ | .flushPacket _ | .matrixOpStart _ | .matrixOpComplete _ _ | .sweepRelease _ _ => true
  | .oldJoin tile op _ => !(s.tileAt tile).fillBlocked op && ((s.tileAt tile).fills.find? fun f => f.seq == op).all (s.fillSettles tile)
  | .transferJoin tile op | .scanUnitLeg tile op _ => s.opInCluster tile op || s.opReplayed tile op
  | .haloReceive tile op | .haloReply tile op | .haloDepositJoin tile op => s.opReplayed tile op
  | .engineLegError tile op _ _ _ => s.opInCluster tile op || s.opReplayed tile op || ((s.tileAt tile).fills.find? fun f => f.seq == op).any (s.fillSettles tile)
  | .replay l => s.replaySettles l
  | _ => false
/-- The state with its clock at least at a value, for work that ends while no count of clocks advances (R344). -/
def State.at_ (s : State) (clk : Nat) : State := { s with clk := max s.clk clk }
/-- The first step on its way that quiescing carries out. -/
def State.nextSettle (s : State) : Option (Nat × Event) := s.agenda.find? fun e => s.settles e.2
/-- A store-buffer entry that can drain. -/
def State.nextDrain (s : State) : Option (Nat × Nat) :=
  s.allTiles.findSome? fun t => ((List.range t.sb.length).find? fun i => ((s.at_ ((t.sb.map (·.due)).foldl max 0)).drains t.idx i)).map fun i => (t.idx, i)
/-- A matrix operation that can start. -/
def State.nextStart (s : State) : Option Nat := (s.allTiles.find? fun t => t.canStart (s.clk + 240)).map (·.idx)
/-- The sweep request that arrives first, with its clock (R315). -/
def State.nextRequest (s : State) : Option (Nat × Hart) :=
  (s.allHarts.filterMap fun h => match h.wait with | some (.sweepReq due _) => some (due, h) | _ => none).foldl
    (fun (b : Option (Nat × Hart)) x => match b with | some y => if x.1 < y.1 then some x else b | none => some x) none
/-- What keeps a store-buffer entry from draining is started: a line of the window is recalled, a port is flushed (R252). -/
def State.nextPush (s : State) : Option State :=
  s.allTiles.findSome? fun t => (upTo t.sb.length).findSome? fun i =>
    let u := (s.at_ ((t.sb.map (·.due)).foldl max 0)).pushDrain t.idx i
    if u.winSnooped ≠ s.winSnooped ∨ u.flushWait ≠ s.flushWait then some { u with clk := s.clk } else none
/-- What the device still waits for from outside: a line that the host holds, under an entry of a store buffer, or a peer's bytes for an OLD (R181, R252). An entry behind a packet that a peer has not acknowledged is captured with the link queue of the packet. -/
def State.awaitsOutside (s : State) : Bool :=
  (s.allTiles.any fun t => t.sb.any s.lineBusy)
    || s.links.any fun l => l.asked.any fun x => match x.xfer with
      | some (tile, op, c) => c % 3 == 2 && ((s.tileAt tile).fills.find? fun f => f.seq == op).any (s.fillSettles tile)
      | none => false
/-- Every step of R339 is complete. -/
def State.settled (s : State) : Bool :=
  s.nextSettle.isNone && s.nextDrain.isNone && s.nextPush.isNone && s.nextStart.isNone && s.nextRequest.isNone && !s.awaitsOutside

/-! ## The image (R341, R342) -/

/-- The bytes by which a section of an image holds the units that the rules give no layout of; the order of the sections is the rule's (log 9). -/
opaque imageUnit : Nat → Device → List Byte
/-- An operation record: the instruction word, the stream, the task, the live destinations with their bytes done, and the operands (R342). -/
def opRecord (word : BitVec 32) (no : Nat) (tid : Tid) (legs : List (Bool × Nat)) (args : List Word) : List Word :=
  let live := ((List.range 4).map fun i => if (legs.getD i (false, 0)).1 then 2 ^ i else 0).sum
  [BitVec.ofNat 64 (live * 2 ^ 34 + no % 4 * 2 ^ 32 + word.toNat), tid.zeroExtend 64]
    ++ ((List.range 4).map fun i => BitVec.ofNat 64 ((legs.getD i (false, 0)).2 % 2 ^ 41)) ++ (args ++ List.replicate 10 0).take 10
def Leg.progress (l : Leg) : Bool × Nat := match l.status with | none => (true, l.done) | some _ => (false, l.len)
def XferOp.record (o : XferOp) : List Word := opRecord o.word o.no o.tid (o.legs.map Leg.progress) o.args
/-- The record of a COPYM: its one destination is its slot, of which nothing is written before the join edge. -/
def FillOp.record (f : FillOp) : List Word := opRecord f.word f.no f.tid [(true, 0)] f.args
/-- The records of the operations that stand in the engines. -/
def State.opRecords (s : State) : List (Nat × List Word) :=
  s.allTiles.flatMap fun t => (t.xfers.map fun o => (t.idx, o.record)) ++ t.fills.map fun f => (t.idx, f.record)
/-- The context frames of the tasks that stand in slots (R119). -/
def State.slotContexts (s : State) : List (Tid × List Byte) :=
  (s.allTasks.filter fun t => (s.hartsOf t.tid).any fun h => h.slot.isSome).map fun t => (t.tid, s.frameOf t (s.hartsOf t.tid))
/-- The HBM pages that a buffer or a shadow version holds, as ranges in rising order, and the ranges between them. -/
def State.heldPages (s : State) : List (Nat × Nat) := s.takenHbm.foldl (fun (l : List (Nat × Nat)) r => putBy (·.1) r l) []
def pageGaps : Nat → List (Nat × Nat) → List (Nat × Nat)
  | a, [] => if a < hbmBase + hbmSize then [(a, hbmBase + hbmSize - a)] else []
  | a, r :: rs => (if a < r.1 then [(a, r.1 - a)] else []) ++ pageGaps (max a (r.1 + r.2)) rs
/-- The groups of a range as their channels hold them, each behind its mode (R322, R338). -/
def State.pageBytes (s : State) (r : Nat × Nat) : List Byte :=
  (List.range (r.2 / 256)).flatMap fun i => bytesOf 1 (s.groupMode (r.1 + 256 * i)) ++ s.storedAt (r.1 + 256 * i)
/-- Sections 2 to 8 of the image, in the order of R341. -/
def State.imageSections (s : State) : List Byte :=
  imageUnit 2 s.toDevice ++ imageUnit 3 s.toDevice ++ imageUnit 4 s.toDevice
    ++ (s.slotContexts.flatMap (·.2) ++ s.opRecords.flatMap (wordBytes ·.2) ++ imageUnit 5 s.toDevice)
    ++ imageUnit 6 s.toDevice ++ s.readPhys windowBase (2 ^ 18 - 64) ++ s.heldPages.flatMap s.pageBytes
/-- The 4 KiB header (R341): its length, the device, the digest, the signature, and the free pages as ranges; their places in it are the model's (log 9). -/
def Image0.header (i : Image0) : List Byte :=
  padTo 4096 (bytesOf 8 i.length ++ bytesOf 8 i.device ++ bytesOf 64 i.digest.toNat ++ bytesOf 132 i.signature.toNat ++ i.free.flatMap fun r => bytesOf 8 r.1 ++ bytesOf 8 r.2)
/-- The image of this device, number 0, at a base. -/
def State.imageOf (s : State) (base : Nat) : Image0 :=
  let d := Config.digest s.imageSections
  { base := base, length := 4096 + s.imageSections.length, device := 0, digest := d, signature := Config.sign 0 d
    free := pageGaps hbmBase s.heldPages, contexts := s.slotContexts, records := s.opRecords, body := s.toDevice }
/-- The image whose header stands whole at the base of the block (R345). -/
def State.image? (s : State) : Option Image0 :=
  match s.images.find? fun i => i.base == s.seize.base.toNat with
  | some i => if s.readPhys (hostBase + i.base) 4096 = i.header then some i else none
  | none => none
/-- The signature of an image verifies with the identity of the device that it names (R345). -/
def Image0.signed (i : Image0) : Bool := i.signature == Config.sign i.device i.digest
/-- The sections that stand in host memory match the digest of the header (R345). -/
def State.imageSound (s : State) (i : Image0) : Bool := Config.digest (s.readPhys (hostBase + i.base + 4096) (i.length - 4096)) == i.digest

/-! ## The links (R340, R346, R369) -/

/-- The time in which nothing went over the links does not count against them: what is unanswered counts from now (R340, R346, R369). -/
def State.restartLinks (s : State) : State :=
  { s with links := s.links.map fun (l : Link) => { l with unansweredAt := l.unansweredAt.map fun _ => s.ptp, unacked := l.unacked.map fun (x : Sent) => { x with at_ := s.ptp } } }

/-! ## Commands (R336, R337, R345) -/

def SeizeBlock.aligned (b : SeizeBlock) : Bool := b.base.toNat % 4096 == 0
/-- The region of a seize (R336). -/
def SeizeBlock.regionOk (b : SeizeBlock) : Bool := b.aligned && decide (800 * 2 ^ 30 ≤ b.length.toNat)
/-- No launch is resident, no ASID is live and no user queue is valid. -/
def State.idle (s : State) : Bool := s.launches.isEmpty && !(s.asids.any fun a => a.2.toNat / 2 ^ 63 == 1) && !(s.queues.any fun q => qValid q.2)
/-- The refusal of a resume, by the order of R345; device number 0 in an image is this device. -/
def State.resumeRefusal (s : State) : Nat :=
  if !s.idle then 5
  else if !s.seize.aligned ∨ s.seize.length.toNat < 4096 then 2
  else match s.image? with
    | none => 3
    | some i => if s.seize.length.toNat < i.length then 3 else if !i.signed then 3 else if i.device ≠ 0 then 4 else 0

/-- SEIZ becomes pending for every task whose stream 0 asks for it (R347). -/
def State.markSeiz (s : State) : State :=
  let on (t : Task) : Task := { t with seizPending := match s.hartAt? t.tid 0 with | some h => h.notify | none => false }
  { s with task := on s.task, tasks := s.tasks.map on }
/-- The consumers of valid queues look at their rings again. -/
def State.lookAll (s : State) : State :=
  (s.queues.filter fun q => qValid q.2 && qConsumer q.2 != 0).foldl (fun (st : State) q => st.schedule (st.clk + 1) (.queueConsume q.1)) s

/-- A command written to the block (R337): one that the table does not list for the state sets refusal 1. -/
def State.command (s : State) (n : Nat) : State :=
  let b := s.seize
  match n, b.state with
  | 1, .running => if b.regionOk then ({ s with seize := { b with refusal := 0, state := .quiescing, streamed := 0, stale := false } }).stopWork else s.refuseSeize 2
  | 1, .failed => s.setSeize { b with refusal := 0, state := .streaming, streamed := 0 }
  | 2, .running => if s.resumeRefusal = 0 then s.setSeize { b with refusal := 0, state := .restoring, streamed := 0 } else s.refuseSeize s.resumeRefusal
  | 3, .frozen | 3, .failed => if b.stale then s.refuseSeize 1 else (s.setSeize { b with refusal := 0, state := .running }).restartLinks.markSeiz.lookAll
  | _, _ => s.refuseSeize 1
/-- SEIZE (R338). -/
def execSeize (s : State) : Out := .next (s.command 1)
/-- RESUME_FROM_IMAGE (R345). -/
def execResumeFromImage (s : State) : Out := .next (s.command 2)
/-- THAW (R337). -/
def execThaw (s : State) : Out := .next (s.command 3)

/-- A host write of a word of the block (R336): a command with reserved bits is ignored and logged; the device's words stay. -/
def State.seizeWrite (s : State) (word : Nat) (v : Word) : State :=
  match word with
  | 0 => if wordBits 63 2 v ≠ 0 then s.log 0 7 0 srcControl 0x3FFC0 v else if v = 0 then s else s.command v.toNat
  | 2 => s.setSeize { s.seize with base := v }
  | 3 => s.setSeize { s.seize with length := v }
  | _ => s
def SeizeState.code : SeizeState → Nat | .running => 0 | .quiescing => 1 | .streaming => 2 | .frozen => 3 | .restoring => 4 | .failed => 5
/-- What the host reads in a word of the block (R336). -/
def SeizeBlock.word (b : SeizeBlock) (i : Nat) : Word :=
  match i with
  | 0 => BitVec.ofNat 64 b.command
  | 1 => BitVec.ofNat 64 (b.seizes.toNat * 2 ^ 16 + b.refusal % 256 * 2 ^ 8 + b.state.code)
  | 2 => b.base | 3 => b.length | 4 => b.streamed | 5 => b.frozenAt | _ => 0

/-! ## Streaming and freezing (R338, R341) -/

/-- QUIESCE_COMPLETE (R339): what is still in flight is captured with the state. -/
def execQuiesceComplete (s : State) : Out :=
  .next (if s.seize.state = .quiescing ∧ s.settled then s.setSeize { s.seize with state := .streaming } else s)
/-- STREAM_COMPLETE (R338, R341): the image stands in host memory, its header written last. -/
def execStreamComplete (s : State) : Out :=
  if s.seize.state = .streaming ∧ s.hostUp then
    let i := s.imageOf s.seize.base.toNat
    let t := (s.writePhys (hostBase + i.base + 4096) s.imageSections).writePhys (hostBase + i.base) i.header
    .next { t with images := putBy Image0.base i t.images
                   seize := { s.seize with state := .frozen, seizes := s.seize.seizes + 1, streamed := BitVec.ofNat 64 i.length, frozenAt := BitVec.ofNat 64 s.ptp } }
  else .next s
/-- STREAM_PORTS_FAILED (R337): part of the sections, which is free, has been written over what stood there, and no header. -/
def execStreamPortsFailed (s : State) : Out :=
  if s.seize.state = .streaming ∧ !s.hostUp then
    let (w, s) := s.draw
    let part := s.imageSections.take (w.toNat % (s.imageSections.length + 1))
    .next ((s.writePhys (hostBase + s.seize.base.toNat + 4096) part).setSeize { s.seize with state := .failed, streamed := BitVec.ofNat 64 part.length })
  else .next s

/-! ## Restoring and reset (R277, R337, R345, R346) -/

/-- Steps from outside that are on their way, with the clock they keep relative to another clock. -/
def State.outside (s : State) (clk : Nat) : List (Nat × Event) :=
  (s.agenda.filter fun e => e.2.external).map fun e => (e.1 - s.clk + clk, e.2)
/-- Steps of the clock that were decided and are still to be made (R335). -/
def State.stepsPending (s : State) (clk : Nat) : List (Nat × Event) :=
  (s.agenda.filter fun e => e.2.outlives && !e.2.external).map fun e => (e.1 - s.clk + clk, e.2)
def mergeAgenda (a b : List (Nat × Event)) : List (Nat × Event) := b.foldl (fun (l : List (Nat × Event)) e => agendaPut e.1 e.2 l) a
/-- Packets that are not acknowledged leave again in sequence order (R346, R368). -/
def State.resend (s : State) (dev : Nat) : State :=
  let l := s.linkAt dev
  let again := l.unacked.map fun (x : Sent) => { x with at_ := s.ptp, packet := { x.packet with stamp := BitVec.ofNat 32 s.ptp } }
  { s.putLink { l with unacked := again } with wire := if (s.peerPort dev).isSome then s.wire ++ again.map (·.packet) else s.wire }
/-- A device without work: host memory, ports, configuration block, time and the images stay (R334, R337). -/
def State.scrubbed (s : State) (b : SeizeBlock) : State :=
  let d : Device :=
    { Device.blank with mem := s.mem.filter fun c => isHost c.1, ue := s.ue.filter isHost, ce := s.ce.filter isHost, agenda := s.outside 0, free := s.free, ptp := s.ptp
                        ptpLocked := s.ptpLocked, lanes := s.lanes, portDown := s.portDown, config := s.config, configGood := s.configGood, wire := s.wire, hostPackets := s.hostPackets
                        tick := s.tick, ageingAt := s.ageingAt, mailbox := s.mailbox, seize := b }
  ({ d with images := s.images } : State).applyConfig
/-- The device as an image holds it, at the ports, the time and the host memory of now (R346). -/
def State.restored (s : State) (i : Image0) : State :=
  let b := i.body
  let d : Device :=
    { b with mem := (b.mem.filter fun c => !isHost c.1) ++ s.mem.filter fun c => isHost c.1
             ue := (b.ue.filter fun a => !isHost a) ++ s.ue.filter isHost
             ce := (b.ce.filter fun a => !isHost a) ++ s.ce.filter isHost
             agenda := mergeAgenda (b.agenda.filter fun e => !e.2.external) (s.outside b.clk ++ (s.stepsPending b.clk).filter fun e => !(b.agenda.map (·.2)).contains e.2)
             tick := s.tick, calmTicks := s.calmTicks, power := s.power, ageingAt := s.ageingAt
             free := s.free, ptp := s.ptp, ptpLocked := s.ptpLocked, lanes := s.lanes, portDown := s.portDown, config := s.config
             configGood := s.configGood, wire := s.wire, hostPackets := s.hostPackets, mailbox := s.mailbox, measure3 := i.digest
             seize := { s.seize with state := .running, streamed := BitVec.ofNat 64 i.length } }
  ({ d with images := s.images } : State)
/-- RESTORE_COMPLETE (R345 to R347): every unit holds what it held, link queues send again, and issue restarts on every die in the same clock. -/
def execRestoreComplete (s : State) : Out :=
  match s.seize.state, s.image? with
  | .restoring, some i =>
    if s.imageSound i ∧ s.hostUp then
      let s := (s.restored i).restartLinks
      .next ((s.links.map (·.dev)).foldl (fun (st : State) d => st.resend d) s).markSeiz.lookAll
    else .next s
  | _, _ => .next s
/-- RESTORE_FAILURE (R337, R345): everything loaded is scrubbed, and the device is idle. -/
def execRestoreFailure (s : State) : Out :=
  let good := match s.image? with | some i => s.imageSound i && s.hostUp | none => false
  .next (if s.seize.state = .restoring ∧ !good then s.scrubbed { s.seize with state := .running, refusal := 3 } else s)
/-- RESET (R277, R337): every control space returns to its reset values, and the seized state is lost. -/
def execReset (s : State) : Out := .next (s.scrubbed SeizeBlock.blank)

end Sys2Proof.Machine
end

