-- ==== Sys2Proof/Machine/Remote.lean ====
section
/-!
DEFINITION. What a device does with a peer's or the host's packet at the home of a buffer: the format of packets, the checks of R372, reads, writes, atomics, writes with enqueue, revocations, capability transfers and reduction blocks (R249, R365 to R367, R370 to R373, R375, R379).
-/
namespace Sys2Proof.Machine

open Sys2Proof

/-! ## The format (R366, R367) -/

/-- Word 0 of a header. -/
def hntWord0 (p : Packet) : Word :=
  BitVec.ofNat 64 (p.kind % 16 * 2 ^ 60 + p.src % 256 * 2 ^ 52 + p.dst % 256 * 2 ^ 44 + p.seq % 2 ^ 32 * 2 ^ 12 + p.rsv0 % 8 * 2 ^ 9 + p.len % 512)
/-- What the argument and the length must be for a kind. -/
def hntShapeOk (p : Packet) : Bool :=
  let arg := p.arg.toNat
  let off := p.off.toNat
  match p.kind with
  | 0 => decide (1 ≤ p.len ∧ off % 256 + p.len ≤ 256)
  | 1 => p.len == 0 && decide (arg < 256 ∧ off % 256 + arg + 1 ≤ 256)
  | 2 => decide (p.len ≤ 256)
  | 3 => decide (arg < 256) && arg % 8 == 0
  | 4 => decide (p.len ≤ 16)
  | 5 => p.len == 64
  | 8 => decide (arg < 256) && p.len == 8 * arg
  | 9 => decide (64 ≤ p.len ∧ arg < 2 ^ 14)
  | 10 => p.len == 64 && arg == 0 && off % 64 == 0
  | 6 | 7 | 11 | 12 => p.len == 0
  | _ => false
/-- A packet that keeps R366. -/
def hntFormatOk (p : Packet) : Bool :=
  decide (p.kind ≤ 12) && p.rsv0 == 0 && p.rsv1 == 0 && p.len == p.payload.length && decide (p.len ≤ 256) && (hntShapeOk p)
/-- A packet that breaks R366 is dropped and logged in class 6, at the port it came over. -/
def State.dropPacket (s : State) (port : Nat) (p : Packet) : State := s.log (dieOfPort port) 6 0 (srcPort port) (hntWord0 p) 0

/-! ## Serving a packet (R249, R372) -/

/-- What becomes of a packet at its home: performed, with the response that is kept for a duplicate; refused with a status; answered BUSY; or held. -/
inductive Serve where
  | done (s : State) (reply : Option Packet)
  | refused (s : State) (status : Nat)
  | busy (s : State)
  | hold (s : State)

def Cause.remoteStatus : Cause → Nat | .revk => 1 | .pflt => 2 | .merr => 6 | _ => 2
def statusOfSub (sub : Nat) : Nat := if sub = subFRAC then 10 else if sub = subRGT then 4 else if sub = subLEN then 3 else if sub = subOWN then 7 else 5
/-- A version before the revocation version (R32). -/
def staleVersion (current carried revocation : BitVec 16) : Bool := decide ((current - revocation).toNat < (current - carried).toNat)

/-- The first of the window's lines under n bytes that the home must recall from the host (R250). -/
def State.recallOf (s : State) (a n : Nat) (write : Bool) : Option Nat :=
  (((upTo 5).map fun i => a / 64 * 64 + 64 * i).find? fun x => decide (x < a + n) && s.mustRecall x write).map windowLine
/-- The checks of R372 on an access of n bytes, in its order. -/
def State.remoteCheck (s : State) (p : Packet) (need : Rights) (adm : CapRec → Admit) (n : Nat) (write : Bool) (k : CapRec → Serve) : Serve :=
  if !s.asidLive p.asid then .refused s 7
  else match s.rec? p.root.toNat with
    | none => .refused s 1
    | some c =>
      if c.asid ≠ p.asid then .refused s 7
      else if c.revoked ∨ !c.isRoot ∨ staleVersion c.version p.version c.revVersion then .refused s 1
      else if c.poisoned then .refused s 6
      else
        let off := p.off.toNat
        let filling := write && (s.linkAt p.src).arriving.contains c.img
        let a : Admit := if filling then .ok else if c.rights.lacks need then .no subRGT else adm c
        match a with
        | .no sub => .refused s (statusOfSub sub)
        | .wait => .hold s
        | .ok =>
          if c.len < off + n then .refused s 3
          else if n = 0 then k c
          else match s.physOf c off write, s.physOf c (off + n - 1) write with
            | .ok x, .ok _ => match s.recallOf x n write with | some l => .hold (s.snoop l) | none => k c
            | .error t, _ | _, .error t => .refused s t.cause.remoteStatus

/-- An uncorrectable error that a remote access meets (R40). -/
def State.remoteMerr (s : State) (c : CapRec) (a : Nat) : State :=
  let (die, sub, src, detail) := memSite a
  ((s.poison c.root).log die 4 sub src (BitVec.ofNat 64 detail) (BitVec.ofNat 64 c.root)).sharedError c.root
/-- The answer to a request: its fields name the request by its root and offset. -/
def State.answer (s : State) (p : Packet) (kind status : Nat) (payload : List Byte) : State × Packet :=
  let r := { s.packetTo p.src kind p.asid p.version p.root.toNat p.off.toNat 0 payload with status := BitVec.ofNat 32 status }
  let (s, seq) := s.sendSequenced p.src r 0 0 0 none none
  (s, { r with seq := seq })

/-- READ (R372). -/
def State.serveRead (s : State) (p : Packet) : Serve :=
  let n := p.arg.toNat % 256 + 1
  let res := s.remoteCheck p needRD (fun c => s.admits c (.load (n == 4 || n == 8))) n false fun c =>
    let off := p.off.toNat
    if isView c.base then
      let (s, r) := s.answer p 2 0 (bytesOf n (s.viewValue (c.base + off) n))
      .done s (some r)
    else match s.readUpTo c n off with
      | (bs, none) => let (s, r) := (s.correctBuf c off n).answer p 2 0 bs; .done s (some r)
      | (_, some e) =>
        match s.physOf c e.off false with
        | .ok a => .refused (s.remoteMerr c a) 6
        | .error t => .refused s t.cause.remoteStatus
  match res with
  | .refused s st => let (s, r) := s.answer p 2 st []; .done s (some r)
  | r => r

/-- Bytes written at the home of a checked record (R31, R249); the bytes of a transfer are no store. -/
def State.remoteWrite (s : State) (p : Packet) (c : CapRec) (bs : List Byte) : State × WriteEnd :=
  let s := if (s.linkAt p.src).arriving.contains c.img then s else s.noteStore c.root
  State.legWrite (tileIx 0 0) c 0 0 (bs.length / 65536 + 2) p.off.toNat bs s
/-- Whether a write is made of whole words, as the stores to a buffer of words are, however many its sender put together (R249). -/
def wholeWords (off n : Nat) : Bool := off % 4 == 0 && n % 4 == 0
/-- WRITE (R249, R372): written whole or refused whole. -/
def State.serveWrite (s : State) (p : Packet) : Serve :=
  s.remoteCheck p needWR (fun c => s.admits c (.store (wholeWords p.off.toNat p.len))) p.len true fun c =>
    match s.remoteWrite p c p.payload with
    | (s, .done) => .done s none
    | (s, .stop cause) => .refused s cause.remoteStatus
    | (_, .again) => .hold s
/-- The operation an ATOMIC names, if R367 admits it. -/
def hntAct (p : Packet) : Option AtomicAct :=
  let v (i : Nat) : Nat := leValue ((p.payload.drop (8 * i)).take 8) % 2 ^ (8 * (if p.arg.toNat / 8 % 2 = 1 then 8 else 4))
  if p.arg.toNat / 16 % 16 = 0 ∧ p.len = 8 then some (.amo .add (v 0))
  else if p.arg.toNat / 16 % 16 = 9 ∧ p.len = 16 then some (.cas (v 0) (v 1))
  else none
/-- ATOMIC (R245, R367, R372): performed at the home bank in one step. -/
def State.serveAtomic (s : State) (p : Packet) : Serve :=
  let n := if p.arg.toNat / 8 % 2 = 1 then 8 else 4
  s.remoteCheck p needRW (fun c => if (hntAct p).isSome then s.admitAtomic c true else .no subKIND) n true fun c =>
    match (hntAct p), s.physOf c p.off.toNat true with
    | some act, .ok a =>
      if s.hasUE a n then .refused (s.remoteMerr c a) 6
      else
        let old := leValue (s.readPhys a n)
        let (new, ok) := act.result n old
        let s := s.correct a n
        let s := match new with | some w => (s.noteStore c.root).writePhys a (bytesOf n w) | none => s
        let (s, r) := s.answer p 4 0 (bytesOf 8 old ++ (match act with | .cas _ _ => bytesOf 8 ok | .amo _ _ => []))
        .done s (some r)
    | _, _ => .refused s 5

/-! ## Write with enqueue (R373) -/

def State.wrenq? (s : State) (port : Option Nat) (dev seq : Nat) : Option Wrenq := s.wrenqs.find? fun w => w.port == port && w.dev == dev && w.seq == seq
def State.dropWrenq (s : State) (w : Wrenq) : State := { s with wrenqs := s.wrenqs.filter fun x => !(x.port == w.port && x.dev == w.dev && x.seq == w.seq) }
/-- The packet at the end of a WRENQ. -/
def hntEnqueued (p : Packet) : List Word := packetWords (p.payload.drop (p.len - 64))
/-- The append of a WRENQ whose ticket is claimed: it waits while its entry has no room. -/
def State.finishWrenq (s : State) (p : Packet) (w : Wrenq) : Serve :=
  if s.ringRoom w.q w.ticket then .done ((s.dropWrenq w).fillEntry w.q w.ticket (hntEnqueued p)) none else .hold s
/-- WRENQ (R249, R373): everything is checked before a byte is written; then the data, and last the packet. -/
def State.serveWrenq (s : State) (port : Option Nat) (p : Packet) : Serve :=
  match s.wrenq? port p.src p.seq with
  | some w => s.finishWrenq p w
  | none =>
    let n := p.len - 64
    let q := p.arg.toNat
    let w := s.queueWords q
    s.remoteCheck p needWR (fun c => if n = 0 then .ok else s.admits c (.store (wholeWords p.off.toNat n))) n true fun c =>
      if !qValid w ∨ qAsid w ≠ p.asid then .refused s 7
      else match (if n = 0 then (s, WriteEnd.done) else s.remoteWrite p c (p.payload.take n)) with
        | (s, .stop cause) => .refused s cause.remoteStatus
        | (_, .again) => .hold s
        | (s, .done) =>
          let (ticket, s) := s.claim q
          let w : Wrenq := ⟨port, p.src, p.seq, q, ticket, p⟩
          { s with wrenqs := s.wrenqs ++ [w] }.finishWrenq p w

/-! ## Revocations and frozen proxies (R371) -/

/-- Whether a record is a proxy of a root of a device. -/
def CapRec.proxies (c : CapRec) (dev root : Nat) : Bool := match c.proxy with | some x => x.dev == dev && x.image == root | none => false
/-- REVOKE (R32, R371): the new version in every proxy of the root, and the proxies named become tombstones. -/
def State.serveRevoke (s : State) (p : Packet) : Serve :=
  let named := (List.range (p.len / 8)).map fun i => leValue ((p.payload.drop (8 * i)).take 8)
  .done (s.setQuire (s.quire.map fun c =>
    if c.proxies p.src p.root.toNat then { c with version := p.version, revoked := c.revoked || named.contains c.img } else c)) none
/-- FRZ (R371): the owner notes whether the holder of a proxy is frozen. -/
def State.serveFrz (s : State) (p : Packet) : Serve :=
  let img := p.arg.toNat / 2
  let on := p.arg.toNat % 2 == 1
  .done (s.modRec p.root.toNat fun c => { c with grants := c.grants.map fun (g : Grant) => if g.dev = p.src ∧ g.image = img then { g with frozen := on } else g }) none

/-! ## Capability transfers (R365, R370, R379) -/

def xPhase (p : Packet) : Nat := wordBits 57 56 (packetWord p 0)
def xPolicy (p : Packet) : Nat := wordBits 55 54 (packetWord p 0)
def xKind (p : Packet) : CapKind := kindOfCode (wordBits 53 52 (packetWord p 0))
def xOwner (p : Packet) : Nat := wordBits 30 23 (packetWord p 2)
def xRoot (p : Packet) : Nat := wordBits 22 0 (packetWord p 2)
def xShares (p : Packet) : Nat := wordBits 37 31 (packetWord p 2)
def xLen (p : Packet) : Nat := wordBits 39 0 (packetWord p 1) + 1
/-- Reserved fields of R370 are zero. -/
def xferOk (p : Packet) : Bool :=
  wordBits 63 58 (packetWord p 0) == 0 && wordBits 57 56 (packetWord p 0) ≤ 1 && wordBits 63 38 (packetWord p 2) == 0 && packetWord p 6 == 0 && packetWord p 7 == 0
/-- The message that a transfer brings. -/
def xMessage (p : Packet) (img outcome : Nat) : Msg :=
  { cap := some img, p0 := packetWord p 4, p1 := packetWord p 5, sender := BitVec.ofNat 32 (wordBits 31 0 (packetWord p 0)), asid := p.asid, outcome := outcome, dev := p.src }
/-- The record that a transfer of rights makes: a proxy of the root, or on the owner a local record of it (R365, R379). -/
def xArrived (p : Packet) (img : Image) (root : Option CapRec) : CapRec :=
  let base : CapRec :=
    { CapRec.fresh img ((xOwner p) * 2 ^ 44 + (xRoot p) * 2 ^ 21) .peer (xKind p) (xLen p) p.asid noOwner with
      version := BitVec.ofNat 16 (wordBits 47 32 (packetWord p 0)), rights := Rights.ofNat (wordBits 50 48 (packetWord p 0))
      format := BitVec.ofNat 5 (wordBits 63 59 (packetWord p 1)), shape := BitVec.ofNat 16 (wordBits 58 43 (packetWord p 1))
      far := wordBits 42 42 (packetWord p 1) == 1, replayable := wordBits 41 41 (packetWord p 1) == 1, packable := wordBits 40 40 (packetWord p 1) == 1
      count := if (xKind p) = .frac then (xShares p) else 0, proxy := some ⟨(xOwner p), (xRoot p), 0⟩, origin := p.src }
  match root with
  | none => base
  | some r => { base with level := r.level, base := r.base, root := r.img, version := r.version, proxy := none, origin := 0, window := r.window }
/-- Shares that come home leave the proxies that the owner has noted, those of the sender first. -/
def takeGrants : Nat → Nat → List Grant → List Grant
  | _, 0, l => l
  | _, _, [] => []
  | dev, n + 1, g :: l =>
    if g.dev = dev then (if g.count ≤ n + 1 then takeGrants dev (n + 1 - g.count) l else { g with count := g.count - (n + 1) } :: l)
    else g :: takeGrants dev (n + 1) l
def homeGrants (dev n : Nat) (l : List Grant) : List Grant :=
  match takeFirst (fun (g : Grant) => g.dev == dev && g.count == n) l with
  | some (_, rest) => rest
  | none => takeGrants dev n l

/-- Where a transfer goes; a destination that no inbox of this device is counts as gone (R34, R370). -/
def State.xferLanding (s : State) (p : Packet) : Landing :=
  match s.inboxDest (packetWord p 3) with | some d => s.landing p.asid d | none => .gone
def State.landingDie (s : State) : Landing → Nat
  | .task tid => (match s.taskAt? tid with | some t => dieOf t.tile | none => 0)
  | .tile t => dieOf t
  | _ => 0
def State.landingTile (s : State) : Landing → Nat
  | .task tid => (match s.taskAt? tid with | some t => t.tile | none => 0)
  | .tile t => t
  | _ => 0
/-- The acknowledgement of a transfer of rights names it and carries the image of the new record (R370). -/
def State.xferAck (s : State) (p : Packet) (img : Nat) : Packet :=
  { s.packetTo p.src 6 p.asid p.version p.root.toNat 0 0 [] with seq := p.seq, status := BitVec.ofNat 32 img, stamp := p.stamp }

/-- The quire in which a transfer of rights makes its record: that of a root held here, else that of the receiving tile's die (R379, R384). -/
def State.rightsDie (s : State) (p : Packet) (dest : Landing) : Nat := if xOwner p = s.ownDevice then xRoot p / 2 ^ 20 else s.landingDie dest
/-- A transfer of rights (R365, R370, R379): in one step the record is made, the message placed, and the acknowledgement sent. -/
def State.serveRights (s : State) (p : Packet) (dest : Landing) : Serve :=
  match s.freeRecord (s.rightsDie p dest) with
  | none => .busy s
  | some img =>
    let place (s : State) (c : CapRec) : Serve :=
      let s := (s.putRec c).land (xMessage p img 0) dest
      let a := s.xferAck p img
      .done (s.sendPlain a) (some a)
    if xOwner p ≠ s.ownDevice then place s (xArrived p img none)
    else match s.rec? (xRoot p) with
      | none => .refused s 1
      | some r =>
        if r.revoked ∨ !r.isRoot ∨ staleVersion r.version p.version r.revVersion then .refused s 1
        else
          let r := { r with count := if xPolicy p = 3 then r.count + 1 else r.count
                            grants := if xPolicy p = 3 then r.grants else homeGrants p.src (xShares p) r.grants }
          place (s.putRec r) (xArrived p img (some r))
/-- Whether a transfer brings home a proxy whose holder has ended: of TID 0, to the destination word 0 (R20; log 17). -/
def State.comesHome (s : State) (p : Packet) : Bool :=
  xPhase p == 0 && packetWord p 3 == 0 && wordBits 31 0 (packetWord p 0) == 0 && xOwner p == s.ownDevice && (xKind p == .frac || xKind p == .commons)
/-- A proxy comes home (R20, R29): its shares join the root, or a holder is counted down, and the storage of a root without holders is freed. -/
def State.serveHome (s : State) (p : Packet) : Serve :=
  match s.rec? (xRoot p) with
  | none => .refused s 1
  | some r =>
    if r.revoked ∨ !r.isRoot ∨ staleVersion r.version p.version r.revVersion then .refused s 1
    else
      let r := { r with count := r.count - (if xKind p = .frac then xShares p else 1), grants := homeGrants p.src (xShares p) r.grants }
      let s := if r.kind = .commons ∧ r.count = 0 ∧ !r.window then (s.putRec r).freeRoot r else s.putRec r
      let a := s.xferAck p 0
      .done (s.sendPlain a) (some a)
/-- Storage for bytes that a transfer brings (R33, R365). -/
def State.xferPlace (s : State) (p : Packet) (tile : Nat) : Option Nat :=
  if (if (xPolicy p) = 2 then 16 * 1024 else 240 * 1024) < (xLen p) then none else s.allocTile tile (storageSize .tile .excl (xLen p))
/-- The offer of a root with its bytes (R370): the new root is FILLING, and a NAK with status 0 carries its image. -/
def State.serveOffer (s : State) (p : Packet) (dest : Landing) : Serve :=
  let tile := s.landingTile dest
  match s.xferPlace p tile with
  | none => .refused s 9
  | some base =>
    match s.freeRecord (dieOf tile) with
    | none => .busy s
    | some img =>
      let c : CapRec :=
        { xArrived p img none with
          level := .tile, base := base, root := img, proxy := none, rights := Rights.ofNat (wordBits 51 48 (packetWord p 0)), state := .filling
          version := p.version + 1, writers := 1, filler := noOwner }
      let s := (s.scrub base (storageSize .tile .excl (xLen p))).putRec c
      let l := s.linkAt p.src
      let s := s.putLink { l with arriving := l.arriving ++ [img] }
      let a := { s.packetTo p.src 7 p.asid p.version img 0 0 [] with seq := p.seq, stamp := p.stamp }
      .done (s.sendPlain a) (some a)
/-- The end of a transfer of bytes (R370): the root is FULL, and the message is placed. -/
def State.serveDone (s : State) (p : Packet) (dest : Landing) : Serve :=
  let img := p.root.toNat
  let l := s.linkAt p.src
  if !l.arriving.contains img then .refused s 1
  else
    let s := s.putLink { l with arriving := l.arriving.filter fun i => i != img }
    match dest with
    | .gone => .refused (match s.rec? img with | some c => s.freeRoot c | none => s) 9
    | dest => .done ((s.joinWrite img).land (xMessage p img 1) dest) none
/-- CAPXFER (R365, R370, R379). -/
def State.serveXfer (s : State) (p : Packet) : Serve :=
  if !s.asidLive p.asid then .refused s 7
  else if s.comesHome p then s.serveHome p
  else match s.xferLanding p with
    | .full => .busy s
    | .gone => if (xPhase p) = 1 then s.serveDone p .gone else .refused s 9
    | dest =>
      if (xPhase p) = 1 then s.serveDone p dest
      else match (xKind p) with
        | .excl => s.serveOffer p dest
        | .phase => .refused s 5
        | _ => s.serveRights p dest

/-! ## Reduction blocks (R375) -/

/-- The gateway tile of a port for a block index (R357, R375). -/
def gatewayTile (port index : Nat) : Nat := (gatewayTiles port).getD (index % 4) 0
/-- The tile task at a gateway tile of the launch that BQCFG names. -/
def State.gatewayOf (s : State) (port index : Nat) : Option Task :=
  let w := (s.dieAt (dieOfPort port)).bqcfg.toArray.getD (portPlace port) 0
  let tile := gatewayTile port index
  s.allTasks.find? fun t => t.tile == tile && t.coord.isSome
    && (match s.launchAt? t.launch with | some l => l.tableIndex == wordBits 31 0 w | none => false)
/-- The oldest block of a die whose gateway tile has places for its row and index, in the order of its port. -/
def State.nextBlock (s : State) (die : Nat) : Option ((Nat × Nat × Row) × Task) :=
  (s.dieAt die).blocks.findSome? fun b =>
    match (s.dieAt die).blocks.find? fun x => x.1 == b.1 with
    | some x => if x = b then (match s.gatewayOf b.1 b.2.1 with | some t => if t.hasPlace 0 ∧ t.hasPlace 4 then some (b, t) else none | none => none) else none
    | none => none
/-- A block handed to its gateway: the row into q4 and the index into q0; the block queue counts as a writing stream of both (R90, R375). -/
def State.handBlock (s : State) (die : Nat) : State :=
  match s.nextBlock die with
  | none => s
  | some (b, t) =>
    let s := s.modDie die fun d => { d with blocks := d.blocks.erase b }
    let note (l : List Nat) : List Nat := if l.contains 4 then l else l ++ [4]
    s.putTask { t with q := t.q.set 0 (t.q[0] ++ [BitVec.ofNat 64 b.2.1]), qv := t.qv.set 0 (t.qv[0] ++ [(⟨b.2.2, none⟩ : QRow)])
                       writers := (t.writers.set 0 (note t.writers[0])).set 4 (note t.writers[4]) }
/-- REDBLK (R375). -/
def State.serveBlock (s : State) (port : Nat) (p : Packet) : Serve :=
  let die := dieOfPort port
  let w := (s.dieAt die).bqcfg.toArray.getD (portPlace port) 0
  if w.toNat / 2 ^ 63 = 0 ∨ wordBits 45 32 w ≠ p.asid.toNat ∨ !s.asidLive p.asid then .refused s 7
  else if 64 ≤ ((s.dieAt die).blocks.filter fun b => b.1 == port).length then .busy s
  else .done ((s.modDie die fun d => { d with blocks := d.blocks ++ [(port, p.off.toNat / 64, BitVec.ofNat 512 (leValue p.payload))] }).handBlock die) none

end Sys2Proof.Machine
end

