-- ==== Sys2Proof/Machine/Hnt.lean ====
section
/-!
DEFINITION. The link queues at work: packets received in sequence, acknowledgements and refusals, responses, retransmission, loss and resynchronisation, congestion control (R36, R249, R366 to R374).
-/
namespace Sys2Proof.Machine

open Sys2Proof

/-! ## Receiving (R364, R366, R368) -/

/-- A packet is taken: it keeps R366, it is for this device, and its sender has a valid entry. -/
def State.accepts (s : State) (p : Packet) : Bool :=
  hntFormatOk p && s.ownDevice != 0 && p.dst == s.ownDevice && s.peerValid p.src
/-- The port that a peer's packets come over. -/
def State.portFrom (s : State) (dev : Nat) : Nat := (s.peerPort dev).getD 0
/-- The acknowledgement of everything performed, with the stamp of the last packet. -/
def State.ackPacket (s : State) (dev : Nat) : Packet :=
  let l := s.linkAt dev
  { s.packetTo dev 6 0 0 0 0 0 [] with status := BitVec.ofNat 32 (l.expect - 1), stamp := l.stamp }
def State.sendAck (s : State) (dev : Nat) : State :=
  let s := s.sendPlain (s.ackPacket dev)
  s.putLink { s.linkAt dev with sinceAck := 0 }
/-- A NAK names its packet (R366, R368). -/
def State.nakPacket (s : State) (p : Packet) (status : Nat) : Packet :=
  { s.packetTo p.src 7 p.asid p.version p.root.toNat 0 0 [] with seq := p.seq, status := BitVec.ofNat 32 status, stamp := p.stamp }
/-- The expected sequence steps past a packet, its response is kept for 4,096 sequences, and an ACK goes out after 16 packets or 2 µs (R368). -/
def State.stepExpect (s : State) (p : Packet) (reply : Option Packet) : State :=
  let l := s.linkAt p.src
  let kept := (match reply with | some r => l.kept ++ [(p.seq, r)] | none => l.kept).filter fun k => decide (p.seq < k.1 + 4096)
  let s := s.putLink { l with expect := p.seq + 1, kept := kept, ownerWait := [], stamp := p.stamp, sinceAck := l.sinceAck + 1 }
  if 16 ≤ l.sinceAck + 1 then s.sendAck p.src
  else if l.sinceAck = 0 then s.schedule (s.clk + 4800) (.hntAckTimer p.src) else s
/-- A duplicate is answered again (R368). -/
def State.answerAgain (s : State) (p : Packet) : State :=
  match (s.linkAt p.src).kept.find? fun k => k.1 == p.seq with
  | some (_, r) => s.sendPlain r
  | none => s.sendAck p.src
/-- Whether a quiescing device takes a response: it brings the bytes of an OLD, which completes (R181, R339). -/
def State.fillsOld (s : State) (p : Packet) : Bool :=
  s.seize.state == .quiescing && p.kind == 2 && s.accepts p && (s.linkAt p.src).asked.any fun x =>
    x.packet.kind == 1 && x.packet.root == p.root && x.packet.off == p.off && (match x.xfer with | some (tile, op, c) => c % 3 == 2 && ((s.tileAt tile).fills.find? fun f => f.seq == op).any (s.fillSettles tile) | none => false)
/-- A sequenced packet received (R368): performed in its turn, answered again, or discarded. A device that is not running leaves packets with their sender (R339), but for the bytes of an OLD, which it takes and does not acknowledge. -/
def State.receive_ (s : State) (port : Nat) (p : Packet) (serve : State → Serve) : State :=
  if s.seize.state ≠ .running then (if s.fillsOld p then (match serve s with | .done t _ => t | _ => s) else s)
  else if !s.accepts p then s.dropPacket port p
  else
    let e := (s.linkAt p.src).expect
    if p.seq < e then s.answerAgain p
    else if e < p.seq then s
    else match serve s with
      | .done s reply => s.stepExpect p reply
      | .refused s st => let n := s.nakPacket p st; (s.sendPlain n).stepExpect p (some n)
      | .busy s => s.sendPlain (s.nakPacket p 8)
      | .hold s => s.putLink { s.linkAt p.src with ownerWait := [p] }
/-- A packet that no sequence numbers, likewise. -/
def State.receivePlain (s : State) (p : Packet) (f : State → State) : State :=
  if s.seize.state ≠ .running then s else if !s.accepts p then s.dropPacket (s.portFrom p.src) p else f s

/-- WRITE (R249, R372). -/
def execWrite (p : Packet) (s : State) : Out := .next (s.receive_ (s.portFrom p.src) p fun s => s.serveWrite p)
/-- READ (R372). -/
def execRead (p : Packet) (s : State) : Out := .next (s.receive_ (s.portFrom p.src) p fun s => s.serveRead p)
/-- ATOMIC (R367, R372). -/
def execAtomic (p : Packet) (s : State) : Out := .next (s.receive_ (s.portFrom p.src) p fun s => s.serveAtomic p)
/-- CAPXFER (R370). -/
def execCapxfer (p : Packet) (s : State) : Out :=
  .next (s.receive_ (s.portFrom p.src) p fun s => if xferOk p then s.serveXfer p else .refused s 5)
/-- REVOKE (R371). -/
def execRevoke (p : Packet) (s : State) : Out := .next (s.receive_ (s.portFrom p.src) p fun s => s.serveRevoke p)
/-- WRENQ (R373). -/
def execWrenq (p : Packet) (s : State) : Out := .next (s.receive_ (s.portFrom p.src) p fun s => s.serveWrenq none p)
/-- REDBLK (R375). -/
def execRedblk (port : Nat) (p : Packet) (s : State) : Out := .next (s.receive_ port p fun s => s.serveBlock port p)
/-- FRZ (R371). -/
def execFrz (p : Packet) (s : State) : Out := .next (s.receive_ (s.portFrom p.src) p fun s => s.serveFrz p)

/-! ## Responses (R340, R372) -/

/-- What a status raises at the issuer (R372). -/
def statusTrap (st : Nat) (h : Option (BitVec 4)) : TrapInfo :=
  match st with
  | 1 => { cause := .revk, handle := h }
  | 2 => { cause := .pflt, detail := 1, handle := h }
  | 3 => { cause := .capv, sub := subLEN, handle := h }
  | 4 => { cause := .capv, sub := subRGT, handle := h }
  | 6 => { cause := .merr, handle := h }
  | 7 => { cause := .capv, sub := subOWN, handle := h }
  | 10 => { cause := .capv, sub := subFRAC, handle := h }
  | _ => { cause := .capv, sub := subKIND, handle := h }
def statusLegError (st : Nat) : LegError :=
  match st with
  | 1 => .revk | 2 => .pflt true | 3 => .capv subLEN | 4 => .capv subRGT | 6 => .merr true | 7 => .capv subOWN | 10 => .capv subFRAC | _ => .capv subKIND
/-- Bytes of a destination that its owner has acknowledged. -/
def State.legDone (s : State) (tile op leg : Nat) : Nat :=
  match (s.tileAt tile).xfer? op with | some o => (match o.legs[leg / 3]? with | some l => l.done | none => 0) | none => 0
/-- A refusal told to the issuer of a packet (R102, R200, R372); a proxy that could not come home, because its root is gone, is freed (log 17). -/
def State.refuseSent (s : State) (dev : Nat) (x : Sent) (st : Nat) : State :=
  match x.xfer, x.cap with
  | some (tile, op, leg), _ => s.schedule s.clk (.engineLegError tile op leg (if leg % 3 = 0 then s.legDone tile op leg else 0) (statusLegError st))
  | none, some i => if x.tid = 0 then s.dropRec i else s.returnXfer x (if st = 9 then 0 else st)
  | none, none =>
    if x.packet.kind = 1 ∨ x.packet.kind = 3 then
      match s.hartAt? x.tid x.no with
      | some h => if h.wait = some (.peerReply dev x.packet.seq) then s.failRemote x.tid x.no (statusTrap st (if st = 2 then none else some x.handle)) else s
      | none => s
    else s.pend x.tid x.no (statusTrap st (some x.handle))

/-- The bytes of a block that a fill asked of a peer, kept for its join edge (R174, R372). -/
def Tile.fillBlock (t : Tile) (f : FillOp) (i off : Nat) (bs : List Byte) : Tile :=
  { t with fills := t.fills.map fun g => if g.seq = f.seq then { g with blocks := g.blocks ++ [(i, off - f.rowOff i, bs)] } else g }
/-- A response for an engine: bytes of a source, an index list, or an operand row; the join edge follows the last one. -/
def State.engineReply (s : State) (tile op leg : Nat) (x : Sent) (bs : List Byte) : State :=
  if leg % 3 = 1 then
    match (s.tileAt tile).xfer? op with
    | none => s
    | some o =>
      let i := leg / 3
      let o := { o with fetches := (List.range o.fetches.length).filterMap fun j => (o.fetches[j]?).map fun (f : Fetched) => if j = i then { f with data := some bs } else f }
      let s := s.setXfer tile o
      if o.fetches.all fun f => f.data.isSome then s.schedule ((o.legs.map (·.due)).foldl max s.clk) (.transferJoin tile op) else s
  else
    match (s.tileAt tile).fills.find? fun f => f.seq == op with
    | none => s
    | some f =>
      let s := s.modTile tile fun t => t.fillBlock f (leg / 3 % 16) x.packet.off.toNat bs
      let more := s.links.any fun l => l.asked.any fun y => match y.xfer with | some (k, n, c) => k == tile && n == op && c % 3 == 2 | none => false
      if more then s else s.schedule (max s.clk f.due) (.oldJoin tile op none)
/-- A response for a stream: the destination is written and the stream goes on after its instruction, or issues it again with the bytes it asked for. -/
def State.streamReply (s : State) (dev : Nat) (x : Sent) (bs : List Byte) : State :=
  match s.hartAt? x.tid x.no with
  | none => s
  | some h =>
    if h.wait ≠ some (.peerReply dev x.packet.seq) then s
    else match h.remote, s.focusOn x.tid x.no with
      | some r, some s =>
        let v := leValue (bs.take 8) + leValue ((bs.drop 8).take 8) * 2 ^ 64
        let s := s.setHart { s.hart with wait := none, remote := none }
        (match r.what with
        | .hold _ _ => let s := s.writeReply r.what (leValue bs); s.setHart { s.hart with readyAt := s.clk + 1 }
        | .cas _ _ | .amo _ _ => let s := s.writeReply r.what v; s.setHart { { s.hart with inRep := r.rep }.advance r.bytes with readyAt := s.clk + 1 }
        | _ => let s := s.writeReply r.what (leValue bs); s.setHart { { s.hart with inRep := r.rep }.advance r.bytes with readyAt := s.clk + 1 })
      | _, _ => s
/-- The request that a response answers: the oldest of its kind with its root and offset, else the oldest of its kind. -/
def Link.request? (l : Link) (kind : Nat) (p : Packet) : Option Sent :=
  match l.asked.find? fun x => x.packet.kind == kind && x.packet.root == p.root && x.packet.off == p.off with
  | some x => some x
  | none => l.asked.find? fun x => x.packet.kind == kind
/-- A response received: the request is answered and acknowledged. -/
def State.serveReply (s : State) (kind : Nat) (p : Packet) : Serve :=
  let l := s.linkAt p.src
  match l.request? kind p with
  | none => .done s none
  | some x =>
    let other (y : Sent) : Bool := y.packet.seq != x.packet.seq
    let s := s.putLink { l with asked := l.asked.filter other, unacked := l.unacked.filter other }
    let st := p.status.toNat % 256
    .done (if st ≠ 0 then s.refuseSent p.src x st
           else match x.xfer with
             | some (tile, op, leg) => s.engineReply tile op leg x p.payload
             | none => s.streamReply p.src x p.payload) none
/-- RDRESP (R372). -/
def execRdresp (p : Packet) (s : State) : Out := .next (s.receive_ (s.portFrom p.src) p fun s => s.serveReply 1 p)
/-- ATRESP (R372). -/
def execAtresp (p : Packet) (s : State) : Out := .next (s.receive_ (s.portFrom p.src) p fun s => s.serveReply 3 p)

/-! ## Acknowledgements (R36, R368, R370, R374) -/

/-- The window after a sample (R374): the largest sample of a round trip moves it when the last packet of that round trip is acknowledged. -/
def Link.sampled (l : Link) (target inc beta rho seq : Nat) : Link :=
  let m := max l.sample rho
  if seq < l.sampleSeq then { l with sample := m }
  else { l with sample := 0, sampleSeq := match l.unacked.getLast? with | some x => x.packet.seq | none => seq + 1
                window := if m ≤ target then min (16 * 2 ^ 20) (l.window + inc) else max 288 (l.window * (256 * m - beta * (m - target)) / (256 * m)) }

/-- A transfer that the peer has taken leaves this device: shares and holders become a proxy granted to the peer, and a root's storage is freed (R36, R370, R371). -/
def State.endXfer (s : State) (dev : Nat) (x : Sent) (image : Nat) : State :=
  match x.cap.bind s.rec? with
  | none => s
  | some c =>
    let policy := wordBits 55 54 (packetWord x.packet 0)
    let grant (n : Nat) (s : State) : State :=
      if c.proxy.isSome then s else s.modRec c.root fun r => { r with grants := r.grants ++ [(⟨dev, image, n, false⟩ : Grant)] }
    match c.kind with
    | .excl => s.freeRoot c
    | .frac =>
      if c.revoked then
        let s := s.dropRec c.img
        (match s.rec? c.root with | some r => if c.proxy.isNone then s.sendRevoke r dev [image] else s | none => s)
      else (grant c.count s).dropRec c.img
    | .commons =>
      let s := grant 0 s
      if policy = 3 then s else if c.isRoot then s.modRec c.img fun r => { r with owner := 0 } else s.dropRec c.img
    | .phase => s

/-- An acknowledged packet leaves the link queue (R368). -/
def State.settleSent (s : State) (dev : Nat) (x : Sent) (image : Nat) : State :=
  match x.xfer with
  | some (tile, op, leg) =>
    if leg % 3 = 0 then
      match (s.tileAt tile).xfer? op with
      | none => s
      | some o =>
        match o.legs[leg / 3]? with
        | none => s
        | some l =>
          let l := { l with done := l.done + x.packet.len }
          let s := s.setXfer tile { o with legs := o.legs.set (leg / 3) l }
          if l.len ≤ l.done then s.schedule (max s.clk l.due) (.transferJoin tile op) else s
    else s
  | none => if x.cap.isSome then s.endXfer dev x image else s
/-- The link has been heard from (R369). -/
def State.hear (s : State) (dev : Nat) : State :=
  let l := s.linkAt dev
  s.putLink { l with lastHeard := s.ptp, unansweredAt := if l.unacked.isEmpty ∧ l.asked.isEmpty then none else some s.ptp }
/-- ACK (R368, R374): cumulative; one that names a packet carries the image that a transfer was given there (R370). -/
def execAck (p : Packet) (s : State) : Out :=
  .next (s.receivePlain p fun s =>
    let k := if p.seq = 0 then p.status.toNat else p.seq
    let l := s.linkAt p.src
    let acked := l.unacked.filter fun x => decide (x.packet.seq ≤ k)
    let l := { l with unacked := l.unacked.filter fun x => decide (k < x.packet.seq) }
    let rho := (s.ptp + 2 ^ 32 - p.stamp.toNat) % 2 ^ 32
    let s := s.putLink (l.sampled s.hntTarget s.hntInc s.hntBeta rho k)
    let s := acked.foldl (fun (st : State) x => st.settleSent p.src x (if x.packet.seq = p.seq then p.status.toNat else 0)) s
    let s := s.hear p.src
    s.pumpLink (s.linkAt p.src))

/-- The bytes of a root follow its accepted offer as WRITEs to the new root, and then the end of the transfer (R370); a root whose bytes cannot be read comes back. -/
def State.sendBytes (s : State) (dev : Nat) (x : Sent) (root : Nat) : State :=
  match x.cap.bind s.rec? with
  | none => s
  | some c =>
    match s.readUpTo c c.len 0 with
    | (_, some e) =>
      let s := match e.cause, s.physOf c e.off false with | .merr, .ok a => s.remoteMerr c a | _, _ => s
      s.returnXfer x e.cause.remoteStatus
    | (bs, none) =>
      let s := (readBlocks c.len 0 c.len).foldl (fun (st : State) b =>
        (st.sendSequenced dev (st.packetTo dev 0 c.asid x.packet.version root b.1 0 ((bs.drop b.1).take b.2)) x.tid x.no x.handle none none).1) s
      let p := s.packetTo dev 5 c.asid x.packet.version root 0 0 (x.packet.payload.set 7 (BitVec.ofNat 8 ((x.packet.payload.getD 7 0).toNat + 1)))
      (s.sendSequenced dev p x.tid x.no x.handle none x.cap).1
/-- NAK (R368, R370): BUSY is sent again one RTO later; status 0 answers an offer of bytes; every other status is a refusal. -/
def execNak (p : Packet) (s : State) : Out :=
  .next (s.receivePlain p fun s =>
    let l := s.linkAt p.src
    let st := p.status.toNat % 256
    match l.unacked.find? fun x => x.packet.seq == p.seq with
    | none => s.hear p.src
    | some x =>
      if st = 8 then
        (s.putLink { l with unacked := l.unacked.map fun (y : Sent) => if y.packet.seq = p.seq then { y with at_ := s.ptp } else y }).hear p.src
      else
        let other (y : Sent) : Bool := y.packet.seq != p.seq
        let s := (s.putLink { l with unacked := l.unacked.filter other, asked := l.asked.filter other }).hear p.src
        let s := if st = 0 then s.sendBytes p.src x p.root.toNat else s.refuseSent p.src x st
        s.pumpLink (s.linkAt p.src))

/-! ## Timers, loss and resynchronisation (R368, R369) -/

/-- HNT_ACK_TIMER (R368). -/
def execHntAckTimer (dev : Nat) (s : State) : Out := .next (if (s.linkAt dev).sinceAck = 0 then s else s.sendAck dev)
/-- The oldest packet has waited RTO = 4 × target. -/
def State.rtoOver (s : State) (l : Link) : Bool := match l.unacked with | x :: _ => decide (x.at_ + 4 * s.hntTarget ≤ s.ptp) | [] => false
/-- HNT_RETRANSMIT (R368). -/
def execHntRetransmit (dev : Nat) (s : State) : Out := .next (if s.rtoOver (s.linkAt dev) then s.resend dev else s)
/-- Nothing has been heard for HNTCFG.timeout. -/
def State.linkLost (s : State) (l : Link) : Bool := match l.unansweredAt with | some t => decide (t + s.hntTimeout ≤ s.ptp) | none => false
/-- HNT_BEYOND_RECOVERY (R369). -/
def execHntBeyondRecovery (dev : Nat) (s : State) : Out := .next (if s.linkLost (s.linkAt dev) then s.beyondRecovery dev else s)

/-- Packets numbered again from a sequence in their order, with the pairs of old and new numbers. -/
def renumber (first : Nat) (l : List Sent) : List Sent × List (Nat × Nat) :=
  ((List.range l.length).zip l).foldr (fun (x : Nat × Sent) (acc : List Sent × List (Nat × Nat)) =>
    ({ x.2 with packet := { x.2.packet with seq := first + x.1 } } :: acc.1, (x.2.packet.seq, first + x.1) :: acc.2)) ([], [])
def newNumber (m : List (Nat × Nat)) (n : Nat) : Nat := match m.find? fun x => x.1 == n with | some x => x.2 | none => n
/-- Streams that wait for the response of a packet follow its new number. -/
def State.followNumbers (s : State) (dev : Nat) (m : List (Nat × Nat)) : State :=
  let f (h : Hart) : Hart :=
    match h.wait with
    | some (.peerReply d n) => if d = dev then { h with wait := some (.peerReply d (newNumber m n)), remote := h.remote.map fun (r : Remote) => { r with seq := newNumber m r.seq } } else h
    | _ => h
  { s with hart := f s.hart, harts := s.harts.map f }
/-- Records that came from a device under an older epoch become tombstones (R369 step 4). -/
def State.dropEpoch (s : State) (dev epoch : Nat) : State :=
  let l := s.linkAt dev
  if l.peerEpoch = epoch then s
  else
    let s := s.setQuire (s.quire.map fun c => if c.origin = dev then { c with revoked := true } else c)
    s.putLink { l with peerEpoch := epoch, expect := 1, kept := [], ownerWait := [], arriving := [] }
/-- RESYNC (R369): what the peer has taken is freed here, and the rest goes again from the sequence it expects. -/
def execResync (p : Packet) (s : State) : Out :=
  .next (s.receivePlain p fun s =>
    let dev := p.src
    let k := p.status.toNat
    let s := (s.dropEpoch dev (p.arg.toNat % 65536)).hear dev
    let l := s.linkAt dev
    let all := l.doubt ++ l.unacked ++ l.waiting
    let (again, m) := renumber k (all.filter fun x => decide (k ≤ x.packet.seq))
    let asked := l.asked.map fun (x : Sent) => { x with packet := { x.packet with seq := newNumber m x.packet.seq } }
    let s := s.putLink { l with doubt := [], unacked := [], waiting := again, asked := asked, nextSeq := k + again.length }
    let s := s.followNumbers dev m
    let s := (all.filter fun x => decide (x.packet.seq < k)).foldl (fun (st : State) x => st.settleSent dev x 0) s
    s.pumpLink (s.linkAt dev))

/-- RESYNC to every peer that a port reaches, when the port trains (R369 step 3). -/
def State.resyncAll (s : State) (port : Nat) : State :=
  (s.links.filter fun l => s.peerValid l.dev && s.peerWord l.dev / 2 ^ 20 / 2 ^ port % 2 == 1).foldl (fun (st : State) l =>
    st.sendPlain { st.packetTo l.dev 11 0 0 0 0 (st.peerEpochOf l.dev) [] with status := BitVec.ofNat 32 l.expect }) s
/-- PORT_RETRAIN (R343, R359, R369): a port trains at some lanes, or recovers a flit; it is logged in class 5, and the peers that it reaches are told what is expected of them. -/
def execPortRetrain (port lanes : Nat) (s : State) : Out :=
  if h : port < 20 then
    let s := { s with lanes := s.lanes.set port lanes h, portDown := s.portDown.set port false h }.log (dieOfPort port) 5 1 (srcPort port) (BitVec.ofNat 64 port) 0
    .next (if s.seize.state = .running then s.resyncAll port else s)
  else .next s

end Sys2Proof.Machine
end

