-- ==== Sys2Proof/Machine/HostSide.lean ====
section
/-!
DEFINITION. The host side: HNT packets of the host, apertures, the flag window, the attestation mailbox, and sinks (R250, R336, R358, R360, R361, R373, R375, R377).
-/
namespace Sys2Proof.Machine

open Sys2Proof

/-! ## HNT packets of the host (R361, R373) -/

/-- An earlier host packet of a port has not been performed (R361, R373). -/
def State.hostHeld (s : State) (port : Nat) : Bool := s.hostPackets.any fun w => w.1 == port
/-- A host packet is one write of a whole WRITE or WRENQ with sequence 0 and source 0. -/
def State.hostPacketOk (s : State) (size : Nat) (p : Packet) : Bool :=
  size == 32 + p.len && hntFormatOk p && p.src == 0 && p.seq == 0 && (p.kind == 0 || p.kind == 9) && s.isThisDevice p.dst
/-- A refused host packet is counted in HPKST (R361). -/
def State.hostRefused (s : State) (status : Nat) : State := { s with hpkstFailed := s.hpkstFailed + 1, hpkstLast := BitVec.ofNat 8 status }
/-- A host packet served: performed, refused, or, with false, waiting for a state or for its ring. -/
def State.hostServe (s : State) (port : Nat) (p : Packet) : State × Bool :=
  match (if p.kind = 0 then s.serveWrite p else s.serveWrenq (some port) p) with
  | .done s _ => (s, true)
  | .refused s st => (s.hostRefused st, true)
  | .busy s => (s.hostRefused 8, true)
  | .hold s => (s, false)
/-- HOST_HNT_WRITE (R361, R373): host packets of a port are performed in order; one that waits holds those behind it, and a device that is not running leaves them at the port. -/
def execHostHntWrite (port size : Nat) (p : Packet) (s : State) : Out :=
  if !s.hostPacketOk size p then .next (s.dropPacket port p)
  else
    let (t, done) := if s.seize.state ≠ .running ∨ s.hostHeld port then (s, false) else s.hostServe port p
    .next (if done then t else { t with hostPackets := t.hostPackets ++ [(port, p)] })
/-- The first host packet of a port that can be performed now, or that asks for a line it has not asked for. -/
def State.nextHostPacket (s : State) : Option State :=
  (upTo 20).findSome? fun port =>
    match s.hostPackets.find? fun x => x.1 == port with
    | none => none
    | some x =>
      let (t, done) := s.hostServe port x.2
      if done then some { t with hostPackets := t.hostPackets.erase x } else if t.winSnooped ≠ s.winSnooped ∨ t.wrenqs ≠ s.wrenqs then some t else none
/-- HPKST as the host reads it (R361). -/
def State.hpkst (s : State) : Word := BitVec.ofNat 64 (s.hpkstFailed.toNat * 2 ^ 16 + s.hpkstLast.toNat * 2 ^ 8)
/-- HPKST_READ (R361): it returns after every earlier host packet of the port. -/
def execHpkstRead (port : Nat) (s : State) : Out :=
  .next (if s.hostHeld port then s.schedule (s.clk + 1) (.hpkstRead port) else s)

/-! ## Queues and the window (R217, R250, R336, R360) -/

/-- The queue that an AtomicOp of the host names, and its W afterwards: one more, or the new value where it stood at the expected one (R358, R360). -/
def atomicQueue (op : HostAtomic) : Nat := match op with | .fetchAdd q | .cas q _ _ => q
def atomicW (op : HostAtomic) (w : Word) : Word :=
  match op with
  | .fetchAdd _ => w + 1
  | .cas _ expected new => if w = expected then new else w
/-- HOST_TICKET_CLAIM (R217, R358, R360): an AtomicOp on W, performed by the port in one step; the FetchAdd of 1 claims a ticket. -/
def execHostTicketClaim (op : HostAtomic) (s : State) : Out :=
  let q := atomicQueue op
  .next (if q < 16384 then (let w := s.queueWords q; s.putQueue q (w.set 2 (atomicW op w[2]))) else s)
/-- HOST_RING_WRITE (R217, R360): a whole entry, its word 0 last. -/
def execHostRingWrite (q idx : Nat) (entry : List Word) (s : State) : Out :=
  .next (if entry.length = 8 ∧ q < 16384 then s.fillEntry q idx entry else s)

def State.holdLine (s : State) (line : Nat) (on dirty : Bool) : State :=
  let drop (l : List Nat) : List Nat := l.filter fun x => x != line
  { s with winHeld := if on then drop s.winHeld ++ [line] else drop s.winHeld, winDirty := if on && dirty then drop s.winDirty ++ [line] else drop s.winDirty }
/-- HOST_WINDOW_ACCESS (R250, R336): performed at the home of the line; line 4,095 is the seize control block. -/
def execHostWindowAccess (line : Nat) (acc : WindowAccess) (s : State) : Out :=
  match acc with
  | .read hold => .next (if hold ∧ line < 4095 then (if s.winHeld.contains line then s else { s with winHeld := s.winHeld ++ [line] }) else s)
  | .write word v hold =>
    if line = 4095 then .next (s.seizeWrite word v)
    else if line < 4095 ∧ word < 8 then .next ((s.writePhys (windowBase + 64 * line + 8 * word) (bytesOf 8 v.toNat)).holdLine line hold true)
    else .next s
/-- BIRSP (R250): the line comes back, with the data of a host that had modified it. -/
def execBirsp (line : Nat) (dirty : Option (BitVec 512)) (s : State) : Out :=
  if 4095 ≤ line then .next s
  else
    let s := match dirty with | some d => s.writePhys (windowBase + 64 * line) (bytesOf 64 d.toNat) | none => s
    .next { s.holdLine line false false with winSnooped := s.winSnooped.filter fun x => x != line }

/-! ## Attestation (R377) -/

/-- Bytes of the configuration block, field after field (log 9). -/
def configBytes (c : ConfigBlock) : List Byte :=
  let f (l : List Nat) : List Byte := bytesOf 8 l.length ++ (l.map fun n => bytesOf 8 n).flatten
  let reading (m : MonitorReading) : List Byte := bytesOf 8 m.cluster ++ bytesOf 8 m.delay ++ bytesOf 8 m.ring
  f c.fenced ++ f c.withdrawn ++ f c.steps ++ f c.margins ++ bytesOf 8 c.history.length ++ (c.history.map reading).flatten ++ bytesOf 8 c.helper.length ++ c.helper
/-- The device is in a state in which a request is answered Busy. -/
def State.attestBusy (s : State) : Bool := match s.seize.state with | .quiescing | .streaming | .restoring => true | _ => false
/-- The answer in the mailbox of a host port. -/
def State.attest (s : State) (port : Nat) (a : Attest) : State :=
  if port < 4 then { s with mailbox := putBy (·.1) (port, if s.attestBusy then Attest.busy else a) s.mailbox } else s
/-- GET_VERSION (R377). -/
def execGetVersion (port : Nat) (s : State) : Out := .next (s.attest port .version)
/-- GET_CAPABILITIES (R377). -/
def execGetCapabilities (port : Nat) (s : State) : Out := .next (s.attest port .capabilities)
/-- NEGOTIATE_ALGORITHMS (R377). -/
def execNegotiateAlgorithms (port : Nat) (s : State) : Out := .next (s.attest port .algorithms)
/-- GET_CERTIFICATE (R377). -/
def execGetCertificate (port : Nat) (s : State) : Out := .next (s.attest port .certificate)
/-- CHALLENGE (R377): signed with the device identity over the requester's nonce. -/
def execChallenge (port : Nat) (nonce : BitVec 256) (s : State) : Out :=
  .next (s.attest port (.signed nonce (Config.sign 0 (Config.digest (bytesOf 32 nonce.toNat)))))
/-- GET_MEASUREMENTS (R377): firmware, configuration block, and the image of the last resume. -/
def execGetMeasurements (port : Nat) (nonce : BitVec 256) (s : State) : Out :=
  let m1 := Config.digest Config.firmware
  let m2 := Config.digest (configBytes s.config)
  let m3 := s.measure3
  let all := bytesOf 32 nonce.toNat ++ bytesOf 64 m1.toNat ++ bytesOf 64 m2.toNat ++ bytesOf 64 m3.toNat
  .next (s.attest port (.measurements nonce m1 m2 m3 (Config.sign 0 (Config.digest all))))

/-! ## Sinks (R375) -/

/-- SINK_CREATE (R375): a peer-level EXCL record with WR only, in die 0's quire; without a free record nothing is made. -/
def execSinkCreate (asid : BitVec 14) (dev port len : Nat) (s : State) : Out :=
  match s.freeRecord 0 with
  | none => .next s
  | some img =>
    .next (if 1 ≤ dev ∧ dev ≤ 254 ∧ port < 20 ∧ 1 ≤ len ∧ len ≤ 2 ^ 40 then
      s.putRec { CapRec.fresh img (dev * 2 ^ 44 + 2 ^ 20 + port * 2 ^ 15) .peer .excl len asid noOwner with
        rights := ⟨false, false, true, false⟩, proxy := some ⟨dev, 0, port⟩ }
    else s)

end Sys2Proof.Machine
end

