-- ==== Sys2Proof/Machine/IntAlu.lean ====
section
/-!
DEFINITION. Integer register and immediate instructions, LUI, ADDPC and their compact forms (R55, R76 to R79).
-/
namespace Sys2Proof.Machine

open Sys2Proof

/-- A truth value as 1 or 0. -/
def boolWord (b : Bool) : Word := if b then 1 else 0
/-- The shift amount B[5:0]. -/
def shiftOf (b : Word) : Nat := b.toNat % 64
/-- Leading zero bits, 64 for 0. -/
def clz (a : Word) : Word := if a = 0 then 64 else BitVec.ofNat 64 (63 - Nat.log2 a.toNat)
/-- Trailing zero bits of a number, counted up to a limit. -/
def trailing : Nat → Nat → Nat
  | 0, _ => 0
  | n + 1, a => if a % 2 = 1 then 0 else 1 + trailing n (a / 2)
/-- Trailing zero bits, 64 for 0. -/
def ctz (a : Word) : Word := BitVec.ofNat 64 (trailing 64 a.toNat)
/-- One bits among the lowest n of a number. -/
def ones : Nat → Nat → Nat
  | 0, _ => 0
  | n + 1, a => a % 2 + ones n (a / 2)
def popc (a : Word) : Word := BitVec.ofNat 64 (ones 64 a.toNat)
/-- Bits [127:64] of the signed product. -/
def mulHigh (a b : Word) : Word := BitVec.ofInt 64 (a.toInt * b.toInt / 2 ^ 64)
/-- Bits [127:64] of the unsigned product. -/
def mulHighU (a b : Word) : Word := BitVec.ofNat 64 (a.toNat * b.toNat / 2 ^ 64)
/-- DIV: all ones for B = 0, the largest positive value for −2^63 ÷ −1, else truncated towards zero. -/
def divide (a b : Word) : Word :=
  if b = 0 then BitVec.allOnes 64
  else if a.toInt = -2 ^ 63 ∧ b.toInt = -1 then 0x7FFFFFFFFFFFFFFF
  else BitVec.ofInt 64 (a.toInt.tdiv b.toInt)
/-- REM: A for B = 0, 0 for −2^63 ÷ −1, else with the sign of A. -/
def remainder (a b : Word) : Word :=
  if b = 0 then a
  else if a.toInt = -2 ^ 63 ∧ b.toInt = -1 then 0
  else BitVec.ofInt 64 (a.toInt - b.toInt * a.toInt.tdiv b.toInt)
def divideU (a b : Word) : Word := if b = 0 then BitVec.allOnes 64 else BitVec.ofNat 64 (a.toNat / b.toNat)
def remainderU (a b : Word) : Word := if b = 0 then a else BitVec.ofNat 64 (a.toNat % b.toNat)

/-- ADD (R77). -/
def execAdd (d a b : BitVec 5) (s : State) : Out := finish 4 (s.setX d (s.x a + s.x b))
/-- SUB (R77). -/
def execSub (d a b : BitVec 5) (s : State) : Out := finish 4 (s.setX d (s.x a - s.x b))
/-- MIN (R77), signed. -/
def execMin (d a b : BitVec 5) (s : State) : Out := finish 4 (s.setX d (if (s.x a).slt (s.x b) then s.x a else s.x b))
/-- MAX (R77), signed. -/
def execMax (d a b : BitVec 5) (s : State) : Out := finish 4 (s.setX d (if (s.x a).slt (s.x b) then s.x b else s.x a))
/-- MINU (R77). -/
def execMinu (d a b : BitVec 5) (s : State) : Out := finish 4 (s.setX d (if (s.x a).ult (s.x b) then s.x a else s.x b))
/-- MAXU (R77). -/
def execMaxu (d a b : BitVec 5) (s : State) : Out := finish 4 (s.setX d (if (s.x a).ult (s.x b) then s.x b else s.x a))
/-- SLT (R77). -/
def execSlt (d a b : BitVec 5) (s : State) : Out := finish 4 (s.setX d (boolWord ((s.x a).slt (s.x b))))
/-- SLTU (R77). -/
def execSltu (d a b : BitVec 5) (s : State) : Out := finish 4 (s.setX d (boolWord ((s.x a).ult (s.x b))))
/-- AND (R77). -/
def execAnd (d a b : BitVec 5) (s : State) : Out := finish 4 (s.setX d (s.x a &&& s.x b))
/-- OR (R77). -/
def execOr (d a b : BitVec 5) (s : State) : Out := finish 4 (s.setX d (s.x a ||| s.x b))
/-- XOR (R77). -/
def execXor (d a b : BitVec 5) (s : State) : Out := finish 4 (s.setX d (s.x a ^^^ s.x b))
/-- ANDN (R77): A AND NOT B. -/
def execAndn (d a b : BitVec 5) (s : State) : Out := finish 4 (s.setX d (s.x a &&& ~~~ s.x b))
/-- SEL (R77): the old x[d] selects. -/
def execSel (d a b : BitVec 5) (s : State) : Out := finish 4 (s.setX d (if s.x d ≠ 0 then s.x a else s.x b))
/-- SLL (R77). -/
def execSll (d a b : BitVec 5) (s : State) : Out := finish 4 (s.setX d (s.x a <<< shiftOf (s.x b)))
/-- SRL (R77). -/
def execSrl (d a b : BitVec 5) (s : State) : Out := finish 4 (s.setX d (s.x a >>> shiftOf (s.x b)))
/-- SRA (R77). -/
def execSra (d a b : BitVec 5) (s : State) : Out := finish 4 (s.setX d ((s.x a).sshiftRight (shiftOf (s.x b))))
/-- CLZ (R77): number of leading zero bits. -/
def execClz (d a : BitVec 5) (s : State) : Out := finish 4 (s.setX d (clz (s.x a)))
/-- CTZ (R77): number of trailing zero bits. -/
def execCtz (d a : BitVec 5) (s : State) : Out := finish 4 (s.setX d (ctz (s.x a)))
/-- POPC (R77): number of one bits. -/
def execPopc (d a : BitVec 5) (s : State) : Out := finish 4 (s.setX d (popc (s.x a)))
/-- MUL (R77); the slot is parked until 4 clk after issue. -/
def execMul (d a b : BitVec 5) (s : State) : Out := finish 4 ((s.setX d (s.x a * s.x b)).busy 4)
/-- MULH (R77); the slot is parked until 4 clk after issue. -/
def execMulh (d a b : BitVec 5) (s : State) : Out := finish 4 ((s.setX d (mulHigh (s.x a) (s.x b))).busy 4)
/-- MULHU (R77); the slot is parked until 4 clk after issue. -/
def execMulhu (d a b : BitVec 5) (s : State) : Out := finish 4 ((s.setX d (mulHighU (s.x a) (s.x b))).busy 4)
/-- DIV (R77); the slot is parked until 18 clk after issue. -/
def execDiv (d a b : BitVec 5) (s : State) : Out := finish 4 ((s.setX d (divide (s.x a) (s.x b))).busy 18)
/-- DIVU (R77); the slot is parked until 18 clk after issue. -/
def execDivu (d a b : BitVec 5) (s : State) : Out := finish 4 ((s.setX d (divideU (s.x a) (s.x b))).busy 18)
/-- REM (R77); the slot is parked until 18 clk after issue. -/
def execRem (d a b : BitVec 5) (s : State) : Out := finish 4 ((s.setX d (remainder (s.x a) (s.x b))).busy 18)
/-- REMU (R77); the slot is parked until 18 clk after issue. -/
def execRemu (d a b : BitVec 5) (s : State) : Out := finish 4 ((s.setX d (remainderU (s.x a) (s.x b))).busy 18)
/-- ADDI (R78). -/
def execAddi (d a : BitVec 5) (i : BitVec 12) (s : State) : Out := finish 4 (s.setX d (s.x a + sx i))
/-- ANDI (R78). -/
def execAndi (d a : BitVec 5) (i : BitVec 12) (s : State) : Out := finish 4 (s.setX d (s.x a &&& sx i))
/-- ORI (R78). -/
def execOri (d a : BitVec 5) (i : BitVec 12) (s : State) : Out := finish 4 (s.setX d (s.x a ||| sx i))
/-- XORI (R78). -/
def execXori (d a : BitVec 5) (i : BitVec 12) (s : State) : Out := finish 4 (s.setX d (s.x a ^^^ sx i))
/-- SLTI (R78). -/
def execSlti (d a : BitVec 5) (i : BitVec 12) (s : State) : Out := finish 4 (s.setX d (boolWord ((s.x a).slt (sx i))))
/-- SLTIU (R78). -/
def execSltiu (d a : BitVec 5) (i : BitVec 12) (s : State) : Out := finish 4 (s.setX d (boolWord ((s.x a).ult (sx i))))
/-- SLLI (R59, R78). -/
def execSlli (d a : BitVec 5) (i : BitVec 6) (s : State) : Out := finish 4 (s.setX d (s.x a <<< i.toNat))
/-- SRLI (R59, R78). -/
def execSrli (d a : BitVec 5) (i : BitVec 6) (s : State) : Out := finish 4 (s.setX d (s.x a >>> i.toNat))
/-- SRAI (R59, R78). -/
def execSrai (d a : BitVec 5) (i : BitVec 6) (s : State) : Out := finish 4 (s.setX d ((s.x a).sshiftRight i.toNat))
/-- LUI (R79). -/
def execLui (d : BitVec 5) (i : BitVec 19) (s : State) : Out := finish 4 (s.setX d (upper i))
/-- ADDPC (R79): a code offset relative to the ADDPC itself. -/
def execAddpc (d : BitVec 5) (i : BitVec 19) (s : State) : Out := finish 4 (s.setX d (s.hart.pc + upper i))
/-- C.ADDI (R55), as ADDI xd, xd, imm. -/
def execCAddi (d : BitVec 5) (i : BitVec 6) (s : State) : Out := finish 2 (s.setX d (s.x d + sx i))
/-- C.MOV (R55), as ADD xd, x0, xs. -/
def execCMov (d b : BitVec 5) (s : State) : Out := finish 2 (s.setX d (s.x 0 + s.x b))
/-- C.ADD (R55), as ADD xd, xd, xs. -/
def execCAdd (d b : BitVec 5) (s : State) : Out := finish 2 (s.setX d (s.x d + s.x b))
/-- C.NOP (R55). -/
def execCNop (s : State) : Out := finish 2 s

end Sys2Proof.Machine
end

