-- ==== Sys2Proof/Machine/ScalarFp.lean ====
section
/-!
DEFINITION. Scalar floating-point instructions (R62, R146 to R148).
-/
namespace Sys2Proof.Machine

open Sys2Proof

/-- The low bits of an x register that a precision reads. -/
def precCode (p : Prec) (w : Word) : Nat := w.toNat % 2 ^ (precFmt p).width
/-- A floating-point operand as the FTZ bit reads it (R134). -/
def State.fpRead (s : State) (p : Prec) (i : BitVec 5) : Fp := (precFmt p).read s.ftz (precCode p (s.x i))
/-- A result written zero-extended, its flags raised and the generator set (R65, R130, R132). -/
def State.fpWrite (s : State) (d : BitVec 5) (r : Nat × FFlags) (lfsr : Word) : State :=
  ((s.setX d (BitVec.ofNat 64 r.1)).raiseFlags r.2).setLfsr lfsr

/-- An arithmetic operation that rounds once, parked some clocks. -/
def fpOp (d : BitVec 5) (r : Rnd) (p : Prec) (clks : Nat) (f : Env → Nat × FFlags) (s : State) : Out :=
  let (v, l) := s.env (precFmt p) (s.mode r)
  finish 4 ((s.fpWrite d (f v) l).busy clks)

/-- The park of FDIV and FSQRT (R145). -/
def divClks (p : Prec) : Nat := match p with | .f32 => 12 | .f64 => 24

/-- FADD (R147). -/
def execFadd (d a b : BitVec 5) (r : Rnd) (p : Prec) (s : State) : Out := fpOp d r p 1 (fun v => fpAdd v (s.fpRead p a) (s.fpRead p b)) s
/-- FSUB (R147). -/
def execFsub (d a b : BitVec 5) (r : Rnd) (p : Prec) (s : State) : Out := fpOp d r p 1 (fun v => fpSub v (s.fpRead p a) (s.fpRead p b)) s
/-- FMUL (R147). -/
def execFmul (d a b : BitVec 5) (r : Rnd) (p : Prec) (s : State) : Out := fpOp d r p 1 (fun v => fpMul v (s.fpRead p a) (s.fpRead p b)) s
/-- FMA (R147). -/
def execFma (d a b : BitVec 5) (r : Rnd) (p : Prec) (s : State) : Out :=
  fpOp d r p 1 (fun v => fpFma v false (s.fpRead p a) (s.fpRead p b) (s.fpRead p d)) s
/-- FDIV (R147). -/
def execFdiv (d a b : BitVec 5) (r : Rnd) (p : Prec) (s : State) : Out :=
  fpOp d r p (divClks p) (fun v => fpDiv v (s.fpRead p a) (s.fpRead p b)) s
/-- FSQRT (R147). -/
def execFsqrt (d a : BitVec 5) (r : Rnd) (p : Prec) (s : State) : Out := fpOp d r p (divClks p) (fun v => fpSqrt v (s.fpRead p a)) s

/-- FMIN and FMAX do not round (R133, R146). -/
def fpPick (isMax : Bool) (d a b : BitVec 5) (p : Prec) (s : State) : Out :=
  let v : Env := { fmt := precFmt p, mode := .rne, ftz := s.ftz }
  finish 4 (s.fpWrite d (fpMinMax v isMax (s.fpRead p a) (s.fpRead p b)) s.hart.lfsr)
/-- FMIN (R147). -/
def execFmin (d a b : BitVec 5) (p : Prec) (s : State) : Out := fpPick false d a b p s
/-- FMAX (R147). -/
def execFmax (d a b : BitVec 5) (p : Prec) (s : State) : Out := fpPick true d a b p s
/-- FCMP (R147). -/
def execFcmp (d a b : BitVec 5) (c : FCond) (p : Prec) (s : State) : Out :=
  let (t, f) := fpCompare c (s.fpRead p a) (s.fpRead p b)
  finish 4 (s.fpWrite d (if t then 1 else 0, f) s.hart.lfsr)
/-- FCLASS (R147). -/
def execFclass (d a : BitVec 5) (p : Prec) (s : State) : Out :=
  finish 4 (s.setX d (BitVec.ofNat 64 (fpClass (precFmt p) (precCode p (s.x a)))))

/-! ## FCVT (R135, R148) -/

/-- The other precision. -/
def otherPrec : Prec → Prec | .f32 => .f64 | .f64 => .f32
/-- A float-to-float conversion between two layouts. -/
def cvtFloat (d a : BitVec 5) (r : Rnd) (src dst : FpFmt) (s : State) : Out :=
  let (v, l) := s.env dst (s.mode r)
  finish 4 (s.fpWrite d (fpConvert v (src.read s.ftz ((s.x a).toNat % 2 ^ src.width))) l)
/-- A float-to-integer conversion clamped to lo..hi, written as a 64-bit word. -/
def cvtToInt (d a : BitVec 5) (r : Rnd) (p : Prec) (lo hi : Int) (s : State) : Out :=
  let (v, l) := s.env (precFmt p) (s.mode r)
  let (i, f) := fpToInt v.mode v.u lo hi (s.fpRead p a)
  finish 4 (s.fpWrite d ((BitVec.ofInt 64 i).toNat, f) l)
/-- An integer-to-float conversion. -/
def cvtOfInt (d : BitVec 5) (r : Rnd) (p : Prec) (i : Int) (s : State) : Out :=
  let (v, l) := s.env (precFmt p) (s.mode r)
  finish 4 (s.fpWrite d (fpOfInt v i) l)
/-- FCVT (R148). -/
def execFcvt (d a : BitVec 5) (c : Conv) (r : Rnd) (p : Prec) (s : State) : Out :=
  match c with
  | .otherPrec => cvtFloat d a r (precFmt p) (precFmt (otherPrec p)) s
  | .toI64 => cvtToInt d a r p (-(2 ^ 63)) (2 ^ 63 - 1) s
  | .toU64 => cvtToInt d a r p 0 (2 ^ 64 - 1) s
  | .toI32 => cvtToInt d a r p (-(2 ^ 31)) (2 ^ 31 - 1) s
  | .toU32 => cvtToInt d a r p 0 (2 ^ 32 - 1) s
  | .ofI64 => cvtOfInt d r p (s.x a).toInt s
  | .ofU64 => cvtOfInt d r p (s.x a).toNat s
  | .ofI32 => cvtOfInt d r p ((s.x a).setWidth 32).toInt s
  | .ofU32 => cvtOfInt d r p ((s.x a).toNat % 2 ^ 32) s
  | .toBf16 => cvtFloat d a r (precFmt p) bf16 s
  | .ofBf16 => cvtFloat d a r bf16 (precFmt p) s
  | .toF16 => cvtFloat d a r (precFmt p) fp16 s
  | .ofF16 => cvtFloat d a r fp16 (precFmt p) s

end Sys2Proof.Machine
end

