-- ==== Sys2Proof/Machine/Special.lean ====
section
/-!
DEFINITION. Special functions of the vector unit (R140, R155). The exact value of a function is computed in fixed point with far more bits than a code holds; which of the codes within the accuracy bound of R140 the function gives is an open value of the part (log 3).
-/
namespace Sys2Proof.Machine

open Sys2Proof

/-! ## Fixed-point values with 640 bits below the point -/

def fxBits : Nat := 640
def fxOne : Nat := 2 ^ fxBits
/-- Terms 1 / (k 2^k) of ln 2. -/
def ln2Sum : Nat → Nat → Nat
  | 0, _ => 0
  | n + 1, k => fxOne / (k * 2 ^ k) + ln2Sum n (k + 1)
def fxLn2 : Nat := ln2Sum (fxBits + 1) 1
/-- The exponential series from a term. -/
def expSeries : Nat → Nat → Nat → Nat → Nat
  | 0, _, _, _ => 0
  | n + 1, k, t, x => t + expSeries n (k + 1) (t * x / fxOne / k) x
/-- The series of the inverse hyperbolic tangent from a power. -/
def atanhSeries : Nat → Nat → Nat → Nat → Nat
  | 0, _, _, _ => 0
  | n + 1, k, p, y2 => p / k + atanhSeries n (k + 2) (p * y2 / fxOne) y2

/-- A finite value as a fixed-point integer, bounded to ±256, beyond which every function of R140 has reached its limit. -/
def fxOf (neg : Bool) (m : Nat) (e : Int) : Int :=
  let big := 256 * fxOne
  let v := if 0 ≤ e + fxBits then (if (10 : Int) < e then big else min big (m * 2 ^ (e + fxBits).toNat)) else m / 2 ^ (-(e + fxBits)).toNat
  if neg then -(v : Int) else v

/-- exp of a fixed-point number: m × 2^(n − 640). -/
def fxExp (x : Int) : Nat × Int :=
  let n := x.fdiv fxLn2
  (expSeries 160 1 fxOne (x - n * fxLn2).toNat, n)
/-- The same as a fixed-point integer. -/
def fxExpFlat (x : Int) : Nat :=
  let (m, n) := fxExp x
  if 0 ≤ n then m * 2 ^ n.toNat else m / 2 ^ (-n).toNat
/-- The natural logarithm of m × 2^e, m not 0. -/
def fxLog (m : Nat) (e : Int) : Int :=
  let k := Nat.log2 m
  let f := m * fxOne / 2 ^ k
  let y := (f - fxOne) * fxOne / (f + fxOne)
  (2 * atanhSeries 220 1 y (y * y / fxOne) : Nat) + (k + e) * fxLn2

/-! ## Exact values of the functions -/

inductive SpecialFn where | rcp | rsq | exp | exp2 | log | log2 | tanh | sigm
deriving DecidableEq, Repr
def SpecialFn.code : SpecialFn → Nat | .rcp => 0 | .rsq => 1 | .exp => 2 | .exp2 => 3 | .log => 4 | .log2 => 5 | .tanh => 6 | .sigm => 7
/-- The bound of R140 in ulp. -/
def SpecialFn.ulps : SpecialFn → Nat | .rcp | .rsq | .exp2 | .log2 => 1 | _ => 2
/-- Functions whose powers of two are all exact results, so that a monotonic function does not cross one. -/
def SpecialFn.anchored : SpecialFn → Bool | .rcp | .rsq | .exp2 => true | _ => false

/-- 1 / √(m × 2^e). -/
def rsqExact (f : FpFmt) (m : Nat) (e : Int) : Exact :=
  let (m, e) := if e % 2 = 0 then (m, e) else (2 * m, e - 1)
  let k := f.mbits + 40 + Nat.log2 m
  let r := isqrt (2 ^ (2 * k) / m)
  ⟨false, r, -(k : Int) - e / 2, r * r * m != 2 ^ (2 * k)⟩

/-- The exact value of a function at a finite operand that is not 0 and lies in its domain. -/
def SpecialFn.exact (fn : SpecialFn) (f : FpFmt) (neg : Bool) (m : Nat) (e : Int) : Exact :=
  match fn with
  | .rcp => divExact f neg 1 0 m e
  | .rsq => rsqExact f m e
  | .exp => let (v, n) := fxExp (fxOf neg m e); ⟨false, v, n - fxBits, true⟩
  | .exp2 =>
    let x := fxOf neg m e
    let n := x.fdiv fxOne
    let r := (x - n * fxOne).toNat
    if r = 0 then ⟨false, 1, n, false⟩ else ⟨false, expSeries 160 1 fxOne (r * fxLn2 / fxOne), n - fxBits, true⟩
  | .log => let v := fxLog m e; ⟨decide (v < 0), v.natAbs, -fxBits, true⟩
  | .log2 =>
    if m = 2 ^ Nat.log2 m then let v := (Nat.log2 m : Int) + e; ⟨decide (v < 0), v.natAbs, 0, false⟩
    else let v := fxLog m e; ⟨decide (v < 0), v.natAbs * fxOne / fxLn2, -fxBits, true⟩
  | .tanh => let t := fxExpFlat (2 * fxOf false m e); ⟨neg, (t - fxOne) * fxOne / (t + fxOne), -fxBits, true⟩
  | .sigm => let t := fxExpFlat (fxOf neg m e); ⟨false, t * fxOne / (t + fxOne), -fxBits, true⟩

/-! ## Codes within the bound -/

/-- Code of 1.0 and of 0.5. -/
def FpFmt.oneCode (f : FpFmt) : Nat := f.bias * 2 ^ f.mbits
def FpFmt.halfCode (f : FpFmt) : Nat := (f.bias - 1) * 2 ^ f.mbits
/-- The limits that a function's exact values set to its magnitude on one side of them. -/
def SpecialFn.limits (fn : SpecialFn) (f : FpFmt) (neg : Bool) : Nat × Nat :=
  let top := 2 ^ (f.ebits + f.mbits)
  match fn with
  | .exp => if neg then (0, f.oneCode) else (f.oneCode, top)
  | .tanh => (0, f.oneCode)
  | .sigm => if neg then (0, f.halfCode) else (f.halfCode, f.oneCode)
  | _ => (0, top)

/-- The magnitude of a code, exponents unbounded: mantissa and exponent. -/
def FpFmt.magnitude (f : FpFmt) (c : Nat) : Nat × Int :=
  let e := c / 2 ^ f.mbits
  if e = 0 then (c, f.emin - f.mbits) else (c % 2 ^ f.mbits + 2 ^ f.mbits, f.emin - f.mbits + (e - 1 : Nat))
/-- Whether the magnitude of a code lies within k ulp of an exact value whose ulp is 2^q; from the first value of a binade on, no code lies lower than values just below that binade allow, so that the lower bound never falls. -/
def FpFmt.within (f : FpFmt) (k : Nat) (q : Int) (x : Exact) (c : Nat) : Bool :=
  let (m, e) := f.magnitude c
  let lo := min x.e (f.emin - f.mbits)
  let sc (n : Nat) (p : Int) : Nat := n * 2 ^ (p - lo).toNat
  decide (sc x.m x.e ≤ sc m e + sc k q ∧ sc m e ≤ sc x.m x.e + sc 1 x.e + sc k q) &&
    (decide (x.top ≤ f.emin) || decide (sc 1 x.top ≤ sc m e + sc k (q - 1)))
/-- The code at or below an exact magnitude, and the exponent of its unit. -/
def FpFmt.floorCode (f : FpFmt) (x : Exact) : Nat × Int :=
  let q := max x.top f.emin - f.mbits
  ((q - (f.emin - f.mbits)).toNat * 2 ^ f.mbits + (scaleTo x q).1, q)
/-- Whether an exact magnitude is a code. -/
def FpFmt.exactly (f : FpFmt) (x : Exact) : Bool :=
  let (c, q) := f.floorCode x
  !x.sticky && (scaleTo x q).2.1 == 0 && decide (c ≤ f.maxCode)
/-- The code of a whole number that the format holds exactly. -/
def FpFmt.wholeCode (f : FpFmt) (n : Nat) : Nat := if n = 0 then 0 else (f.floorCode ⟨false, n, 0, false⟩).1
/-- The codes that a function may give, lowest first (R140): those within the bound that do not cross an exact result. -/
def SpecialFn.codes (fn : SpecialFn) (f : FpFmt) (neg : Bool) (x : Exact) : List Nat :=
  let k := fn.ulps
  let (a, q) := f.floorCode x
  let (lo, hi) := if fn = .log2 then (f.wholeCode (scaleTo x 0).1, f.wholeCode ((scaleTo x 0).1 + 1)) else fn.limits f neg
  if fn.anchored then [a, a + 1]
  else ((List.range (4 * k + 1)).filterMap fun j => if a + j < 2 * k then none else some (a + j - 2 * k)).filter fun c =>
    decide (lo ≤ c ∧ c ≤ hi) && f.within k q x c
/-- A function's result at a finite operand inside its domain (R140): exact, or the highest of the codes within the bound that the operand has reached. -/
def SpecialFn.give (fn : SpecialFn) (v : Env) (reached : Bool → Nat → Bool) (neg : Bool) (m : Nat) (e : Int) : Nat × FFlags :=
  let f := v.fmt
  let x := fn.exact f neg m e
  if x.m = 0 ∧ !x.sticky then (0, 0)
  else if f.exactly x then f.flush v.ftz (f.signBit x.neg + (f.floorCode x).1, 0)
  else
    let cs := fn.codes f neg x
    let c := (cs.filter (reached x.neg)).foldl max (cs.headD (f.floorCode x).1)
    if f.maxCode < c then (f.infCode false x.neg, flOF ||| flNX)
    else f.flush v.ftz (f.signBit x.neg + c, (if c < 2 ^ f.mbits then flUF else 0) ||| flNX)

/-- A special function (R140); VLOG of +infinity, of which the table says nothing, is +infinity without a flag, as VLOG2 (log 99). -/
def SpecialFn.apply (fn : SpecialFn) (v : Env) (reached : Bool → Nat → Bool) (a : Fp) : Nat × FFlags :=
  let f := v.fmt
  let zero (neg : Bool) : Nat × FFlags := (f.signBit neg, 0)
  let inf (neg : Bool) (fl : FFlags) : Nat × FFlags := (f.infCode false neg, fl)
  match a with
  | .nan neg _ m w => v.nanOf [a] neg m w false
  | .inf neg =>
    (match fn with
    | .rcp => zero neg
    | .rsq => if neg then v.invalid else zero false
    | .exp | .exp2 => if neg then zero false else inf false 0
    | .log | .log2 => if neg then v.invalid else inf false 0
    | .tanh => (f.signBit neg + f.oneCode, 0)
    | .sigm => if neg then zero false else (f.oneCode, 0))
  | .fin neg m e =>
    if m = 0 then
      (match fn with
      | .rcp | .rsq => inf neg flDZ
      | .exp | .exp2 => (f.oneCode, 0)
      | .log | .log2 => inf true flDZ
      | .tanh => zero neg
      | .sigm => (f.halfCode, 0))
    else
      match fn with
      | .rsq | .log2 => if neg then v.invalid else fn.give v reached neg m e
      | .log => if neg then v.invalid else if m = 2 ^ Nat.log2 m ∧ (Nat.log2 m : Int) + e = 0 then zero false else fn.give v reached neg m e
      | _ => fn.give v reached neg m e

/-! ## Instructions -/

/-- The place of an operand code along the operands of a function, in the direction in which the magnitude of its result grows; neg is the sign of the result. For VTANH it is that of the magnitude, so that tanh(−x) is the negation of tanh(x) bit for bit. -/
def SpecialFn.rank (fn : SpecialFn) (w : Nat) (neg : Bool) (c : Nat) : Nat :=
  let half := 2 ^ (w - 1)
  let mag := c % half
  match fn with
  | .tanh => mag
  | .rcp | .rsq => half - mag
  | .log | .log2 => if neg then half - mag else mag
  | .exp | .exp2 | .sigm => if half ≤ c then half - mag else half + mag
/-- Whether a function has reached a code of its result at an operand. Whatever places the part fixes, a function is monotonic: an operand further along has reached every code that this one has. -/
def SpecialFn.reached (fn : SpecialFn) (e : Et) (c : Nat) (neg : Bool) (code : Nat) : Bool :=
  decide (Config.specialReach fn.code e.code (neg && fn != .tanh) code ≤ fn.rank e.width neg c)
/-- A special function on the active lanes; the rounding mode is ignored and the generator does not step. -/
def special (fn : SpecialFn) (d a : BitVec 5) (e : Et) (k : BitVec 2) (s : State) : Out :=
  vecFpExact d e k [d, a] (fun s v i => fn.apply v (fn.reached e (laneOf e.width (s.v a) i)) (s.laneFp e a i)) s

/-- VRCP (R155). -/
def execVrcp (d a : BitVec 5) (e : Et) (k : BitVec 2) (s : State) : Out := special .rcp d a e k s
/-- VRSQ (R155). -/
def execVrsq (d a : BitVec 5) (e : Et) (k : BitVec 2) (s : State) : Out := special .rsq d a e k s
/-- VEXP (R155). -/
def execVexp (d a : BitVec 5) (e : Et) (k : BitVec 2) (s : State) : Out := special .exp d a e k s
/-- VEXP2 (R155). -/
def execVexp2 (d a : BitVec 5) (e : Et) (k : BitVec 2) (s : State) : Out := special .exp2 d a e k s
/-- VLOG (R155). -/
def execVlog (d a : BitVec 5) (e : Et) (k : BitVec 2) (s : State) : Out := special .log d a e k s
/-- VLOG2 (R155). -/
def execVlog2 (d a : BitVec 5) (e : Et) (k : BitVec 2) (s : State) : Out := special .log2 d a e k s
/-- VTANH (R155). -/
def execVtanh (d a : BitVec 5) (e : Et) (k : BitVec 2) (s : State) : Out := special .tanh d a e k s
/-- VSIGM (R155). -/
def execVsigm (d a : BitVec 5) (e : Et) (k : BitVec 2) (s : State) : Out := special .sigm d a e k s
/-- VSQRT (R155): correctly rounded in FCTL.mode, parked 12 clk. -/
def execVsqrt (d a : BitVec 5) (e : Et) (k : BitVec 2) (s : State) : Out :=
  vecFp d e k 12 [d, a] (fun s v i => fpSqrt v (s.laneFp e a i)) s
/-- VDIV (R155): correctly rounded in FCTL.mode, parked 12 clk. -/
def execVdiv (d a b : BitVec 5) (e : Et) (k : BitVec 2) (s : State) : Out :=
  vecFp d e k 12 [d, a, b] (fun s v i => fpDiv v (s.laneFp e a i) (s.laneFp e b i)) s

end Sys2Proof.Machine
end

