-- ==== Sys2Proof/Machine/Repeat.lean ====
section
/-!
DEFINITION. The REP prefix (R67 to R69).
-/
namespace Sys2Proof.Machine

open Sys2Proof

/-- Places of the d, a and b fields that REP may step, by the low seven bits of the word; none where the step is illegal (R68). -/
def repFields (low7 : Nat) : Option (List (Option Nat)) :=
  if low7 = 0x05 then some [some 7, some 12, none]
  else if low7 = 0x11 ∨ low7 = 0x13 then some [some 7, some 16, none]
  else if low7 = 0x2F then some [some 7, none, none]
  else if low7 = 0x03 ∨ low7 = 0x0F ∨ (0x21 ≤ low7 ∧ low7 ≤ 0x2D ∧ low7 % 2 = 1) then some [some 7, some 12, some 17]
  else none
/-- The fields that a step mask names: bit 0 d, bit 1 a, bit 2 b. -/
def stepped (mask : Nat) (fields : List (Option Nat)) : List (Option Nat) :=
  (List.range 3).filterMap fun i => if mask / 2 ^ i % 2 = 1 then some (fields.getD i none) else none
/-- Check of R68: the word is of a major opcode that REP takes, every step is legal, and no stepped field passes 31 on the last repeat. -/
def repCheck (w count mask stride : Nat) : Bool :=
  match repFields (w % 128) with
  | none => false
  | some fs => (stepped mask fs).all fun f => match f with | some lo => decide (w / 2 ^ lo % 32 + count * stride ≤ 31) | none => false
/-- The word with each stepped field moved on; none where a field leaves its range. -/
def repWord (w mask delta : Nat) : Option Nat :=
  match repFields (w % 128) with
  | none => none
  | some fs => (stepped mask fs).foldl (fun (acc : Option Nat) f =>
      match acc, f with
      | some v, some lo => if w / 2 ^ lo % 32 + delta ≤ 31 then some (v + delta * 2 ^ lo) else none
      | _, _ => none) (some w)

/-- One repeat: the instructions of the major opcodes that R68 lists; any other word raises ILL. -/
def runRepeated (i : Instr) (s : State) : Out :=
  match i with
  | .add d a b => execAdd d a b s
  | .sub d a b => execSub d a b s
  | .min d a b => execMin d a b s
  | .max d a b => execMax d a b s
  | .minu d a b => execMinu d a b s
  | .maxu d a b => execMaxu d a b s
  | .slt d a b => execSlt d a b s
  | .sltu d a b => execSltu d a b s
  | .and d a b => execAnd d a b s
  | .or d a b => execOr d a b s
  | .xor d a b => execXor d a b s
  | .andn d a b => execAndn d a b s
  | .sel d a b => execSel d a b s
  | .sll d a b => execSll d a b s
  | .srl d a b => execSrl d a b s
  | .sra d a b => execSra d a b s
  | .clz d a => execClz d a s
  | .ctz d a => execCtz d a s
  | .popc d a => execPopc d a s
  | .mul d a b => execMul d a b s
  | .mulh d a b => execMulh d a b s
  | .mulhu d a b => execMulhu d a b s
  | .div d a b => execDiv d a b s
  | .divu d a b => execDivu d a b s
  | .rem d a b => execRem d a b s
  | .remu d a b => execRemu d a b s
  | .addi d a i => execAddi d a i s
  | .andi d a i => execAndi d a i s
  | .ori d a i => execOri d a i s
  | .xori d a i => execXori d a i s
  | .slli d a sv => execSlli d a sv s
  | .srli d a sv => execSrli d a sv s
  | .srai d a sv => execSrai d a sv s
  | .slti d a i => execSlti d a i s
  | .sltiu d a i => execSltiu d a i s
  | .fadd d a b r p => execFadd d a b r p s
  | .fsub d a b r p => execFsub d a b r p s
  | .fmul d a b r p => execFmul d a b r p s
  | .fma d a b r p => execFma d a b r p s
  | .fdiv d a b r p => execFdiv d a b r p s
  | .fsqrt d a r p => execFsqrt d a r p s
  | .fmin d a b p => execFmin d a b p s
  | .fmax d a b p => execFmax d a b p s
  | .fcmp d a b c p => execFcmp d a b c p s
  | .fcvt d a sv r p => execFcvt d a sv r p s
  | .fclass d a p => execFclass d a p s
  | .ldB d h x i => execLdB d h x i s
  | .ldBu d h x i => execLdBu d h x i s
  | .ldH d h x i => execLdH d h x i s
  | .ldHu d h x i => execLdHu d h x i s
  | .ldW d h x i => execLdW d h x i s
  | .ldWu d h x i => execLdWu d h x i s
  | .ldD d h x i => execLdD d h x i s
  | .ldv d h x i => execLdv d h x i s
  | .stB sv h x i => execStB sv h x i s
  | .stH sv h x i => execStH sv h x i s
  | .stW sv h x i => execStW sv h x i s
  | .stD sv h x i => execStD sv h x i s
  | .stv sv h x i => execStv sv h x i s
  | .stlW sv h x i => execStlW sv h x i s
  | .stlD sv h x i => execStlD sv h x i s
  | .vadd d a b e k => execVadd d a b e k s
  | .vsub d a b e k => execVsub d a b e k s
  | .vmul d a b e k => execVmul d a b e k s
  | .vfma d a b e k => execVfma d a b e k s
  | .vfnma d a b e k => execVfnma d a b e k s
  | .vmin d a b e k => execVmin d a b e k s
  | .vmax d a b e k => execVmax d a b e k s
  | .vabs d a e k => execVabs d a e k s
  | .vneg d a e k => execVneg d a e k s
  | .viadd d a b e k sv => execViadd d a b e k sv s
  | .visub d a b e k sv => execVisub d a b e k sv s
  | .vimul d a b e k sv => execVimul d a b e k sv s
  | .vimac d a b e k sv => execVimac d a b e k sv s
  | .vand d a b e k => execVand d a b e k s
  | .vor d a b e k => execVor d a b e k s
  | .vxor d a b e k => execVxor d a b e k s
  | .vshl d a b e k => execVshl d a b e k s
  | .vshr d a b e k => execVshr d a b e k s
  | .vsra d a b e k => execVsra d a b e k s
  | .vcmp d a b e k u c => execVcmp d a b e k u c s
  | .vsel d a b e k => execVsel d a b e k s
  | .vmskAnd d a b => execVmskAnd d a b s
  | .vmskOr d a b => execVmskOr d a b s
  | .vmskXor d a b => execVmskXor d a b s
  | .vmskAndn d a b => execVmskAndn d a b s
  | .vmskMov d a => execVmskMov d a s
  | .vmskGet d a => execVmskGet d a s
  | .vrcp d a e k => execVrcp d a e k s
  | .vrsq d a e k => execVrsq d a e k s
  | .vsqrt d a e k => execVsqrt d a e k s
  | .vdiv d a b e k => execVdiv d a b e k s
  | .vexp d a e k => execVexp d a e k s
  | .vexp2 d a e k => execVexp2 d a e k s
  | .vlog d a e k => execVlog d a e k s
  | .vlog2 d a e k => execVlog2 d a e k s
  | .vtanh d a e k => execVtanh d a e k s
  | .vsigm d a e k => execVsigm d a e k s
  | .vcvt d a c e sv p => execVcvt d a c e sv p s
  | .vqnt d a p e k sv => execVqnt d a p e k sv s
  | .vdqn d a p e k => execVdqn d a p e k s
  | .vbaddq d a b k => execVbaddq d a b k s
  | .vperm d a b e k => execVperm d a b e k s
  | .vbcast d a e k => execVbcast d a e k s
  | .vbcastLane d a i e k => execVbcastLane d a i e k s
  | .vbcastLaneHigh d a i e k => execVbcastLaneHigh d a i e k s
  | .vreds d a e k => execVreds d a e k s
  | .vredmMax d a e k u => execVredmMax d a e k u s
  | .vredmMin d a e k u => execVredmMin d a e k u s
  | .vtrn d a e => execVtrn d a e s
  | .vgx d a r => execVgx d a r s
  | .vmovi d e i => execVmovi d e i s
  | .vmuli d e i => execVmuli d e i s
  | .vaddi d e i => execVaddi d e i s
  | _ => raise trapIll s

/-- REPST of a new sequence (R69). -/
def repStart (count mask code : Nat) : Word := BitVec.ofNat 64 (2 ^ 17 + code * 2 ^ 15 + mask * 2 ^ 12 + count * 2 ^ 6)

/-- REP (R67 to R69): the prefix checks the word after it and makes the sequence active; each later issue at its address runs the next repeat. What the spec leaves open the model takes so (log 94): a word after the prefix that lies outside the code capability raises CAPV subcode LEN at the prefix's PC, and one whose MOP may follow a REP but which is no instruction raises ILL at the prefix before REPST becomes active. -/
def execRep (c : BitVec 6) (k : BitVec 3) (t : BitVec 2) (s : State) : Out :=
  let s := s.noteFetch (s.hart.pc.toNat + 4)
  match s.fetchWordAt (s.hart.pc.toNat + 4) with
  | .error e => raise e s
  | .ok w =>
    if w % 2 = 0 ∨ (decodeWord w).isNone then raise trapIll s
    else if repActive s.hart.repst then
      let r := s.hart.repst.toNat
      match repWord w (r / 2 ^ 12 % 8) (repNext s.hart.repst * 2 ^ (r / 2 ^ 15 % 4)) with
      | none => raise trapIll s
      | some v =>
        match decodeWord v with
        | none => raise trapIll s
        | some i => runRepeated i (s.setHart { s.hart with inRep := true })
    else if repCheck w c.toNat k.toNat (2 ^ t.toNat) then
      .next (s.setHart { s.hart with repst := repStart c.toNat k.toNat t.toNat, wait := none, met := none })
    else raise trapIll s

end Sys2Proof.Machine
end

