-- ==== Sys2Proof/Machine/Scan.lean ====
section
/-!
DEFINITION. Scan contexts and the laid line (R283 to R298, R383).
-/
namespace Sys2Proof.Machine

open Sys2Proof

/-! ## Contexts -/

def Task.ctx (t : Task) (k : BitVec 2) : ScanCtx := t.scan[k.toNat]'(by omega)
def Task.setCtx (t : Task) (k : BitVec 2) (c : ScanCtx) : Task := { t with scan := t.scan.set k.toNat c (by omega) }
/-- The context of a tile task that has configured it, with its launch and line, or none for ILL (R283, R290 to R292). -/
def State.scanCtx (s : State) (k : BitVec 2) : Option (Launch × ScanCtx × ScanLine) :=
  let c := s.task.ctx k
  if s.task.coord.isNone ∨ !c.configured then none
  else match s.launchAt? s.task.launch with
    | none => none
    | some l => (s.task.lineOf l k.toNat).map fun ln => (l, c, ln)
/-- A scan instruction acts once those that the core issued before it on its context have acted (R283). -/
def inScanOrder (k : BitVec 2) (f : State → Out) (s : State) : Out :=
  let u := ServedBy.scan k.toNat
  let s := s.lineUp u
  if s.isFirst u then f s else park (.turn u) s

/-! ## SCNB (R285, R287, R383) -/

/-- Whether a configuration word is legal (R287). -/
def scanWordOk (w : Word) : Bool :=
  let op := wordBits 2 0 w
  decide (op ≤ 4) && !(op == 3 && w.getLsbD 3) && !(op == 4 && w.getLsbD 5) && (op == 4 || wordBits 14 13 w == 0) && decide (wordBits 12 9 w ≤ 9) && wordBits 63 15 w == 0

/-- The members of a new line: the tile tasks of the subgroup, and those that ended before (R285, R296, R383). -/
def Launch.lineMembers (l : Launch) (g : Subgroup) (snake : Bool) : List LineMember :=
  let (h, w) := l.extent g
  ((List.range h).flatMap fun i => (List.range w).map fun j =>
    let rc := (g.row + i, g.col + j)
    let pos := positionIn g w snake rc
    match l.tidAt rc with
    | some t => (⟨pos, t, false, 0, 0, none, none⟩ : LineMember)
    | none => ⟨pos, 0, false, 0, 0, some (0, ((l.gone.find? fun x => l.rel (x.1, x.2.1) == rc).map (·.2.2)).getD 0), none⟩)

/-- What the lines of a context number and a generation hold already of a member. -/
def Launch.knownMember (l : Launch) (k gen : Nat) (m : LineMember) : LineMember :=
  match (l.lines.filter fun ln => ln.ctx == k && ln.gen == gen).findSome? fun ln => ln.members.find? fun x => x.tid == m.tid && m.tid != 0 with
  | some x => { m with taken := x.taken, left := x.left, config := x.config }
  | none => m
/-- The deposits that those lines hold of a list of members, at the members' positions in it. -/
def Launch.knownDeposits (l : Launch) (k gen : Nat) (ms : List LineMember) : List Deposit :=
  ms.flatMap fun (m : LineMember) =>
    match (l.lines.filter fun (ln : ScanLine) => ln.ctx == k && ln.gen == gen).find? fun (ln : ScanLine) => ln.members.any fun (x : LineMember) => x.tid == m.tid && m.tid != 0 with
    | some ln => (ln.deposits.filter fun (d : Deposit) => ln.members.any fun (x : LineMember) => x.tid == m.tid && x.pos == d.pos).map fun (d : Deposit) => { d with pos := m.pos }
    | none => []
/-- Two configurations among the deposits of epoch 0 break a line (R297). -/
def ScanLine.differs (ln : ScanLine) : Bool := match ln.members.filterMap (·.config) with | [] => false | c :: l => l.any fun x => x != c
/-- The line of a context's generation and subgroup, begun or joined (R383). -/
def Launch.joinLine (l : Launch) (k : Nat) (g : Subgroup) (c : ScanCtx) (tid : Tid) : Launch :=
  let same (ln : ScanLine) : Bool := ln.ctx == k && ln.gen == c.begun && ln.row == g.row && ln.col == g.col && ln.a == g.a && ln.b == g.b
  let enter (m : LineMember) : LineMember := if m.tid = tid then { m with joined := true, queue := c.queue } else m
  if l.lines.any same then
    { l with lines := l.lines.map fun (ln : ScanLine) => if same ln then { ln with members := ln.members.map enter } else ln }
  else
    let ms := ((l.lineMembers g c.snake).map (l.knownMember k c.begun)).map enter
    let (lam, extra) := l.lambda g ms.length
    let ln : ScanLine := { ctx := k, gen := c.begun, a := g.a, b := g.b, row := g.row, col := g.col, lambda := lam
                           affineExtra := if c.op = 3 then extra else 0, user := c.op == 4, members := ms
                           deposits := l.knownDeposits k c.begun ms, lastDeposit := 0, closed := [], broken := false }
    { l with lines := l.lines ++ [{ ln with broken := ln.differs }] }

/-- SCNB (R287). -/
def execScnb (a : BitVec 5) (c : BitVec 2) (s : State) : Out :=
  let w := s.x a
  match s.launchAt? s.task.launch, s.task.coord with
  | some l, some rc =>
    inScanOrder c (fun s =>
      let old := s.task.ctx c
      if !scanWordOk w ∨ old.configured then raise trapIll s
      else
        let g := subgroupOf (wordBits 8 6 w) (wordBits 12 9 w) (l.rel rc)
        let (h, wd) := l.extent g
        let k : ScanCtx := { configured := true, op := wordBits 2 0 w, int32 := w.getLsbD 3, snake := w.getLsbD 4, inclusive := w.getLsbD 5
                             a := wordBits 8 6 w, b := wordBits 12 9 w, queue := wordBits 14 13 w, ed := 0, eg := 0, er := 0
                             position := positionIn g wd (w.getLsbD 4) (l.rel rc), n := h * wd, generation := old.generation + 1, begun := old.begun + 1 }
        finish 4 ((s.setTask (s.task.setCtx c k)).putLaunch (l.joinLine c.toNat g k s.task.tid))) s
  | _, _ => raise trapIll s

/-! ## Combining (R288, R289) -/

/-- Lanes of a value: one row, or the pair of AFFINE. -/
abbrev ScanVal := List Nat × List Nat
def rowLanes (r : Row) : List Nat := (List.range 16).map (laneOf 32 r)
def scanEnv : Env := { fmt := fp32, mode := .rne, ftz := false, sat := false }
/-- x ∘ y of one lane. -/
def scanLane (op : Nat) (int32 : Bool) (x y : Nat) : Nat :=
  if int32 then
    match op with
    | 0 => (x + y) % 2 ^ 32
    | 1 => if laneInt 32 x < laneInt 32 y then y else x
    | _ => if laneInt 32 y < laneInt 32 x then y else x
  else match op with
    | 0 => (fpAdd scanEnv (fp32.decode x) (fp32.decode y)).1
    | 1 => (fpMinMax scanEnv true (fp32.decode x) (fp32.decode y)).1
    | _ => (fpMinMax scanEnv false (fp32.decode x) (fp32.decode y)).1
/-- x ∘ y (R288). -/
def scanCombine (op : Nat) (int32 : Bool) (x y : ScanVal) : ScanVal :=
  if op = 3 then
    (List.zipWith (fun ax ay => (fpMul scanEnv (fp32.decode ax) (fp32.decode ay)).1) x.1 y.1,
     List.zipWith (fun (p : Nat × Nat) by_ => (fpFma scanEnv false (fp32.decode p.2) (fp32.decode p.1) (fp32.decode by_)).1) (x.2.zip y.1) y.2)
  else (List.zipWith (scanLane op int32) x.1 y.1, [])
/-- The identity of an operator. -/
def scanIdentity (op : Nat) (int32 : Bool) : ScanVal :=
  let one (v : Nat) : ScanVal := (List.replicate 16 v, [])
  match op with
  | 0 => one 0
  | 1 => one (if int32 then 0x80000000 else 0xFF800000)
  | 2 => one (if int32 then 0x7FFFFFFF else 0x7F800000)
  | _ => (List.replicate 16 0x3F800000, List.replicate 16 0)
/-- Values combined from left to right. -/
def scanFold (op : Nat) (int32 : Bool) : List ScanVal → ScanVal
  | [] => scanIdentity op int32
  | v :: vs => vs.foldl (scanCombine op int32) v

/-- The aggregate of a position in an epoch. -/
def ScanLine.agg (ln : ScanLine) (e p : Nat) : ScanVal :=
  match ln.deposits.find? fun d => d.pos == p && d.epoch == e with
  | some d => (rowLanes d.row0, rowLanes d.row1)
  | none => ([], [])
/-- The block aggregate A_L(j) of n positions (R289). -/
def ScanLine.block (ln : ScanLine) (op : Nat) (int32 : Bool) (e n : Nat) : Nat → Nat → ScanVal
  | 0, j => ln.agg e j
  | lv + 1, j => scanFold op int32 (((List.range 4).filter fun i => decide ((4 * j + i) * 4 ^ lv < n)).map fun i => ln.block op int32 e n lv (4 * j + i))
/-- The blocks of the exclusive carry of a position, from the top level down. -/
def carryBlocks (p : Nat) : Nat → List (Nat × Nat)
  | 0 => []
  | lv + 1 => ((List.range (p / 4 ^ lv % 4)).map fun i => (lv, 4 * (p / 4 ^ (lv + 1)) + i)) ++ carryBlocks p lv
/-- Carry(position, e) (R289). -/
def ScanLine.carry (ln : ScanLine) (c : ScanCtx) (e : Nat) : ScanVal :=
  let l := (carryBlocks c.position 9).map fun b => ln.block c.op c.int32 e c.n b.1 b.2
  let before := scanFold c.op c.int32 l
  if c.inclusive then scanCombine c.op c.int32 before (ln.agg e c.position) else before

/-! ## Waiting for an epoch (R291, R292, R295 to R297) -/

/-- What an epoch comes to for a member: ready, a wait, or a trap. -/
inductive EpochState where
  | ready | wait | trap (t : TrapInfo)
deriving DecidableEq, Repr

/-- The deposits of an epoch by the positions that a predicate selects (R295 to R297). -/
def ScanLine.epoch (ln : ScanLine) (clk e : Nat) (sel : Nat → Bool) : EpochState :=
  let ms := ln.members.filter fun m => sel m.pos
  let dep (m : LineMember) : Option Deposit := ln.deposits.find? fun d => d.pos == m.pos && d.epoch == e
  if ln.broken then .trap (trapCapv subDEST)
  else if ln.closed.any fun x => x.1 == e && decide (x.2 ≤ clk) && ms.all fun m => (dep m).isSome || !m.leftBy e then .ready
  else if ms.any fun m => (dep m).isNone && (match m.left with | some (x, t) => decide (x ≤ e ∧ t + ln.delay ≤ clk) | none => false) then .trap trapOwnx
  else if ms.all fun m => match dep m with | some d => decide (d.clk + ln.delay ≤ clk) | none => false then .ready
  else .wait

/-! ## SCNP, SCNG, SCNE (R290 to R293) -/

/-- The successor of a USER member, when it has not left by an epoch. -/
def ScanLine.successor (ln : ScanLine) (p e : Nat) : Option Tid :=
  (ln.members.find? fun m => m.pos == p + 1 && !m.leftBy e).map (·.tid)
/-- Whether the queue register of a successor is full. -/
def State.userFull (s : State) (c : ScanCtx) (ln : ScanLine) : Bool :=
  match (ln.successor c.position c.ed.toNat).bind s.taskAt? with
  | some t => decide (4 ≤ (t.qv.toArray.getD c.queue []).length)
  | none => false
/-- DeliverRow (R293). -/
def State.deliverRow (s : State) (k : BitVec 2) (c : ScanCtx) (ln : ScanLine) (r : Row) : State :=
  match ln.successor c.position c.ed.toNat with
  | none => s
  | some tid => s.modTask tid fun t =>
      { t with qv := if h : c.queue < 4 then t.qv.set c.queue (t.qv[c.queue] ++ [⟨r, some (k.toNat, c.begun)⟩]) h else t.qv }

/-- A deposit of a member enters the line; two configurations of epoch 0 break it (R297). -/
def ScanLine.deposit (ln : ScanLine) (m : LineMember) (d : Deposit) (clk : Nat) : ScanLine :=
  let ms := ln.members.map fun (x : LineMember) => if x.tid = m.tid ∧ d.epoch = 0 then { x with config := some d.config } else x
  let ln := { ln with members := ms, deposits := (ln.deposits.filter fun (x : Deposit) => decide (d.epoch < x.epoch + 2)) ++ [{ d with pos := m.pos }], lastDeposit := clk }
  ScanLine.noteClosings { ln with broken := ln.broken || ln.differs } clk
/-- What a deposit carries of its configuration (R297). -/
def ScanCtx.config (c : ScanCtx) : Nat :=
  c.op + (if c.int32 then 8 else 0) + (if c.snake then 16 else 0) + (if c.inclusive then 32 else 0) + c.a * 64 + c.b * 512
/-- Whether an epoch may be deposited: the one two before it is known to be closed (R290). -/
def ScanLine.depthOk (ln : ScanLine) (clk e : Nat) : Bool :=
  decide (e < 2) || ln.broken || ln.closed.any fun x => x.1 == e - 2 && decide (x.2 ≤ clk)

/-- SCNP (R290, R293). -/
def execScnp (b : BitVec 5) (k : BitVec 2) (s : State) : Out :=
  inScanOrder k (fun s =>
    match s.scanCtx k with
    | none => raise trapIll s
    | some (_, c, ln) =>
      if c.op = 3 ∧ b.getLsbD 0 then raise trapIll s
      else if !ln.depthOk s.clk c.ed.toNat ∨ (c.op = 4 ∧ s.userFull c ln) then park (.scan k.toNat 2 b) s
      else match s.releaseWait with
        | some (w, s) => park w s
        | none =>
          match s.rowWait [b] with
          | some w => park w s
          | none =>
            let d : Deposit := ⟨c.position, c.ed.toNat, s.v b, if c.op = 3 then s.v (b + 1) else 0, s.clk, c.config⟩
            let s := if c.op = 4 then s.deliverRow k c ln (s.v b) else s
            let s := s.modLaunch s.task.launch fun l => l.onLines k.toNat c.begun s.task.tid fun ln m => ln.deposit m d s.clk
            finish 4 (s.setTask (s.task.setCtx k { c with ed := c.ed + 1 }))) s

/-- SCNG (R291). -/
def execScng (d : BitVec 5) (k : BitVec 2) (s : State) : Out :=
  inScanOrder k (fun s =>
    match s.scanCtx k with
    | none => raise trapIll s
    | some (l, c, ln) =>
      if c.op = 4 ∨ (c.op = 3 ∧ d.getLsbD 0) ∨ c.ed.toNat ≤ c.eg.toNat then raise trapIll s
      else match ln.epoch s.clk c.eg.toNat fun p => if c.inclusive then decide (p ≤ c.position) else decide (p < c.position) with
        | .trap t => raise t s
        | .wait => park (.scan k.toNat 0 d) (s.donate (.scan k.toNat 0 d))
        | .ready =>
          match s.rowWait [d] with
          | some w => park w s
          | none =>
            let v := ln.carry c c.eg.toNat
            let s := s.setV d (packRow 32 v.1)
            let s := if c.op = 3 then s.setV (d + 1) (packRow 32 v.2) else s
            let s := s.putLaunch (l.onLines k.toNat c.begun s.task.tid fun ln m => ln.take m.tid s.clk)
            finish 4 (s.setTask (s.task.setCtx k { c with eg := c.eg + 1 }))) s

/-- SCNE (R292). -/
def execScne (d : BitVec 5) (k : BitVec 2) (s : State) : Out :=
  inScanOrder k (fun s =>
    match s.scanCtx k with
    | none => raise trapIll s
    | some (_, c, ln) =>
      if c.ed.toNat ≤ c.er.toNat then raise trapIll s
      else match ln.epoch s.clk c.er.toNat fun _ => true with
        | .trap t => raise t s
        | .wait => park (.scan k.toNat 1 d) s
        | .ready => finish 4 ((s.setTask (s.task.setCtx k { c with er := c.er + 1 })).setX d (BitVec.ofNat 64 (c.er.toNat + 1)))) s

/-- SCNE.close (R292, R296). -/
def execScneClose (d : BitVec 5) (k : BitVec 2) (s : State) : Out :=
  inScanOrder k (fun s =>
    match s.scanCtx k with
    | none => raise trapIll s
    | some (l, c, _) =>
      if c.er ≠ c.ed ∨ (c.op ≠ 4 ∧ c.eg ≠ c.ed) then raise trapIll s
      else
        let s := s.putLaunch (l.onLines k.toNat c.begun s.task.tid fun ln m => ln.leave m.tid c.ed.toNat s.clk)
        finish 4 ((s.setTask (s.task.setCtx k { ScanCtx.blank with generation := c.generation, begun := c.begun })).setX d (c.er.zeroExtend 64))) s

/-! ## What the line brings (R290, R295, R296) -/

/-- A parked scan instruction looks at its line again in this clock, and its slot is ready in the clock after. -/
def State.lookAgain (s : State) (tid : Tid) (no : Nat) : State :=
  match s.focusOn tid no with
  | none => s
  | some f =>
    if !(f.task.state == .running || (f.task.state == .trapped && f.task.handler == some no)) then s
    else
      let go (o : Out) : State := match o with | .next t => (if t.hart.wait.isNone then t.setHart { t.hart with readyAt := s.clk + 1 } else t) | _ => s
      let g := f.setHart { f.hart with wait := none, met := none }
      match f.hart.wait with
      | some (.scan k 0 r) => let t := go (execScng r (BitVec.ofNat 2 k) g); if t.hart.wait.isNone then t.stopDonating tid f.task.tile else t
      | some (.scan k 1 r) => go (execScne r (BitVec.ofNat 2 k) g)
      | some (.scan k _ r) => go (execScnp r (BitVec.ofNat 2 k) g)
      | _ => s

/-- Streams of a task that are parked on a context. -/
def State.parkedOn (s : State) (tid : Tid) (ctx : Nat) : List Nat :=
  ((s.hartsOf tid).filter fun h => match h.wait with | some (.scan k _ _) => k == ctx | _ => false).map (·.no)

/-- SCAN_CARRY_READY (R295): a SCNG writes its carry in the ready clock; a SCNE completes likewise. -/
def execScanCarryReady (tid : Tid) (no : Nat) (s : State) : Out := .next (s.lookAgain tid no)
/-- EPOCH_CLOSE (R290): the closing of an epoch is known at a member. -/
def execEpochClose (tid : Tid) (ctx _epoch : Nat) (s : State) : Out := .next ((s.parkedOn tid ctx).foldl (fun (st : State) n => st.lookAgain tid n) s)
/-- LEAVING_MARK (R296): a leaving mark has reached a member. -/
def execLeavingMark (tid : Tid) (ctx : Nat) (s : State) : Out := .next ((s.parkedOn tid ctx).foldl (fun (st : State) n => st.lookAgain tid n) s)

end Sys2Proof.Machine
end

