-- ==== Sys2Proof/Machine/System.lean ====
section
/-!
DEFINITION. Traps, user events and special registers (R66, R99 to R107, R118).
-/
namespace Sys2Proof.Machine

open Sys2Proof

/-! ## User events (R106, R107) -/

def evActive (w : Word) : Bool := w.toNat / 2 ^ 63 == 1
/-- EVTH (R106). -/
def execEvth (a b : BitVec 5) (s : State) : Out :=
  let h := s.x a
  let e := s.x b
  if h.getLsbD 0 ∨ wordBits 63 48 h ≠ 0 ∨ wordBits 63 3 e ≠ 0 then raise trapIll s
  else finish 4 (s.setHart { s.hart with evhpc := BitVec.ofNat 64 (wordBits 63 63 s.hart.evhpc * 2 ^ 63 + wordBits 2 0 e * 2 ^ 48 + wordBits 47 0 h) })
/-- EVRET (R107). -/
def execEvret (s : State) : Out :=
  let t := s.x 31
  if !evActive s.hart.evhpc then raise trapIll s
  else if t.getLsbD 0 then raise { cause := .algn } s
  else
    let (x, sh) := swapShadow s.hart.x s.hart.ush
    .next (s.setHart { s.hart with x := x, ush := sh, repst := s.hart.repstU, repstU := 0, pc := t, met := none, walkFail := none
                                   evhpc := BitVec.ofNat 64 (wordBits 62 0 s.hart.evhpc) })

/-! ## Traps (R102, R104, R118) -/

/-- TRAP (R104): restart at the next instruction. -/
def execTrap (a : BitVec 5) (s : State) : Out :=
  .next (s.takeTrapAt { cause := .sysc, detail := BitVec.ofNat 16 (wordBits 15 0 (s.x a)) } s.hart.no (s.hart.pc + 4))
/-- BKPT (R104). -/
def execBkpt (s : State) : Out := .next (s.takeTrapAt { cause := .brkp } s.hart.no (s.hart.pc + 4))
/-- ERET (R99, R118): ILL at U; an odd x31 raises ALGN. -/
def execEret (s : State) : Out :=
  let t := s.x 31
  if s.hart.level = .u then raise trapIll s
  else if t.getLsbD 0 then raise { cause := .algn } s
  else .next (s.returnFromTrap t)
/-- EWAIT (R102). -/
def execEwait (s : State) : Out :=
  match s.releaseWait with
  | some (w, s) => park w s
  | none => (match s.task.pendErr with | some e => .next (s.deliver e) | none => finish 4 s)

/-! ## Special registers (R66) -/

/-- What a special register reads as, or none where RDS raises ILL. -/
def State.sregRead (s : State) (n : Nat) : Option Word :=
  match n with
  | 0x000 => some (s.task.tid.zeroExtend 64)
  | 0x001 => some s.hart.geo
  | 0x002 => some s.hart.fctl
  | 0x003 => some s.hart.fflg
  | 0x004 => some s.hart.lfsr
  | 0x005 => some s.hart.repst
  | 0x006 => some s.hart.evhpc
  | 0x007 => some s.task.cycbud
  | 0x008 => some s.task.deadline
  | 0x009 => some s.task.prioWord
  | 0x00A => some s.hart.inj
  | 0x00B => some s.hart.errst
  | 0x00C => some s.seizeest
  | 0x00D => if s.hart.level = .s then some s.hart.cswa else none
  | 0x00E => if s.hart.level = .s then some (s.ctlRead s.cswDie s.cswOff) else none
  | 0x020 => some s.hart.fs[0]
  | 0x021 => some s.hart.fs[1]
  | 0x022 => some s.hart.fs[2]
  | 0x023 => some s.hart.fs[3]
  | 0x030 => some s.hart.ox[0]
  | 0x031 => some s.hart.ox[1]
  | 0x032 => some s.hart.ox[2]
  | 0x033 => some s.hart.ox[3]
  | 0x034 => some s.hart.ox[4]
  | 0x035 => some s.hart.ox[5]
  | 0x036 => some s.hart.ox[6]
  | 0x037 => some s.hart.ox[7]
  | _ => none

def when? (b : Bool) (s : State) : Option State := if b then some s else none
def State.isTest (s : State) : Bool := match s.launchAt? s.task.launch with | some l => l.test | none => false
def State.setFS (i : Fin 4) (w : Word) (s : State) : State := s.setHart { s.hart with fs := s.hart.fs.set i w }

/-- A special register written under its field map, or none where WRS raises ILL (R66). -/
def State.sregWrite (s : State) (n : Nat) (w : Word) : Option State :=
  let sup := s.hart.level == .s
  match n with
  | 0x002 => when? (fctlOk w) (s.setHart { s.hart with fctl := w })
  | 0x003 => when? (fflgOk w) (s.setHart { s.hart with fflg := w })
  | 0x004 => when? (lfsrOk w) (s.setLfsr (if w = 0 then 1 else w))
  | 0x005 => when? (sup && repstOk w) (s.setHart { s.hart with repst := w })
  | 0x006 => when? (evhpcOk w) (s.setHart { s.hart with evhpc := evhpcWrite s.hart.level s.hart.evhpc w })
  | 0x007 => when? (sup && cycbudOk w) (s.setTask { s.task with unlimited := w.getLsbD 32, budget := BitVec.ofNat 32 (wordBits 31 0 w) })
  | 0x008 => when? sup (s.setTask { s.task with deadline := w })
  | 0x009 => when? (prioOk s.hart.level s.task.prioBase w) (s.setTask { s.task with prioBase := wordBits 5 0 w })
  | 0x00A => when? (s.isTest && injOk w) (s.setHart { s.hart with inj := w, injCount := 0 })
  | 0x00B => when? (sup && errstOk w) (s.setHart { s.hart with errst := errstWrite s.hart.errst w })
  | 0x00C => when? (sup && seizeestOk w) (s.setHart { s.hart with notify := w.getLsbD 63 })
  | 0x00D => when? (sup && cswaOk w) (s.setHart { s.hart with cswa := w })
  | 0x00E => when? sup (s.ctlWrite s.cswDie s.cswOff w)
  | 0x020 => when? (fsOk w) (s.setFS 0 w)
  | 0x021 => when? (fsOk w) (s.setFS 1 w)
  | 0x022 => when? (fsOk w) (s.setFS 2 w)
  | 0x023 => when? (fsOk w) (s.setFS 3 w)
  | 0x030 => some (s.setOX 0 w)
  | 0x031 => some (s.setOX 1 w)
  | 0x032 => some (s.setOX 2 w)
  | 0x033 => some (s.setOX 3 w)
  | 0x034 => some (s.setOX 4 w)
  | 0x035 => some (s.setOX 5 w)
  | 0x036 => some (s.setOX 6 w)
  | 0x037 => some (s.setOX 7 w)
  | _ => none

/-- The park of an access to CSWD; other registers do not park. -/
def State.sregPark (s : State) (n : Nat) : Nat := if n = 0x00E then s.cswLatency else 1
/-- RDS (R105). -/
def execRds (d : BitVec 5) (n : BitVec 12) (s : State) : Out :=
  match s.sregRead n.toNat with
  | none => raise trapIll s
  | some w => finish 4 ((s.setX d w).busy (s.sregPark n.toNat))
/-- WRS (R105). -/
def execWrs (b : BitVec 5) (n : BitVec 12) (s : State) : Out :=
  match s.sregWrite n.toNat (s.x b) with
  | none => raise trapIll s
  | some s' => finish 4 (s'.busy (s.sregPark n.toNat))

end Sys2Proof.Machine
end

