-- ==== Sys2Proof/Machine/Dispatch.lean ====
section
/-! DEFINITION. The meaning of every instruction and every step of the opcode table: one direct call for each constructor. -/
namespace Sys2Proof.Machine
open Sys2Proof
/-- The effect of an instruction, or of a step of the device, on a state. -/
def exec (i : Instr) (s : State) : Host.Outcome State Fault Refusal :=
  match i with
  | .cAddi d iv => Sys2Proof.Machine.execCAddi d iv s
  | .cMov d sv => Sys2Proof.Machine.execCMov d sv s
  | .cAdd d sv => Sys2Proof.Machine.execCAdd d sv s
  | .cLd d n o => Sys2Proof.Machine.execCLd d n o s
  | .cSt sv n o => Sys2Proof.Machine.execCSt sv n o s
  | .cBeqz sv iv => Sys2Proof.Machine.execCBeqz sv iv s
  | .cBnez sv iv => Sys2Proof.Machine.execCBnez sv iv s
  | .cJ iv => Sys2Proof.Machine.execCJ iv s
  | .cYield => Sys2Proof.Machine.execCYield s
  | .cNop => Sys2Proof.Machine.execCNop s
  | .cQr d n => Sys2Proof.Machine.execCQr d n s
  | .cQw sv n => Sys2Proof.Machine.execCQw sv n s
  | .add d a b => Sys2Proof.Machine.execAdd d a b s
  | .sub d a b => Sys2Proof.Machine.execSub d a b s
  | .min d a b => Sys2Proof.Machine.execMin d a b s
  | .max d a b => Sys2Proof.Machine.execMax d a b s
  | .minu d a b => Sys2Proof.Machine.execMinu d a b s
  | .maxu d a b => Sys2Proof.Machine.execMaxu d a b s
  | .slt d a b => Sys2Proof.Machine.execSlt d a b s
  | .sltu d a b => Sys2Proof.Machine.execSltu d a b s
  | .and d a b => Sys2Proof.Machine.execAnd d a b s
  | .or d a b => Sys2Proof.Machine.execOr d a b s
  | .xor d a b => Sys2Proof.Machine.execXor d a b s
  | .andn d a b => Sys2Proof.Machine.execAndn d a b s
  | .sel d a b => Sys2Proof.Machine.execSel d a b s
  | .sll d a b => Sys2Proof.Machine.execSll d a b s
  | .srl d a b => Sys2Proof.Machine.execSrl d a b s
  | .sra d a b => Sys2Proof.Machine.execSra d a b s
  | .clz d a => Sys2Proof.Machine.execClz d a s
  | .ctz d a => Sys2Proof.Machine.execCtz d a s
  | .popc d a => Sys2Proof.Machine.execPopc d a s
  | .mul d a b => Sys2Proof.Machine.execMul d a b s
  | .mulh d a b => Sys2Proof.Machine.execMulh d a b s
  | .mulhu d a b => Sys2Proof.Machine.execMulhu d a b s
  | .div d a b => Sys2Proof.Machine.execDiv d a b s
  | .divu d a b => Sys2Proof.Machine.execDivu d a b s
  | .rem d a b => Sys2Proof.Machine.execRem d a b s
  | .remu d a b => Sys2Proof.Machine.execRemu d a b s
  | .addi d a iv => Sys2Proof.Machine.execAddi d a iv s
  | .andi d a iv => Sys2Proof.Machine.execAndi d a iv s
  | .ori d a iv => Sys2Proof.Machine.execOri d a iv s
  | .xori d a iv => Sys2Proof.Machine.execXori d a iv s
  | .slli d a sv => Sys2Proof.Machine.execSlli d a sv s
  | .srli d a sv => Sys2Proof.Machine.execSrli d a sv s
  | .srai d a sv => Sys2Proof.Machine.execSrai d a sv s
  | .slti d a iv => Sys2Proof.Machine.execSlti d a iv s
  | .sltiu d a iv => Sys2Proof.Machine.execSltiu d a iv s
  | .lui d iv => Sys2Proof.Machine.execLui d iv s
  | .addpc d iv => Sys2Proof.Machine.execAddpc d iv s
  | .beq a b iv => Sys2Proof.Machine.execBeq a b iv s
  | .bne a b iv => Sys2Proof.Machine.execBne a b iv s
  | .blt a b iv => Sys2Proof.Machine.execBlt a b iv s
  | .bge a b iv => Sys2Proof.Machine.execBge a b iv s
  | .bltu a b iv => Sys2Proof.Machine.execBltu a b iv s
  | .bgeu a b iv => Sys2Proof.Machine.execBgeu a b iv s
  | .jal d iv => Sys2Proof.Machine.execJal d iv s
  | .jalr d a iv => Sys2Proof.Machine.execJalr d a iv s
  | .fadd d a b r p => Sys2Proof.Machine.execFadd d a b r p s
  | .fsub d a b r p => Sys2Proof.Machine.execFsub d a b r p s
  | .fmul d a b r p => Sys2Proof.Machine.execFmul d a b r p s
  | .fma d a b r p => Sys2Proof.Machine.execFma d a b r p s
  | .fdiv d a b r p => Sys2Proof.Machine.execFdiv d a b r p s
  | .fsqrt d a r p => Sys2Proof.Machine.execFsqrt d a r p s
  | .fmin d a b p => Sys2Proof.Machine.execFmin d a b p s
  | .fmax d a b p => Sys2Proof.Machine.execFmax d a b p s
  | .fcmp d a b c p => Sys2Proof.Machine.execFcmp d a b c p s
  | .fcvt d a sv r p => Sys2Proof.Machine.execFcvt d a sv r p s
  | .fclass d a p => Sys2Proof.Machine.execFclass d a p s
  | .ldB d h x iv => Sys2Proof.Machine.execLdB d h x iv s
  | .ldBu d h x iv => Sys2Proof.Machine.execLdBu d h x iv s
  | .ldH d h x iv => Sys2Proof.Machine.execLdH d h x iv s
  | .ldHu d h x iv => Sys2Proof.Machine.execLdHu d h x iv s
  | .ldW d h x iv => Sys2Proof.Machine.execLdW d h x iv s
  | .ldWu d h x iv => Sys2Proof.Machine.execLdWu d h x iv s
  | .ldD d h x iv => Sys2Proof.Machine.execLdD d h x iv s
  | .ldv d h x iv => Sys2Proof.Machine.execLdv d h x iv s
  | .stB sv h x iv => Sys2Proof.Machine.execStB sv h x iv s
  | .stH sv h x iv => Sys2Proof.Machine.execStH sv h x iv s
  | .stW sv h x iv => Sys2Proof.Machine.execStW sv h x iv s
  | .stD sv h x iv => Sys2Proof.Machine.execStD sv h x iv s
  | .stv sv h x iv => Sys2Proof.Machine.execStv sv h x iv s
  | .stlW sv h x iv => Sys2Proof.Machine.execStlW sv h x iv s
  | .stlD sv h x iv => Sys2Proof.Machine.execStlD sv h x iv s
  | .amoAdd d h b z o => Sys2Proof.Machine.execAmoAdd d h b z o s
  | .amoAnd d h b z o => Sys2Proof.Machine.execAmoAnd d h b z o s
  | .amoOr d h b z o => Sys2Proof.Machine.execAmoOr d h b z o s
  | .amoXor d h b z o => Sys2Proof.Machine.execAmoXor d h b z o s
  | .amoMin d h b z o => Sys2Proof.Machine.execAmoMin d h b z o s
  | .amoMax d h b z o => Sys2Proof.Machine.execAmoMax d h b z o s
  | .amoMinu d h b z o => Sys2Proof.Machine.execAmoMinu d h b z o s
  | .amoMaxu d h b z o => Sys2Proof.Machine.execAmoMaxu d h b z o s
  | .amoSwap d h b z o => Sys2Proof.Machine.execAmoSwap d h b z o s
  | .cas d h b z o => Sys2Proof.Machine.execCas d h b z o s
  | .lda d h b z => Sys2Proof.Machine.execLda d h b z s
  | .calloc d a b l => Sys2Proof.Machine.execCalloc d a b l s
  | .cfree a => Sys2Proof.Machine.execCfree a s
  | .cget d a sv => Sys2Proof.Machine.execCget d a sv s
  | .cnarrow d a m => Sys2Proof.Machine.execCnarrow d a m s
  | .csplit d a b => Sys2Proof.Machine.execCsplit d a b s
  | .cjoin a b => Sys2Proof.Machine.execCjoin a b s
  | .csendKeep d a b => Sys2Proof.Machine.execCsendKeep d a b s
  | .csendMove d a b => Sys2Proof.Machine.execCsendMove d a b s
  | .csendAuto d a b => Sys2Proof.Machine.execCsendAuto d a b s
  | .csendDup d a b => Sys2Proof.Machine.execCsendDup d a b s
  | .crecv d p sv o => Sys2Proof.Machine.execCrecv d p sv o s
  | .cwait a c => Sys2Proof.Machine.execCwait a c s
  | .crevoke a m => Sys2Proof.Machine.execCrevoke a m s
  | .cmarkFill a => Sys2Proof.Machine.execCmarkFill a s
  | .cmarkFull a => Sys2Proof.Machine.execCmarkFull a s
  | .cmarkClrp a => Sys2Proof.Machine.execCmarkClrp a s
  | .qw sv n => Sys2Proof.Machine.execQw sv n s
  | .qr d n => Sys2Proof.Machine.execQr d n s
  | .vqw sv n => Sys2Proof.Machine.execVqw sv n s
  | .vqr d n => Sys2Proof.Machine.execVqr d n s
  | .sfork d a b => Sys2Proof.Machine.execSfork d a b s
  | .sjoin a => Sys2Proof.Machine.execSjoin a s
  | .chw sv r => Sys2Proof.Machine.execChw sv r s
  | .chr d r => Sys2Proof.Machine.execChr d r s
  | .spawn d a b => Sys2Proof.Machine.execSpawn d a b s
  | .spawnat d a b => Sys2Proof.Machine.execSpawnat d a b s
  | .joinw => Sys2Proof.Machine.execJoinw s
  | .yield => Sys2Proof.Machine.execYield s
  | .exit => Sys2Proof.Machine.execExit s
  | .wakeat a => Sys2Proof.Machine.execWakeat a s
  | .evth a b => Sys2Proof.Machine.execEvth a b s
  | .evret => Sys2Proof.Machine.execEvret s
  | .trap a => Sys2Proof.Machine.execTrap a s
  | .eret => Sys2Proof.Machine.execEret s
  | .rds d n => Sys2Proof.Machine.execRds d n s
  | .wrs sv n => Sys2Proof.Machine.execWrs sv n s
  | .ewait => Sys2Proof.Machine.execEwait s
  | .bkpt => Sys2Proof.Machine.execBkpt s
  | .oxl n h iv => Sys2Proof.Machine.execOxl n h iv s
  | .oxlH n h => Sys2Proof.Machine.execOxlH n h s
  | .oxli n a iv => Sys2Proof.Machine.execOxli n a iv s
  | .vadd d a b e k => Sys2Proof.Machine.execVadd d a b e k s
  | .vsub d a b e k => Sys2Proof.Machine.execVsub d a b e k s
  | .vmul d a b e k => Sys2Proof.Machine.execVmul d a b e k s
  | .vfma d a b e k => Sys2Proof.Machine.execVfma d a b e k s
  | .vfnma d a b e k => Sys2Proof.Machine.execVfnma d a b e k s
  | .vmin d a b e k => Sys2Proof.Machine.execVmin d a b e k s
  | .vmax d a b e k => Sys2Proof.Machine.execVmax d a b e k s
  | .vabs d a e k => Sys2Proof.Machine.execVabs d a e k s
  | .vneg d a e k => Sys2Proof.Machine.execVneg d a e k s
  | .viadd d a b e k sv => Sys2Proof.Machine.execViadd d a b e k sv s
  | .visub d a b e k sv => Sys2Proof.Machine.execVisub d a b e k sv s
  | .vimul d a b e k sv => Sys2Proof.Machine.execVimul d a b e k sv s
  | .vimac d a b e k sv => Sys2Proof.Machine.execVimac d a b e k sv s
  | .vand d a b e k => Sys2Proof.Machine.execVand d a b e k s
  | .vor d a b e k => Sys2Proof.Machine.execVor d a b e k s
  | .vxor d a b e k => Sys2Proof.Machine.execVxor d a b e k s
  | .vshl d a b e k => Sys2Proof.Machine.execVshl d a b e k s
  | .vshr d a b e k => Sys2Proof.Machine.execVshr d a b e k s
  | .vsra d a b e k => Sys2Proof.Machine.execVsra d a b e k s
  | .vcmp d a b e k u c => Sys2Proof.Machine.execVcmp d a b e k u c s
  | .vsel d a b e k => Sys2Proof.Machine.execVsel d a b e k s
  | .vmskAnd d a b => Sys2Proof.Machine.execVmskAnd d a b s
  | .vmskOr d a b => Sys2Proof.Machine.execVmskOr d a b s
  | .vmskXor d a b => Sys2Proof.Machine.execVmskXor d a b s
  | .vmskAndn d a b => Sys2Proof.Machine.execVmskAndn d a b s
  | .vmskMov d a => Sys2Proof.Machine.execVmskMov d a s
  | .vmskGet d a => Sys2Proof.Machine.execVmskGet d a s
  | .vrcp d a e k => Sys2Proof.Machine.execVrcp d a e k s
  | .vrsq d a e k => Sys2Proof.Machine.execVrsq d a e k s
  | .vsqrt d a e k => Sys2Proof.Machine.execVsqrt d a e k s
  | .vdiv d a b e k => Sys2Proof.Machine.execVdiv d a b e k s
  | .vexp d a e k => Sys2Proof.Machine.execVexp d a e k s
  | .vexp2 d a e k => Sys2Proof.Machine.execVexp2 d a e k s
  | .vlog d a e k => Sys2Proof.Machine.execVlog d a e k s
  | .vlog2 d a e k => Sys2Proof.Machine.execVlog2 d a e k s
  | .vtanh d a e k => Sys2Proof.Machine.execVtanh d a e k s
  | .vsigm d a e k => Sys2Proof.Machine.execVsigm d a e k s
  | .vcvt d a c e sv p => Sys2Proof.Machine.execVcvt d a c e sv p s
  | .vqnt d a p e k sv => Sys2Proof.Machine.execVqnt d a p e k sv s
  | .vdqn d a p e k => Sys2Proof.Machine.execVdqn d a p e k s
  | .vbaddq d a b k => Sys2Proof.Machine.execVbaddq d a b k s
  | .vperm d a b e k => Sys2Proof.Machine.execVperm d a b e k s
  | .vbcast d a e k => Sys2Proof.Machine.execVbcast d a e k s
  | .vbcastLane d a iv e k => Sys2Proof.Machine.execVbcastLane d a iv e k s
  | .vbcastLaneHigh d a iv e k => Sys2Proof.Machine.execVbcastLaneHigh d a iv e k s
  | .vreds d a e k => Sys2Proof.Machine.execVreds d a e k s
  | .vredmMax d a e k u => Sys2Proof.Machine.execVredmMax d a e k u s
  | .vredmMin d a e k u => Sys2Proof.Machine.execVredmMin d a e k u s
  | .vtrn d a e => Sys2Proof.Machine.execVtrn d a e s
  | .vgx d a r => Sys2Proof.Machine.execVgx d a r s
  | .vmovi d e iv => Sys2Proof.Machine.execVmovi d e iv s
  | .vmuli d e iv => Sys2Proof.Machine.execVmuli d e iv s
  | .vaddi d e iv => Sys2Proof.Machine.execVaddi d e iv s
  | .rep c sv t => Sys2Proof.Machine.execRep c sv t s
  | .oclm d a p => Sys2Proof.Machine.execOclm d a p s
  | .orel a => Sys2Proof.Machine.execOrel a s
  | .old n k h a sv e => Sys2Proof.Machine.execOld n k h a sv e s
  | .mma d a b e n t sv => Sys2Proof.Machine.execMma d a b e n t sv s
  | .mmap d a b e n t sv => Sys2Proof.Machine.execMmap d a b e n t sv s
  | .mzero d n => Sys2Proof.Machine.execMzero d n s
  | .hbind n h c => Sys2Proof.Machine.execHbind n h c s
  | .mmd n v h e f t sv => Sys2Proof.Machine.execMmd n v h e f t sv s
  | .hkill n l => Sys2Proof.Machine.execHkill n l s
  | .hstat d n b => Sys2Proof.Machine.execHstat d n b s
  | .ggeoRng d h k => Sys2Proof.Machine.execGgeoRng d h k s
  | .ggeoEdge d k b => Sys2Proof.Machine.execGgeoEdge d k b s
  | .copy d h a b n => Sys2Proof.Machine.execCopy d h a b n s
  | .copyMove d h n => Sys2Proof.Machine.execCopyMove d h n s
  | .copyAuto d h n => Sys2Proof.Machine.execCopyAuto d h n s
  | .copyPkt h b => Sys2Proof.Machine.execCopyPkt h b s
  | .copym n k h a sv e c f => Sys2Proof.Machine.execCopym n k h a sv e c f s
  | .gath d h a f iv => Sys2Proof.Machine.execGath d h a f iv s
  | .fill d a b f => Sys2Proof.Machine.execFill d a b f s
  | .srinv h a => Sys2Proof.Machine.execSrinv h a s
  | .srinvAll => Sys2Proof.Machine.execSrinvAll s
  | .qapp d h a b f => Sys2Proof.Machine.execQapp d h a b f s
  | .selt d h a b f => Sys2Proof.Machine.execSelt d h a b f s
  | .halo p h a r f => Sys2Proof.Machine.execHalo p h a r f s
  | .mbox h d => Sys2Proof.Machine.execMbox h d s
  | .mboxWait h b => Sys2Proof.Machine.execMboxWait h b s
  | .bara h sv a b => Sys2Proof.Machine.execBara h sv a b s
  | .barw => Sys2Proof.Machine.execBarw s
  | .bar h sv a b => Sys2Proof.Machine.execBar h sv a b s
  | .scnb a c => Sys2Proof.Machine.execScnb a c s
  | .scnp sv c => Sys2Proof.Machine.execScnp sv c s
  | .scng d c => Sys2Proof.Machine.execScng d c s
  | .scne d c => Sys2Proof.Machine.execScne d c s
  | .scneClose d c => Sys2Proof.Machine.execScneClose d c s
  | .swcr d c a => Sys2Proof.Machine.execSwcr d c a s
  | .swadd d c a => Sys2Proof.Machine.execSwadd d c a s
  | .swdel a => Sys2Proof.Machine.execSwdel a s
  | .swnxt d a => Sys2Proof.Machine.execSwnxt d a s
  | .swrpt b a => Sys2Proof.Machine.execSwrpt b a s
  | .swset b c a => Sys2Proof.Machine.execSwset b c a s
  | .swsetNb c a => Sys2Proof.Machine.execSwsetNb c a s
  | .swnb d iv k a => Sys2Proof.Machine.execSwnb d iv k a s
  | .swadv d a => Sys2Proof.Machine.execSwadv d a s
  | .cswdRead d => Sys2Proof.Machine.execCswdRead d s
  | .cswdWrite sv => Sys2Proof.Machine.execCswdWrite sv s
  | .controlSpaceWrite die off acc => Sys2Proof.Machine.execControlSpaceWrite die off acc s
  | .elstatClear die v => Sys2Proof.Machine.execElstatClear die v s
  | .winreqGo v => Sys2Proof.Machine.execWinreqGo v s
  | .winfree v => Sys2Proof.Machine.execWinfree v s
  | .peerEpochWrite dev v => Sys2Proof.Machine.execPeerEpochWrite dev v s
  | .shareTableWrite die off v => Sys2Proof.Machine.execShareTableWrite die off v s
  | .queueTableWrite die off v => Sys2Proof.Machine.execQueueTableWrite die off v s
  | .translationInvalidate asid => Sys2Proof.Machine.execTranslationInvalidate asid s
  | .seize => Sys2Proof.Machine.execSeize s
  | .resumeFromImage => Sys2Proof.Machine.execResumeFromImage s
  | .thaw => Sys2Proof.Machine.execThaw s
  | .quiesceComplete => Sys2Proof.Machine.execQuiesceComplete s
  | .streamComplete => Sys2Proof.Machine.execStreamComplete s
  | .streamPortsFailed => Sys2Proof.Machine.execStreamPortsFailed s
  | .restoreComplete => Sys2Proof.Machine.execRestoreComplete s
  | .restoreFailure => Sys2Proof.Machine.execRestoreFailure s
  | .reset => Sys2Proof.Machine.execReset s
  | .configBlockLoad blk signed => Sys2Proof.Machine.execConfigBlockLoad blk signed s
  | .launch q idx => Sys2Proof.Machine.execLaunch q idx s
  | .launchComplete l => Sys2Proof.Machine.execLaunchComplete l s
  | .signalPacket q idx => Sys2Proof.Machine.execSignalPacket q idx s
  | .spawnPacket q idx => Sys2Proof.Machine.execSpawnPacket q idx s
  | .capabilityMessageConsume q idx => Sys2Proof.Machine.execCapabilityMessageConsume q idx s
  | .hostConsume q idx => Sys2Proof.Machine.execHostConsume q idx s
  | .queueConsume q => Sys2Proof.Machine.execQueueConsume q s
  | .copyPacketConsume q idx => Sys2Proof.Machine.execCopyPacketConsume q idx s
  | .qappEntryWrite tile op => Sys2Proof.Machine.execQappEntryWrite tile op s
  | .timerTick die => Sys2Proof.Machine.execTimerTick die s
  | .ptpStep now => Sys2Proof.Machine.execPtpStep now s
  | .ptpLockLost offset => Sys2Proof.Machine.execPtpLockLost offset s
  | .rotationBoundary tile => Sys2Proof.Machine.execRotationBoundary tile s
  | .shareWindowStart tile => Sys2Proof.Machine.execShareWindowStart tile s
  | .rampInterval tile => Sys2Proof.Machine.execRampInterval tile s
  | .budg tid => Sys2Proof.Machine.execBudg tid s
  | .wdog tid => Sys2Proof.Machine.execWdog tid s
  | .slotChoice tile slot => Sys2Proof.Machine.execSlotChoice tile slot s
  | .dequePlaceFreed tile => Sys2Proof.Machine.execDequePlaceFreed tile s
  | .stealRound tile victims => Sys2Proof.Machine.execStealRound tile victims s
  | .stealRequest thief victim far => Sys2Proof.Machine.execStealRequest thief victim far s
  | .stealOffer thief victim tid => Sys2Proof.Machine.execStealOffer thief victim tid s
  | .donationArrival donor donee prio hops => Sys2Proof.Machine.execDonationArrival donor donee prio hops s
  | .waitConditionMet tid no => Sys2Proof.Machine.execWaitConditionMet tid no s
  | .taskRequeue tid => Sys2Proof.Machine.execTaskRequeue tid s
  | .userEvent tid => Sys2Proof.Machine.execUserEvent tid s
  | .loadResponse tid no => Sys2Proof.Machine.execLoadResponse tid no s
  | .homePerform id => Sys2Proof.Machine.execHomePerform id s
  | .storeBufferDrain tile idx => Sys2Proof.Machine.execStoreBufferDrain tile idx s
  | .walkStart die => Sys2Proof.Machine.execWalkStart die s
  | .walkComplete die idx => Sys2Proof.Machine.execWalkComplete die idx s
  | .matrixOpStart tile => Sys2Proof.Machine.execMatrixOpStart tile s
  | .matrixOpComplete tile upsets => Sys2Proof.Machine.execMatrixOpComplete tile upsets s
  | .oldJoin tile op err => Sys2Proof.Machine.execOldJoin tile op err s
  | .transferJoin tile op => Sys2Proof.Machine.execTransferJoin tile op s
  | .engineLegError tile op leg done err => Sys2Proof.Machine.execEngineLegError tile op leg done err s
  | .scanUnitLeg tile op channel => Sys2Proof.Machine.execScanUnitLeg tile op channel s
  | .csendDelivery id => Sys2Proof.Machine.execCsendDelivery id s
  | .moveBytesLanded id => Sys2Proof.Machine.execMoveBytesLanded id s
  | .bounceEnqueue tid => Sys2Proof.Machine.execBounceEnqueue tid s
  | .tileAsidClear tile asid => Sys2Proof.Machine.execTileAsidClear tile asid s
  | .channelWordArrival tid dir => Sys2Proof.Machine.execChannelWordArrival tid dir s
  | .channelCreditReturn tid dir => Sys2Proof.Machine.execChannelCreditReturn tid dir s
  | .neighbourExitedFlag tid dir => Sys2Proof.Machine.execNeighbourExitedFlag tid dir s
  | .haloReceive tile op => Sys2Proof.Machine.execHaloReceive tile op s
  | .haloReply tile op => Sys2Proof.Machine.execHaloReply tile op s
  | .haloDepositJoin tile op => Sys2Proof.Machine.execHaloDepositJoin tile op s
  | .barrierRelease l g => Sys2Proof.Machine.execBarrierRelease l g s
  | .scanCarryReady tid no => Sys2Proof.Machine.execScanCarryReady tid no s
  | .epochClose tid ctx epoch => Sys2Proof.Machine.execEpochClose tid ctx epoch s
  | .leavingMark tid ctx => Sys2Proof.Machine.execLeavingMark tid ctx s
  | .sweepRelease die cal => Sys2Proof.Machine.execSweepRelease die cal s
  | .hbmRecalibration die channel => Sys2Proof.Machine.execHbmRecalibration die channel s
  | .alertBackoff die channel bank => Sys2Proof.Machine.execAlertBackoff die channel bank s
  | .powerMeasurement power draw restore => Sys2Proof.Machine.execPowerMeasurement power draw restore s
  | .thermalReading die celsius => Sys2Proof.Machine.execThermalReading die celsius s
  | .clockStepChange die step => Sys2Proof.Machine.execClockStepChange die step s
  | .ageingMonitorRead read => Sys2Proof.Machine.execAgeingMonitorRead read s
  | .meshFlitCrcError die link => Sys2Proof.Machine.execMeshFlitCrcError die link s
  | .meshLinkFailure die link lost => Sys2Proof.Machine.execMeshLinkFailure die link lost s
  | .torusRestitch l => Sys2Proof.Machine.execTorusRestitch l s
  | .replay l => Sys2Proof.Machine.execReplay l s
  | .portRetrain port lanes => Sys2Proof.Machine.execPortRetrain port lanes s
  | .hostHntWrite port size p => Sys2Proof.Machine.execHostHntWrite port size p s
  | .hpkstRead port => Sys2Proof.Machine.execHpkstRead port s
  | .hostTicketClaim op => Sys2Proof.Machine.execHostTicketClaim op s
  | .hostRingWrite q idx entry => Sys2Proof.Machine.execHostRingWrite q idx entry s
  | .hostWindowAccess line acc => Sys2Proof.Machine.execHostWindowAccess line acc s
  | .birsp line dirty => Sys2Proof.Machine.execBirsp line dirty s
  | .flushPacket port => Sys2Proof.Machine.execFlushPacket port s
  | .write p => Sys2Proof.Machine.execWrite p s
  | .read p => Sys2Proof.Machine.execRead p s
  | .rdresp p => Sys2Proof.Machine.execRdresp p s
  | .atomic p => Sys2Proof.Machine.execAtomic p s
  | .atresp p => Sys2Proof.Machine.execAtresp p s
  | .capxfer p => Sys2Proof.Machine.execCapxfer p s
  | .ack p => Sys2Proof.Machine.execAck p s
  | .nak p => Sys2Proof.Machine.execNak p s
  | .revoke p => Sys2Proof.Machine.execRevoke p s
  | .wrenq p => Sys2Proof.Machine.execWrenq p s
  | .redblk port p => Sys2Proof.Machine.execRedblk port p s
  | .resync p => Sys2Proof.Machine.execResync p s
  | .frz p => Sys2Proof.Machine.execFrz p s
  | .hntAckTimer dev => Sys2Proof.Machine.execHntAckTimer dev s
  | .hntRetransmit dev => Sys2Proof.Machine.execHntRetransmit dev s
  | .hntBeyondRecovery dev => Sys2Proof.Machine.execHntBeyondRecovery dev s
  | .getVersion port => Sys2Proof.Machine.execGetVersion port s
  | .getCapabilities port => Sys2Proof.Machine.execGetCapabilities port s
  | .negotiateAlgorithms port => Sys2Proof.Machine.execNegotiateAlgorithms port s
  | .getCertificate port => Sys2Proof.Machine.execGetCertificate port s
  | .challenge port nonce => Sys2Proof.Machine.execChallenge port nonce s
  | .getMeasurements port nonce => Sys2Proof.Machine.execGetMeasurements port nonce s
  | .portFailure port => Sys2Proof.Machine.execPortFailure port s
  | .queueViewCreate q asid => Sys2Proof.Machine.execQueueViewCreate q asid s
  | .sinkCreate asid dev port len => Sys2Proof.Machine.execSinkCreate asid dev port len s

end Sys2Proof.Machine
end

