-- ==== Sys2Proof/Machine/Events.lean ====
section
/-!
DEFINITION. The steps of the opcode table without an encoding, as the agenda holds them.
-/
namespace Sys2Proof.Machine

open Sys2Proof

/-- The effect of a step that the agenda holds: that of the constructor of Instr of its name. -/
def runEvent (e : Event) (s : State) : Out :=
  match e with
  | .cswdRead d => execCswdRead d s
  | .cswdWrite sv => execCswdWrite sv s
  | .controlSpaceWrite die off acc => execControlSpaceWrite die off acc s
  | .elstatClear die v => execElstatClear die v s
  | .winreqGo v => execWinreqGo v s
  | .winfree v => execWinfree v s
  | .peerEpochWrite dev v => execPeerEpochWrite dev v s
  | .shareTableWrite die off v => execShareTableWrite die off v s
  | .queueTableWrite die off v => execQueueTableWrite die off v s
  | .translationInvalidate asid => execTranslationInvalidate asid s
  | .seize => execSeize s
  | .resumeFromImage => execResumeFromImage s
  | .thaw => execThaw s
  | .quiesceComplete => execQuiesceComplete s
  | .streamComplete => execStreamComplete s
  | .streamPortsFailed => execStreamPortsFailed s
  | .restoreComplete => execRestoreComplete s
  | .restoreFailure => execRestoreFailure s
  | .reset => execReset s
  | .configBlockLoad blk signed => execConfigBlockLoad blk signed s
  | .launch q idx => execLaunch q idx s
  | .launchComplete l => execLaunchComplete l s
  | .signalPacket q idx => execSignalPacket q idx s
  | .spawnPacket q idx => execSpawnPacket q idx s
  | .capabilityMessageConsume q idx => execCapabilityMessageConsume q idx s
  | .hostConsume q idx => execHostConsume q idx s
  | .queueConsume q => execQueueConsume q s
  | .copyPacketConsume q idx => execCopyPacketConsume q idx s
  | .qappEntryWrite tile op => execQappEntryWrite tile op s
  | .timerTick die => execTimerTick die s
  | .ptpStep now => execPtpStep now s
  | .ptpLockLost offset => execPtpLockLost offset s
  | .rotationBoundary tile => execRotationBoundary tile s
  | .shareWindowStart tile => execShareWindowStart tile s
  | .rampInterval tile => execRampInterval tile s
  | .budg tid => execBudg tid s
  | .wdog tid => execWdog tid s
  | .slotChoice tile slot => execSlotChoice tile slot s
  | .dequePlaceFreed tile => execDequePlaceFreed tile s
  | .stealRound tile victims => execStealRound tile victims s
  | .stealRequest thief victim far => execStealRequest thief victim far s
  | .stealOffer thief victim tid => execStealOffer thief victim tid s
  | .donationArrival donor donee prio hops => execDonationArrival donor donee prio hops s
  | .waitConditionMet tid no => execWaitConditionMet tid no s
  | .taskRequeue tid => execTaskRequeue tid s
  | .userEvent tid => execUserEvent tid s
  | .loadResponse tid no => execLoadResponse tid no s
  | .homePerform id => execHomePerform id s
  | .storeBufferDrain tile idx => execStoreBufferDrain tile idx s
  | .walkStart die => execWalkStart die s
  | .walkComplete die idx => execWalkComplete die idx s
  | .matrixOpStart tile => execMatrixOpStart tile s
  | .matrixOpComplete tile upsets => execMatrixOpComplete tile upsets s
  | .oldJoin tile op err => execOldJoin tile op err s
  | .transferJoin tile op => execTransferJoin tile op s
  | .engineLegError tile op leg done err => execEngineLegError tile op leg done err s
  | .scanUnitLeg tile op channel => execScanUnitLeg tile op channel s
  | .csendDelivery id => execCsendDelivery id s
  | .moveBytesLanded id => execMoveBytesLanded id s
  | .bounceEnqueue tid => execBounceEnqueue tid s
  | .tileAsidClear tile asid => execTileAsidClear tile asid s
  | .channelWordArrival tid dir => execChannelWordArrival tid dir s
  | .channelCreditReturn tid dir => execChannelCreditReturn tid dir s
  | .neighbourExitedFlag tid dir => execNeighbourExitedFlag tid dir s
  | .haloReceive tile op => execHaloReceive tile op s
  | .haloReply tile op => execHaloReply tile op s
  | .haloDepositJoin tile op => execHaloDepositJoin tile op s
  | .barrierRelease l g => execBarrierRelease l g s
  | .scanCarryReady tid no => execScanCarryReady tid no s
  | .epochClose tid ctx epoch => execEpochClose tid ctx epoch s
  | .leavingMark tid ctx => execLeavingMark tid ctx s
  | .sweepRelease die cal => execSweepRelease die cal s
  | .hbmRecalibration die channel => execHbmRecalibration die channel s
  | .alertBackoff die channel bank => execAlertBackoff die channel bank s
  | .powerMeasurement power draw restore => execPowerMeasurement power draw restore s
  | .thermalReading die celsius => execThermalReading die celsius s
  | .clockStepChange die step => execClockStepChange die step s
  | .ageingMonitorRead read => execAgeingMonitorRead read s
  | .meshFlitCrcError die link => execMeshFlitCrcError die link s
  | .meshLinkFailure die link lost => execMeshLinkFailure die link lost s
  | .torusRestitch l => execTorusRestitch l s
  | .replay l => execReplay l s
  | .portRetrain port lanes => execPortRetrain port lanes s
  | .hostHntWrite port size p => execHostHntWrite port size p s
  | .hpkstRead port => execHpkstRead port s
  | .hostTicketClaim op => execHostTicketClaim op s
  | .hostRingWrite q idx entry => execHostRingWrite q idx entry s
  | .hostWindowAccess line acc => execHostWindowAccess line acc s
  | .birsp line dirty => execBirsp line dirty s
  | .flushPacket port => execFlushPacket port s
  | .write p => execWrite p s
  | .read p => execRead p s
  | .rdresp p => execRdresp p s
  | .atomic p => execAtomic p s
  | .atresp p => execAtresp p s
  | .capxfer p => execCapxfer p s
  | .ack p => execAck p s
  | .nak p => execNak p s
  | .revoke p => execRevoke p s
  | .wrenq p => execWrenq p s
  | .redblk port p => execRedblk port p s
  | .resync p => execResync p s
  | .frz p => execFrz p s
  | .hntAckTimer dev => execHntAckTimer dev s
  | .hntRetransmit dev => execHntRetransmit dev s
  | .hntBeyondRecovery dev => execHntBeyondRecovery dev s
  | .getVersion port => execGetVersion port s
  | .getCapabilities port => execGetCapabilities port s
  | .negotiateAlgorithms port => execNegotiateAlgorithms port s
  | .getCertificate port => execGetCertificate port s
  | .challenge port nonce => execChallenge port nonce s
  | .getMeasurements port nonce => execGetMeasurements port nonce s
  | .portFailure port => execPortFailure port s
  | .queueViewCreate q asid => execQueueViewCreate q asid s
  | .sinkCreate asid dev port len => execSinkCreate asid dev port len s

end Sys2Proof.Machine
end

