-- ==== Sys2Proof/Machine/Advance.lean ====
section
/-!
DEFINITION. What one step of the machine is: a step of the agenda that has come due, work that has become possible, the turn of a core in this clock, or the edge to the next clock; and what a device does while it is seized (R13, R101, R109 to R116, R268, R269, R273, R338 to R346).
-/
namespace Sys2Proof.Machine

open Sys2Proof

/-! ## Work that has become possible -/

/-- Positions below n. -/
def firstIndex (n : Nat) (p : Nat → Bool) : Option Nat := (upTo n).find? p
/-- Returns that wait, waits that are over, and WAITING tasks that queue (R13, R34). -/
def State.pollTasks (s : State) : Option Out :=
  match s.allTasks.find? fun t => !t.returns.isEmpty && decide (t.inbox.length < 8) with
  | some t => some (execBounceEnqueue t.tid s)
  | none =>
    match s.allHarts.find? s.conditionMet with
    | some h => some (execWaitConditionMet h.tid h.no s)
    | none => (s.allTasks.find? s.mayRequeue).map fun t => execTaskRequeue t.tid s
/-- A parked scan instruction whose line lets it go on (R290, R295, R296). -/
def State.pollScan (s : State) : Option Out :=
  s.allHarts.findSome? fun h =>
    match h.wait with
    | some (.scan k phase r) =>
      let t := s.lookAgain h.tid h.no
      if ((t.hartAt? h.tid h.no).bind (·.wait)) = some (.scan k phase r) then none
      else if (t.taskAt? h.tid).any fun x => x.state == .running then some (if phase = 0 then execScanCarryReady h.tid h.no s else execEpochClose h.tid k 0 s)
      else some (execLeavingMark h.tid k s)
    | _ => none
/-- Tiles whose deque something waits for (R382). -/
def State.soughtTiles (s : State) : List Nat :=
  ((s.allTiles.filter fun t => !t.waiting.isEmpty).map (·.idx))
  ++ (s.allHarts.filterMap fun h => match h.wait with | some (.dequeRoom t _) => some t | _ => none)
  ++ s.dies.flatMap fun d => (d.wheel.filter fun w => w.since.isSome).map (·.item.home)
/-- Places of deques, and slots that choose (R268, R269, R382). -/
def State.pollDeques (s : State) : Option Out :=
  match s.soughtTiles.find? fun t => (s.placeReady t).isSome with
  | some t => some (execDequePlaceFreed t s)
  | none =>
    s.allTiles.findSome? fun t =>
      if (t.deque.isEmpty && t.spill.isEmpty) || decide (s.clk < t.dequeAt) then none
      else ((s.openSlots t.idx).find? fun k => (bestOf (t.eligible k)).isSome).map fun k => execSlotChoice t.idx k s
/-- Store-buffer entries that drain, or for which something is still to be started (R115). -/
def State.pollStores (s : State) : Option Out :=
  s.allTiles.findSome? fun t =>
    match firstIndex t.sb.length (s.drains t.idx) with
    | some i => some (execStoreBufferDrain t.idx i s)
    | none => (upTo t.sb.length).findSome? fun i =>
        let u := s.pushDrain t.idx i
        if u.winSnooped ≠ s.winSnooped ∨ u.flushWait ≠ s.flushWait then some (.next u) else none
/-- Walks that start or end (R38). -/
def State.pollWalks (s : State) : Option Out :=
  s.dies.findSome? fun d =>
    match firstIndex d.walks.length (fun i => (d.walks[i]?).any fun w => decide (w.due ≤ s.clk)) with
    | some i => some (execWalkComplete d.idx i s)
    | none => if !d.walkQ.isEmpty && decide (d.walks.length < 256) then some (execWalkStart d.idx s) else none
/-- Matrix operations that start (R179), and what tiles still hold of tenants that have left (R35, R195, R214). -/
def State.pollTiles (s : State) : Option Out :=
  match s.allTiles.find? fun t => t.canStart s.clk with
  | some t => some (execMatrixOpStart t.idx s)
  | none =>
    s.allTiles.findSome? fun t =>
      let kept := (t.husks.toList.filter (·.bound)).map (·.asid) ++ t.cache.map (·.asid)
      ((kept.find? fun a => !(s.tenantStands t.idx a && s.asidLive a)).or ((t.inbox.map (·.asid)).find? fun a => !(s.tenantOn t.idx a && s.asidLive a))).map
        fun a => execTileAsidClear t.idx a s
/-- Sweep requests that arrive, sets whose last participant has arrived, and SWADVs on a poisoned set (R314 to R316). -/
def State.pollSweep (s : State) : Option Out :=
  match s.allHarts.findSome? fun h => match h.wait with | some (.sweepReq due r) => if due ≤ s.clk then (s.focusOn h.tid h.no).map fun f => f.sweepArrive r else none | _ => none with
  | some t => some (.next t)
  | none =>
    match s.dies.findSome? fun d => (d.calendars.find? Calendar.complete).map fun c => s.startAdvance d.idx c with
    | some t => some (.next t)
    | none => s.allHarts.findSome? fun h =>
        match h.wait with
        | some (.sweep die cal d) => if ((s.dieAt die).calendar? cal).any (·.poisoned) then some (.next (s.endSwadv h d allOnes)) else none
        | _ => none
/-- The step that performs a peer's packet (R367). -/
def packetStep (p : Packet) (s : State) : Out :=
  match p.kind with
  | 0 => execWrite p s | 1 => execRead p s | 2 => execRdresp p s | 3 => execAtomic p s | 4 => execAtresp p s | 5 => execCapxfer p s
  | 8 => execRevoke p s | 9 => execWrenq p s | 10 => execRedblk (s.portFrom p.src) p s | 12 => execFrz p s | _ => .next s
/-- Links whose time has run out, packets that waited for a state, blocks for a gateway, and host packets in their order (R361, R368, R369, R372, R375). -/
def State.pollFabric (s : State) : Option Out :=
  match s.links.find? s.linkLost with
  | some l => some (execHntBeyondRecovery l.dev s)
  | none =>
    match s.links.find? s.rtoOver with
    | some l => some (execHntRetransmit l.dev s)
    | none =>
      match s.links.findSome? fun l => match l.ownerWait with
        | p :: _ => (match packetStep p s with
          | .next t => if (t.linkAt l.dev).ownerWait ≠ l.ownerWait ∨ t.winSnooped ≠ s.winSnooped ∨ t.wrenqs ≠ s.wrenqs then some t else none
          | _ => none)
        | [] => none with
      | some t => some (.next t)
      | none =>
        match s.dies.find? fun d => (s.nextBlock d.idx).isSome with
        | some d => some (.next (s.handBlock d.idx))
        | none => s.nextHostPacket.map .next
/-- A parked stream 0 that takes BUDG, WDOG or a user event (R18, R101, R106). -/
def State.pollBoundary (s : State) : Option Out :=
  s.allHarts.findSome? fun h =>
    match (if h.no = 0 ∧ h.wait.isSome then s.boundaryHart h.tid else none), s.taskAt? h.tid with
    | some h, some t =>
      if s.budgetOut t then some (execBudg t.tid s)
      else if s.watchdogOut t then some (execWdog t.tid s)
      else if (s.dueEvent t h).isSome then some (execUserEvent t.tid s)
      else none
    | _, _ => none
/-- The core that starts a round of requests (R270). A core that holds nothing of its own asks in its phase of 1,024 clk, and only while some record may be stolen from a tile without a free slot: its other rounds find nothing (log 59). -/
def State.pollSteal (s : State) : Option Out :=
  match s.allTiles.find? fun t => t.rests s.clk && s.mayAsk t.idx with
  | some t => some (execStealRound t.idx (victimsOf t.idx s.clk) s)
  | none =>
    if s.allTiles.any fun t => (t.spill ++ t.deque).any (·.stealable false) && (s.freeSlots t.idx).isEmpty then
      ((upTo 40960).find? fun k => decide (Config.stealPhase k % 1024 = s.clk % 1024) && (s.tileAt k).rests s.clk && s.mayAsk k).map fun k => execStealRound k (victimsOf k s.clk) s
    else none
/-- Channels whose recalibration has come due (R326); the least interval is 100 ms. -/
def State.pollBursts (s : State) : Option Out :=
  if s.clk < 240000000 then none
  else s.dies.findSome? fun d => (firstIndex 64 (s.burstDue d)).map fun c => execHbmRecalibration d.idx c s
/-- The first piece of work that has become possible in a clock; a trap at a boundary comes before all else (R13). -/
def State.poll (s : State) : Option Out :=
  [s.pollErrors.map .next, s.pollTasks, s.pollScan, s.pollDeques, s.pollStores, s.pollWalks, s.pollTiles, s.pollSweep, s.pollFabric, s.pollEnding.map .next].findSome? id
/-- What a core without a ready slot, and the channels of memory, begin before the clock ends (R270, R326). -/
def State.pollLate (s : State) : Option Out := [s.pollSteal, s.pollBursts].findSome? id

/-! ## The turn of a core (R101, R109) -/

/-- Whether a stream holds a slot from which its core may issue in this clock, parked or not. -/
def State.inTurn (s : State) (h : Hart) : Bool :=
  h.live && h.slot.isSome && decide (h.readyAt ≤ s.clk)
    && (match s.taskAt? h.tid with | some t => !t.ending && !(t.exiting && h.no != 0) && (t.state == .running || (t.state == .trapped && t.handler == some h.no)) | none => false)
    && (let d := s.dieAt (dieOf h.tile); !d.hotStop && decide (d.stopUntil ≤ s.clk))
/-- Whether the ramp limiter holds the instruction that a stream has come to (R116). -/
def State.heldByRamp (s : State) (h : Hart) : Bool := match h.wait with | some (.ramp n) => (s.tileAt h.tile).rampHolds s.clk n | _ => false
/-- A ready slot (R109), and one that the ramp limiter holds (R116). -/
def State.ready (s : State) (h : Hart) : Bool := (match h.wait with | none | some (.ramp _) => !s.heldByRamp h | _ => false) && s.inTurn h
def State.rampHeld (s : State) (h : Hart) : Bool := s.heldByRamp h && s.inTurn h
/-- The lowest tile that still has its turn in this clock. -/
def State.nextCore (s : State) : Option Nat :=
  (s.allHarts.filter fun h => decide (s.cursor ≤ h.tile) && (s.ready h || s.rampHeld h)).foldl
    (fun (b : Option Nat) h => match b with | none => some h.tile | some k => some (min k h.tile)) none
/-- How far a slot stands behind the one that issued last. -/
def slotTurn (last : Nat) (h : Hart) : Nat := (h.slot.getD 0 + 7 - last) % 8
/-- The first ready slot of a tile after the one that issued last (R109). -/
def firstReady (last : Nat) : List Hart → Option Hart
  | [] => none
  | h :: hs => match firstReady last hs with | none => some h | some k => if slotTurn last k < slotTurn last h then some k else some h

/-- The instruction at the PC of the stream in focus: fetched, decoded and executed; a fetch that fails traps (R54, R58). -/
def runNext (s : State) : Out :=
  let s := s.noteFetch s.hart.pc.toNat
  match s.fetch s.hart.pc.toNat with
  | .error t => raise t s
  | .ok i => exec i s
/-- Whether a step of the stream in focus took a precise trap, which comes before what else meets at the boundary (R101); a task that EXIT ends took none. -/
def trapTaken (s : State) (o : Out) : Bool :=
  match o with
  | .next t => t.task.tid == s.task.tid && (t.task.state == .trapped || (t.task.state == .exited && (match s.fetch s.hart.pc.toNat with | .ok .exit => false | _ => true)))
  | _ => false
/-- The turn of the stream in focus at its instruction boundary: a peer's refusal of its request, SEIZ, a trap of its instruction, BUDG, WDOG, a user event, else its instruction (R101, R347, R372). -/
def turn (s : State) : Out :=
  match s.hart.remoteTrap with
  | some t => raise t (s.setHart { s.hart with remoteTrap := none })
  | none =>
    if s.hart.no ≠ 0 ∨ s.hart.level = .s then runNext s
    else if s.task.seizPending then .next s.takeSeiz
    else
      let o := runNext s
      if trapTaken s o then o
      else match s.boundaryHart s.hart.tid with
        | none => o
        | some h =>
          if s.budgetOut s.task then execBudg s.hart.tid s
          else if s.watchdogOut s.task then execWdog s.hart.tid s
          else if (s.dueEvent s.task h).isSome then execUserEvent s.hart.tid s
          else o
/-- A core issues from its first ready slot, or its clock is empty because the ramp limiter holds what could issue (R109, R116). -/
def State.issue (s : State) (tile : Nat) : Out :=
  let s := { s with cursor := tile + 1 }
  match firstReady (s.tileAt tile).lastSlot (s.allHarts.filter fun h => h.tile == tile && s.ready h) with
  | none => .next (s.modTile tile fun t => { t with rampHeld := min (t.rampHeld + 1) (2 ^ 32 - 1) })
  | some h =>
    match s.focusOn h.tid h.no with
    | none => .next s
    | some f => turn ((f.setTile { f.tile with prevSlot := f.tile.lastSlot, lastSlot := h.slot.getD 7 }).setHart { f.hart with wait := none })

/-! ## The edge between two clocks -/

/-- What a clock charges a task: its budget, by the slots that its streams hold, and its watchdog (R18). -/
def Task.charge (t : Task) (slots : Nat) : Task :=
  if t.state = .running then { t with budget := if t.unlimited then t.budget else BitVec.ofNat 32 (t.budget.toNat - slots), watchdog := t.watchdog + 1 } else t
/-- The classes of the tasks that hold the slots of a tile. -/
def State.holders (s : State) (tile : Nat) : List Nat :=
  (s.allHarts.filter fun h => h.tile == tile && h.slot.isSome).filterMap fun h => (s.taskAt? h.tid).map (·.cls.toNat)
/-- Budgets, watchdogs and shares charged for the clock that ends (R18, R110). -/
def State.chargeClock (s : State) : State :=
  let slots (t : Task) : Task := t.charge (((s.hartsOf t.tid).filter (·.slot.isSome)).length)
  let share (t : Tile) : Tile := if t.shares.isEmpty then t else t.charge (s.holders t.idx)
  { s with task := slots s.task, tasks := s.tasks.map slots, tile := share s.tile, tiles := s.tiles.map share }
/-- Cores of a die that have an entry in the share table, written or in force. -/
def Die.sharers (d : Die) : List Nat := ((d.share ++ d.shareNext).map fun e => tileOfCore d.idx (e.1 / 8)).eraseDups
/-- The boundaries of rotations, share windows and ramp intervals, and the ticks of timer wheels, that a new clock brings (R110, R114, R116, R272). -/
def State.startClock (s : State) (before : Nat) : State :=
  let listed := s.allTiles.map (·.idx)
  let shared := (s.allTiles.filter fun t => !t.shares.isEmpty).map (·.idx)
  let put (s : State) (l : List Event) : State := l.foldl (fun (st : State) e => st.schedule st.clk e) s
  let s := if s.clk % 8192 = 0 then put s (((s.dies.flatMap Die.sharers) ++ shared).eraseDups.map .shareWindowStart)
    else if s.clk % 8 = 0 then put s (shared.map .rotationBoundary) else s
  let s := if s.clk % 240 = 0 then put s (listed.map .rampInterval) else s
  if s.ptp / 1000 ≠ before / 1000 then put s ((s.dies.filter fun d => !d.wheel.isEmpty).map fun d => .timerTick d.idx) else s
/-- The timebase goes on: by 0 or 1 ns in a clock of 2.4 GHz or less, which is free (R273). -/
def State.passTime (s : State) : State :=
  let (w, s) := s.draw
  { s with ptp := s.ptp + w.toNat % 2 }
/-- The next clock. -/
def State.edge (s : State) : State :=
  let before := s.ptp
  let s := s.chargeClock.passTime
  ({ s with clk := s.clk + 1, tick := s.tick + 1, cursor := 0 }).startClock before

/-! ## One step -/

/-- A running device: a trap at a boundary, an agenda step that is due, work that has become possible, the next core of this clock, what begins late in it, or the next clock. -/
def State.advance (s : State) : Out :=
  match s.pollBoundary with
  | some o => o
  | none => match s.agenda with
    | (c, e) :: rest => if c ≤ s.clk then runEvent e (s.setAgenda rest) else go s
    | [] => go s
where
  go (s : State) : Out :=
    match s.poll with
    | some o => o
    | none => match s.nextCore with
      | some tile => s.issue tile
      | none => match s.pollLate with
        | some o => o
        | none => .next s.edge

/-! ## A device that does not run (R337 to R347) -/

/-- The steps that a device takes whatever a seize has done to its work: those from outside, and on a frozen or failed device the launches of its queues (R337). -/
def State.wakesFor (s : State) (e : Event) : Bool :=
  e.external || ((s.seize.state == .frozen || s.seize.state == .failed) && (match e with | .queueConsume _ | .launch _ _ => true | _ => false))
/-- A step carried out with the clock raised to a value, and the clock as before after it. -/
def State.atClock (s : State) (clk : Nat) (f : State → Out) : Out :=
  match f (s.at_ clk) with
  | .next t => .next { t with clk := s.clk }
  | o => o
/-- Time passes for a device whose work stands still: the timebase goes on, and what comes from outside comes one clock nearer (R344). -/
def State.idleTick (s : State) : State :=
  let near (e : Nat × Event) : Bool := s.wakesFor e.2 && decide (s.clk < e.1)
  let moved := (s.agenda.filter near).map fun e => (e.1 - 1, e.2)
  let t := (s.setAgenda (mergeAgenda (s.agenda.filter fun e => !near e) moved)).passTime
  { t with tick := t.tick + 1 }
/-- One step of quiescing: work under R339 that is still on its way ends, or the stop is complete. While it waits for a peer, requests are sent again, and a peer that does not answer is beyond recovery (R181, R368, R369). -/
def State.quiesce (s : State) : Out :=
  match s.nextSettle with
  | some (c, e) => ({ s with agenda := s.agenda.erase (c, e) }).atClock c (runEvent e)
  | none => match s.nextDrain with
    | some (t, i) => s.atClock (((s.tileAt t).sb.map (·.due)).foldl max 0) (execStoreBufferDrain t i)
    | none => match s.nextPush with
      | some u => .next u
      | none => match s.nextStart with
        | some t => s.atClock (s.clk + 240) (execMatrixOpStart t)
        | none => match s.nextRequest with
          | some (due, h) => (match h.wait, s.focusOn h.tid h.no with
            | some (.sweepReq _ r), some f => f.atClock due fun k => .next (k.sweepArrive r)
            | _, _ => execQuiesceComplete s)
          | none =>
            if s.settled then execQuiesceComplete s
            else match s.links.find? s.linkLost with
              | some l => execHntBeyondRecovery l.dev s
              | none => match s.links.find? s.rtoOver with
                | some l => execHntRetransmit l.dev s
                | none => .next s.idleTick
/-- A device that is not running. -/
def State.seized (s : State) : Out :=
  match s.agenda.find? fun e => s.wakesFor e.2 && decide (e.1 ≤ s.clk) with
  | some (c, e) => runEvent e (s.setAgenda (s.agenda.erase (c, e)))
  | none =>
    match s.seize.state with
    | .quiescing => s.quiesce
    | .streaming => if s.hostUp then execStreamComplete s else execStreamPortsFailed s
    | .restoring => if (s.image?).any s.imageSound && s.hostUp then execRestoreComplete s else execRestoreFailure s
    | _ => .next s.idleTick

/-- One step of the machine. -/
def State.cycle (s : State) : Out := if s.seize.state = .running then s.advance else s.seized

/-! ## A stream that fetches a given word next -/

/-- Nothing of the device is on its way: no stream, task, tile or packet but those in focus. -/
def State.quiet (s : State) : State :=
  { s with harts := [], tasks := [], tiles := [], agenda := [], links := [], hostPackets := [], quireCE := [], quireUE := [], quireBad := []
           dies := s.dies.map fun (d : Die) => { d with walkQ := [], walks := [], wheel := [], wheelWait := [], calendars := [], calCE := [], calUE := [], blocks := [], hotStop := false, stopUntil := 0 }
           seize := { s.seize with state := .running } }
/-- Launch 0 of one tile task in slot 0 of the tile in focus, with its code capability at the start of the tile's memory (log 1). -/
def State.placeCode (s : State) (bytes : List Byte) : State :=
  let k := s.tile.idx
  let code : CapRec := { CapRec.fresh 1 (tileBase k) .tile .commons 4096 0 0 with rights := ⟨false, false, false, true⟩ }
  let l : Launch := { mkLaunch 0 0 [] (rowOf k) (colOf k) with rows := 1, cols := 1, code := 1, members := [(rowOf k, colOf k, 1)], torus := false, stitch := 0 }
  let h : Hart := { s.hart with
    tid := 1, no := 0, tile := k, slot := some 0, live := true, pc := 0, level := .u, wait := none, met := none, readyAt := s.clk
    inRep := false, walkFail := none, remote := none, remoteTrap := none }
  let t : Task := { Task.blank with tid := 1, state := .running, tile := k, coord := some (rowOf k, colOf k), h := s.task.h }
  let s := { s.quiet with tile := Tile.blank k, cursor := 0, hart := h, task := t, launches := [l] }
  (s.putRec code).writePhys (tileBase k) bytes

end Sys2Proof.Machine
end

