-- ==== Sys2Proof/Machine/Step.lean ====
section
/-!
DEFINITION. One step of the machine, and a state whose next step runs a given instruction.
-/
namespace Sys2Proof.Machine

open Sys2Proof

/-- One step: an event, work that has become possible, one instruction of one core, or the next clock. -/
def step (s : State) : Host.Outcome State Fault Refusal := s.cycle

/-- The state with an instruction of the opcode table stored where step fetches next: its low nbits bits, and zeros above them up to eight bytes (log 1). -/
def State.withFetchWord (s : State) (nbits w : Nat) : State := s.placeCode (bytesOf 8 (w % 2 ^ nbits))

end Sys2Proof.Machine
end

