-- ==== Sys2Proof/Safety.lean ====
section
/-!
DEFINITION. What a safe run is, and the terms in which the statements speak: what an instruction may change, and what a state must hold for it to have its effect.
-/
namespace Sys2Proof

open Sys2Proof.Machine

/-- The machine takes a step: neither a fault nor a refusal ends the run. -/
def Safe (s : State) : Prop := ∃ t, step s = .next t

/-- n steps that all go on. -/
def SafeFor : Nat → State → Prop
  | 0, _ => True
  | n + 1, s => ∃ t, step s = .next t ∧ SafeFor n t

namespace Machine

/-- The canonical form of the capability table: records in rising order of their handle images, none twice. -/
def Quire.wf : List CapRec → Bool
  | [] => true
  | c :: r => (match r with | [] => true | d :: _ => decide (c.img < d.img)) && Quire.wf r
/-- A device whose memory and capability table are in their canonical forms. -/
def Device.Canonical (d : Device) : Prop := Memory.wf d.mem = true ∧ Quire.wf d.quire = true
/-- A machine whose device, and every device that an image holds, is canonical: equal contents are equal data. -/
def State.Canonical (s : State) : Prop := s.toDevice.Canonical ∧ ∀ i ∈ s.images, i.body.Canonical

/-! # The terms of the statements -/

/-! ## Registers and the PC -/

/-- The instruction in focus is executed by itself, not as a repeat of a REP. -/
def State.Plain (s : State) : Prop := s.hart.inRep = false

/-- The stream in focus stands at pc with nothing of a wait left, and may issue from a clock; nothing else of the machine is changed. -/
def State.stands (s : State) (pc : Word) (ready : Nat) : State :=
  { s with hart := { s.hart with pc := pc, wait := none, met := none, order := none, walkFail := none, readyAt := ready } }

/-- The stream is past an instruction of n bytes, and nothing else of the machine is changed. -/
def State.past (s : State) (n : Nat) : State := s.stands (s.hart.pc + BitVec.ofNat 64 n) s.hart.readyAt

/-- Between s and t only the general registers differ, and of them only register d, which holds w: register 0 takes nothing and reads as zero. -/
def WroteX (d : BitVec 5) (w : Word) (s t : State) : Prop :=
  (∀ r, t.x r = if r = 0 then 0 else if r = d then w else s.x r) ∧ t = { s with hart := { s.hart with x := t.hart.x } }

/-- No stream of the task in focus waits for a partner or in a sweep, so that stopping the siblings abandons nothing. -/
def State.NoPairs (s : State) : Prop :=
  ∀ h ∈ s.hartsOf s.task.tid, match h.wait with | some (.partner _ _ _) | some (.sweep _ _ _) | some (.sweepReq _ _) => False | _ => True

/-- The supervisor handler entered by a trap (R118): what the stream and the task hold. -/
def EnteredHandler (cause sub vector : Nat) (pc : Word) (s t : State) : Prop :=
  t.x 31 = pc ∧ t.x 30 = BitVec.ofNat 64 (cause + 256 * sub) ∧
  (∀ r : BitVec 5, r.toNat < 24 → t.x r = s.x r) ∧
  (∀ i : Fin 6, t.hart.x[24 + i.val] = s.hart.ssh[i.val]) ∧
  (∀ i : Fin 8, t.hart.ssh[i.val] = s.hart.x[24 + i.val]) ∧
  t.hart.repstS = s.hart.repst ∧ t.hart.repst = 0 ∧
  t.hart.level = .s ∧ t.hart.pc = BitVec.ofNat 64 vector ∧
  t.task = { s.task with state := .trapped, handler := some s.hart.no } ∧
  t.hart = { s.hart with x := t.hart.x, ssh := t.hart.ssh, repst := 0, repstS := s.hart.repst, level := .s, pc := BitVec.ofNat 64 vector
                         errst := t.hart.errst, wait := none, met := none, order := none, inRep := false, walkFail := none } ∧
  t.mem = s.mem

/-- A trap may enter the handler: the stream runs at U and its launch has a supervisor vector. -/
def State.Handled (s : State) : Prop := s.hart.level = .u ∧ s.vector ≠ 0 ∧ s.NoPairs

/-- Register d holds a result's code, the flags of the result are raised, and the generator holds lfsr; else as WroteX (R65, R130, R132). -/
def WroteF (d : BitVec 5) (r : Nat × FFlags) (lfsr : Word) (s t : State) : Prop :=
  WroteX d (BitVec.ofNat 64 r.1) (s.setHart { s.hart with fflg := s.hart.fflg ||| r.2.zeroExtend 64, lfsr := lfsr }) t

/-! ## Memory -/

/-- The number that n bytes of memory hold, the byte of the lowest address counting least (R3). -/
def State.little (s : State) (a n : Nat) : Nat := ((List.range n).map fun k => (memGet (a + k) s.mem).toNat * 256 ^ k).sum

/-- A number of n bytes read as signed. -/
def signedNat (n v : Nat) : Int := if 2 * v < 256 ^ n then v else (v : Int) - 256 ^ n

/-- A range of device memory without errors, and no view of a queue. -/
def State.Sound (s : State) (a n : Nat) : Prop := s.hasUE a n = false ∧ s.correct a n = s ∧ isView a = false

/-- A read of n bytes at an offset of a handle passes its checks, and its data stand at an address of this device, with no store of the stream before it (R81, R115, R242). -/
def State.Reads (s : State) (h : BitVec 4) (off : Word) (n : Nat) (word : Bool) (c : CapRec) (a : Nat) : Prop :=
  s.find h off n needRD (.load word) false = .at_ c (.mem a) s ∧ s.forward c off.toNat n = .home ∧ s.ownPosted (.mem a) n = [] ∧ s.Sound a n

/-- A load of n bytes, as a buffer of words admits it (R81). -/
def State.Loads (s : State) (h : BitVec 4) (off : Word) (n : Nat) (c : CapRec) (a : Nat) : Prop := s.Reads h off n (n == 4 || n == 8) c a

/-- The stream is past its instruction and waits for the data of its load. -/
def State.awaits (s : State) (bytes due : Nat) (u : Undo) : State :=
  ((s.past bytes).setHart { (s.past bytes).hart with wait := some (.data due u) }).schedule due (.loadResponse s.hart.tid s.hart.no)

/-- A store of n bytes at an offset of a handle passes its checks, its home is an address of this device, and it needs a new place in the store buffer and finds one (R81, R115). -/
def State.Stores (s : State) (h : BitVec 4) (off : Word) (n : Nat) (release : Bool) (c : CapRec) (a : Nat) : Prop :=
  s.find h off n needWR (.store (n == 4 || n == 8)) true = .at_ c (.mem a) s ∧ c.level ≠ .peer ∧ s.tile.sb.length < 16 ∧
  (release = true ∨ ∀ e ∈ s.tile.sb, ¬(e.tid = s.hart.tid ∧ e.no = s.hart.no ∧ (e.key, e.granule) = c.granuleOf off.toNat))

/-- The stream is past a store of n bytes, whose value stands in a new youngest entry of the tile's store buffer; memory, the task and every register are unchanged. -/
def Retired (s t : State) (bytes : Nat) (h : BitVec 4) (off : Nat) (n v : Nat) (release : Bool) (c : CapRec) (a : Nat) : Prop :=
  t.hart = (s.past bytes).hart ∧ t.task = s.task ∧ t.mem = s.mem ∧
  ∃ e : SbEntry, t.tile.sb = s.tile.sb ++ [e] ∧ e.tid = s.hart.tid ∧ e.no = s.hart.no ∧ e.handle = h ∧ e.img = c.root ∧ (e.key, e.granule) = c.granuleOf off ∧
    e.home = .mem (a - off % 64) ∧ e.release = release ∧ e.due = s.clk + 1 ∧
    e.mask.toNat = (2 ^ n - 1) * 2 ^ (off % 64) ∧ e.data.toNat = v * 256 ^ (off % 64)

/-- The word an AMO leaves in memory, from the old word and its operand (R85). -/
def amoLeaves (n : Nat) (old v : Nat) (i : Instr) : Nat :=
  match i with
  | .amoAdd .. => (old + v) % 256 ^ n
  | .amoAnd .. => old &&& v
  | .amoOr .. => old ||| v
  | .amoXor .. => old ^^^ v
  | .amoMin .. => if signedNat n v < signedNat n old then v else old
  | .amoMax .. => if signedNat n old < signedNat n v then v else old
  | .amoMinu .. => min old v
  | .amoMaxu .. => max old v
  | _ => v

/-- An atomic of n bytes passes its checks (R24, R86) and its word stands at an address of this device. -/
def State.Atomic (s : State) (h : BitVec 4) (off : Word) (n : Nat) (o : Order) (c : CapRec) (a : Nat) : Prop :=
  s.checkHandle h needRW = .ok c ∧ (c.kind = .excl ∧ s.admits c .atomic = .ok ∨ c.kind = .commons) ∧ (c.level = .tile ∨ c.level = .cluster) ∧
  off.toNat % n = 0 ∧ off.toNat + n ≤ c.len ∧ (o = .rel ∨ o = .ar → s.releaseWait = none) ∧
  s.ownGranule c off.toNat = [] ∧ s.locate c h off.toNat true = .at_ c (.mem a) s ∧ s.mustRecall a true = false ∧ s.hasUE a n = false ∧ s.correct a n = s

/-! ## Capabilities and messages -/

/-- The stream is past its instruction of n bytes, its task differs in its handles only, and of these only in handle d, which holds w. -/
def WroteHandle (d : BitVec 4) (w : Nat) (n : Nat) (s t : State) : Prop :=
  (∀ e, t.handle e = if e = d then BitVec.ofNat 64 w else s.handle e) ∧ t.task = { s.task with h := t.task.h } ∧ t.hart = (s.past n).hart

/-- Every record of the quire but those listed is as before. -/
def OtherRecords (l : List Nat) (s t : State) : Prop := ∀ i, i ∉ l → t.rec? i = s.rec? i

/-- The FRAC record of n shares that a split makes of a record (R48). -/
def CapRec.SharesOf (c : CapRec) (img n : Nat) (tid : Tid) (f : CapRec) : Prop :=
  f.img = img ∧ f.kind = .frac ∧ f.count = n ∧ f.owner = tid ∧ f.rights = ⟨false, true, false, true⟩ ∧ f.base = c.base ∧ f.len = c.len ∧
  f.level = c.level ∧ f.asid = c.asid ∧ f.format = c.format ∧ f.shape = c.shape ∧ f.version = c.version ∧ f.frozen = false ∧ f.revoked = false

/-- The message of a CSEND in focus: the capability, the pair of registers, or two zero words for the pair x0, and the sender (R34, R41). -/
def State.message (s : State) (img : Nat) (b : BitVec 5) : Msg :=
  { cap := some img, p0 := if b = 0 then 0 else s.x b, p1 := if b = 0 then 0 else s.x (b + 1), sender := s.task.tid, asid := s.task.asid }

/-- A message stands on its way with the number that was next, and arrives at a clock. -/
def OnItsWay (s t : State) (x : Transit) (due : Nat) : Prop :=
  t.nextId = s.nextId + 1 ∧ t.transits = s.transits ++ [x] ∧ (due, .csendDelivery s.nextId) ∈ t.agenda

/-- What a taken message leaves: its capability in handle d with its owner, its payload in a pair of registers and its status in register x (R50). -/
def Received (d : BitVec 4) (p x : BitVec 5) (m : Msg) (s t : State) : Prop :=
  (∀ e, t.handle e = if e = d then (match m.cap.bind s.rec? with | some c => BitVec.ofNat 64 c.image | none => 0) else s.handle e) ∧
  (∀ c, m.cap.bind s.rec? = some c → t.rec? c.img = some { c with owner := s.task.tid }) ∧
  (∀ r, t.x r = if r = 0 then 0 else if r = x then BitVec.ofNat 64 (m.outcome + m.nak * 256 + m.sender.toNat * 2 ^ 32)
                else if p ≠ 0 ∧ r = p + 1 then m.p1 else if p ≠ 0 ∧ r = p then m.p0 else s.x r) ∧
  t.hart = { (s.past 4).hart with x := t.hart.x } ∧ t.mem = s.mem

/-! ## Queues and tasks -/

/-- A queue register of words holds a list. -/
def Task.holds (t : Task) (n : BitVec 3) (l : List Word) : Prop := n.toNat < 4 ∧ t.q.toList[n.toNat]? = some l

/-- A queue register of rows holds a list. -/
def Task.holdsRows (t : Task) (n : BitVec 3) (l : List QRow) : Prop := 4 ≤ n.toNat ∧ t.qv.toList[n.toNat - 4]? = some l

/-- The stream in focus is the first of its task at what serves its instruction (R228). -/
def State.Served (s : State) (u : ServedBy) : Prop := (s.lineUp u).isFirst u = true

/-- The tile task of a stream, its launch and the live tile task that stands in a direction (R226). -/
def State.Neighbour (s : State) (d : Dir) (l : Launch) (nb : Nat × Nat) (r : Task) : Prop :=
  s.launchAt? s.task.launch = some l ∧ (∃ rc, s.task.coord = some rc ∧ l.neighbour (l.rel rc) d = some nb) ∧ l.tidAt nb = some r.tid ∧
  s.taskAt? r.tid = some r ∧ r.state ≠ .exited ∧ r.tid ≠ s.task.tid

/-- The record of a SPAWN is read from this device, obeys R8 and R94, and finds room for its task. -/
def State.Spawns (s : State) (h : BitVec 4) (off : Word) (p : List Word) (lat : Nat) (tid : Tid) : Prop :=
  (∃ c a, s.Reads h off 64 false c a ∧ lat = s.homeLatency (.mem a) ∧ p = (List.range 8).map fun i => BitVec.ofNat 64 (s.little (a + 8 * i) 8)) ∧
  s.r5 p = true ∧ s.recordOk p false = true ∧ handleFields p = [] ∧ s.dequeFull s.tile.idx = false ∧ ¬(s.ptp < (pw p 3).toNat ∧ s.wheelFull (dieOf s.tile.idx) = true) ∧
  s.task.join < 65535 ∧ s.releaseWait = none ∧ (∃ u, s.newTid s.tile.idx = some (tid, u)) ∧ s.taskAt? tid = none ∧ tid ≠ s.task.tid

/-! ## Lanes of rows -/

/-- No matrix operation that the slot issued is outstanding, so that no row waits (R143). -/
def State.RowsFree (s : State) : Prop := s.tileBusy .t0 = false ∧ s.tileBusy .t1 = false

/-- Active lanes of a mask up to lane i, and the generator after a number of steps. -/
def activeUpTo (m : Word) (i : Nat) : Nat := ((List.range (i + 1)).filter fun j => m.getLsbD j).length

/-- The generator of stochastic rounding after n steps (R130). -/
def generatorAfter : Nat → Word → Word
  | 0, l => l
  | n + 1, l => generatorAfter n (stepWord l)

/-- Between s and t only rows differ, and of them only row d, whose lanes of w bits hold f. -/
def WroteV (d : BitVec 5) (w n : Nat) (f : Nat → Nat) (s t : State) : Prop :=
  (∀ r, r ≠ d → t.v r = s.v r) ∧ (∀ i < n, laneOf w (t.v d) i = f i % 2 ^ w) ∧ t = s.setHart { s.hart with v := t.hart.v }

/-- The flags of a stream with those raised that any lane below n raises. -/
def FlagsOf (n : Nat) (f : Nat → FFlags) (old new : Word) : Prop :=
  ∀ j, new.getLsbD j = (old.getLsbD j || decide (∃ i < n, (f i).getLsbD j = true))

/-- The value that a 16-bit immediate gives lane j (R71). -/
def laneImmediate (e : Et) (imm : BitVec 16) (j : Nat) : Nat :=
  match e with
  | .f32 => imm.toNat * 65536
  | .bf16 | .f16 | .i16 => imm.toNat
  | .e4m3 | .e5m2 | .i8 => if j % 2 = 0 then imm.toNat % 256 else imm.toNat / 256
  | .i32 => (imm.toInt % 2 ^ 32).toNat

/-- Codes combined two by two, element 2j with element 2j + 1 in ascending j, with what the combining carries. -/
def pairwise {α σ : Type} (f : α → α → σ → α × σ) : List α → σ → List α × σ
  | a :: b :: r, t => ((f a b t).1 :: (pairwise f r (f a b t).2).1, (pairwise f r (f a b t).2).2)
  | l, t => (l, t)

/-- The levels of the tree of R162 that n combinations of its 2^n elements make. -/
def levels {α σ : Type} (f : α → α → σ → α × σ) : Nat → List α × σ → List α × σ
  | 0, p => p
  | n + 1, p => levels f n (pairwise f p.1 p.2)

/-- Between s and t only row d differs, and of it only n fields of w bits from field first on, which hold f. -/
def WroteFields (d : BitVec 5) (w first n : Nat) (f : Nat → Nat) (s t : State) : Prop :=
  (∀ r, r ≠ d → t.v r = s.v r) ∧ (∀ i < n, laneOf w (t.v d) (first + i) = f i % 2 ^ w) ∧
  (∀ j < 512, j < w * first ∨ w * (first + n) ≤ j → (t.v d).getLsbD j = (s.v d).getLsbD j) ∧ t = s.setHart { s.hart with v := t.hart.v }

/-- The stream is past a vector instruction that set flags and left its generator at a value. -/
def State.raised (s : State) (fl g : Word) : State := (s.past 4).setHart { (s.past 4).hart with fflg := fl, lfsr := g }

/-- The place in a word of the field that bit f of a step mask names: d, a, b (R68). -/
def stepPlace (mop f : Nat) : Option Nat :=
  if f = 0 then some 7
  else if mop = 0x17 then none
  else if f = 1 then some (if mop = 8 ∨ mop = 9 then 16 else 12)
  else if mop = 2 ∨ mop = 8 ∨ mop = 9 then none else some 17

/-- Opcodes that REP takes (R68). -/
def repeatable (mop : Nat) : Prop := mop = 1 ∨ mop = 2 ∨ mop = 7 ∨ mop = 8 ∨ mop = 9 ∨ (0x10 ≤ mop ∧ mop ≤ 0x17)

/-- How far the fields of a word stand from their first values in a repeat: the sum of the moves. -/
def steppedBy (mop mask delta : Nat) : Nat :=
  ((List.range 3).map fun f => if mask.testBit f then (match stepPlace mop f with | some lo => delta * 2 ^ lo | none => 0) else 0).sum

/-! ## The matrix unit -/

/-- What a fill of an operand slot asks for (R174), and that it passes its checks: the buffer, and the codebook's table. -/
def State.Fills (s : State) (n : BitVec 3) (fmt : BitVec 5) (h : BitVec 4) (addr edge : Word) (side : Side) (c : CapRec) (table : List (BitVec 16)) (u : State) : Prop :=
  let kv := edgeKv edge
  let bytes := (kv * elemBits (fmt.toNat % 16) + 7) / 8
  s.tile.names s.task.tid n.toNat fmt = true ∧ addr.toNat < 2 ^ 56 ∧ edge.toNat < 2 ^ 39 ∧ s.checkHandle h needRD = .ok c ∧ s.admits c .engineRead = .ok ∧ c.proxy = none ∧
  wordBits 39 0 addr % 16 = 0 ∧
  (∀ i < 16, edge.getLsbD (i + match side with | .a => 0 | .b => 16) = false → wordBits 39 0 addr + i * (wordBits 55 40 addr * 16) + bytes ≤ c.len) ∧
  s.codebook c h (fmt.toNat % 16) side = (u, .ok table) ∧ u.releaseWait = none ∧ ∀ r, u.rec? c.engineImg = some r → r.proxy = none

/-- A fill stands on the tile in focus, next in its order: its slots are filling, and its source drains (R27, R174). -/
def Filling (n : BitVec 3) (fmt : BitVec 5) (addr edge : Word) (c : CapRec) (table : List (BitVec 16)) (transfer : Bool) (u t : State) : Prop :=
  (∃ f ∈ t.tile.fills, f.seq = u.tile.opSeq ∧ f.tid = u.task.tid ∧ f.no = u.hart.no ∧ f.n = n.toNat ∧ f.fmt = fmt ∧ f.img = c.engineImg ∧ f.off = wordBits 39 0 addr ∧
    f.stride = wordBits 55 40 addr * 16 ∧ f.kv = edgeKv edge ∧ f.table = table ∧ f.transfer = transfer) ∧
  (∀ k ∈ slotsOf n.toNat fmt, (t.tile.slotAt k).filling = true) ∧ t.tile.opSeq = u.tile.opSeq + 1 ∧ t.mem = u.mem ∧ t.task = u.task

/-- Element k of row i of an operand slot in a narrow format, as an integer code's value (R125). -/
def Tile.operandInt (t : Tile) (n : Nat) (fmt : BitVec 5) (i k : Nat) : Int :=
  let w := elemBits (fmt.toNat % 16)
  elemInt (fmt.toNat % 16) ((t.operandRow n fmt i) / 2 ^ (w * k) % 2 ^ w)

/-- The k-block sum of row i of A and column j of B (R136). -/
def Tile.blockInt (t : Tile) (o : MatOp) (i j : Nat) : Int :=
  ((List.range (edgeKv o.edge)).map fun k => t.operandInt o.sa o.fa i k * t.operandInt o.sb o.fb j k).sum

/-! ## The transfer engine -/

/-- A source and a destination of an engine operation of a task, after its fork edge (R27, R31, R198). -/
def CapRec.drainedBy (r : CapRec) (tid : Tid) : CapRec :=
  { r with readers := r.readers + 1, written := false, filler := tid, state := if r.kind = .excl then .draining else r.state }

/-- A destination of an engine operation of a task, after its fork edge (R27, R31, R198). -/
def CapRec.filledBy (r : CapRec) (tid : Tid) : CapRec :=
  { r with version := r.version + 1, revVersion := if r.version + 1 = 0 then 0 else r.revVersion, writers := r.writers + 1, filler := tid,
           state := if r.kind = .excl then .filling else r.state }

/-- The engine of the tile in focus takes an operation of the stream in focus: a place is free, and its stores have been performed (R198, R199). -/
def State.EngineReady (s : State) : Prop := s.tile.accepted < 16 ∧ s.releaseWait = none ∧ ∀ x ∈ s.tile.xfers, x.id ≠ s.tile.xferNext

/-- A handle names a source on this device: c is its record, r the root record that the engine reads. -/
def State.Source (s : State) (h : BitVec 4) (c r : CapRec) : Prop :=
  s.gate h needRD .engineRead = .ok c ∧ s.rec? c.engineImg = some r ∧ r.img = c.engineImg ∧ r.kind ≠ .frac ∧ r.proxy = none

/-- An operation stands in the engine, and its join edges are on their way. -/
def Forked (s t : State) (kind : XferKind) (src : Option Image) (srcOff : Nat) (legs : List Leg) (ntf : Bool) : Prop :=
  (∃ o, t.tile.xfers = s.tile.xfers ++ [o] ∧ o.id = s.tile.xferNext ∧ o.seq = s.tile.opSeq ∧ o.tid = s.task.tid ∧ o.no = s.hart.no ∧ o.asid = s.task.asid ∧
    o.kind = kind ∧ o.src = src ∧ o.srcOff = srcOff ∧ o.legs = legs ∧ o.ntf = ntf ∧ (∀ l ∈ legs, (l.due, .transferJoin s.tile.idx o.id) ∈ t.agenda)) ∧
  t.tile.opSeq = s.tile.opSeq + 1 ∧ t.mem = s.mem

/-- A leg of n bytes at an offset of a destination, as its fork edge leaves it: it may join once its bytes have had their time (R199). -/
def State.legTo (s : State) (e : CapRec) (h : BitVec 4) (off n : Nat) (others : List CapRec) : Leg :=
  { dst := e.img, handle := h, off := off, len := n, due := s.clk + (((others ++ [e]).map (s.levelLatency s.tile.idx)).foldl max 0 + (n + 63) / 64),
    sent := false, done := 0, status := none }

/-- A record of a destination or a source once one operation on it has joined (R27, R198). -/
def CapRec.filled (r : CapRec) : CapRec :=
  { r with writers := r.writers - 1, state := if r.state = .filling ∧ r.writers ≤ 1 then .full else r.state }

/-- A source once one operation on it has joined (R27, R198). -/
def CapRec.drained (r : CapRec) : CapRec :=
  { r with readers := r.readers - 1, state := if r.state = .draining ∧ r.readers ≤ 1 then .full else r.state }

/-- The one operation of the engine of the tile in focus, with one leg that may join: its destination lies on this device, on a tile or in a cluster. -/
def State.Joins (s : State) (o : XferOp) (l : Leg) (e : CapRec) (a : Nat) : Prop :=
  s.tile.xfers = [o] ∧ o.legs = [l] ∧ l.status = none ∧ l.sent = false ∧ l.due ≤ s.clk ∧ o.fetches = [] ∧ o.units = [] ∧ o.ntf = false ∧ s.ce = [] ∧
  (∀ q, s.taskAt? o.tid = some q → q.ending = false) ∧ s.rec? l.dst = some e ∧ e.img = l.dst ∧ e.proxy = none ∧ (e.level = .tile ∨ e.level = .cluster) ∧
  s.lendChain e = [] ∧ a = e.base + e.frontOff + l.off

/-- The words of a 64-byte packet at an address of this device. -/
def State.packetAt (s : State) (a : Nat) : List Word := (List.range 8).map fun i => BitVec.ofNat 64 (s.little (a + 8 * i) 8)

/-- A packet of 64 bytes is read at an offset of a buffer on this device, with no store of the stream before it (R81, R115). -/
def State.ReadsPacket (s : State) (h : BitVec 4) (off : Word) (c : CapRec) (a : Nat) (p : List Word) : Prop :=
  s.Reads h off 64 false c a ∧ p = s.packetAt a

/-- Bytes stand in memory from an address on, and every other byte is as it was. -/
def Stored (a : Nat) (bytes : List Byte) (s t : State) : Prop :=
  (∀ k < bytes.length, memGet (a + k) t.mem = bytes[k]?.getD 0) ∧ (∀ p, (p < a ∨ a + bytes.length ≤ p) → memGet p t.mem = memGet p s.mem)

/-! ## Scans and sweeps -/

/-- The context of a scan instruction in focus: its launch, its configuration, its line and its place there. -/
def State.OnLine (s : State) (k : BitVec 2) (l : Launch) (c : ScanCtx) (ln : ScanLine) : Prop :=
  s.task.coord.isSome = true ∧ c = s.task.ctx k ∧ c.configured = true ∧ s.launchAt? s.task.launch = some l ∧
  s.task.lineOf l k.toNat = some ln ∧ ∃ m, ln.members.find? (fun x => x.tid == s.task.tid) = some m ∧ m.pos = c.position

/-- Every member of a line at the positions of a range has deposited in an epoch, and the deposit has had the line's delay (R291, R295). -/
def ScanLine.Ready (ln : ScanLine) (clk e : Nat) (sel : Nat → Prop) : Prop :=
  ln.broken = false ∧ ∀ m ∈ ln.members, sel m.pos → ∃ d, ln.deposits.find? (fun d => d.pos == m.pos && d.epoch == e) = some d ∧ d.clk + ln.delay ≤ clk

/-- A member word names a set that the task in focus takes part in, with the index of the task in it (R303, R308). -/
def State.InSet (s : State) (w : Word) (c : Calendar) (p : Nat) : Prop :=
  s.task.coord.isSome = true ∧ (s.dieAt s.sweepDie).calendar? (wordBits 19 16 w) = some c ∧ c.asid = s.task.asid ∧ c.launch = s.task.launch ∧
  c.partOf s.task.tid = some p ∧ c.poisoned = false ∧ c.busyFor s.task.tid = false

/-- A sweep instruction leaves for the calendar, is performed there half of the round trip later, and its slot waits for the reply: register d takes v, if there is one, and the calendar is c (R308, R315). -/
def SweepPerforms (s : State) (i : Instr) (d : BitVec 5) (v : Option Word) (c : Calendar) : Prop :=
  ∃ r t, exec i s = .next (s.setHart { s.hart with wait := some (.sweepReq (s.clk + s.sweepPark / 2) r), met := none, inRep := false }) ∧
    t = ((s.setHart { s.hart with wait := some (.sweepReq (s.clk + s.sweepPark / 2) r), met := none, inRep := false }).at_ (s.clk + s.sweepPark / 2)).sweepArrive r ∧
    (∀ k, t.x k = if k = 0 then (0 : Word) else if k = d then v.getD (s.x k) else s.x k) ∧
    t.hart = { (s.past 4).hart with x := t.hart.x, wait := some (.reply (s.clk + s.sweepPark)) } ∧ t.task = s.task ∧ t.mem = s.mem ∧
    (t.dieAt s.sweepDie).calendar? c.no = some c ∧ (s.clk + s.sweepPark, .loadResponse s.hart.tid s.hart.no) ∈ t.agenda

/-- The word that names a member of a set. -/
def memberName (c : Calendar) (i : Nat) : Word := BitVec.ofNat 64 (c.no * 2 ^ 16 + i)

/-! ## The device -/

/-- Between s and t only the log of a die differs, and there only by one event of a class with its two words (R328, R329). -/
def Logged (s t : State) (die : Nat) (cls : Fin 12) (a b : Word) : Prop :=
  t = { s with dies := t.dies } ∧ (∀ d, d ≠ die → t.dieAt d = s.dieAt d) ∧
  (let o := s.dieAt die
   let n := t.dieAt die
   n = { o with logNext := o.logNext + 1, ecnt := n.ecnt, log := n.log, logDropped := n.logDropped, logOverflow := n.logOverflow } ∧
   (∀ k : Fin 12, n.ecnt[k] = if k = cls then (o.ecnt[k] + 1) % 2 ^ 48 else o.ecnt[k]) ∧
   ((∀ x ∈ o.log, x.tick ≠ s.tick) → (∀ x ∈ o.logDropped, x.tick ≠ s.tick) → o.log.length < 32 →
     ∃ e, n.log = o.log ++ [e] ∧ e.seq = o.logNext ∧ e.cls = cls.val ∧ e.time = BitVec.ofNat 64 s.ptp ∧ e.a = a ∧ e.b = b ∧ n.logOverflow = o.logOverflow) ∧
   ((∀ x ∈ o.log, x.tick ≠ s.tick) → (∀ x ∈ o.logDropped, x.tick ≠ s.tick) → o.log.length = 32 → n.log = o.log ∧ n.logOverflow = min (o.logOverflow + 1) (2 ^ 26 - 1)))

/-- A write of the control space is refused: nothing changes, and class 7 of the die's log takes its offset and value (R278). -/
def RefusesWrite (s : State) (i : Instr) (die off : Nat) (v : Word) : Prop := ∃ t, exec i s = .next t ∧ Logged s t die 7 (BitVec.ofNat 64 off) v

/-- What a host port carries, and where: a device whose host ports are all down cannot stream (R337). -/
def State.HostReachable (s : State) : Prop := ∃ p, p < 4 ∧ s.lanes.toArray.getD p 0 ≠ 0 ∧ s.portDown.toArray.getD p false = false

/-- The image a seize block names: it stands in host memory at the base of the block (R341). -/
def State.ImageAt (s : State) (i : Image0) : Prop :=
  s.images.find? (fun x => x.base == s.seize.base.toNat) = some i ∧ s.readPhys (hostBase + i.base) 4096 = i.header

/-- A device without work: no stream, task, launch, capability, queue or packet, and memory as at reset but for what the host's own holds (R277, R334, R337). -/
def Scrubbed (s t : State) : Prop :=
  t.hart = Hart.blank ∧ t.harts = [] ∧ t.task = Task.blank ∧ t.tasks = [] ∧ t.tiles = [] ∧ t.clusters = [] ∧ t.launches = [] ∧ t.quire = [] ∧ t.queues = [] ∧ t.asids = [] ∧
  t.pages = [] ∧ t.links = [] ∧ t.peers = [] ∧ t.transits = [] ∧ t.groupModes = [] ∧ t.pcap = 4500 ∧ t.winres = 0 ∧
  (∀ a, memGet a t.mem = if isHost a then memGet a s.mem else 0) ∧
  (∀ d < 8, let k := t.dieAt d; k.log = [] ∧ k.logNext = 0 ∧ k.wdlim = 24 ∧ k.calendars = [] ∧ k.wheel = [] ∧ k.clockStep = min (s.config.steps.getD d 0) 2) ∧
  t.config = s.config ∧ t.lanes = s.lanes ∧ t.portDown = s.portDown ∧ t.ptp = s.ptp ∧ t.images = s.images

/-- The packet at the head of a valid queue of a consumer, on a running device (R216, R217). -/
def State.Head (s : State) (q consumer ticket a : Nat) (p : List Word) : Prop :=
  s.seize.state = .running ∧ Memory.wf s.mem = true ∧ s.atHead q consumer ticket = true ∧ s.ringAddr q ticket = some a ∧ isView a = false ∧ p = s.packetAt a

/-- RI of a queue steps, and the consumer of a device queue looks again in the next clock. -/
def Stepped (s t : State) (q : Nat) : Prop :=
  (∀ k, t.queueWords k = if k = q then (s.queueWords q).set 3 ((s.queueWords q)[3] + 1) else s.queueWords k) ∧ (qConsumer (s.queueWords q) ≠ 0 → (s.clk + 1, .queueConsume q) ∈ t.agenda)

/-- Word 0 of an entry is written, and RI of its queue steps (R217, R265). -/
def EntryPassed (s t : State) (q a : Nat) (w : Word) : Prop := Stored a (bytesOf 8 w.toNat) s t ∧ Stepped s t q

/-- Writing an entry of a ring counts nothing on any die unless the ring's record is packable (R324). -/
def State.CountsOnly (s : State) (q : Nat) (u t : State) : Prop := (∀ c, s.ringRec q = some c → c.packable = false) → t.dies = u.dies

/-- A packet is rejected: one event of class 6 with its word 0 and cause 1, and its entry is passed (R5, R217, R266). -/
def RejectsPacket (s : State) (i : Instr) (q a : Nat) (p : List Word) : Prop :=
  ∃ u t, exec i s = .next t ∧ Logged s u (dieOfQueue q) 6 (pw p 0) 1 ∧ EntryPassed u t q a (BitVec.allOnes 64) ∧ s.CountsOnly q u t ∧ t.hart = s.hart ∧ t.task = s.task ∧ t.quire = s.quire

/-- Stream 0 of a running task stands in focus in its slot at an instruction boundary, at U (R101). -/
def State.OnBoundary (s : State) : Prop :=
  s.hart.tid = s.task.tid ∧ s.hart.no = 0 ∧ s.hart.live = true ∧ s.tile.idx = s.hart.tile ∧ s.task.state = .running ∧ s.hart.slot.isSome = true ∧ s.hart.level = .u ∧
  s.hart.wait = none ∧ s.hart.readyAt ≤ s.clk

/-- The stream enters its handler of a user event: x24 to x31 are exchanged with their shadows, x31 holds the pc and x30 the event (R69, R106). -/
def EnteredEvent (event : Nat) (s t : State) : Prop :=
  t.x 31 = s.hart.pc ∧ t.x 30 = BitVec.ofNat 64 event ∧ (∀ r : BitVec 5, r.toNat < 24 → t.x r = s.x r) ∧ (∀ i : Fin 6, t.hart.x[24 + i.val] = s.hart.ush[i.val]) ∧
  (∀ i : Fin 8, t.hart.ush[i.val] = s.hart.x[24 + i.val]) ∧ t.hart.repstU = s.hart.repst ∧ t.hart.repst = 0 ∧ wordBits 63 63 t.hart.evhpc = 1 ∧ wordBits 62 0 t.hart.evhpc = wordBits 62 0 s.hart.evhpc ∧
  t.hart.pc = BitVec.ofNat 64 (wordBits 47 0 s.hart.evhpc) ∧ t.hart.level = s.hart.level ∧ t.mem = s.mem

/-- A packet of a peer is taken and is the next in its sequence (R364, R366, R368). -/
def State.InSequence (s : State) (p : Packet) : Prop := s.seize.state = .running ∧ s.accepts p = true ∧ p.seq = (s.linkAt p.src).expect ∧ (s.linkAt p.src).sinceAck + 1 < 16 ∧ Memory.wf s.mem = true

/-- A packet names a root on a tile of this device in a version that is not revoked, and n bytes of it (R32, R372). -/
def State.NamesRoot (s : State) (p : Packet) (c : CapRec) (n : Nat) : Prop :=
  s.asidLive p.asid = true ∧ s.rec? p.root.toNat = some c ∧ c.asid = p.asid ∧ c.revoked = false ∧ c.isRoot = true ∧ staleVersion c.version p.version c.revVersion = false ∧ c.poisoned = false ∧
  c.level = .tile ∧ c.phase = none ∧ s.lendChain c = [] ∧ c.base + c.len ≤ 2 ^ 40 ∧ p.off.toNat + n ≤ c.len ∧ (s.linkAt p.src).arriving = []

/-- The sequence of a peer steps past a packet. -/
def State.Stepped (t : State) (p : Packet) : Prop := (t.linkAt p.src).expect = p.seq + 1

/-- A packet is refused: a NAK that names it and carries a status leaves for its sender, and its sequence steps (R366, R368, R372). -/
def NaksPacket (s : State) (i : Instr) (p : Packet) (status : Nat) : Prop :=
  ∃ t n, exec i s = .next t ∧ t.Stepped p ∧ t.wire = s.wire ++ [n] ∧ n.kind = 7 ∧ n.dst = p.src ∧ n.seq = p.seq ∧ n.status = BitVec.ofNat 32 status ∧ t.mem = s.mem ∧ t.quire = s.quire ∧ t.hart = s.hart

/-! ## A step -/

/-- The running device has no trap due at a boundary, no step of its agenda due and no other work that has become possible, and it is the turn of a core: f is the state with the first ready slot of that core in focus (R13, R101, R109). -/
def State.TurnOf (s f : State) : Prop :=
  s.seize.state = .running ∧ s.pollBoundary = none ∧ (∀ e ∈ s.agenda.head?, s.clk < e.1) ∧ s.poll = none ∧
  ∃ tile h g, s.nextCore = some tile ∧ firstReady (s.tileAt tile).lastSlot (s.allHarts.filter fun h => h.tile == tile && s.ready h) = some h ∧
    ({ s with cursor := tile + 1 }).focusOn h.tid h.no = some g ∧ f = (g.setTile { g.tile with prevSlot := g.tile.lastSlot, lastSlot := h.slot.getD 7 }).setHart { g.hart with wait := none }

/-- Nothing but its next instruction meets at the boundary of the stream in focus: no refusal of a peer, no SEIZ, no BUDG, no WDOG and no user event (R18, R101, R106). -/
def State.BoundaryClear (f : State) : Prop :=
  f.hart.remoteTrap = none ∧
  (f.hart.no ≠ 0 ∨ f.hart.level = .s ∨
    f.task.seizPending = false ∧ ∀ h ∈ f.boundaryHart f.hart.tid, f.budgetOut f.task = false ∧ f.watchdogOut f.task = false ∧ f.dueEvent f.task h = none)

/-- The n bytes of code at the PC, read from the code capability of the launch (R25, R54). -/
def State.CodeAt (f : State) (bs : List Byte) : Prop :=
  ∃ c, f.codeRec = some c ∧ c.poisoned = false ∧ f.hart.pc.toNat + bs.length ≤ c.len ∧ f.recBytes c bs.length f.hart.pc.toNat = .ok bs

end Machine

end Sys2Proof
end

