-- ==== Sys2Proof/Certificates/Slice0/Obligations.lean ====
section
/-!
DEFINITION. The statements for the provers. Their terms (State.Plain, WroteX and the others) stand in Sys2Proof/Safety.lean.
-/

open Sys2Proof Sys2Proof.Machine

/-- Every operation of MOP 0x01 gives the value of R77 and changes nothing else (R77). Outside a repeat, each of the 26 register operations answers a next state in which x[d] holds the value R77 gives (register 0 takes nothing and reads zero), the stream is past the word, and nothing else of the machine differs: no flag, no memory, no other register. Multiplies make the slot ready 4 clk after the issue and divides 18 clk after it; a divide by zero and the one quotient that does not fit give the values of R77. -/
def Obligations.IntegerRegister : Prop :=
  (∀ (s : State) (d a b : BitVec 5), s.Plain →
      let A := s.x a
      let B := s.x b
      let gives (i : Instr) (w : Word) : Prop := ∃ t, exec i s = .next t ∧ WroteX d w (s.past 4) t
      let bits (i : Instr) (f : Nat → Bool) : Prop := ∃ w, gives i w ∧ ∀ k < 64, w.getLsbD k = f k
      let n := B.toNat % 64
      gives (.add d a b) (BitVec.ofNat 64 ((A.toNat + B.toNat) % 2 ^ 64)) ∧
      gives (.sub d a b) (BitVec.ofInt 64 ((A.toInt - B.toInt) % 2 ^ 64)) ∧
      gives (.min d a b) (BitVec.ofInt 64 (min A.toInt B.toInt)) ∧
      gives (.max d a b) (BitVec.ofInt 64 (max A.toInt B.toInt)) ∧
      gives (.minu d a b) (BitVec.ofNat 64 (min A.toNat B.toNat)) ∧
      gives (.maxu d a b) (BitVec.ofNat 64 (max A.toNat B.toNat)) ∧
      gives (.slt d a b) (if A.toInt < B.toInt then 1 else 0) ∧
      gives (.sltu d a b) (if A.toNat < B.toNat then 1 else 0) ∧
      bits (.and d a b) (fun k => A.getLsbD k && B.getLsbD k) ∧
      bits (.or d a b) (fun k => A.getLsbD k || B.getLsbD k) ∧
      bits (.xor d a b) (fun k => A.getLsbD k != B.getLsbD k) ∧
      bits (.andn d a b) (fun k => A.getLsbD k && !B.getLsbD k) ∧
      gives (.sel d a b) (if s.x d = 0 then B else A) ∧
      bits (.sll d a b) (fun k => decide (n ≤ k) && A.getLsbD (k - n)) ∧
      bits (.srl d a b) (fun k => A.getLsbD (k + n)) ∧
      bits (.sra d a b) (fun k => if k + n < 64 then A.getLsbD (k + n) else A.getLsbD 63)) ∧
  (∀ (s : State) (d a : BitVec 5), s.Plain →
      let A := s.x a
      let gives (i : Instr) (n : Nat) : Prop := ∃ t, exec i s = .next t ∧ WroteX d (BitVec.ofNat 64 n) (s.past 4) t
      (∃ n, gives (.clz d a) n ∧ (∀ k < 64, 63 - k < n → A.getLsbD k = false) ∧ (n = 64 ∨ n < 64 ∧ A.getLsbD (63 - n))) ∧
      (∃ n, gives (.ctz d a) n ∧ (∀ k < n, A.getLsbD k = false) ∧ (n = 64 ∨ n < 64 ∧ A.getLsbD n)) ∧
      gives (.popc d a) ((List.range 64).filter fun k => A.getLsbD k).length) ∧
  (∀ (s : State) (d a b : BitVec 5), s.Plain →
      let A := s.x a
      let B := s.x b
      let gives (i : Instr) (parked : Nat) (w : Word) : Prop :=
        ∃ t, exec i s = .next t ∧ WroteX d w (s.stands (s.hart.pc + 4) (s.clk + parked)) t
      gives (.mul d a b) 4 (BitVec.ofNat 64 (A.toNat * B.toNat)) ∧
      gives (.mulh d a b) 4 (BitVec.ofInt 64 (A.toInt * B.toInt / 2 ^ 64)) ∧
      gives (.mulhu d a b) 4 (BitVec.ofNat 64 (A.toNat * B.toNat / 2 ^ 64)) ∧
      gives (.div d a b) 18 (if B = 0 then BitVec.ofInt 64 (-1) else if A.toInt = -2 ^ 63 ∧ B.toInt = -1 then BitVec.ofInt 64 (2 ^ 63 - 1) else BitVec.ofInt 64 (A.toInt.tdiv B.toInt)) ∧
      gives (.divu d a b) 18 (if B = 0 then BitVec.ofInt 64 (-1) else BitVec.ofNat 64 (A.toNat / B.toNat)) ∧
      gives (.rem d a b) 18 (if B = 0 then A else BitVec.ofInt 64 (A.toInt.tmod B.toInt)) ∧
      gives (.remu d a b) 18 (if B = 0 then A else BitVec.ofNat 64 (A.toNat % B.toNat)))

/-- MOP 0x02 computes with the sign-extended immediate; LUI, ADDPC and the compact moves likewise (R78). ADDI, ANDI, ORI, XORI, SLTI, SLTIU and the three shifts write x[d] from x[a] and the sign-extended immediate; LUI and ADDPC write the upper immediate alone and added to the PC (R79); C.ADDI, C.MOV, C.ADD and C.NOP have the effect of their 32-bit meanings and step 2 bytes (R55). Only x[d] and the PC change. -/
def Obligations.IntegerImmediate : Prop :=
  (∀ (s : State) (d a : BitVec 5) (i : BitVec 12) (k : BitVec 6) (j : BitVec 19), s.Plain →
      let A := s.x a
      let gives (ins : Instr) (w : Word) : Prop := ∃ t, exec ins s = .next t ∧ WroteX d w (s.past 4) t
      let bits (ins : Instr) (f : Nat → Bool) : Prop := ∃ w, gives ins w ∧ ∀ n < 64, w.getLsbD n = f n
      let bit (n : Nat) : Bool := i.getLsbD (min n 11)
      gives (.addi d a i) (BitVec.ofInt 64 (A.toInt + i.toInt)) ∧
      bits (.andi d a i) (fun n => A.getLsbD n && bit n) ∧
      bits (.ori d a i) (fun n => A.getLsbD n || bit n) ∧
      bits (.xori d a i) (fun n => A.getLsbD n != bit n) ∧
      gives (.slti d a i) (if A.toInt < i.toInt then 1 else 0) ∧
      gives (.sltiu d a i) (if A.toNat < (BitVec.ofInt 64 i.toInt).toNat then 1 else 0) ∧
      bits (.slli d a k) (fun n => decide (k.toNat ≤ n) && A.getLsbD (n - k.toNat)) ∧
      bits (.srli d a k) (fun n => A.getLsbD (n + k.toNat)) ∧
      bits (.srai d a k) (fun n => if n + k.toNat < 64 then A.getLsbD (n + k.toNat) else A.getLsbD 63) ∧
      gives (.lui d j) (BitVec.ofInt 64 (j.toInt * 2 ^ 12)) ∧
      gives (.addpc d j) (BitVec.ofInt 64 (s.hart.pc.toInt + j.toInt * 2 ^ 12))) ∧
  (∀ (s : State) (d b : BitVec 5) (i : BitVec 6), s.Plain →
      let gives (ins : Instr) (w : Word) : Prop := ∃ t, exec ins s = .next t ∧ WroteX d w (s.past 2) t
      gives (.cAddi d i) (BitVec.ofInt 64 ((s.x d).toInt + i.toInt)) ∧
      gives (.cMov d b) (s.x b) ∧
      gives (.cAdd d b) (BitVec.ofInt 64 ((s.x d).toInt + (s.x b).toInt)) ∧
      exec .cNop s = .next (s.past 2))

/-- Branches and jumps set the PC as R80 gives (R54, R55, R60, R80). Each conditional branch, in both lengths, goes to PC + offset × 2 when its condition holds and past itself otherwise; C.J and JAL always jump; JAL and JALR write the address after themselves; JALR with an odd target raises ALGN and writes no register. Nothing else changes. -/
def Obligations.Branches : Prop :=
  ∀ (s : State) (a b d : BitVec 5) (i : BitVec 12) (j : BitVec 6) (k : BitVec 20) (l : BitVec 11) (m : BitVec 15), s.Plain →
    let A := s.x a
    let B := s.x b
    let stands (off : Int) : State := s.stands (BitVec.ofInt 64 (s.hart.pc.toInt + off)) s.hart.readyAt
    let branches (ins : Instr) (n : Int) (off : Int) (c : Prop) : Prop := (c → exec ins s = .next (stands (off * 2))) ∧ (¬c → exec ins s = .next (stands n))
    branches (.beq a b i) 4 i.toInt (A = B) ∧
    branches (.bne a b i) 4 i.toInt (A ≠ B) ∧
    branches (.blt a b i) 4 i.toInt (A.toInt < B.toInt) ∧
    branches (.bge a b i) 4 i.toInt (B.toInt ≤ A.toInt) ∧
    branches (.bltu a b i) 4 i.toInt (A.toNat < B.toNat) ∧
    branches (.bgeu a b i) 4 i.toInt (B.toNat ≤ A.toNat) ∧
    branches (.cBeqz a j) 2 j.toInt (A = 0) ∧
    branches (.cBnez a j) 2 j.toInt (A ≠ 0) ∧
    exec (.cJ l) s = .next (stands (l.toInt * 2)) ∧
    (∃ t, exec (.jal d k) s = .next t ∧ WroteX d (s.hart.pc + 4) (stands (k.toInt * 2)) t) ∧
    (let target := BitVec.ofInt 64 (A.toInt + m.toInt)
     (target.getLsbD 0 = false → ∃ t, exec (.jalr d a m) s = .next t ∧ WroteX d (s.hart.pc + 4) (s.stands target s.hart.readyAt) t) ∧
     (target.getLsbD 0 = true → exec (.jalr d a m) s = .next (s.takeTrap { cause := .algn })))

/-- A trap enters the supervisor handler with its causes recorded, and ERET undoes the entry (R69, R101, R103, R118). A trap other than REVK taken at U with a supervisor vector swaps x24 to x31 with their shadows, puts the restart PC in x31 and cause and subcode in x30, saves REPST, sets level S and the PC to the vector, makes the task TRAPPED, fills the fields of ERRST, and leaves x0 to x23 and memory. An ERET right after it restores every register, REPST, the level and the PC. The hypothesis NoPairs leaves out traps that also stop siblings in an exchange or a sweep. The fill of the REVK trap is its own rule (R24). -/
def Obligations.TrapEntry : Prop :=
  (∀ (s : State) (tr : TrapInfo) (stream : Nat) (pc : Word), s.Handled → tr.cause ≠ .revk → tr.sub < 256 →
      let t := s.takeTrapAt tr stream pc
      EnteredHandler tr.cause.code tr.sub s.vector pc s t ∧
      wordBits 7 0 t.hart.errst = tr.cause.code ∧ wordBits 15 8 t.hart.errst = tr.sub ∧ wordBits 31 16 t.hart.errst = tr.detail.toNat ∧
      wordBits 35 32 t.hart.errst = (match tr.handle with | some h => h.toNat | none => 0) ∧
      wordBits 36 36 t.hart.errst = (if tr.handle.isSome then 1 else 0) ∧
      wordBits 39 38 t.hart.errst = stream % 4 ∧ wordBits 47 40 t.hart.errst = wordBits 47 40 s.hart.errst ∧
      wordBits 54 54 t.hart.errst = (if s.task.pendErr.isSome then 1 else 0) ∧
      wordBits 55 55 t.hart.errst = (if tr.imprecise then 1 else 0)) ∧
  (∀ (s : State) (tr : TrapInfo) (stream : Nat) (pc : Word), s.Handled → tr.cause ≠ .revk → pc.getLsbD 0 = false → s.hart.errstSeiz = none →
      ∃ t, exec .eret (s.takeTrapAt tr stream pc) = .next t ∧
        (∀ r, t.x r = s.x r) ∧ t.hart.repst = s.hart.repst ∧ t.hart.level = .u ∧ t.hart.pc = pc ∧ t.task.state = .running ∧ t.mem = s.mem)

/-- TRAP, BKPT and ERET (R104). TRAP enters the handler with cause SYSC, restart at the next instruction and ERRST.detail from x[a][15:0]; BKPT enters it with BRKP; ERET at S gives the shadows back, sets the PC from x31, the level to U and the task to RUNNING; an odd x31 raises ALGN and an ERET at U raises ILL. -/
def Obligations.TrapInstructions : Prop :=
  (∀ (s : State) (a : BitVec 5), s.Handled →
      (∃ t, exec (.trap a) s = .next t ∧ EnteredHandler 13 0 s.vector (s.hart.pc + 4) s t ∧ wordBits 31 16 t.hart.errst = wordBits 15 0 (s.x a)) ∧
      (∃ t, exec .bkpt s = .next t ∧ EnteredHandler 14 0 s.vector (s.hart.pc + 4) s t)) ∧
  (∀ s : State,
      (s.hart.level = .u → exec .eret s = .next (s.takeTrap { cause := .ill })) ∧
      (s.hart.level = .s → (s.x 31).getLsbD 0 = true → exec .eret s = .next (s.takeTrap { cause := .algn })) ∧
      (s.hart.level = .s → (s.x 31).getLsbD 0 = false → s.hart.errstSeiz = none → ∃ t, exec .eret s = .next t ∧
        (∀ r : BitVec 5, r.toNat < 24 → t.x r = s.x r) ∧
        (∀ i : Fin 8, t.hart.x[24 + i.val] = s.hart.ssh[i.val] ∧ t.hart.ssh[i.val] = s.hart.x[24 + i.val]) ∧
        t.hart = { s.hart with x := t.hart.x, ssh := t.hart.ssh, repst := s.hart.repstS, repstS := 0, level := .u, pc := s.x 31 } ∧
        t.task = { s.task with state := .running, handler := none, exiting := false } ∧ t.mem = s.mem))

/-- EVTH, EVRET and EWAIT (R107). EVTH installs handler and enables when its operands are legal and raises ILL otherwise; EVRET raises ILL while no event is active, ALGN for an odd x31, and otherwise gives x24 to x31 and REPST back, clears active and sets the PC; EWAIT with nothing to wait for steps past itself. -/
def Obligations.UserEvents : Prop :=
  ∀ (s : State) (a b : BitVec 5), s.Plain →
    (let legal := (s.x a).getLsbD 0 = false ∧ wordBits 63 48 (s.x a) = 0 ∧ wordBits 63 3 (s.x b) = 0
     (¬legal → exec (.evth a b) s = .next (s.takeTrap { cause := .ill })) ∧
     (legal → ∃ w, exec (.evth a b) s = .next ((s.past 4).setHart { (s.past 4).hart with evhpc := w }) ∧
        wordBits 47 0 w = (s.x a).toNat ∧ wordBits 50 48 w = (s.x b).toNat ∧ wordBits 62 51 w = 0 ∧ wordBits 63 63 w = wordBits 63 63 s.hart.evhpc)) ∧
    (wordBits 63 63 s.hart.evhpc = 0 → exec .evret s = .next (s.takeTrap { cause := .ill })) ∧
    (wordBits 63 63 s.hart.evhpc = 1 → (s.x 31).getLsbD 0 = true → exec .evret s = .next (s.takeTrap { cause := .algn })) ∧
    (wordBits 63 63 s.hart.evhpc = 1 → (s.x 31).getLsbD 0 = false → ∃ t, exec .evret s = .next t ∧
      (∀ r : BitVec 5, r.toNat < 24 → t.x r = s.x r) ∧
      (∀ i : Fin 8, t.hart.x[24 + i.val] = s.hart.ush[i.val] ∧ t.hart.ush[i.val] = s.hart.x[24 + i.val]) ∧
      t.hart.repst = s.hart.repstU ∧ t.hart.repstU = 0 ∧ t.hart.pc = s.x 31 ∧
      wordBits 63 63 t.hart.evhpc = 0 ∧ wordBits 62 0 t.hart.evhpc = wordBits 62 0 s.hart.evhpc ∧
      t.task = s.task ∧ t.mem = s.mem) ∧
    (s.releaseWait = none → s.task.pendErr = none → exec .ewait s = .next (s.past 4))

/-- RDS and WRS of the special registers (R12, R64, R65, R66, R105). RDS writes the named register to x[d]; WRS of FCTL, FFLG, LFSR, FS and OX writes a legal value; registers without write access, and supervisor registers at U, raise ILL and change nothing. The slot may issue again from the next clock: that no special register takes longer is the model's reading of R109. -/
def Obligations.SpecialRegisters : Prop :=
  ∀ (s : State) (d b : BitVec 5), s.Plain →
    let reads (n : Nat) (w : Word) : Prop := ∃ t, exec (.rds d (BitVec.ofNat 12 n)) s = .next t ∧ WroteX d w (s.stands (s.hart.pc + 4) (s.clk + 1)) t
    let after (h : Hart) : State := s.setHart { h with pc := s.hart.pc + 4, wait := none, met := none, order := none, walkFail := none, readyAt := s.clk + 1 }
    let writes (n : Nat) (h : Hart) : Prop := exec (.wrs b (BitVec.ofNat 12 n)) s = .next (after h)
    let refuses (i : Instr) : Prop := exec i s = .next (s.takeTrap { cause := .ill })
    let w := s.x b
    reads 0x000 (BitVec.ofNat 64 s.task.tid.toNat) ∧ reads 0x001 s.hart.geo ∧ reads 0x002 s.hart.fctl ∧ reads 0x003 s.hart.fflg ∧
    reads 0x004 s.hart.lfsr ∧ reads 0x005 s.hart.repst ∧ reads 0x006 s.hart.evhpc ∧ reads 0x008 s.task.deadline ∧
    reads 0x009 (BitVec.ofNat 64 (s.task.prio * 256 + s.task.prioBase)) ∧ reads 0x00A s.hart.inj ∧ reads 0x00B s.hart.errst ∧
    (∀ k : Fin 4, reads (0x020 + k) s.hart.fs[k]) ∧ (∀ k : Fin 8, reads (0x030 + k) s.hart.ox[k]) ∧
    (s.hart.level = .u → refuses (.rds d 0x00D) ∧ refuses (.rds d 0x00E) ∧ refuses (.wrs b 0x005) ∧ refuses (.wrs b 0x007) ∧ refuses (.wrs b 0x008) ∧ refuses (.wrs b 0x00B)) ∧
    (refuses (.wrs b 0x000) ∧ refuses (.wrs b 0x001)) ∧
    (w.toNat < 16 → w.toNat % 8 ≤ 4 → writes 0x002 { s.hart with fctl := w }) ∧
    (w.toNat < 32 → writes 0x003 { s.hart with fflg := w }) ∧
    (w.toNat < 2 ^ 32 → writes 0x004 { s.hart with lfsr := if w = 0 then 1 else w }) ∧
    (w.toNat < 32 → ∀ k : Fin 4, writes (0x020 + k) { s.hart with fs := s.hart.fs.set k w }) ∧
    (∀ k : Fin 8, writes (0x030 + k) { s.hart with ox := s.hart.ox.set k w })

/-- Scalar floating point: results, flags, the generator and the time of each operation (R62, R65, R130, R132, R133, R134, R135, R146, R147, R148). FADD, FSUB, FMUL, FMA, FDIV and FSQRT round once in their mode and step the generator under RS only; FMIN, FMAX, FCMP and FCLASS do not round; every FCVT selector converts between its two types, integers clamped to their range; divides and square roots park 12 or 24 clk. Flags accumulate in FFLG. FCMP with a NaN is true for .un and .ne only, and .lt and .le then raise NV. -/
def Obligations.ScalarFloat : Prop :=
  (∀ (s : State) (d a b : BitVec 5) (r : Rnd) (p : Prec) (c : FCond), s.Plain →
      let A := s.fpRead p a
      let B := s.fpRead p b
      let steps := s.mode r = .rs
      let env : Env := { fmt := precFmt p, mode := s.mode r, ftz := s.ftz, u := if steps then lfsrLow s.hart.lfsr else 0 }
      let lfsr := if steps then stepWord s.hart.lfsr else s.hart.lfsr
      let rounds (i : Instr) (clks : Nat) (v : Nat × FFlags) : Prop := ∃ t, exec i s = .next t ∧ WroteF d v lfsr (s.stands (s.hart.pc + 4) (s.clk + clks)) t
      let picks (i : Instr) (v : Nat × FFlags) : Prop := ∃ t, exec i s = .next t ∧ WroteF d v s.hart.lfsr (s.past 4) t
      let long := match p with | .f32 => 12 | .f64 => 24
      rounds (.fadd d a b r p) 1 (fpAdd env A B) ∧
      rounds (.fsub d a b r p) 1 (fpSub env A B) ∧
      rounds (.fmul d a b r p) 1 (fpMul env A B) ∧
      rounds (.fma d a b r p) 1 (fpFma env false A B (s.fpRead p d)) ∧
      rounds (.fdiv d a b r p) long (fpDiv env A B) ∧
      rounds (.fsqrt d a r p) long (fpSqrt env A) ∧
      picks (.fmin d a b p) (fpMinMax { fmt := precFmt p, mode := .rne, ftz := s.ftz } false A B) ∧
      picks (.fmax d a b p) (fpMinMax { fmt := precFmt p, mode := .rne, ftz := s.ftz } true A B) ∧
      picks (.fcmp d a b c p) (if (fpCompare c A B).1 then 1 else 0, (fpCompare c A B).2) ∧
      (∃ t, exec (.fclass d a p) s = .next t ∧ WroteX d (BitVec.ofNat 64 (fpClass (precFmt p) (precCode p (s.x a)))) (s.past 4) t)) ∧
  (∀ (s : State) (d a : BitVec 5) (r : Rnd) (p : Prec), s.Plain →
      let A := s.fpRead p a
      let X := s.x a
      let steps := s.mode r = .rs
      let u := if steps then lfsrLow s.hart.lfsr else 0
      let env (f : FpFmt) : Env := { fmt := f, mode := s.mode r, ftz := s.ftz, u := u }
      let lfsr := if steps then stepWord s.hart.lfsr else s.hart.lfsr
      let gives (c : Conv) (v : Nat × FFlags) : Prop := ∃ t, exec (.fcvt d a c r p) s = .next t ∧ WroteF d v lfsr (s.past 4) t
      let clamped (lo hi : Int) : Nat × FFlags := ((BitVec.ofInt 64 (fpToInt (s.mode r) u lo hi A).1).toNat, (fpToInt (s.mode r) u lo hi A).2)
      let float (src dst : FpFmt) : Nat × FFlags := fpConvert (env dst) (src.read s.ftz (X.toNat % 2 ^ src.width))
      let other := match p with | .f32 => fp64 | .f64 => fp32
      gives .otherPrec (float (precFmt p) other) ∧ gives .toBf16 (float (precFmt p) bf16) ∧ gives .ofBf16 (float bf16 (precFmt p)) ∧
      gives .toF16 (float (precFmt p) fp16) ∧ gives .ofF16 (float fp16 (precFmt p)) ∧
      gives .toI64 (clamped (-2 ^ 63) (2 ^ 63 - 1)) ∧ gives .toU64 (clamped 0 (2 ^ 64 - 1)) ∧
      gives .toI32 (clamped (-2 ^ 31) (2 ^ 31 - 1)) ∧ gives .toU32 (clamped 0 (2 ^ 32 - 1)) ∧
      gives .ofI64 (fpOfInt (env (precFmt p)) X.toInt) ∧ gives .ofU64 (fpOfInt (env (precFmt p)) X.toNat) ∧
      gives .ofI32 (fpOfInt (env (precFmt p)) (X.setWidth 32).toInt) ∧ gives .ofU32 (fpOfInt (env (precFmt p)) (X.toNat % 2 ^ 32 : Nat))) ∧
  (∀ (s : State) (d a b : BitVec 5) (p : Prec), s.Plain → d ≠ 0 → ((s.fpRead p a).isNaN = true ∨ (s.fpRead p b).isNaN = true) →
      ∀ c, ∃ t, exec (.fcmp d a b c p) s = .next t ∧ t.x d = (if c = .un ∨ c = .ne then 1 else 0) ∧
        (c = .lt ∨ c = .le → t.hart.fflg = s.hart.fflg ||| 16))

/-- A load whose checks pass reads its bytes, and its slot waits for them (R3, R61, R81, R82, R108, R109, R121). Each load of MOP 0x08, C.LD, LDV and OXL whose checks pass and whose bytes stand at an address of this device without errors or older stores of the stream writes the little-endian value, extended as its kind says, and its slot waits for the latency of the level. OXLH and OXLI write an extension register from a handle and from a register. Only the destination, the PC and the wait change. That the value is read at issue is the model's choice (log 10). -/
def Obligations.LoadsComplete : Prop :=
  (∀ (s : State) (d : BitVec 5) (h : BitVec 4) (x : BitVec 5) (i : BitVec 8) (n2 : BitVec 2) (o4 : BitVec 4) (c : CapRec) (a : Nat), s.Plain →
      let off (n : Nat) : Word := s.x x + BitVec.ofNat 64 (i.toNat * n)
      let due := s.clk + s.homeLatency (.mem a)
      let undo : Undo := { pc := s.hart.pc, repst := s.hart.repst, x := some (d, s.x d) }
      let loads (ins : Instr) (n : Nat) (v : Int) : Prop :=
        s.Loads h (off n) n c a → ∃ t, exec ins s = .next t ∧ WroteX d (BitVec.ofInt 64 v) (s.awaits 4 due undo) t
      loads (.ldB d h x i) 1 (signedNat 1 (s.little a 1)) ∧ loads (.ldBu d h x i) 1 (s.little a 1) ∧
      loads (.ldH d h x i) 2 (signedNat 2 (s.little a 2)) ∧ loads (.ldHu d h x i) 2 (s.little a 2) ∧
      loads (.ldW d h x i) 4 (signedNat 4 (s.little a 4)) ∧ loads (.ldWu d h x i) 4 (s.little a 4) ∧
      loads (.ldD d h x i) 8 (s.little a 8) ∧
      (s.Loads (n2.zeroExtend 4) (BitVec.ofNat 64 (o4.toNat * 8)) 8 c a →
        ∃ t, exec (.cLd d n2 o4) s = .next t ∧ WroteX d (BitVec.ofNat 64 (s.little a 8)) (s.awaits 2 due undo) t)) ∧
  (∀ (s : State) (d : BitVec 5) (h : BitVec 4) (x : BitVec 5) (i : BitVec 8) (n : BitVec 3) (j : BitVec 15) (c : CapRec) (a : Nat), s.Plain →
      let due := s.clk + s.homeLatency (.mem a)
      (s.rowWait [d] = none → s.Loads h (s.x x + BitVec.ofNat 64 (i.toNat * 64)) 64 c a →
        exec (.ldv d h x i) s = .next ((s.awaits 4 due { pc := s.hart.pc, repst := s.hart.repst, v := some (d, s.v d) }).setV d (BitVec.ofNat 512 (s.little a 64)))) ∧
      (s.Loads h (BitVec.ofInt 64 (j.toInt * 8)) 8 c a →
        exec (.oxl n h j) s = .next ((s.awaits 4 due { pc := s.hart.pc, repst := s.hart.repst }).setOX n (BitVec.ofNat 64 (s.little a 8)))) ∧
      exec (.oxlH n h) s = .next ((s.past 4).setOX n (s.handle h)) ∧
      exec (.oxli n d j) s = .next ((s.past 4).setOX n (BitVec.ofInt 64 ((s.x d).toInt + j.toInt))))

/-- The order of the checks of an access (R24, R28, R42, R81). A handle is checked for NULL, OWN, revocation, poison and rights in that order; an access whose handle fails takes that trap; otherwise an offset that is not aligned raises ALGN, a range past the length CAPV LEN, and an access that the state refuses CAPV with its subcode. -/
def Obligations.AccessChecks : Prop :=
  (∀ (s : State) (d : BitVec 5) (h : BitVec 4) (x : BitVec 5) (i : BitVec 8) (n2 : BitVec 2) (o4 : BitVec 4), s.Plain →
      let trapsAt (n : Nat) (off : Word) (h : BitVec 4) (need : Rights) (use : Use) (ins : Instr) : Prop :=
        (∀ t, s.checkHandle h need = .error t → exec ins s = .next (s.takeTrap t)) ∧
        (∀ c, s.checkHandle h need = .ok c →
          (off.toNat % n ≠ 0 → exec ins s = .next (s.takeTrap { cause := .algn, handle := some h })) ∧
          (off.toNat % n = 0 → c.len < off.toNat + n → exec ins s = .next (s.takeTrap { cause := .capv, sub := subLEN, handle := some h })) ∧
          (off.toNat % n = 0 → off.toNat + n ≤ c.len → ∀ sub, s.admits c use = .no sub →
            exec ins s = .next (s.takeTrap { cause := .capv, sub := sub, handle := some h })))
      let traps (n : Nat) (need : Rights) (use : Use) (ins : Instr) : Prop := trapsAt n (s.x x + BitVec.ofNat 64 (i.toNat * n)) h need use ins
      traps 1 needRD (.load false) (.ldB d h x i) ∧ traps 1 needRD (.load false) (.ldBu d h x i) ∧
      traps 2 needRD (.load false) (.ldH d h x i) ∧ traps 2 needRD (.load false) (.ldHu d h x i) ∧
      traps 4 needRD (.load true) (.ldW d h x i) ∧ traps 4 needRD (.load true) (.ldWu d h x i) ∧ traps 8 needRD (.load true) (.ldD d h x i) ∧
      traps 1 needWR (.store false) (.stB d h x i) ∧ traps 2 needWR (.store false) (.stH d h x i) ∧
      traps 4 needWR (.store true) (.stW d h x i) ∧ traps 8 needWR (.store true) (.stD d h x i) ∧
      traps 4 needWR (.store true) (.stlW d h x i) ∧ traps 8 needWR (.store true) (.stlD d h x i) ∧
      (s.rowWait [d] = none → traps 64 needRD (.load false) (.ldv d h x i) ∧ traps 64 needWR (.store false) (.stv d h x i)) ∧
      trapsAt 8 (BitVec.ofNat 64 (o4.toNat * 8)) (n2.zeroExtend 4) needRD (.load true) (.cLd d n2 o4) ∧
      trapsAt 8 (BitVec.ofNat 64 (o4.toNat * 8)) (n2.zeroExtend 4) needWR (.store true) (.cSt d n2 o4)) ∧
  (∀ (s : State) (h : BitVec 4) (need : Rights),
      let w := s.handle h
      (w = 0 → s.checkHandle h need = .error { cause := .capv, sub := subNULL, handle := some h }) ∧
      (w ≠ 0 → s.rec? (imgOf w) = none → s.checkHandle h need = .error { cause := .capv, sub := subOWN, handle := some h }) ∧
      (w ≠ 0 → ∀ c, s.rec? (imgOf w) = some c →
        (c.usableBy s.task = false → s.checkHandle h need = .error { cause := .capv, sub := subOWN, handle := some h }) ∧
        (c.usableBy s.task = true → c.revoked = true → s.checkHandle h need = .error { cause := .revk, handle := some h }) ∧
        (c.usableBy s.task = true → c.revoked = false → s.quireBad.contains c.img = true ∨ c.poisoned = true → s.checkHandle h need = .error { cause := .merr, handle := some h }) ∧
        (c.usableBy s.task = true → c.revoked = false → s.quireBad.contains c.img = false → c.poisoned = false →
          (c.rights.lacks need = true → s.checkHandle h need =
            .error { cause := .capv, sub := (if c.kind = .frac ∧ need.wr = true ∧ c.rights.wr = false then subFRAC else subRGT), handle := some h }) ∧
          (c.rights.lacks need = false → s.checkHandle h need = .ok c))))

/-- A store retires into the store buffer, and its entry later writes exactly its bytes (R61, R81, R82, R83, R115). Each store whose checks pass and that needs a new place adds one youngest entry with its bytes, mask, home and order to the buffer of its tile and steps past itself; memory is unchanged. Draining an entry writes the bytes of its mask at its home, leaves every other byte of memory, and takes the entry away. -/
def Obligations.StoresRetire : Prop :=
  (∀ (s : State) (b : BitVec 5) (h : BitVec 4) (x : BitVec 5) (i : BitVec 8) (n2 : BitVec 2) (o4 : BitVec 4) (c : CapRec) (a : Nat), s.Plain →
      let off (n : Nat) : Word := s.x x + BitVec.ofNat 64 (i.toNat * n)
      let stores (ins : Instr) (n v : Nat) (release : Bool) : Prop :=
        s.Stores h (off n) n release c a → ∃ t, exec ins s = .next t ∧ Retired s t 4 h (off n).toNat n v release c a
      let w := (s.x b).toNat
      stores (.stB b h x i) 1 (w % 2 ^ 8) false ∧ stores (.stH b h x i) 2 (w % 2 ^ 16) false ∧
      stores (.stW b h x i) 4 (w % 2 ^ 32) false ∧ stores (.stD b h x i) 8 w false ∧
      stores (.stlW b h x i) 4 (w % 2 ^ 32) true ∧ stores (.stlD b h x i) 8 w true ∧
      (s.rowWait [b] = none → stores (.stv b h x i) 64 (s.v b).toNat false) ∧
      (s.Stores (n2.zeroExtend 4) (BitVec.ofNat 64 (o4.toNat * 8)) 8 false c a →
        ∃ t, exec (.cSt b n2 o4) s = .next t ∧ Retired s t 2 (n2.zeroExtend 4) (o4.toNat * 8) 8 w false c a)) ∧
  (∀ (s : State) (tile idx : Nat) (e : SbEntry) (a : Nat), s.Canonical → s.drains tile idx = true → (s.tileAt tile).sb[idx]? = some e →
      e.home = .mem a → a + 64 ≤ 2 ^ 41 →
      ∃ t, exec (.storeBufferDrain tile idx) s = .next t ∧
        (∀ k < 64, e.mask.getLsbD k = true → memGet (a + k) t.mem = BitVec.ofNat 8 (e.data.toNat / 256 ^ k)) ∧
        (∀ k < 64, e.mask.getLsbD k = false → memGet (a + k) t.mem = memGet (a + k) s.mem) ∧
        (∀ b, (b < a ∨ a + 64 ≤ b) → memGet b t.mem = memGet b s.mem) ∧
        (t.tileAt tile).sb = (s.tileAt tile).sb.eraseIdx idx ∧ t.hart = s.hart ∧ t.task = s.task)

/-- AMO, CAS and LDA (R84, R85, R86, R109). Each AMO reads the old word into x[d], sign-extended, and leaves the word R85 gives; CAS writes the new word only when the old one matches and says so in x[d + 1]; LDA reads. Every other byte of memory is as before, and the slot waits for the reply. The time of the reply is the model's lower end (log 7). -/
def Obligations.AtomicsPerform : Prop :=
  ∀ (s : State) (d : BitVec 5) (e : BitVec 4) (h : BitVec 4) (b : BitVec 5) (z : Sz) (o : Order) (c : CapRec) (a : Nat),
    let n := szBytes z
    s.Plain → s.Canonical → s.Atomic h (s.x b) n o c a →
    let old := s.little a n
    let past (t : State) : Prop := t.hart.pc = s.hart.pc + 4 ∧ t.hart.wait = some (.reply (s.clk + s.homeLatency (.mem a) + 1)) ∧ t.task = s.task
    let leaves (t : State) (w : Nat) : Prop := t.little a n = w ∧ ∀ p, (p < a ∨ a + n ≤ p) → memGet p t.mem = memGet p s.mem
    let reads (v : Nat) : Word := BitVec.ofInt 64 (signedNat n v)
    (∀ i ∈ [Instr.amoAdd d h b z o, .amoAnd d h b z o, .amoOr d h b z o, .amoXor d h b z o, .amoMin d h b z o, .amoMax d h b z o,
            .amoMinu d h b z o, .amoMaxu d h b z o, .amoSwap d h b z o],
      ∃ t, exec i s = .next t ∧ past t ∧ (∀ r, t.x r = if r = 0 then 0 else if r = d then reads old else s.x r) ∧
        leaves t (amoLeaves n old ((s.x d).toNat % 256 ^ n) i)) ∧
    (let lo := BitVec.ofNat 5 (2 * e.toNat)
     let hit := old = (s.x lo).toNat % 256 ^ n
     ∃ t, exec (.cas e h b z o) s = .next t ∧ past t ∧
       (∀ r, t.x r = if r = 0 then 0 else if r = lo then reads old else if r = lo + 1 then (if hit then 1 else 0) else s.x r) ∧
       leaves t (if hit then (s.x (lo + 1)).toNat % 256 ^ n else old)) ∧
    (s.find h (s.x b) n needRD (.load true) false = .at_ c (.mem a) s → isView a = false → s.ownPosted (.mem a) n = [] →
      ∃ t, exec (.lda d h b z) s = .next t ∧ WroteX d (reads old)
        (s.awaits 4 (s.clk + s.homeLatency (.mem a)) { pc := s.hart.pc, repst := s.hart.repst, x := some (d, s.x d) }) t)

/-- CALLOC makes a root and CFREE ends one (R20, R22, R23, R42, R43, R44, R45, R384). CALLOC with legal operands and a free record and storage writes handle hd with the image of a new root whose fields are those of R44, and without them leaves the handle empty; CFREE of a root frees the record, revokes its fractions and reads its tile or cluster storage as zero, and of a COMMONS duplicate counts the root down. Which storage and record a CALLOC takes is the model's choice (log 12). -/
def Obligations.CapabilityCreate : Prop :=
  (∀ (s : State) (d : BitVec 4) (a b : BitVec 5) (l : ALevel), s.Plain →
      let n := (s.x a).toNat
      let desc := s.x b
      let k := kindOfCode (wordBits 25 24 desc)
      s.handle d = 0 → wordBits 63 26 desc = 0 → kindFits k l = true → 0 < n → n ≤ levelMax l → (k = .phase → n % 256 = 0) →
      (s.freeRecord (dieOf s.tile.idx) = none ∨ s.takeStorage l k n = none → exec (.calloc d a b l) s = .next (s.past 4)) ∧
      ∀ img base u, s.freeRecord (dieOf s.tile.idx) = some img → s.takeStorage l k n = some (base, u) →
        ∃ t c, exec (.calloc d a b l) s = .next t ∧ WroteHandle d (15 * 2 ^ 24 + img) 4 s t ∧ OtherRecords [img] s t ∧ t.rec? img = some c ∧
          c.base = base ∧ c.len = n ∧ c.kind = k ∧ c.level = levelOf l ∧ c.owner = s.task.tid ∧ c.asid = s.task.asid ∧ c.state = .full ∧
          c.rights = ⟨true, true, true, true⟩ ∧ c.count = (if k = .commons then 1 else 0) ∧ c.version = 0 ∧ c.isRoot = true ∧
          c.format.toNat = wordBits 4 0 desc ∧ c.shape.toNat = wordBits 20 5 desc ∧ c.packable = (wordBits 21 21 desc == 1) ∧
          c.replayable = (wordBits 22 22 desc == 1) ∧ c.far = (wordBits 23 23 desc == 1) ∧ c.poisoned = false ∧ c.revoked = false ∧ t.mem = u.mem) ∧
  (∀ (s : State) (a : BitVec 4) (c : CapRec), s.Plain → s.Canonical → s.checkHandle a needNone = .ok c →
      (c.owner = launchOwner → exec (.cfree a) s = .next (s.takeTrap { cause := .capv, sub := subKIND, handle := some a })) ∧
      (c.owner ≠ launchOwner → s.admits c .free = .ok → ∃ t, exec (.cfree a) s = .next t ∧ WroteHandle a 0 4 s t ∧
        (c.kind ≠ .commons → c.level ≠ .peer → t.rec? c.img = none ∧
          (∀ i f, i ≠ c.img → s.rec? i = some f → t.rec? i = some (if f.kind = .frac ∧ f.root = c.img then { f with revoked := true } else f)) ∧
          (c.level = .tile ∨ c.level = .cluster → c.window = false →
            ∀ p, memGet p t.mem = if c.base ≤ p ∧ p < c.base + storageSize c.level c.kind c.len then 0 else memGet p s.mem)) ∧
        (c.kind = .commons → c.isRoot = false → c.root ≠ c.img → ∀ r, s.rec? c.root = some r → 1 < r.count →
          t.rec? c.img = none ∧ t.rec? c.root = some { r with count := r.count - 1 } ∧ OtherRecords [c.img, c.root] s t ∧ t.mem = s.mem)))

/-- CGET reads the record (R46). CGET of an empty handle writes 0; of a named record it writes the length, the status word, the version, the count, format and shape, the owner, the rights or the image, by its selector, and changes nothing else. -/
def Obligations.CapabilityRead : Prop :=
  ∀ (s : State) (d : BitVec 5) (a : BitVec 4), s.Plain →
    let gives (sel : BitVec 3) (n : Nat) : Prop := ∃ t, exec (.cget d a sel) s = .next t ∧ WroteX d (BitVec.ofNat 64 n) (s.past 4) t
    (s.handle a = 0 → ∀ sel, gives sel 0) ∧
    (∀ c, s.handle a ≠ 0 → s.rec? (imgOf (s.handle a)) = some c →
      gives 0 c.len ∧
      gives 1 ((s.capState c).code + 4 * c.kind.code + 16 * c.level.code + 256 * c.poisoned.toNat + 512 * c.revoked.toNat + 1024 * c.frozen.toNat) ∧
      gives 2 (s.capVersion c).toNat ∧ gives 3 (s.capCount c) ∧ gives 4 (c.format.toNat + 32 * c.shape.toNat) ∧ gives 5 c.owner.toNat ∧
      gives 6 (8 * c.rights.root.toNat + 4 * c.rights.xfer.toNat + 2 * c.rights.wr.toNat + c.rights.rd.toNat) ∧ gives 7 (s.handle a).toNat)

/-- CNARROW, CSPLIT and CJOIN keep the shares of a root (R23, R29, R43, R47, R48, R384). CNARROW ANDs the rights and moves the handle, and raises CAPV FRAC when it would drop ROOT with shares outstanding; CSPLIT takes n shares from a root or a fraction into a new FRAC record; CJOIN gives the shares of one record to another and frees it. All other records, handles and memory are as before. -/
def Obligations.CapabilityShares : Prop :=
  (∀ (s : State) (d a m : BitVec 4) (c : CapRec), s.Plain → (s.handle d = 0 ∨ d = a) → s.checkHandle a needNone = .ok c → c.owner ≠ launchOwner →
      let r : Rights := ⟨c.rights.root && m.getLsbD 3, c.rights.xfer && m.getLsbD 2, c.rights.wr && m.getLsbD 1, c.rights.rd && m.getLsbD 0⟩
      let parts := c.rights.root = true ∧ r.root = false ∧ c.kind = .excl ∧ c.count ≠ 0
      (parts → exec (.cnarrow d a m) s = .next (s.takeTrap { cause := .capv, sub := subFRAC, handle := some a })) ∧
      (¬parts → ∃ t, exec (.cnarrow d a m) s = .next t ∧ OtherRecords [c.img] s t ∧ t.rec? c.img = some { c with rights := r } ∧
        t.handle d = BitVec.ofNat 64 ({ c with rights := r } : CapRec).image ∧ (a ≠ d → t.handle a = 0) ∧
        (∀ e, e ≠ d → e ≠ a → t.handle e = s.handle e) ∧ t.hart = (s.past 4).hart ∧ t.task = { s.task with h := t.task.h } ∧ t.mem = s.mem)) ∧
  ((∀ (s : State) (d a : BitVec 4) (b : BitVec 5) (c : CapRec) (img : Nat), s.Plain → (s.handle d = 0 ∨ d = a) → s.checkHandle a needXFER = .ok c →
      s.admits c .split = .ok → s.freeRecord (c.root / 2 ^ 20) = some img → c.proxy = none →
      let n := (s.x b).toNat
      (c.kind = .excl → c.root = c.img → 1 ≤ n → c.count + n ≤ 64 → ∃ t f, exec (.csplit d a b) s = .next t ∧ WroteHandle d (5 * 2 ^ 24 + img) 4 s t ∧
        t.rec? img = some f ∧ c.SharesOf img n s.task.tid f ∧ f.root = c.img ∧ t.rec? c.img = some { c with count := c.count + n, written := false } ∧
        OtherRecords [img, c.img] s t ∧ t.mem = s.mem) ∧
      (c.kind = .frac → c.root ≠ c.img → c.root ≠ img → 1 ≤ n → n < c.count → ∃ t f, exec (.csplit d a b) s = .next t ∧ WroteHandle d (5 * 2 ^ 24 + img) 4 s t ∧
        t.rec? img = some f ∧ c.SharesOf img n s.task.tid f ∧ f.root = c.root ∧ t.rec? c.img = some { c with count := c.count - n } ∧
        OtherRecords [img, c.img, c.root] s t ∧ t.mem = s.mem)) ∧
    (∀ (s : State) (a b : BitVec 4) (ca cb : CapRec), s.Plain → s.checkHandle a needNone = .ok ca → s.checkHandle b needNone = .ok cb → a ≠ b →
      cb.kind = .frac → ca.rootKey = cb.rootKey → ca.img ≠ cb.img →
      ∃ t, exec (.cjoin a b) s = .next t ∧ WroteHandle b 0 4 s t ∧ t.rec? cb.img = none ∧
        t.rec? ca.img = some { ca with count := if ca.isRoot then ca.count - cb.count else ca.count + cb.count } ∧
        OtherRecords [ca.img, cb.img] s t ∧ t.mem = s.mem))

/-- CREVOKE, CMARK and CWAIT (R27, R31, R32, R51, R52, R53). CREVOKE revokes the fractions its mode names, counts the root down by their shares and moves its version and its revocation version on; CMARK moves FULL to FILLING, FILLING to FULL, and clears poison in the root and its fractions; CWAIT goes on when its condition holds, and .joined of a record that is no root raises CAPV KIND. -/
def Obligations.CapabilityStates : Prop :=
  (∀ (s : State) (a : BitVec 4) (m : RevMode) (c : CapRec), s.Plain → s.checkHandle a needROOT = .ok c → c.grants = [] →
      let hit (f : CapRec) : Bool := f.kind == .frac && f.root == c.img && f.proxy.isNone && !f.revoked && (m == .all || f.frozen)
      let gone := s.quire.filter hit
      (gone = [] → exec (.crevoke a m) s = .next (s.past 4)) ∧
      (gone ≠ [] → hit c = false → ∃ t, exec (.crevoke a m) s = .next t ∧ t.hart = (s.past 4).hart ∧ t.task = s.task ∧ t.mem = s.mem ∧
        (∀ i f, s.rec? i = some f → hit f = true → ∃ f', t.rec? i = some f' ∧ f'.revoked = true) ∧
        ∃ r, t.rec? c.img = some r ∧ r.count = c.count - (gone.map (·.count)).sum ∧ r.version = c.version + 1 ∧ r.revVersion = r.version)) ∧
  (∀ (s : State) (a : BitVec 4) (c : CapRec), s.Plain → c.kind = .excl → c.isRoot = true → c.count = 0 →
      let marks (i : Instr) (c' : CapRec) : Prop := ∃ t, exec i s = .next t ∧ t.hart = (s.past 4).hart ∧ t.task = s.task ∧ t.mem = s.mem ∧
        OtherRecords [c.img] s t ∧ t.rec? c.img = some c'
      (s.checkHandle a needWR = .ok c → c.state = .full → marks (.cmarkFill a) { c with state := .filling, filler := s.task.tid }) ∧
      (s.checkHandle a needWR = .ok c → c.state = .filling → c.writers = 0 → s.releaseWait = none → marks (.cmarkFull a) { c with state := .full }) ∧
      (s.checkHandle a needWR true = .ok c → c.state = .full → ∃ t, exec (.cmarkClrp a) s = .next t ∧ t.hart = (s.past 4).hart ∧ t.task = s.task ∧ t.mem = s.mem ∧
        ∀ i f, s.rec? i = some f → t.rec? i = some (if i = c.img ∨ (f.kind = .frac ∧ f.root = c.img) then { f with poisoned := false } else f))) ∧
  (∀ (s : State) (a : BitVec 4) (c : CapRec), s.Plain → s.checkHandle a needNone = .ok c →
      (s.capState c = .full → exec (.cwait a .full) s = .next (s.past 4)) ∧
      (s.capState c ≠ .draining → exec (.cwait a .nodr) s = .next (s.past 4)) ∧
      (c.isRoot = true → s.capCount c = 0 → exec (.cwait a .joined) s = .next (s.past 4)) ∧
      (c.isRoot = false → exec (.cwait a .joined) s = .next (s.takeTrap { cause := .capv, sub := subKIND, handle := some a })))

/-- CSEND parks its capability and sends its message (R33, R34, R35, R41, R49, R121). CSEND.keep, .move and .auto to a task or a tile inbox with room empty the handle, park the record, and put one message on its way with the payload, sender and ASID; to a task that has ended the capability comes back to the sender's own inbox with outcome 3; CSEND.dup keeps the handle, counts the COMMONS root up and sends a new record. Messages arrive after the mesh latency. -/
def Obligations.SendMessage : Prop :=
  ∀ (s : State) (d : BitVec 5) (a : BitVec 4) (b : BitVec 5) (c : CapRec) (target : Nat), s.Plain → s.checkHandle a needXFER = .ok c →
    (let sends (i : Instr) (policy : Nat) (toTask : Bool) : Prop :=
      s.x d = BitVec.ofNat 64 (target * 2 ^ 32 + if toTask then 0 else 1) → s.admits c (.send policy) = .ok → s.releaseWait = none →
      (toTask = true → target < 2 ^ 32 → ∀ r, s.taskAt? (BitVec.ofNat 32 target) = some r → s.taskInboxFull r = false →
        ∃ t, exec i s = .next t ∧ t.hart = (s.past 4).hart ∧ (∀ e, t.handle e = if e = a then 0 else s.handle e) ∧
          t.rec? c.img = some { c with owner := noOwner, written := false } ∧ t.mem = s.mem ∧
          OnItsWay s t ⟨s.nextId, s.message c.img b, policy, none, r.tid, none, none, 0⟩ (s.clk + s.mesh s.tile.idx r.tile)) ∧
      (toTask = true → target < 2 ^ 32 → s.taskAt? (BitVec.ofNat 32 target) = none → s.task.state ≠ .exited → s.task.inbox.length < 8 → s.task.returns = [] →
        ∃ t, exec i s = .next t ∧ t.hart = (s.past 4).hart ∧ t.handle a = 0 ∧ t.task.inbox = s.task.inbox ++ [{ s.message c.img b with outcome := 3 }]) ∧
      (toTask = false → target < 40960 → s.tenantOn target s.task.asid = true → s.tileInboxFull target = false →
        ∃ t, exec i s = .next t ∧ t.hart = (s.past 4).hart ∧ (∀ e, t.handle e = if e = a then 0 else s.handle e) ∧
          t.rec? c.img = some { c with owner := noOwner, written := false } ∧ t.mem = s.mem ∧
          OnItsWay s t ⟨s.nextId, s.message c.img b, policy, some target, 0, none, none, 0⟩ (s.clk + s.mesh s.tile.idx target))
     ∀ toTask, sends (.csendKeep d a b) 0 toTask ∧ sends (.csendMove d a b) 1 toTask ∧ sends (.csendAuto d a b) 2 toTask) ∧
    (∀ img r, s.x d = BitVec.ofNat 64 (target * 2 ^ 32) → target < 2 ^ 32 → c.kind = .commons → c.img ≠ c.root → s.releaseWait = none →
      s.freeRecord (c.root / 2 ^ 20) = some img → img ≠ c.root → s.taskAt? (BitVec.ofNat 32 target) = some r → s.taskInboxFull r = false → ∀ root, s.rec? c.root = some root →
      ∃ t f, exec (.csendDup d a b) s = .next t ∧ t.hart = (s.past 4).hart ∧ (∀ e, t.handle e = s.handle e) ∧
        t.rec? img = some f ∧ f.root = c.root ∧ f.kind = .commons ∧ f.rights = c.rights ∧ f.owner = noOwner ∧
        t.rec? c.img = some c ∧ t.rec? c.root = some { root with count := root.count + 1, written := false } ∧
        OnItsWay s t ⟨s.nextId, s.message img b, 3, none, r.tid, none, none, 0⟩ (s.clk + s.mesh s.tile.idx r.tile))

/-- CRECV takes the oldest message, and messages arrive (R34, R35, R49, R50, R190). CRECV from the task inbox or of its ASID from the tile inbox writes the capability to hd with the task as its owner, the payload pair and the status word; .poll of an empty inbox writes zeros. CSEND_DELIVERY, MOVE_BYTES_LANDED and BOUNCE_ENQUEUE append their message to the inbox of the task and set its event; TILE_ASID_CLEAR takes the husks and cache entries of a departed ASID away. -/
def Obligations.ReceiveMessage : Prop :=
  (∀ (s : State) (d : BitVec 4) (p x : BitVec 5), s.Plain → s.handle d = 0 →
      (∀ m rest, s.task.inbox = m :: rest → ∀ o ∈ [RecvOpt.task, .poll],
        ∃ t, exec (.crecv d p x o) s = .next t ∧ Received d p x m s t ∧ t.task.inbox = rest ∧ t.task.targets = [] ∧
          (s.task.returns ≠ [] → (s.clk, .bounceEnqueue s.task.tid) ∈ t.agenda)) ∧
      (∀ l m rest, s.tile.inbox = l ++ m :: rest → (∀ k ∈ l, k.asid ≠ s.task.asid) → m.asid = s.task.asid → ∀ o ∈ [RecvOpt.tile, .tilePoll],
        ∃ t, exec (.crecv d p x o) s = .next t ∧ Received d p x m s t ∧ t.tile.inbox = l ++ rest) ∧
      (s.task.inbox = [] → ∃ t, exec (.crecv d p x .poll) s = .next t ∧ (∀ e, t.handle e = s.handle e) ∧
        (∀ r, t.x r = if r = 0 ∨ r = x ∨ (p ≠ 0 ∧ (r = p ∨ r = p + 1)) then 0 else s.x r) ∧ t.hart = { (s.past 4).hart with x := t.hart.x } ∧ t.mem = s.mem)) ∧
  ((∀ (s : State) (x : Transit) (r : Task), s.transits.find? (fun t => t.id == x.id && t.moving.isNone) = some x → x.ring = none →
      x.policy = 0 ∨ x.policy = 3 → x.toTile = none → s.taskAt? x.toTid = some r → r.state ≠ .exited →
      ∃ t, exec (.csendDelivery x.id) s = .next t ∧ t.transits = s.transits.filter (fun y => y.id != x.id) ∧ t.hart = s.hart ∧ t.quire = s.quire ∧ t.mem = s.mem ∧
        t.taskAt? x.toTid = some { r with inbox := r.inbox ++ [x.msg], ev2 := r.ev2 || r.inbox.isEmpty }) ∧
    (∀ (s : State) (id : Nat) (x : Transit) (img : Nat) (c n : CapRec) (bytes : List Byte) (r : Task), s.transits.find? (fun t => t.id == id) = some x → x.id = id → x.moving = some img →
      x.msg.cap.bind s.rec? = some c → s.rec? img = some n → c.img ≠ img → s.readUpTo c c.len 0 = (bytes, none) → x.toTile = none → s.taskAt? x.toTid = some r → r.state ≠ .exited →
      ∃ t, exec (.moveBytesLanded id) s = .next t ∧ t.rec? c.img = none ∧ t.transits = s.transits.filter (fun y => y.id != id) ∧
        t.taskAt? x.toTid = some { r with inbox := r.inbox ++ [{ x.msg with cap := some img, outcome := 1 }], ev2 := r.ev2 || r.inbox.isEmpty }) ∧
    (∀ (s : State) (tid : Tid) (r : Task) (m : Msg) (rest : List Msg), s.taskAt? tid = some r → r.state ≠ .exited → r.returns = m :: rest → r.inbox.length < 8 →
      ∃ t, exec (.bounceEnqueue tid) s = .next t ∧ t.hart = s.hart ∧ t.quire = s.quire ∧ t.mem = s.mem ∧
        t.taskAt? tid = some { r with returns := rest, inbox := r.inbox ++ [m], ev2 := r.ev2 || r.inbox.isEmpty }) ∧
    (∀ (s : State) (tile : Nat) (asid : Asid), (s.tenantStands tile asid && s.asidLive asid) = false → (∀ m ∈ (s.tileAt tile).inbox, m.asid ≠ asid) →
      ∃ t, exec (.tileAsidClear tile asid) s = .next t ∧ (∀ k : Fin 16, ((s.tileAt tile).husks[k].bound = true ∧ (s.tileAt tile).husks[k].asid = asid → (t.tileAt tile).husks[k] = Husk.blank)) ∧
        (t.tileAt tile).cache = (s.tileAt tile).cache.filter (fun e => e.asid != asid) ∧ t.hart = s.hart ∧ t.task = s.task ∧ t.mem = s.mem))

/-- Queue registers append at the tail and remove at the head (R55, R87, R88, R89, R90). QW and VQW append to a register with room and QR and VQR remove the oldest entry, in both lengths; the other queue registers, and every other part of the task but its record of writers and readers, are as before. The wrong half of the register numbers raises ILL. -/
def Obligations.QueueRegisters : Prop :=
  ∀ (s : State) (b d : BitVec 5) (n : BitVec 3), s.Plain →
    (∀ l, s.task.holds n l → l.length < 16 → s.releaseWait = none → ∀ p ∈ [(Instr.qw b n, 4), (.cQw b n, 2)],
      ∃ t, exec p.1 s = .next t ∧ t.hart = (s.past p.2).hart ∧ t.mem = s.mem ∧ t.task.holds n (l ++ [s.x b]) ∧
        (∀ m k, m ≠ n → s.task.holds m k → t.task.holds m k) ∧ s.hart.no ∈ t.task.writers[n.toNat] ∧ t.task = { s.task with q := t.task.q, writers := t.task.writers }) ∧
    (∀ w l, s.task.holds n (w :: l) → ∀ p ∈ [(Instr.qr d n, 4), (.cQr d n, 2)],
      ∃ t, exec p.1 s = .next t ∧ (∀ r, t.x r = if r = 0 then 0 else if r = d then w else s.x r) ∧ t.hart = { (s.past p.2).hart with x := t.hart.x } ∧ t.mem = s.mem ∧
        t.task.holds n l ∧ (∀ m k, m ≠ n → s.task.holds m k → t.task.holds m k) ∧ s.hart.no ∈ t.task.readers[n.toNat] ∧ t.task = { s.task with q := t.task.q, readers := t.task.readers }) ∧
    (∀ l, s.task.holdsRows n l → l.length < 4 → s.rowWait [b] = none → s.releaseWait = none →
      ∃ t, exec (.vqw b n) s = .next t ∧ t.hart = (s.past 4).hart ∧ t.mem = s.mem ∧ t.task.holdsRows n (l ++ [⟨s.v b, none⟩]) ∧
        (∀ m k, m ≠ n → s.task.holdsRows m k → t.task.holdsRows m k) ∧ s.hart.no ∈ t.task.writers[n.toNat] ∧ t.task = { s.task with qv := t.task.qv, writers := t.task.writers }) ∧
    (∀ w l, s.task.holdsRows n (⟨w, none⟩ :: l) → s.rowWait [d] = none →
      ∃ t, exec (.vqr d n) s = .next t ∧ (∀ r, t.v r = if r = d then w else s.v r) ∧ t.hart = { (s.past 4).hart with v := t.hart.v } ∧ t.mem = s.mem ∧
        t.task.holdsRows n l ∧ (∀ m k, m ≠ n → s.task.holdsRows m k → t.task.holdsRows m k) ∧ s.hart.no ∈ t.task.readers[n.toNat]) ∧
    (4 ≤ n.toNat → ∀ i ∈ [Instr.qw b n, .cQw b n, .qr d n, .cQr d n], exec i s = .next (s.takeTrap { cause := .ill })) ∧
    (n.toNat < 4 → ∀ i ∈ [Instr.vqw b n, .vqr d n], exec i s = .next (s.takeTrap { cause := .ill }))

/-- Channels to a neighbour, SFORK and SJOIN (R15, R91, R92, R226, R227, R228, R229). CHW, with no other access of its side of the channel before it, takes a credit and sends a word to the neighbour, and CHR takes the oldest word of a direction and returns a credit, each with its delay; the word, the credit and the mark of a neighbour that has ended arrive at the task; SFORK starts the lowest free sibling on a free slot with the start state of R91 and writes its number, or 0 when both are live; SJOIN goes on once the streams it names have ended. -/
def Obligations.Siblings : Prop :=
  ((∀ (s : State) (b : BitVec 5) (d : Dir) (l : Launch) (nb : Nat × Nat) (r : Task), s.Plain → s.Neighbour d l nb r →
      s.Served (.chanOut d) → s.task.gone[dirIx d] = false → 0 < s.task.credits[dirIx d] → s.releaseWait = none →
      let due := s.clk + channelLatency s.tile.idx (tileIx (l.row + nb.1) (l.col + nb.2))
      ∃ t, exec (.chw b d) s = .next t ∧ t.hart = (s.past 4).hart ∧ t.mem = s.mem ∧
        t.task = { s.task with credits := s.task.credits.set (dirIx d) (s.task.credits[dirIx d] - 1) } ∧
        t.taskAt? r.tid = some { r with arriving := r.arriving.set (dirIx (dirOpposite d)) (r.arriving[dirIx (dirOpposite d)] ++ [(due, s.x b)]) } ∧
        (due, .channelWordArrival r.tid (dirOpposite d)) ∈ t.agenda) ∧
    (∀ (s : State) (x : BitVec 5) (d : Dir) (l : Launch) (nb : Nat × Nat) (r : Task) (w : Word) (ws : List Word), s.Plain → s.Neighbour d l nb r →
      s.Served (.chanIn d) → s.task.chan[dirIx d] = w :: ws →
      ∃ t, exec (.chr x d) s = .next t ∧ (∀ k, t.x k = if k = 0 then 0 else if k = x then w else s.x k) ∧ t.hart = { (s.past 4).hart with x := t.hart.x } ∧
        t.task = { s.task with chan := s.task.chan.set (dirIx d) ws } ∧ t.mem = s.mem ∧
        (s.clk + channelLatency s.tile.idx (tileIx (l.row + nb.1) (l.col + nb.2)), .channelCreditReturn r.tid (dirOpposite d)) ∈ t.agenda) ∧
    (∀ (s : State) (tid : Tid) (d : Dir) (r : Task), s.taskAt? tid = some r → r.state ≠ .exited →
      let becomes (i : Instr) (r' : Task) : Prop := ∃ t, exec i s = .next t ∧ t.taskAt? tid = some r' ∧ t.hart = s.hart ∧ t.mem = s.mem ∧ t.quire = s.quire
      (∀ due w q, r.arriving[dirIx d] = (due, w) :: q → becomes (.channelWordArrival tid d)
        { r with arriving := r.arriving.set (dirIx d) q, chan := r.chan.set (dirIx d) (r.chan[dirIx d] ++ [w]) }) ∧
      (r.credits[dirIx d] < 4 → becomes (.channelCreditReturn tid d) { r with credits := r.credits.set (dirIx d) (r.credits[dirIx d] + 1) }) ∧
      becomes (.neighbourExitedFlag tid d) { r with gone := r.gone.set (dirIx d) true })) ∧
  (∀ (s : State) (d a b : BitVec 5), s.Plain → s.hart.live = true → s.hart.tid = s.task.tid →
      let live := (s.hartsOf s.task.tid).map (·.no)
      ((s.x a).getLsbD 0 = true → exec (.sfork d a b) s = .next (s.takeTrap { cause := .algn })) ∧
      ((s.x a).getLsbD 0 = false → 1 ∈ live → 2 ∈ live → ∃ t, exec (.sfork d a b) s = .next t ∧ WroteX d 0 (s.past 4) t) ∧
      ((s.x a).getLsbD 0 = false → ∀ k slot rest, (k = 1 ∧ 1 ∉ live ∨ k = 2 ∧ 1 ∈ live ∧ 2 ∉ live) → s.freeSlots s.tile.idx = slot :: rest → (s.lineUp .fork).forkRoom = true → s.releaseWait = none →
        ∃ t h, exec (.sfork d a b) s = .next t ∧ (∀ r, t.x r = if r = 0 then 0 else if r = d then BitVec.ofNat 64 k else s.x r) ∧ t.hart = { (s.past 4).hart with x := t.hart.x } ∧
          t.mem = s.mem ∧ t.hartAt? s.task.tid k = some h ∧ h.pc = s.x a ∧ h.slot = some slot ∧ h.tile = s.hart.tile ∧ h.level = .u ∧ h.wait = none ∧
          (∀ r : BitVec 5, h.getX r = if r = 10 then s.x b else if r = 11 then BitVec.ofNat 64 k else 0) ∧ h.fs = s.hart.fs ∧ h.fctl = s.hart.fctl ∧ h.fflg = 0) ∧
      ((∀ n, n ≠ s.hart.no → ((s.x a = 1 ∨ s.x a = 2) → (s.x a).toNat ≠ s.hart.no → n = (s.x a).toNat) → n ∉ live) → exec (.sjoin a) s = .next (s.past 4)))

/-- SPAWN and SPAWNAT make a task from a record (R5, R8, R9, R10, R94, R280). A SPAWN whose record passes its checks writes the new TID, counts the join counter up unless the task is detached, and makes a task with the fields of the record, QUEUED or TIMED by its release time; SPAWNAT of a record with one handle gives that capability to a pinned task on the tile that holds the buffer's byte 0. Where the TID sequence starts is the model's choice (log 6). -/
def Obligations.SpawnTask : Prop :=
  (∀ (s : State) (d : BitVec 5) (h : BitVec 4) (b : BitVec 5) (p : List Word) (lat : Nat) (tid : Tid), s.Plain → s.Spawns h (s.x b) p lat tid →
      ∃ t r, exec (.spawn d h b) s = .next t ∧ (∀ k, t.x k = if k = 0 then 0 else if k = d then tid.zeroExtend 64 else s.x k) ∧
        t.hart = { (s.past 4).hart with x := t.hart.x, readyAt := s.clk + lat } ∧ t.mem = s.mem ∧
        t.task = { s.task with join := if pf p 0 5 5 = 0 then s.task.join + 1 else s.task.join } ∧
        t.taskAt? tid = some r ∧ r.state = (if s.ptp < (pw p 3).toNat then .timed else .queued) ∧ r.parent = s.task.tid ∧ r.asid = s.task.asid ∧
        r.launch = s.task.launch ∧ r.arg = pw p 5 ∧ r.deadline = pw p 2 ∧ r.prioBase = pf p 0 21 16 ∧ r.tile = s.tile.idx ∧ r.detached = (pf p 0 5 5 == 1)) ∧
  (∀ (s : State) (d : BitVec 5) (h : BitVec 4) (b : BitVec 5) (p : List Word) (k : BitVec 4) (c : CapRec) (v : Nat) (tid : Tid) (u : State), s.Plain →
      (∃ f, s.Reads h (s.x b) 64 false f v) →
      p = ((List.range 8).map fun i => BitVec.ofNat 64 (s.little (v + 8 * i) 8)) → s.r5 p = true → s.recordOk p true = true → handleFields p = [(0, k.toNat)] →
      s.passHandle k = .ok c → c.owner ≠ launchOwner → c.level = .tile → s.dequeFull (c.base / 2 ^ 18) = false →
      ¬(s.ptp < (pw p 3).toNat ∧ s.wheelFull (dieOf (c.base / 2 ^ 18)) = true) → s.task.join < 65535 → s.releaseWait = none →
      s.newTid s.tile.idx = some (tid, u) → s.taskAt? tid = none → tid ≠ s.task.tid →
      ∃ t r, exec (.spawnat d h b) s = .next t ∧ (∀ i, t.x i = if i = 0 then 0 else if i = d then tid.zeroExtend 64 else s.x i) ∧ t.mem = s.mem ∧
        (∀ e, t.handle e = if e = k then 0 else s.handle e) ∧ t.rec? c.img = some { c with owner := noOwner } ∧ OtherRecords [c.img] s t ∧
        t.taskAt? tid = some r ∧ r.tile = c.base / 2 ^ 18 ∧ r.parent = s.task.tid ∧ r.h[0] = BitVec.ofNat 64 c.image ∧ r.pinned = true)

/-- YIELD, WAKEAT and JOINW keep or leave the slot (R13, R14, R55, R95, R96, R97, R269). A YIELD that no queued record outranks clears the watchdog and goes on; one that is outranked becomes QUEUED with its context saved; WAKEAT of a time that has passed acts as YIELD, and of a time to come leaves the slot as TIMED; JOINW goes on at zero. A slot that is left is free again 48 clk later. -/
def Obligations.YieldAndWake : Prop :=
  ∀ (s : State) (a : BitVec 5), s.Plain →
    (s.task.join = 0 → exec .joinw s = .next (s.past 4)) ∧
    (s.task.pendErr = none → (s.alone && s.outranked) = false → ∀ q ∈ [(Instr.yield, 4), (.cYield, 2)],
      exec q.1 s = .next ((s.past q.2).setTask { s.task with watchdog := 0 })) ∧
    (s.task.pendErr = none → s.hart.met ≠ some (.time (s.x a)) → (s.x a).toNat ≤ s.ptp → (s.alone && s.outranked) = false →
      exec (.wakeat a) s = .next ((s.past 4).setTask { s.task with watchdog := 0 })) ∧
    (s.hart.met = some (.time (s.x a)) → exec (.wakeat a) s = .next (s.past 4)) ∧
    (∀ k p, s.hart.slot = some k → k < 8 → s.hart.no = 0 → s.hart.tile = s.tile.idx → s.task.tile = s.tile.idx → s.alone = true → s.saveWait = none → s.framePlace s.tile.idx = some p →
      s.wheelFull (dieOf s.tile.idx) = false →
      let left (i : Instr) (st : TaskState) (t : State) : Prop := exec i s = .next t ∧ t.hart = { (s.past 4).hart with slot := none } ∧ t.task.state = st ∧
        t.task.frame = [(p, 4736)] ∧ t.tile.freeAt.toArray.getD k 0 = s.clk + 48
      (s.ptp < (s.x a).toNat → s.hart.met ≠ some (.time (s.x a)) → ∃ t, left (.wakeat a) .timed t ∧
        (s.dieAt (dieOf s.tile.idx)).wheel.length < (t.dieAt (dieOf s.tile.idx)).wheel.length) ∧
      (s.task.pendErr = none → s.outranked = true → s.dequeFull s.tile.idx = false → s.tile.deque.length < 32 → s.tile.dequeAt ≤ s.clk → s.tile.waiting = [] → ∃ t q, left .yield .queued t ∧
        t.tile.deque = s.tile.deque ++ [q] ∧ q.item.tid = s.task.tid ∧ q.clk = s.clk ∧ q.item.saved = true))

/-- EXIT of a sibling ends the stream, and of stream 0 the task (R16, R19, R20, R98). EXIT of a sibling takes its stream away and frees its slot; EXIT of stream 0 with no sibling ends the task, empties its handles, and counts the parent's join counter down. Of a task that holds one record, a root is freed, the shares of a fraction join the root, a COMMONS holder is counted down, and a PHASE buffer is marked as its holder's and keeps no count. -/
def Obligations.ExitStream : Prop :=
  ∀ s : State,
    (s.hart.level = .u → s.hart.no ≠ 0 → s.task.pendErr = none → s.releaseWait = none → ∃ t, exec .exit s = .next t ∧
      t.hart = { s.hart with live := false, slot := none, wait := none } ∧ t.task = s.task ∧ t.mem = s.mem ∧ t.quire = s.quire) ∧
    (s.hart.level = .u → s.hart.no = 0 → s.hart.live = true → s.hart.tid = s.task.tid → s.task.state ≠ .exited → (s.hartsOf s.task.tid) = [s.hart] → s.task.join = 0 →
      s.taskQuiet s.task.tid s.task.tile = true → s.hart.posted = [] → s.task.pendErr = none →
      ∃ t, exec .exit s = .next t ∧ t.task.state = .exited ∧ t.hart.live = false ∧ t.hart.slot = none ∧ (∀ e, t.handle e = 0) ∧
        (∀ c, s.holdings s.task = [c.img] → s.rec? c.img = some c → c.owner ≠ launchOwner → c.fromLaunch = none → c.revoked = false → c.proxy = none →
          (c.kind = .excl → c.level ≠ .peer → t.rec? c.img = none) ∧
          (∀ r, s.rec? c.root = some r → c.root ≠ c.img →
            (c.kind = .frac → t.rec? c.img = none ∧ t.rec? c.root = some { r with count := r.count - c.count }) ∧
            (c.kind = .commons → 2 ≤ r.count → t.rec? c.img = none ∧ t.rec? c.root = some { r with count := r.count - 1 })) ∧
          (c.kind = .phase → ∀ ph, c.phase = some ph → t.rec? c.img = some { c with owner := noOwner, phase := some { ph with exited := true, counts := Vector.replicate 4 0 } })) ∧
        ∀ p q, s.task.detached = false → s.task.parent = p → p ≠ 0 → p ≠ s.task.tid → s.taskAt? p = some q → q.state ≠ .exited → ∃ q', t.taskAt? p = some q' ∧ q'.join = q.join - 1)

/-- Vector floating point works lane by lane under its mask (R70, R129, R130, R132, R133, R134, R142, R144, R149, R150, R155). VADD, VSUB, VMUL, VFMA, VFNMA, VSQRT and VDIV write each active lane with the lane operation rounded once in the mode of FCTL, step the generator once a lane under RS, and VMIN and VMAX pick without rounding; inactive lanes are kept, and the flags raised are those of the active lanes. VSQRT and VDIV park the slot 12 clk. Only v[d], FFLG, LFSR and the PC change. -/
def Obligations.VectorFloat : Prop :=
  ∀ (s : State) (d a b : BitVec 5) (e : Et) (k : BitVec 2), s.Plain → s.RowsFree → e.isFloat = true →
    let w := e.width
    let m := s.hart.getM k
    let A (i : Nat) : Fp := (laneFmt e).read s.ftz (laneOf w (s.v a) i)
    let B (i : Nat) : Fp := (laneFmt e).read s.ftz (laneOf w (s.v b) i)
    let D (i : Nat) : Fp := (laneFmt e).read s.ftz (laneOf w (s.v d) i)
    let rs := fctlMode s.hart.fctl = .rs
    let gen (i : Nat) : Word := if rs then generatorAfter (activeUpTo m i) s.hart.lfsr else s.hart.lfsr
    let env (i : Nat) : Env := { fmt := laneFmt e, mode := fctlMode s.hart.fctl, ftz := s.ftz, u := (gen i).toNat % 65536 }
    let exact : Env := { fmt := laneFmt e, mode := .rne, ftz := s.ftz }
    let rounds (ins : Instr) (clks : Nat) (f : Nat → Nat × FFlags) : Prop := ∃ t fl, exec ins s = .next t ∧
      WroteV d w e.lanes (fun i => if m.getLsbD i then (f i).1 else laneOf w (s.v d) i)
        ((s.stands (s.hart.pc + 4) (s.clk + clks)).setHart { (s.stands (s.hart.pc + 4) (s.clk + clks)).hart with fflg := fl, lfsr := gen (e.lanes - 1) }) t ∧
      FlagsOf e.lanes (fun i => if m.getLsbD i then (f i).2 else 0) s.hart.fflg fl
    let picks (ins : Instr) (f : Nat → Nat × FFlags) : Prop := ∃ t fl, exec ins s = .next t ∧
      WroteV d w e.lanes (fun i => if m.getLsbD i then (f i).1 else laneOf w (s.v d) i) ((s.past 4).setHart { (s.past 4).hart with fflg := fl }) t ∧
      FlagsOf e.lanes (fun i => if m.getLsbD i then (f i).2 else 0) s.hart.fflg fl
    rounds (.vadd d a b e k) 1 (fun i => fpAdd (env i) (A i) (B i)) ∧
    rounds (.vsub d a b e k) 1 (fun i => fpSub (env i) (A i) (B i)) ∧
    rounds (.vmul d a b e k) 1 (fun i => fpMul (env i) (A i) (B i)) ∧
    rounds (.vfma d a b e k) 1 (fun i => fpFma (env i) false (A i) (B i) (D i)) ∧
    rounds (.vfnma d a b e k) 1 (fun i => fpFma (env i) true (A i) (B i) (D i)) ∧
    rounds (.vsqrt d a e k) 12 (fun i => fpSqrt (env i) (A i)) ∧
    rounds (.vdiv d a b e k) 12 (fun i => fpDiv (env i) (A i) (B i)) ∧
    picks (.vmin d a b e k) (fun i => fpMinMax exact false (A i) (B i)) ∧
    picks (.vmax d a b e k) (fun i => fpMinMax exact true (A i) (B i))

/-- The vector special functions (R140, R141, R145, R155). VRCP, VRSQ, VEXP, VEXP2, VLOG, VLOG2, VTANH and VSIGM of the wide float types write each active lane with the special function of the lane and keep inactive lanes; the flags raised are those of the active lanes, and everything else is as before. Within the bounds of R140 the value is a free choice (log 3), and the statement holds for every choice. The special values of the table of R140 do not depend on it, and each function is monotonic: an operand further along has reached every code that one before it has. VLOG of an infinity is the model's choice (log 3) and is not stated. -/
def Obligations.VectorSpecial : Prop :=
  ∀ (s : State) (d a : BitVec 5) (e : Et) (k : BitVec 2), s.Plain → s.RowsFree → e.isWideFloat = true →
    let w := e.width
    let m := s.hart.getM k
    let A (i : Nat) : Fp := (laneFmt e).read s.ftz (laneOf w (s.v a) i)
    let env : Env := { fmt := laneFmt e, mode := .rne, ftz := s.ftz }
    let computes (ins : Instr) (fn : SpecialFn) : Prop :=
      let r (i : Nat) : Nat × FFlags := fn.apply env (fn.reached e (laneOf w (s.v a) i)) (A i)
      ∃ t fl, exec ins s = .next t ∧ WroteV d w e.lanes (fun i => if m.getLsbD i then (r i).1 else laneOf w (s.v d) i) ((s.past 4).setHart { (s.past 4).hart with fflg := fl }) t ∧
        FlagsOf e.lanes (fun i => if m.getLsbD i then (r i).2 else 0) s.hart.fflg fl
    computes (.vrcp d a e k) .rcp ∧ computes (.vrsq d a e k) .rsq ∧ computes (.vexp d a e k) .exp ∧ computes (.vexp2 d a e k) .exp2 ∧
    computes (.vlog d a e k) .log ∧ computes (.vlog2 d a e k) .log2 ∧ computes (.vtanh d a e k) .tanh ∧ computes (.vsigm d a e k) .sigm ∧
    (∀ (p : Bool → Nat → Bool) (neg : Bool) (n : Nat) (x : Int), let f := env.fmt
      SpecialFn.rcp.apply env p (.inf neg) = (f.signBit neg, 0) ∧ SpecialFn.rcp.apply env p (.fin neg 0 x) = (f.infCode false neg, flDZ) ∧
      SpecialFn.rsq.apply env p (.inf false) = (f.signBit false, 0) ∧ SpecialFn.rsq.apply env p (.inf true) = env.invalid ∧ SpecialFn.rsq.apply env p (.fin neg 0 x) = (f.infCode false neg, flDZ) ∧
      SpecialFn.rsq.apply env p (.fin true (n + 1) x) = env.invalid ∧
      (∀ fn ∈ [SpecialFn.exp, .exp2], fn.apply env p (.inf true) = (f.signBit false, 0) ∧ fn.apply env p (.inf false) = (f.infCode false false, 0) ∧ fn.apply env p (.fin neg 0 x) = (f.oneCode, 0)) ∧
      (∀ fn ∈ [SpecialFn.log, .log2], fn.apply env p (.fin neg 0 x) = (f.infCode false true, flDZ) ∧ fn.apply env p (.fin true (n + 1) x) = env.invalid ∧ fn.apply env p (.inf true) = env.invalid) ∧
      SpecialFn.log2.apply env p (.inf false) = (f.infCode false false, 0) ∧ SpecialFn.log.apply env p (.fin false 1 0) = (f.signBit false, 0) ∧
      SpecialFn.tanh.apply env p (.fin neg 0 x) = (f.signBit neg, 0) ∧ SpecialFn.tanh.apply env p (.inf neg) = (f.signBit neg + f.oneCode, 0) ∧
      SpecialFn.sigm.apply env p (.fin neg 0 x) = (f.halfCode, 0) ∧ SpecialFn.sigm.apply env p (.inf true) = (f.signBit false, 0) ∧ SpecialFn.sigm.apply env p (.inf false) = (f.oneCode, 0)) ∧
    (∀ (fn : SpecialFn) (neg : Bool) (c c' code : Nat), fn.rank w neg c ≤ fn.rank w neg c' → fn.reached e c neg code = true → fn.reached e c' neg code = true) ∧
    (∀ (fn : SpecialFn) (p : Bool → Nat → Bool) (neg : Bool) (n : Nat) (x : Int), let y := fn.exact env.fmt neg n x
      ¬(y.m = 0 ∧ y.sticky = false) → env.fmt.exactly y = false → fn.codes env.fmt neg y ≠ [] →
      ∃ c ∈ fn.codes env.fmt neg y, fn.give env p neg n x =
        if env.fmt.maxCode < c then (env.fmt.infCode false y.neg, flOF ||| flNX)
        else env.fmt.flush env.ftz (env.fmt.signBit y.neg + c, (if c < 2 ^ env.fmt.mbits then flUF else 0) ||| flNX))

/-- Vector integer, logic and shift operations (R70, R142, R144, R150, R151, R152). VIADD, VISUB, VIMUL and VIMAC wrap or saturate as the s bit says, VAND, VOR, VXOR and the three shifts act on each lane, and VABS and VNEG change only the sign bit; inactive lanes, flags and everything else are as before. -/
def Obligations.VectorInteger : Prop :=
  ∀ (s : State) (d a b : BitVec 5) (e : Et) (k : BitVec 2) (sat : Bool), s.Plain → s.RowsFree →
    let w := e.width
    let m := s.hart.getM k
    let A (i : Nat) : Nat := laneOf w (s.v a) i
    let B (i : Nat) : Nat := laneOf w (s.v b) i
    let D (i : Nat) : Nat := laneOf w (s.v d) i
    let gives (ins : Instr) (f : Nat → Nat) : Prop := ∃ t, exec ins s = .next t ∧ WroteV d w e.lanes (fun i => if m.getLsbD i then f i else D i) (s.past 4) t
    let lo : Int := -2 ^ (w - 1)
    let hi : Int := 2 ^ (w - 1) - 1
    let narrow (x : Int) : Nat := ((if sat then max lo (min hi x) else x) % 2 ^ w).toNat
    let I (c : Nat) : Int := if c < 2 ^ (w - 1) then c else c - 2 ^ w
    gives (.viadd d a b e k sat) (fun i => narrow (I (A i) + I (B i))) ∧
    gives (.visub d a b e k sat) (fun i => narrow (I (A i) - I (B i))) ∧
    gives (.vimul d a b e k sat) (fun i => narrow (I (A i) * I (B i))) ∧
    gives (.vimac d a b e k sat) (fun i => narrow (I (D i) + I (A i) * I (B i))) ∧
    gives (.vand d a b e k) (fun i => A i &&& B i) ∧
    gives (.vor d a b e k) (fun i => A i ||| B i) ∧
    gives (.vxor d a b e k) (fun i => A i ^^^ B i) ∧
    gives (.vshl d a b e k) (fun i => if w ≤ B i then 0 else A i * 2 ^ B i) ∧
    gives (.vshr d a b e k) (fun i => if w ≤ B i then 0 else A i / 2 ^ B i) ∧
    gives (.vsra d a b e k) (fun i => (I (A i) / 2 ^ min (B i) w % 2 ^ w).toNat) ∧
    gives (.vabs d a e k) (fun i => A i % 2 ^ (w - 1)) ∧
    gives (.vneg d a e k) (fun i => A i + 2 ^ (w - 1))

/-- Permutes, broadcasts, immediates, transposes, masks and compares (R71, R142, R144, R153, R154, R160, R161, R163, R166). VPERM, VBCAST in its three forms, VSEL, VMOVI, VADDI, VMULI and VTRN write the lanes their rules give; the mask operations work bit by bit; VCMP writes one bit for each active lane and zero elsewhere, with the flags of the active lanes for a float type; an unsigned compare of a float type raises ILL. -/
def Obligations.VectorMoves : Prop :=
  (∀ (s : State) (d a b : BitVec 5) (e : Et) (k : BitVec 2) (imm : BitVec 16), s.Plain → s.RowsFree →
      let w := e.width
      let m := s.hart.getM k
      let A (i : Nat) : Nat := laneOf w (s.v a) i
      let gives (ins : Instr) (f : Nat → Nat) : Prop := ∃ t, exec ins s = .next t ∧ WroteV d w e.lanes f (s.past 4) t
      let masked (f : Nat → Nat) (i : Nat) : Nat := if m.getLsbD i then f i else laneOf w (s.v d) i
      let value (j : Nat) : Nat := laneImmediate e imm j
      gives (.vperm d a b e k) (masked fun i => A (laneOf w (s.v b) i % e.lanes)) ∧
      gives (.vbcast d a e k) (masked fun _ => (s.x a).toNat) ∧
      (b.toNat < e.lanes → gives (.vbcastLane d a b e k) (masked fun _ => A b.toNat)) ∧
      (b.toNat + 32 < e.lanes → gives (.vbcastLaneHigh d a b e k) (masked fun _ => A (b.toNat + 32))) ∧
      gives (.vsel d a b e k) (fun i => if m.getLsbD i then A i else laneOf w (s.v b) i) ∧
      gives (.vmovi d e imm) value ∧
      gives (.vaddi d e imm) (fun i => laneOf w (s.v d) i + value i) ∧
      (e.isFloat = true → ∃ t fl, exec (.vmuli d e imm) s = .next t ∧
        (let gen (i : Nat) : Word := if fctlMode s.hart.fctl = .rs then generatorAfter (i + 1) s.hart.lfsr else s.hart.lfsr
         let env (i : Nat) : Env := { fmt := laneFmt e, mode := fctlMode s.hart.fctl, ftz := s.ftz, u := (gen i).toNat % 65536 }
         let r (i : Nat) : Nat × FFlags := fpMul (env i) ((laneFmt e).read s.ftz (laneOf w (s.v d) i)) ((laneFmt e).read s.ftz (value i))
         WroteV d w e.lanes (fun i => (r i).1) ((s.past 4).setHart { (s.past 4).hart with fflg := fl, lfsr := gen (e.lanes - 1) }) t ∧ FlagsOf e.lanes (fun i => (r i).2) s.hart.fflg fl)) ∧
      (∀ (dt at_ : AccT), ∃ t, exec (.vtrn dt at_ e) s = .next t ∧ t.hart.pc = s.hart.pc + 4 ∧ t.hart.readyAt = s.clk + 16 ∧ t.hart.x = s.hart.x ∧ t.mem = s.mem ∧ t.task = s.task ∧
        let row (q : AccT) (i : Nat) : BitVec 5 := BitVec.ofNat 5 ((if q = .t0 then 0 else 16) + i)
        (∀ i < 16, ∀ j < 16, laneOf 32 (t.v (row dt i)) j = laneOf 32 (s.v (row at_ j)) i) ∧
        (∀ r, (∀ i < 16, r ≠ row dt i) → t.v r = s.v r))) ∧
  (∀ (s : State) (d a b : BitVec 2) (x va vb : BitVec 5) (e : Et) (k : BitVec 2) (u : Bool) (c : VCond), s.Plain → s.RowsFree →
      let M (i : BitVec 2) : Word := s.hart.getM i
      let w := e.width
      let gives (ins : Instr) (f : Nat → Bool) : Prop := ∃ t, exec ins s = .next t ∧ (∀ j < 64, (t.hart.getM d).getLsbD j = f j) ∧ (∀ i, i ≠ d → t.hart.getM i = M i) ∧
        t = (s.past 4).setHart { (s.past 4).hart with m := t.hart.m }
      gives (.vmskAnd d a b) (fun j => (M a).getLsbD j && (M b).getLsbD j) ∧
      gives (.vmskOr d a b) (fun j => (M a).getLsbD j || (M b).getLsbD j) ∧
      gives (.vmskXor d a b) (fun j => (M a).getLsbD j != (M b).getLsbD j) ∧
      gives (.vmskAndn d a b) (fun j => (M a).getLsbD j && !(M b).getLsbD j) ∧
      gives (.vmskMov d x) (fun j => (s.x x).getLsbD j) ∧
      (∃ t, exec (.vmskGet x a) s = .next t ∧ WroteX x (M a) (s.past 4) t) ∧
      (e.isFloat = true → u = true → exec (.vcmp (d.zeroExtend 5) va vb e k u c) s = .next (s.takeTrap { cause := .ill })) ∧
      (e.isFloat = false →
        let val (r : BitVec 5) (j : Nat) : Int :=
          let n := laneOf w (s.v r) j
          if u = true ∨ n < 2 ^ (w - 1) then n else n - 2 ^ w
        gives (.vcmp (d.zeroExtend 5) va vb e k u c) (fun j => decide (j < e.lanes) && (M k).getLsbD j &&
          (match c with
           | .eq => decide (val va j = val vb j) | .ne => decide (val va j ≠ val vb j) | .lt => decide (val va j < val vb j)
           | .le => decide (val va j ≤ val vb j) | .gt => decide (val vb j < val va j) | .ge => decide (val vb j ≤ val va j)))) ∧
      (e.isFloat = true → u = false → ∃ t fl, exec (.vcmp (d.zeroExtend 5) va vb e k u c) s = .next t ∧
        let r (j : Nat) : Bool × FFlags := vcmpFloat c ((laneFmt e).read s.ftz (laneOf w (s.v va) j)) ((laneFmt e).read s.ftz (laneOf w (s.v vb) j))
        (∀ j < 64, (t.hart.getM d).getLsbD j = (decide (j < e.lanes) && (M k).getLsbD j && (r j).1)) ∧ (∀ i, i ≠ d → t.hart.getM i = M i) ∧
        t = (s.past 4).setHart { (s.past 4).hart with m := t.hart.m, fflg := fl } ∧ FlagsOf e.lanes (fun j => if (M k).getLsbD j then (r j).2 else 0) s.hart.fflg fl))

/-- VREDS and VREDM reduce the active lanes to x[d] (R130, R132, R133, R144, R162). Integer sums wrap to 64 bits and integer maxima and minima are those of the active lanes; a float sum adds the widened lanes in the binary tree of R162 with its flags and its steps of the generator, and a float maximum or minimum picks over the same tree; no active lane gives 0 or the default NaN, and an unsigned VREDM of a float type raises ILL. -/
def Obligations.VectorReduce : Prop :=
  ∀ (s : State) (d a : BitVec 5) (e : Et) (k : BitVec 2) (u : Bool), s.Plain → s.RowsFree →
    let w := e.width
    let on (i : Nat) : Bool := (s.hart.getM k).getLsbD i
    let act : List Nat := ((List.range e.lanes).filter on).map (laneOf w (s.v a))
    let I (c : Nat) : Int := if c < 2 ^ (w - 1) then c else c - 2 ^ w
    let V (c : Nat) : Int := if u then c else I c
    let gives (ins : Instr) (v : Word) : Prop := ∃ t, exec ins s = .next t ∧ WroteX d v (s.past 4) t
    (e.isFloat = false → gives (.vreds d a e k) (BitVec.ofInt 64 (act.map I).sum)) ∧
    (e.isFloat = false → act ≠ [] →
      (∃ r ∈ act, (∀ c ∈ act, V c ≤ V r) ∧ gives (.vredmMax d a e k u) (BitVec.ofInt 64 (V r))) ∧
      (∃ r ∈ act, (∀ c ∈ act, V r ≤ V c) ∧ gives (.vredmMin d a e k u) (BitVec.ofInt 64 (V r)))) ∧
    (e.isFloat = false → act = [] → gives (.vredmMax d a e k u) 0 ∧ gives (.vredmMin d a e k u) 0) ∧
    (e.isFloat = true → u = true → exec (.vredmMax d a e k u) s = .next (s.takeTrap { cause := .ill }) ∧ exec (.vredmMin d a e k u) s = .next (s.takeTrap { cause := .ill })) ∧
    (e.isFloat = true → act = [] → gives (.vreds d a e k) 0x7FC00000 ∧ (u = false → gives (.vredmMax d a e k u) 0x7FC00000 ∧ gives (.vredmMin d a e k u) 0x7FC00000)) ∧
    (e.isFloat = true → act ≠ [] →
      let adds (x y : Nat) (c : FFlags × Word) : Nat × (FFlags × Word) :=
        let g : Word := if fctlMode s.hart.fctl = .rs then stepWord c.2 else c.2
        let r := fpAdd { fmt := fp32, mode := fctlMode s.hart.fctl, ftz := s.ftz, u := g.toNat % 65536 } (fp32.read s.ftz x) (fp32.read s.ftz y)
        (r.1, c.1 ||| r.2, g)
      let sum := levels adds (Nat.log2 e.lanes) ((List.range e.lanes).map fun i => if on i then widenLane e (laneOf w (s.v a) i) else 0, 0, s.hart.lfsr)
      ∃ t, exec (.vreds d a e k) s = .next t ∧ WroteX d (BitVec.ofNat 64 (sum.1.headD 0))
        ((s.past 4).setHart { (s.past 4).hart with fflg := s.hart.fflg ||| sum.2.1.zeroExtend 64, lfsr := sum.2.2 }) t) ∧
    (e.isFloat = true → u = false → act ≠ [] → ∀ q ∈ [(Instr.vredmMax d a e k u, true), (.vredmMin d a e k u, false)],
      let picks (x y : Option Nat) (c : FFlags × Word) : Option Nat × (FFlags × Word) :=
        match x, y with
        | some x, some y => let r := fpMinMax { fmt := fp32, mode := .rne, ftz := s.ftz } q.2 (fp32.read s.ftz x) (fp32.read s.ftz y); (some r.1, c.1 ||| r.2, c.2)
        | some x, none => (some x, c)
        | none, y => (y, c)
      let r := levels picks (Nat.log2 e.lanes) ((List.range e.lanes).map fun i => if on i then some (widenLane e (laneOf w (s.v a) i)) else none, 0, s.hart.lfsr)
      ∃ t v, exec q.1 s = .next t ∧ r.1 = [some v] ∧ WroteX d (BitVec.ofNat 64 v) ((s.past 4).setHart { (s.past 4).hart with fflg := s.hart.fflg ||| r.2.1.zeroExtend 64 }) t)

/-- Conversions between element types, quantization and the block add (R125, R126, R127, R130, R135, R156, R157, R158, R159). VCVT, VQNT and VDQN write the selected part of v[d] with each element converted once, under saturation where the form asks for it, and leave the rest of the row; illegal parts and formats raise ILL. VBADDQ adds two scaled blocks of 32 elements, takes the least shared exponent that holds every sum, and writes the block with its scale; an invalid scale or a NaN gives the NaN block and raises NV. -/
def Obligations.VectorConvert : Prop :=
  (∀ (s : State) (d a p : BitVec 5) (q : BitVec 2) (c e : Et) (k : BitVec 2) (sat : Bool), s.Plain → s.RowsFree →
      let F := s.narrowFmt k
      let steps (from_ : Elem) (to_ : Into) : Bool := match from_, to_ with | .int _, .int _ _ _ => false | _, _ => true
      let converts (ins : Instr) (from_ : Nat → Elem) (to_ : Into) (sat : Bool) (w first n : Nat) : Prop :=
        let gen (i : Nat) : Word := if fctlMode s.hart.fctl = .rs ∧ steps (from_ 0) to_ = true then generatorAfter (i + 1) s.hart.lfsr else s.hart.lfsr
        let r (i : Nat) : Nat × FFlags := cvt { fmt := fp32, mode := fctlMode s.hart.fctl, ftz := s.ftz, sat := sat, u := (gen i).toNat % 65536 } to_ (from_ i)
        ∃ t fl, exec ins s = .next t ∧ WroteFields d w first n (fun i => (r i).1) (s.raised fl (gen (n - 1))) t ∧ FlagsOf n (fun i => (r i).2) s.hart.fflg fl
      (vcvtRatio e c ≤ q.toNat → exec (.vcvt d a c e sat q) s = .next (s.takeTrap { cause := .ill })) ∧
      (q.toNat < vcvtRatio e c →
        let n := min e.lanes c.lanes
        converts (.vcvt d a c e sat q) (fun i => laneElem s.ftz c (laneOf c.width (s.v a) ((if e.lanes < c.lanes then q.toNat * n else 0) + i)))
          (laneInto e) sat e.width (if c.lanes < e.lanes then q.toNat * n else 0) n) ∧
      (let fits : Prop := F < 14 ∧ p.toNat * e.lanes + e.lanes ≤ if elemBits F = 6 then 64 else 512 / elemBits F
       (e.isWideFloat = true → fits →
         converts (.vqnt d a p e k sat) (fun i => laneElem s.ftz e (laneOf e.width (s.v a) i)) (narrowInto F) sat (elemBits F) (p.toNat * e.lanes) e.lanes) ∧
       (e.isWideFloat = true ∨ e = .i32 → fits →
         converts (.vdqn d a p e k) (fun i => narrowElem s.ftz F (laneOf (elemBits F) (s.v a) (p.toNat * e.lanes + i))) (laneInto e) false e.width 0 e.lanes) ∧
       (¬fits ∨ e.isWideFloat = false → exec (.vqnt d a p e k sat) s = .next (s.takeTrap { cause := .ill })) ∧
       (¬fits ∨ ¬(e.isWideFloat = true ∨ e = .i32) → exec (.vdqn d a p e k) s = .next (s.takeTrap { cause := .ill })))) ∧
  (∀ (s : State) (d a b : BitVec 5) (k : BitVec 2), s.Plain → s.RowsFree →
      let F := s.narrowFmt k
      let w := elemBits F
      let scaled := (s.hart.getFS k).getLsbD 4 = true
      let env : Env := { fmt := fp32, mode := .rne, ftz := false }
      let S (r : Row) : Nat := laneOf 8 r 32
      let sum (i : Nat) : Nat × FFlags := fpAdd env (scaledElem F (laneOf w (s.v a) i) (S (s.v a))) (scaledElem F (laneOf w (s.v b) i) (S (s.v b)))
      let val (i : Nat) : Fp := fp32.decode (sum i).1
      let bad := S (s.v a) = 255 ∨ S (s.v b) = 255 ∨ ∃ i < 32, (val i).isNaN = true
      let L := elemLargest F
      let holds (e : Nat) : Prop := ∀ i < 32, ∃ n m x, val i = .fin n m x ∧ magLe m x L.1 (L.2 + e - 127) = true
      (¬(3 ≤ F ∧ F ≤ 0xD ∧ scaled) → exec (.vbaddq d a b k) s = .next (s.takeTrap { cause := .ill })) ∧
      (3 ≤ F → F ≤ 0xD → scaled → bad → ∃ t, exec (.vbaddq d a b k) s = .next t ∧ t.v d = BitVec.ofNat 512 (255 * 2 ^ 256) ∧ (∀ r, r ≠ d → t.v r = s.v r) ∧
        t = (s.raised (s.hart.fflg ||| flNV.zeroExtend 64) s.hart.lfsr).setHart { (s.raised (s.hart.fflg ||| flNV.zeroExtend 64) s.hart.lfsr).hart with v := t.hart.v }) ∧
      (3 ≤ F → F ≤ 0xD → scaled → ¬bad → ∃ t fl e, exec (.vbaddq d a b k) s = .next t ∧
        ((∀ i < 32, ∃ n x, val i = .fin n 0 x) → e = 127) ∧
        (¬(∀ i < 32, ∃ n x, val i = .fin n 0 x) → e < 255 ∧ (∀ j < e, ¬holds j) ∧ (holds e ∨ e = 254)) ∧
        (let q (i : Nat) : Nat × FFlags := cvt { fmt := fp32, mode := .rne, ftz := false, sat := true } (narrowInto F) (.fp (match val i with | .fin n m x => .fin n m (x - e + 127) | v => v))
         let code (i : Nat) : Nat := if val i = .inf true ∧ elemIsInt F = true ∧ elemMin F < 0 then 2 ^ w - L.1 else (q i).1
         WroteV d w 32 code (s.raised fl s.hart.lfsr) t ∧ S (t.v d) = e ∧ (∀ j < 512, 32 * w ≤ j → j < 256 ∨ 264 ≤ j → (t.v d).getLsbD j = false) ∧
         FlagsOf 32 (fun i => (sum i).2 ||| (q i).2) s.hart.fflg fl)))

/-- REP repeats the next word with its fields stepped (R67, R68, R69). A REP over a word that may not repeat, or whose stepped fields would pass 31, raises ILL; otherwise it sets REPST, and each pass executes the word with its fields stepped by the pass, counts REPST up, and leaves the pair past both words after the last pass. -/
def Obligations.RepeatPrefix : Prop :=
  ∀ (z : State) (c : BitVec 6) (k : BitVec 3) (t : BitVec 2) (w : Nat),
    let s := z.noteFetch (z.hart.pc.toNat + 4)
    s.fetchWordAt (s.hart.pc.toNat + 4) = .ok w →
    let mop := w / 2 % 64
    let word := w % 2 = 1 ∧ (decodeWord w).isSome = true
    let fits (mask delta : Nat) : Prop := repeatable mop ∧ ∀ f < 3, mask.testBit f = true → ∃ lo, stepPlace mop f = some lo ∧ w / 2 ^ lo % 32 + delta ≤ 31
    (¬word → exec (.rep c k t) z = .next (s.takeTrap { cause := .ill })) ∧
    (word → s.hart.repst.getLsbD 17 = false → ¬fits k.toNat (c.toNat * 2 ^ t.toNat) → exec (.rep c k t) z = .next (s.takeTrap { cause := .ill })) ∧
    (word → s.hart.repst.getLsbD 17 = false → fits k.toNat (c.toNat * 2 ^ t.toNat) →
      exec (.rep c k t) z = .next (s.setHart { s.hart with repst := BitVec.ofNat 64 (2 ^ 17 + t.toNat * 2 ^ 15 + k.toNat * 2 ^ 12 + c.toNat * 64), wait := none, met := none })) ∧
    (∀ mask code count i, word → s.hart.repst = BitVec.ofNat 64 (2 ^ 17 + code * 2 ^ 15 + mask * 2 ^ 12 + count * 64 + i) → code < 4 → mask < 8 → count < 64 → i < 64 →
      fits mask (i * 2 ^ code) → ∀ ins, decodeWord (w + steppedBy mop mask (i * 2 ^ code)) = some ins →
        exec (.rep c k t) z = exec ins (s.setHart { s.hart with inRep := true }) ∧
        (∀ d a b, ins = .add d a b → ∃ u, exec (.rep c k t) z = .next u ∧ (∀ r, u.x r = if r = 0 then 0 else if r = d then s.x a + s.x b else s.x r) ∧ u.mem = s.mem ∧
          u.hart = { s.hart with x := u.hart.x, wait := none, met := none, order := none, walkFail := none, inRep := false, repst := if count ≤ i then 0 else s.hart.repst + 1, pc := if count ≤ i then s.hart.pc + 8 else s.hart.pc }))

/-- VGX exchanges rows with the partner of a gang (R145, R164, R165). A VGX in a launch that is not ganged, in a sibling, or without a place for the partner raises ILL; with a partner that has ended it raises OWNX; the first of the two waits, and the second completes both, each writing the row of the other. -/
def Obligations.GangExchange : Prop :=
  ∀ (s : State) (d a : BitVec 5) (r : GDir) (l : Launch) (rc : Nat × Nat) (row : Row), s.Plain → s.RowsFree → s.launchAt? s.task.launch = some l → s.task.coord = some rc →
    let p : Nat × Nat := match r with | .h => ((l.rel rc).1, (l.rel rc).2 ^^^ 1) | .v => ((l.rel rc).1 ^^^ 1, (l.rel rc).2) | .d => ((l.rel rc).1 ^^^ 1, (l.rel rc).2 ^^^ 1)
    let may := l.ganged = true ∧ s.hart.no = 0 ∧ p.1 < l.rows ∧ p.2 < l.cols
    (¬may → exec (.vgx d a r) s = .next (s.takeTrap { cause := .ill })) ∧
    (may → l.tidAt p = none ∨ s.gangEnded (l.tidAt p) = true → exec (.vgx d a r) s = .next (s.takeTrap { cause := .ownx })) ∧
    (∀ tid h, may → l.tidAt p = some tid → s.gangEnded (some tid) = false → s.hartAt? tid 0 = some h → (∀ v w, h.wait ≠ some (.partner r v w)) →
      exec (.vgx d a r) s = .next (s.setHart { s.hart with wait := some (.partner r (d.toNat + 32 * a.toNat) (s.v a)), met := none, inRep := false })) ∧
    (∀ tid h (b c : BitVec 5), may → l.tidAt p = some tid → s.gangEnded (some tid) = false → s.hartAt? tid 0 = some h → h.wait = some (.partner r (b.toNat + 32 * c.toNat) row) → h.tid = tid → h.no = 0 → h.live = true →
      tid ≠ s.hart.tid → h.repst.getLsbD 17 = false →
      ∃ t g, exec (.vgx d a r) s = .next t ∧ (∀ i, t.v i = if i = d then row else s.v i) ∧ t.hart = { (s.stands (s.hart.pc + 4) (s.clk + 1)).hart with v := t.hart.v } ∧
        t.mem = s.mem ∧ t.task = s.task ∧ t.hartAt? tid 0 = some g ∧ (∀ i, g.getV i = if i = b then s.v a else h.getV i) ∧
        g = { h with v := g.v, pc := h.pc + 4, readyAt := s.clk + 1, wait := none, met := none, order := none, walkFail := none, inRep := false })

/-- OCLM, OREL and OLD (R168, R170, R172, R173, R174, R175). OCLM takes the lowest free slot or pair of its mask and writes its number, and raises ILL for a mask that is zero or past eight bits; OREL frees a slot or pair of the task and raises ILL for any other; an OLD that passes its checks puts a fill in the order of the tile and marks its slots filling; the join of a tile's one fill of rows without errors writes the rows it reads, zero where the edge masks them, and leaves the other slots. When the bytes are read is the model's choice (log 22). -/
def Obligations.OperandSlots : Prop :=
  (∀ (s : State) (d a : BitVec 5), s.Plain →
      let m := s.x a
      let has (n : Nat) : Prop := m.getLsbD n = true ∧ (s.tile.slotAt n).owner = 0
      let both (n : Nat) : Prop := has n ∧ (s.tile.slotAt (n + 1)).owner = 0
      let taken (pair : Bool) (o : OperandSlot) : OperandSlot := { o with owner := s.task.tid, filling := false, poison := false, pair := pair }
      (m = 0 ∨ 256 ≤ m.toNat → ∀ p, exec (.oclm d a p) s = .next (s.takeTrap { cause := .ill })) ∧
      (m.toNat < 256 → ∀ n < 8, has n → (∀ k < n, ¬has k) →
        ∃ t, exec (.oclm d a false) s = .next t ∧ WroteX d (BitVec.ofNat 64 n) ((s.past 4).setTile t.tile) t ∧ t.tile.slotAt n = taken false (s.tile.slotAt n) ∧
          ∀ k, k ≠ n → t.tile.slotAt k = s.tile.slotAt k) ∧
      (m.toNat < 256 → ∀ n ∈ [0, 2, 4, 6], both n → (∀ k ∈ [0, 2, 4, 6], k < n → ¬both k) →
        ∃ t, exec (.oclm d a true) s = .next t ∧ WroteX d (BitVec.ofNat 64 n) ((s.past 4).setTile t.tile) t ∧ t.tile.slotAt n = taken true (s.tile.slotAt n) ∧
          t.tile.slotAt (n + 1) = taken true (s.tile.slotAt (n + 1)) ∧ ∀ k, k ≠ n → k ≠ n + 1 → t.tile.slotAt k = s.tile.slotAt k) ∧
      (let n := m.toNat
       let o := s.tile.slotAt n
       (7 < n ∨ o.owner ≠ s.task.tid ∨ (n % 2 = 1 ∧ o.pair = true) → exec (.orel a) s = .next (s.takeTrap { cause := .ill })) ∧
       (n ≤ 7 → o.owner = s.task.tid → ¬(n % 2 = 1 ∧ o.pair = true) → s.tile.slotInUse n = false → (o.pair = true → s.tile.slotInUse (n + 1) = false) →
         ∃ t, exec (.orel a) s = .next t ∧ t = (s.past 4).setTile t.tile ∧
           ∀ k, t.tile.slotAt k = if k = n ∨ (o.pair = true ∧ k = n + 1) then OperandSlot.blank else s.tile.slotAt k))) ∧
  ((∀ (s : State) (n : BitVec 3) (k : BitVec 2) (h : BitVec 4) (a : BitVec 3) (side : Side) (e : BitVec 3) (c : CapRec) (table : List (BitVec 16)) (u : State), u.Plain →
      (∀ g ∈ u.tile.fills, g.due ≠ 0) → let fmt := BitVec.ofNat 5 ((s.hart.getFS k).toNat % 16)
      s.Fills n fmt h (s.hart.getOX a) (s.hart.getOX e) side c table u →
      ∃ t, exec (.old n k h a side e) s = .next t ∧ t.hart = (u.past 4).hart ∧ Filling n fmt (s.hart.getOX a) (s.hart.getOX e) c table false u t) ∧
    (∀ (s : State) (f : FillOp) (c : CapRec), s.tile.fills = [f] → s.rec? f.img = some c → c.proxy = none → s.ce = [] → f.fmt.toNat % 16 ≠ 0 → f.n < 8 →
      (∀ i < 16, f.skip.getLsbD i = false → ∃ bs, s.recBytes c f.rowBytes (f.rowOff i) = .ok bs) → f.ntf = false →
      (∀ r, s.taskAt? f.tid = some r → r.ending = false) →
      ∃ t, exec (.oldJoin s.tile.idx f.seq none) s = .next t ∧ t.tile.fills = [] ∧ t.hart = s.hart ∧ t.mem = s.mem ∧
        (t.tile.slotAt f.n).filling = false ∧ (t.tile.slotAt f.n).poison = false ∧ (elemIsCb (f.fmt.toNat % 16) = true → (t.tile.slotAt f.n).table = f.table) ∧
        (∀ i : Fin 16, (t.tile.slotAt f.n).rows[i] = if f.skip.getLsbD i then 0 else
          BitVec.ofNat 2048 (match s.recBytes c f.rowBytes (f.rowOff i) with | .ok bs => leValue bs % 2 ^ (f.kv * elemBits (f.fmt.toNat % 16)) | .error _ => 0)) ∧
        (∀ k, k ≠ f.n → t.tile.slotAt k = s.tile.slotAt k)))

/-- MMA, MMAP, MZERO and MMD are accepted in order (R176, R177, R179, R193). With a place free, legal operands that the task holds and no hold of the ramp limiter, each operation is appended to the matrix queue of the tile with its operands, formats, edge and slot, and the stream steps past it; memory and records are as before. MMA of a pair format raises ILL. An MMD takes its husk's format and whether it may use what the husk keeps. -/
def Obligations.MatrixAccepted : Prop :=
  ∀ (s : State) (d : AccT) (a b : BitVec 2) (e : BitVec 3) (f : Bool) (x y : BitVec 3), s.Plain → s.tile.matrix.length < 4 →
    let FA := BitVec.ofNat 5 (s.hart.getFS a).toNat
    let FB := BitVec.ofNat 5 (s.hart.getFS b).toNat
    let edge := s.hart.getOX e
    let accepted (ins : Instr) (has : MatOp → Prop) : Prop := ∃ t o, exec ins s = .next t ∧ t.tile.matrix = s.tile.matrix ++ [o] ∧ has o ∧
      o.seq = s.tile.opSeq ∧ o.tid = s.task.tid ∧ o.slot = s.slot ∧ o.acc = d ∧ o.ntf = f ∧ o.started = false ∧ o.earliest = s.clk + 1 ∧
      t.tile.opSeq = s.tile.opSeq + 1 ∧ t.hart = { (s.past 4).hart with injCount := t.hart.injCount } ∧ t.task = s.task ∧ t.mem = s.mem ∧ t.quire = s.quire
    (s.tile.rampHolds s.clk 8 = false → accepted (.mzero d f) fun o => o.kind = .mzero) ∧
    (s.tile.names s.task.tid y.toNat FA = true → s.tile.names s.task.tid x.toNat FB = true → edge.toNat < 2 ^ 39 →
      s.tile.rampHolds s.clk (s.pairClks s.tile.idx (FA.toNat % 16) (FB.toNat % 16)) = false →
      let is (k : MatKind) (o : MatOp) : Prop := o.kind = k ∧ o.sa = y.toNat ∧ o.sb = x.toNat ∧ o.fa = FA ∧ o.fb = FB ∧ o.edge = edge
      (FA.getLsbD 4 = false → FB.getLsbD 4 = false → accepted (.mma d a b e f x y) (is .mma)) ∧ accepted (.mmap d a b e f x y) (is .mmap)) ∧
    (FA.getLsbD 4 = true ∨ FB.getLsbD 4 = true → exec (.mma d a b e f x y) s = .next (s.takeTrap { cause := .ill })) ∧
    (∀ (n h : BitVec 4) (c : CapRec), s.checkHandle h needRD = .ok c → s.admits c .engineRead = .ok → c.format.getLsbD 4 = false →
      let k := s.tile.huskAt n.toNat
      k.bound = true → s.tile.names s.task.tid y.toNat k.inFmt = true → s.tile.names s.task.tid x.toNat c.format = true → edge.toNat < 2 ^ 39 →
      s.tile.rampHolds s.clk (s.pairClks s.tile.idx (k.inFmt.toNat % 16) (c.format.toNat % 16)) = false →
      let use := k.asid = s.task.asid ∧ k.root = c.root
      accepted (.mmd n d h e f x y) fun o => o.kind = .mmd ∧ o.sa = y.toNat ∧ o.sb = x.toNat ∧ o.fa = k.inFmt ∧ o.fb = c.format ∧ o.edge = edge ∧ o.husk = n.toNat ∧
        o.use = decide use ∧ o.delta = decide (use ∧ k.valid = true ∧ k.version = s.capVersion c ∧ k.edge = edge ∧ k.count < k.limit))

/-- A matrix operation starts at the head, computes, and completes in its time (R136, R137, R175, R177, R178, R179, R180, R182, R183). MATRIX_OP_START of the head gives MZERO zeros after 7 clk, skips an operation with a poisoned operand, and gives MMA and MMAP the sums of R136 after the clocks of their format pair and 11 more; MATRIX_OP_COMPLETE writes the elements that the edge does not exclude to the accumulator tile of the slot that issued the operation, if its stream still holds it, and takes the operation off the queue. That the result is computed at the start is the model's choice (log 23). -/
def Obligations.MatrixRuns : Prop :=
  (∀ (s : State) (o : MatOp) (r : List MatOp), s.tile.matrix = o :: r → s.tile.canStart s.clk = true →
    let T := s.tile.idx
    let starts (due : Nat) (o' : MatOp) : Prop := ∃ t, exec (.matrixOpStart T) s = .next t ∧ t.tile.matrix = o' :: r ∧ (due, .matrixOpComplete T []) ∈ t.agenda ∧
      t.hart = s.hart ∧ t.task = s.task ∧ t.mem = s.mem ∧ t.quire = s.quire
    (o.kind = .mzero → starts (s.clk + 7) { o with started := true, due := s.clk + 7, checked := true, result := List.replicate 256 0 }) ∧
    (o.kind ≠ .mzero → (∃ n ∈ o.reads, (s.tile.slotAt n).poison = true) → starts s.clk { o with started := true, due := s.clk, skipped := true, checked := true }) ∧
    (o.kind = .mma ∨ o.kind = .mmap → (∀ n ∈ o.reads, (s.tile.slotAt n).poison = false) →
      let due := s.clk + s.pairClks T (o.fa.toNat % 16) (o.fb.toNat % 16) + 11
      let excluded (i j : Nat) : Prop := o.edge.getLsbD i = true ∨ o.edge.getLsbD (16 + j) = true
      (o.integer = true → edgeKv o.edge ≤ 128 → ∃ y, starts due { o with started := true, due := due, result := y } ∧ y.length = 256 ∧ ∀ i < 16, ∀ j < 16,
        (excluded i j → y[16 * i + j]? = some 0) ∧
        (¬excluded i j → o.kind = .mmap → y[16 * i + j]? = some (BitVec.ofInt 32 (s.tile.blockInt o i j))) ∧
        (¬excluded i j → o.kind = .mma → y[16 * i + j]? = some (BitVec.ofNat 32 (accAt (s.opHart s.tile.idx o) o.acc i j) + BitVec.ofInt 32 (s.tile.blockInt o i j)))) ∧
      (o.integer = false → ∃ y, starts due { o with started := true, due := due, result := y } ∧ y.length = 256 ∧ ∀ i < 16, ∀ j < 16,
        let sum := floatSum (s.tile.operandVals o.sa o.fa false (edgeKv o.edge) i) (s.tile.operandVals o.sb o.fb false (edgeKv o.edge) j)
        (excluded i j → y[16 * i + j]? = some 0) ∧
        (¬excluded i j → o.kind = .mmap → y[16 * i + j]? = some (BitVec.ofNat 32 sum)) ∧
        (¬excluded i j → o.kind = .mma → y[16 * i + j]? = some (BitVec.ofNat 32 (add32 (accAt (s.opHart s.tile.idx o) o.acc i j) sum)))))) ∧
  (∀ (s : State) (o : MatOp) (r : List MatOp), s.tile.matrix = o :: r → o.started = true → o.due ≤ s.clk → o.ntf = false → o.inject = none → s.tile.fills = [] →
    (∀ q, s.taskAt? o.tid = some q → q.ending = false) → s.hart.tid = o.tid → s.hart.no = o.no → s.hart.live = true →
    (o.checked = true ∨ s.mismatches s.tile o (o.result.map (·.toNat)) = ([], [])) → o.result.length = 256 →
    let row (i : Nat) : BitVec 5 := BitVec.ofNat 5 ((if o.acc = .t0 then 0 else 16) + i)
    ∃ t, exec (.matrixOpComplete s.tile.idx []) s = .next t ∧ t.tile.matrix = r.map (fun p => { p with earliest := max p.earliest (s.clk + 1) }) ∧
      t.mem = s.mem ∧ t.task = s.task ∧ t.quire = s.quire ∧ t.hart = { s.hart with v := t.hart.v } ∧
      (o.skipped = true ∨ s.hart.slot ≠ some o.slot → t.hart.v = s.hart.v) ∧
      (o.skipped = false → s.hart.slot = some o.slot →
        (∀ i < 16, o.edge.getLsbD i = false → ∀ j < 16, laneOf 32 (t.v (row i)) j =
          if o.edge.getLsbD (16 + j) then laneOf 32 (s.v (row i)) j else (o.result.getD (16 * i + j) 0).toNat) ∧
        (∀ q, (∀ i < 16, o.edge.getLsbD i = false → q ≠ row i) → t.v q = s.v q)))

/-- Husks are bound and dropped, and group geometry is read (R186, R187, R188, R189, R190, R191, R192, R195, R196, R197). HBIND binds a husk of the tile to a buffer with the fields of its operand and raises ILL for an illegal one; HKILL drops what one husk or all husks of the ASID keep; HSTAT reads a husk of the ASID, and zero of another's; GGEO.rng writes the range of the tile of a group in a shape and raises CAPV LEN for a shape too large; GGEO.edge writes the edge word of a block. -/
def Obligations.Husks : Prop :=
  (∀ (s : State) (n h : BitVec 4) (c : BitVec 3) (d : BitVec 5), s.Plain →
      let busy (k : Nat) : Prop := s.tile.mmdPending s.task.asid k = true
      let H (i : Nat) : Husk := s.tile.huskAt i
      let mine (i : Nat) : Prop := (H i).bound = true ∧ (H i).asid = s.task.asid
      let killed (k : Husk) : Husk := { k with valid := false, count := 0, rho := 0, kept := Vector.replicate 16 0, result := Vector.replicate 16 0 }
      let only (t : State) : Prop := t = (s.past 4).setTile t.tile
      (∀ r, s.checkHandle h needRD = .ok r → s.admits r .engineRead = .ok →
        let w := s.hart.getOX c
        let legal := (wordBits 4 0 w = 3 ∨ wordBits 4 0 w = 4 ∨ wordBits 4 0 w = 8 ∨ wordBits 4 0 w = 9) ∧ wordBits 13 6 w ≠ 0 ∧ wordBits 15 14 w = 0 ∧ wordBits 63 32 w ≤ 0x7F800000
        (¬legal → exec (.hbind n h c) s = .next (s.takeTrap { cause := .ill })) ∧
        (legal → ¬busy n.toNat → ∃ t, exec (.hbind n h c) s = .next t ∧
          t.tile.huskAt n.toNat = { Husk.blank with bound := true, asid := s.task.asid, root := r.root, version := s.capVersion r, tag := BitVec.ofNat 16 (wordBits 31 16 w), inFmt := BitVec.ofNat 5 (wordBits 4 0 w), deltaInt4 := w.getLsbD 5, limit := BitVec.ofNat 8 (wordBits 13 6 w), threshold := BitVec.ofNat 32 (wordBits 63 32 w) } ∧
          (∀ i, i ≠ n.toNat → t.tile.huskAt i = H i) ∧ t.hart = (s.past 4).hart ∧ t.task = s.task ∧ t.mem = s.mem)) ∧
      (¬busy n.toNat → ∃ t, exec (.hkill n false) s = .next t ∧ only t ∧ (mine n.toNat → t.tile.huskAt n.toNat = killed (H n.toNat)) ∧
        (¬mine n.toNat → t.tile.huskAt n.toNat = H n.toNat) ∧ ∀ i, i ≠ n.toNat → t.tile.huskAt i = H i) ∧
      (n ≠ 0 → exec (.hkill n true) s = .next (s.takeTrap { cause := .ill })) ∧
      (¬busy 16 → ∃ t, exec (.hkill 0 true) s = .next t ∧ only t ∧ ∀ i, (mine i → t.tile.huskAt i = killed (H i)) ∧ (¬mine i → t.tile.huskAt i = H i)) ∧
      (¬busy n.toNat → ∀ b, ∃ t w, exec (.hstat d n b) s = .next t ∧ WroteX d w (s.past 4) t ∧ ((H n.toNat).asid ≠ s.task.asid → w = 0) ∧
        ((H n.toNat).asid = s.task.asid → b = false → w.getLsbD 0 = (H n.toNat).valid ∧ w.getLsbD 1 = (H n.toNat).bound ∧ w.getLsbD 3 = (H n.toNat).deltaInt4 ∧
          wordBits 15 8 w = (H n.toNat).count.toNat ∧ wordBits 31 16 w = (H n.toNat).version.toNat ∧ wordBits 63 32 w = (H n.toNat).rho.toNat) ∧
        ((H n.toNat).asid = s.task.asid → b = true → wordBits 15 0 w = (H n.toNat).tag.toNat ∧ wordBits 39 16 w = (H n.toNat).root % 2 ^ 24 ∧ wordBits 47 40 w = (H n.toNat).limit.toNat))) ∧
  (∀ (s : State) (d k : BitVec 3) (h : BitVec 4) (b : BitVec 5), s.Plain →
      (∀ c w u, d.getLsbD 0 = false → s.checkHandle h needRD = .ok c → s.admits c .engineRead = .ok → c.proxy = none → (s.hart.getOX k).toNat < 2 ^ 40 → (s.hart.getOX k).toNat % 64 = 0 →
        (s.hart.getOX k).toNat + 192 ≤ c.len → s.shapeRecord c (s.hart.getOX k).toNat = (u, .ok w) →
        let M := wordBits 19 0 (pw w 0)
        let N := wordBits 39 20 (pw w 0)
        let K := wordBits 63 40 (pw w 0)
        let G := s.hart.geo
        let mt := 16 * ((M + 16 * wordBits 39 32 G - 1) / (16 * wordBits 39 32 G))
        let nt := 16 * ((N + 16 * wordBits 48 40 G - 1) / (16 * wordBits 48 40 G))
        let row0 := (wordBits 6 0 G - wordBits 22 16 G) * mt
        let col0 := (wordBits 15 7 G - wordBits 31 23 G) * nt
        (1048560 < M ∨ 1048560 < N → exec (.ggeoRng d h k) s = .next (u.takeTrap (trapCapv subLEN))) ∧
        (M ≤ 1048560 → N ≤ 1048560 → ∃ t, exec (.ggeoRng d h k) s = .next t ∧
          t.hart.getOX d = BitVec.ofNat 64 (col0 * 2 ^ 32 + row0) ∧ t.hart.getOX (d + 1) = BitVec.ofNat 64 (K * 2 ^ 40 + min nt (N - col0) * 2 ^ 20 + min mt (M - row0)) ∧
          (∀ i, i ≠ d → i ≠ d + 1 → t.hart.getOX i = s.hart.getOX i) ∧ t.hart = { (s.past 4).hart with ox := t.hart.ox } ∧ t.task = s.task ∧ t.mem = s.mem)) ∧
      (let E := s.hart.getOX k
       let B := s.x b
       let K := wordBits 63 40 E
       let past := 128 * wordBits 63 32 B
       ∃ t e, exec (.ggeoEdge d k b) s = .next t ∧ t.hart.getOX d = e ∧ (∀ i, i ≠ d → t.hart.getOX i = s.hart.getOX i) ∧
         t = (s.past 4).setHart { (s.past 4).hart with ox := t.hart.ox } ∧
         (∀ i < 16, e.getLsbD i = decide (wordBits 19 0 E ≤ 16 * wordBits 15 0 B + i ∨ K ≤ past)) ∧
         (∀ j < 16, e.getLsbD (16 + j) = decide (wordBits 39 20 E ≤ 16 * wordBits 31 16 B + j)) ∧
         wordBits 38 32 e = (if 128 ≤ K - past then 0 else K - past) ∧ wordBits 63 39 e = 0))

/-- Engine operations fork at issue and join with their bytes in place (R27, R31, R40, R102, R198, R199, R200, R203, R208, R209, R210). COPY, FILL, GATH and SELT that pass their checks put one operation with its leg in the engine, make the source DRAINING and the destination FILLING, and schedule the join; the joined leg of a tile's one operation has written exactly the bytes of its range and gives source and destination their states back. SCAN_UNIT_LEG ends the part of one channel, and ENGINE_LEG_ERROR poisons the destination and leaves the error pending with the task. The time a leg takes is the model's lower end (log 7). -/
def Obligations.TransferEngine : Prop :=
  (∀ (s : State) (d h i : BitVec 4) (a : BitVec 2) (a3 : BitVec 3) (b : BitVec 5) (ntf abs : Bool) (c r e : CapRec), s.Plain → s.EngineReady →
      s.gate d needWR .engineWrite = .ok e → s.rec? e.img = some e →
      let A0 := s.hart.getOX (BitVec.ofNat 3 (2 * a.toNat))
      let A1 := s.hart.getOX (BitVec.ofNat 3 (2 * a.toNat + 1))
      let n := (s.x b).toNat
      let rest (t : State) : Prop := t.hart = (s.past 4).hart ∧ t.task = s.task ∧ t.rec? e.img = some (e.filledBy s.task.tid)
      (s.Source h c r → c.img ≠ e.img → r.img ≠ e.img → A0.toNat < 2 ^ 40 → A1.toNat < 2 ^ 40 → 0 < n → A0.toNat + n ≤ c.len → e.rangeBad A1.toNat n = false →
        ∃ t, exec (.copy d h a b ntf) s = .next t ∧ Forked s t .copy (some r.img) A0.toNat [s.legTo e d A1.toNat n [c]] ntf ∧ rest t ∧ t.rec? r.img = some (r.drainedBy s.task.tid)) ∧
      (A0.toNat < 2 ^ 40 → 0 < n → e.rangeBad A0.toNat n = false →
        ∃ t, exec (.fill d a b ntf) s = .next t ∧ Forked s t (.pattern A1) none 0 [s.legTo e d A0.toNat n []] ntf ∧ rest t) ∧
      (∀ x y, s.Source h c r → s.Source i x y → c.img ≠ e.img → x.img ≠ e.img → r.img ≠ e.img → y.img ≠ e.img →
        let w (k : BitVec 3) : Word := s.hart.getOX (a3 + k)
        let base := wordBits 39 0 (w 0)
        let rb := wordBits 63 40 (w 0) * 16
        let off := wordBits 39 0 (w 1)
        let count := wordBits 63 40 (w 1)
        (w 2).toNat < 2 ^ 40 → 0 < rb → 0 < count → base % 16 = 0 → off % 16 = 0 → (w 2).toNat % 4 = 0 → e.rangeBad off (count * rb) = false → (w 2).toNat + 4 * count ≤ x.len →
        ∃ t, exec (.gath d h a3 ntf i) s = .next t ∧ Forked s t (.gather rb count base (w 2).toNat y.img) (some r.img) 0 [s.legTo e d off (count * rb) [c, x]] ntf ∧ rest t ∧
          (r.img ≠ y.img → t.rec? r.img = some (r.drainedBy s.task.tid) ∧ t.rec? y.img = some (y.drainedBy s.task.tid)) ∧
          (r.img = y.img → t.rec? r.img = some (r.drainedBy s.task.tid))) ∧
      (s.Source h c r → c.img ≠ e.img → r.img ≠ e.img → c.level = .hbm → c.format.toNat ≤ 2 →
        let size := if c.format = 0 then 4 else 2
        let off := wordBits 39 0 A0
        let count := wordBits 63 40 A0
        A1.toNat < 2 ^ 32 → isNan32 A1.toNat = false → 0 < count → off % size = 0 → off + count * size ≤ c.len → 16 ≤ e.len →
        ∃ t l, exec (.selt d h a abs ntf) s = .next t ∧ Forked s t (.select count (BitVec.ofNat 32 A1.toNat) abs) (some r.img) off [l] ntf ∧ l.dst = e.img ∧ l.handle = d ∧ l.off = 0 ∧
          rest t ∧ t.rec? r.img = some (r.drainedBy s.task.tid))) ∧
  ((∀ (s : State) (o : XferOp) (l : Leg) (e : CapRec) (a : Nat), s.Joins o l e a → Memory.wf s.mem = true → a < hbmBase →
      let joined (ins : Instr) (bytes : List Byte) (after : State → Prop) : Prop := ∃ t, exec ins s = .next t ∧ t.tile.xfers = [] ∧ t.hart = s.hart ∧
        (∀ k < bytes.length, memGet (a + k) t.mem = bytes[k]?.getD 0) ∧ (∀ p, (p < a ∨ a + bytes.length ≤ p) → memGet p t.mem = memGet p s.mem) ∧
        t.rec? e.img = some e.filled ∧ after t
      let join := Instr.transferJoin s.tile.idx o.id
      (∀ p, o.kind = .pattern p → o.src = none →
        joined join ((List.range l.len).map fun i => BitVec.ofNat 8 (p.toNat / 2 ^ (8 * ((l.off + i) % 8)))) fun _ => True) ∧
      (∀ c bytes, o.kind = .copy → o.src = some c.img → s.rec? c.img = some c → c.img ≠ e.img → c.kind ≠ .frac → c.proxy = none → s.readUpTo c l.len o.srcOff = (bytes, none) →
        joined join bytes fun t => t.rec? c.img = some c.drained) ∧
      (∀ c x rb n base io, ∀ rows : List (List Byte), o.kind = .gather rb n base io x.img → o.src = some c.img → s.rec? c.img = some c → s.rec? x.img = some x → c.img ≠ e.img → x.img ≠ e.img →
        c.img ≠ x.img → c.kind ≠ .frac → x.kind ≠ .frac → c.proxy = none → x.proxy = none → rows.length = n →
        (∀ k < n, ∃ ib, s.readUpTo x 4 (io + 4 * k) = (ib, none) ∧
          let i := (BitVec.ofNat 32 (leValue ib)).toInt
          (i < 0 → rows[k]? = some (List.replicate rb 0)) ∧
          (0 ≤ i → base + (i.toNat + 1) * rb ≤ c.len ∧ ∃ row, s.readUpTo c rb (base + i.toNat * rb) = (row, none) ∧ rows[k]? = some row)) →
        joined join rows.flatten fun t => t.rec? c.img = some c.drained ∧ t.rec? x.img = some x.drained) ∧
      (∀ c n θ abs bytes, o.kind = .select n θ abs → o.src = some c.img → s.rec? c.img = some c → c.img ≠ e.img → c.kind ≠ .frac →
        let size := if c.format = 0 then 4 else 2
        s.readUpTo c (n * size) o.srcOff = (bytes, none) →
        let code (i : Nat) : Nat := widen32 c.format.toNat (leValue ((bytes.drop (size * i)).take size))
        let hits := (List.range n).filter fun i => selected θ abs (code i)
        let room := (e.len - 8) / 8
        joined join (bytesOf 8 (hits.length + if room < hits.length then 2 ^ 63 else 0) ++ ((hits.take room).map fun i => bytesOf 8 (i + code i * 2 ^ 32)).flatten)
          fun t => t.rec? c.img = some c.drained) ∧
      (∀ done err, (∃ p, o.kind = .pattern p) → o.src = none → s.task.tid = o.tid → s.task.state ≠ .exited → s.task.pendErr = none → s.task.ending = false →
        ∃ t x h, exec (.engineLegError s.tile.idx o.id 0 done err) s = .next t ∧ t.tile.xfers = [] ∧ t.rec? e.img = some { e.filled with poisoned := true } ∧
          t.task = { s.task with pendErr := some ⟨x, o.no⟩ } ∧ x = { LegErrorTrap err h with imprecise := true } ∧ (imgOf (s.handle l.handle) = l.dst → h = some l.handle) ∧ (∀ k, h = some k → imgOf (s.handle k) = l.dst) ∧ (h = none → ∀ k, imgOf (s.handle k) ≠ l.dst))) ∧
    (∀ (s : State) (o : XferOp) (ch : Nat) (r : List Nat), s.tile.xfers = [o] → o.units = ch :: r → r ≠ [] → ch ∉ r →
      ∃ t, exec (.scanUnitLeg s.tile.idx o.id ch) s = .next t ∧ t.tile.xfers = [{ o with units := r }] ∧ t.hart = s.hart ∧ t.task = s.task ∧ t.mem = s.mem ∧ t.quire = s.quire))

/-- COPY.move, COPY.auto, COPY.pkt and COPYM (R33, R203, R204, R205, R206, R207, R384). COPY.move and COPY.auto give the capability a copy on the tile with a new record where a tile takes it, and keep the record otherwise; COPY.pkt executes the copy packet its operand names, and raises CAPV DEST for a packet of another kind; COPYM fills an operand slot through the engine and issues its follow-on MMAP, and raises ILL for an illegal follow-on word. The place a copy takes is the model's choice (log 12). -/
def Obligations.RelocateAndPack : Prop :=
  (∀ (s : State) (d h : BitVec 4) (ntf : Bool) (c : CapRec), s.Plain → s.EngineReady → s.handle d = 0 → d ≠ h → s.checkHandle h needXFER = .ok c → Memory.wf s.mem = true →
      let size := storageSize .tile c.kind c.len
      let keeps (i : Instr) : Prop := ∃ t, exec i s = .next t ∧ Forked s t .move none 0 [] ntf ∧ t.hart = (s.past 4).hart ∧
        (∀ k, t.handle k = if k = d then s.handle h else if k = h then 0 else s.handle k) ∧ OtherRecords [c.root] s t
      let moves (i : Instr) : Prop := ∀ base img, s.allocTile s.tile.idx size = some base → s.freeRecord (dieOf s.tile.idx) = some img → img ≠ c.img →
        ∃ t n, exec i s = .next t ∧ t.hart = (s.past 4).hart ∧ (∀ k, t.handle k = if k = d then BitVec.ofNat 64 n.image else if k = h then 0 else s.handle k) ∧
          t.rec? img = some n ∧ n.img = img ∧ n.base = base ∧ n.level = .tile ∧ n.owner = s.task.tid ∧ n.version = c.version + 1 ∧ n.state = .filling ∧ n.len = c.len ∧ n.asid = c.asid ∧ n.rights = c.rights ∧
          t.rec? c.img = some { c with owner := noOwner, state := .draining, readers := c.readers + 1, fromLaunch := none, outer := [] } ∧ OtherRecords [c.img, img] s t ∧
          (∀ a, ¬(base ≤ a ∧ a < base + size) → memGet a t.mem = memGet a s.mem) ∧ (∀ a, base ≤ a → a < base + size → memGet a t.mem = 0) ∧
          ∃ o, t.tile.xfers = s.tile.xfers ++ [o] ∧ o.kind = .move ∧ o.src = some c.img ∧ o.legs = [{ s.legTo n d 0 c.len [] with due := s.clk + ((s.levelLatency s.tile.idx c) + (c.len + 63) / 64) }] ∧
            (s.clk + ((s.levelLatency s.tile.idx c) + (c.len + 63) / 64), .transferJoin s.tile.idx o.id) ∈ t.agenda
      (s.admits c (.send 1) = .ok → c.level ≠ .peer → c.len ≤ 240 * 1024 → moves (.copyMove d h ntf)) ∧
      (s.admits c (.send 1) = .ok → c.level = .peer ∨ 240 * 1024 < c.len ∨ s.allocTile s.tile.idx size = none → keeps (.copyMove d h ntf)) ∧
      (s.admits c (.send 2) = .ok → c.level = .tile → clusterOf (c.base / 2 ^ 18) ≠ clusterOf s.tile.idx → c.len ≤ 16 * 1024 → moves (.copyAuto d h ntf)) ∧
      (s.admits c (.send 2) = .ok → c.level ≠ .tile ∨ clusterOf (c.base / 2 ^ 18) = clusterOf s.tile.idx ∨ 16 * 1024 < c.len ∨ s.allocTile s.tile.idx size = none → keeps (.copyAuto d h ntf))) ∧
  (∀ (s : State) (h : BitVec 4) (b : BitVec 5) (q r : CapRec) (a : Nat) (p : List Word) (hs : BitVec 4) (src : CapRec) (dests : List (BitVec 4 × CapRec)), s.Plain → s.EngineReady →
      s.find h (s.x b) 64 needRW (.load false) false = .at_ q (.mem a) s → s.gateRec h q .engineWrite = .ok q → s.rec? q.img = some q →
      s.forward q (s.x b).toNat 64 = .home → s.ownPosted (.mem a) 64 = [] → s.Sound a 64 → p = s.packetAt a →
      let count := pf p 0 5 4 + 1
      let n := pf p 3 40 0
      let named (k : Nat) (e : BitVec 4) : Prop := k ≠ 0 ∧ (s.handle e).toNat = k ∧ ∀ j < e, (s.handle j).toNat ≠ k
      (s.r5 p = true → pf p 0 3 0 = 2 → pf p 1 63 28 = 0 → pf p 2 63 40 = 0 → pf p 2 39 0 % 16 = 0 → (∀ i < 4, count ≤ i → pw p (4 + i) = 0) → pf p 3 63 41 = 0 → 1 ≤ n → n ≤ 2 ^ 40 →
        named (pf p 1 27 0) hs → s.Source hs src r → dests.length = count →
        (∀ i < count, ∀ x, dests[i]? = some x → named (pf p (4 + i) 27 0) x.1 ∧ s.gate x.1 needWR .engineWrite = .ok x.2 ∧ pf p (4 + i) 63 28 * 16 + n ≤ x.2.len ∧
          x.2.rangeBad (pf p (4 + i) 63 28 * 16) n = false ∧ x.2.img ≠ q.img ∧ x.2.img ≠ r.img) →
        (src.img :: dests.map (·.2.img)).Nodup → r.img ≠ q.img → pf p 2 39 0 + n ≤ src.len →
        ∃ t, exec (.copyPkt h b) s = .next t ∧
          Forked s t (.packet (some (q.img, (s.x b).toNat)) none) (some r.img) (pf p 2 39 0)
            ((List.range count).map fun i => match dests[i]? with | some x => s.legTo x.2 x.1 (pf p (4 + i) 63 28 * 16) n [src] | none => s.legTo src hs 0 0 []) (pf p 0 6 6 == 1) ∧
          t.hart = (s.past 4).hart ∧ t.task = s.task ∧ t.rec? r.img = some (r.drainedBy s.task.tid) ∧ t.rec? q.img = some (q.filledBy s.task.tid) ∧
          ∀ x ∈ dests, s.rec? x.2.img = some x.2 → t.rec? x.2.img = some (x.2.filledBy s.task.tid)) ∧
      (s.r5 p = true → pf p 0 3 0 ≠ 2 → exec (.copyPkt h b) s = .next (s.takeTrap (trapCapv subDEST)))) ∧
  (∀ (s : State) (n : BitVec 3) (k : BitVec 2) (h : BitVec 4) (a : BitVec 3) (side : Side) (e c : BitVec 3) (f : Bool) (r : CapRec) (table : List (BitVec 16)) (u : State), u.Plain →
      (∀ g ∈ u.tile.fills, g.due ≠ 0) → u.tile.accepted < 16 →
      let fmt := BitVec.ofNat 5 ((s.hart.getFS k).toNat % 16)
      let word := s.hart.getOX c
      s.Fills n fmt h (s.hart.getOX a) (s.hart.getOX e) side r table u →
      (word = 0 → ∃ t, exec (.copym n k h a side e c f) s = .next t ∧ t.hart = (u.past 4).hart ∧ Filling n fmt (s.hart.getOX a) (s.hart.getOX e) r table true u t) ∧
      (2 ^ 34 ≤ word.toNat → exec (.copym n k h a side e c f) s = .next (u.takeTrap { cause := .ill })) ∧
      (∀ d p q g y x w hk, word.toNat < 2 ^ 34 → wordBits 31 0 word ≠ 0 → (∃ m l, decode (bytesOf 4 (wordBits 31 0 word)) = .ok (.mmap d p q g y x w, m, l)) →
        u.hartAt? u.task.tid (wordBits 33 32 word) = some hk →
        let FA := BitVec.ofNat 5 (u.hart.getFS p).toNat
        let FB := BitVec.ofNat 5 (u.hart.getFS q).toNat
        u.tile.names u.task.tid w.toNat FA = true → u.tile.names u.task.tid x.toNat FB = true → (u.hart.getOX g).toNat < 2 ^ 39 → w.toNat = n.toNat ∨ x.toNat = n.toNat →
        u.tile.matrix.length < 4 → u.tile.rampHolds u.clk (u.pairClks u.tile.idx (FA.toNat % 16) (FB.toNat % 16)) = false →
        ∃ t o, exec (.copym n k h a side e c f) s = .next t ∧ t.tile.matrix = u.tile.matrix ++ [o] ∧ o.kind = .mmap ∧ o.acc = d ∧ o.sa = w.toNat ∧ o.sb = x.toNat ∧
          o.no = wordBits 33 32 word ∧ o.slot = hk.slot.getD 8 ∧ o.ntf = y ∧ t.hart = { (u.past 4).hart with injCount := t.hart.injCount } ∧ t.mem = u.mem ∧
          ∃ l ∈ t.tile.fills, l.n = n.toNat ∧ l.transfer = true ∧ l.seq < o.seq))

/-- QAPP and SRINV (R215, R216, R217, R219). QAPP of a legal packet claims the ticket of its queue, writes it to x[d] and hands the packet to the engine; a packet or a queue of another ASID, a queue that is not valid, and a packet that holds capabilities raise CAPV DEST. The entry is written once there is room and its place is empty, and waits otherwise. SRINV and SRINV.all drop what the tile keeps of one record or of the ASID's records. -/
def Obligations.QueueAppend : Prop :=
  (∀ (s : State) (d : BitVec 5) (h : BitVec 4) (a : BitVec 3) (b : BitVec 5) (f : Bool) (c : CapRec) (at_ : Nat) (p : List Word), s.Plain → s.EngineReady →
    let q := (s.hart.getOX a).toNat
    let w := s.queueWords q
    q < 2 ^ 14 → s.ReadsPacket h (s.x b) c at_ p → s.r5 p = true →
    (pkAsid p = s.task.asid → qValid w = true → qAsid w = s.task.asid → packetHolds p = false →
      ∃ t o, exec (.qapp d h a b f) s = .next t ∧ (∀ k, t.x k = if k = 0 then (0 : Word) else if k = d then w[2] else s.x k) ∧
        t.hart = { (s.past 4).hart with x := t.hart.x, readyAt := s.clk + s.homeLatency (.mem at_) } ∧ t.task = s.task ∧ t.mem = s.mem ∧
        t.queueWords q = w.set 2 (w[2] + 1) ∧ (∀ k, k ≠ q → t.queueWords k = s.queueWords k) ∧
        t.tile.xfers = s.tile.xfers ++ [o] ∧ o.kind = .append q w[2].toNat p ∧ (s.clk + 1, .qappEntryWrite s.tile.idx o.id) ∈ t.agenda) ∧
    (pkAsid p ≠ s.task.asid ∨ qValid w = false ∨ qAsid w ≠ s.task.asid ∨ packetHolds p = true → exec (.qapp d h a b f) s = .next (s.takeTrap (trapCapv subDEST)))) ∧
  (∀ (s : State) (o : XferOp) (q ticket at_ : Nat) (p : List Word), s.tile.xfers = [o] → o.kind = .append q ticket p → o.src = none → o.ntf = false → p.length = 8 → Memory.wf s.mem = true →
    (∀ r, s.taskAt? o.tid = some r → r.ending = false) → s.ringAddr q ticket = some at_ →
    let w := s.queueWords q
    let room := ticket < w[3].toNat + 2 ^ qExp w ∧ s.little at_ 8 % 16 = 15
    (room → ∃ t, exec (.qappEntryWrite s.tile.idx o.id) s = .next t ∧ t.tile.xfers = [] ∧ Stored at_ (wordBytes p) s t ∧ t.hart = s.hart ∧ t.task = s.task ∧
      (qConsumer w ≠ 0 → (s.clk + 1, .queueConsume q) ∈ t.agenda)) ∧
    (¬room → exec (.qappEntryWrite s.tile.idx o.id) s = .next s)) ∧
  (∀ (s : State) (h : BitVec 4) (a : BitVec 3), s.Plain → s.ownEntries = false →
    let keep (f : CachedRecord → Bool) : State := (s.past 4).setTile { s.tile with cache := s.tile.cache.filter f }
    exec .srinvAll s = .next (keep fun e => e.asid != s.task.asid) ∧
    (∀ c, s.checkHandle h needRD = .ok c → (s.hart.getOX a).toNat < 2 ^ 40 → (s.hart.getOX a).toNat % 64 = 0 →
      exec (.srinv h a) s = .next (keep fun e => !(e.asid == s.task.asid && e.root == c.root && e.off == (s.hart.getOX a).toNat))))

/-- HALO, MBOX and MBOX.wait (R230, R231, R232, R233). HALO hands the bytes of its range to the engine for the neighbour in a direction; the receiver accepts the deposit, which moves the version of its buffer on, or answers that its task has gone; the reply frees the sender, or traps it; the join writes exactly the bytes and counts the direction once. MBOX reads the counts and the swaps, and MBOX.wait goes on once the counts reach its operand. -/
def Obligations.HaloDeposits : Prop :=
  (∀ (s : State) (p h : BitVec 4) (a : BitVec 3) (r : Dir) (f : Bool) (c e src : CapRec) (l : Launch) (nb : Nat × Nat), s.Plain → s.EngineReady → s.task.coord.isSome = true →
    s.checkHandle h needRD = .ok c → c.kind ≠ .commons → c.level = .tile ∨ c.level = .cluster → s.admits c .engineRead = .ok → s.checkHandle p needNone = .ok e → e.kind = .phase →
    s.rec? c.engineImg = some src → src.img = c.engineImg → src.kind ≠ .frac → s.towards r = some (l, nb) →
    let w := s.hart.getOX a
    let off := wordBits 31 0 w
    let to_ := wordBits 47 32 w
    let n := wordBits 63 48 w
    off % 4 = 0 → to_ % 4 = 0 → n % 4 = 0 → 4 ≤ n → to_ + n ≤ e.len / 4 → off + n ≤ c.len →
    ∃ t o, exec (.halo p h a r f) s = .next t ∧ t.hart = { s.hart with wait := some (.halo o.id 0 p), met := none, inRep := false } ∧ t.tile.xfers = s.tile.xfers ++ [o] ∧
      o.kind = .halo ((l.tidAt nb).getD 0) (dirIx (dirOpposite r)).val p e.len none [] ∧ o.src = some src.img ∧ o.srcOff = off ∧ o.legs.map (fun g => (g.off, g.len)) = [(to_, n)] ∧
      t.rec? src.img = some (src.drainedBy s.task.tid) ∧ t.mem = s.mem ∧ t.task = s.task ∧
      (s.clk + (if dieOf s.tile.idx = dieOf (tileIx (l.row + nb.1) (l.col + nb.2)) then 12 else 300), .haloReceive s.tile.idx o.id) ∈ t.agenda) ∧
  (∀ (s : State) (o : XferOp) (rc : Tid) (k : Nat) (p : BitVec 4) (len : Nat) (g : Leg), s.tile.xfers = [o] → o.kind = .halo rc k p len none [] → o.legs = [g] → s.hart.live = true → s.hart.tile = s.tile.idx →
    s.hart.wait = some (.halo o.id 0 p) →
    (∀ q c ph, s.taskAt? rc = some q → rc ≠ 0 → q.getH p ≠ 0 → s.rec? (imgOf (q.getH p)) = some c → c.phase = some ph → ph.exited = false → c.len = len →
      ∃ t, exec (.haloReceive s.tile.idx o.id) s = .next t ∧ t.hart = { s.hart with wait := some (.halo o.id 1 p) } ∧ t.rec? c.img = some { c with openDeposits := c.openDeposits + 1, version := c.version + 1, revVersion := if c.version + 1 = 0 then 0 else c.revVersion } ∧
        (s.clk + (if dieOf s.tile.idx = dieOf q.tile then 12 else 300), .haloReply s.tile.idx o.id) ∈ t.agenda ∧ (s.clk + (g.len + 63) / 64, .haloDepositJoin s.tile.idx o.id) ∈ t.agenda) ∧
    (s.taskAt? rc = none → (∀ q, s.taskAt? o.tid = some q → q.ending = false) → ∃ t, exec (.haloReceive s.tile.idx o.id) s = .next t ∧ t.hart = { s.hart with wait := some (.halo o.id 2 p) } ∧ t.tile.xfers = [])) ∧
  (∀ (s : State) (o : Nat) (p : BitVec 4), s.Plain → s.hart.live = true → s.hart.tile = s.tile.idx →
    (s.hart.wait = some (.halo o 1 p) → exec (.haloReply s.tile.idx o) s = .next (s.stands (s.hart.pc + 4) (s.clk + 1))) ∧
    (∀ q x, (q = 2 ∧ x = trapOwnx (some p)) ∨ (q = 3 ∧ x = trapCapv subDEST p) → s.hart.wait = some (.halo o q p) →
      exec (.haloReply s.tile.idx o) s = .next (s.setHart { s.hart with wait := none, met := none, remoteTrap := some x, readyAt := s.clk + 1 }))) ∧
  (∀ (s : State) (o : XferOp) (rc : Tid) (k : Nat) (p : BitVec 4) (g : Leg) (c e : CapRec) (ph : PhaseState) (bytes : List Byte), s.tile.xfers = [o] → o.kind = .halo rc k p e.len (some e.img) [] →
    o.legs = [g] → o.ntf = false → k < 4 → s.ce = [] → Memory.wf s.mem = true → o.src = some c.img → s.rec? c.img = some c → c.kind ≠ .frac → c.proxy = none → s.readUpTo c g.len o.srcOff = (bytes, none) →
    s.rec? e.img = some e → c.img ≠ e.img → e.phase = some ph → ph.exited = false → (∀ q ∈ s.allTasks, q.openArrival = none) → (∀ q, s.taskAt? o.tid = some q → q.ending = false) →
    ∃ t ph', exec (.haloDepositJoin s.tile.idx o.id) s = .next t ∧ t.tile.xfers = [] ∧ t.hart = s.hart ∧ t.task = s.task ∧
      Stored (e.base + (if ph.frontHigh then 0 else e.len) + k * (e.len / 4) + g.off) bytes s t ∧ t.rec? c.img = some c.drained ∧
      t.rec? e.img = some { e with phase := some ph', openDeposits := e.openDeposits - 1 } ∧ ph' = { ph with counts := ph'.counts } ∧
      ∀ j : Fin 4, ph'.counts[j] = if j.val = k then min 255 (ph.counts[j] + 1) else ph.counts[j]) ∧
  (∀ (s : State) (h : BitVec 4) (d b : BitVec 5) (c : CapRec) (ph : PhaseState), s.Plain → s.checkHandle h needNone = .ok c → c.phase = some ph →
    (∃ t, exec (.mbox h d) s = .next t ∧
      WroteX d (BitVec.ofNat 64 (ph.counts[0] + ph.counts[1] * 2 ^ 8 + ph.counts[2] * 2 ^ 16 + ph.counts[3] * 2 ^ 24 + ph.swaps * 2 ^ 32)) (s.past 4) t) ∧
    ((s.x b).toNat < 2 ^ 32 → (∀ r : Dir, wanted (s.x b) r ≠ 0 → (s.towards r).isSome = true) → (∀ r : Dir, wanted (s.x b) r ≤ ph.counts[dirIx r]) → exec (.mboxWait h b) s = .next (s.past 4)))

/-- BARA, BARW and BAR, and their release (R234, R235, R236, R237). A barrier number above 9 raises ILL; an arrival with .sw and an empty handle raises CAPV KIND; an arrival is recorded with the group of R234 and its phase buffer; BAR waits and BARA goes on; BARW of a released arrival ends it; the release moves every arrival on, swaps the phases of its buffers, and wakes the streams that wait. -/
def Obligations.Barriers : Prop :=
  (∀ (s : State) (h : BitVec 4) (sw : Bool) (a : BitVec 3) (b : BitVec 4) (l : Launch) (rc : Nat × Nat), s.Plain → s.launchAt? s.task.launch = some l → s.task.coord = some rc →
    (10 ≤ b.toNat → exec (.bara h sw a b) s = .next (s.takeTrap { cause := .ill }) ∧ exec (.bar h sw a b) s = .next (s.takeTrap { cause := .ill })) ∧
    (b.toNat < 10 → s.task.openArrival = none → s.handle h = 0 → exec (.bara h true a b) s = .next (s.takeTrap (trapCapv subKIND h)) ∧ exec (.bar h true a b) s = .next (s.takeTrap (trapCapv subKIND h))) ∧
    (∀ img : Option Image, b.toNat < 10 → s.releaseWait = none → (∀ x, s.task.openArrival = some x → x.released = true ∧ x.by_ ≠ some (s.hart.no, s.hart.pc)) →
      (sw = false → h = 0 ∧ img = none) → (sw = true → ∃ c ph, s.checkHandle h needNone = .ok c ∧ c.phase = some ph ∧ img = some c.img) →
      let g := subgroupOf a.toNat b.toNat (l.rel rc)
      let arrived (t : State) (by_ : Option (Nat × Word)) : Prop := ∃ x k bar, t.task = { s.task with openArrival := some x } ∧ x = ⟨a.toNat, b.toNat, x.gen, img, false, false, by_⟩ ∧
        t.launchAt? l.idx = some k ∧ bar ∈ k.barriers ∧ bar.group = g ∧ (s.task.tid, img) ∈ bar.arrived ∧ t.mem = s.mem ∧ t.quire = s.quire
      (∃ t, exec (.bara h sw a b) s = .next t ∧ arrived t none ∧ t.hart = (s.past 4).hart) ∧
      (∃ t, exec (.bar h sw a b) s = .next t ∧ arrived t (some (s.hart.no, s.hart.pc)) ∧ t.hart = { s.hart with wait := some .barrier, met := none, inRep := false })) ∧
    (∀ x, s.task.openArrival = some x → x.released = true → b.toNat < 10 →
      exec .barw s = .next ((s.past 4).setTask { s.task with openArrival := none }) ∧
      (x.by_ = some (s.hart.no, s.hart.pc) → (sw = true ∨ h = 0) → exec (.bar h sw a b) s = .next ((s.past 4).setTask { s.task with openArrival := none }))) ∧
    (s.task.openArrival = none → exec .barw s = .next (s.past 4))) ∧
  (∀ (s : State) (l : Launch) (bar : Barrier), s.launchAt? l.idx = some l → l.barriers.find? (fun x => x.group == bar.group && x.releasing) = some bar →
    s.task.state ≠ .exited → s.hart.live = true → s.hart.tid = s.task.tid → (∀ q ∈ s.harts, q.tid = s.task.tid → q.no ≠ s.hart.no) → s.Plain →
    ∀ x img, s.task.openArrival = some x → bar.arrived = [(s.task.tid, img)] → (∀ i, img = some i → ∃ e ph, s.rec? i = some e ∧ e.openDeposits = 0 ∧ e.phase = some ph) →
    ∃ t k, exec (.barrierRelease l.idx bar.group) s = .next t ∧ t.launchAt? l.idx = some k ∧
      k.barriers = l.barriers.map (fun y => if y.group = bar.group then { y with gen := y.gen + 1, arrived := [], releasing := false } else y) ∧
      (s.hart.wait = some .barrier → t.hart = (s.stands (s.hart.pc + 4) (s.clk + 1)).hart ∧ t.task = { s.task with openArrival := none }) ∧
      ((∀ q ∈ s.hartsOf s.task.tid, q.wait ≠ some .barrier) → t.hart = s.hart ∧ t.task = { s.task with openArrival := some { x with released := true, swapping := false } }) ∧
      t.mem = s.mem ∧ ∀ i e ph, img = some i → s.rec? i = some e → e.phase = some ph →
        t.rec? e.img = some { e with phase := some { ph with frontHigh := !ph.frontHigh, counts := Vector.replicate 4 0, swaps := (ph.swaps + 1) % 256 } })

/-- Scan contexts, deposits, carries and epochs (R283, R284, R285, R287, R288, R289, R290, R291, R292, R293, R295, R383). SCNB configures a free context with its position and generation; SCNP deposits the aggregate of the next epoch; SCNG takes the carry of the oldest untaken epoch once the deposits before it have arrived (the identity at the first position, and for an integer sum the sum of the values before it); SCNE and SCNE.close end an epoch and leave the line. The events let a parked scan instruction complete as it would have at its issue. -/
def Obligations.Scans : Prop :=
  ((∀ (s : State) (a : BitVec 5) (k : BitVec 2) (l : Launch) (rc : Nat × Nat), s.Plain → s.Served (.scan k.toNat) → s.launchAt? s.task.launch = some l → s.task.coord = some rc →
      let u := s.lineUp (.scan k.toNat)
      let w := s.x a
      let op := wordBits 2 0 w
      let legal := op ≤ 4 ∧ ¬(op = 3 ∧ w.getLsbD 3 = true) ∧ ¬(op = 4 ∧ w.getLsbD 5 = true) ∧ (op = 4 ∨ wordBits 14 13 w = 0) ∧ wordBits 12 9 w ≤ 9 ∧ w.toNat < 2 ^ 15
      (¬legal ∨ (s.task.ctx k).configured = true → exec (.scnb a k) s = .next (u.takeTrap { cause := .ill })) ∧
      (legal → (s.task.ctx k).configured = false →
        let g := subgroupOf (wordBits 8 6 w) (wordBits 12 9 w) (l.rel rc)
        let height := min (2 ^ g.a) (l.rows - g.row)
        let width := min (2 ^ g.b) (l.cols - g.col)
        let r := (l.rel rc).1 - g.row
        let c := (l.rel rc).2 - g.col
        ∃ t x, exec (.scnb a k) s = .next t ∧ t.task = s.task.setCtx k x ∧ t.hart = (s.past 4).hart ∧ t.mem = s.mem ∧ x.configured = true ∧ x.op = op ∧ x.int32 = w.getLsbD 3 ∧
          x.snake = w.getLsbD 4 ∧ x.inclusive = w.getLsbD 5 ∧ x.queue = wordBits 14 13 w ∧ x.ed = 0 ∧ x.eg = 0 ∧ x.er = 0 ∧ x.n = height * width ∧
          x.generation = (s.task.ctx k).generation + 1 ∧ x.position = r * width + (if w.getLsbD 4 = true ∧ r % 2 = 1 then width - 1 - c else c))) ∧
    (∀ (s : State) (b d : BitVec 5) (k : BitVec 2) (l : Launch) (c : ScanCtx) (ln : ScanLine), s.Plain → s.Served (.scan k.toNat) → s.RowsFree → s.OnLine k l c ln →
      let u := s.lineUp (.scan k.toNat)
      let closed (e : Nat) : Prop := e < 2 ∨ ln.broken = true ∨ ∃ x ∈ ln.closed, x.1 = e - 2 ∧ x.2 ≤ s.clk
      let sent : Deposit := ⟨c.position, c.ed.toNat, s.v b, if c.op = 3 then s.v (b + 1) else 0, s.clk, c.config⟩
      (c.op = 3 → b.getLsbD 0 = true → exec (.scnp b k) s = .next (u.takeTrap { cause := .ill })) ∧
      (¬(c.op = 3 ∧ b.getLsbD 0 = true) → closed c.ed.toNat → (c.op = 4 → s.userFull c ln = false) → s.releaseWait = none →
        ∃ t k' x, exec (.scnp b k) s = .next t ∧ t.hart = (s.past 4).hart ∧ t.mem = s.mem ∧ t.launchAt? s.task.launch = some k' ∧ x ∈ k'.lines ∧ sent ∈ x.deposits ∧ x.lastDeposit = s.clk ∧
          t.task.ctx k = { c with ed := c.ed + 1 } ∧ (∀ j, j ≠ k → t.task.ctx j = s.task.ctx j) ∧
          ∀ tid q, c.op = 4 → c.queue < 4 → ln.successor c.position c.ed.toNat = some tid → tid ≠ s.task.tid → s.taskAt? tid = some q → q.state ≠ .exited →
            ∃ q', t.taskAt? tid = some q' ∧ q'.qv.toArray.getD c.queue [] = q.qv.toArray.getD c.queue [] ++ [⟨s.v b, some (k.toNat, c.begun)⟩]) ∧
      (c.op = 4 ∨ (c.op = 3 ∧ d.getLsbD 0 = true) ∨ c.ed ≤ c.eg → exec (.scng d k) s = .next (u.takeTrap { cause := .ill })) ∧
      (c.op < 4 → (c.op = 3 → d.getLsbD 0 = false) → c.eg < c.ed → ln.Ready s.clk c.eg.toNat (fun p => p < c.position ∨ (c.inclusive = true ∧ p = c.position)) →
        ∃ t, exec (.scng d k) s = .next t ∧ t.hart = { (s.past 4).hart with v := t.hart.v } ∧ t.mem = s.mem ∧
          (∀ i, i ≠ d → ¬(c.op = 3 ∧ i = d + 1) → t.v i = s.v i) ∧ t.task = s.task.setCtx k { c with eg := c.eg + 1 } ∧
          t.v d = packRow 32 (ln.carry c c.eg.toNat).1 ∧ (c.op = 3 → t.v (d + 1) = packRow 32 (ln.carry c c.eg.toNat).2) ∧
          (c.op = 0 → c.int32 = true → c.position < c.n → c.n ≤ 40960 → (∀ p < c.n, ∃ m ∈ ln.members, m.pos = p) → ∀ j < 16, laneOf 32 (t.v d) j =
            (((List.range (c.position + if c.inclusive then 1 else 0)).map fun p =>
              match ln.deposits.find? (fun d => d.pos == p && d.epoch == c.eg.toNat) with | some d => laneOf 32 d.row0 j | none => 0).sum) % 2 ^ 32) ∧
          (c.position = 0 → c.inclusive = false → ∀ j < 16, laneOf 32 (t.v d) j =
            (if c.op = 0 then 0 else if c.op = 1 then (if c.int32 then 0x80000000 else 0xFF800000) else if c.op = 2 then (if c.int32 then 0x7FFFFFFF else 0x7F800000) else 0x3F800000))) ∧
      (c.ed ≤ c.er → exec (.scne d k) s = .next (u.takeTrap { cause := .ill })) ∧
      (c.er < c.ed → ln.Ready s.clk c.er.toNat (fun _ => True) →
        ∃ t, exec (.scne d k) s = .next t ∧ WroteX d (BitVec.ofNat 64 (c.er.toNat + 1)) ((u.past 4).setTask (s.task.setCtx k { c with er := c.er + 1 })) t) ∧
      (c.er ≠ c.ed ∨ (c.op ≠ 4 ∧ c.eg ≠ c.ed) → exec (.scneClose d k) s = .next (u.takeTrap { cause := .ill })) ∧
      (c.er = c.ed → c.op = 4 ∨ c.eg = c.ed → ∃ t, exec (.scneClose d k) s = .next t ∧ (∀ r, t.x r = if r = 0 then 0 else if r = d then c.er.zeroExtend 64 else s.x r) ∧
        t.hart = { (s.past 4).hart with x := t.hart.x } ∧ t.mem = s.mem ∧ t.task = s.task.setCtx k { ScanCtx.blank with generation := c.generation, begun := c.begun }))) ∧
  (∀ (s u : State) (k : BitVec 2) (r : BitVec 5) (n e : Nat), s.task.state = .running → s.hart.tid = s.task.tid → s.hart.live = true → s.tile.idx = s.hart.tile →
      s.hart.wait = some (.scan k.toNat n r) → n < 3 →
      exec (if n = 0 then .scng r k else if n = 1 then .scne r k else .scnp r k) (s.setHart { s.hart with wait := none, met := none }) = .next u → u.hart.wait = none →
      let completes (i : Instr) : Prop := ∃ t, exec i s = .next t ∧ t.hart = { u.hart with readyAt := s.clk + 1 } ∧ t.task = u.task ∧ t.mem = u.mem ∧ t.launches = u.launches
      completes (.scanCarryReady s.task.tid s.hart.no) ∧
      (s.parkedOn s.task.tid k.toNat = [s.hart.no] → completes (.epochClose s.task.tid k.toNat e) ∧ completes (.leavingMark s.task.tid k.toNat)))

/-- Sweep instructions act on the calendar, and the sweep advances (R300, R301, R303, R304, R305, R306, R308, R309, R310, R311, R312, R313). SWCR makes a set, and SWADD, SWDEL, SWNXT, SWRPT, SWSET, SWSET.nb and SWNB change or read the member their word names, at the calendar half a round trip after the issue; SWADV arrives and waits, or answers at once what has been released; SWEEP_RELEASE moves s on, drops dying members, makes the newborn live, steps the rates by the reports, and fixes the new due list. -/
def Obligations.Sweeps : Prop :=
  ((∀ (s : State) (d : BitVec 5) (k : BitVec 3) (a : BitVec 5) (l : Launch) (rc : Nat × Nat) (n : Nat), s.Plain → s.launchAt? s.task.launch = some l → s.task.coord = some rc →
      let w := s.x a
      let ox := s.hart.getOX k
      let g := subgroupOf (wordBits 27 25 w) (wordBits 31 28 w) (l.rel rc)
      let legal := wordBits 63 32 w = 0 ∧ wordBits 31 28 w ≤ 9 ∧ wordBits 19 17 w ≤ wordBits 22 20 w ∧ thresholdBad (lo32 ox) = false ∧ thresholdBad (hi32 ox) = false ∧
        fpLt (fp32.decode (hi32 ox).toNat) (fp32.decode (lo32 ox).toNat) = false
      (¬legal → exec (.swcr d k a) s = .next (s.takeTrap { cause := .ill })) ∧
      (legal → 65536 < wordBits 16 0 w → exec (.swcr d k a) s = .next (s.takeTrap (trapCapv subLEN))) ∧
      (legal → wordBits 16 0 w ≤ 65536 → dieOf (l.corners g).1 = dieOf (l.corners g).2 → n < 16 → (s.dieAt s.sweepDie).calendar? n = none →
        (∀ j < n, ((s.dieAt s.sweepDie).calendar? j).isSome = true) → ∃ c, SweepPerforms s (.swcr d k a) d (some (BitVec.ofNat 64 (n * 2 ^ 16))) c ∧
          c.no = n ∧ c.asid = s.task.asid ∧ c.launch = s.task.launch ∧ c.lo = lo32 ox ∧ c.hi = hi32 ox ∧ c.rmax = wordBits 22 20 w ∧ c.extrap = w.getLsbD 23 ∧ c.s = 0 ∧
          c.members.map (·.idx) = List.range (wordBits 16 0 w) ∧ (∀ m ∈ c.members, m.state = .live ∧ m.r = wordBits 19 17 w ∧ m.v0 = 0 ∧ m.v1 = 0 ∧ m.slope0 = 0 ∧ m.slope1 = 0 ∧ m.sLast = 0 ∧
            (w.getLsbD 24 = false → m.valid = 0)) ∧
          c.dueList = List.range (wordBits 16 0 w) ∧ c.parts.length = (l.extent g).1 * (l.extent g).2)) ∧
    (∀ (s : State) (d a b : BitVec 5) (k : BitVec 3) (c : Calendar) (p : Nat) (m : Member), s.Plain → s.InSet (s.x a) c p → c.member? (wordBits 15 0 (s.x a)) = some m → wordBits 63 24 (s.x a) = 0 →
      let w := s.x a
      let ox := s.hart.getOX k
      let slot (j : Nat) : Nat := ox.toNat / 2 ^ (16 * j) % 2 ^ 16
      let linked (self : Nat) : Prop := ∀ j < 4, w.getLsbD (20 + j) = true → slot j ≠ self ∧ (c.member? (slot j)).isSome = true
      let words : Vector (BitVec 16) 4 := Vector.ofFn fun j => BitVec.ofNat 16 (slot j)
      let bare := wordBits 23 20 w = 0
      (∀ i, m.heldBy p = true → i < 65536 → c.member? i = none → (∀ j < i, (c.member? j).isSome = true) → linked i →
        SweepPerforms s (.swadd d k a) d (some (memberName c i))
          (c.put { m with idx := i, holder := p, handed := true, report := 0, pending := false, valid := BitVec.ofNat 4 (wordBits 23 20 w), state := .newborn, slots := words })) ∧
      (m.heldBy p = true → (∀ i < 65536, (c.member? i).isSome = true) → SweepPerforms s (.swadd d k a) d (some (BitVec.allOnes 64)) c) ∧
      (bare → m.heldBy p = true → SweepPerforms s (.swdel a) 0 none (Calendar.put { c with dueList := c.dueList.filter fun i => i != m.idx } { m with state := .dying, report := 0 })) ∧
      (bare → m.holder = p → m.handed = true → m.state = .live → ∃ q, SweepPerforms s (.swrpt b a) 0 none (c.put { m with report := q }) ∧
        q = c.classify (lo32 (s.x b)) ∧
        (∀ n m' e, fp32.decode (lo32 (s.x b)).toNat = .fin n m' e → q = if fpLt (fp32.decode c.hi.toNat) (.fin false m' e) then 2 else if fpLt (.fin false m' e) (fp32.decode c.lo.toNat) then 3 else 1)) ∧
      (bare → m.heldBy p = true → SweepPerforms s (.swset b k a) 0 none
        (c.put { m with v0 := lo32 (s.x b), v1 := hi32 (s.x b), slope0 := lo32 ox, slope1 := hi32 ox, sLast := c.s })) ∧
      (m.heldBy p = true → linked m.idx → SweepPerforms s (.swsetNb k a) 0 none (c.put { m with valid := BitVec.ofNat 4 (wordBits 23 20 w), slots := words })) ∧
      (∀ (j : BitVec 2) (i : Bool), bare →
        (m.valid.getLsbD j.toNat = false → SweepPerforms s (.swnb d i j a) d (some 0x7FC00000) c) ∧
        (∀ y, m.valid.getLsbD j.toNat = true → c.member? m.slots[j.toNat].toNat = some y → c.extrap = false ∨ y.sLast = c.s →
          SweepPerforms s (.swnb d i j a) d (some ((if i then y.v1 else y.v0).zeroExtend 64)) c)) ∧
      (bare → m.heldBy p = false → exec (.swdel a) s = .next (s.takeTrap (trapCapv subDEST)) ∧ exec (.swset b k a) s = .next (s.takeTrap (trapCapv subDEST)))) ∧
    (∀ (s : State) (d a : BitVec 5) (c : Calendar) (p : Nat), s.Plain → s.InSet (s.x a) c p → wordBits 63 20 (s.x a) = 0 →
      (c.dueList = [] → SweepPerforms s (.swnxt d a) d (some (BitVec.allOnes 64)) c) ∧
      (∀ i r m, c.dueList = i :: r → c.member? i = some m →
        SweepPerforms s (.swnxt d a) d (some (memberName c i)) (Calendar.put { c with dueList := r } { m with handed := true, holder := p })))) ∧
  ((∀ (s : State) (d a : BitVec 5) (c : Calendar) (p : Nat) (q : Participant), s.Plain → s.task.coord.isSome = true → wordBits 63 20 (s.x a) = 0 →
      (s.dieAt s.sweepDie).calendar? (wordBits 19 16 (s.x a)) = some c → c.asid = s.task.asid → c.launch = s.task.launch → c.partOf s.task.tid = some p → c.poisoned = false →
      c.part? s.task.tid = some q → s.siblingAt c = false → s.releaseWait = none →
      (q.done = false → ∃ r k, let u := (s.setHart { s.hart with wait := some (.sweepReq (s.clk + s.sweepPark / 2) r), met := none, inRep := false })
        exec (.swadv d a) s = .next u ∧
        let t := (u.at_ (s.clk + s.sweepPark / 2)).sweepArrive r
        t.hart = { s.hart with wait := some (.sweep s.sweepDie c.no d), met := none, inRep := false } ∧
        (t.dieAt s.sweepDie).calendar? c.no = some k ∧ k.part? s.task.tid = some { q with arrived := true } ∧ t.task = s.task ∧ t.mem = s.mem) ∧
      (q.done = true → ∃ k, SweepPerforms s (.swadv d a) d (some (c.s.zeroExtend 64)) k ∧ k.no = c.no ∧ k.part? s.task.tid = some { q with done := false })) ∧
    (∀ (s : State) (d : BitVec 5) (die : Nat) (c : Calendar) (q : Participant), s.Plain → (s.dieAt die).calendar? c.no = some c → c.advancing = true → c.releaseAt ≤ s.clk → s.parkedAt die c.no = [(s.hart, d)] →
      c.part? s.hart.tid = some q → q.arrived = true →
      ∃ t k, exec (.sweepRelease die c.no) s = .next t ∧ (∀ r, t.x r = if r = 0 then (0 : Word) else if r = d then (c.s + 1).zeroExtend 64 else s.x r) ∧
        t.hart = { (s.stands (s.hart.pc + 4) (s.clk + 1)).hart with x := t.hart.x } ∧ t.task = s.task ∧ t.mem = s.mem ∧ (t.dieAt die).calendar? c.no = some k ∧
        k.s = c.s + 1 ∧ k.advancing = false ∧ k.part? s.hart.tid = some { q with arrived := false, done := false } ∧
        k.members.map (·.idx) = (c.members.filter fun m => m.state != .dying).map (·.idx) ∧
        (∀ m ∈ k.members, m.state = .live ∧ m.report = 0 ∧ m.handed = false) ∧
        (∀ i, i ∈ k.dueList ↔ ∃ m ∈ k.members, m.idx = i ∧ (c.s + 1).toNat % 2 ^ m.r = 0) ∧
        ((c.members.map (·.idx)).Nodup → ∀ m ∈ c.members, ∀ x ∈ k.members, x.idx = m.idx → m.report = 2 → 0 < m.r → x.r < m.r)))

/-- The control space is read and written by its map (R38, R113, R116, R216, R277, R278, R327, R328, R329, R330, R362, R364). A legal write of each register is what a read then gives, a write that breaks a field map, and an access of a size other than 8 bytes, change nothing and are logged in class 7 with offset and value; CSWD reaches the same registers at S only; the log is cleared, window records are made and freed, the peer, share and queue tables and the translation caches change as their rules give, and nothing else does. -/
def Obligations.ControlSpace : Prop :=
  (∀ (s : State) (d b : BitVec 5), s.Plain →
    (s.hart.level = .u → exec (.cswdRead d) s = .next (s.takeTrap { cause := .ill }) ∧ exec (.cswdWrite b) s = .next (s.takeTrap { cause := .ill })) ∧
    (s.hart.level = .s →
      let die := wordBits 26 24 s.hart.cswa
      let off := wordBits 23 0 s.hart.cswa
      (∃ t, exec (.cswdRead d) s = .next t ∧ WroteX d (s.ctlRead die off) (s.stands (s.hart.pc + 4) (s.clk + s.cswLatency)) t) ∧
      (∃ u, exec (.controlSpaceWrite die off (.write 8 (s.x b))) s = .next u ∧ (u.Plain → exec (.cswdWrite b) s = .next (u.stands (u.hart.pc + 4) (u.clk + s.cswLatency)))))) ∧
  (∀ (s : State) (die off : Nat) (v : Word), die < 8 →
    let w (off : Nat) : Instr := .controlSpaceWrite die off (.write 8 v)
    let writes (off : Nat) (legal : Prop) (t : State) : Prop := (legal → exec (w off) s = .next t ∧ t.ctlRead die off = v) ∧ (¬legal → RefusesWrite s (w off) die off v)
    exec (.controlSpaceWrite die off (.read 8)) s = .next s ∧
    (∀ n, n ≠ 8 → RefusesWrite s (.controlSpaceWrite die off (.write n v)) die off v ∧ RefusesWrite s (.controlSpaceWrite die off (.read n)) die off 0) ∧
    (off % 8 ≠ 0 → RefusesWrite s (w off) die off v ∧ s.ctlRead die off = 0) ∧
    writes 0 (16 ≤ v.toNat ∧ v.toNat ≤ 32) (s.modDie die fun d => { d with wdlim := v.toNat }) ∧
    writes 8 (1000 ≤ v.toNat ∧ v.toNat ≤ 4500) { s with pcap := v } ∧
    writes 0x10 (wordBits 63 24 v = 0 ∧ wordBits 23 20 v ≤ 8 ∧ 100 ≤ wordBits 19 0 v ∧ wordBits 19 0 v ≤ 1000000) (s.modDie die fun d => { d with hbmctl := v }) ∧
    RefusesWrite s (w 0x18) die 0x18 v ∧
    writes 0x28 (1 ≤ wordBits 63 56 v ∧ wordBits 63 56 v ≤ 254 ∧ 1 ≤ wordBits 55 48 v ∧ 1 ≤ wordBits 47 32 v ∧ 1 ≤ wordBits 31 16 v ∧ 10 ≤ wordBits 15 0 v ∧ wordBits 15 0 v ≤ 60000) { s with hntcfg := v } ∧
    (∀ core < 5120, let k := tileOfCore die core
      (wordBits 63 40 v = 0 → exec (w (0x60000 + 8 * core)) s = .next (s.modTile k fun t => { t with rampHeld := 0, rampc := BitVec.ofNat 64 (wordBits 7 0 v) })) ∧
      (wordBits 63 40 v ≠ 0 → RefusesWrite s (w (0x60000 + 8 * core)) die (0x60000 + 8 * core) v)) ∧
    (∀ a < 16384, (wordBits 62 54 v ≠ 0 ∨ wordBits 15 0 v ≠ 0 → RefusesWrite s (w (0xC0000 + 8 * a)) die (0xC0000 + 8 * a) v) ∧
      (wordBits 62 54 v = 0 → wordBits 15 0 v = 0 → v.getLsbD 63 = true → ∃ t, exec (w (0xC0000 + 8 * a)) s = .next t ∧ t = { s with asids := t.asids } ∧ t.ctlRead die (0xC0000 + 8 * a) = v)) ∧
    (0xE0000 ≤ off → RefusesWrite s (w off) die off v ∧ s.ctlRead die off = 0)) ∧
  (∀ (s : State) (die : Nat) (v : Word), die < 8 → let o := s.dieAt die
    (wordBits 31 0 v ≠ 0 → RefusesWrite s (.elstatClear die v) die 0x20 v) ∧
    (wordBits 31 0 v = 0 → (∀ x ∈ o.log, x.tick ≠ s.tick) → (∀ x ∈ o.logDropped, x.tick ≠ s.tick) → ∃ t, exec (.elstatClear die v) s = .next t ∧ t = { s with dies := t.dies } ∧
      (∀ d, d ≠ die → t.dieAt d = s.dieAt d) ∧ (t.dieAt die).log = (o.log.filter fun x => decide (wordBits 63 32 v < x.seq.toNat)) ∧
      (t.dieAt die).logNext = o.logNext ∧ (t.dieAt die).ecnt = o.ecnt ∧ (t.dieAt die).logOverflow = o.logOverflow)) ∧
  (∀ (s : State) (v : Word) (img : Nat),
    let first := wordBits 11 0 v
    let n := wordBits 23 12 v + 1
    (wordBits 62 46 v ≠ 0 ∨ wordBits 31 24 v ≠ 0 → RefusesWrite s (.winreqGo v) 0 0x80 v) ∧
    (wordBits 62 46 v = 0 → wordBits 31 24 v = 0 → v.getLsbD 63 = true →
      (s.asidLive (BitVec.ofNat 14 (wordBits 45 32 v)) = true → first + n ≤ 4095 → s.freeRecord 0 = some img →
        ∃ t c, exec (.winreqGo v) s = .next t ∧ t = { s with quire := t.quire, winres := BitVec.ofNat 64 (2 ^ 63 + c.image) } ∧ t.rec? img = some c ∧ OtherRecords [img] s t ∧
          c.img = img ∧ c.base = windowBase + 64 * first ∧ c.len = 64 * n ∧ c.kind = .commons ∧ c.window = true ∧ c.count = 0 ∧ c.asid = BitVec.ofNat 14 (wordBits 45 32 v)) ∧
      (s.asidLive (BitVec.ofNat 14 (wordBits 45 32 v)) = false ∨ 4095 < first + n → ∃ t, exec (.winreqGo v) s = .next { t with winres := 3 <<< 62 } ∧ Logged s t 0 7 0x80 v)) ∧
    (∀ c, s.rec? (wordBits 22 0 v) = some c →
      let frees := wordBits 63 28 v = 0 ∧ c.window = true ∧ isWindow c.base = true ∧ c.isRoot = true ∧ c.count = 0 ∧ c.launch = none ∧ c.image = v.toNat
      (frees → ∃ t, exec (.winfree v) s = .next t ∧ t = { s with quire := t.quire, quireCE := t.quireCE, quireUE := t.quireUE, quireBad := t.quireBad } ∧ t.rec? c.img = none ∧ OtherRecords [c.img] s t) ∧
      (¬frees → RefusesWrite s (.winfree v) 0 0x90 v))) ∧
  (∀ (s : State) (dev : Nat) (v : Word),
    let legal := 1 ≤ dev ∧ dev ≤ 254 ∧ wordBits 62 56 v = 0 ∧ wordBits 19 12 v = 0
    (¬legal → RefusesWrite s (.peerEpochWrite dev v) 0 (0x70000 + 8 * dev) v) ∧
    (legal → wordBits 55 40 v ≠ (s.peerEpochOf dev + 1) % 65536 → ∃ t, exec (.peerEpochWrite dev v) s = .next t ∧ t = { s with peers := t.peers } ∧ ∀ k, t.peerWord k = if k = dev then v.toNat else s.peerWord k)) ∧
  (∀ (s : State) (die off : Nat) (v : Word), die < 8 →
    let share := 0x10000 ≤ off ∧ off < 0x60000 ∧ off % 8 = 0 ∧ wordBits 63 19 v = 0
    let q := 2048 * die + (off - 0xA0000) / 32
    let w := s.queueWords q
    let i := (off - 0xA0000) / 8 % 4
    let entry := 0xA0000 ≤ off ∧ off < 0xB0000 ∧ off % 8 = 0 ∧ i < 2 ∧ (qValid w = false ∨ qW w = qRI w) ∧ (i = 0 → wordBits 59 50 v = 0 ∧ wordBits 31 0 v = 0) ∧ (i = 1 → wordBits 63 23 v = 0)
    (¬share → RefusesWrite s (.shareTableWrite die off v) die off v) ∧ (¬entry → RefusesWrite s (.queueTableWrite die off v) die off v) ∧
    (share → ∃ t, exec (.shareTableWrite die off v) s = .next t ∧ t = { s with dies := t.dies } ∧ t.ctlRead die off = v ∧ (t.dieAt die).share = (s.dieAt die).share) ∧
    (entry → ∃ t, exec (.queueTableWrite die off v) s = .next t ∧ t = { s with queues := t.queues, agenda := t.agenda } ∧ (∀ j : Fin 4, (t.queueWords q)[j] = if j.val = i then v else w[j]) ∧
      (∀ k, k ≠ q → t.queueWords k = s.queueWords k) ∧ (i = 0 → qValid (t.queueWords q) = true → qConsumer (t.queueWords q) ≠ 0 → (s.clk + 1, .queueConsume q) ∈ t.agenda))) ∧
  (∀ (s : State) (asid : BitVec 14),
    ((∀ d ∈ s.dies, ∀ x ∈ d.walks, x.asid ≠ asid) → ∃ t, exec (.translationInvalidate asid) s = .next t ∧ t = { s with clusters := t.clusters } ∧
      ∀ c ∈ t.clusters, ∀ p ∈ c.tc, p.asid ≠ asid) ∧
    ((∃ d ∈ s.dies, ∃ x ∈ d.walks, x.asid = asid) → ∃ t, exec (.translationInvalidate asid) s = .next t ∧ t = { s with dies := t.dies, agenda := t.agenda } ∧
      (∀ d ∈ t.dies, ∀ x ∈ d.walks, x.asid = asid → x.discard = true) ∧ (s.clk + 1, .translationInvalidate asid) ∈ t.agenda))

/-- Seize, resume, thaw and reset follow the state table (R277, R334, R336, R337, R338, R339, R341, R345, R346, R347). Each command is taken in its state and refused with its code in every other; a settled device streams an image that holds its whole state; a resume from a sound image of this device gives that state back and a refused one leaves the reason; a thaw goes on; reset leaves a device without work and memory of its own that reads zero (log 4), and keeps what the host holds. -/
def Obligations.Seizing : Prop :=
  (∀ s : State,
    let b := s.seize
    let refuses (i : Instr) (why : Nat) : Prop := exec i s = .next { s with seize := { b with refusal := why } }
    let region := b.base.toNat % 4096 = 0 ∧ 800 * 2 ^ 30 ≤ b.length.toNat
    (b.state = .running → ¬region → refuses .seize 2) ∧
    (b.state = .running → region → (∀ h ∈ s.allHarts, s.abandonable h = false) → ∃ t, exec .seize s = .next t ∧
      t = { s with seize := { b with refusal := 0, state := .quiescing, streamed := 0, stale := false }, links := t.links } ∧ ∀ l ∈ t.links, l.ownerWait = []) ∧
    (b.state = .failed → exec .seize s = .next { s with seize := { b with refusal := 0, state := .streaming, streamed := 0 } }) ∧
    (b.state ≠ .running → b.state ≠ .failed → refuses .seize 1) ∧
    (b.state = .quiescing → s.settled = true → exec .quiesceComplete s = .next { s with seize := { b with state := .streaming } }) ∧
    (b.state = .streaming → s.HostReachable → exec .streamPortsFailed s = .next s ∧ (Memory.wf s.mem = true → ∃ t i, exec .streamComplete s = .next t ∧ t.ImageAt i ∧ i.signed = true ∧ t.imageSound i = true ∧
      i.device = 0 ∧ 4096 ≤ i.length ∧ i.body = s.toDevice ∧ (∀ a, isHost a = false → memGet a t.mem = memGet a s.mem) ∧
      t = { s with mem := t.mem, ue := t.ue, ce := t.ce, images := t.images, seize := { b with state := .frozen, seizes := b.seizes + 1, streamed := BitVec.ofNat 64 i.length, frozenAt := BitVec.ofNat 64 s.ptp } })) ∧
    (b.state = .streaming → ¬s.HostReachable → exec .streamComplete s = .next s ∧ ∃ t n, exec .streamPortsFailed s = .next t ∧ (Memory.wf s.mem = true → ∀ a, isHost a = false → memGet a t.mem = memGet a s.mem) ∧
      t = { s with mem := t.mem, ue := t.ue, ce := t.ce, free := t.free, seize := { b with state := .failed, streamed := n } }) ∧
    (b.state = .frozen ∨ b.state = .failed → b.stale = false → ∃ t, exec .thaw s = .next t ∧
      t = { s with seize := { b with refusal := 0, state := .running }, links := t.links, task := t.task, tasks := t.tasks, agenda := t.agenda } ∧
      (∀ l ∈ t.links, ∀ x, l.unansweredAt = some x → x = s.ptp) ∧
      t.task = { s.task with seizPending := t.task.seizPending } ∧ (s.hart.tid = s.task.tid → s.hart.no = 0 → s.hart.live = true → t.task.seizPending = s.hart.notify) ∧
      ∀ q ∈ s.queues, qValid q.2 = true → qConsumer q.2 ≠ 0 → (s.clk + 1, .queueConsume q.1) ∈ t.agenda) ∧
    (¬(b.state = .frozen ∨ b.state = .failed) ∨ b.stale = true → refuses .thaw 1)) ∧
  (∀ s : State,
    let b := s.seize
    let refuses (why : Nat) : Prop := exec .resumeFromImage s = .next { s with seize := { b with refusal := why } }
    let idle := s.launches = [] ∧ (∀ a ∈ s.asids, a.2.getLsbD 63 = false) ∧ ∀ q ∈ s.queues, qValid q.2 = false
    let region := b.base.toNat % 4096 = 0 ∧ 4096 ≤ b.length.toNat
    (b.state ≠ .running → refuses 1) ∧ (b.state = .running → ¬idle → refuses 5) ∧ (b.state = .running → idle → ¬region → refuses 2) ∧
    (b.state = .running → idle → region → (∀ i, ¬s.ImageAt i) → refuses 3) ∧
    (∀ i, b.state = .running → idle → region → s.ImageAt i →
      (b.length.toNat < i.length ∨ i.signed = false → refuses 3) ∧
      (i.length ≤ b.length.toNat → i.signed = true → i.device ≠ 0 → refuses 4) ∧
      (i.length ≤ b.length.toNat → i.signed = true → i.device = 0 → exec .resumeFromImage s = .next { s with seize := { b with refusal := 0, state := .restoring, streamed := 0 } }))) ∧
  (∀ (s : State) (i : Image0), s.Canonical → s.seize.state = .restoring → s.ImageAt i → s.imageSound i = true → s.HostReachable → exec .restoreFailure s = .next s ∧
    ∃ t, exec .restoreComplete s = .next t ∧ t.seize = { s.seize with state := .running, streamed := BitVec.ofNat 64 i.length } ∧ t.hart = i.body.hart ∧ t.harts = i.body.harts ∧
      t.task = { i.body.task with seizPending := t.task.seizPending } ∧ t.tile = i.body.tile ∧ t.tiles = i.body.tiles ∧ t.quire = i.body.quire ∧ t.launches = i.body.launches ∧
      t.queues = i.body.queues ∧ t.dies = i.body.dies ∧ t.clk = i.body.clk ∧ t.asids = i.body.asids ∧ t.pages = i.body.pages ∧ t.transits = i.body.transits ∧
      (∀ a, memGet a t.mem = if isHost a then memGet a s.mem else memGet a i.body.mem) ∧ t.ptp = s.ptp ∧ t.lanes = s.lanes ∧ t.images = s.images ∧ t.measure3 = i.digest ∧
      (i.body.hart.tid = i.body.task.tid → i.body.hart.no = 0 → i.body.hart.live = true → t.task.seizPending = i.body.hart.notify)) ∧
  (∀ s : State, s.Canonical →
    (s.seize.state = .restoring → (¬s.HostReachable ∨ ∀ i, s.ImageAt i → s.imageSound i = false) → exec .restoreComplete s = .next s ∧
      ∃ t, exec .restoreFailure s = .next t ∧ Scrubbed s t ∧ t.seize = { s.seize with state := .running, refusal := 3 }) ∧
    (∃ t, exec .reset s = .next t ∧ Scrubbed s t ∧ t.seize = SeizeBlock.blank))

/-- Packets at the head of a queue are consumed (R5, R216, R217, R218, R221, R264, R265, R266, R267). Each consumer takes the packet at the head of its valid queue: signals, spawns, capability messages and copies have the effect of their kind, an illegal packet is rejected and logged in class 6, the entry is marked, and RI of the queue steps. -/
def Obligations.QueuePackets : Prop :=
  (∀ (s : State) (q n a : Nat) (p : List Word), n = qRI (s.queueWords q) →
    (s.Head q 1 n a p → s.touchRing q n = s →
      let next (e : Event) : Prop := exec (.queueConsume q) s = .next (s.schedule s.clk e)
      (pkKind p = 0 → next (.spawnPacket q n)) ∧ (pkKind p = 1 → next (.launch q n)) ∧ (pkKind p = 3 → pf p 0 4 4 = 0 → next (.signalPacket q n)) ∧
      (pkKind p = 3 → pf p 0 4 4 = 1 → next (.capabilityMessageConsume q n)) ∧ (pkKind p ∉ [0, 1, 3] → RejectsPacket s (.queueConsume q) q a p)) ∧
    (s.Head q 2 n a p → s.touchRing q n = s → (pkKind p = 2 → exec (.queueConsume q) s = .next (s.schedule s.clk (.copyPacketConsume q n))) ∧ (pkKind p ≠ 2 → RejectsPacket s (.queueConsume q) q a p)) ∧
    (s.atHead q 1 n = false → s.atHead q 2 n = false → s.touchRing q n = s → s.ringBad q n = false → exec (.queueConsume q) s = .next s)) ∧
  (∀ (s : State) (q n a : Nat) (p : List Word), s.Head q 1 n a p → pkKind p = 3 → pf p 0 4 4 = 0 →
    let m : Msg := { cap := none, p0 := pw p 2, p1 := pw p 3, sender := 0, asid := pkAsid p }
    let i := Instr.signalPacket q n
    let plain := s.r5 p = true ∧ ∀ k < 4, pw p (4 + k) = 0
    (∀ d, Dest.of (pw p 1) = some d → s.isThisDevice d.dev = true → plain →
      (∀ r, d.type = 0 → s.taskAt? (BitVec.ofNat 32 d.target) = some r → s.taskInboxFull r = false → r.state ≠ .exited →
        ∃ t, exec i s = .next t ∧ EntryPassed s t q a (BitVec.allOnes 64) ∧ t.hart = s.hart ∧ t.quire = s.quire ∧ t.taskAt? r.tid = some { r with inbox := r.inbox ++ [m], ev2 := r.ev2 || r.inbox.isEmpty }) ∧
      (d.type = 1 → s.tenantOn d.target (pkAsid p) = true → s.tileInboxFull d.target = false →
        ∃ t, exec i s = .next t ∧ EntryPassed s t q a (BitVec.allOnes 64) ∧ t.hart = s.hart ∧ t.task = s.task ∧ t.quire = s.quire ∧ (t.tileAt d.target).inbox = (s.tileAt d.target).inbox ++ [m])) ∧
    (¬plain ∨ Dest.of (pw p 1) = none ∨ (∃ d, Dest.of (pw p 1) = some d ∧ (d.type = 2 ∨ s.isThisDevice d.dev = false)) → RejectsPacket s i q a p)) ∧
  (∀ (s : State) (q n a : Nat) (p : List Word) (r : Task) (l : Launch) (c : CapRec) (tid : Tid) (u : State), s.Head q 1 n a p → pkKind p = 0 →
    s.taskAt? (BitVec.ofNat 32 (pf p 4 63 32)) = some r → s.launchAt? r.launch = some l → s.rec? l.code = some c →
    let good := s.r5 p = true ∧ pf p 0 5 5 = 1 ∧ handleFields p = [] ∧ handleFieldsOk p = true ∧ r.asid = qAsid (s.queueWords q) ∧ pkAsid p = r.asid ∧ (pf p 0 47 47 = 1 ↔ s.replayable r.launch = true) ∧
      pf p 1 63 48 = 0 ∧ pf p 1 0 0 = 0 ∧ pf p 1 47 0 < c.len
    (¬good → RejectsPacket s (.spawnPacket q n) q a p) ∧
    (good → s.dequeFull r.tile = false → ¬(s.ptp < (pw p 3).toNat ∧ s.wheelFull (dieOf r.tile) = true) → s.newTid r.tile = some (tid, u) → s.taskAt? tid = none → tid ≠ s.task.tid →
      ∃ t k, exec (.spawnPacket q n) s = .next t ∧ EntryPassed s t q a (BitVec.allOnes 64) ∧ t.hart = s.hart ∧ t.task = s.task ∧ t.taskAt? tid = some k ∧ k.parent = r.tid ∧ k.launch = r.launch ∧ k.asid = r.asid ∧
        k.tile = r.tile ∧ k.pinned = false ∧ k.detached = true ∧ k.arg = pw p 5 ∧ k.deadline = pw p 2 ∧ k.budget = BitVec.ofNat 32 (pf p 4 31 0) ∧ k.prioBase = pkPrio p ∧
        k.state = if s.ptp < (pw p 3).toNat then .timed else .queued)) ∧
  (∀ (s : State) (q n a : Nat) (p : List Word) (m : RingMsg) (d : Dest), s.Head q 1 n a p → pkKind p = 3 → pf p 0 4 4 = 1 → s.ringMsg q n = some m → Dest.of (pw p 1) = some d → s.isThisDevice d.dev = true → s.r5 p = true →
    let i := Instr.capabilityMessageConsume q n
    let x : Msg := { cap := some m.img, p0 := pw p 2, p1 := 0, sender := m.sender, asid := pkAsid p }
    (∀ r, d.type = 0 → s.taskAt? (BitVec.ofNat 32 d.target) = some r → s.taskInboxFull r = false → r.state ≠ .exited →
      ∃ t, exec i s = .next t ∧ EntryPassed s t q a (BitVec.allOnes 64) ∧ t.ringMsg q n = none ∧ t.quire = s.quire ∧ t.taskAt? r.tid = some { r with inbox := r.inbox ++ [x], ev2 := r.ev2 || r.inbox.isEmpty }) ∧
    (d.type = 1 → s.tenantOn d.target (pkAsid p) = true → s.tileInboxFull d.target = false →
      ∃ t, exec i s = .next t ∧ EntryPassed s t q a (BitVec.allOnes 64) ∧ t.ringMsg q n = none ∧ t.quire = s.quire ∧ (t.tileAt d.target).inbox = (s.tileAt d.target).inbox ++ [x]) ∧
    (∀ r, d.type = 0 → s.taskAt? (BitVec.ofNat 32 d.target) = none → s.taskAt? m.sender = some r → r.state ≠ .exited → r.inbox.length < 8 → r.returns = [] →
      ∃ t, exec i s = .next t ∧ EntryPassed s t q a (BitVec.allOnes 64) ∧ t.ringMsg q n = none ∧ t.quire = s.quire ∧
        t.taskAt? r.tid = some { r with inbox := r.inbox ++ [{ x with p0 := pw p 1, p1 := pw p 2, outcome := 3 }], ev2 := r.ev2 || r.inbox.isEmpty })) ∧
  (∀ (s : State) (q n a : Nat) (p : List Word) (m : RingMsg) (r : Task), s.Head q 1 n a p → pkKind p = 3 → pf p 0 4 4 = 1 → s.ringMsg q n = some m → s.r5 p = false →
    s.taskAt? m.sender = some r → r.state ≠ .exited → r.inbox.length < 8 → r.returns = [] →
    ∃ b u t, exec (.capabilityMessageConsume q n) s = .next t ∧ b.dies = s.dies ∧ b.mem = s.mem ∧ b.quire = s.quire ∧ Logged b u (dieOfQueue q) 6 (pw p 0) 1 ∧ EntryPassed u t q a (BitVec.allOnes 64) ∧ s.CountsOnly q u t ∧
      t.ringMsg q n = none ∧ t.quire = s.quire ∧
      t.taskAt? r.tid = some { r with inbox := r.inbox ++ [{ cap := some m.img, p0 := pw p 1, p1 := pw p 2, sender := m.sender, asid := pkAsid p, outcome := 3 }], ev2 := r.ev2 || r.inbox.isEmpty }) ∧
  (∀ (s : State) (q n a : Nat) (p : List Word), s.Head q 0 n a p →
    (s.ringMsg q n = none → ∃ t, exec (.hostConsume q n) s = .next t ∧ EntryPassed s t q a (BitVec.allOnes 64) ∧ t.hart = s.hart ∧ t.task = s.task ∧ t.quire = s.quire) ∧
    (∀ m r, s.ringMsg q n = some m → s.taskAt? m.sender = some r → r.state ≠ .exited → r.inbox.length < 8 → r.returns = [] → ∃ t, exec (.hostConsume q n) s = .next t ∧ EntryPassed s t q a (BitVec.allOnes 64) ∧
      t.ringMsg q n = none ∧ t.taskAt? r.tid = some { r with inbox := r.inbox ++ [{ cap := some m.img, p0 := pw p 1, p1 := pw p 2, sender := m.sender, asid := pkAsid p, outcome := 3 }], ev2 := r.ev2 || r.inbox.isEmpty })) ∧
  (∀ (s : State) (q n a : Nat) (p : List Word) (src : CapRec) (ds : List CapRec), s.Head q 2 n a p → pkKind p = 2 →
    let tile := s.copyTile (dieOfQueue q)
    (s.r5 p = false ∨ copyPacketOk p = false ∨ copyLenOk p = false ∨ s.ringRecords q p = none → RejectsPacket s (.copyPacketConsume q n) q a p) ∧
    (s.r5 p = true → copyPacketOk p = true → copyLenOk p = true → s.ringRecords q p = some (src :: ds) → s.ringAdmit (src :: ds) = .ok → packetRanges p (src :: ds) = none →
      src.kind ≠ .frac → src.proxy = none → src.engineImg = src.img → (s.tileAt tile).accepted < 16 → (∀ x ∈ (s.tileAt tile).xfers, x.id ≠ (s.tileAt tile).xferNext) →
      ∃ t o, exec (.copyPacketConsume q n) s = .next t ∧ Stepped s t q ∧ t.hart = s.hart ∧ t.task = s.task ∧ t.mem = s.mem ∧ (t.tileAt tile).xfers = (s.tileAt tile).xfers ++ [o] ∧ o.kind = .packet none (some (q, n)) ∧
        o.src = some src.img ∧ o.srcOff = pf p 2 39 0 ∧ o.asid = qAsid (s.queueWords q) ∧ o.ntf = false ∧ o.legs.length = ds.length ∧
        ∀ k d l, ds[k]? = some d → o.legs[k]? = some l → l.dst = d.img ∧ l.off = pf p (4 + k) 63 28 * 16 ∧ l.len = pf p 3 40 0))

/-- Launches are accepted, completed, restitched and replayed (R25, R260, R261, R262, R263, R264, R276, R348, R349, R350, R351). A refused packet is logged with its cause and passed; a legal launch packet without buffers and with a place takes its region, holds its code and its parameter block, and makes one tile task a tile; a launch that has ended leaves the table, writes its completion word and gives a record that it holds back to its lender; a torus launch is re-stitched once no other stands on its region; a replay of a launch without buffers starts the tasks again twice, and ends the launch with outcome 2 the third time. -/
def Obligations.Launches : Prop :=
  (∀ (s : State) (q n a cause : Nat) (p : List Word), s.Head q 1 n a p → pkKind p = 1 →
    (s.launchCause p = some cause → s.touchTable (dieOfQueue q) p = s → ∃ u t, exec (.launch q n) s = .next t ∧ Logged s u (dieOfQueue q) 6 (pw p 0) (BitVec.ofNat 64 cause) ∧ EntryPassed u t q a (BitVec.ofNat 64 (cause * 2 ^ 8 + 31)) ∧
      s.CountsOnly q u t ∧ t.launches = s.launches ∧ t.task = s.task ∧ t.tasks = s.tasks) ∧
    (∀ (c pb : CapRec) (k : Nat), s.launchCause p = none → s.configGood = true → lpPlace p = false → lpTorus p = false → lpBuffers p = 0 → pf p 0 47 47 = 0 → s.torusHeld (lpOrigin p).1 (lpOrigin p).2 (lpRows p) (lpCols p) = false →
      lpCode p ≠ lpParams p → s.rec? (lpCode p) = some c → s.rec? (lpParams p) = some pb →
      s.launchIndex (mkLaunch q n p (lpOrigin p).1 (lpOrigin p).2) = some k → (∀ l ∈ s.launches, l.idx ≠ k + 4096 * dieOf (tileIx (lpOrigin p).1 (lpOrigin p).2)) →
      (∀ r < lpRows p, ∀ j < lpCols p, (s.newTid (tileIx ((lpOrigin p).1 + r) ((lpOrigin p).2 + j))).isSome = true) →
      let idx := k + 4096 * dieOf (tileIx (lpOrigin p).1 (lpOrigin p).2)
      ∃ t l, exec (.launch q n) s = .next t ∧ Stepped s t q ∧ t.mem = s.mem ∧ t.launchAt? idx = some l ∧ l.row = (lpOrigin p).1 ∧ l.col = (lpOrigin p).2 ∧ l.rows = lpRows p ∧ l.cols = lpCols p ∧ l.asid = pkAsid p ∧
        l.vector = pf p 7 47 0 ∧ l.replays = 0 ∧ l.terminated = 0 ∧ l.members.map (fun m => (m.1, m.2.1)) = (List.range (lpRows p * lpCols p)).map (fun i => (l.row + i / l.cols, l.col + i % l.cols)) ∧
        t.rec? (lpCode p) = some (c.holdFor idx) ∧ t.rec? (lpParams p) = some (pb.holdFor idx) ∧
        ∀ m ∈ l.members, ∃ x, t.taskAt? m.2.2 = some x ∧ x.tile = tileIx m.1 m.2.1 ∧ x.coord = some (m.1, m.2.1) ∧ x.launch = idx ∧ x.asid = pkAsid p ∧ x.pinned = true ∧ x.parent = 0 ∧ x.deadline = pw p 3 ∧
          x.prioBase = pkPrio p ∧ x.budget = BitVec.ofNat 32 (pf p 5 31 0) ∧ x.h[15] = BitVec.ofNat 64 (pb.holdFor idx).image ∧ x.state = if s.ptp < (pw p 4).toNat then .timed else .queued)) ∧
  (∀ (s : State) (l : Launch) (a : Nat), s.launchAt? l.idx = some l → s.ringAddr l.queue l.entry = some a → Memory.wf s.mem = true →
    let i := Instr.launchComplete l.idx
    (l.members = [] → l.spawned = [] → l.replayPending = false → l.stitch ≠ 1 → l.stitch ≠ 2 → l.shadows = [] →
      ∃ t, exec i s = .next t ∧ t.launchAt? l.idx = none) ∧
    (l.members ≠ [] ∨ l.spawned ≠ [] ∨ l.replayPending = true → exec i s = .next s) ∧
    (l.members = [] → l.spawned = [] → l.replayPending = false → l.stitch ≠ 1 → l.stitch ≠ 2 → l.shadows = [] → l.snapshot = [] → (∀ c ∈ s.quire, c.launch = none ∧ c.alsoHeld = [] ∧ c.fromLaunch = none) →
      ∃ t, exec i s = .next t ∧ t.launches = dropBy Launch.idx l.idx s.launches ∧ t.quire = s.quire ∧ t.hart = s.hart ∧ t.task = s.task ∧
        Stored a (bytesOf 8 (l.terminated % 2 ^ 32 * 2 ^ 16 + (if l.terminated = 0 then 0 else 48) + 15)) s t) ∧
    (∀ c f u rest, l.members = [] → l.spawned = [] → l.replayPending = false → l.stitch ≠ 1 → l.stitch ≠ 2 → l.shadows = [] → s.rec? c.img = some c → c.launch = some l.idx → c.alsoHeld = [] → c.outer = (f, u) :: rest → (s.taskAt? c.lender).isSome = true →
      ∃ t, exec i s = .next t ∧ t.rec? c.img = some { c with owner := c.lender, rights := c.heldRights, launch := none, fromLaunch := f, lender := u, outer := rest })) ∧
  (∀ (s : State) (l : Launch), s.launchAt? l.idx = some l → l.stitch = 1 →
    (s.regionBusy (some l.idx) l.row l.col l.rows l.cols = false → ∃ t, exec (.torusRestitch l.idx) s = .next t ∧ t.launchAt? l.idx = some { l with stitch := 2 } ∧
      (s.clk + 48000, .torusRestitch l.idx) ∈ t.agenda ∧ t.hart = s.hart ∧ t.mem = s.mem) ∧
    (s.regionBusy (some l.idx) l.row l.col l.rows l.cols = true → exec (.torusRestitch l.idx) s = .next (s.schedule (s.clk + 1) (.torusRestitch l.idx)))) ∧
  (∀ (s : State) (l : Launch) (a : Nat), s.launchAt? l.idx = some l → l.replayPending = true → l.restored = false → s.tasksOf l.idx = [] → l.shadows = [] → l.created = [] → l.snapshot = [] → l.replays = 2 →
    s.ringAddr l.queue l.entry = some a → Memory.wf s.mem = true → (∀ c ∈ s.quire, c.launch = none ∧ c.alsoHeld = [] ∧ c.fromLaunch = none) →
    ∃ u t, exec (.replay l.idx) s = .next t ∧ Logged s u (dieOf (tileIx l.row l.col)) 6 (pw l.packet 0) 0 ∧ s.CountsOnly l.queue u t ∧ t.launchAt? l.idx = none ∧
      Stored a (bytesOf 8 (l.terminated % 2 ^ 32 * 2 ^ 16 + 47)) s t) ∧
  (∀ (s : State) (l : Launch), s.launchAt? l.idx = some l → l.replayPending = true → l.restored = false → s.tasksOf l.idx = [] → l.shadows = [] → l.created = [] → l.snapshot = [] → l.replays < 2 →
    lpBuffers l.packet = 0 → l.rows = lpRows l.packet → l.cols = lpCols l.packet → 1 ≤ l.cols → l.row + l.rows ≤ 128 → l.col + l.cols ≤ 320 → (s.rec? l.params).isSome = true →
    (∀ r < l.rows, ∀ j < l.cols, (s.newTid (tileIx (l.row + r) (l.col + j))).isSome = true) →
    ∃ t k, exec (.replay l.idx) s = .next t ∧ t.launchAt? l.idx = some k ∧ k.replays = l.replays + 1 ∧ k.replayPending = false ∧ t.mem = s.mem ∧
      k.members.map (fun m => (m.1, m.2.1)) = (List.range (l.rows * l.cols)).map (fun i => (l.row + i / l.cols, l.col + i % l.cols)) ∧ ∀ m ∈ k.members, ∃ x, t.taskAt? m.2.2 = some x ∧ x.launch = l.idx ∧ x.coord = some (m.1, m.2.1))

/-- BUDG, WDOG and user events are taken at the boundary, and waits end (R13, R18, R101, R102, R106, R109). Each of BUDG, WDOG and the user events enters its handler exactly when its condition holds for stream 0 at its boundary, in the order of R106, and changes nothing otherwise; a parked stream whose condition holds may issue from the next clock, and one whose condition does not hold stays. -/
def Obligations.BoundaryEvents : Prop :=
  (∀ s : State, s.OnBoundary → s.Handled →
    let expired := 2 ^ (s.dieAt (dieOf s.task.tile)).wdlim ≤ s.task.watchdog
    (s.task.unlimited = false → s.task.budget = 0 → ∃ t f, exec (.budg s.task.tid) s = .next t ∧ EnteredHandler 6 0 s.vector s.hart.pc f t ∧
      (expired → f = s.setTask { s.task with watchdog := 0 }) ∧ (¬expired → f = s)) ∧
    (s.task.unlimited = true ∨ s.task.budget ≠ 0 → exec (.budg s.task.tid) s = .next s) ∧
    (expired → ∃ t, exec (.wdog s.task.tid) s = .next t ∧ EnteredHandler 7 0 s.vector s.hart.pc (s.setTask { s.task with watchdog := 0 }) t) ∧
    (¬expired → exec (.wdog s.task.tid) s = .next s)) ∧
  (∀ s : State, s.OnBoundary →
    let enabled (k : Nat) : Prop := s.hart.evhpc.getLsbD 63 = false ∧ s.hart.evhpc.getLsbD (47 + k) = true
    let takes (event : Nat) (k : Task) : Prop := ∃ t, exec (.userEvent s.task.tid) s = .next t ∧ EnteredEvent event s t ∧ t.task = k
    (∀ e, s.task.pendErr = some e → e.err.cause ∈ [Cause.capv, .revk, .pflt, .ownx] → enabled 1 → takes (1 + e.err.cause.code * 256 + e.err.sub * 65536) { s.task with pendErr := none }) ∧
    (s.task.pendErr = none → s.task.ev2 = true → enabled 2 → takes 2 { s.task with ev2 := false }) ∧
    (s.task.pendErr = none → s.task.ev3 = true → enabled 3 → ¬(s.task.ev2 = true ∧ enabled 2) → takes 3 { s.task with ev3 := false }) ∧
    (s.hart.evhpc.getLsbD 63 = true ∨ (s.task.pendErr = none ∧ s.task.ev2 = false ∧ s.task.ev3 = false) → exec (.userEvent s.task.tid) s = .next s)) ∧
  (∀ (s : State) (w : Wait), s.hart.live = true → s.hart.tid = s.task.tid → s.tile.idx = s.hart.tile → s.hart.wait = some w →
    let i := Instr.waitConditionMet s.hart.tid s.hart.no
    let wakes : Prop := ∃ t, exec i s = .next t ∧ t = { s with hart := { s.hart with wait := none, met := some w, readyAt := s.clk + 1 }, agenda := t.agenda }
    let ends (c : Prop) : Prop := (c → wakes) ∧ (¬c → exec i s = .next s)
    (∀ k, w = .time k → ends (k.toNat ≤ s.ptp)) ∧ (w = .joinZero → ends (s.task.join = 0)) ∧ (w = .inbox → ends (s.task.inbox ≠ [])) ∧ (w = .sbPlace → ends (s.tile.sb.length < 16)) ∧
    (w = .tileInbox → ends (∃ m ∈ s.tile.inbox, m.asid = s.task.asid)) ∧ (w = .matrixPlace → ends (s.tile.matrix.length < 4)) ∧ (w = .transferPlace → ends (s.tile.accepted < 16)) ∧
    (∀ d, w = .credit d → ends (0 < s.task.credits[dirIx d] ∨ s.task.gone[dirIx d] = true)) ∧
    (∀ img c, w = .admits img 1 → s.rec? img = some c → c.revoked = false → s.capState c = .full → wakes) ∧
    (∀ die c, w = .sweepBusy die c.no → (s.dieAt die).calendar? c.no = some c → ends (c.busyFor s.task.tid = false)))

/-- The timebase and the periodic boundaries of the cores (R113, R114, R116, R272, R273, R382). A tick of a wheel queues the records whose release time has come; PTP steps and the loss of lock set the timebase and its log; rotation boundaries settle the balances of the classes and choose the owners, share windows put written entries in force, and ramp intervals compute the duty and the ceiling. -/
def Obligations.Timers : Prop :=
  (∀ (s : State) (die : Nat) (w : Timed) (q : Task), (s.dieAt die).wheel.filter (fun x => decide (x.item.release.toNat ≤ s.ptp / 1000 * 1000)) = [w] → s.taskAt? w.item.tid = some q →
    let t' := s.tileAt w.item.home
    (s.dequeFull w.item.home = false → t'.deque.length < 32 → t'.dequeAt ≤ s.clk → t'.waiting = [] → (s.dieAt die).wheelWait = [] → ∃ t x, exec (.timerTick die) s = .next t ∧ (t.dieAt die).wheel = (s.dieAt die).wheel.filter (fun y => y.item.tid != w.item.tid) ∧
      (t.tileAt w.item.home).deque = t'.deque ++ [x] ∧ x.item = w.item ∧ x.clk = s.clk ∧ t.taskAt? w.item.tid = some { q with state := .queued } ∧ t.hart = s.hart ∧ t.mem = s.mem) ∧
    (s.dequeFull w.item.home = true → ∃ t, exec (.timerTick die) s = .next t ∧ t = { s with dies := t.dies } ∧ (t.dieAt die).wheel.map (·.item) = (s.dieAt die).wheel.map (·.item))) ∧
  (∀ (s : State) (die : Nat), (∀ w ∈ (s.dieAt die).wheel, s.ptp / 1000 * 1000 < w.item.release.toNat) → exec (.timerTick die) s = .next s) ∧
  (∀ (s : State) (now : Nat) (offset : Word), exec (.ptpStep now) s = .next { s with ptp := now, ptpLocked := true } ∧
    ∃ t, exec (.ptpLockLost offset) s = .next t ∧ Logged { s with ptpLocked := false } t 0 9 offset 0) ∧
  (∀ (s : State) (k : Nat),
    let o := s.tileAt k
    let valid := (s.dieAt (dieOf k)).shareOf (coreOf k)
    let total := (valid.map (·.2)).sum
    (∃ t, exec (.rotationBoundary k) s = .next t ∧ t.hart = s.hart ∧ t.task = s.task ∧ t.mem = s.mem ∧ (t.tileAt k).took = Vector.replicate 8 [] ∧
      t.tileAt k = { o with took := (t.tileAt k).took, qown := (t.tileAt k).qown, shares := (t.tileAt k).shares } ∧
      (t.tileAt k).shares = o.shares.map (fun c =>
        let b : Int := c.balance + 64 * ((((valid.find? fun e => e.1 == c.cls).map (·.2)).getD 0 : Nat) : Int) - (total : Int) * (c.used : Int)
        { c with used := 0, balance := if o.leftUnused c.cls then min b 0 else b }) ∧
      (valid = [] → (t.tileAt k).qown = Vector.replicate 8 0x3FF) ∧ (∀ c w, valid = [(c, w)] → (t.tileAt k).qown = Vector.replicate 8 c)) ∧
    (∃ t, exec (.shareWindowStart k) s = .next t ∧ t.hart = s.hart ∧ t.task = s.task ∧ t.mem = s.mem ∧ (∀ c ∈ (t.tileAt k).shares, c.balance = 0 ∧ c.used = 0) ∧
      (t.dieAt (dieOf k)).shareNext = (s.dieAt (dieOf k)).shareNext ∧ ∀ e v, findBy (·.1) e (s.dieAt (dieOf k)).shareNext = some v → e / 8 = coreOf k → ((s.dieAt (dieOf k)).shareNext.map (·.1)).Nodup →
        findBy (·.1) e (t.dieAt (dieOf k)).share = some v) ∧
    (∃ t, exec (.rampInterval k) s = .next t ∧ t.hart = s.hart ∧ t.task = s.task ∧
      let rise := wordBits 3 0 o.rampc
      let fall := wordBits 7 4 o.rampc
      let n := t.tileAt k
      n.rampDuty = max (min 16 (o.rampBusy / 15)) (if fall = 0 then 0 else o.rampDuty - fall) ∧ n.rampCeil = (if rise = 0 then 16 else min 16 (n.rampDuty + rise)) ∧
      (o.matrix = [] → n.rampBusy = 0)))

/-- Slots choose, places are found, records are stolen and priorities donated (R11, R12, R13, R14, R111, R112, R268, R269, R270, R271, R382). A free slot takes the record that R269 ranks highest and starts or restores it; the earliest seeker of a freed place enters; WAITING tasks whose wait has ended queue; requests, offers and moves of stealing, and donations, change what their rules give and nothing else. In which order a thief asks its victims is free (log 16). -/
def Obligations.Scheduling : Prop :=
  (∀ (s : State) (k slot : Nat) (q : Queued) (r : Task), (s.openSlots k).contains slot = true → (s.tileAt k).dequeAt ≤ s.clk → s.ue = [] → s.ce = [] → bestOf ((s.tileAt k).eligible slot) = some q → s.taskAt? q.item.tid = some r → r.state ≠ .exited →
    let base := if (s.tileAt k).dequeAt = s.clk then max ((s.tileAt k).freeAt.toArray.getD slot 0) q.clk else s.clk
    (q ∈ (s.tileAt k).eligible slot ∧ ∀ p ∈ (s.tileAt k).eligible slot, p.item.effPrio ≤ q.item.effPrio ∧
      (p.item.effPrio = q.item.effPrio → deadlineKey q.item.deadline ≤ deadlineKey p.item.deadline ∧ (deadlineKey p.item.deadline = deadlineKey q.item.deadline → q.clk ≤ p.clk))) ∧
    (q.item.saved = false → q.item.h = [] → s.hartAt? q.item.tid 0 = none → ∃ t h, exec (.slotChoice k slot) s = .next t ∧ t.taskAt? q.item.tid = some { r with state := .running, tile := k, watchdog := 0 } ∧
      t.hartAt? q.item.tid 0 = some h ∧ h.slot = some slot ∧ h.tile = k ∧ h.pc = BitVec.ofNat 64 q.item.entry ∧ h.level = .u ∧ h.wait = none ∧ (∀ i : Fin 32, h.x[i] = if i.val = 10 then q.item.arg else 0) ∧
      h.readyAt = max (base + if (s.tileAt k).spill.any (fun p => p.item.tid == q.item.tid) then 24 else 4) (s.clk + 1) ∧ t.mem = s.mem ∧ t.quire = s.quire ∧ ∀ p ∈ (t.tileAt k).deque ++ (t.tileAt k).spill, p.item.tid ≠ q.item.tid) ∧
    (∀ h, q.item.saved = true → s.hartAt? q.item.tid 0 = some h → h.live = true → ∃ t, exec (.slotChoice k slot) s = .next t ∧ t.taskAt? q.item.tid = some { r with state := .running, frame := [], watchdog := 0 } ∧
      t.hartAt? q.item.tid 0 = some { h with slot := some slot, readyAt := max (base + 48) (s.clk + 1) } ∧ t.mem = s.mem ∧ t.quire = s.quire)) ∧
  (∀ (s : State) (k slot : Nat), (s.openSlots k).contains slot = false ∨ s.clk < (s.tileAt k).dequeAt ∨ (s.tileAt k).deque ++ (s.tileAt k).spill = [] → exec (.slotChoice k slot) s = .next s) ∧
  (∀ (s : State) (k since : Nat) (full : Bool) (tid : Tid),
    (s.placeSeekers k = [] ∨ s.dequePacked k = true → exec (.dequePlaceFreed k) s = .next s) ∧
    (∀ w r, s.dequePacked k = false → (s.tileAt k).dequeAt ≤ s.clk → earliestSeeker (s.placeSeekers k) = some ⟨since, full, tid, .record⟩ → (s.tileAt k).waiting.find? (fun w => w.item.tid == tid) = some w →
      (s.tileAt k).deque.length < 32 → s.taskAt? tid = some r → r.state ≠ .exited →
      (∀ p ∈ s.placeSeekers k, since ≤ p.since) ∧ ∃ t x, exec (.dequePlaceFreed k) s = .next t ∧ (t.tileAt k).deque = (s.tileAt k).deque ++ [x] ∧ x.item = w.item ∧ x.clk = s.clk ∧
        (t.tileAt k).waiting = (s.tileAt k).waiting.filter (fun y => y.item.tid != tid) ∧ t.taskAt? tid = some { r with state := .queued } ∧ t.hart = s.hart) ∧
    (s.dequePacked k = false → earliestSeeker (s.placeSeekers k) = some ⟨since, full, tid, .spawner s.hart.no⟩ → tid = s.hart.tid → s.hart.live = true →
      ∃ t, exec (.dequePlaceFreed k) s = .next t ∧ t = { s with hart := { s.hart with wait := none, met := s.hart.wait, readyAt := s.clk + 1 }, agenda := t.agenda })) ∧
  (∀ (s : State) (w : Wait), s.hart.tid = s.task.tid → s.hart.no = 0 → s.hart.live = true → s.task.state = .waiting → s.hart.wait = none → s.hart.met = some w → s.hasRecord s.task.tid = false → s.task.tile = s.tile.idx →
    (s.dequeFull s.tile.idx = false → s.tile.deque.length < 32 → s.tile.dequeAt ≤ s.clk → s.tile.waiting = [] → ∃ t x, exec (.taskRequeue s.task.tid) s = .next t ∧ t.tile.deque = s.tile.deque ++ [x] ∧ x.item.tid = s.task.tid ∧ x.item.saved = true ∧ x.clk = s.clk ∧
      t.task = { s.task with state := .queued } ∧ t.hart = s.hart ∧ t.mem = s.mem) ∧
    (s.dequeFull s.tile.idx = true → ∃ t x, exec (.taskRequeue s.task.tid) s = .next t ∧ t.tile = { s.tile with waiting := s.tile.waiting ++ [⟨x, s.clk, true⟩] } ∧ x.tid = s.task.tid ∧ t.task = s.task ∧ t.hart = s.hart)) ∧
  (∀ (s : State) (k v : Nat) (vs : List Nat), s.mayAsk k = true → (s.tileAt k).rests s.clk = true →
    (∃ t, exec (.stealRound k (v :: vs)) s = .next t ∧ (t.tileAt k) = { s.tileAt k with steal := .asking v vs } ∧ (s.clk + s.mesh k v, .stealRequest k v (dieOf k != dieOf v)) ∈ t.agenda) ∧
    (∃ t, exec (.stealRound k []) s = .next t ∧ (t.tileAt k) = { s.tileAt k with steal := .backoff (s.clk + 1024) })) ∧
  (∀ (s : State) (k v : Nat) (far : Bool),
    let back := s.clk + s.mesh k v
    ((s.freeSlots v).isEmpty = false ∨ (∀ q ∈ (s.tileAt v).spill ++ (s.tileAt v).deque, q.offered = true ∨ q.item.pinned = true ∨ q.item.saved = true ∨ (far = true ∧ q.item.flags.getLsbD 0 = false)) →
      exec (.stealRequest k v far) s = .next (s.schedule back (.stealOffer k v 0))) ∧
    (∀ q r, (s.freeSlots v).isEmpty = true → ((s.tileAt v).spill ++ (s.tileAt v).deque).filter (fun q => !q.offered && !q.item.pinned && !q.item.saved && (!far || q.item.flags.getLsbD 0)) = q :: r →
      ∃ t x, exec (.stealRequest k v far) s = .next t ∧ x ∈ q :: r ∧ (x.item.cls.toNat = s.wantedClass k ∨ ((∀ y ∈ q :: r, y.item.cls.toNat ≠ s.wantedClass k) ∧ x = q)) ∧ (back, .stealOffer k v x.item.tid) ∈ t.agenda ∧
        ∀ y ∈ (t.tileAt v).spill ++ (t.tileAt v).deque, y.item.tid = x.item.tid → y.offered = true)) ∧
  (∀ (s : State) (k v : Nat) (q : Queued) (r : Task), k ≠ v → ((s.tileAt v).spill ++ (s.tileAt v).deque).find? (fun x => x.item.tid == q.item.tid && x.offered) = some q → s.taskAt? q.item.tid = some r → r.state ≠ .exited →
    (s.clk < (s.tileAt v).dequeAt ∨ s.wantsRecord v = true → exec (.stealOffer k v q.item.tid) s = .next (s.schedule (s.clk + 1) (.stealOffer k v q.item.tid))) ∧
    ((s.tileAt v).dequeAt ≤ s.clk → s.wantsRecord v = false → (s.tileAt k).dequeAt ≤ s.clk → (s.tileAt k).waiting = [] → s.ue = [] → s.ce = [] → s.dequeFull k = false → (s.tileAt k).deque.length < 32 → ∃ t x, exec (.stealOffer k v q.item.tid) s = .next t ∧ (t.tileAt k).deque = (s.tileAt k).deque ++ [x] ∧ x.item = { q.item with home := k } ∧ (t.tileAt k).steal = .idle ∧
      (∀ y ∈ (t.tileAt v).spill ++ (t.tileAt v).deque, y.item.tid ≠ q.item.tid) ∧ t.taskAt? q.item.tid = some { r with tile := k, state := .queued } ∧ t.hart = s.hart)) ∧
  (∀ (s : State) (donor donee : Tid) (prio hops : Nat) (q : Task), s.taskAt? donee = some q → q.state ≠ .exited →
    ∃ t k, exec (.donationArrival donor donee prio hops) s = .next t ∧ t.taskAt? donee = some { q with donations := k } ∧ t.hart = s.hart ∧ t.mem = s.mem ∧
      (∀ d, d ∈ k ↔ (d ∈ q.donations ∧ d.donor ≠ donor) ∨ (prio ≠ 0 ∧ d = ⟨donor, prio, hops⟩)))

/-- What the package does on its own dies (R282, R326, R327, R330, R331, R332, R333, R334, R343, R359, R364). Recalibrations begin a burst and are counted, an alert waits for the burst of its channel and is counted, the mean of the last 100 measurements and the temperature lower or raise the clock steps, a step change stops issue for at most its bound, link and port failures are logged and reported to the stream that sent the lost packet, a monitor read every ten minutes is kept and withdraws, slows or fences in that order, and the configuration block sets all of it. The lengths of the stops are free below their bounds, and what the monitors read is an input (logs 39, 63). -/
def Obligations.PackageEvents : Prop :=
  (∀ (s : State) (die ch : Nat), ch < 64 →
    let counted (i : Instr) (k : Nat) : Prop := ∃ t, exec i s = .next t ∧ t = { s with dies := t.dies, free := t.free } ∧
      ∀ j < 256, t.ctlRead die (0x1000 + 8 * j) = if j = 64 * k + ch then BitVec.ofNat 64 (((s.ctlRead die (0x1000 + 8 * j)).toNat + 1) % 2 ^ 48) else s.ctlRead die (0x1000 + 8 * j)
    let recal := Instr.hbmRecalibration die ch
    (∀ j < 256, (s.ctlRead die (0x1000 + 8 * j)).toNat < 2 ^ 48) →
    ((s.dieAt die).burstEnd ch s.clk = none → s.alertPending die ch = false → counted recal 1 ∧
      ∃ t e, exec recal s = .next t ∧ findBy (·.1) ch (t.dieAt die).bursts = some (ch, s.clk, e) ∧ s.clk < e ∧ e ≤ s.clk + 960) ∧
    ((s.dieAt die).burstEnd ch s.clk ≠ none ∨ s.alertPending die ch = true → exec recal s = .next (s.schedule (s.clk + 1) (.hbmRecalibration die ch))) ∧
    ∀ bank, bank < 2 ^ 20 → (∀ e, (s.dieAt die).burstEnd ch s.clk = some e → exec (.alertBackoff die ch bank) s = .next (s.schedule e (.alertBackoff die ch bank))) ∧
      ((s.dieAt die).burstEnd ch s.clk = none → counted (.alertBackoff die ch bank) 0 ∧ ∃ t, exec (.alertBackoff die ch bank) s = .next t ∧
      ∀ v, findBy (·.1) (ch * 2 ^ 20 + bank) (t.dieAt die).postponed = some v → ((s.dieAt die).postponed.map (·.1)).Nodup → v.2 < wordBits 23 20 (s.dieAt die).hbmctl)) ∧
  (∀ (s : State) (power die restore : Nat) (draw : List Nat), s.config.withdrawn.length < 2 ^ 16 →
    let held := (power :: s.power).take 100
    let sum := held.sum
    let cap := s.pcap.toNat * held.length
    let after (c : Nat) : State := { s with power := held, calmTicks := c }
    let i := Instr.powerMeasurement power draw restore
    let decides (b : State) (i : Instr) (d step : Nat) : Prop := ∃ u t w, exec i s = .next t ∧ Logged b u d 8 w 0 ∧ t = { u with agenda := t.agenda } ∧ (s.clk, .clockStepChange d step) ∈ t.agenda ∧ wordBits 31 16 w = step
    (cap < sum → ∃ d < 8, (∀ k < 8, draw.getD k 0 ≤ draw.getD d 0) ∧ (s.stepOf d < 2 → decides (after 0) i d (s.stepOf d + 1)) ∧ (2 ≤ s.stepOf d → exec i s = .next (after 0))) ∧
    (sum ≤ cap → 95 * cap ≤ 100 * sum → exec i s = .next (after 0)) ∧
    (100 * sum < 95 * cap → s.calmTicks + 1 < 10000 ∨ (∀ d < 8, s.stepOf d ≤ s.baseStep d) → exec i s = .next (after (s.calmTicks + 1))) ∧
    (100 * sum < 95 * cap → 10000 ≤ s.calmTicks + 1 → restore < 8 → s.baseStep restore < s.stepOf restore → s.stepOf restore ≤ 2 → decides (after (s.calmTicks + 1)) i restore (s.stepOf restore - 1)) ∧
    (∀ celsius, (105 ≤ celsius → celsius < 115 → s.stepOf die < 2 → decides s (.thermalReading die celsius) die (s.stepOf die + 1)) ∧
      (115 ≤ celsius → ∃ t, exec (.thermalReading die celsius) s = .next t ∧ t = { s with dies := t.dies } ∧ (t.dieAt die).hotStop = true ∧ (t.dieAt die).logNext = (s.dieAt die).logNext + 1) ∧
      (celsius < 95 → exec (.thermalReading die celsius) s = .next (s.modDie die fun d => { d with hotStop := false })) ∧
      (95 ≤ celsius → celsius < 105 → exec (.thermalReading die celsius) s = .next s))) ∧
  (∀ (s : State) (die step link no : Nat) (tid : Tid), s.config.withdrawn.length < 2 ^ 16 →
    (∃ t, exec (.clockStepChange die step) s = .next t ∧ t = { s with dies := t.dies, free := t.free } ∧ (t.dieAt die).clockStep = min step 2 ∧ wordBits 31 16 (t.dieAt die).degr = min step 2 ∧
      (s.dieAt die).stopUntil ≤ (t.dieAt die).stopUntil ∧ (t.dieAt die).stopUntil ≤ max (s.dieAt die).stopUntil (s.clk + 48000)) ∧
    (∃ t, exec (.meshFlitCrcError die link) s = .next t ∧ Logged s t die 5 (BitVec.ofNat 64 (5200 + link % 16)) 0) ∧
    (∃ t, exec (.meshLinkFailure die link none) s = .next t ∧ t = { s with dies := t.dies, free := t.free } ∧ (t.dieAt die).stopUntil ≤ max (s.dieAt die).stopUntil (s.clk + 120000)) ∧
    (tid = s.task.tid → s.task.state ≠ .exited → s.task.pendErr = none → ∃ t, exec (.meshLinkFailure die link (some (tid, no))) s = .next t ∧ t.hart = s.hart ∧ t.mem = s.mem ∧
      t.task = { s.task with pendErr := some ⟨{ cause := .merr, imprecise := true }, no⟩ } ∧ (t.dieAt die).logNext = (s.dieAt die).logNext + 1)) ∧
  (∀ (s : State) (r : MonitorRead),
    let i := Instr.ageingMonitorRead r
    let u : State := { s with ageingAt := some s.tick, config := { s.config with history := s.config.history ++ r.readings, margins := r.margins } }
    ((∃ t, s.ageingAt = some t ∧ s.tick < t + 1440000000000) → exec i s = .next s) ∧
    ((∀ t, s.ageingAt = some t → t + 1440000000000 ≤ s.tick) →
      (r.action = .none → exec i s = .next u) ∧
      (∀ tile, r.action = .withdraw tile → (tile ∈ s.config.withdrawn → exec i s = .next u) ∧
        (tile ∉ s.config.withdrawn → ∃ t, exec i s = .next t ∧ t = { u with dies := t.dies, config := { u.config with withdrawn := s.config.withdrawn ++ [tile] } } ∧
          (t.dieAt (dieOf tile)).logNext = (s.dieAt (dieOf tile)).logNext + 1)) ∧
      (∀ die, r.action = .lower die → ((∀ t ∈ s.config.withdrawn, dieOf t ≠ die) ∨ 2 ≤ s.baseStep die → exec i s = .next u) ∧
        (die < 8 → (∃ t ∈ s.config.withdrawn, dieOf t = die) → s.baseStep die < 2 → ∃ t, exec i s = .next t ∧ t = { u with dies := t.dies, agenda := t.agenda, config := t.config } ∧
          t.baseStep die = s.baseStep die + 1 ∧ (∀ d < 8, d ≠ die → t.baseStep d = s.baseStep d) ∧ (s.clk, .clockStepChange die (max (s.stepOf die) (s.baseStep die + 1))) ∈ t.agenda)) ∧
      (∀ tile, r.action = .fence tile → (tile ∉ s.config.withdrawn ∨ s.baseStep (dieOf tile) = 0 ∨ tile ∈ s.config.fenced → exec i s = .next u) ∧
        (tile ∈ s.config.withdrawn → 0 < s.baseStep (dieOf tile) → tile ∉ s.config.fenced → (∀ t ∈ s.allTasks, t.tile ≠ tile) → ∃ v t, exec i s = .next t ∧
          Logged u v (dieOf tile) 10 (BitVec.ofNat 64 (coreOf tile)) 0 ∧ t = { v with config := { u.config with fenced := s.config.fenced ++ [tile] } })))) ∧
  (∀ (s : State) (blk : ConfigBlock), ∀ d < 8,
    (∃ t, exec (.configBlockLoad blk true) s = .next t ∧ t = { s with dies := t.dies, config := blk, configGood := true } ∧ (t.dieAt d).clockStep = min (blk.steps.getD d 0) 2) ∧
    (∃ t, exec (.configBlockLoad blk false) s = .next t ∧ t = { s with dies := t.dies, config := t.config, configGood := false } ∧ (t.dieAt d).clockStep = 2 ∧ ∀ k < 40960, k ∈ t.config.withdrawn)) ∧
  (∀ (s : State) (p n : Nat), p < 20 →
    (∃ t, exec (.portFailure p) s = .next t ∧ t.lanes.toArray.getD p 1 = 0 ∧ t.portDown.toArray.getD p false = true ∧ (∀ k < 20, k ≠ p → t.lanes.toArray.getD k 0 = s.lanes.toArray.getD k 0) ∧ t.task = s.task ∧ t.mem = s.mem ∧
      t.quire = s.quire ∧ ∀ w ∈ t.hostWrites, w.port = p → t.hostPort = p) ∧
    (∃ t, exec (.portRetrain p n) s = .next t ∧ t.lanes.toArray.getD p 0 = n ∧ t.portDown.toArray.getD p true = false ∧ t.hart = s.hart ∧ t.task = s.task ∧ t.mem = s.mem ∧
      (t.dieAt (dieOfPort p)).logNext = (s.dieAt (dieOfPort p)).logNext + 1))

/-- Accesses after their issue (R37, R38, R39, R109, R121, R243, R251, R363). A load response ends the wait of its slot at its time and not before; a posted write reaches host memory with exactly its bytes; a flush performs what its port still holds; a walk starts when a walker is free and ends by filling the translation cache or by failing the accesses that wait for it. -/
def Obligations.AccessEvents : Prop :=
  (∀ (s : State) (due : Nat) (u : Undo), s.hart.live = true → s.hart.wait = some (.data due u) ∨ s.hart.wait = some (.reply due) →
    (due ≤ s.clk → exec (.loadResponse s.hart.tid s.hart.no) s = .next (s.setHart { s.hart with wait := none, readyAt := max s.hart.readyAt (due + 1) })) ∧
    (s.clk < due → exec (.loadResponse s.hart.tid s.hart.no) s = .next s)) ∧
  (∀ (s : State) (w : HostWrite), s.hostWrites.find? (fun x => x.id == w.id) = some w → Memory.wf s.mem = true →
    ∃ t, exec (.homePerform w.id) s = .next t ∧ Stored w.addr w.bytes s t ∧ t.hostWrites = s.hostWrites.filter (fun x => x.id != w.id) ∧ t.hart = s.hart ∧ t.task = s.task ∧ t.quire = s.quire) ∧
  (∀ (s : State) (p : Nat) (w : HostWrite), s.hostWrites.filter (fun x => x.port == p) = [w] → Memory.wf s.mem = true →
    ∃ t, exec (.flushPacket p) s = .next t ∧ Stored w.addr w.bytes s t ∧ (∀ x ∈ t.hostWrites, x.id ≠ w.id) ∧ t.hart = { s.hart with posted := s.hart.posted.filter fun q => q != p } ∧ t.task = s.task ∧ p ∉ t.flushWait) ∧
  (∀ (s : State) (die : Nat) (w : Walk), (s.dieAt die).walkQ = [w] → (s.dieAt die).walks.length < 256 →
    ∃ t x, exec (.walkStart die) s = .next t ∧ t = { s with dies := t.dies } ∧ (t.dieAt die).walkQ = [] ∧ (t.dieAt die).walks = (s.dieAt die).walks ++ [x] ∧ x = { w with due := x.due } ∧ s.clk + Config.latL4 ≤ x.due) ∧
  (∀ (s : State) (die : Nat) (w : Walk) (r : List Walk), (∀ h ∈ s.harts, ¬(h.tid = s.hart.tid ∧ h.no = s.hart.no)) → (s.dieAt die).walks = w :: r → w.due ≤ s.clk →
    let ended (k : Prop) (after : State → Prop) : Prop := k → ∃ t, exec (.walkComplete die 0) s = .next t ∧ (t.dieAt die).walks = r ∧ t.task = s.task ∧ t.mem = s.mem ∧ (∀ m ∈ (t.clusterAt w.cluster).misses, ¬(m.asid = w.asid ∧ m.page = w.page)) ∧ after t
    (∀ p, ended (w.discard = false ∧ s.walk w.asid (w.page * 2 ^ 16) = .page p) fun t => p ∈ (t.clusterAt w.cluster).tc ∧
      (s.hart.live = true → clusterOf s.hart.tile = w.cluster → s.hart.wait = some (.walk w.asid w.page) → t.hart = { s.hart with wait := none, met := s.hart.wait, readyAt := s.clk + 1 })) ∧
    ended (w.discard = false ∧ s.walk w.asid (w.page * 2 ^ 16) = .noMap false) (fun t => (t.clusterAt w.cluster).tc = (s.clusterAt w.cluster).tc ∧
      (s.hart.live = true → clusterOf s.hart.tile = w.cluster → s.hart.wait = some (.walk w.asid w.page) →
        t.hart = { s.hart with wait := none, met := s.hart.wait, walkFail := some (w.asid, w.page, false), readyAt := s.clk + 1 })) ∧
    ended (w.discard = true) (fun t => (t.clusterAt w.cluster).tc = (s.clusterAt w.cluster).tc ∧ t.hart = s.hart))

/-- What the host does to the device (R217, R250, R267, R336, R360, R361, R373, R375, R377). Tickets, taken by an atomic add or a compare and swap, and ring entries, reads and writes of the flag window and the seize control block, snoop responses, the host's own packets, queue views, sinks and the six attestation requests each have the effect of their rule and change nothing else. Certificates, digests and signatures are free values (log 9). -/
def Obligations.HostActions : Prop :=
  (∀ (s : State) (q n a : Nat) (e : List Word), q < 16384 →
    let sets (i : Instr) (w : Word) : Prop := ∃ t, exec i s = .next t ∧ t = { s with queues := t.queues } ∧ ∀ k, t.queueWords k = if k = q then (s.queueWords q).set 2 w else s.queueWords k
    sets (.hostTicketClaim (.fetchAdd q)) ((s.queueWords q)[2] + 1) ∧
    (∀ expected new, sets (.hostTicketClaim (.cas q expected new)) (if (s.queueWords q)[2] = expected then new else (s.queueWords q)[2])) ∧
    (e.length = 8 → s.ringAddr q n = some a → Memory.wf s.mem = true → ∃ t, exec (.hostRingWrite q n e) s = .next t ∧ Stored a (wordBytes e) s t ∧ t.queues = s.queues ∧ t.hart = s.hart ∧ t.task = s.task ∧
      t.quire = s.quire ∧ (qConsumer (s.queueWords q) ≠ 0 → (s.clk + 1, .queueConsume q) ∈ t.agenda))) ∧
  (∀ (s : State) (line word : Nat) (v : Word) (hold : Bool) (d : BitVec 512), line < 4095 → Memory.wf s.mem = true →
    (∃ t, exec (.hostWindowAccess line (.read hold)) s = .next t ∧ t = { s with winHeld := t.winHeld } ∧ (hold = true → line ∈ t.winHeld) ∧ (hold = false → t.winHeld = s.winHeld)) ∧
    (word < 8 → ∃ t, exec (.hostWindowAccess line (.write word v hold)) s = .next t ∧ Stored (windowBase + 64 * line + 8 * word) (bytesOf 8 v.toNat) s t ∧ (line ∈ t.winHeld ↔ hold = true) ∧ (line ∈ t.winDirty ↔ hold = true) ∧
      t.hart = s.hart ∧ t.task = s.task ∧ t.quire = s.quire) ∧
    (∃ t, exec (.birsp line (some d)) s = .next t ∧ Stored (windowBase + 64 * line) (bytesOf 64 d.toNat) s t ∧ line ∉ t.winHeld ∧ line ∉ t.winDirty ∧ line ∉ t.winSnooped ∧ t.hart = s.hart) ∧
    (∃ t, exec (.birsp line none) s = .next t ∧ t = { s with winHeld := t.winHeld, winDirty := t.winDirty, winSnooped := t.winSnooped } ∧ line ∉ t.winHeld ∧ line ∉ t.winDirty ∧ line ∉ t.winSnooped) ∧
    exec (.hostWindowAccess 4095 (.write 2 v hold)) s = .next { s with seize := { s.seize with base := v } } ∧ exec (.hostWindowAccess 4095 (.write 3 v hold)) s = .next { s with seize := { s.seize with length := v } } ∧
    exec (.hostWindowAccess 4095 (.write 0 1 hold)) s = exec .seize s ∧ exec (.hostWindowAccess 4095 (.write 0 2 hold)) s = exec .resumeFromImage s ∧ exec (.hostWindowAccess 4095 (.write 0 3 hold)) s = exec .thaw s ∧
    exec (.hostWindowAccess 4095 (.write 5 v hold)) s = .next s ∧ (wordBits 63 2 v ≠ 0 → RefusesWrite s (.hostWindowAccess 4095 (.write 0 v hold)) 0 0x3FFC0 v)) ∧
  (∀ (s : State) (port : Nat), (s.hostHeld port = false → exec (.hpkstRead port) s = .next s) ∧ (s.hostHeld port = true → exec (.hpkstRead port) s = .next (s.schedule (s.clk + 1) (.hpkstRead port)))) ∧
  (∀ (s : State) (port size : Nat) (p : Packet), s.hostPacketOk size p = false → ∃ t, exec (.hostHntWrite port size p) s = .next t ∧ Logged s t (dieOfPort port) 6 (hntWord0 p) 0) ∧
  (∀ (s : State) (port size : Nat) (p : Packet) (c : CapRec), s.hostPacketOk size p = true → p.kind = 0 → s.seize.state = .running → s.hostHeld port = false → s.asidLive p.asid = true → s.rec? p.root.toNat = some c → Memory.wf s.mem = true →
    c.asid = p.asid → c.revoked = false → c.isRoot = true → staleVersion c.version p.version c.revVersion = false → c.poisoned = false → c.level = .tile → c.phase = none → s.lendChain c = [] → (s.linkAt p.src).arriving = [] →
    (c.rights.wr = true → s.admits c (.store (wholeWords p.off.toNat p.len)) = .ok → p.off.toNat + p.len ≤ c.len → c.base + c.len ≤ 2 ^ 40 →
      ∃ t, exec (.hostHntWrite port size p) s = .next t ∧ Stored (c.base + p.off.toNat) p.payload s t ∧ t.hart = s.hart ∧ t.task = s.task ∧ t.hpkstFailed = s.hpkstFailed ∧ t.hostPackets = s.hostPackets) ∧
    (c.rights.wr = false → exec (.hostHntWrite port size p) s = .next { s with hpkstFailed := s.hpkstFailed + 1, hpkstLast := 4 }) ∧
    (c.rights.wr = true → s.admits c (.store (wholeWords p.off.toNat p.len)) = .ok → c.len < p.off.toNat + p.len → exec (.hostHntWrite port size p) s = .next { s with hpkstFailed := s.hpkstFailed + 1, hpkstLast := 3 })) ∧
  (∀ (s : State) (q img : Nat) (asid : BitVec 14) (dev port len : Nat),
    (s.freeRecord (dieOfQueue q) = some img → ∃ t c, exec (.queueViewCreate q asid) s = .next t ∧ t = { s with quire := t.quire } ∧ t.rec? img = some c ∧ OtherRecords [img] s t ∧ c.base = viewBase + 16 * q ∧ c.kind = .commons ∧
      c.len = 16 ∧ c.asid = asid ∧ c.rights = ⟨false, false, false, true⟩) ∧
    (s.freeRecord 0 = some img → 1 ≤ dev → dev ≤ 254 → port < 20 → 1 ≤ len → len ≤ 2 ^ 40 → ∃ t c, exec (.sinkCreate asid dev port len) s = .next t ∧ t = { s with quire := t.quire } ∧ t.rec? img = some c ∧ OtherRecords [img] s t ∧
      c.kind = .excl ∧ c.level = .peer ∧ c.len = len ∧ c.asid = asid ∧ c.rights = ⟨false, false, true, false⟩ ∧ ∃ p, c.proxy = some p ∧ p.dev = dev)) ∧
  (∀ (s : State) (port : Nat) (nonce : BitVec 256), port < 4 →
    let busy := s.seize.state = .quiescing ∨ s.seize.state = .streaming ∨ s.seize.state = .restoring
    let answers (i : Instr) (ok : Attest → Prop) : Prop := ∃ t a, exec i s = .next t ∧ t = { s with mailbox := t.mailbox } ∧ findBy (·.1) port t.mailbox = some (port, a) ∧
      (∀ k, k ≠ port → findBy (·.1) k t.mailbox = findBy (·.1) k s.mailbox) ∧ (busy → a = .busy) ∧ (¬busy → ok a)
    answers (.getVersion port) (· = .version) ∧ answers (.getCapabilities port) (· = .capabilities) ∧ answers (.negotiateAlgorithms port) (· = .algorithms) ∧ answers (.getCertificate port) (· = .certificate) ∧
    answers (.challenge port nonce) (fun a => ∃ sig, a = .signed nonce sig) ∧ answers (.getMeasurements port nonce) (fun a => ∃ m1 m2 sig, a = .measurements nonce m1 m2 s.measure3 sig))

/-- Packets of a peer act at the home of a buffer (R32, R249, R364, R366, R367, R368, R370, R371, R372, R373, R375, R379). A packet is taken in its sequence once, answered again when it repeats, held back when it is early, and logged when it is malformed; WRITE, READ, ATOMIC, WRENQ, CAPXFER, REVOKE, FRZ and REDBLK that pass their checks have their effect and their answer, a transfer of shares to the device of their root makes a record of that root, and a failed check answers a NAK with its status. -/
def Obligations.PeerPackets : Prop :=
  (∀ (s : State) (p : Packet) (port : Nat),
    (∀ i ∈ [Instr.write p, .read p, .rdresp p, .atomic p, .atresp p, .capxfer p, .revoke p, .wrenq p, .frz p],
      (s.seize.state ≠ .running → s.fillsOld p = false → exec i s = .next s) ∧
      (s.seize.state = .running → s.accepts p = false → ∃ t, exec i s = .next t ∧ Logged s t (dieOfPort (s.portFrom p.src)) 6 (hntWord0 p) 0) ∧
      (s.seize.state = .running → s.accepts p = true → (s.linkAt p.src).expect < p.seq → exec i s = .next s) ∧
      (∀ r, s.seize.state = .running → s.accepts p = true → p.seq < (s.linkAt p.src).expect → (s.linkAt p.src).kept.find? (fun k => k.1 == p.seq) = some (p.seq, r) → exec i s = .next { s with wire := s.wire ++ [r] })) ∧
    (s.seize.state = .running → s.accepts p = false → ∃ t, exec (.redblk port p) s = .next t ∧ Logged s t (dieOfPort port) 6 (hntWord0 p) 0)) ∧
  (∀ (s : State) (p : Packet), s.InSequence p →
    (s.asidLive p.asid = false → p.kind = 0 → NaksPacket s (.write p) p 7) ∧
    (s.asidLive p.asid = true → s.rec? p.root.toNat = none → NaksPacket s (.write p) p 1) ∧
    (∀ c, s.asidLive p.asid = true → s.rec? p.root.toNat = some c → c.asid = p.asid → c.revoked = true ∨ staleVersion c.version p.version c.revVersion = true → NaksPacket s (.write p) p 1)) ∧
  (∀ (s : State) (p : Packet) (c : CapRec), s.InSequence p →
    let a := c.base + p.off.toNat
    let size := if p.arg.getLsbD 3 then 8 else 4
    let operand (i : Nat) : Nat := leValue ((p.payload.drop (8 * i)).take 8) % 256 ^ size
    let answered (t : State) (kind : Nat) (bytes : List Byte) : Prop := t.Stepped p ∧ ∃ r, (p.seq, r) ∈ (t.linkAt p.src).kept ∧ r.kind = kind ∧ r.status = 0 ∧ r.root = p.root ∧ r.off = p.off ∧ r.payload = bytes
    (s.NamesRoot p c p.len → c.rights.wr = true → s.admits c (.store (wholeWords p.off.toNat p.len)) = .ok → ∃ t, exec (.write p) s = .next t ∧ t.Stepped p ∧ Stored a p.payload s t ∧ t.hart = s.hart ∧ t.task = s.task) ∧
    (s.NamesRoot p c p.len → c.rights.wr = false → NaksPacket s (.write p) p 4) ∧
    (∀ bytes, s.NamesRoot p c (p.arg.toNat + 1) → p.arg.toNat < 256 → c.rights.rd = true → s.admits c (.load (wordSize (p.arg.toNat + 1))) = .ok → s.readUpTo c (p.arg.toNat + 1) p.off.toNat = (bytes, none) →
      ∃ t, exec (.read p) s = .next t ∧ answered t 2 bytes ∧ t.mem = s.mem ∧ t.quire = s.quire ∧ t.hart = s.hart ∧ t.task = s.task) ∧
    (s.NamesRoot p c size → c.rights.rd = true → c.rights.wr = true → s.admitAtomic c true = .ok → s.hasUE a size = false → s.ce = [] → p.arg.toNat / 256 = 0 →
      (wordBits 7 4 (p.arg.zeroExtend 64) = 0 → p.len = 8 →
        ∃ t, exec (.atomic p) s = .next t ∧ answered t 4 (bytesOf 8 (s.little a size)) ∧ Stored a (bytesOf size ((s.little a size + operand 0) % 256 ^ size)) s t ∧ t.hart = s.hart ∧ t.task = s.task) ∧
      (wordBits 7 4 (p.arg.zeroExtend 64) = 9 → p.len = 16 → s.little a size = operand 0 →
        ∃ t, exec (.atomic p) s = .next t ∧ answered t 4 (bytesOf 8 (s.little a size) ++ bytesOf 8 1) ∧ Stored a (bytesOf size (operand 1)) s t) ∧
      (wordBits 7 4 (p.arg.zeroExtend 64) = 9 → p.len = 16 → s.little a size ≠ operand 0 →
        ∃ t, exec (.atomic p) s = .next t ∧ answered t 4 (bytesOf 8 (s.little a size) ++ bytesOf 8 0) ∧ t.mem = s.mem)) ∧
    (∀ e, 64 ≤ p.len → s.NamesRoot p c (p.len - 64) → c.rights.wr = true → (64 < p.len → s.admits c (.store (wholeWords p.off.toNat (p.len - 64))) = .ok) → s.wrenq? none p.src p.seq = none →
      let q := p.arg.toNat
      let w := s.queueWords q
      qValid w = true → qAsid w = p.asid → s.ringAddr q (qW w) = some e → s.ringRoom q (qW w) = true → (64 < p.len → e + 64 ≤ a ∨ a + (p.len - 64) ≤ e) →
      ∃ t, exec (.wrenq p) s = .next t ∧ t.Stepped p ∧ (∀ k < p.len - 64, memGet (a + k) t.mem = p.payload[k]?.getD 0) ∧ (∀ k < 64, memGet (e + k) t.mem = p.payload[p.len - 64 + k]?.getD 0) ∧
        t.queueWords q = w.set 2 (w[2] + 1) ∧ t.hart = s.hart ∧ t.task = s.task)) ∧
  (∀ (s : State) (p : Packet), s.InSequence p →
    (∃ t, exec (.revoke p) s = .next t ∧ t.Stepped p ∧ t.mem = s.mem ∧ ∀ i c, s.rec? i = some c →
      let named := (List.range (p.len / 8)).map fun k => leValue ((p.payload.drop (8 * k)).take 8)
      t.rec? i = some (if c.proxies p.src p.root.toNat then { c with version := p.version, revoked := c.revoked || named.contains c.img } else c)) ∧
    (∀ c, s.rec? p.root.toNat = some c → ∃ t, exec (.frz p) s = .next t ∧ t.Stepped p ∧ OtherRecords [c.img] s t ∧
      t.rec? c.img = some { c with grants := c.grants.map fun g => if g.dev = p.src ∧ g.image = p.arg.toNat / 2 then { g with frozen := p.arg.getLsbD 0 } else g }) ∧
    (∀ (port : Nat) (g : Task),
      let w := (s.dieAt (dieOfPort port)).bqcfg.toArray.getD (portPlace port) 0
      let row := BitVec.ofNat 512 (leValue p.payload)
      (w.getLsbD 63 = false ∨ wordBits 45 32 w ≠ p.asid.toNat ∨ s.asidLive p.asid = false → NaksPacket s (.redblk port p) p 7) ∧
      (w.getLsbD 63 = true → wordBits 45 32 w = p.asid.toNat → s.asidLive p.asid = true → (s.dieAt (dieOfPort port)).blocks = [] → s.gatewayOf port (p.off.toNat / 64) = some g → g.state ≠ .exited → s.taskAt? g.tid = some g →
        (g.q[0].length < 16 → g.qv[0].length < 4 → ∃ t k, exec (.redblk port p) s = .next t ∧ t.Stepped p ∧ t.taskAt? g.tid = some k ∧ k.q[0] = g.q[0] ++ [BitVec.ofNat 64 (p.off.toNat / 64)] ∧ k.qv[0] = g.qv[0] ++ [⟨row, none⟩] ∧
          4 ∈ k.writers[0] ∧ 4 ∈ k.writers[4] ∧ t.mem = s.mem) ∧
        (16 ≤ g.q[0].length ∨ 4 ≤ g.qv[0].length → ∃ t, exec (.redblk port p) s = .next t ∧ t.Stepped p ∧ (t.dieAt (dieOfPort port)).blocks = [(port, p.off.toNat / 64, row)] ∧ t.task = s.task))) ∧
    (∀ (r : Task) (img : Nat), s.asidLive p.asid = true → xferOk p = true → s.inboxDest (packetWord p 3) = some ⟨0, s.ownDevice, r.tid.toNat⟩ ∨ s.inboxDest (packetWord p 3) = some ⟨0, 0, r.tid.toNat⟩ → s.taskAt? r.tid = some r → r.state ≠ .exited →
      s.taskInboxFull r = false →
      let m (i outcome : Nat) : Msg := { cap := some i, p0 := packetWord p 4, p1 := packetWord p 5, sender := BitVec.ofNat 32 (wordBits 31 0 (packetWord p 0)), asid := p.asid, outcome := outcome, dev := p.src }
      let enters (t : State) (x : Msg) : Prop := t.taskAt? r.tid = some { r with inbox := r.inbox ++ [x], ev2 := r.ev2 || r.inbox.isEmpty }
      (wordBits 57 56 (packetWord p 0) = 0 → xKind p = .frac ∨ xKind p = .commons → xOwner p ≠ s.ownDevice → s.freeRecord (dieOf r.tile) = some img →
        ∃ t k a, exec (.capxfer p) s = .next t ∧ t.Stepped p ∧ t.rec? img = some k ∧ OtherRecords [img] s t ∧ k.kind = xKind p ∧ k.level = .peer ∧ k.len = xLen p ∧ k.asid = p.asid ∧ k.origin = p.src ∧
          (∃ px, k.proxy = some px ∧ px.dev = xOwner p ∧ px.image = xRoot p) ∧ enters t (m img 0) ∧ t.wire = s.wire ++ [a] ∧ a.kind = 6 ∧ a.seq = p.seq ∧ a.status = BitVec.ofNat 32 img ∧ t.mem = s.mem) ∧
      (∀ root, wordBits 57 56 (packetWord p 0) = 0 → xKind p = .frac ∨ xKind p = .commons → xOwner p = s.ownDevice → packetWord p 3 ≠ 0 → s.rec? (xRoot p) = some root → root.revoked = false → root.isRoot = true →
        staleVersion root.version p.version root.revVersion = false → s.freeRecord (xRoot p / 2 ^ 20) = some img →
        ∃ t k, exec (.capxfer p) s = .next t ∧ t.Stepped p ∧ t.rec? img = some k ∧ k.kind = xKind p ∧ k.root = root.img ∧ k.level = root.level ∧ k.base = root.base ∧ k.len = xLen p ∧ k.version = root.version ∧ k.proxy = none ∧
          enters t (m img 0) ∧ t.mem = s.mem) ∧
      (∀ base, wordBits 57 56 (packetWord p 0) = 0 → xKind p = .excl → s.xferPlace p r.tile = some base → s.freeRecord (dieOf r.tile) = some img →
        ∃ t k a, exec (.capxfer p) s = .next t ∧ t.Stepped p ∧ t.rec? img = some k ∧ k.kind = .excl ∧ k.level = .tile ∧ k.base = base ∧ k.len = xLen p ∧ k.state = .filling ∧ k.writers = 1 ∧ k.proxy = none ∧ img ∈ (t.linkAt p.src).arriving ∧
          t.wire = s.wire ++ [a] ∧ a.kind = 7 ∧ a.seq = p.seq ∧ a.status = 0 ∧ a.root = BitVec.ofNat 23 img ∧ t.taskAt? r.tid = some r) ∧
      (wordBits 57 56 (packetWord p 0) = 0 → xKind p = .excl → s.xferPlace p r.tile = none → NaksPacket s (.capxfer p) p 9) ∧
      (∀ c, wordBits 57 56 (packetWord p 0) = 1 → (s.linkAt p.src).arriving.contains p.root.toNat = true → s.rec? p.root.toNat = some c → c.state = .filling → c.writers = 1 →
        ∃ t, exec (.capxfer p) s = .next t ∧ t.Stepped p ∧ t.rec? c.img = some { c with writers := 0, state := .full } ∧ p.root.toNat ∉ (t.linkAt p.src).arriving ∧ enters t (m c.img 1) ∧ t.mem = s.mem)))

/-- Answers of peers and the timers of a link (R366, R368, R369, R370, R372, R374). RDRESP and ATRESP complete the access that waits for them, or trap it; ACK and NAK take packets off the queue, move the window and report a refused store; RESYNC renumbers; the timers acknowledge, retransmit and give a peer up as their times say. -/
def Obligations.LinkQueues : Prop :=
  (∀ (s : State) (p : Packet) (x : Sent) (r : Remote), s.InSequence p → s.Plain → s.hart.live = true → s.hart.tid = x.tid → s.hart.no = x.no → s.task.tid = x.tid → s.tile.idx = s.hart.tile → x.xfer = none → x.cap = none →
    s.hart.wait = some (.peerReply p.src x.packet.seq) → s.hart.remote = some r → r.rep = false →
    let asked (kind : Nat) : Prop := (s.linkAt p.src).asked.find? (fun y => y.packet.kind == kind && y.packet.root == p.root && y.packet.off == p.off) = some x
    let goesOn (t : State) : Prop := t.hart.pc = s.hart.pc + BitVec.ofNat 64 r.bytes ∧ t.hart.wait = none ∧ t.hart.remote = none ∧ t.hart.readyAt = s.clk + 1 ∧ t.task = s.task ∧ t.mem = s.mem ∧
      (∀ y ∈ (t.linkAt p.src).asked ++ (t.linkAt p.src).unacked, y.packet.seq ≠ x.packet.seq)
    let v := leValue p.payload
    (asked 1 → p.status = 0 → ∀ d n, r.what = .x d n false → p.payload.length = n → n ≤ 8 → ∃ t, exec (.rdresp p) s = .next t ∧ t.Stepped p ∧ goesOn t ∧ ∀ k, t.x k = if k = 0 then (0 : Word) else if k = d then BitVec.ofNat 64 v else s.x k) ∧
    (asked 1 → p.status = 0 → ∀ d n, r.what = .x d n true → p.payload.length = n → 1 ≤ n → n ≤ 8 →
      ∃ t, exec (.rdresp p) s = .next t ∧ t.Stepped p ∧ goesOn t ∧ ∀ k, t.x k = if k = 0 then (0 : Word) else if k = d then BitVec.ofInt 64 (signedNat n v) else s.x k) ∧
    (asked 1 → p.status = 0 → ∀ d, r.what = .v d → p.payload.length = 64 → ∃ t, exec (.rdresp p) s = .next t ∧ t.Stepped p ∧ goesOn t ∧ ∀ k, t.v k = if k = d then BitVec.ofNat 512 v else s.v k) ∧
    (asked 3 → p.status = 0 → ∀ d, r.what = .amo d 8 → p.payload.length = 8 → ∃ t, exec (.atresp p) s = .next t ∧ t.Stepped p ∧ goesOn t ∧ ∀ k, t.x k = if k = 0 then (0 : Word) else if k = d then BitVec.ofNat 64 v else s.x k) ∧
    (∀ q ∈ [(1, Instr.rdresp p), (3, .atresp p)], asked q.1 → x.packet.kind = q.1 → ∀ e ∈ [(1, Cause.revk, 0), (3, .capv, subLEN), (4, .capv, subRGT), (7, .capv, subOWN)], p.status.toNat = e.1 →
      ∃ t, exec q.2 s = .next t ∧ t.Stepped p ∧ t.hart = { s.hart with wait := none, met := none, remote := none, remoteTrap := some { cause := e.2.1, sub := e.2.2, handle := some x.handle }, readyAt := s.clk + 1 } ∧ t.mem = s.mem)) ∧
  (∀ (s : State) (p : Packet), s.seize.state = .running → s.accepts p = true →
    let l := s.linkAt p.src
    let k := if p.seq = 0 then p.status.toNat else p.seq
    let plain (x : Sent) : Prop := x.xfer = none ∧ x.cap = none
    (l.waiting = [] → (∀ x ∈ l.unacked, x.packet.seq ≤ k → plain x) →
      ∃ t, exec (.ack p) s = .next t ∧ t.wire = s.wire ∧ (t.linkAt p.src).unacked = l.unacked.filter (fun x => decide (k < x.packet.seq)) ∧ (t.linkAt p.src).lastHeard = s.ptp ∧ t.hart = s.hart ∧ t.task = s.task ∧ t.mem = s.mem ∧
        let m := max l.sample ((s.ptp + 2 ^ 32 - p.stamp.toNat) % 2 ^ 32)
        (t.linkAt p.src).window = if k < l.sampleSeq then l.window else if m ≤ s.hntTarget then min (16 * 2 ^ 20) (l.window + s.hntInc) else max 288 (l.window * (256 * m - s.hntBeta * (m - s.hntTarget)) / (256 * m))) ∧
    (∀ x, l.unacked.find? (fun y => y.packet.seq == p.seq) = some x →
      (p.status = 8 → ∃ t, exec (.nak p) s = .next t ∧ t.wire = s.wire ∧ t.hart = s.hart ∧ (t.linkAt p.src).unacked = l.unacked.map (fun y => if y.packet.seq = p.seq then { y with at_ := s.ptp } else y)) ∧
      (∀ e ∈ [(1, Cause.revk, 0), (3, .capv, subLEN), (4, .capv, subRGT), (7, .capv, subOWN)], p.status.toNat = e.1 → l.waiting = [] → plain x → x.packet.kind = 0 → x.tid = s.task.tid → s.task.state ≠ .exited → s.task.pendErr = none →
        ∃ t, exec (.nak p) s = .next t ∧ t.task = { s.task with pendErr := some ⟨{ cause := e.2.1, sub := e.2.2, handle := some x.handle, imprecise := true }, x.no⟩ } ∧ t.hart = s.hart ∧
          ∀ y ∈ (t.linkAt p.src).unacked, y.packet.seq ≠ p.seq)) ∧
    (l.peerEpoch = p.arg.toNat % 65536 → (∀ x ∈ l.doubt ++ l.unacked ++ l.waiting, x.packet.seq < p.status.toNat → plain x) →
      ∃ t, exec (.resync p) s = .next t ∧ t.mem = s.mem ∧ t.task = s.task ∧ (t.linkAt p.src).doubt = [] ∧
        let n := ((l.doubt ++ l.unacked ++ l.waiting).filter fun x => decide (p.status.toNat ≤ x.packet.seq)).length
        (t.linkAt p.src).nextSeq = p.status.toNat + n ∧ ((t.linkAt p.src).unacked ++ (t.linkAt p.src).waiting).map (·.packet.seq) = List.range' p.status.toNat n)) ∧
  (∀ (s : State) (dev : Nat),
    let l := s.linkAt dev
    (l.sinceAck = 0 → exec (.hntAckTimer dev) s = .next s) ∧
    (l.sinceAck ≠ 0 → ∃ t a, exec (.hntAckTimer dev) s = .next t ∧ t.wire = s.wire ++ [a] ∧ a.kind = 6 ∧ a.dst = dev ∧ a.seq = 0 ∧ a.status = BitVec.ofNat 32 (l.expect - 1) ∧ (t.linkAt dev).sinceAck = 0 ∧ t.hart = s.hart ∧ t.task = s.task ∧ t.mem = s.mem) ∧
    (∀ x r, l.unacked = x :: r → (x.at_ + 4 * s.hntTarget ≤ s.ptp → (s.peerPort dev).isSome = true → ∃ t, exec (.hntRetransmit dev) s = .next t ∧
        t.wire.map (fun y => { y with stamp := 0 }) = (s.wire ++ l.unacked.map (·.packet)).map (fun y => { y with stamp := 0 }) ∧ t.hart = s.hart ∧ t.task = s.task ∧ t.mem = s.mem) ∧
      (s.ptp < x.at_ + 4 * s.hntTarget → exec (.hntRetransmit dev) s = .next s)) ∧
    (∀ k, l.unansweredAt = some k → (k + s.hntTimeout ≤ s.ptp → ∃ t, exec (.hntBeyondRecovery dev) s = .next t ∧ (t.linkAt dev).unacked = [] ∧ (t.linkAt dev).waiting = [] ∧ (t.linkAt dev).asked = [] ∧ t.mem = s.mem ∧
        (∀ x ∈ l.unacked ++ l.waiting, x.cap.isSome = true → x ∈ (t.linkAt dev).doubt)) ∧
      (s.ptp < k + s.hntTimeout → exec (.hntBeyondRecovery dev) s = .next s)) ∧
    (l.unansweredAt = none → exec (.hntBeyondRecovery dev) s = .next s))

/-- Words of the spec decode to the instructions they stand for (R54, R55, R56, R57, R58, R76). Thirty-eight words that the spec writes out bit by bit, of every family of the table, decode to the instruction beside them, and five patterns with an unassigned opcode or a field that must be zero decode to none. -/
def Obligations.DecodeWords : Prop :=
  decodeTableWord 16 0x10E2 = some (.cAddi 7 4) ∧ decodeTableWord 32 0x000A4183 = some (.add 3 4 5) ∧
  decodeTableWord 32 0x00407385 = some (.addi 7 7 4) ∧ decodeTableWord 32 0x00002287 = some (.lui 5 1) ∧
  decodeTableWord 32 0xFF646389 = some (.blt 7 6 0xFF6) ∧ decodeTableWord 32 0xFFFFA00B = some (.jal 0 0xFFFFA) ∧
  decodeTableWord 32 0x2646628F = some (.fcvt 5 6 .toI32 .rtz .f64) ∧ decodeTableWord 32 0x2059980F = some (.fcmp 16 25 12 .lt .f32) ∧
  decodeTableWord 32 0x30801591 = some (.ldW 11 1 0 0x30) ∧ decodeTableWord 32 0x00EA0111 = some (.ldv 2 0 10 0) ∧
  decodeTableWord 32 0x00A41493 = some (.stlW 9 1 4 0) ∧ decodeTableWord 32 0x000C2295 = some (.amoAdd 5 2 6 .w .none) ∧
  decodeTableWord 32 0x14081395 = some (.lda 7 1 4 .w) ∧ decodeTableWord 32 0x08121217 = some (.csplit 4 1 9) ∧
  decodeTableWord 32 0x0E960297 = some (.crecv 5 0 11 .tile) ∧ decodeTableWord 32 0x0C025019 = some (.chw 5 .e) ∧
  decodeTableWord 32 0x0800001B = some (.exit) ∧ decodeTableWord 32 0x0600001D = some (.eret) ∧
  decodeTableWord 32 0x08001A1D = some (.rds 20 1) ∧ decodeTableWord 32 0x0100091F = some (.oxli 2 0 128) ∧
  decodeTableWord 32 0x30041221 = some (.vfma 4 1 2 .f32 0) ∧ decodeTableWord 32 0x100A50A5 = some (.vor 1 5 5 .f32 0) ∧
  decodeTableWord 32 0xB00100A7 = some (.vmskMov 1 16) ∧ decodeTableWord 32 0x420024AB = some (.vqnt 9 2 0 .f32 1 false) ∧
  decodeTableWord 32 0x1811782D = some (.vbcastLane 16 23 8 .f32 0) ∧ decodeTableWord 32 0x3F80022F = some (.vmovi 4 .f32 0x3F80) ∧
  decodeTableWord 32 0x10091531 = some (.old 2 1 1 1 .b 0) ∧ decodeTableWord 32 0x08204833 = some (.mmap .t1 0 1 0 false 1 0) ∧
  decodeTableWord 32 0x08443AB5 = some (.mmd 5 .t1 3 4 false 2 0) ∧ decodeTableWord 32 0x004C1139 = some (.copy 2 1 2 9 false) ∧
  decodeTableWord 32 0x11891539 = some (.copym 2 1 1 1 .b 0 3 false) ∧ decodeTableWord 32 0x000A123D = some (.halo 4 1 2 .e false) ∧
  decodeTableWord 32 0x0C48403D = some (.mboxWait 4 9) ∧ decodeTableWord 32 0x1800003D = some (.barw) ∧
  decodeTableWord 32 0x1D0003BF = some (.scneClose 7 2) ∧ decodeTableWord 32 0x210202BF = some (.swcr 5 2 4) ∧
  decodeTableWord 32 0x5190053F = some (.swnb 10 false 1 6) ∧ decodeTableWord 32 0x000061FD = some (.rep 3 3 0) ∧
  decodeTableWord 16 0 = none ∧ decodeTableWord 32 1 = none ∧
  decodeTableWord 32 0x004A4183 = none ∧ decodeTableWord 32 0x000C0009 = none ∧
  decodeTableWord 16 0x0004 = none

/-- A step runs the decoded instruction (R54, R58, R101, R109). When nothing of the agenda is due, no other work has become possible, a core has its turn, nothing meets at the boundary of its first ready slot, and the code bytes at the PC decode to a well-formed instruction, then the step is exec of that instruction on the state with that stream in focus, in which the fetch has corrected and logged what it found (R120); where the device holds no error, that state is the one before the fetch. -/
def Obligations.StepRunsDecoded : Prop :=
  ∀ (s f : State) (bs : List Byte) (i : Instr), s.TurnOf f → f.BoundaryClear → decode bs = .ok (i, bs.length, []) → i.wf = true →
    let g := f.noteFetch f.hart.pc.toNat
    (g.CodeAt bs → step s = exec i g) ∧ (f.CodeAt bs → f.ue = [] → f.ce = [] → f.groupModes = [] → step s = exec i f)

/-- Decoding an encoded well-formed instruction gives it back (R54, R55, R56, R57, R58). For every well-formed instruction that has a word, decoding its bytes followed by any others gives the instruction, its length and what follows, and the decoder of table words gives it too: no operand bit of any encoding is dropped. -/
def Obligations.DecodeEncode : Prop :=
  (∀ (i : Instr) (bs rest : List Byte), i.wf = true → encode i = some bs → decode (bs ++ rest) = .ok (i, bs.length, rest)) ∧
  (∀ (i : Instr) (nbits w : Nat), i.wf = true → encodeWord i = some (nbits, w) → decodeTableWord nbits w = some i)

/-- What reset leaves (R277, R278, R327, R328, R330, R337, R374). After State.reset every register of every control space but DEGR, which the configuration block gives, reads its reset value; no stream, task or launch exists, every record number is free, the device is running with no seize counted, and memory and the capability table are in canonical form. -/
def Obligations.ResetState : Prop :=
  let s := State.reset
  s.Canonical ∧ (s.hart :: s.harts).all (fun h => !h.live) = true ∧ (∀ tid, s.taskAt? tid = none) ∧ s.launches = [] ∧ s.seize.state = .running ∧ s.seize.seizes = 0 ∧
  (∀ a, s.rec? a = none) ∧
  ∀ die off : Nat, die < 8 → off ≠ 0x18 → s.ctlRead die off =
    if off = 0 then 24 else if off = 8 then 4500 else if off = 0x10 then 0x402710 else if off = 0x28 then 0x0080006400080064
    else if off % 8 = 0 ∧ 0x60000 ≤ off ∧ off < 0x6A000 then 0x22 else 0

/-- Every step goes on and keeps the canonical forms (R3, R22, R23, R384). From every state whose memory and capability table, and those of every image, are in canonical form (memory lists rising addresses without the value that an unlisted address reads as, and no record number is listed twice), a step answers a next state of the same form: the machine never faults, never refuses, and never holds two records of one number. -/
def Obligations.StepKeepsCanonical : Prop :=
  ∀ s : State, s.Canonical → ∃ t, step s = .next t ∧ t.Canonical

/-- Instructions and events complete where their conditions hold (R91, R92, R98, R109, R140, R160, R177, R226, R229, R308, R315, R367). Under conditions on the state and the operands alone, each instruction and event named here answers a next state that is that of its own effect: VRCP, VRSQ, VEXP, VEXP2, VLOG, VLOG2, VTANH and VSIGM, the permutes and broadcasts, VREDM, CHW, CHR, SFORK, SJOIN, EXIT, the matrix operations, COPY.move and COPY.auto, SRINV, MBOX.wait and BARW step past their word with their result; each sweep instruction sends its request, which is performed where it arrives and leaves the stream past its word until the reply; CSWD, the seize commands, launches, queues, channels, scans, sweeps, the package, the host, the peers and the links have the effect that is named. The values themselves stand in the other statements. -/
def Obligations.FormsComplete : Prop :=
  (∀ (s : State) (d a : BitVec 5) (e : Et) (k : BitVec 2), s.Plain → s.RowsFree → e.isWideFloat = true →
    ∀ i ∈ [Instr.vrcp d a e k, .vrsq d a e k, .vexp d a e k, .vexp2 d a e k, .vlog d a e k, .vlog2 d a e k, .vtanh d a e k, .vsigm d a e k],
      ∃ t, exec i s = .next t ∧ t.hart.pc = s.hart.pc + 4 ∧ t.hart.wait = none ∧ (∀ r, r ≠ d → t.v r = s.v r) ∧ t.task = s.task ∧ t.mem = s.mem) ∧
  (∀ (s : State) (d a b : BitVec 5) (e : Et) (k : BitVec 2) (imm : BitVec 16), s.Plain → s.RowsFree →
    (∀ i ∈ [Instr.vperm d a b e k, .vbcast d a e k, .vmovi d e imm, .vaddi d e imm],
      ∃ t, exec i s = .next t ∧ t.hart.pc = s.hart.pc + 4 ∧ t.hart.wait = none ∧ (∀ r, r ≠ d → t.v r = s.v r) ∧ t.task = s.task ∧ t.mem = s.mem) ∧
    (b.toNat < e.lanes → ∃ t, exec (.vbcastLane d a b e k) s = .next t ∧ t.hart.pc = s.hart.pc + 4 ∧ t.hart.wait = none ∧ (∀ r, r ≠ d → t.v r = s.v r)) ∧
    (b.toNat + 32 < e.lanes → ∃ t, exec (.vbcastLaneHigh d a b e k) s = .next t ∧ t.hart.pc = s.hart.pc + 4 ∧ t.hart.wait = none ∧ (∀ r, r ≠ d → t.v r = s.v r))) ∧
  (∀ (s : State) (d a : BitVec 5) (e : Et) (k : BitVec 2) (u : Bool), s.Plain → s.RowsFree → e.isFloat = false ∨ u = false → ∀ i ∈ [Instr.vredmMax d a e k u, .vredmMin d a e k u],
    ∃ t, exec i s = .next t ∧ t.hart.pc = s.hart.pc + 4 ∧ t.hart.wait = none ∧ (∀ r, r ≠ d → r ≠ 0 → t.x r = s.x r) ∧ t.hart.v = s.hart.v) ∧
  (∀ (s : State) (b : BitVec 5) (d : Dir) (l : Launch) (nb : Nat × Nat) (r : Task), s.Plain → s.Neighbour d l nb r → s.Served (.chanOut d) → s.task.gone[dirIx d] = false → 0 < s.task.credits[dirIx d] → s.releaseWait = none →
    ∃ t, exec (.chw b d) s = .next t ∧ t.hart.pc = s.hart.pc + 4 ∧ t.hart.wait = none ∧ t.task.credits[dirIx d] = s.task.credits[dirIx d] - 1) ∧
  (∀ (s : State) (x : BitVec 5) (d : Dir) (l : Launch) (nb : Nat × Nat) (r : Task) (w : Word) (ws : List Word), s.Plain → s.Neighbour d l nb r → s.Served (.chanIn d) → s.task.chan[dirIx d] = w :: ws →
    ∃ t, exec (.chr x d) s = .next t ∧ t.hart.pc = s.hart.pc + 4 ∧ t.hart.wait = none ∧ (x ≠ 0 → t.x x = w) ∧ t.task.chan[dirIx d] = ws) ∧
  (∀ (s : State) (d a b : BitVec 5), s.Plain → s.hart.live = true → s.hart.tid = s.task.tid → (s.x a).getLsbD 0 = false →
    let live := (s.hartsOf s.task.tid).map (·.no)
    (1 ∈ live → 2 ∈ live → ∃ t, exec (.sfork d a b) s = .next t ∧ t.hart.pc = s.hart.pc + 4 ∧ t.hart.wait = none ∧ (d ≠ 0 → t.x d = 0)) ∧
    (∀ slot rest, 1 ∉ live → s.freeSlots s.tile.idx = slot :: rest → (s.lineUp .fork).forkRoom = true → s.releaseWait = none →
      ∃ t h, exec (.sfork d a b) s = .next t ∧ t.hart.pc = s.hart.pc + 4 ∧ t.hart.wait = none ∧ (d ≠ 0 → t.x d = 1) ∧ t.hartAt? s.task.tid 1 = some h ∧ h.pc = s.x a ∧ h.slot = some slot)) ∧
  (∀ (s : State) (a : BitVec 5), s.Plain → s.hart.live = true → s.hart.tid = s.task.tid → (s.hartsOf s.task.tid).map (·.no) = [s.hart.no] →
    ∃ t, exec (.sjoin a) s = .next t ∧ t.hart.pc = s.hart.pc + 4 ∧ t.hart.wait = none) ∧
  (∀ s : State, s.hart.level = .u → s.task.pendErr = none →
    (s.hart.no ≠ 0 → s.releaseWait = none → ∃ t, exec .exit s = .next t ∧ t.hart.live = false ∧ t.hart.slot = none ∧ t.task = s.task) ∧
    (s.hart.no = 0 → s.hart.live = true → s.hart.tid = s.task.tid → s.task.state ≠ .exited → s.hartsOf s.task.tid = [s.hart] → s.task.join = 0 → s.taskQuiet s.task.tid s.task.tile = true → s.hart.posted = [] →
      ∃ t, exec .exit s = .next t ∧ t.task.state = .exited ∧ t.hart.live = false ∧ t.hart.slot = none)) ∧
  (∀ (s : State) (d : AccT) (a b : BitVec 2) (e : BitVec 3) (f : Bool) (x y : BitVec 3) (n h : BitVec 4) (c : CapRec), s.Plain → s.tile.matrix.length < 4 →
    let FA := BitVec.ofNat 5 (s.hart.getFS a).toNat
    let FB := BitVec.ofNat 5 (s.hart.getFS b).toNat
    let FK := (s.tile.huskAt n.toNat).inFmt
    (s.tile.rampHolds s.clk 8 = false → ∃ t o, exec (.mzero d f) s = .next t ∧ t.hart.pc = s.hart.pc + 4 ∧ t.hart.wait = none ∧ t.tile.matrix = s.tile.matrix ++ [o] ∧ o.kind = .mzero) ∧
    (s.tile.names s.task.tid y.toNat FA = true → s.tile.names s.task.tid x.toNat FB = true → (s.hart.getOX e).toNat < 2 ^ 39 → s.tile.rampHolds s.clk (s.pairClks s.tile.idx (FA.toNat % 16) (FB.toNat % 16)) = false →
      (FA.getLsbD 4 = false → FB.getLsbD 4 = false → ∃ t o, exec (.mma d a b e f x y) s = .next t ∧ t.hart.pc = s.hart.pc + 4 ∧ t.hart.wait = none ∧ t.tile.matrix = s.tile.matrix ++ [o] ∧ o.kind = .mma) ∧
      ∃ t o, exec (.mmap d a b e f x y) s = .next t ∧ t.hart.pc = s.hart.pc + 4 ∧ t.hart.wait = none ∧ t.tile.matrix = s.tile.matrix ++ [o] ∧ o.kind = .mmap) ∧
    (s.checkHandle h needRD = .ok c → s.admits c .engineRead = .ok → c.format.getLsbD 4 = false → (s.tile.huskAt n.toNat).bound = true → s.tile.names s.task.tid y.toNat FK = true →
      s.tile.names s.task.tid x.toNat c.format = true → (s.hart.getOX e).toNat < 2 ^ 39 → s.tile.rampHolds s.clk (s.pairClks s.tile.idx (FK.toNat % 16) (c.format.toNat % 16)) = false →
      ∃ t o, exec (.mmd n d h e f x y) s = .next t ∧ t.hart.pc = s.hart.pc + 4 ∧ t.hart.wait = none ∧ t.tile.matrix = s.tile.matrix ++ [o] ∧ o.kind = .mmd)) ∧
  (∀ (s : State) (d h : BitVec 4) (ntf : Bool) (c : CapRec) (img : Image), s.Plain → s.EngineReady → s.handle d = 0 → d ≠ h → s.checkHandle h needXFER = .ok c → Memory.wf s.mem = true →
    s.freeRecord (dieOf s.tile.idx) = some img → img ≠ c.img →
    (s.admits c (.send 1) = .ok → ∃ t, exec (.copyMove d h ntf) s = .next t ∧ t.hart.pc = s.hart.pc + 4 ∧ t.hart.wait = none ∧ t.handle h = 0) ∧
    (s.admits c (.send 2) = .ok → ∃ t, exec (.copyAuto d h ntf) s = .next t ∧ t.hart.pc = s.hart.pc + 4 ∧ t.hart.wait = none ∧ t.handle h = 0)) ∧
  (∀ (s : State) (h : BitVec 4) (a : BitVec 3), s.Plain → s.ownEntries = false →
    (∃ t, exec .srinvAll s = .next t ∧ t.hart.pc = s.hart.pc + 4 ∧ t.hart.wait = none ∧ ∀ x ∈ t.tile.cache, x.asid ≠ s.task.asid) ∧
    (∀ c, s.checkHandle h needRD = .ok c → (s.hart.getOX a).toNat < 2 ^ 40 → (s.hart.getOX a).toNat % 64 = 0 → ∃ t, exec (.srinv h a) s = .next t ∧ t.hart.pc = s.hart.pc + 4 ∧ t.hart.wait = none)) ∧
  (∀ (s : State) (h : BitVec 4) (b : BitVec 5) (c : CapRec) (ph : PhaseState), s.Plain → s.checkHandle h needNone = .ok c → c.phase = some ph → s.x b = 0 → ∃ t, exec (.mboxWait h b) s = .next t ∧ t.hart.pc = s.hart.pc + 4 ∧ t.hart.wait = none) ∧
  (∀ s : State, s.Plain → s.task.coord.isSome = true → (s.launchAt? s.task.launch).isSome = true → s.task.openArrival = none → ∃ t, exec .barw s = .next t ∧ t.hart.pc = s.hart.pc + 4 ∧ t.hart.wait = none) ∧
  (∀ (s : State) (d : BitVec 5) (k : BitVec 3) (a : BitVec 5) (l : Launch) (rc : Nat × Nat) (n : Nat), s.Plain → s.launchAt? s.task.launch = some l → s.task.coord = some rc →
    let w := s.x a
    let ox := s.hart.getOX k
    let g := subgroupOf (wordBits 27 25 w) (wordBits 31 28 w) (l.rel rc)
    wordBits 63 32 w = 0 → wordBits 31 28 w ≤ 9 → wordBits 19 17 w ≤ wordBits 22 20 w → thresholdBad (lo32 ox) = false → thresholdBad (hi32 ox) = false → fpLt (fp32.decode (hi32 ox).toNat) (fp32.decode (lo32 ox).toNat) = false →
    wordBits 16 0 w ≤ 65536 → dieOf (l.corners g).1 = dieOf (l.corners g).2 → n < 16 → (s.dieAt s.sweepDie).calendar? n = none → (∀ j < n, ((s.dieAt s.sweepDie).calendar? j).isSome = true) →
    ∃ r u t, exec (.swcr d k a) s = .next u ∧ u.hart.wait = some (.sweepReq (s.clk + s.sweepPark / 2) r) ∧ t = (u.at_ (s.clk + s.sweepPark / 2)).sweepArrive r ∧
      t.hart.pc = s.hart.pc + 4 ∧ t.hart.wait = some (.reply (s.clk + s.sweepPark)) ∧ (d ≠ 0 → t.x d = BitVec.ofNat 64 (n * 2 ^ 16))) ∧
  (∀ (s : State) (d a b : BitVec 5) (k : BitVec 3) (j : BitVec 2) (p1 : Bool) (c : Calendar) (p : Nat) (m : Member), s.Plain → s.InSet (s.x a) c p → wordBits 63 20 (s.x a) = 0 →
    c.member? (wordBits 15 0 (s.x a)) = some m → m.heldBy p = true → m.holder = p → m.handed = true → m.state = .live →
    let performs (i : Instr) (d : BitVec 5) (v : Word) : Prop := ∃ r u t, exec i s = .next u ∧ u.hart.wait = some (.sweepReq (s.clk + s.sweepPark / 2) r) ∧ t = (u.at_ (s.clk + s.sweepPark / 2)).sweepArrive r ∧
      t.hart.pc = s.hart.pc + 4 ∧ t.hart.wait = some (.reply (s.clk + s.sweepPark)) ∧ (d ≠ 0 → t.x d = v)
    (∀ i ∈ [Instr.swdel a, .swrpt b a, .swset b k a, .swsetNb k a], performs i 0 0) ∧
    (∀ i < 65536, c.member? i = none → (∀ j < i, (c.member? j).isSome = true) → performs (.swadd d k a) d (memberName c i)) ∧
    (m.valid.getLsbD j.toNat = false → performs (.swnb d p1 j a) d 0x7FC00000)) ∧
  (∀ (s : State) (d a : BitVec 5) (c : Calendar) (p : Nat), s.Plain → s.InSet (s.x a) c p → wordBits 63 20 (s.x a) = 0 → c.dueList = [] →
    ∃ r u t, exec (.swnxt d a) s = .next u ∧ u.hart.wait = some (.sweepReq (s.clk + s.sweepPark / 2) r) ∧ t = (u.at_ (s.clk + s.sweepPark / 2)).sweepArrive r ∧
      t.hart.pc = s.hart.pc + 4 ∧ t.hart.wait = some (.reply (s.clk + s.sweepPark)) ∧ (d ≠ 0 → t.x d = BitVec.allOnes 64)) ∧
  (∀ (s : State) (d a : BitVec 5) (c : Calendar) (p : Nat) (q : Participant), s.Plain → s.task.coord.isSome = true → wordBits 63 20 (s.x a) = 0 → (s.dieAt s.sweepDie).calendar? (wordBits 19 16 (s.x a)) = some c →
    c.asid = s.task.asid → c.launch = s.task.launch → c.partOf s.task.tid = some p → c.poisoned = false → c.part? s.task.tid = some q → s.siblingAt c = false → s.releaseWait = none → q.done = true →
    ∃ r u t, exec (.swadv d a) s = .next u ∧ u.hart.wait = some (.sweepReq (s.clk + s.sweepPark / 2) r) ∧ t = (u.at_ (s.clk + s.sweepPark / 2)).sweepArrive r ∧
      t.hart.pc = s.hart.pc + 4 ∧ t.hart.wait = some (.reply (s.clk + s.sweepPark)) ∧ (d ≠ 0 → t.x d = c.s.zeroExtend 64)) ∧
  (∀ (s : State) (b : BitVec 5), s.Plain → s.hart.level = .s → wordBits 23 0 s.hart.cswa = 0 → 16 ≤ (s.x b).toNat → (s.x b).toNat ≤ 32 →
    ∃ t, exec (.cswdWrite b) s = .next t ∧ t.hart.pc = s.hart.pc + 4 ∧ t.hart.wait = none ∧ (t.dieAt (wordBits 26 24 s.hart.cswa)).wdlim = (s.x b).toNat) ∧
  (∀ (s : State) (i : Image0), s.seize.state = .running → s.launches = [] → (∀ a ∈ s.asids, a.2.getLsbD 63 = false) → (∀ q ∈ s.queues, qValid q.2 = false) → s.seize.base.toNat % 4096 = 0 → 4096 ≤ s.seize.length.toNat →
    s.ImageAt i → i.length ≤ s.seize.length.toNat → i.signed = true → i.device = 0 → ∃ t, exec .resumeFromImage s = .next t ∧ t.seize.state = .restoring) ∧
  (∀ s : State, s.seize.state = .quiescing → s.settled = true → ∃ t, exec .quiesceComplete s = .next t ∧ t.seize.state = .streaming) ∧
  (∀ (s : State) (l : Launch) (a : Nat), s.launchAt? l.idx = some l → s.ringAddr l.queue l.entry = some a → Memory.wf s.mem = true → l.members = [] → l.spawned = [] → l.replayPending = false → l.stitch ≠ 1 → l.stitch ≠ 2 → l.shadows = [] →
    ∃ t, exec (.launchComplete l.idx) s = .next t ∧ t.launchAt? l.idx = none) ∧
  (∀ (s : State) (q n a : Nat) (p : List Word), n = qRI (s.queueWords q) → s.Head q 1 n a p → s.touchRing q n = s → pkKind p = 0 → ∃ t, exec (.queueConsume q) s = .next t ∧ (s.clk, .spawnPacket q n) ∈ t.agenda) ∧
  (∀ (s : State) (q n a : Nat) (p : List Word) (d : Dest) (r : Task), s.Head q 1 n a p → pkKind p = 3 → pf p 0 4 4 = 0 → Dest.of (pw p 1) = some d → s.isThisDevice d.dev = true → s.r5 p = true → (∀ k < 4, pw p (4 + k) = 0) →
    d.type = 0 → s.taskAt? (BitVec.ofNat 32 d.target) = some r → s.taskInboxFull r = false → r.state ≠ .exited →
    ∃ t k, exec (.signalPacket q n) s = .next t ∧ t.taskAt? r.tid = some k ∧ k.inbox.length = r.inbox.length + 1) ∧
  (∀ (s : State) (now : Nat), ∃ t, exec (.ptpStep now) s = .next t ∧ t.hart = s.hart ∧ t.task = s.task ∧ t.ptp = now) ∧
  (∀ (s : State), s.hart.live = true → s.hart.tid = s.task.tid → s.tile.idx = s.hart.tile → s.hart.wait = some .joinZero → s.task.join = 0 →
    ∃ t, exec (.waitConditionMet s.hart.tid s.hart.no) s = .next t ∧ t.hart.wait = none ∧ t.hart.readyAt = s.clk + 1) ∧
  (∀ (s : State) (due : Nat), s.hart.live = true → s.hart.wait = some (.reply due) → due ≤ s.clk → ∃ t, exec (.loadResponse s.hart.tid s.hart.no) s = .next t ∧ t.hart.wait = none) ∧
  (∀ (s : State) (o : XferOp) (l : Leg) (e : CapRec) (a : Nat) (p : Word), s.Joins o l e a → Memory.wf s.mem = true → a < hbmBase → o.kind = .pattern p → o.src = none →
    ∃ t, exec (.transferJoin s.tile.idx o.id) s = .next t ∧ t.tile.xfers = [] ∧ t.rec? e.img = some e.filled) ∧
  (∀ (s : State) (tid : Tid) (d : Dir) (r : Task), s.taskAt? tid = some r → r.state ≠ .exited →
    (∀ due w q, r.arriving[dirIx d] = (due, w) :: q → ∃ t k, exec (.channelWordArrival tid d) s = .next t ∧ t.taskAt? tid = some k ∧ k.chan[dirIx d] = r.chan[dirIx d] ++ [w]) ∧
    (r.credits[dirIx d] < 4 → ∃ t k, exec (.channelCreditReturn tid d) s = .next t ∧ t.taskAt? tid = some k ∧ k.credits[dirIx d] = r.credits[dirIx d] + 1) ∧
    ∃ t k, exec (.neighbourExitedFlag tid d) s = .next t ∧ t.taskAt? tid = some k ∧ k.gone[dirIx d] = true) ∧
  (∀ (s : State) (o : Nat) (p : BitVec 4), s.Plain → s.hart.live = true → s.hart.tile = s.tile.idx → s.hart.wait = some (.halo o 1 p) →
    ∃ t, exec (.haloReply s.tile.idx o) s = .next t ∧ t.hart.pc = s.hart.pc + 4 ∧ t.hart.wait = none) ∧
  (∀ (s u : State) (k : BitVec 2) (r : BitVec 5) (n e : Nat), s.task.state = .running → s.hart.tid = s.task.tid → s.hart.live = true → s.tile.idx = s.hart.tile →
    s.hart.wait = some (.scan k.toNat n r) → n < 3 → exec (if n = 0 then .scng r k else if n = 1 then .scne r k else .scnp r k) (s.setHart { s.hart with wait := none, met := none }) = .next u → u.hart.wait = none →
    (∃ t, exec (.scanCarryReady s.task.tid s.hart.no) s = .next t ∧ t.hart.pc = u.hart.pc ∧ t.hart.wait = none) ∧
    (s.parkedOn s.task.tid k.toNat = [s.hart.no] →
      (∃ t, exec (.epochClose s.task.tid k.toNat e) s = .next t ∧ t.hart.pc = u.hart.pc ∧ t.hart.wait = none) ∧
      ∃ t, exec (.leavingMark s.task.tid k.toNat) s = .next t ∧ t.hart.pc = u.hart.pc ∧ t.hart.wait = none)) ∧
  (∀ (s : State) (die ch : Nat), ch < 64 → (∀ j < 256, (s.ctlRead die (0x1000 + 8 * j)).toNat < 2 ^ 48) → (s.dieAt die).burstEnd ch s.clk = none → s.alertPending die ch = false →
    ∃ t e, exec (.hbmRecalibration die ch) s = .next t ∧ findBy (·.1) ch (t.dieAt die).bursts = some (ch, s.clk, e) ∧ s.clk < e) ∧
  (∀ (s : State) (power restore : Nat) (draw : List Nat), s.config.withdrawn.length < 2 ^ 16 → ((power :: s.power).take 100).sum ≤ s.pcap.toNat * ((power :: s.power).take 100).length →
    95 * (s.pcap.toNat * ((power :: s.power).take 100).length) ≤ 100 * ((power :: s.power).take 100).sum → ∃ t, exec (.powerMeasurement power draw restore) s = .next t ∧ t.power = (power :: s.power).take 100 ∧ t.calmTicks = 0) ∧
  (∀ (s : State) (r : MonitorRead), (∀ t, s.ageingAt = some t → t + 1440000000000 ≤ s.tick) → r.action = .none → ∃ t, exec (.ageingMonitorRead r) s = .next t ∧ t.config.history = s.config.history ++ r.readings ∧ t.config.margins = r.margins) ∧
  (∀ (s : State) (port : Nat), s.hostHeld port = false → ∃ t, exec (.hpkstRead port) s = .next t ∧ t = s) ∧
  (∀ (s : State) (q : Nat), q < 16384 → ∃ t, exec (.hostTicketClaim (.fetchAdd q)) s = .next t ∧ t.queueWords q = (s.queueWords q).set 2 ((s.queueWords q)[2] + 1)) ∧
  (∀ (s : State) (port : Nat) (nonce : BitVec 256), port < 4 → s.seize.state = .running →
    ∀ i ∈ [Instr.getVersion port, .getCapabilities port, .negotiateAlgorithms port, .getCertificate port, .challenge port nonce, .getMeasurements port nonce],
      ∃ t a, exec i s = .next t ∧ t = { s with mailbox := t.mailbox } ∧ findBy (·.1) port t.mailbox = some (port, a) ∧ a ≠ .busy) ∧
  (∀ s : State, s.OnBoundary → s.Handled →
    (s.task.unlimited = false → s.task.budget = 0 → ∃ t, exec (.budg s.task.tid) s = .next t ∧ t.hart.level = .s ∧ t.task.state = .trapped) ∧
    (2 ^ (s.dieAt (dieOf s.task.tile)).wdlim ≤ s.task.watchdog → ∃ t, exec (.wdog s.task.tid) s = .next t ∧ t.hart.level = .s ∧ t.task.state = .trapped) ∧
    (s.task.pendErr = none → s.task.ev2 = true → s.hart.evhpc.getLsbD 63 = false → s.hart.evhpc.getLsbD 49 = true → ∃ t, exec (.userEvent s.task.tid) s = .next t ∧ t.x 30 = 2 ∧ t.task.ev2 = false)) ∧
  (∀ (s : State) (w : HostWrite), s.hostWrites.find? (fun x => x.id == w.id) = some w → Memory.wf s.mem = true → ∃ t, exec (.homePerform w.id) s = .next t ∧ Stored w.addr w.bytes s t) ∧
  (∀ (s : State) (p : Nat) (w : HostWrite), s.hostWrites.filter (fun x => x.port == p) = [w] → Memory.wf s.mem = true → ∃ t, exec (.flushPacket p) s = .next t ∧ Stored w.addr w.bytes s t ∧ p ∉ t.flushWait) ∧
  (∀ (s : State) (die : Nat) (w : Walk), (s.dieAt die).walkQ = [w] → (s.dieAt die).walks.length < 256 → ∃ t, exec (.walkStart die) s = .next t ∧ (t.dieAt die).walkQ = [] ∧ (t.dieAt die).walks.length = (s.dieAt die).walks.length + 1) ∧
  (∀ (s : State) (die : Nat) (w : Walk) (r : List Walk) (p : PageMap), (∀ h ∈ s.harts, ¬(h.tid = s.hart.tid ∧ h.no = s.hart.no)) → (s.dieAt die).walks = w :: r → w.due ≤ s.clk → w.discard = false → s.walk w.asid (w.page * 2 ^ 16) = .page p →
    ∃ t, exec (.walkComplete die 0) s = .next t ∧ (t.dieAt die).walks = r ∧ p ∈ (t.clusterAt w.cluster).tc) ∧
  (∀ (s : State) (p : Packet) (c : CapRec), s.InSequence p →
    (s.NamesRoot p c p.len → c.rights.wr = true → s.admits c (.store (wholeWords p.off.toNat p.len)) = .ok → ∃ t, exec (.write p) s = .next t ∧ t.Stepped p ∧ Stored (c.base + p.off.toNat) p.payload s t) ∧
    (∀ bytes, s.NamesRoot p c (p.arg.toNat + 1) → p.arg.toNat < 256 → c.rights.rd = true → s.admits c (.load (wordSize (p.arg.toNat + 1))) = .ok → s.readUpTo c (p.arg.toNat + 1) p.off.toNat = (bytes, none) →
      ∃ t r, exec (.read p) s = .next t ∧ t.Stepped p ∧ (p.seq, r) ∈ (t.linkAt p.src).kept ∧ r.kind = 2 ∧ r.payload = bytes) ∧
    (s.NamesRoot p c 8 → p.arg.getLsbD 3 = true → c.rights.rd = true → c.rights.wr = true → s.admitAtomic c true = .ok → s.hasUE (c.base + p.off.toNat) 8 = false → s.ce = [] → p.arg.toNat / 256 = 0 → wordBits 7 4 (p.arg.zeroExtend 64) = 0 → p.len = 8 →
      ∃ t r, exec (.atomic p) s = .next t ∧ t.Stepped p ∧ (p.seq, r) ∈ (t.linkAt p.src).kept ∧ r.kind = 4 ∧ r.status = 0) ∧
    (∀ e, 64 < p.len → s.NamesRoot p c (p.len - 64) → c.rights.wr = true → s.admits c (.store (wholeWords p.off.toNat (p.len - 64))) = .ok → s.wrenq? none p.src p.seq = none → qValid (s.queueWords p.arg.toNat) = true →
      qAsid (s.queueWords p.arg.toNat) = p.asid → s.ringAddr p.arg.toNat (qW (s.queueWords p.arg.toNat)) = some e → s.ringRoom p.arg.toNat (qW (s.queueWords p.arg.toNat)) = true →
      e + 64 ≤ c.base + p.off.toNat ∨ c.base + p.off.toNat + (p.len - 64) ≤ e → ∃ t, exec (.wrenq p) s = .next t ∧ t.Stepped p ∧ (t.queueWords p.arg.toNat) = (s.queueWords p.arg.toNat).set 2 ((s.queueWords p.arg.toNat)[2] + 1)) ∧
    (∃ t, exec (.revoke p) s = .next t ∧ t.Stepped p) ∧
    (s.rec? p.root.toNat = some c → ∃ t, exec (.frz p) s = .next t ∧ t.Stepped p) ∧
    (∀ port g, let w := (s.dieAt (dieOfPort port)).bqcfg.toArray.getD (portPlace port) 0
      w.getLsbD 63 = true → wordBits 45 32 w = p.asid.toNat → s.asidLive p.asid = true → (s.dieAt (dieOfPort port)).blocks = [] → s.gatewayOf port (p.off.toNat / 64) = some g → g.state ≠ .exited → s.taskAt? g.tid = some g → g.q[0].length < 16 → g.qv[0].length < 4 →
      ∃ t k, exec (.redblk port p) s = .next t ∧ t.Stepped p ∧ t.taskAt? g.tid = some k ∧ k.q[0] = g.q[0] ++ [BitVec.ofNat 64 (p.off.toNat / 64)]) ∧
    (∀ (r : Task) (img : Nat), s.asidLive p.asid = true → xferOk p = true → s.inboxDest (packetWord p 3) = some ⟨0, s.ownDevice, r.tid.toNat⟩ → s.taskAt? r.tid = some r → r.state ≠ .exited → s.taskInboxFull r = false →
      wordBits 57 56 (packetWord p 0) = 0 → xKind p = .frac ∨ xKind p = .commons → xOwner p ≠ s.ownDevice → s.freeRecord (dieOf r.tile) = some img →
      ∃ t k, exec (.capxfer p) s = .next t ∧ t.Stepped p ∧ t.rec? img = some k ∧ k.kind = xKind p)) ∧
  (∀ (s : State) (p : Packet) (x : Sent) (r : Remote) (d : BitVec 5), s.InSequence p → s.Plain → s.hart.live = true → s.hart.tid = x.tid → s.hart.no = x.no → s.task.tid = x.tid → s.tile.idx = s.hart.tile → x.xfer = none → x.cap = none →
    s.hart.wait = some (.peerReply p.src x.packet.seq) → s.hart.remote = some r → r.rep = false → p.status = 0 → p.payload.length = 8 →
    ((s.linkAt p.src).asked.find? (fun y => y.packet.kind == 1 && y.packet.root == p.root && y.packet.off == p.off) = some x → r.what = .x d 8 false →
      ∃ t, exec (.rdresp p) s = .next t ∧ t.hart.pc = s.hart.pc + BitVec.ofNat 64 r.bytes ∧ t.hart.wait = none ∧ (d ≠ 0 → t.x d = BitVec.ofNat 64 (leValue p.payload))) ∧
    ((s.linkAt p.src).asked.find? (fun y => y.packet.kind == 3 && y.packet.root == p.root && y.packet.off == p.off) = some x → r.what = .amo d 8 →
      ∃ t, exec (.atresp p) s = .next t ∧ t.hart.pc = s.hart.pc + BitVec.ofNat 64 r.bytes ∧ t.hart.wait = none ∧ (d ≠ 0 → t.x d = BitVec.ofNat 64 (leValue p.payload)))) ∧
  (∀ (s : State) (p : Packet), s.seize.state = .running → s.accepts p = true → (s.linkAt p.src).waiting = [] → (∀ x ∈ (s.linkAt p.src).doubt ++ (s.linkAt p.src).unacked, x.xfer = none ∧ x.cap = none) →
    (∃ t, exec (.ack p) s = .next t ∧ (t.linkAt p.src).unacked = (s.linkAt p.src).unacked.filter fun x => decide ((if p.seq = 0 then p.status.toNat else p.seq) < x.packet.seq)) ∧
    (∀ x, (s.linkAt p.src).unacked.find? (fun y => y.packet.seq == p.seq) = some x → p.status = 8 → ∃ t, exec (.nak p) s = .next t ∧ ∀ y ∈ (t.linkAt p.src).unacked, y.packet.seq = p.seq → y.at_ = s.ptp) ∧
    ((s.linkAt p.src).peerEpoch = p.arg.toNat % 65536 → ∃ t, exec (.resync p) s = .next t ∧ (t.linkAt p.src).doubt = [])) ∧
  (∀ (s : State) (dev : Nat),
    ((s.linkAt dev).sinceAck ≠ 0 → ∃ t, exec (.hntAckTimer dev) s = .next t ∧ (t.linkAt dev).sinceAck = 0) ∧
    (∀ x r, (s.linkAt dev).unacked = x :: r → x.at_ + 4 * s.hntTarget ≤ s.ptp → (s.peerPort dev).isSome = true → ∃ t, exec (.hntRetransmit dev) s = .next t ∧ t.wire.length = s.wire.length + r.length + 1) ∧
    (∀ k, (s.linkAt dev).unansweredAt = some k → k + s.hntTimeout ≤ s.ptp → ∃ t, exec (.hntBeyondRecovery dev) s = .next t ∧ (t.linkAt dev).unacked = [] ∧ (t.linkAt dev).asked = []))
end

