-- ==== Sys2Proof/Laws/Cells.lean ====
section
/-!
SUPPORT. The canonical forms of memory and of the capability table, and what keeps them.
-/
namespace Sys2Proof.Machine
open Sys2Proof

theorem wf_cons {k : Nat} {b : Byte} {m : List Host.Cell} : Memory.wf ((k, b) :: m) = true ↔ b ≠ unlisted ∧ (∀ c ∈ m, k < c.1) ∧ Memory.wf m = true := by
  induction m generalizing k b with
  | nil => simp [Memory.wf]
  | cons c m ih =>
    obtain ⟨k', b'⟩ := c
    have h : Memory.wf ((k, b) :: (k', b') :: m) = true ↔ b ≠ unlisted ∧ k < k' ∧ Memory.wf ((k', b') :: m) = true := by simp [Memory.wf, and_assoc]
    rw [h, ih]
    constructor
    · rintro ⟨h1, h2, h3, h4, h5⟩
      refine ⟨h1, ?_, h3, h4, h5⟩
      intro c hc
      rcases List.mem_cons.1 hc with rfl | hc
      · exact h2
      · exact Nat.lt_trans h2 (h4 c hc)
    · rintro ⟨h1, h2, h3⟩
      exact ⟨h1, h2 (k', b') (by simp), h3⟩
theorem wf_filter {m : List Host.Cell} (f : Host.Cell → Bool) (h : Memory.wf m = true) : Memory.wf (m.filter f) = true := by
  induction m with
  | nil => rfl
  | cons c m ih =>
    obtain ⟨k, b⟩ := c
    rw [wf_cons] at h
    rw [List.filter_cons]
    split
    · rw [wf_cons]; exact ⟨h.1, fun c hc => h.2.1 c (List.mem_filter.1 hc).1, ih h.2.2⟩
    · exact ih h.2.2
theorem memSet_mem {a : Nat} {v : Byte} {m : List Host.Cell} {c : Host.Cell} (h : c ∈ memSet a v m) : c = (a, v) ∨ c ∈ m := by
  induction m with
  | nil => unfold memSet at h; split at h <;> simp_all
  | cons d m ih =>
    obtain ⟨k, b⟩ := d
    unfold memSet at h
    split at h
    · split at h
      · right; simp [h]
      · simp at h; rcases h with h | h <;> simp [h]
    · split at h
      · split at h
        · right; exact h
        · simp at h; rcases h with h | h | h <;> simp [h]
      · simp at h
        rcases h with h | h
        · simp [h]
        · rcases ih h with h | h <;> simp [h]
theorem wf_memSet {a : Nat} {v : Byte} {m : List Host.Cell} (h : Memory.wf m = true) : Memory.wf (memSet a v m) = true := by
  induction m with
  | nil => unfold memSet; split <;> simp_all [Memory.wf]
  | cons c m ih =>
    obtain ⟨k, b⟩ := c
    have hc := wf_cons.1 h
    unfold memSet
    split
    · rename_i hk; subst hk
      split
      · exact hc.2.2
      · rw [wf_cons]; exact ⟨‹_›, hc.2.1, hc.2.2⟩
    · split
      · split
        · exact h
        · rw [wf_cons]; refine ⟨‹_›, ?_, h⟩
          intro d hd
          rcases List.mem_cons.1 hd with rfl | hd
          · assumption
          · exact Nat.lt_trans ‹_› (hc.2.1 d hd)
      · rw [wf_cons]; refine ⟨hc.1, ?_, ih hc.2.2⟩
        intro d hd
        rcases memSet_mem hd with rfl | hd
        · show k < a; omega
        · exact hc.2.1 d hd
theorem wf_memPut {a : Nat} {bs : List Byte} {m : List Host.Cell} (h : Memory.wf m = true) : Memory.wf (memPut a bs m) = true := by
  induction bs generalizing a m with
  | nil => exact h
  | cons b bs ih => exact ih (wf_memSet h)
theorem wf_setAll {l : List (Nat × Byte)} {m : List Host.Cell} (h : Memory.wf m = true) : Memory.wf (l.foldl (fun m x => memSet x.1 x.2 m) m) = true := by
  induction l generalizing m with
  | nil => exact h
  | cons b bs ih => exact ih (wf_memSet h)
/-- A memory below an address and one above it. -/
theorem wf_append {m n : List Host.Cell} (hm : Memory.wf m = true) (hn : Memory.wf n = true) (h : ∀ c ∈ m, ∀ d ∈ n, c.1 < d.1) : Memory.wf (m ++ n) = true := by
  induction m with
  | nil => exact hn
  | cons c m ih =>
    obtain ⟨k, b⟩ := c
    rw [wf_cons] at hm
    rw [List.cons_append, wf_cons]
    refine ⟨hm.1, ?_, ih hm.2.2 fun c hc d hd => h c (by simp [hc]) d hd⟩
    intro d hd
    rcases List.mem_append.1 hd with hd | hd
    · exact hm.2.1 d hd
    · exact h (k, b) (by simp) d hd

theorem quire_cons {c : CapRec} {m : List CapRec} : Quire.wf (c :: m) = true ↔ (∀ d ∈ m, c.img < d.img) ∧ Quire.wf m = true := by
  induction m generalizing c with
  | nil => simp [Quire.wf]
  | cons e m ih =>
    have h : Quire.wf (c :: e :: m) = true ↔ c.img < e.img ∧ Quire.wf (e :: m) = true := by simp [Quire.wf]
    rw [h, ih]
    constructor
    · rintro ⟨h2, h4, h5⟩
      refine ⟨?_, h4, h5⟩
      intro c hc
      rcases List.mem_cons.1 hc with rfl | hc
      · exact h2
      · exact Nat.lt_trans h2 (h4 c hc)
    · rintro ⟨h2, h3⟩
      exact ⟨h2 e (by simp), h3⟩
theorem quire_filter {m : List CapRec} (f : CapRec → Bool) (h : Quire.wf m = true) : Quire.wf (m.filter f) = true := by
  induction m with
  | nil => rfl
  | cons c m ih =>
    rw [quire_cons] at h
    rw [List.filter_cons]
    split
    · rw [quire_cons]; exact ⟨fun c hc => h.1 c (List.mem_filter.1 hc).1, ih h.2⟩
    · exact ih h.2
theorem quire_drop {m : List CapRec} (k : Nat) (h : Quire.wf m = true) : Quire.wf (dropBy CapRec.img k m) = true := quire_filter _ h
theorem quire_map {m : List CapRec} {f : CapRec → CapRec} (hf : ∀ c, (f c).img = c.img) (h : Quire.wf m = true) : Quire.wf (m.map f) = true := by
  induction m with
  | nil => rfl
  | cons c m ih =>
    rw [quire_cons] at h
    rw [List.map_cons, quire_cons]
    refine ⟨?_, ih h.2⟩
    intro d hd
    obtain ⟨e, he, rfl⟩ := List.mem_map.1 hd
    rw [hf, hf]; exact h.1 e he
theorem putBy_mem {α : Type} {key : α → Nat} {a c : α} {m : List α} (h : c ∈ putBy key a m) : c = a ∨ c ∈ m := by
  induction m with
  | nil => simp [putBy] at h; exact .inl h
  | cons d m ih =>
    unfold putBy at h
    split at h
    · simpa using h
    · split at h
      · simp at h; rcases h with h | h <;> simp [h]
      · simp at h
        rcases h with h | h
        · simp [h]
        · rcases ih h with h | h <;> simp [h]
theorem quire_put {m : List CapRec} (c : CapRec) (h : Quire.wf m = true) : Quire.wf (putBy CapRec.img c m) = true := by
  induction m with
  | nil => rfl
  | cons d m ih =>
    have hd := quire_cons.1 h
    unfold putBy
    split
    · rw [quire_cons]; refine ⟨?_, h⟩
      intro e he
      rcases List.mem_cons.1 he with rfl | he
      · assumption
      · exact Nat.lt_trans ‹_› (hd.1 e he)
    · split
      · rename_i hk; rw [quire_cons]; exact ⟨fun e he => hk ▸ hd.1 e he, hd.2⟩
      · rw [quire_cons]; refine ⟨?_, ih hd.2⟩
        intro e he
        rcases putBy_mem he with rfl | he
        · omega
        · exact hd.1 e he

end Sys2Proof.Machine
end

