-- ==== Sys2Proof/Laws/KeptOps.lean ====
section
/-!
SUPPORT. The shared operations keep the canonical forms.
-/
namespace Sys2Proof.Machine

open Sys2Proof

set_option Elab.async false

/-- What every lemma below keeps: memory and the capability table in canonical form, on the device and in every image. -/
def Good (s : State) : Prop := s.Canonical
/-- A meaning that goes on, in a canonical state: neither a fault nor a refusal. -/
def GoodOut : Out → Prop | .next t => Good t | _ => False
/-- The predicate on the value of an option, a result or a pair. -/
def Opt {α : Type} (P : α → Prop) : Option α → Prop | some a => P a | none => True
def Res {ε α : Type} (P : α → Prop) : Except ε α → Prop | .ok a => P a | .error _ => True
def Fst {α β : Type} (P : α → Prop) (p : α × β) : Prop := P p.1
def Snd {α β : Type} (P : β → Prop) (p : α × β) : Prop := P p.2
def Both {α β : Type} (P : α → Prop) (Q : β → Prop) (p : α × β) : Prop := P p.1 ∧ Q p.2
def GoodFound : Found → Prop | .at_ _ _ s => Good s | .wait _ s => Good s | .trap _ => True
def GoodServe : Serve → Prop | .done s _ => Good s | .refused s _ => Good s | .hold s => Good s | .busy s => Good s
def GoodFillPlan : FillPlan → Prop | .ok _ s => Good s | .trap _ s => Good s | .wait _ => True
def GoodGot : Got → Prop | .value _ _ _ s => Good s | .wait _ s => Good s | .peer _ _ s => Good s | .trap _ => True

theorem good_foldl {α} {g : State → α → State} (l : List α) (hg : ∀ s x, Good s → Good (g s x)) {s} (hs : Good s) : Good (l.foldl g s) := by
  induction l generalizing s with | nil => exact hs | cons a l ih => exact ih (hg _ _ hs)
theorem good_same {s t : State} (h1 : t.mem = s.mem) (h2 : t.quire = s.quire) (h3 : t.images = s.images) (h : Good s) : Good t := by
  unfold Good State.Canonical Device.Canonical at *; rw [h1, h2, h3]; exact h
theorem good_ite {c : Prop} [Decidable c] {a b : State} (ha : Good a) (hb : Good b) : Good (if c then a else b) := by split <;> assumption
theorem opt_findSome {α β : Type} {P : β → Prop} {f : α → Option β} (l : List α) (h : ∀ a, Opt P (f a)) : Opt P (l.findSome? f) := by
  induction l with
  | nil => trivial
  | cons a l ih =>
    rw [List.findSome?_cons]
    have k := h a
    generalize f a = o at k
    cases o with
    | none => exact ih
    | some b => exact k
theorem opt_findSome_mem {β : Type} {P : β → Prop} (l : List (Option β)) (h : ∀ o ∈ l, Opt P o) : Opt P (l.findSome? id) := by
  induction l with
  | nil => trivial
  | cons a l ih =>
    have k := h a List.mem_cons_self
    cases a with
    | none => exact ih fun o ho => h o (List.mem_cons_of_mem _ ho)
    | some b => exact k
theorem opt_map {α β : Type} {P : β → Prop} {f : α → β} (o : Option α) (h : ∀ a, P (f a)) : Opt P (o.map f) := by
  cases o with
  | none => trivial
  | some a => exact h a
theorem opt_ok {α : Type} {P : α → Prop} {o : Option α} {a : α} (e : o = some a) (h : Opt P o) : P a := by rw [e] at h; exact h
theorem good_State_reset  : Good (State.reset) := ⟨⟨rfl, rfl⟩, fun _ hi => nomatch hi⟩
theorem good_State_setHart (a0 : Hart) (a1 : State) (h1 : Good a1) : Good (State.setHart a0 a1) := by
  unfold State.setHart; grind [Good, State.Canonical, Device.Canonical, GoodOut, Opt, Res, Fst, Snd, Both, GoodFound, GoodServe, GoodFillPlan, GoodGot]
theorem good_State_setTask (a0 : Task) (a1 : State) (h1 : Good a1) : Good (State.setTask a0 a1) := by
  unfold State.setTask; grind [Good, State.Canonical, Device.Canonical, GoodOut, Opt, Res, Fst, Snd, Both, GoodFound, GoodServe, GoodFillPlan, GoodGot]
theorem good_State_setTile (a0 : Tile) (a1 : State) (h1 : Good a1) : Good (State.setTile a0 a1) := by
  unfold State.setTile; grind [Good, State.Canonical, Device.Canonical, GoodOut, Opt, Res, Fst, Snd, Both, GoodFound, GoodServe, GoodFillPlan, GoodGot]
theorem good_State_setQuire (q : List CapRec) (s : State) (hq : Quire.wf q = true) (h : Good s) : Good (s.setQuire q) := ⟨⟨h.1.1, hq⟩, h.2⟩
theorem good_State_setMem (m : List Host.Cell) (s : State) (hm : Memory.wf m = true) (h : Good s) : Good (s.setMem m) := ⟨⟨hm, h.1.2⟩, h.2⟩
theorem good_State_setAgenda (a0 : List (Nat × Event)) (a1 : State) (h1 : Good a1) : Good (State.setAgenda a0 a1) := by
  unfold State.setAgenda; grind [Good, State.Canonical, Device.Canonical, GoodOut, Opt, Res, Fst, Snd, Both, GoodFound, GoodServe, GoodFillPlan, GoodGot]
theorem good_State_putHart (a0 : State) (a1 : Hart) (h0 : Good a0) : Good (State.putHart a0 a1) := by
  unfold State.putHart; grind [Good, State.Canonical, Device.Canonical, GoodOut, Opt, Res, Fst, Snd, Both, GoodFound, GoodServe, GoodFillPlan, GoodGot]
theorem good_State_putTask (a0 : State) (a1 : Task) (h0 : Good a0) : Good (State.putTask a0 a1) := by
  unfold State.putTask; grind [Good, State.Canonical, Device.Canonical, GoodOut, Opt, Res, Fst, Snd, Both, GoodFound, GoodServe, GoodFillPlan, GoodGot]
theorem good_State_putTile (a0 : State) (a1 : Tile) (h0 : Good a0) : Good (State.putTile a0 a1) := by
  unfold State.putTile; grind [Good, State.Canonical, Device.Canonical, GoodOut, Opt, Res, Fst, Snd, Both, GoodFound, GoodServe, GoodFillPlan, GoodGot]
theorem good_State_modTile (a0 : State) (a1 : Nat) (a2 : Tile → Tile) (h0 : Good a0) : Good (State.modTile a0 a1 a2) := by
  unfold State.modTile; grind [good_State_putTile, Good, State.Canonical, Device.Canonical, GoodOut, Opt, Res, Fst, Snd, Both, GoodFound, GoodServe, GoodFillPlan, GoodGot]
theorem good_State_modTask (a0 : State) (a1 : Tid) (a2 : Task → Task) (h0 : Good a0) : Good (State.modTask a0 a1 a2) := by
  unfold State.modTask; grind [good_State_putTask, Good, State.Canonical, Device.Canonical, GoodOut, Opt, Res, Fst, Snd, Both, GoodFound, GoodServe, GoodFillPlan, GoodGot]
theorem good_State_modHart (a0 : State) (a1 : Tid) (a2 : Nat) (a3 : Hart → Hart) (h0 : Good a0) : Good (State.modHart a0 a1 a2 a3) := by
  unfold State.modHart; grind [good_State_putHart, Good, State.Canonical, Device.Canonical, GoodOut, Opt, Res, Fst, Snd, Both, GoodFound, GoodServe, GoodFillPlan, GoodGot]
theorem good_State_putCluster (a0 : State) (a1 : Cluster) (h0 : Good a0) : Good (State.putCluster a0 a1) := by
  unfold State.putCluster; grind [Good, State.Canonical, Device.Canonical, GoodOut, Opt, Res, Fst, Snd, Both, GoodFound, GoodServe, GoodFillPlan, GoodGot]
theorem good_State_putDie (a0 : State) (a1 : Die) (h0 : Good a0) : Good (State.putDie a0 a1) := by
  unfold State.putDie; grind [Good, State.Canonical, Device.Canonical, GoodOut, Opt, Res, Fst, Snd, Both, GoodFound, GoodServe, GoodFillPlan, GoodGot]
theorem good_State_modDie (a0 : State) (a1 : Nat) (a2 : Die → Die) (h0 : Good a0) : Good (State.modDie a0 a1 a2) := by
  unfold State.modDie; grind [good_State_putDie, Good, State.Canonical, Device.Canonical, GoodOut, Opt, Res, Fst, Snd, Both, GoodFound, GoodServe, GoodFillPlan, GoodGot]
theorem good_State_putLaunch (a0 : State) (a1 : Launch) (h0 : Good a0) : Good (State.putLaunch a0 a1) := by
  unfold State.putLaunch; grind [Good, State.Canonical, Device.Canonical, GoodOut, Opt, Res, Fst, Snd, Both, GoodFound, GoodServe, GoodFillPlan, GoodGot]
theorem good_State_modLaunch (a0 : State) (a1 : Nat) (a2 : Launch → Launch) (h0 : Good a0) : Good (State.modLaunch a0 a1 a2) := by
  unfold State.modLaunch; grind [good_State_putLaunch, Good, State.Canonical, Device.Canonical, GoodOut, Opt, Res, Fst, Snd, Both, GoodFound, GoodServe, GoodFillPlan, GoodGot]
theorem good_State_focusOn (a0 : State) (a1 : Tid) (a2 : Nat) (h0 : Good a0) : (Opt Good) (State.focusOn a0 a1 a2) := by
  unfold State.focusOn; grind [Good, State.Canonical, Device.Canonical, GoodOut, Opt, Res, Fst, Snd, Both, GoodFound, GoodServe, GoodFillPlan, GoodGot]
theorem good_State_writePhys (a0 : State) (a1 : Nat) (a2 : List Byte) (h0 : Good a0) : Good (State.writePhys a0 a1 a2) := ⟨⟨wf_memPut h0.1.1, h0.1.2⟩, h0.2⟩
theorem good_State_scrub (a0 : State) (a1 : Nat) (a2 : Nat) (h0 : Good a0) : Good (State.scrub a0 a1 a2) := ⟨⟨wf_filter _ h0.1.1, h0.1.2⟩, h0.2⟩
theorem good_State_copyRange (a0 : State) (a1 : Nat) (a2 : Nat) (a3 : Nat) (h0 : Good a0) : Good (State.copyRange a0 a1 a2 a3) :=
  ⟨⟨wf_setAll (good_State_scrub a0 a2 a3 h0).1.1, h0.1.2⟩, h0.2⟩
theorem good_State_schedule (a0 : State) (a1 : Nat) (a2 : Event) (h0 : Good a0) : Good (State.schedule a0 a1 a2) := by
  unfold State.schedule; grind [Good, State.Canonical, Device.Canonical, GoodOut, Opt, Res, Fst, Snd, Both, GoodFound, GoodServe, GoodFillPlan, GoodGot]
theorem good_State_draw (a0 : State) (h0 : Good a0) : (Snd Good) (State.draw a0) := by
  unfold State.draw; grind [Good, State.Canonical, Device.Canonical, GoodOut, Opt, Res, Fst, Snd, Both, GoodFound, GoodServe, GoodFillPlan, GoodGot]
theorem good_State_log (a0 : State) (a1 : Nat) (a2 : Nat) (a3 : Nat) (a4 : Nat) (a5 : Word) (a6 : Word) (h0 : Good a0) : Good (State.log a0 a1 a2 a3 a4 a5 a6) := by
  unfold State.log; grind [good_State_modDie, Good, State.Canonical, Device.Canonical, GoodOut, Opt, Res, Fst, Snd, Both, GoodFound, GoodServe, GoodFillPlan, GoodGot]
theorem good_State_putLink (a0 : State) (a1 : Link) (h0 : Good a0) : Good (State.putLink a0 a1) := by
  unfold State.putLink; grind [Good, State.Canonical, Device.Canonical, GoodOut, Opt, Res, Fst, Snd, Both, GoodFound, GoodServe, GoodFillPlan, GoodGot]
theorem good_State_pumpLink (a0 : State) (a1 : Link) (h0 : Good a0) : Good (State.pumpLink a0 a1) := by
  unfold State.pumpLink; grind [good_State_putLink, Good, State.Canonical, Device.Canonical, GoodOut, Opt, Res, Fst, Snd, Both, GoodFound, GoodServe, GoodFillPlan, GoodGot]
theorem good_State_sendSequenced (a0 : State) (a1 : Nat) (a2 : Packet) (a3 : Tid) (a4 : Nat) (a5 : BitVec 4) (a6 : Option (Nat × Nat × Nat)) (a7 : Option Image) (h0 : Good a0) : (Fst Good) (State.sendSequenced a0 a1 a2 a3 a4 a5 a6 a7) := by
  unfold State.sendSequenced; grind [good_State_pumpLink, Good, State.Canonical, Device.Canonical, GoodOut, Opt, Res, Fst, Snd, Both, GoodFound, GoodServe, GoodFillPlan, GoodGot]
theorem good_State_sendPlain (a0 : State) (a1 : Packet) (h0 : Good a0) : Good (State.sendPlain a0 a1) := by
  unfold State.sendPlain; grind [Good, State.Canonical, Device.Canonical, GoodOut, Opt, Res, Fst, Snd, Both, GoodFound, GoodServe, GoodFillPlan, GoodGot]
theorem good_State_putRec (a0 : State) (a1 : CapRec) (h0 : Good a0) : Good (State.putRec a0 a1) := good_State_setQuire _ _ (quire_put _ h0.1.2) h0
theorem good_State_modRec (a0 : State) (a1 : Image) (a2 : CapRec → CapRec) (h0 : Good a0) : Good (State.modRec a0 a1 a2) := by
  unfold State.modRec; grind [good_State_putRec, Good, State.Canonical, Device.Canonical, GoodOut, Opt, Res, Fst, Snd, Both, GoodFound, GoodServe, GoodFillPlan, GoodGot]
theorem good_State_dropRec (a0 : State) (a1 : Image) (h0 : Good a0) : Good (State.dropRec a0 a1) :=
  ⟨⟨h0.1.1, quire_drop _ h0.1.2⟩, h0.2⟩
theorem good_State_releaseStorage (a0 : State) (a1 : CapRec) (h0 : Good a0) : Good (State.releaseStorage a0 a1) := by
  unfold State.releaseStorage; grind [good_State_scrub, Good, State.Canonical, Device.Canonical, GoodOut, Opt, Res, Fst, Snd, Both, GoodFound, GoodServe, GoodFillPlan, GoodGot]
theorem good_State_dropCached (a0 : State) (a1 : Nat) (h0 : Good a0) : Good (State.dropCached a0 a1) := by
  unfold State.dropCached; grind [Good, State.Canonical, Device.Canonical, GoodOut, Opt, Res, Fst, Snd, Both, GoodFound, GoodServe, GoodFillPlan, GoodGot]
theorem good_State_dropStores (a0 : State) (a1 : Nat) (h0 : Good a0) : Good (State.dropStores a0 a1) := by
  unfold State.dropStores; grind [Good, State.Canonical, Device.Canonical, GoodOut, Opt, Res, Fst, Snd, Both, GoodFound, GoodServe, GoodFillPlan, GoodGot]
theorem good_State_freeRoot (a0 : State) (a1 : CapRec) (h0 : Good a0) : Good (State.freeRoot a0 a1) := by
  unfold State.freeRoot; grind [good_State_dropRec, good_State_releaseStorage, good_State_dropStores, good_State_dropCached, good_State_setQuire, quire_map, quire_filter, quire_put, quire_drop, Good, State.Canonical, Device.Canonical, GoodOut, Opt, Res, Fst, Snd, Both, GoodFound, GoodServe, GoodFillPlan, GoodGot]
theorem good_State_dropHolder (a0 : State) (a1 : CapRec) (h0 : Good a0) : Good (State.dropHolder a0 a1) := by
  unfold State.dropHolder; grind [good_State_modRec, good_State_dropRec, good_State_freeRoot, good_State_putRec, Good, State.Canonical, Device.Canonical, GoodOut, Opt, Res, Fst, Snd, Both, GoodFound, GoodServe, GoodFillPlan, GoodGot]
theorem good_State_invalidateHusks (a0 : State) (a1 : Nat) (h0 : Good a0) : Good (State.invalidateHusks a0 a1) := by
  unfold State.invalidateHusks; grind [Good, State.Canonical, Device.Canonical, GoodOut, Opt, Res, Fst, Snd, Both, GoodFound, GoodServe, GoodFillPlan, GoodGot]
theorem good_State_sendRevoke (a0 : State) (a1 : CapRec) (a2 : Nat) (a3 : List Nat) (h0 : Good a0) : Good (State.sendRevoke a0 a1 a2 a3) := by
  unfold State.sendRevoke; grind [good_State_sendSequenced, Good, State.Canonical, Device.Canonical, GoodOut, Opt, Res, Fst, Snd, Both, GoodFound, GoodServe, GoodFillPlan, GoodGot, good_foldl]
theorem good_State_tellWrap (a0 : State) (a1 : Image) (h0 : Good a0) : Good (State.tellWrap a0 a1) := by
  unfold State.tellWrap; grind [good_State_sendRevoke, Good, State.Canonical, Device.Canonical, GoodOut, Opt, Res, Fst, Snd, Both, GoodFound, GoodServe, GoodFillPlan, GoodGot, good_foldl]
theorem good_State_bumpVersion (a0 : State) (a1 : Image) (h0 : Good a0) : Good (State.bumpVersion a0 a1) := by
  unfold State.bumpVersion; grind [good_State_setQuire, good_State_tellWrap, good_State_invalidateHusks, quire_map, quire_filter, quire_put, quire_drop, Good, State.Canonical, Device.Canonical, GoodOut, Opt, Res, Fst, Snd, Both, GoodFound, GoodServe, GoodFillPlan, GoodGot]
theorem good_State_noteStore (a0 : State) (a1 : Image) (h0 : Good a0) : Good (State.noteStore a0 a1) := by
  unfold State.noteStore; grind [good_State_modRec, good_State_bumpVersion, Good, State.Canonical, Device.Canonical, GoodOut, Opt, Res, Fst, Snd, Both, GoodFound, GoodServe, GoodFillPlan, GoodGot]
theorem good_State_clearWritten (a0 : State) (a1 : Image) (h0 : Good a0) : Good (State.clearWritten a0 a1) := by
  unfold State.clearWritten; grind [good_State_modRec, Good, State.Canonical, Device.Canonical, GoodOut, Opt, Res, Fst, Snd, Both, GoodFound, GoodServe, GoodFillPlan, GoodGot]
theorem good_State_poison (a0 : State) (a1 : Image) (h0 : Good a0) : Good (State.poison a0 a1) := by
  unfold State.poison; grind [good_State_setQuire, quire_map, quire_filter, quire_put, quire_drop, Good, State.Canonical, Device.Canonical, GoodOut, Opt, Res, Fst, Snd, Both, GoodFound, GoodServe, GoodFillPlan, GoodGot]
theorem good_State_forkRead (a0 : State) (a1 : Image) (a2 : Tid) (h0 : Good a0) : Good (State.forkRead a0 a1 a2) := by
  unfold State.forkRead; grind [good_State_modRec, Good, State.Canonical, Device.Canonical, GoodOut, Opt, Res, Fst, Snd, Both, GoodFound, GoodServe, GoodFillPlan, GoodGot]
theorem good_State_forkWrite (a0 : State) (a1 : Image) (a2 : Tid) (h0 : Good a0) : Good (State.forkWrite a0 a1 a2) := by
  unfold State.forkWrite; grind [good_State_modRec, good_State_bumpVersion, Good, State.Canonical, Device.Canonical, GoodOut, Opt, Res, Fst, Snd, Both, GoodFound, GoodServe, GoodFillPlan, GoodGot]
theorem good_State_joinRead (a0 : State) (a1 : Image) (h0 : Good a0) : Good (State.joinRead a0 a1) := by
  unfold State.joinRead; grind [good_State_modRec, Good, State.Canonical, Device.Canonical, GoodOut, Opt, Res, Fst, Snd, Both, GoodFound, GoodServe, GoodFillPlan, GoodGot]
theorem good_State_joinWrite (a0 : State) (a1 : Image) (h0 : Good a0) : Good (State.joinWrite a0 a1) := by
  unfold State.joinWrite; grind [good_State_modRec, Good, State.Canonical, Device.Canonical, GoodOut, Opt, Res, Fst, Snd, Both, GoodFound, GoodServe, GoodFillPlan, GoodGot]
theorem good_State_returnShares (a0 : State) (a1 : CapRec) (h0 : Good a0) : Good (State.returnShares a0 a1) := by
  unfold State.returnShares; grind [good_State_modRec, good_State_dropRec, Good, State.Canonical, Device.Canonical, GoodOut, Opt, Res, Fst, Snd, Both, GoodFound, GoodServe, GoodFillPlan, GoodGot]
theorem good_State_sendFrz (a0 : State) (a1 : CapRec) (a2 : Bool) (h0 : Good a0) : Good (State.sendFrz a0 a1 a2) := by
  unfold State.sendFrz; grind [good_State_sendSequenced, Good, State.Canonical, Device.Canonical, GoodOut, Opt, Res, Fst, Snd, Both, GoodFound, GoodServe, GoodFillPlan, GoodGot]
theorem good_State_freezeAll (a0 : State) (a1 : Tid) (a2 : Bool) (h0 : Good a0) : Good (State.freezeAll a0 a1 a2) := by
  unfold State.freezeAll; grind [good_State_sendFrz, good_State_putRec, Good, State.Canonical, Device.Canonical, GoodOut, Opt, Res, Fst, Snd, Both, GoodFound, GoodServe, GoodFillPlan, GoodGot, good_foldl]
theorem good_State_returnProxy (a0 : State) (a1 : CapRec) (a2 : ProxyOf) (h0 : Good a0) : Good (State.returnProxy a0 a1 a2) := by
  unfold State.returnProxy; grind [good_State_putRec, good_State_sendSequenced, Good, State.Canonical, Device.Canonical, GoodOut, Opt, Res, Fst, Snd, Both, GoodFound, GoodServe, GoodFillPlan, GoodGot]
theorem good_State_exitPhase (a0 : State) (a1 : CapRec) (h0 : Good a0) : Good (State.exitPhase a0 a1) := by
  unfold State.exitPhase; grind [good_State_scrub, good_State_putRec, Good, State.Canonical, Device.Canonical, GoodOut, Opt, Res, Fst, Snd, Both, GoodFound, GoodServe, GoodFillPlan, GoodGot]
theorem good_State_dispose (a0 : State) (a1 : Image) (a2 : Bool) (h0 : Good a0) : Good (State.dispose a0 a1 a2) := by
  unfold State.dispose
  repeat' split
  all_goals grind [good_State_putRec, good_State_dropRec, good_State_freeRoot, good_State_returnProxy, good_State_returnShares, good_State_dropHolder, good_State_exitPhase, Good, State.Canonical, Device.Canonical, GoodOut, Opt, Res, Fst, Snd, Both, GoodFound, GoodServe, GoodFillPlan, GoodGot]
theorem good_State_startReleases (a0 : State) (a1 : Nat) (h0 : Good a0) : Good (State.startReleases a0 a1) := by
  unfold State.startReleases; grind [good_State_putLaunch, good_State_schedule, Good, State.Canonical, Device.Canonical, GoodOut, Opt, Res, Fst, Snd, Both, GoodFound, GoodServe, GoodFillPlan, GoodGot, good_foldl]
theorem good_State_tookRow (a0 : State) (a1 : Option (Nat × Nat)) (h0 : Good a0) : Good (State.tookRow a0 a1) := by
  unfold State.tookRow; grind [good_State_modLaunch, Good, State.Canonical, Device.Canonical, GoodOut, Opt, Res, Fst, Snd, Both, GoodFound, GoodServe, GoodFillPlan, GoodGot]
theorem good_State_setX (a0 : BitVec 5) (a1 : Word) (a2 : State) (h2 : Good a2) : Good (State.setX a0 a1 a2) := by
  unfold State.setX; grind [good_State_setHart, Good, State.Canonical, Device.Canonical, GoodOut, Opt, Res, Fst, Snd, Both, GoodFound, GoodServe, GoodFillPlan, GoodGot]
theorem good_State_setV (a0 : BitVec 5) (a1 : Row) (a2 : State) (h2 : Good a2) : Good (State.setV a0 a1 a2) := by
  unfold State.setV; grind [good_State_setHart, Good, State.Canonical, Device.Canonical, GoodOut, Opt, Res, Fst, Snd, Both, GoodFound, GoodServe, GoodFillPlan, GoodGot]
theorem good_State_setM (a0 : BitVec 2) (a1 : Word) (a2 : State) (h2 : Good a2) : Good (State.setM a0 a1 a2) := by
  unfold State.setM; grind [good_State_setHart, Good, State.Canonical, Device.Canonical, GoodOut, Opt, Res, Fst, Snd, Both, GoodFound, GoodServe, GoodFillPlan, GoodGot]
theorem good_State_setOX (a0 : BitVec 3) (a1 : Word) (a2 : State) (h2 : Good a2) : Good (State.setOX a0 a1 a2) := by
  unfold State.setOX; grind [good_State_setHart, Good, State.Canonical, Device.Canonical, GoodOut, Opt, Res, Fst, Snd, Both, GoodFound, GoodServe, GoodFillPlan, GoodGot]
theorem good_State_setHandle (a0 : BitVec 4) (a1 : Word) (a2 : State) (h2 : Good a2) : Good (State.setHandle a0 a1 a2) := by
  unfold State.setHandle; grind [good_State_setTask, Good, State.Canonical, Device.Canonical, GoodOut, Opt, Res, Fst, Snd, Both, GoodFound, GoodServe, GoodFillPlan, GoodGot]
theorem good_State_done (a0 : Nat) (a1 : State) (h1 : Good a1) : Good (State.done a0 a1) := by
  unfold State.done; grind [good_State_setHart, Good, State.Canonical, Device.Canonical, GoodOut, Opt, Res, Fst, Snd, Both, GoodFound, GoodServe, GoodFillPlan, GoodGot]
theorem good_finish (a0 : Nat) (a1 : State) (h1 : Good a1) : GoodOut (finish a0 a1) := by
  unfold finish; grind [good_State_done, Good, State.Canonical, Device.Canonical, GoodOut, Opt, Res, Fst, Snd, Both, GoodFound, GoodServe, GoodFillPlan, GoodGot]
theorem good_jump (a0 : Word) (a1 : State) (h1 : Good a1) : GoodOut (jump a0 a1) := by
  unfold jump; grind [good_State_setHart, Good, State.Canonical, Device.Canonical, GoodOut, Opt, Res, Fst, Snd, Both, GoodFound, GoodServe, GoodFillPlan, GoodGot]
theorem good_State_busy (a0 : Nat) (a1 : State) (h1 : Good a1) : Good (State.busy a0 a1) := by
  unfold State.busy; grind [good_State_setHart, Good, State.Canonical, Device.Canonical, GoodOut, Opt, Res, Fst, Snd, Both, GoodFound, GoodServe, GoodFillPlan, GoodGot]
theorem good_park (a0 : Wait) (a1 : State) (h1 : Good a1) : GoodOut (park a0 a1) := by
  unfold park; grind [good_State_setHart, Good, State.Canonical, Device.Canonical, GoodOut, Opt, Res, Fst, Snd, Both, GoodFound, GoodServe, GoodFillPlan, GoodGot]
theorem good_State_lineUp (a0 : ServedBy) (a1 : State) (h1 : Good a1) : Good (State.lineUp a0 a1) := by
  unfold State.lineUp; grind [good_State_setHart, Good, State.Canonical, Device.Canonical, GoodOut, Opt, Res, Fst, Snd, Both, GoodFound, GoodServe, GoodFillPlan, GoodGot]
theorem good_holdForRamp (a0 : Nat) (a1 : State) (h1 : Good a1) : GoodOut (holdForRamp a0 a1) := by
  unfold holdForRamp; grind [good_park, good_State_setTile, Good, State.Canonical, Device.Canonical, GoodOut, Opt, Res, Fst, Snd, Both, GoodFound, GoodServe, GoodFillPlan, GoodGot]
theorem good_State_pend (a0 : State) (a1 : Tid) (a2 : Nat) (a3 : TrapInfo) (h0 : Good a0) : Good (State.pend a0 a1 a2 a3) := by
  unfold State.pend; grind [good_State_putTask, good_State_modHart, Good, State.Canonical, Device.Canonical, GoodOut, Opt, Res, Fst, Snd, Both, GoodFound, GoodServe, GoodFillPlan, GoodGot]
theorem good_State_abandonWait (a0 : State) (a1 : Hart) (h0 : Good a0) : Good (State.abandonWait a0 a1) := by
  unfold State.abandonWait; grind [good_State_modDie, good_State_putHart, Good, State.Canonical, Device.Canonical, GoodOut, Opt, Res, Fst, Snd, Both, GoodFound, GoodServe, GoodFillPlan, GoodGot]
theorem good_State_leaveLaunch (a0 : State) (a1 : Task) (h0 : Good a0) : Good (State.leaveLaunch a0 a1) := by
  unfold State.leaveLaunch
  cases State.launchAt? a0 a1.launch with
  | none => exact h0
  | some l =>
    cases a1.coord with
    | none => grind [good_State_putLaunch, good_State_schedule, good_State_startReleases]
    | some rc =>
      dsimp only
      have k : ∀ s : State, Good s → ∀ l : Launch, Good ([Dir.n, .e, .s, .w].foldl (fun (st : State) d =>
          match l.neighbour (l.rel rc) d with
          | none => st
          | some nb =>
            match l.tidAt nb with
            | none => st
            | some nt => st.schedule (st.clk + channelLatency a1.tile (tileIx (l.row + nb.1) (l.col + nb.2))) (.neighbourExitedFlag nt (dirOpposite d))) s) := by
        intro s hs l
        refine good_foldl _ ?_ hs
        intro st d hst
        grind [good_State_schedule]
      split
      · exact good_State_schedule _ _ _ (good_State_startReleases _ _ (good_State_modDie _ _ _ (k _ (good_State_putLaunch _ _ h0) _)))
      · exact good_State_startReleases _ _ (good_State_modDie _ _ _ (k _ (good_State_putLaunch _ _ h0) _))
theorem good_State_joinParent (a0 : State) (a1 : Task) (h0 : Good a0) : Good (State.joinParent a0 a1) := by
  unfold State.joinParent; grind [good_State_modTask, Good, State.Canonical, Device.Canonical, GoodOut, Opt, Res, Fst, Snd, Both, GoodFound, GoodServe, GoodFillPlan, GoodGot]
theorem good_State_endDonations (a0 : State) (a1 : Tid) (h0 : Good a0) : Good (State.endDonations a0 a1) := by
  unfold State.endDonations; grind [Good, State.Canonical, Device.Canonical, GoodOut, Opt, Res, Fst, Snd, Both, GoodFound, GoodServe, GoodFillPlan, GoodGot]
theorem good_State_finishTask (a0 : State) (a1 : Task) (a2 : Bool) (h0 : Good a0) : Good (State.finishTask a0 a1 a2) := by
  unfold State.finishTask; grind [good_State_freezeAll, good_State_dispose, good_State_modTile, good_State_putHart, good_State_joinParent, good_State_putTask, good_State_leaveLaunch, good_State_endDonations, Good, State.Canonical, Device.Canonical, GoodOut, Opt, Res, Fst, Snd, Both, GoodFound, GoodServe, GoodFillPlan, GoodGot, good_foldl]
theorem good_State_startReplay (a0 : State) (a1 : Nat) (h0 : Good a0) : Good (State.startReplay a0 a1) := by
  unfold State.startReplay; grind [good_State_schedule, good_State_putLaunch, Good, State.Canonical, Device.Canonical, GoodOut, Opt, Res, Fst, Snd, Both, GoodFound, GoodServe, GoodFillPlan, GoodGot]
theorem good_State_sharedError (a0 : State) (a1 : Image) (h0 : Good a0) : Good (State.sharedError a0 a1) := by
  unfold State.sharedError; grind [good_State_startReplay, Good, State.Canonical, Device.Canonical, GoodOut, Opt, Res, Fst, Snd, Both, GoodFound, GoodServe, GoodFillPlan, GoodGot, good_foldl]
theorem good_State_quireError (a0 : State) (a1 : Image) (h0 : Good a0) : Good (State.quireError a0 a1) := by
  unfold State.quireError; grind [good_State_log, good_State_sendFrz, good_State_putRec, good_State_startReplay, Good, State.Canonical, Device.Canonical, GoodOut, Opt, Res, Fst, Snd, Both, GoodFound, GoodServe, GoodFillPlan, GoodGot, good_foldl]
theorem good_State_quireCorrected (a0 : State) (a1 : Image) (h0 : Good a0) : Good (State.quireCorrected a0 a1) := by
  unfold State.quireCorrected; grind [good_State_log, Good, State.Canonical, Device.Canonical, GoodOut, Opt, Res, Fst, Snd, Both, GoodFound, GoodServe, GoodFillPlan, GoodGot]
theorem good_State_calendarError (a0 : State) (a1 : Nat) (a2 : Nat) (h0 : Good a0) : Good (State.calendarError a0 a1 a2) := by
  unfold State.calendarError; grind [good_State_modDie, good_State_log, good_State_startReplay, Good, State.Canonical, Device.Canonical, GoodOut, Opt, Res, Fst, Snd, Both, GoodFound, GoodServe, GoodFillPlan, GoodGot, good_foldl]
theorem good_State_calendarCorrected (a0 : State) (a1 : Nat) (a2 : Nat) (h0 : Good a0) : Good (State.calendarCorrected a0 a1 a2) := by
  unfold State.calendarCorrected; grind [good_State_log, good_State_modDie, Good, State.Canonical, Device.Canonical, GoodOut, Opt, Res, Fst, Snd, Both, GoodFound, GoodServe, GoodFillPlan, GoodGot]
theorem good_State_sharedPartError (a0 : State) (a1 : Nat) (a2 : SharedPart) (h0 : Good a0) : Good (State.sharedPartError a0 a1 a2) := by
  unfold State.sharedPartError; grind [good_State_putLaunch, good_State_log, good_State_startReplay, Good, State.Canonical, Device.Canonical, GoodOut, Opt, Res, Fst, Snd, Both, GoodFound, GoodServe, GoodFillPlan, GoodGot]
theorem good_State_pollErrors (a0 : State) (h0 : Good a0) : (Opt Good) (State.pollErrors a0) := by
  unfold State.pollErrors
  split
  · exact good_State_quireError _ _ h0
  · exact good_State_quireCorrected _ _ h0
  · split
    · rename_i u hq
      show Good u
      refine opt_ok hq (opt_findSome (P := Good) _ fun d => ?_)
      split
      · exact good_State_calendarError _ _ _ h0
      · exact good_State_calendarCorrected _ _ _ h0
      · trivial
    · refine opt_findSome _ fun l => ?_
      split
      · exact good_State_sharedPartError _ _ _ h0
      · trivial
theorem good_State_stopSiblings (a0 : State) (a1 : Tid) (h0 : Good a0) : Good (State.stopSiblings a0 a1) := by
  unfold State.stopSiblings; grind [good_State_abandonWait, Good, State.Canonical, Device.Canonical, GoodOut, Opt, Res, Fst, Snd, Both, GoodFound, GoodServe, GoodFillPlan, GoodGot, good_foldl]
theorem good_State_settle (a0 : State) (a1 : Tid) (h0 : Good a0) : Good (State.settle a0 a1) := by
  unfold State.settle; grind [good_State_finishTask, Good, State.Canonical, Device.Canonical, GoodOut, Opt, Res, Fst, Snd, Both, GoodFound, GoodServe, GoodFillPlan, GoodGot]
theorem good_State_terminate (a0 : State) (a1 : Tid) (a2 : Cause) (h0 : Good a0) : Good (State.terminate a0 a1 a2) := by
  unfold State.terminate; grind [good_State_modLaunch, good_State_startReplay, good_State_stopSiblings, good_State_freezeAll, good_State_modTask, good_State_settle, Good, State.Canonical, Device.Canonical, GoodOut, Opt, Res, Fst, Snd, Both, GoodFound, GoodServe, GoodFillPlan, GoodGot]
theorem good_State_dropTombstone (a0 : State) (a1 : TrapInfo) (h0 : Good a0) : Good (State.dropTombstone a0 a1) := by
  unfold State.dropTombstone; grind [good_State_setHandle, good_State_dropRec, Good, State.Canonical, Device.Canonical, GoodOut, Opt, Res, Fst, Snd, Both, GoodFound, GoodServe, GoodFillPlan, GoodGot]
theorem good_State_takeTrapAt (a0 : State) (a1 : TrapInfo) (a2 : Nat) (a3 : Word) (h0 : Good a0) : Good (State.takeTrapAt a0 a1 a2 a3) := by
  unfold State.takeTrapAt; grind [good_State_dropTombstone, good_State_log, good_State_setHart, good_State_terminate, good_State_stopSiblings, good_State_freezeAll, good_State_setTask, Good, State.Canonical, Device.Canonical, GoodOut, Opt, Res, Fst, Snd, Both, GoodFound, GoodServe, GoodFillPlan, GoodGot]
theorem good_State_takeTrap (a0 : State) (a1 : TrapInfo) (h0 : Good a0) : Good (State.takeTrap a0 a1) := by
  unfold State.takeTrap; grind [good_State_takeTrapAt, Good, State.Canonical, Device.Canonical, GoodOut, Opt, Res, Fst, Snd, Both, GoodFound, GoodServe, GoodFillPlan, GoodGot]
theorem good_raise (a0 : TrapInfo) (a1 : State) (h1 : Good a1) : GoodOut (raise a0 a1) := by
  unfold raise; grind [good_State_takeTrap, Good, State.Canonical, Device.Canonical, GoodOut, Opt, Res, Fst, Snd, Both, GoodFound, GoodServe, GoodFillPlan, GoodGot]
theorem good_State_deliver (a0 : State) (a1 : PendErr) (h0 : Good a0) : Good (State.deliver a0 a1) := by
  unfold State.deliver; grind [good_State_takeTrapAt, good_State_setTask, Good, State.Canonical, Device.Canonical, GoodOut, Opt, Res, Fst, Snd, Both, GoodFound, GoodServe, GoodFillPlan, GoodGot]
theorem good_State_returnFromTrap (a0 : State) (a1 : Word) (h0 : Good a0) : Good (State.returnFromTrap a0 a1) := by
  unfold State.returnFromTrap; grind [good_State_freezeAll, good_State_setTask, good_State_setHart, Good, State.Canonical, Device.Canonical, GoodOut, Opt, Res, Fst, Snd, Both, GoodFound, GoodServe, GoodFillPlan, GoodGot]
theorem good_State_enterInbox (a0 : State) (a1 : Tid) (a2 : Msg) (h0 : Good a0) : Good (State.enterInbox a0 a1 a2) := by
  unfold State.enterInbox; grind [good_State_modTask, Good, State.Canonical, Device.Canonical, GoodOut, Opt, Res, Fst, Snd, Both, GoodFound, GoodServe, GoodFillPlan, GoodGot]
theorem good_State_bounce (a0 : State) (a1 : Msg) (a2 : optParam Nat 0) (h0 : Good a0) : Good (State.bounce a0 a1 a2) := by
  unfold State.bounce; grind [good_State_dispose, good_State_enterInbox, good_State_putTask, Good, State.Canonical, Device.Canonical, GoodOut, Opt, Res, Fst, Snd, Both, GoodFound, GoodServe, GoodFillPlan, GoodGot]
theorem good_State_spillWritten (a0 : State) (a1 : Nat) (a2 : Nat) (h0 : Good a0) : Good (State.spillWritten a0 a1 a2) := by
  unfold State.spillWritten; grind [Good, State.Canonical, Device.Canonical, GoodOut, Opt, Res, Fst, Snd, Both, GoodFound, GoodServe, GoodFillPlan, GoodGot]
theorem good_State_spillRead (a0 : State) (a1 : Nat) (a2 : Queued) (h0 : Good a0) : Good (State.spillRead a0 a1 a2) := by
  unfold State.spillRead; grind [good_State_log, good_State_pend, Good, State.Canonical, Device.Canonical, GoodOut, Opt, Res, Fst, Snd, Both, GoodFound, GoodServe, GoodFillPlan, GoodGot, good_foldl]
theorem good_State_refillDeque (a0 : Nat) (a1 : Nat) (a2 : State) (h2 : Good a2) : Good (State.refillDeque a0 a1 a2) := by
  induction a0 generalizing a2 with
  | zero => exact h2
  | succ n ih =>
    unfold State.refillDeque
    dsimp only
    split
    · split
      · exact h2
      · exact ih _ (good_State_modTile _ _ _ (good_State_spillRead _ _ _ h2))
    · exact h2
theorem good_State_takeRecord (a0 : State) (a1 : Nat) (a2 : Queued) (h0 : Good a0) : Good (State.takeRecord a0 a1 a2) := by
  unfold State.takeRecord; grind [good_State_spillRead, good_State_refillDeque, good_State_modTile, Good, State.Canonical, Device.Canonical, GoodOut, Opt, Res, Fst, Snd, Both, GoodFound, GoodServe, GoodFillPlan, GoodGot]
theorem good_State_enterDeque (a0 : State) (a1 : Nat) (a2 : TaskRec) (h0 : Good a0) : Good (State.enterDeque a0 a1 a2) := by
  unfold State.enterDeque; grind [good_State_modTile, good_State_spillWritten, good_State_modTask, Good, State.Canonical, Device.Canonical, GoodOut, Opt, Res, Fst, Snd, Both, GoodFound, GoodServe, GoodFillPlan, GoodGot]
theorem good_State_pushRecord (a0 : State) (a1 : Nat) (a2 : TaskRec) (a3 : optParam (Option Nat) Option.none) (h0 : Good a0) : Good (State.pushRecord a0 a1 a2 a3) := by
  unfold State.pushRecord; grind [good_State_modTile, good_State_enterDeque, Good, State.Canonical, Device.Canonical, GoodOut, Opt, Res, Fst, Snd, Both, GoodFound, GoodServe, GoodFillPlan, GoodGot]
theorem good_State_enqueue (a0 : State) (a1 : Nat) (a2 : TaskRec) (a3 : optParam (Option Nat) Option.none) (h0 : Good a0) : Good (State.enqueue a0 a1 a2 a3) := by
  unfold State.enqueue; grind [good_State_modDie, good_State_pushRecord, Good, State.Canonical, Device.Canonical, GoodOut, Opt, Res, Fst, Snd, Both, GoodFound, GoodServe, GoodFillPlan, GoodGot]
theorem good_State_admitRecord (a0 : State) (a1 : Nat) (a2 : TaskRec) (a3 : optParam (Option Nat) Option.none) (h0 : Good a0) : Good (State.admitRecord a0 a1 a2 a3) := by
  unfold State.admitRecord; grind [good_State_enqueue, good_State_putTask, Good, State.Canonical, Device.Canonical, GoodOut, Opt, Res, Fst, Snd, Both, GoodFound, GoodServe, GoodFillPlan, GoodGot]
theorem good_mem {a0 : State} (h0 : Good a0) {m : List Host.Cell} (h : Memory.wf m = true) : Good { a0 with mem := m } := ⟨⟨h, h0.1.2⟩, h0.2⟩
theorem good_State_saveContext (a0 : State) (a1 : Nat) (a2 : TaskState) (h0 : Good a0) : Good (State.saveContext a0 a1 a2) := by
  unfold State.saveContext
  have k := good_State_writePhys a0 a1 (a0.frameOf a0.task [a0.hart]) h0
  generalize a0.writePhys _ _ = u at k ⊢
  dsimp only
  split
  · split <;> exact k
  · exact k
theorem good_State_correct (a0 : State) (a1 : Nat) (a2 : Nat) (h0 : Good a0) : Good (State.correct a0 a1 a2) := by
  unfold State.correct; grind [good_State_log, Good, State.Canonical, Device.Canonical, GoodOut, Opt, Res, Fst, Snd, Both, GoodFound, GoodServe, GoodFillPlan, GoodGot, good_foldl]
theorem good_State_noteWalk (a0 : State) (a1 : Nat) (a2 : Asid) (a3 : Nat) (h0 : Good a0) : Good (State.noteWalk a0 a1 a2 a3) := by
  unfold State.noteWalk; grind [good_State_correct, good_State_log, Good, State.Canonical, Device.Canonical, GoodOut, Opt, Res, Fst, Snd, Both, GoodFound, GoodServe, GoodFillPlan, GoodGot, good_foldl]
theorem good_State_noteRawWalk (a0 : State) (a1 : Nat) (a2 : CapRec) (a3 : Nat) (h0 : Good a0) : Good (State.noteRawWalk a0 a1 a2 a3) := by
  unfold State.noteRawWalk; grind [good_State_noteWalk, Good, State.Canonical, Device.Canonical, GoodOut, Opt, Res, Fst, Snd, Both, GoodFound, GoodServe, GoodFillPlan, GoodGot]
theorem good_State_correctBuf (a0 : State) (a1 : CapRec) (a2 : Nat) (a3 : Nat) (h0 : Good a0) : Good (State.correctBuf a0 a1 a2 a3) := by
  unfold State.correctBuf; grind [good_State_correct, Good, State.Canonical, Device.Canonical, GoodOut, Opt, Res, Fst, Snd, Both, GoodFound, GoodServe, GoodFillPlan, GoodGot, good_foldl]
theorem good_State_bufferError (a0 : State) (a1 : Image) (a2 : Nat) (h0 : Good a0) : Good (State.bufferError a0 a1 a2) := by
  unfold State.bufferError; grind [good_State_sharedError, good_State_log, good_State_poison, Good, State.Canonical, Device.Canonical, GoodOut, Opt, Res, Fst, Snd, Both, GoodFound, GoodServe, GoodFillPlan, GoodGot]
theorem good_State_memError (a0 : State) (a1 : CapRec) (a2 : BitVec 4) (a3 : Nat) (h0 : Good a0) : Good (State.memError a0 a1 a2 a3) := by
  unfold State.memError; grind [good_State_pend, good_State_bufferError, Good, State.Canonical, Device.Canonical, GoodOut, Opt, Res, Fst, Snd, Both, GoodFound, GoodServe, GoodFillPlan, GoodGot]
theorem good_State_touch (a0 : State) (a1 : Nat) (a2 : CapRec) (a3 : Nat) (a4 : Nat) (h0 : Good a0) : Good (State.touch a0 a1 a2 a3 a4) := by
  unfold State.touch; grind [good_State_noteRawWalk, good_State_correctBuf, good_State_bufferError, Good, State.Canonical, Device.Canonical, GoodOut, Opt, Res, Fst, Snd, Both, GoodFound, GoodServe, GoodFillPlan, GoodGot]
theorem good_State_packGroup (a0 : State) (a1 : Nat) (h0 : Good a0) : Good (State.packGroup a0 a1) := by
  unfold State.packGroup; grind [good_State_modDie, Good, State.Canonical, Device.Canonical, GoodOut, Opt, Res, Fst, Snd, Both, GoodFound, GoodServe, GoodFillPlan, GoodGot]
theorem good_State_writeRuns (a0 : State) (a1 : Bool) (a2 : List (Nat × List Byte)) (h0 : Good a0) : Good (State.writeRuns a0 a1 a2) := by
  unfold State.writeRuns; grind [good_State_correct, good_State_writePhys, good_State_packGroup, Good, State.Canonical, Device.Canonical, GoodOut, Opt, Res, Fst, Snd, Both, GoodFound, GoodServe, GoodFillPlan, GoodGot, good_foldl]
theorem good_State_writeVia (a0 : State) (a1 : Bool) (a2 : Nat) (a3 : List Byte) (h0 : Good a0) : Good (State.writeVia a0 a1 a2 a3) := by
  unfold State.writeVia; grind [good_State_writeRuns, Good, State.Canonical, Device.Canonical, GoodOut, Opt, Res, Fst, Snd, Both, GoodFound, GoodServe, GoodFillPlan, GoodGot]
theorem good_State_shadowWrite (a0 : State) (a1 : CapRec) (a2 : Nat) (h0 : Good a0) : (Opt (Fst Good)) (State.shadowWrite a0 a1 a2) := by
  unfold State.shadowWrite; grind [good_State_copyRange, good_State_correct, good_State_modLaunch, Good, State.Canonical, Device.Canonical, GoodOut, Opt, Res, Fst, Snd, Both, GoodFound, GoodServe, GoodFillPlan, GoodGot]
theorem good_State_snoop (a0 : State) (a1 : Nat) (h0 : Good a0) : Good (State.snoop a0 a1) := by
  unfold State.snoop; grind [Good, State.Canonical, Device.Canonical, GoodOut, Opt, Res, Fst, Snd, Both, GoodFound, GoodServe, GoodFillPlan, GoodGot]
theorem good_State_locatePeer (a0 : State) (a1 : CapRec) (a2 : BitVec 4) (a3 : Nat) (h0 : Good a0) : GoodFound (State.locatePeer a0 a1 a2 a3) := by
  unfold State.locatePeer; grind [Good, State.Canonical, Device.Canonical, GoodOut, Opt, Res, Fst, Snd, Both, GoodFound, GoodServe, GoodFillPlan, GoodGot]
theorem good_State_miss (a0 : State) (a1 : Asid) (a2 : Nat) (h0 : Good a0) : Good (State.miss a0 a1 a2) := by
  unfold State.miss; grind [good_State_putCluster, good_State_modDie, Good, State.Canonical, Device.Canonical, GoodOut, Opt, Res, Fst, Snd, Both, GoodFound, GoodServe, GoodFillPlan, GoodGot]
theorem good_State_locate (a0 : State) (a1 : CapRec) (a2 : BitVec 4) (a3 : Nat) (a4 : Bool) (h0 : Good a0) : GoodFound (State.locate a0 a1 a2 a3 a4) := by
  unfold State.locate; grind [good_State_snoop, good_State_locatePeer, good_State_shadowWrite, good_State_miss, Good, State.Canonical, Device.Canonical, GoodOut, Opt, Res, Fst, Snd, Both, GoodFound, GoodServe, GoodFillPlan, GoodGot]
theorem good_State_find (a0 : State) (a1 : BitVec 4) (a2 : Word) (a3 : Nat) (a4 : Rights) (a5 : Use) (a6 : Bool) (h0 : Good a0) : GoodFound (State.find a0 a1 a2 a3 a4 a5 a6) := by
  unfold State.find; grind [good_State_locate, Good, State.Canonical, Device.Canonical, GoodOut, Opt, Res, Fst, Snd, Both, GoodFound, GoodServe, GoodFillPlan, GoodGot]
theorem good_State_startFlush (a0 : State) (a1 : List Nat) (h0 : Good a0) : Good (State.startFlush a0 a1) := by
  unfold State.startFlush; grind [good_State_schedule, Good, State.Canonical, Device.Canonical, GoodOut, Opt, Res, Fst, Snd, Both, GoodFound, GoodServe, GoodFillPlan, GoodGot, good_foldl]
theorem good_State_releaseWait (a0 : State) (h0 : Good a0) : (Opt (Snd Good)) (State.releaseWait a0) := by
  unfold State.releaseWait; grind [good_State_startFlush, Good, State.Canonical, Device.Canonical, GoodOut, Opt, Res, Fst, Snd, Both, GoodFound, GoodServe, GoodFillPlan, GoodGot]
theorem good_State_postHost (a0 : State) (a1 : Nat) (a2 : List Byte) (a3 : Tid) (a4 : Nat) (h0 : Good a0) : Good (State.postHost a0 a1 a2 a3 a4) := by
  unfold State.postHost; grind [good_State_schedule, Good, State.Canonical, Device.Canonical, GoodOut, Opt, Res, Fst, Snd, Both, GoodFound, GoodServe, GoodFillPlan, GoodGot]
theorem good_State_performHost (a0 : State) (a1 : HostWrite) (h0 : Good a0) : Good (State.performHost a0 a1) := by
  unfold State.performHost; grind [good_State_writePhys, Good, State.Canonical, Device.Canonical, GoodOut, Opt, Res, Fst, Snd, Both, GoodFound, GoodServe, GoodFillPlan, GoodGot]
theorem good_State_performPort (a0 : State) (a1 : Nat) (h0 : Good a0) : Good (State.performPort a0 a1) := by
  unfold State.performPort; grind [good_State_performHost, Good, State.Canonical, Device.Canonical, GoodOut, Opt, Res, Fst, Snd, Both, GoodFound, GoodServe, GoodFillPlan, GoodGot, good_foldl]
theorem good_State_noteFetch (a0 : State) (a1 : Nat) (h0 : Good a0) : Good (State.noteFetch a0 a1) := by
  unfold State.noteFetch; grind [good_State_touch, Good, State.Canonical, Device.Canonical, GoodOut, Opt, Res, Fst, Snd, Both, GoodFound, GoodServe, GoodFillPlan, GoodGot]

end Sys2Proof.Machine
end

