-- ==== Sys2Proof/Laws/KeptCore.lean ====
section
/-!
SUPPORT. The instructions of a core keep the canonical forms and always go on, up to the matrix unit.
-/
namespace Sys2Proof.Machine

open Sys2Proof

set_option Elab.async false

theorem good_execAdd (a0 : BitVec 5) (a1 : BitVec 5) (a2 : BitVec 5) (a3 : State) (h3 : Good a3) : GoodOut (execAdd a0 a1 a2 a3) := by
  unfold execAdd; grind [good_finish, good_State_setX, Good, State.Canonical, Device.Canonical, GoodOut, Opt, Res, Fst, Snd, Both, GoodFound, GoodServe, GoodFillPlan, GoodGot]
theorem good_execSub (a0 : BitVec 5) (a1 : BitVec 5) (a2 : BitVec 5) (a3 : State) (h3 : Good a3) : GoodOut (execSub a0 a1 a2 a3) := by
  unfold execSub; grind [good_finish, good_State_setX, Good, State.Canonical, Device.Canonical, GoodOut, Opt, Res, Fst, Snd, Both, GoodFound, GoodServe, GoodFillPlan, GoodGot]
theorem good_execMin (a0 : BitVec 5) (a1 : BitVec 5) (a2 : BitVec 5) (a3 : State) (h3 : Good a3) : GoodOut (execMin a0 a1 a2 a3) := by
  unfold execMin; grind [good_finish, good_State_setX, Good, State.Canonical, Device.Canonical, GoodOut, Opt, Res, Fst, Snd, Both, GoodFound, GoodServe, GoodFillPlan, GoodGot]
theorem good_execMax (a0 : BitVec 5) (a1 : BitVec 5) (a2 : BitVec 5) (a3 : State) (h3 : Good a3) : GoodOut (execMax a0 a1 a2 a3) := by
  unfold execMax; grind [good_finish, good_State_setX, Good, State.Canonical, Device.Canonical, GoodOut, Opt, Res, Fst, Snd, Both, GoodFound, GoodServe, GoodFillPlan, GoodGot]
theorem good_execMinu (a0 : BitVec 5) (a1 : BitVec 5) (a2 : BitVec 5) (a3 : State) (h3 : Good a3) : GoodOut (execMinu a0 a1 a2 a3) := by
  unfold execMinu; grind [good_finish, good_State_setX, Good, State.Canonical, Device.Canonical, GoodOut, Opt, Res, Fst, Snd, Both, GoodFound, GoodServe, GoodFillPlan, GoodGot]
theorem good_execMaxu (a0 : BitVec 5) (a1 : BitVec 5) (a2 : BitVec 5) (a3 : State) (h3 : Good a3) : GoodOut (execMaxu a0 a1 a2 a3) := by
  unfold execMaxu; grind [good_finish, good_State_setX, Good, State.Canonical, Device.Canonical, GoodOut, Opt, Res, Fst, Snd, Both, GoodFound, GoodServe, GoodFillPlan, GoodGot]
theorem good_execSlt (a0 : BitVec 5) (a1 : BitVec 5) (a2 : BitVec 5) (a3 : State) (h3 : Good a3) : GoodOut (execSlt a0 a1 a2 a3) := by
  unfold execSlt; grind [good_finish, good_State_setX, Good, State.Canonical, Device.Canonical, GoodOut, Opt, Res, Fst, Snd, Both, GoodFound, GoodServe, GoodFillPlan, GoodGot]
theorem good_execSltu (a0 : BitVec 5) (a1 : BitVec 5) (a2 : BitVec 5) (a3 : State) (h3 : Good a3) : GoodOut (execSltu a0 a1 a2 a3) := by
  unfold execSltu; grind [good_finish, good_State_setX, Good, State.Canonical, Device.Canonical, GoodOut, Opt, Res, Fst, Snd, Both, GoodFound, GoodServe, GoodFillPlan, GoodGot]
theorem good_execAnd (a0 : BitVec 5) (a1 : BitVec 5) (a2 : BitVec 5) (a3 : State) (h3 : Good a3) : GoodOut (execAnd a0 a1 a2 a3) := by
  unfold execAnd; grind [good_finish, good_State_setX, Good, State.Canonical, Device.Canonical, GoodOut, Opt, Res, Fst, Snd, Both, GoodFound, GoodServe, GoodFillPlan, GoodGot]
theorem good_execOr (a0 : BitVec 5) (a1 : BitVec 5) (a2 : BitVec 5) (a3 : State) (h3 : Good a3) : GoodOut (execOr a0 a1 a2 a3) := by
  unfold execOr; grind [good_finish, good_State_setX, Good, State.Canonical, Device.Canonical, GoodOut, Opt, Res, Fst, Snd, Both, GoodFound, GoodServe, GoodFillPlan, GoodGot]
theorem good_execXor (a0 : BitVec 5) (a1 : BitVec 5) (a2 : BitVec 5) (a3 : State) (h3 : Good a3) : GoodOut (execXor a0 a1 a2 a3) := by
  unfold execXor; grind [good_finish, good_State_setX, Good, State.Canonical, Device.Canonical, GoodOut, Opt, Res, Fst, Snd, Both, GoodFound, GoodServe, GoodFillPlan, GoodGot]
theorem good_execAndn (a0 : BitVec 5) (a1 : BitVec 5) (a2 : BitVec 5) (a3 : State) (h3 : Good a3) : GoodOut (execAndn a0 a1 a2 a3) := by
  unfold execAndn; grind [good_finish, good_State_setX, Good, State.Canonical, Device.Canonical, GoodOut, Opt, Res, Fst, Snd, Both, GoodFound, GoodServe, GoodFillPlan, GoodGot]
theorem good_execSel (a0 : BitVec 5) (a1 : BitVec 5) (a2 : BitVec 5) (a3 : State) (h3 : Good a3) : GoodOut (execSel a0 a1 a2 a3) := by
  unfold execSel; grind [good_finish, good_State_setX, Good, State.Canonical, Device.Canonical, GoodOut, Opt, Res, Fst, Snd, Both, GoodFound, GoodServe, GoodFillPlan, GoodGot]
theorem good_execSll (a0 : BitVec 5) (a1 : BitVec 5) (a2 : BitVec 5) (a3 : State) (h3 : Good a3) : GoodOut (execSll a0 a1 a2 a3) := by
  unfold execSll; grind [good_finish, good_State_setX, Good, State.Canonical, Device.Canonical, GoodOut, Opt, Res, Fst, Snd, Both, GoodFound, GoodServe, GoodFillPlan, GoodGot]
theorem good_execSrl (a0 : BitVec 5) (a1 : BitVec 5) (a2 : BitVec 5) (a3 : State) (h3 : Good a3) : GoodOut (execSrl a0 a1 a2 a3) := by
  unfold execSrl; grind [good_finish, good_State_setX, Good, State.Canonical, Device.Canonical, GoodOut, Opt, Res, Fst, Snd, Both, GoodFound, GoodServe, GoodFillPlan, GoodGot]
theorem good_execSra (a0 : BitVec 5) (a1 : BitVec 5) (a2 : BitVec 5) (a3 : State) (h3 : Good a3) : GoodOut (execSra a0 a1 a2 a3) := by
  unfold execSra; grind [good_finish, good_State_setX, Good, State.Canonical, Device.Canonical, GoodOut, Opt, Res, Fst, Snd, Both, GoodFound, GoodServe, GoodFillPlan, GoodGot]
theorem good_execClz (a0 : BitVec 5) (a1 : BitVec 5) (a2 : State) (h2 : Good a2) : GoodOut (execClz a0 a1 a2) := by
  unfold execClz; grind [good_finish, good_State_setX, Good, State.Canonical, Device.Canonical, GoodOut, Opt, Res, Fst, Snd, Both, GoodFound, GoodServe, GoodFillPlan, GoodGot]
theorem good_execCtz (a0 : BitVec 5) (a1 : BitVec 5) (a2 : State) (h2 : Good a2) : GoodOut (execCtz a0 a1 a2) := by
  unfold execCtz; grind [good_finish, good_State_setX, Good, State.Canonical, Device.Canonical, GoodOut, Opt, Res, Fst, Snd, Both, GoodFound, GoodServe, GoodFillPlan, GoodGot]
theorem good_execPopc (a0 : BitVec 5) (a1 : BitVec 5) (a2 : State) (h2 : Good a2) : GoodOut (execPopc a0 a1 a2) := by
  unfold execPopc; grind [good_finish, good_State_setX, Good, State.Canonical, Device.Canonical, GoodOut, Opt, Res, Fst, Snd, Both, GoodFound, GoodServe, GoodFillPlan, GoodGot]
theorem good_execMul (a0 : BitVec 5) (a1 : BitVec 5) (a2 : BitVec 5) (a3 : State) (h3 : Good a3) : GoodOut (execMul a0 a1 a2 a3) := by
  unfold execMul; grind [good_finish, good_State_busy, good_State_setX, Good, State.Canonical, Device.Canonical, GoodOut, Opt, Res, Fst, Snd, Both, GoodFound, GoodServe, GoodFillPlan, GoodGot]
theorem good_execMulh (a0 : BitVec 5) (a1 : BitVec 5) (a2 : BitVec 5) (a3 : State) (h3 : Good a3) : GoodOut (execMulh a0 a1 a2 a3) := by
  unfold execMulh; grind [good_finish, good_State_busy, good_State_setX, Good, State.Canonical, Device.Canonical, GoodOut, Opt, Res, Fst, Snd, Both, GoodFound, GoodServe, GoodFillPlan, GoodGot]
theorem good_execMulhu (a0 : BitVec 5) (a1 : BitVec 5) (a2 : BitVec 5) (a3 : State) (h3 : Good a3) : GoodOut (execMulhu a0 a1 a2 a3) := by
  unfold execMulhu; grind [good_finish, good_State_busy, good_State_setX, Good, State.Canonical, Device.Canonical, GoodOut, Opt, Res, Fst, Snd, Both, GoodFound, GoodServe, GoodFillPlan, GoodGot]
theorem good_execDiv (a0 : BitVec 5) (a1 : BitVec 5) (a2 : BitVec 5) (a3 : State) (h3 : Good a3) : GoodOut (execDiv a0 a1 a2 a3) := by
  unfold execDiv; grind [good_finish, good_State_busy, good_State_setX, Good, State.Canonical, Device.Canonical, GoodOut, Opt, Res, Fst, Snd, Both, GoodFound, GoodServe, GoodFillPlan, GoodGot]
theorem good_execDivu (a0 : BitVec 5) (a1 : BitVec 5) (a2 : BitVec 5) (a3 : State) (h3 : Good a3) : GoodOut (execDivu a0 a1 a2 a3) := by
  unfold execDivu; grind [good_finish, good_State_busy, good_State_setX, Good, State.Canonical, Device.Canonical, GoodOut, Opt, Res, Fst, Snd, Both, GoodFound, GoodServe, GoodFillPlan, GoodGot]
theorem good_execRem (a0 : BitVec 5) (a1 : BitVec 5) (a2 : BitVec 5) (a3 : State) (h3 : Good a3) : GoodOut (execRem a0 a1 a2 a3) := by
  unfold execRem; grind [good_finish, good_State_busy, good_State_setX, Good, State.Canonical, Device.Canonical, GoodOut, Opt, Res, Fst, Snd, Both, GoodFound, GoodServe, GoodFillPlan, GoodGot]
theorem good_execRemu (a0 : BitVec 5) (a1 : BitVec 5) (a2 : BitVec 5) (a3 : State) (h3 : Good a3) : GoodOut (execRemu a0 a1 a2 a3) := by
  unfold execRemu; grind [good_finish, good_State_busy, good_State_setX, Good, State.Canonical, Device.Canonical, GoodOut, Opt, Res, Fst, Snd, Both, GoodFound, GoodServe, GoodFillPlan, GoodGot]
theorem good_execAddi (a0 : BitVec 5) (a1 : BitVec 5) (a2 : BitVec 12) (a3 : State) (h3 : Good a3) : GoodOut (execAddi a0 a1 a2 a3) := by
  unfold execAddi; grind [good_finish, good_State_setX, Good, State.Canonical, Device.Canonical, GoodOut, Opt, Res, Fst, Snd, Both, GoodFound, GoodServe, GoodFillPlan, GoodGot]
theorem good_execAndi (a0 : BitVec 5) (a1 : BitVec 5) (a2 : BitVec 12) (a3 : State) (h3 : Good a3) : GoodOut (execAndi a0 a1 a2 a3) := by
  unfold execAndi; grind [good_finish, good_State_setX, Good, State.Canonical, Device.Canonical, GoodOut, Opt, Res, Fst, Snd, Both, GoodFound, GoodServe, GoodFillPlan, GoodGot]
theorem good_execOri (a0 : BitVec 5) (a1 : BitVec 5) (a2 : BitVec 12) (a3 : State) (h3 : Good a3) : GoodOut (execOri a0 a1 a2 a3) := by
  unfold execOri; grind [good_finish, good_State_setX, Good, State.Canonical, Device.Canonical, GoodOut, Opt, Res, Fst, Snd, Both, GoodFound, GoodServe, GoodFillPlan, GoodGot]
theorem good_execXori (a0 : BitVec 5) (a1 : BitVec 5) (a2 : BitVec 12) (a3 : State) (h3 : Good a3) : GoodOut (execXori a0 a1 a2 a3) := by
  unfold execXori; grind [good_finish, good_State_setX, Good, State.Canonical, Device.Canonical, GoodOut, Opt, Res, Fst, Snd, Both, GoodFound, GoodServe, GoodFillPlan, GoodGot]
theorem good_execSlti (a0 : BitVec 5) (a1 : BitVec 5) (a2 : BitVec 12) (a3 : State) (h3 : Good a3) : GoodOut (execSlti a0 a1 a2 a3) := by
  unfold execSlti; grind [good_finish, good_State_setX, Good, State.Canonical, Device.Canonical, GoodOut, Opt, Res, Fst, Snd, Both, GoodFound, GoodServe, GoodFillPlan, GoodGot]
theorem good_execSltiu (a0 : BitVec 5) (a1 : BitVec 5) (a2 : BitVec 12) (a3 : State) (h3 : Good a3) : GoodOut (execSltiu a0 a1 a2 a3) := by
  unfold execSltiu; grind [good_finish, good_State_setX, Good, State.Canonical, Device.Canonical, GoodOut, Opt, Res, Fst, Snd, Both, GoodFound, GoodServe, GoodFillPlan, GoodGot]
theorem good_execSlli (a0 : BitVec 5) (a1 : BitVec 5) (a2 : BitVec 6) (a3 : State) (h3 : Good a3) : GoodOut (execSlli a0 a1 a2 a3) := by
  unfold execSlli; grind [good_finish, good_State_setX, Good, State.Canonical, Device.Canonical, GoodOut, Opt, Res, Fst, Snd, Both, GoodFound, GoodServe, GoodFillPlan, GoodGot]
theorem good_execSrli (a0 : BitVec 5) (a1 : BitVec 5) (a2 : BitVec 6) (a3 : State) (h3 : Good a3) : GoodOut (execSrli a0 a1 a2 a3) := by
  unfold execSrli; grind [good_finish, good_State_setX, Good, State.Canonical, Device.Canonical, GoodOut, Opt, Res, Fst, Snd, Both, GoodFound, GoodServe, GoodFillPlan, GoodGot]
theorem good_execSrai (a0 : BitVec 5) (a1 : BitVec 5) (a2 : BitVec 6) (a3 : State) (h3 : Good a3) : GoodOut (execSrai a0 a1 a2 a3) := by
  unfold execSrai; grind [good_finish, good_State_setX, Good, State.Canonical, Device.Canonical, GoodOut, Opt, Res, Fst, Snd, Both, GoodFound, GoodServe, GoodFillPlan, GoodGot]
theorem good_execLui (a0 : BitVec 5) (a1 : BitVec 19) (a2 : State) (h2 : Good a2) : GoodOut (execLui a0 a1 a2) := by
  unfold execLui; grind [good_finish, good_State_setX, Good, State.Canonical, Device.Canonical, GoodOut, Opt, Res, Fst, Snd, Both, GoodFound, GoodServe, GoodFillPlan, GoodGot]
theorem good_execAddpc (a0 : BitVec 5) (a1 : BitVec 19) (a2 : State) (h2 : Good a2) : GoodOut (execAddpc a0 a1 a2) := by
  unfold execAddpc; grind [good_finish, good_State_setX, Good, State.Canonical, Device.Canonical, GoodOut, Opt, Res, Fst, Snd, Both, GoodFound, GoodServe, GoodFillPlan, GoodGot]
theorem good_execCAddi (a0 : BitVec 5) (a1 : BitVec 6) (a2 : State) (h2 : Good a2) : GoodOut (execCAddi a0 a1 a2) := by
  unfold execCAddi; grind [good_finish, good_State_setX, Good, State.Canonical, Device.Canonical, GoodOut, Opt, Res, Fst, Snd, Both, GoodFound, GoodServe, GoodFillPlan, GoodGot]
theorem good_execCMov (a0 : BitVec 5) (a1 : BitVec 5) (a2 : State) (h2 : Good a2) : GoodOut (execCMov a0 a1 a2) := by
  unfold execCMov; grind [good_finish, good_State_setX, Good, State.Canonical, Device.Canonical, GoodOut, Opt, Res, Fst, Snd, Both, GoodFound, GoodServe, GoodFillPlan, GoodGot]
theorem good_execCAdd (a0 : BitVec 5) (a1 : BitVec 5) (a2 : State) (h2 : Good a2) : GoodOut (execCAdd a0 a1 a2) := by
  unfold execCAdd; grind [good_finish, good_State_setX, Good, State.Canonical, Device.Canonical, GoodOut, Opt, Res, Fst, Snd, Both, GoodFound, GoodServe, GoodFillPlan, GoodGot]
theorem good_execCNop (a0 : State) (h0 : Good a0) : GoodOut (execCNop a0) := by
  unfold execCNop; grind [good_finish, Good, State.Canonical, Device.Canonical, GoodOut, Opt, Res, Fst, Snd, Both, GoodFound, GoodServe, GoodFillPlan, GoodGot]
theorem good_branch  {a0 : Nat} (a1 : Nat) (a2 : BitVec a0) (a3 : Bool) (a4 : State) (h4 : Good a4) : GoodOut (branch a1 a2 a3 a4) := by
  unfold branch; grind [good_jump, good_finish, Good, State.Canonical, Device.Canonical, GoodOut, Opt, Res, Fst, Snd, Both, GoodFound, GoodServe, GoodFillPlan, GoodGot]
theorem good_execBeq (a0 : BitVec 5) (a1 : BitVec 5) (a2 : BitVec 12) (a3 : State) (h3 : Good a3) : GoodOut (execBeq a0 a1 a2 a3) := by
  unfold execBeq; grind [good_branch, Good, State.Canonical, Device.Canonical, GoodOut, Opt, Res, Fst, Snd, Both, GoodFound, GoodServe, GoodFillPlan, GoodGot]
theorem good_execBne (a0 : BitVec 5) (a1 : BitVec 5) (a2 : BitVec 12) (a3 : State) (h3 : Good a3) : GoodOut (execBne a0 a1 a2 a3) := by
  unfold execBne; grind [good_branch, Good, State.Canonical, Device.Canonical, GoodOut, Opt, Res, Fst, Snd, Both, GoodFound, GoodServe, GoodFillPlan, GoodGot]
theorem good_execBlt (a0 : BitVec 5) (a1 : BitVec 5) (a2 : BitVec 12) (a3 : State) (h3 : Good a3) : GoodOut (execBlt a0 a1 a2 a3) := by
  unfold execBlt; grind [good_branch, Good, State.Canonical, Device.Canonical, GoodOut, Opt, Res, Fst, Snd, Both, GoodFound, GoodServe, GoodFillPlan, GoodGot]
theorem good_execBge (a0 : BitVec 5) (a1 : BitVec 5) (a2 : BitVec 12) (a3 : State) (h3 : Good a3) : GoodOut (execBge a0 a1 a2 a3) := by
  unfold execBge; grind [good_branch, Good, State.Canonical, Device.Canonical, GoodOut, Opt, Res, Fst, Snd, Both, GoodFound, GoodServe, GoodFillPlan, GoodGot]
theorem good_execBltu (a0 : BitVec 5) (a1 : BitVec 5) (a2 : BitVec 12) (a3 : State) (h3 : Good a3) : GoodOut (execBltu a0 a1 a2 a3) := by
  unfold execBltu; grind [good_branch, Good, State.Canonical, Device.Canonical, GoodOut, Opt, Res, Fst, Snd, Both, GoodFound, GoodServe, GoodFillPlan, GoodGot]
theorem good_execBgeu (a0 : BitVec 5) (a1 : BitVec 5) (a2 : BitVec 12) (a3 : State) (h3 : Good a3) : GoodOut (execBgeu a0 a1 a2 a3) := by
  unfold execBgeu; grind [good_branch, Good, State.Canonical, Device.Canonical, GoodOut, Opt, Res, Fst, Snd, Both, GoodFound, GoodServe, GoodFillPlan, GoodGot]
theorem good_execCBeqz (a0 : BitVec 5) (a1 : BitVec 6) (a2 : State) (h2 : Good a2) : GoodOut (execCBeqz a0 a1 a2) := by
  unfold execCBeqz; grind [good_branch, Good, State.Canonical, Device.Canonical, GoodOut, Opt, Res, Fst, Snd, Both, GoodFound, GoodServe, GoodFillPlan, GoodGot]
theorem good_execCBnez (a0 : BitVec 5) (a1 : BitVec 6) (a2 : State) (h2 : Good a2) : GoodOut (execCBnez a0 a1 a2) := by
  unfold execCBnez; grind [good_branch, Good, State.Canonical, Device.Canonical, GoodOut, Opt, Res, Fst, Snd, Both, GoodFound, GoodServe, GoodFillPlan, GoodGot]
theorem good_execJal (a0 : BitVec 5) (a1 : BitVec 20) (a2 : State) (h2 : Good a2) : GoodOut (execJal a0 a1 a2) := by
  unfold execJal; grind [good_jump, good_State_setX, Good, State.Canonical, Device.Canonical, GoodOut, Opt, Res, Fst, Snd, Both, GoodFound, GoodServe, GoodFillPlan, GoodGot]
theorem good_execCJ (a0 : BitVec 11) (a1 : State) (h1 : Good a1) : GoodOut (execCJ a0 a1) := by
  unfold execCJ; grind [good_jump, good_State_setX, Good, State.Canonical, Device.Canonical, GoodOut, Opt, Res, Fst, Snd, Both, GoodFound, GoodServe, GoodFillPlan, GoodGot]
theorem good_execJalr (a0 : BitVec 5) (a1 : BitVec 5) (a2 : BitVec 15) (a3 : State) (h3 : Good a3) : GoodOut (execJalr a0 a1 a2 a3) := by
  unfold execJalr; grind [good_raise, good_jump, good_State_setX, Good, State.Canonical, Device.Canonical, GoodOut, Opt, Res, Fst, Snd, Both, GoodFound, GoodServe, GoodFillPlan, GoodGot]
theorem good_State_raiseFlags (a0 : FFlags) (a1 : State) (h1 : Good a1) : Good (State.raiseFlags a0 a1) := by
  unfold State.raiseFlags; grind [good_State_setHart, Good, State.Canonical, Device.Canonical, GoodOut, Opt, Res, Fst, Snd, Both, GoodFound, GoodServe, GoodFillPlan, GoodGot]
theorem good_State_setLfsr (a0 : Word) (a1 : State) (h1 : Good a1) : Good (State.setLfsr a0 a1) := by
  unfold State.setLfsr; grind [good_State_setHart, Good, State.Canonical, Device.Canonical, GoodOut, Opt, Res, Fst, Snd, Both, GoodFound, GoodServe, GoodFillPlan, GoodGot]
theorem good_State_writeReply (a0 : State) (a1 : Reply) (a2 : Nat) (h0 : Good a0) : Good (State.writeReply a0 a1 a2) := by
  unfold State.writeReply; grind [good_State_setX, good_State_setV, good_State_setOX, good_State_setHart, Good, State.Canonical, Device.Canonical, GoodOut, Opt, Res, Fst, Snd, Both, GoodFound, GoodServe, GoodFillPlan, GoodGot]
theorem good_State_loaded (a0 : State) (a1 : Nat) (a2 : Reply) (a3 : Nat) (a4 : Nat) (h0 : Good a0) : Good (State.loaded a0 a1 a2 a3 a4) := by
  unfold State.loaded; grind [good_State_done, good_State_writeReply, good_State_schedule, good_State_setHart, Good, State.Canonical, Device.Canonical, GoodOut, Opt, Res, Fst, Snd, Both, GoodFound, GoodServe, GoodFillPlan, GoodGot]
theorem good_State_request (a0 : State) (a1 : CapRec) (a2 : BitVec 4) (a3 : Nat) (a4 : Nat) (a5 : Nat) (a6 : List Byte) (a7 : Reply) (a8 : Nat) (h0 : Good a0) : Good (State.request a0 a1 a2 a3 a4 a5 a6 a7 a8) := by
  unfold State.request; grind [good_State_sendSequenced, good_State_setHart, Good, State.Canonical, Device.Canonical, GoodOut, Opt, Res, Fst, Snd, Both, GoodFound, GoodServe, GoodFillPlan, GoodGot]
theorem good_State_readHome (a0 : State) (a1 : CapRec) (a2 : BitVec 4) (a3 : Nat) (a4 : Nat) (h0 : Good a0) : (Fst Good) (State.readHome a0 a1 a2 a3 a4) := by
  unfold State.readHome; grind [good_State_memError, good_State_correct, Good, State.Canonical, Device.Canonical, GoodOut, Opt, Res, Fst, Snd, Both, GoodFound, GoodServe, GoodFillPlan, GoodGot]
theorem good_State_readOf (a0 : State) (a1 : Nat) (a2 : BitVec 4) (a3 : Word) (a4 : Rights) (a5 : Bool) (h0 : Good a0) : GoodGot (State.readOf a0 a1 a2 a3 a4 a5) := by
  unfold State.readOf; grind [good_State_find, good_State_readHome, Good, State.Canonical, Device.Canonical, GoodOut, Opt, Res, Fst, Snd, Both, GoodFound, GoodServe, GoodFillPlan, GoodGot]
theorem good_load (a0 : Nat) (a1 : Reply) (a2 : Nat) (a3 : BitVec 4) (a4 : Word) (a5 : State) (h5 : Good a5) : GoodOut (load a0 a1 a2 a3 a4 a5) := by
  unfold load; grind [good_State_readOf, good_raise, good_park, good_State_loaded, good_State_request, Good, State.Canonical, Device.Canonical, GoodOut, Opt, Res, Fst, Snd, Both, GoodFound, GoodServe, GoodFillPlan, GoodGot]
theorem good_readRecord (a0 : Nat) (a1 : BitVec 4) (a2 : Word) (a3 : List Byte → Nat → State → Out) (a4 : State) (h3 : ∀ (y0 : List Byte) (y1 : Nat) (y2 : State), Good y2 → GoodOut (a3 y0 y1 y2)) (h4 : Good a4) : GoodOut (readRecord a0 a1 a2 a3 a4) := by
  unfold readRecord; grind [good_State_readOf, good_raise, good_park, good_State_request, Good, State.Canonical, Device.Canonical, GoodOut, Opt, Res, Fst, Snd, Both, GoodFound, GoodServe, GoodFillPlan, GoodGot]
theorem good_execLdB (a0 : BitVec 5) (a1 : BitVec 4) (a2 : BitVec 5) (a3 : BitVec 8) (a4 : State) (h4 : Good a4) : GoodOut (execLdB a0 a1 a2 a3 a4) := by
  unfold execLdB; grind [good_load, Good, State.Canonical, Device.Canonical, GoodOut, Opt, Res, Fst, Snd, Both, GoodFound, GoodServe, GoodFillPlan, GoodGot]
theorem good_execLdBu (a0 : BitVec 5) (a1 : BitVec 4) (a2 : BitVec 5) (a3 : BitVec 8) (a4 : State) (h4 : Good a4) : GoodOut (execLdBu a0 a1 a2 a3 a4) := by
  unfold execLdBu; grind [good_load, Good, State.Canonical, Device.Canonical, GoodOut, Opt, Res, Fst, Snd, Both, GoodFound, GoodServe, GoodFillPlan, GoodGot]
theorem good_execLdH (a0 : BitVec 5) (a1 : BitVec 4) (a2 : BitVec 5) (a3 : BitVec 8) (a4 : State) (h4 : Good a4) : GoodOut (execLdH a0 a1 a2 a3 a4) := by
  unfold execLdH; grind [good_load, Good, State.Canonical, Device.Canonical, GoodOut, Opt, Res, Fst, Snd, Both, GoodFound, GoodServe, GoodFillPlan, GoodGot]
theorem good_execLdHu (a0 : BitVec 5) (a1 : BitVec 4) (a2 : BitVec 5) (a3 : BitVec 8) (a4 : State) (h4 : Good a4) : GoodOut (execLdHu a0 a1 a2 a3 a4) := by
  unfold execLdHu; grind [good_load, Good, State.Canonical, Device.Canonical, GoodOut, Opt, Res, Fst, Snd, Both, GoodFound, GoodServe, GoodFillPlan, GoodGot]
theorem good_execLdW (a0 : BitVec 5) (a1 : BitVec 4) (a2 : BitVec 5) (a3 : BitVec 8) (a4 : State) (h4 : Good a4) : GoodOut (execLdW a0 a1 a2 a3 a4) := by
  unfold execLdW; grind [good_load, Good, State.Canonical, Device.Canonical, GoodOut, Opt, Res, Fst, Snd, Both, GoodFound, GoodServe, GoodFillPlan, GoodGot]
theorem good_execLdWu (a0 : BitVec 5) (a1 : BitVec 4) (a2 : BitVec 5) (a3 : BitVec 8) (a4 : State) (h4 : Good a4) : GoodOut (execLdWu a0 a1 a2 a3 a4) := by
  unfold execLdWu; grind [good_load, Good, State.Canonical, Device.Canonical, GoodOut, Opt, Res, Fst, Snd, Both, GoodFound, GoodServe, GoodFillPlan, GoodGot]
theorem good_execLdD (a0 : BitVec 5) (a1 : BitVec 4) (a2 : BitVec 5) (a3 : BitVec 8) (a4 : State) (h4 : Good a4) : GoodOut (execLdD a0 a1 a2 a3 a4) := by
  unfold execLdD; grind [good_load, Good, State.Canonical, Device.Canonical, GoodOut, Opt, Res, Fst, Snd, Both, GoodFound, GoodServe, GoodFillPlan, GoodGot]
theorem good_execCLd (a0 : BitVec 5) (a1 : BitVec 2) (a2 : BitVec 4) (a3 : State) (h3 : Good a3) : GoodOut (execCLd a0 a1 a2 a3) := by
  unfold execCLd; grind [good_load, Good, State.Canonical, Device.Canonical, GoodOut, Opt, Res, Fst, Snd, Both, GoodFound, GoodServe, GoodFillPlan, GoodGot]
theorem good_execLdv (a0 : BitVec 5) (a1 : BitVec 4) (a2 : BitVec 5) (a3 : BitVec 8) (a4 : State) (h4 : Good a4) : GoodOut (execLdv a0 a1 a2 a3 a4) := by
  unfold execLdv; grind [good_park, good_load, Good, State.Canonical, Device.Canonical, GoodOut, Opt, Res, Fst, Snd, Both, GoodFound, GoodServe, GoodFillPlan, GoodGot]
theorem good_execOxl (a0 : BitVec 3) (a1 : BitVec 4) (a2 : BitVec 15) (a3 : State) (h3 : Good a3) : GoodOut (execOxl a0 a1 a2 a3) := by
  unfold execOxl; grind [good_load, Good, State.Canonical, Device.Canonical, GoodOut, Opt, Res, Fst, Snd, Both, GoodFound, GoodServe, GoodFillPlan, GoodGot]
theorem good_execOxlH (a0 : BitVec 3) (a1 : BitVec 4) (a2 : State) (h2 : Good a2) : GoodOut (execOxlH a0 a1 a2) := by
  unfold execOxlH; grind [good_finish, good_State_setOX, Good, State.Canonical, Device.Canonical, GoodOut, Opt, Res, Fst, Snd, Both, GoodFound, GoodServe, GoodFillPlan, GoodGot]
theorem good_execOxli (a0 : BitVec 3) (a1 : BitVec 5) (a2 : BitVec 15) (a3 : State) (h3 : Good a3) : GoodOut (execOxli a0 a1 a2 a3) := by
  unfold execOxli; grind [good_finish, good_State_setOX, Good, State.Canonical, Device.Canonical, GoodOut, Opt, Res, Fst, Snd, Both, GoodFound, GoodServe, GoodFillPlan, GoodGot]
theorem good_store (a0 : Nat) (a1 : Nat) (a2 : Bool) (a3 : Nat) (a4 : BitVec 4) (a5 : Word) (a6 : State) (h6 : Good a6) : GoodOut (store a0 a1 a2 a3 a4 a5 a6) := by
  unfold store; grind [good_State_find, good_raise, good_park, good_State_noteStore, good_finish, good_State_setTile, Good, State.Canonical, Device.Canonical, GoodOut, Opt, Res, Fst, Snd, Both, GoodFound, GoodServe, GoodFillPlan, GoodGot]
theorem good_execStB (a0 : BitVec 5) (a1 : BitVec 4) (a2 : BitVec 5) (a3 : BitVec 8) (a4 : State) (h4 : Good a4) : GoodOut (execStB a0 a1 a2 a3 a4) := by
  unfold execStB; grind [good_store, Good, State.Canonical, Device.Canonical, GoodOut, Opt, Res, Fst, Snd, Both, GoodFound, GoodServe, GoodFillPlan, GoodGot]
theorem good_execStH (a0 : BitVec 5) (a1 : BitVec 4) (a2 : BitVec 5) (a3 : BitVec 8) (a4 : State) (h4 : Good a4) : GoodOut (execStH a0 a1 a2 a3 a4) := by
  unfold execStH; grind [good_store, Good, State.Canonical, Device.Canonical, GoodOut, Opt, Res, Fst, Snd, Both, GoodFound, GoodServe, GoodFillPlan, GoodGot]
theorem good_execStW (a0 : BitVec 5) (a1 : BitVec 4) (a2 : BitVec 5) (a3 : BitVec 8) (a4 : State) (h4 : Good a4) : GoodOut (execStW a0 a1 a2 a3 a4) := by
  unfold execStW; grind [good_store, Good, State.Canonical, Device.Canonical, GoodOut, Opt, Res, Fst, Snd, Both, GoodFound, GoodServe, GoodFillPlan, GoodGot]
theorem good_execStD (a0 : BitVec 5) (a1 : BitVec 4) (a2 : BitVec 5) (a3 : BitVec 8) (a4 : State) (h4 : Good a4) : GoodOut (execStD a0 a1 a2 a3 a4) := by
  unfold execStD; grind [good_store, Good, State.Canonical, Device.Canonical, GoodOut, Opt, Res, Fst, Snd, Both, GoodFound, GoodServe, GoodFillPlan, GoodGot]
theorem good_execCSt (a0 : BitVec 5) (a1 : BitVec 2) (a2 : BitVec 4) (a3 : State) (h3 : Good a3) : GoodOut (execCSt a0 a1 a2 a3) := by
  unfold execCSt; grind [good_store, Good, State.Canonical, Device.Canonical, GoodOut, Opt, Res, Fst, Snd, Both, GoodFound, GoodServe, GoodFillPlan, GoodGot]
theorem good_execStlW (a0 : BitVec 5) (a1 : BitVec 4) (a2 : BitVec 5) (a3 : BitVec 8) (a4 : State) (h4 : Good a4) : GoodOut (execStlW a0 a1 a2 a3 a4) := by
  unfold execStlW; grind [good_store, Good, State.Canonical, Device.Canonical, GoodOut, Opt, Res, Fst, Snd, Both, GoodFound, GoodServe, GoodFillPlan, GoodGot]
theorem good_execStlD (a0 : BitVec 5) (a1 : BitVec 4) (a2 : BitVec 5) (a3 : BitVec 8) (a4 : State) (h4 : Good a4) : GoodOut (execStlD a0 a1 a2 a3 a4) := by
  unfold execStlD; grind [good_store, Good, State.Canonical, Device.Canonical, GoodOut, Opt, Res, Fst, Snd, Both, GoodFound, GoodServe, GoodFillPlan, GoodGot]
theorem good_execStv (a0 : BitVec 5) (a1 : BitVec 4) (a2 : BitVec 5) (a3 : BitVec 8) (a4 : State) (h4 : Good a4) : GoodOut (execStv a0 a1 a2 a3 a4) := by
  unfold execStv; grind [good_park, good_store, Good, State.Canonical, Device.Canonical, GoodOut, Opt, Res, Fst, Snd, Both, GoodFound, GoodServe, GoodFillPlan, GoodGot]
theorem good_State_atomicDone (a0 : State) (a1 : Reply) (a2 : Nat) (a3 : Nat) (h0 : Good a0) : Good (State.atomicDone a0 a1 a2 a3) := by
  unfold State.atomicDone; grind [good_State_done, good_State_writeReply, good_State_schedule, good_State_setHart, Good, State.Canonical, Device.Canonical, GoodOut, Opt, Res, Fst, Snd, Both, GoodFound, GoodServe, GoodFillPlan, GoodGot]
theorem good_State_atomicHome (a0 : State) (a1 : CapRec) (a2 : BitVec 4) (a3 : Nat) (a4 : Nat) (a5 : AtomicAct) (a6 : Reply) (h0 : Good a0) : Good (State.atomicHome a0 a1 a2 a3 a4 a5 a6) := by
  unfold State.atomicHome; grind [good_State_atomicDone, good_State_memError, good_State_correct, good_State_writePhys, good_State_noteStore, Good, State.Canonical, Device.Canonical, GoodOut, Opt, Res, Fst, Snd, Both, GoodFound, GoodServe, GoodFillPlan, GoodGot]
theorem good_atomic (a0 : Nat) (a1 : Order) (a2 : Bool) (a3 : AtomicAct) (a4 : Reply) (a5 : BitVec 4) (a6 : Word) (a7 : State) (h7 : Good a7) : GoodOut (atomic a0 a1 a2 a3 a4 a5 a6 a7) := by
  unfold atomic; grind [good_raise, good_park, good_State_releaseWait, good_State_locate, good_State_snoop, good_State_atomicHome, good_State_request, Good, State.Canonical, Device.Canonical, GoodOut, Opt, Res, Fst, Snd, Both, GoodFound, GoodServe, GoodFillPlan, GoodGot]
theorem good_execAmoAdd (a0 : BitVec 5) (a1 : BitVec 4) (a2 : BitVec 5) (a3 : Sz) (a4 : Order) (a5 : State) (h5 : Good a5) : GoodOut (execAmoAdd a0 a1 a2 a3 a4 a5) := by
  unfold execAmoAdd; grind [good_atomic, Good, State.Canonical, Device.Canonical, GoodOut, Opt, Res, Fst, Snd, Both, GoodFound, GoodServe, GoodFillPlan, GoodGot]
theorem good_execAmoAnd (a0 : BitVec 5) (a1 : BitVec 4) (a2 : BitVec 5) (a3 : Sz) (a4 : Order) (a5 : State) (h5 : Good a5) : GoodOut (execAmoAnd a0 a1 a2 a3 a4 a5) := by
  unfold execAmoAnd; grind [good_atomic, Good, State.Canonical, Device.Canonical, GoodOut, Opt, Res, Fst, Snd, Both, GoodFound, GoodServe, GoodFillPlan, GoodGot]
theorem good_execAmoOr (a0 : BitVec 5) (a1 : BitVec 4) (a2 : BitVec 5) (a3 : Sz) (a4 : Order) (a5 : State) (h5 : Good a5) : GoodOut (execAmoOr a0 a1 a2 a3 a4 a5) := by
  unfold execAmoOr; grind [good_atomic, Good, State.Canonical, Device.Canonical, GoodOut, Opt, Res, Fst, Snd, Both, GoodFound, GoodServe, GoodFillPlan, GoodGot]
theorem good_execAmoXor (a0 : BitVec 5) (a1 : BitVec 4) (a2 : BitVec 5) (a3 : Sz) (a4 : Order) (a5 : State) (h5 : Good a5) : GoodOut (execAmoXor a0 a1 a2 a3 a4 a5) := by
  unfold execAmoXor; grind [good_atomic, Good, State.Canonical, Device.Canonical, GoodOut, Opt, Res, Fst, Snd, Both, GoodFound, GoodServe, GoodFillPlan, GoodGot]
theorem good_execAmoMin (a0 : BitVec 5) (a1 : BitVec 4) (a2 : BitVec 5) (a3 : Sz) (a4 : Order) (a5 : State) (h5 : Good a5) : GoodOut (execAmoMin a0 a1 a2 a3 a4 a5) := by
  unfold execAmoMin; grind [good_atomic, Good, State.Canonical, Device.Canonical, GoodOut, Opt, Res, Fst, Snd, Both, GoodFound, GoodServe, GoodFillPlan, GoodGot]
theorem good_execAmoMax (a0 : BitVec 5) (a1 : BitVec 4) (a2 : BitVec 5) (a3 : Sz) (a4 : Order) (a5 : State) (h5 : Good a5) : GoodOut (execAmoMax a0 a1 a2 a3 a4 a5) := by
  unfold execAmoMax; grind [good_atomic, Good, State.Canonical, Device.Canonical, GoodOut, Opt, Res, Fst, Snd, Both, GoodFound, GoodServe, GoodFillPlan, GoodGot]
theorem good_execAmoMinu (a0 : BitVec 5) (a1 : BitVec 4) (a2 : BitVec 5) (a3 : Sz) (a4 : Order) (a5 : State) (h5 : Good a5) : GoodOut (execAmoMinu a0 a1 a2 a3 a4 a5) := by
  unfold execAmoMinu; grind [good_atomic, Good, State.Canonical, Device.Canonical, GoodOut, Opt, Res, Fst, Snd, Both, GoodFound, GoodServe, GoodFillPlan, GoodGot]
theorem good_execAmoMaxu (a0 : BitVec 5) (a1 : BitVec 4) (a2 : BitVec 5) (a3 : Sz) (a4 : Order) (a5 : State) (h5 : Good a5) : GoodOut (execAmoMaxu a0 a1 a2 a3 a4 a5) := by
  unfold execAmoMaxu; grind [good_atomic, Good, State.Canonical, Device.Canonical, GoodOut, Opt, Res, Fst, Snd, Both, GoodFound, GoodServe, GoodFillPlan, GoodGot]
theorem good_execAmoSwap (a0 : BitVec 5) (a1 : BitVec 4) (a2 : BitVec 5) (a3 : Sz) (a4 : Order) (a5 : State) (h5 : Good a5) : GoodOut (execAmoSwap a0 a1 a2 a3 a4 a5) := by
  unfold execAmoSwap; grind [good_atomic, Good, State.Canonical, Device.Canonical, GoodOut, Opt, Res, Fst, Snd, Both, GoodFound, GoodServe, GoodFillPlan, GoodGot]
theorem good_execCas (a0 : BitVec 4) (a1 : BitVec 4) (a2 : BitVec 5) (a3 : Sz) (a4 : Order) (a5 : State) (h5 : Good a5) : GoodOut (execCas a0 a1 a2 a3 a4 a5) := by
  unfold execCas; grind [good_atomic, Good, State.Canonical, Device.Canonical, GoodOut, Opt, Res, Fst, Snd, Both, GoodFound, GoodServe, GoodFillPlan, GoodGot]
theorem good_execLda (a0 : BitVec 5) (a1 : BitVec 4) (a2 : BitVec 5) (a3 : Sz) (a4 : State) (h4 : Good a4) : GoodOut (execLda a0 a1 a2 a3 a4) := by
  unfold execLda; grind [good_State_find, good_raise, good_park, good_State_readHome, good_State_loaded, good_State_request, Good, State.Canonical, Device.Canonical, GoodOut, Opt, Res, Fst, Snd, Both, GoodFound, GoodServe, GoodFillPlan, GoodGot]
theorem good_State_modRecord (a0 : State) (a1 : Tid) (a2 : TaskRec → TaskRec) (h0 : Good a0) : Good (State.modRecord a0 a1 a2) := by
  unfold State.modRecord; grind [Good, State.Canonical, Device.Canonical, GoodOut, Opt, Res, Fst, Snd, Both, GoodFound, GoodServe, GoodFillPlan, GoodGot]
theorem good_State_donateTo (a0 : State) (a1 : Tid) (a2 : Nat) (a3 : Nat) (a4 : Nat) (a5 : List Tid) (h0 : Good a0) : Good (State.donateTo a0 a1 a2 a3 a4 a5) := by
  unfold State.donateTo; grind [good_State_schedule, Good, State.Canonical, Device.Canonical, GoodOut, Opt, Res, Fst, Snd, Both, GoodFound, GoodServe, GoodFillPlan, GoodGot, good_foldl]
theorem good_State_donate (a0 : State) (a1 : Wait) (h0 : Good a0) : Good (State.donate a0 a1) := by
  unfold State.donate; grind [good_State_donateTo, Good, State.Canonical, Device.Canonical, GoodOut, Opt, Res, Fst, Snd, Both, GoodFound, GoodServe, GoodFillPlan, GoodGot]
theorem good_State_stopDonating (a0 : State) (a1 : Tid) (a2 : Nat) (h0 : Good a0) : Good (State.stopDonating a0 a1 a2) := by
  unfold State.stopDonating; grind [good_State_schedule, Good, State.Canonical, Device.Canonical, GoodOut, Opt, Res, Fst, Snd, Both, GoodFound, GoodServe, GoodFillPlan, GoodGot, good_foldl]
theorem good_leaveOrPark (a0 : Wait) (a1 : State) (h1 : Good a1) : GoodOut (leaveOrPark a0 a1) := by
  unfold leaveOrPark; grind [good_State_donate, good_park, good_State_saveContext, good_State_setHart, Good, State.Canonical, Device.Canonical, GoodOut, Opt, Res, Fst, Snd, Both, GoodFound, GoodServe, GoodFillPlan, GoodGot]
theorem good_State_reject (a0 : State) (a1 : Nat) (a2 : Nat) (a3 : List Word) (a4 : Nat) (h0 : Good a0) : Good (State.reject a0 a1 a2 a3 a4) := by
  unfold State.reject; grind [good_State_log, Good, State.Canonical, Device.Canonical, GoodOut, Opt, Res, Fst, Snd, Both, GoodFound, GoodServe, GoodFillPlan, GoodGot]
theorem good_State_putQueue (a0 : State) (a1 : Nat) (a2 : Vector Word 4) (h0 : Good a0) : Good (State.putQueue a0 a1 a2) := by
  unfold State.putQueue; grind [Good, State.Canonical, Device.Canonical, GoodOut, Opt, Res, Fst, Snd, Both, GoodFound, GoodServe, GoodFillPlan, GoodGot]
theorem good_State_touchRing (a0 : State) (a1 : Nat) (a2 : Nat) (h0 : Good a0) : Good (State.touchRing a0 a1 a2) := by
  unfold State.touchRing; grind [good_State_touch, Good, State.Canonical, Device.Canonical, GoodOut, Opt, Res, Fst, Snd, Both, GoodFound, GoodServe, GoodFillPlan, GoodGot]
theorem good_State_claim (a0 : State) (a1 : Nat) (h0 : Good a0) : (Snd Good) (State.claim a0 a1) := by
  unfold State.claim; grind [good_State_putQueue, Good, State.Canonical, Device.Canonical, GoodOut, Opt, Res, Fst, Snd, Both, GoodFound, GoodServe, GoodFillPlan, GoodGot]
theorem good_State_ringWrite (a0 : State) (a1 : Nat) (a2 : Nat) (a3 : List Byte) (h0 : Good a0) : Good (State.ringWrite a0 a1 a2 a3) := by
  unfold State.ringWrite; grind [good_State_writeVia, Good, State.Canonical, Device.Canonical, GoodOut, Opt, Res, Fst, Snd, Both, GoodFound, GoodServe, GoodFillPlan, GoodGot]
theorem good_State_fillEntry (a0 : State) (a1 : Nat) (a2 : Nat) (a3 : List Word) (h0 : Good a0) : Good (State.fillEntry a0 a1 a2 a3) := by
  unfold State.fillEntry; grind [good_State_ringWrite, good_State_schedule, Good, State.Canonical, Device.Canonical, GoodOut, Opt, Res, Fst, Snd, Both, GoodFound, GoodServe, GoodFillPlan, GoodGot]
theorem good_State_entryWord0 (a0 : State) (a1 : Nat) (a2 : Nat) (a3 : Word) (h0 : Good a0) : Good (State.entryWord0 a0 a1 a2 a3) := by
  unfold State.entryWord0; grind [good_State_ringWrite, Good, State.Canonical, Device.Canonical, GoodOut, Opt, Res, Fst, Snd, Both, GoodFound, GoodServe, GoodFillPlan, GoodGot]
theorem good_State_wakeProducers (a0 : State) (a1 : Nat) (h0 : Good a0) : Good (State.wakeProducers a0 a1) := by
  unfold State.wakeProducers; grind [good_State_schedule, Good, State.Canonical, Device.Canonical, GoodOut, Opt, Res, Fst, Snd, Both, GoodFound, GoodServe, GoodFillPlan, GoodGot, good_foldl]
theorem good_State_stepRI (a0 : State) (a1 : Nat) (h0 : Good a0) : Good (State.stepRI a0 a1) := by
  unfold State.stepRI; grind [good_State_putQueue, good_State_wakeProducers, good_State_schedule, Good, State.Canonical, Device.Canonical, GoodOut, Opt, Res, Fst, Snd, Both, GoodFound, GoodServe, GoodFillPlan, GoodGot]
theorem good_State_freePageErrors (a0 : State) (a1 : Nat) (a2 : Nat) (h0 : Good a0) : Good (State.freePageErrors a0 a1 a2) := by
  unfold State.freePageErrors; grind [good_State_log, Good, State.Canonical, Device.Canonical, GoodOut, Opt, Res, Fst, Snd, Both, GoodFound, GoodServe, GoodFillPlan, GoodGot, good_foldl]
theorem good_State_takeStorage (a0 : State) (a1 : ALevel) (a2 : CapKind) (a3 : Nat) (h0 : Good a0) : (Opt (Snd Good)) (State.takeStorage a0 a1 a2 a3) := by
  unfold State.takeStorage
  cases a1 with
  | tile => dsimp only; cases State.allocTile a0 a0.tile.idx (storageSize (levelOf .tile) a2 a3) with | none => trivial | some a => exact good_State_scrub _ _ _ h0
  | clus => dsimp only; cases State.allocCluster a0 (clusterOf a0.tile.idx) (storageSize (levelOf .clus) a2 a3) with | none => trivial | some a => exact good_State_scrub _ _ _ h0
  | hbm => dsimp only; split; exact good_State_scrub _ _ _ (good_State_freePageErrors _ _ _ h0); trivial
theorem good_State_noteCreated (a0 : State) (a1 : Image) (h0 : Good a0) : Good (State.noteCreated a0 a1) := by
  unfold State.noteCreated; grind [good_State_modLaunch, Good, State.Canonical, Device.Canonical, GoodOut, Opt, Res, Fst, Snd, Both, GoodFound, GoodServe, GoodFillPlan, GoodGot]
theorem good_execCalloc (a0 : BitVec 4) (a1 : BitVec 5) (a2 : BitVec 5) (a3 : ALevel) (a4 : State) (h4 : Good a4) : GoodOut (execCalloc a0 a1 a2 a3 a4) := by
  unfold execCalloc; grind [good_raise, good_State_takeStorage, good_finish, good_State_setHandle, good_State_noteCreated, good_State_putRec, Good, State.Canonical, Device.Canonical, GoodOut, Opt, Res, Fst, Snd, Both, GoodFound, GoodServe, GoodFillPlan, GoodGot]
theorem good_execCfree (a0 : BitVec 4) (a1 : State) (h1 : Good a1) : GoodOut (execCfree a0 a1) := by
  unfold execCfree; grind [good_raise, good_park, good_State_setHandle, good_finish, good_State_dropHolder, good_State_dropRec, good_State_freeRoot, Good, State.Canonical, Device.Canonical, GoodOut, Opt, Res, Fst, Snd, Both, GoodFound, GoodServe, GoodFillPlan, GoodGot]
theorem good_execCget (a0 : BitVec 5) (a1 : BitVec 4) (a2 : BitVec 3) (a3 : State) (h3 : Good a3) : GoodOut (execCget a0 a1 a2 a3) := by
  unfold execCget; grind [good_finish, good_State_setX, Good, State.Canonical, Device.Canonical, GoodOut, Opt, Res, Fst, Snd, Both, GoodFound, GoodServe, GoodFillPlan, GoodGot]
theorem good_execCnarrow (a0 : BitVec 4) (a1 : BitVec 4) (a2 : BitVec 4) (a3 : State) (h3 : Good a3) : GoodOut (execCnarrow a0 a1 a2 a3) := by
  unfold execCnarrow; grind [good_raise, good_finish, good_State_setHandle, good_State_putRec, Good, State.Canonical, Device.Canonical, GoodOut, Opt, Res, Fst, Snd, Both, GoodFound, GoodServe, GoodFillPlan, GoodGot]
theorem good_execCsplit (a0 : BitVec 4) (a1 : BitVec 4) (a2 : BitVec 5) (a3 : State) (h3 : Good a3) : GoodOut (execCsplit a0 a1 a2 a3) := by
  unfold execCsplit; grind [good_raise, good_park, good_finish, good_State_setHandle, good_State_clearWritten, good_State_putRec, Good, State.Canonical, Device.Canonical, GoodOut, Opt, Res, Fst, Snd, Both, GoodFound, GoodServe, GoodFillPlan, GoodGot]
theorem good_execCjoin (a0 : BitVec 4) (a1 : BitVec 4) (a2 : State) (h2 : Good a2) : GoodOut (execCjoin a0 a1 a2) := by
  unfold execCjoin; grind [good_raise, good_finish, good_State_setHandle, good_State_dropRec, good_State_putRec, Good, State.Canonical, Device.Canonical, GoodOut, Opt, Res, Fst, Snd, Both, GoodFound, GoodServe, GoodFillPlan, GoodGot]
theorem good_State_offer (a0 : State) (a1 : CapRec) (a2 : Nat) (a3 : BitVec 4) (a4 : Nat) (a5 : Word) (a6 : Word) (a7 : Word) (h0 : Good a0) : Good (State.offer a0 a1 a2 a3 a4 a5 a6 a7) := by
  unfold State.offer; grind [good_State_sendSequenced, good_State_clearWritten, good_State_modRec, good_State_forkRead, good_State_setHandle, Good, State.Canonical, Device.Canonical, GoodOut, Opt, Res, Fst, Snd, Both, GoodFound, GoodServe, GoodFillPlan, GoodGot]
theorem good_State_sendLocal (a0 : State) (a1 : CapRec) (a2 : Nat) (a3 : BitVec 4) (a4 : Word) (a5 : Word) (a6 : Route) (a7 : Image) (h0 : Good a0) : Good (State.sendLocal a0 a1 a2 a3 a4 a5 a6 a7) := by
  unfold State.sendLocal; grind [good_State_clearWritten, good_State_modRec, good_State_putRec, good_State_setHandle, good_State_bounce, good_State_setTask, good_State_schedule, good_State_claim, Good, State.Canonical, Device.Canonical, GoodOut, Opt, Res, Fst, Snd, Both, GoodFound, GoodServe, GoodFillPlan, GoodGot]
theorem good_csend (a0 : Nat) (a1 : BitVec 5) (a2 : BitVec 4) (a3 : BitVec 5) (a4 : State) (h4 : Good a4) : GoodOut (csend a0 a1 a2 a3 a4) := by
  unfold csend
  split
  · exact good_raise _ _ h4
  · split
    · exact good_raise _ _ h4
    · dsimp only
      repeat' split
      all_goals first
        | exact good_raise _ _ h4
        | exact good_park _ _ h4
        | (have k := good_State_releaseWait _ h4; simp_all [Opt, Snd]; done)
        | grind [good_raise, good_park, good_State_releaseWait, good_finish, good_State_offer, good_State_sendLocal, Opt, Snd]
theorem good_execCsendKeep (a0 : BitVec 5) (a1 : BitVec 4) (a2 : BitVec 5) (a3 : State) (h3 : Good a3) : GoodOut (execCsendKeep a0 a1 a2 a3) := by
  unfold execCsendKeep; grind [good_csend, Good, State.Canonical, Device.Canonical, GoodOut, Opt, Res, Fst, Snd, Both, GoodFound, GoodServe, GoodFillPlan, GoodGot]
theorem good_execCsendMove (a0 : BitVec 5) (a1 : BitVec 4) (a2 : BitVec 5) (a3 : State) (h3 : Good a3) : GoodOut (execCsendMove a0 a1 a2 a3) := by
  unfold execCsendMove; grind [good_csend, Good, State.Canonical, Device.Canonical, GoodOut, Opt, Res, Fst, Snd, Both, GoodFound, GoodServe, GoodFillPlan, GoodGot]
theorem good_execCsendAuto (a0 : BitVec 5) (a1 : BitVec 4) (a2 : BitVec 5) (a3 : State) (h3 : Good a3) : GoodOut (execCsendAuto a0 a1 a2 a3) := by
  unfold execCsendAuto; grind [good_csend, Good, State.Canonical, Device.Canonical, GoodOut, Opt, Res, Fst, Snd, Both, GoodFound, GoodServe, GoodFillPlan, GoodGot]
theorem good_execCsendDup (a0 : BitVec 5) (a1 : BitVec 4) (a2 : BitVec 5) (a3 : State) (h3 : Good a3) : GoodOut (execCsendDup a0 a1 a2 a3) := by
  unfold execCsendDup; grind [good_csend, Good, State.Canonical, Device.Canonical, GoodOut, Opt, Res, Fst, Snd, Both, GoodFound, GoodServe, GoodFillPlan, GoodGot]
theorem good_State_writePair (a0 : State) (a1 : BitVec 5) (a2 : Word) (a3 : Word) (h0 : Good a0) : Good (State.writePair a0 a1 a2 a3) := by
  unfold State.writePair; grind [good_State_setX, Good, State.Canonical, Device.Canonical, GoodOut, Opt, Res, Fst, Snd, Both, GoodFound, GoodServe, GoodFillPlan, GoodGot]
theorem good_State_receive (a0 : State) (a1 : BitVec 4) (a2 : BitVec 5) (a3 : BitVec 5) (a4 : Msg) (h0 : Good a0) : Good (State.receive a0 a1 a2 a3 a4) := by
  unfold State.receive; grind [good_State_setHandle, good_State_putRec, good_State_setTask, good_State_setX, good_State_writePair, Good, State.Canonical, Device.Canonical, GoodOut, Opt, Res, Fst, Snd, Both, GoodFound, GoodServe, GoodFillPlan, GoodGot]
theorem good_execCrecv (a0 : BitVec 4) (a1 : BitVec 5) (a2 : BitVec 5) (a3 : RecvOpt) (a4 : State) (h4 : Good a4) : GoodOut (execCrecv a0 a1 a2 a3 a4) := by
  unfold execCrecv; grind [good_raise, good_State_setTile, good_State_setTask, good_State_schedule, good_finish, good_State_receive, good_State_setX, good_State_writePair, good_State_setHandle, good_leaveOrPark, Good, State.Canonical, Device.Canonical, GoodOut, Opt, Res, Fst, Snd, Both, GoodFound, GoodServe, GoodFillPlan, GoodGot]
theorem good_execCwait (a0 : BitVec 4) (a1 : WaitCond) (a2 : State) (h2 : Good a2) : GoodOut (execCwait a0 a1 a2) := by
  unfold execCwait; grind [good_raise, good_finish, good_leaveOrPark, Good, State.Canonical, Device.Canonical, GoodOut, Opt, Res, Fst, Snd, Both, GoodFound, GoodServe, GoodFillPlan, GoodGot]
theorem good_execCrevoke (a0 : BitVec 4) (a1 : RevMode) (a2 : State) (h2 : Good a2) : GoodOut (execCrevoke a0 a1 a2) := by
  unfold execCrevoke; grind [good_raise, good_finish, good_State_setQuire, good_State_modRec, good_State_bumpVersion, good_State_dropCached, good_State_sendRevoke, quire_map, quire_filter, quire_put, quire_drop, Good, State.Canonical, Device.Canonical, GoodOut, Opt, Res, Fst, Snd, Both, GoodFound, GoodServe, GoodFillPlan, GoodGot, good_foldl]
theorem good_cmark (a0 : BitVec 4) (a1 : Bool) (a2 : CapRec → State → Out) (a3 : State) (h2 : ∀ (y0 : CapRec) (y1 : State), Good y1 → GoodOut (a2 y0 y1)) (h3 : Good a3) : GoodOut (cmark a0 a1 a2 a3) := by
  unfold cmark; grind [good_raise, Good, State.Canonical, Device.Canonical, GoodOut, Opt, Res, Fst, Snd, Both, GoodFound, GoodServe, GoodFillPlan, GoodGot]
theorem good_execCmarkFill (a0 : BitVec 4) (a1 : State) (h1 : Good a1) : GoodOut (execCmarkFill a0 a1) := by
  unfold execCmarkFill; grind [good_cmark, good_park, good_finish, good_State_putRec, good_raise, Good, State.Canonical, Device.Canonical, GoodOut, Opt, Res, Fst, Snd, Both, GoodFound, GoodServe, GoodFillPlan, GoodGot]
theorem good_execCmarkFull (a0 : BitVec 4) (a1 : State) (h1 : Good a1) : GoodOut (execCmarkFull a0 a1) := by
  unfold execCmarkFull; grind [good_cmark, good_State_releaseWait, good_park, good_finish, good_State_putRec, good_raise, Good, State.Canonical, Device.Canonical, GoodOut, Opt, Res, Fst, Snd, Both, GoodFound, GoodServe, GoodFillPlan, GoodGot]
theorem good_execCmarkClrp (a0 : BitVec 4) (a1 : State) (h1 : Good a1) : GoodOut (execCmarkClrp a0 a1) := by
  unfold execCmarkClrp; grind [good_cmark, good_finish, good_State_setQuire, good_raise, quire_map, quire_filter, quire_put, quire_drop, Good, State.Canonical, Device.Canonical, GoodOut, Opt, Res, Fst, Snd, Both, GoodFound, GoodServe, GoodFillPlan, GoodGot]
theorem good_queueBlocked (a0 : List Nat) (a1 : Wait) (a2 : State) (h2 : Good a2) : GoodOut (queueBlocked a0 a1 a2) := by
  unfold queueBlocked; grind [good_raise, good_park, Good, State.Canonical, Device.Canonical, GoodOut, Opt, Res, Fst, Snd, Both, GoodFound, GoodServe, GoodFillPlan, GoodGot]
theorem good_queueWrite (a0 : Nat) (a1 : BitVec 5) (a2 : BitVec 3) (a3 : State) (h3 : Good a3) : GoodOut (queueWrite a0 a1 a2 a3) := by
  unfold queueWrite; grind [good_raise, good_queueBlocked, good_State_releaseWait, good_park, good_finish, good_State_setTask, Good, State.Canonical, Device.Canonical, GoodOut, Opt, Res, Fst, Snd, Both, GoodFound, GoodServe, GoodFillPlan, GoodGot]
theorem good_queueRead (a0 : Nat) (a1 : BitVec 5) (a2 : BitVec 3) (a3 : State) (h3 : Good a3) : GoodOut (queueRead a0 a1 a2 a3) := by
  unfold queueRead; grind [good_raise, good_queueBlocked, good_finish, good_State_setX, good_State_setTask, Good, State.Canonical, Device.Canonical, GoodOut, Opt, Res, Fst, Snd, Both, GoodFound, GoodServe, GoodFillPlan, GoodGot]
theorem good_execQw (a0 : BitVec 5) (a1 : BitVec 3) (a2 : State) (h2 : Good a2) : GoodOut (execQw a0 a1 a2) := by
  unfold execQw; grind [good_queueWrite, Good, State.Canonical, Device.Canonical, GoodOut, Opt, Res, Fst, Snd, Both, GoodFound, GoodServe, GoodFillPlan, GoodGot]
theorem good_execQr (a0 : BitVec 5) (a1 : BitVec 3) (a2 : State) (h2 : Good a2) : GoodOut (execQr a0 a1 a2) := by
  unfold execQr; grind [good_queueRead, Good, State.Canonical, Device.Canonical, GoodOut, Opt, Res, Fst, Snd, Both, GoodFound, GoodServe, GoodFillPlan, GoodGot]
theorem good_execCQw (a0 : BitVec 5) (a1 : BitVec 3) (a2 : State) (h2 : Good a2) : GoodOut (execCQw a0 a1 a2) := by
  unfold execCQw; grind [good_queueWrite, Good, State.Canonical, Device.Canonical, GoodOut, Opt, Res, Fst, Snd, Both, GoodFound, GoodServe, GoodFillPlan, GoodGot]
theorem good_execCQr (a0 : BitVec 5) (a1 : BitVec 3) (a2 : State) (h2 : Good a2) : GoodOut (execCQr a0 a1 a2) := by
  unfold execCQr; grind [good_queueRead, Good, State.Canonical, Device.Canonical, GoodOut, Opt, Res, Fst, Snd, Both, GoodFound, GoodServe, GoodFillPlan, GoodGot]
theorem good_execVqw (a0 : BitVec 5) (a1 : BitVec 3) (a2 : State) (h2 : Good a2) : GoodOut (execVqw a0 a1 a2) := by
  unfold execVqw; grind [good_raise, good_park, good_queueBlocked, good_State_releaseWait, good_finish, good_State_setTask, Good, State.Canonical, Device.Canonical, GoodOut, Opt, Res, Fst, Snd, Both, GoodFound, GoodServe, GoodFillPlan, GoodGot]
theorem good_execVqr (a0 : BitVec 5) (a1 : BitVec 3) (a2 : State) (h2 : Good a2) : GoodOut (execVqr a0 a1 a2) := by
  unfold execVqr; grind [good_raise, good_park, good_queueBlocked, good_finish, good_State_setV, good_State_tookRow, good_State_setTask, Good, State.Canonical, Device.Canonical, GoodOut, Opt, Res, Fst, Snd, Both, GoodFound, GoodServe, GoodFillPlan, GoodGot]
theorem good_execSfork (a0 : BitVec 5) (a1 : BitVec 5) (a2 : BitVec 5) (a3 : State) (h3 : Good a3) : GoodOut (execSfork a0 a1 a2 a3) := by
  unfold execSfork; grind [good_raise, good_finish, good_State_setX, good_State_lineUp, good_State_releaseWait, good_park, good_State_putHart, good_State_setTask, Good, State.Canonical, Device.Canonical, GoodOut, Opt, Res, Fst, Snd, Both, GoodFound, GoodServe, GoodFillPlan, GoodGot]
theorem good_execSjoin (a0 : BitVec 5) (a1 : State) (h1 : Good a1) : GoodOut (execSjoin a0 a1) := by
  unfold execSjoin; grind [good_finish, good_park, Good, State.Canonical, Device.Canonical, GoodOut, Opt, Res, Fst, Snd, Both, GoodFound, GoodServe, GoodFillPlan, GoodGot]
theorem good_State_sendWord (a0 : State) (a1 : Launch) (a2 : Nat × Nat) (a3 : Dir) (a4 : Word) (h0 : Good a0) : Good (State.sendWord a0 a1 a2 a3 a4) := by
  unfold State.sendWord; grind [good_State_setTask, good_State_modTask, good_State_schedule, Good, State.Canonical, Device.Canonical, GoodOut, Opt, Res, Fst, Snd, Both, GoodFound, GoodServe, GoodFillPlan, GoodGot]
theorem good_execChw (a0 : BitVec 5) (a1 : Dir) (a2 : State) (h2 : Good a2) : GoodOut (execChw a0 a1 a2) := by
  unfold execChw; grind [good_raise, good_State_lineUp, good_park, good_State_releaseWait, good_finish, good_State_sendWord, Good, State.Canonical, Device.Canonical, GoodOut, Opt, Res, Fst, Snd, Both, GoodFound, GoodServe, GoodFillPlan, GoodGot]
theorem good_State_sendCredit (a0 : State) (a1 : Launch) (a2 : Nat × Nat) (a3 : Dir) (h0 : Good a0) : Good (State.sendCredit a0 a1 a2 a3) := by
  unfold State.sendCredit; grind [good_State_schedule, Good, State.Canonical, Device.Canonical, GoodOut, Opt, Res, Fst, Snd, Both, GoodFound, GoodServe, GoodFillPlan, GoodGot]
theorem good_execChr (a0 : BitVec 5) (a1 : Dir) (a2 : State) (h2 : Good a2) : GoodOut (execChr a0 a1 a2) := by
  unfold execChr; grind [good_raise, good_State_lineUp, good_park, good_State_setTask, good_finish, good_State_setX, good_State_sendCredit, Good, State.Canonical, Device.Canonical, GoodOut, Opt, Res, Fst, Snd, Both, GoodFound, GoodServe, GoodFillPlan, GoodGot]
theorem good_State_newTid (a0 : State) (a1 : Nat) (h0 : Good a0) : (Opt (Snd Good)) (State.newTid a0 a1) := by
  unfold State.newTid; grind [good_State_modTile, Good, State.Canonical, Device.Canonical, GoodOut, Opt, Res, Fst, Snd, Both, GoodFound, GoodServe, GoodFillPlan, GoodGot]
theorem good_State_ownerTile (a0 : State) (a1 : CapRec) (h0 : Good a0) : (Res (Snd Good)) (State.ownerTile a0 a1) := by
  unfold State.ownerTile; grind [good_State_draw, Good, State.Canonical, Device.Canonical, GoodOut, Opt, Res, Fst, Snd, Both, GoodFound, GoodServe, GoodFillPlan, GoodGot]
theorem good_State_noteOwnerWalk (a0 : State) (a1 : List (Nat × CapRec)) (h0 : Good a0) : Good (State.noteOwnerWalk a0 a1) := by
  unfold State.noteOwnerWalk; grind [good_State_noteRawWalk, Good, State.Canonical, Device.Canonical, GoodOut, Opt, Res, Fst, Snd, Both, GoodFound, GoodServe, GoodFillPlan, GoodGot]
theorem good_State_moveHandles (a0 : State) (a1 : List (Nat × CapRec)) (a2 : List (Nat × Nat)) (h0 : Good a0) : Good (State.moveHandles a0 a1 a2) := by
  unfold State.moveHandles; grind [good_State_setHandle, good_State_putRec, Good, State.Canonical, Device.Canonical, GoodOut, Opt, Res, Fst, Snd, Both, GoodFound, GoodServe, GoodFillPlan, GoodGot, good_foldl]
theorem good_State_spawnTask (a0 : State) (a1 : TaskRec) (a2 : Nat) (a3 : Option Nat) (h0 : Good a0) : Good (State.spawnTask a0 a1 a2 a3) := by
  unfold State.spawnTask; grind [good_State_admitRecord, good_State_modTask, good_State_modLaunch, Good, State.Canonical, Device.Canonical, GoodOut, Opt, Res, Fst, Snd, Both, GoodFound, GoodServe, GoodFillPlan, GoodGot]
theorem good_spawnFrom (a0 : Bool) (a1 : BitVec 5) (a2 : List Word) (a3 : Nat) (a4 : State) (h4 : Good a4) : GoodOut (spawnFrom a0 a1 a2 a3 a4) := by
  unfold spawnFrom
  dsimp only
  repeat' split
  all_goals grind [good_raise, good_State_reject, good_State_noteOwnerWalk, good_park, good_finish, good_State_ownerTile, good_State_releaseWait, good_State_newTid, good_State_moveHandles, good_State_setTask, good_State_busy, good_State_setX, good_State_spawnTask, good_State_setHart, Opt, Snd, Fst, Res]
theorem good_spawn (a0 : Bool) (a1 : BitVec 5) (a2 : BitVec 4) (a3 : BitVec 5) (a4 : State) (h4 : Good a4) : GoodOut (spawn a0 a1 a2 a3 a4) := by
  unfold spawn; grind [good_readRecord, good_spawnFrom, Good, State.Canonical, Device.Canonical, GoodOut, Opt, Res, Fst, Snd, Both, GoodFound, GoodServe, GoodFillPlan, GoodGot]
theorem good_execSpawn (a0 : BitVec 5) (a1 : BitVec 4) (a2 : BitVec 5) (a3 : State) (h3 : Good a3) : GoodOut (execSpawn a0 a1 a2 a3) := by
  unfold execSpawn; grind [good_spawn, Good, State.Canonical, Device.Canonical, GoodOut, Opt, Res, Fst, Snd, Both, GoodFound, GoodServe, GoodFillPlan, GoodGot]
theorem good_execSpawnat (a0 : BitVec 5) (a1 : BitVec 4) (a2 : BitVec 5) (a3 : State) (h3 : Good a3) : GoodOut (execSpawnat a0 a1 a2 a3) := by
  unfold execSpawnat; grind [good_spawn, Good, State.Canonical, Device.Canonical, GoodOut, Opt, Res, Fst, Snd, Both, GoodFound, GoodServe, GoodFillPlan, GoodGot]
theorem good_execJoinw (a0 : State) (h0 : Good a0) : GoodOut (execJoinw a0) := by
  unfold execJoinw; grind [good_finish, good_leaveOrPark, Good, State.Canonical, Device.Canonical, GoodOut, Opt, Res, Fst, Snd, Both, GoodFound, GoodServe, GoodFillPlan, GoodGot]
theorem good_State_depart (a0 : State) (a1 : Nat) (a2 : Nat) (a3 : Word) (h0 : Good a0) : Good (State.depart a0 a1 a2 a3) := by
  unfold State.depart; grind [good_State_saveContext, good_State_done, good_State_enqueue, Good, State.Canonical, Device.Canonical, GoodOut, Opt, Res, Fst, Snd, Both, GoodFound, GoodServe, GoodFillPlan, GoodGot]
theorem good_yield (a0 : Nat) (a1 : State) (h1 : Good a1) : GoodOut (yield a0 a1) := by
  unfold yield; grind [good_State_setTask, good_State_deliver, good_park, good_State_depart, good_finish, Good, State.Canonical, Device.Canonical, GoodOut, Opt, Res, Fst, Snd, Both, GoodFound, GoodServe, GoodFillPlan, GoodGot]
theorem good_execYield (a0 : State) (h0 : Good a0) : GoodOut (execYield a0) := by
  unfold execYield; grind [good_yield, Good, State.Canonical, Device.Canonical, GoodOut, Opt, Res, Fst, Snd, Both, GoodFound, GoodServe, GoodFillPlan, GoodGot]
theorem good_execCYield (a0 : State) (h0 : Good a0) : GoodOut (execCYield a0) := by
  unfold execCYield; grind [good_yield, Good, State.Canonical, Device.Canonical, GoodOut, Opt, Res, Fst, Snd, Both, GoodFound, GoodServe, GoodFillPlan, GoodGot]
theorem good_execWakeat (a0 : BitVec 5) (a1 : State) (h1 : Good a1) : GoodOut (execWakeat a0 a1) := by
  unfold execWakeat; grind [good_finish, good_yield, good_park, good_State_depart, Good, State.Canonical, Device.Canonical, GoodOut, Opt, Res, Fst, Snd, Both, GoodFound, GoodServe, GoodFillPlan, GoodGot]
theorem good_State_endStream (a0 : State) (a1 : Hart) (h0 : Good a0) : Good (State.endStream a0 a1) := by
  unfold State.endStream; grind [good_State_modTile, good_State_putHart, Good, State.Canonical, Device.Canonical, GoodOut, Opt, Res, Fst, Snd, Both, GoodFound, GoodServe, GoodFillPlan, GoodGot]
theorem good_State_endSiblings (a0 : State) (h0 : Good a0) : Good (State.endSiblings a0) := by
  unfold State.endSiblings; grind [good_State_abandonWait, good_State_setHart, good_State_endStream, good_State_setTask, Good, State.Canonical, Device.Canonical, GoodOut, Opt, Res, Fst, Snd, Both, GoodFound, GoodServe, GoodFillPlan, GoodGot, good_foldl]
theorem good_State_flushTask (a0 : State) (a1 : Tid) (h0 : Good a0) : Good (State.flushTask a0 a1) := by
  unfold State.flushTask; grind [good_State_startFlush, Good, State.Canonical, Device.Canonical, GoodOut, Opt, Res, Fst, Snd, Both, GoodFound, GoodServe, GoodFillPlan, GoodGot]
theorem good_State_pollEnding (a0 : State) (h0 : Good a0) : (Opt Good) (State.pollEnding a0) := by
  unfold State.pollEnding
  refine opt_findSome _ fun t => ?_
  have k := good_State_flushTask a0 t.tid h0
  split
  · dsimp only
    split
    · exact k
    · split
      · exact good_State_settle _ _ h0
      · trivial
  · trivial
theorem good_exitSibling (a0 : State) (h0 : Good a0) : GoodOut (exitSibling a0) := by
  unfold exitSibling; grind [good_State_deliver, good_State_releaseWait, good_park, good_State_endStream, Good, State.Canonical, Device.Canonical, GoodOut, Opt, Res, Fst, Snd, Both, GoodFound, GoodServe, GoodFillPlan, GoodGot]
theorem good_exitTask (a0 : State) (h0 : Good a0) : GoodOut (exitTask a0) := by
  unfold exitTask; grind [good_State_setTask, good_State_endSiblings, good_park, good_leaveOrPark, good_State_flushTask, good_State_deliver, good_State_finishTask, Good, State.Canonical, Device.Canonical, GoodOut, Opt, Res, Fst, Snd, Both, GoodFound, GoodServe, GoodFillPlan, GoodGot]
theorem good_execExit (a0 : State) (h0 : Good a0) : GoodOut (execExit a0) := by
  unfold execExit; grind [good_State_terminate, good_exitSibling, good_exitTask, Good, State.Canonical, Device.Canonical, GoodOut, Opt, Res, Fst, Snd, Both, GoodFound, GoodServe, GoodFillPlan, GoodGot]
theorem good_State_failRemote (a0 : State) (a1 : Tid) (a2 : Nat) (a3 : TrapInfo) (h0 : Good a0) : Good (State.failRemote a0 a1 a2 a3) := by
  unfold State.failRemote; grind [good_State_modHart, Good, State.Canonical, Device.Canonical, GoodOut, Opt, Res, Fst, Snd, Both, GoodFound, GoodServe, GoodFillPlan, GoodGot]
theorem good_State_dropSent (a0 : State) (a1 : Nat) (a2 : Sent) (h0 : Good a0) : Good (State.dropSent a0 a1 a2) := by
  unfold State.dropSent; grind [good_State_schedule, good_State_failRemote, good_State_pend, Good, State.Canonical, Device.Canonical, GoodOut, Opt, Res, Fst, Snd, Both, GoodFound, GoodServe, GoodFillPlan, GoodGot]
theorem good_State_undrain (a0 : State) (a1 : Image) (h0 : Good a0) : Good (State.undrain a0 a1) := by
  unfold State.undrain; grind [good_State_joinRead, good_State_modRec, Good, State.Canonical, Device.Canonical, GoodOut, Opt, Res, Fst, Snd, Both, GoodFound, GoodServe, GoodFillPlan, GoodGot]
theorem good_State_returnXfer (a0 : State) (a1 : Sent) (a2 : Nat) (h0 : Good a0) : Good (State.returnXfer a0 a1 a2) := by
  unfold State.returnXfer; grind [good_State_bounce, good_State_putRec, good_State_dropHolder, good_State_undrain, Good, State.Canonical, Device.Canonical, GoodOut, Opt, Res, Fst, Snd, Both, GoodFound, GoodServe, GoodFillPlan, GoodGot]
theorem good_State_beyondRecovery (a0 : State) (a1 : Nat) (h0 : Good a0) : Good (State.beyondRecovery a0 a1) := by
  unfold State.beyondRecovery; grind [good_State_putLink, good_State_dropSent, Good, State.Canonical, Device.Canonical, GoodOut, Opt, Res, Fst, Snd, Both, GoodFound, GoodServe, GoodFillPlan, GoodGot, good_foldl]
theorem good_State_declareLost (a0 : State) (a1 : Nat) (h0 : Good a0) : Good (State.declareLost a0 a1) := by
  unfold State.declareLost; grind [good_State_beyondRecovery, good_State_putLink, good_State_returnXfer, Good, State.Canonical, Device.Canonical, GoodOut, Opt, Res, Fst, Snd, Both, GoodFound, GoodServe, GoodFillPlan, GoodGot, good_foldl]
theorem good_State_ctlRefuse (a0 : State) (a1 : Nat) (a2 : Nat) (a3 : Word) (h0 : Good a0) : Good (State.ctlRefuse a0 a1 a2 a3) := by
  unfold State.ctlRefuse; grind [good_State_log, Good, State.Canonical, Device.Canonical, GoodOut, Opt, Res, Fst, Snd, Both, GoodFound, GoodServe, GoodFillPlan, GoodGot]
theorem good_State_elstatWrite (a0 : State) (a1 : Nat) (a2 : Word) (h0 : Good a0) : Good (State.elstatWrite a0 a1 a2) := by
  unfold State.elstatWrite; grind [good_State_ctlRefuse, good_State_modDie, Good, State.Canonical, Device.Canonical, GoodOut, Opt, Res, Fst, Snd, Both, GoodFound, GoodServe, GoodFillPlan, GoodGot]
theorem good_State_shareWrite (a0 : State) (a1 : Nat) (a2 : Nat) (a3 : Word) (h0 : Good a0) : Good (State.shareWrite a0 a1 a2 a3) := by
  unfold State.shareWrite; grind [good_State_ctlRefuse, good_State_modDie, Good, State.Canonical, Device.Canonical, GoodOut, Opt, Res, Fst, Snd, Both, GoodFound, GoodServe, GoodFillPlan, GoodGot]
theorem good_State_queueWrite (a0 : State) (a1 : Nat) (a2 : Nat) (a3 : Word) (h0 : Good a0) : Good (State.queueWrite a0 a1 a2 a3) := by
  unfold State.queueWrite
  dsimp only
  repeat' split
  all_goals first
    | exact good_State_ctlRefuse _ _ _ _ h0
    | exact good_State_schedule _ _ _ (good_State_putQueue _ _ _ h0)
    | exact good_State_putQueue _ _ _ h0
theorem good_State_peerWrite (a0 : State) (a1 : Nat) (a2 : Nat) (a3 : Word) (h0 : Good a0) : Good (State.peerWrite a0 a1 a2 a3) := by
  unfold State.peerWrite; grind [good_State_ctlRefuse, good_State_declareLost, Good, State.Canonical, Device.Canonical, GoodOut, Opt, Res, Fst, Snd, Both, GoodFound, GoodServe, GoodFillPlan, GoodGot]
theorem good_State_asidWrite (a0 : State) (a1 : Nat) (a2 : Nat) (a3 : Word) (h0 : Good a0) : Good (State.asidWrite a0 a1 a2 a3) := by
  unfold State.asidWrite; grind [good_State_ctlRefuse, good_State_schedule, Good, State.Canonical, Device.Canonical, GoodOut, Opt, Res, Fst, Snd, Both, GoodFound, GoodServe, GoodFillPlan, GoodGot, good_foldl]
theorem good_State_winRequest (a0 : State) (a1 : Nat) (a2 : Word) (h0 : Good a0) : Good (State.winRequest a0 a1 a2) := by
  unfold State.winRequest
  dsimp only
  repeat' split
  all_goals first
    | exact h0
    | exact good_State_ctlRefuse _ _ _ _ h0
    | exact good_State_putRec _ _ h0
theorem good_State_winRelease (a0 : State) (a1 : Nat) (a2 : Word) (h0 : Good a0) : Good (State.winRelease a0 a1 a2) := by
  unfold State.winRelease; grind [good_State_dropRec, good_State_ctlRefuse, Good, State.Canonical, Device.Canonical, GoodOut, Opt, Res, Fst, Snd, Both, GoodFound, GoodServe, GoodFillPlan, GoodGot]
theorem good_State_ctlWrite (a0 : State) (a1 : Nat) (a2 : Nat) (a3 : Word) (h0 : Good a0) : Good (State.ctlWrite a0 a1 a2 a3) := by
  unfold State.ctlWrite
  repeat' first
    | with_reducible apply good_ite
    | with_reducible exact good_State_ctlRefuse _ _ _ _ h0
    | with_reducible exact good_State_modDie _ _ _ h0
    | with_reducible exact good_State_elstatWrite _ _ _ h0
    | with_reducible exact good_State_winRequest _ _ _ h0
    | with_reducible exact good_State_winRelease _ _ _ h0
    | with_reducible exact good_State_shareWrite _ _ _ _ h0
    | with_reducible exact good_State_modTile _ _ _ h0
    | with_reducible exact good_State_peerWrite _ _ _ _ h0
    | with_reducible exact good_State_queueWrite _ _ _ _ h0
    | with_reducible exact good_State_asidWrite _ _ _ _ h0
    | exact good_same rfl rfl rfl h0
theorem good_execCswdRead (a0 : BitVec 5) (a1 : State) (h1 : Good a1) : GoodOut (execCswdRead a0 a1) := by
  unfold execCswdRead; grind [good_raise, good_finish, good_State_busy, good_State_setX, Good, State.Canonical, Device.Canonical, GoodOut, Opt, Res, Fst, Snd, Both, GoodFound, GoodServe, GoodFillPlan, GoodGot]
theorem good_execCswdWrite (a0 : BitVec 5) (a1 : State) (h1 : Good a1) : GoodOut (execCswdWrite a0 a1) := by
  unfold execCswdWrite; grind [good_raise, good_finish, good_State_busy, good_State_ctlWrite, Good, State.Canonical, Device.Canonical, GoodOut, Opt, Res, Fst, Snd, Both, GoodFound, GoodServe, GoodFillPlan, GoodGot]
theorem good_execControlSpaceWrite (a0 : Nat) (a1 : Nat) (a2 : BarAccess) (a3 : State) (h3 : Good a3) : GoodOut (execControlSpaceWrite a0 a1 a2 a3) := by
  unfold execControlSpaceWrite; grind [good_State_ctlRefuse, good_State_ctlWrite, Good, State.Canonical, Device.Canonical, GoodOut, Opt, Res, Fst, Snd, Both, GoodFound, GoodServe, GoodFillPlan, GoodGot]
theorem good_execElstatClear (a0 : Nat) (a1 : Word) (a2 : State) (h2 : Good a2) : GoodOut (execElstatClear a0 a1 a2) := by
  unfold execElstatClear; grind [good_State_elstatWrite, Good, State.Canonical, Device.Canonical, GoodOut, Opt, Res, Fst, Snd, Both, GoodFound, GoodServe, GoodFillPlan, GoodGot]
theorem good_execWinreqGo (a0 : Word) (a1 : State) (h1 : Good a1) : GoodOut (execWinreqGo a0 a1) := by
  unfold execWinreqGo; grind [good_State_winRequest, Good, State.Canonical, Device.Canonical, GoodOut, Opt, Res, Fst, Snd, Both, GoodFound, GoodServe, GoodFillPlan, GoodGot]
theorem good_execWinfree (a0 : Word) (a1 : State) (h1 : Good a1) : GoodOut (execWinfree a0 a1) := by
  unfold execWinfree; grind [good_State_winRelease, Good, State.Canonical, Device.Canonical, GoodOut, Opt, Res, Fst, Snd, Both, GoodFound, GoodServe, GoodFillPlan, GoodGot]
theorem good_execPeerEpochWrite (a0 : Nat) (a1 : Word) (a2 : State) (h2 : Good a2) : GoodOut (execPeerEpochWrite a0 a1 a2) := by
  unfold execPeerEpochWrite; grind [good_State_peerWrite, Good, State.Canonical, Device.Canonical, GoodOut, Opt, Res, Fst, Snd, Both, GoodFound, GoodServe, GoodFillPlan, GoodGot]
theorem good_execShareTableWrite (a0 : Nat) (a1 : Nat) (a2 : Word) (a3 : State) (h3 : Good a3) : GoodOut (execShareTableWrite a0 a1 a2 a3) := by
  unfold execShareTableWrite; grind [good_State_shareWrite, Good, State.Canonical, Device.Canonical, GoodOut, Opt, Res, Fst, Snd, Both, GoodFound, GoodServe, GoodFillPlan, GoodGot]
theorem good_execQueueTableWrite (a0 : Nat) (a1 : Nat) (a2 : Word) (a3 : State) (h3 : Good a3) : GoodOut (execQueueTableWrite a0 a1 a2 a3) := by
  unfold execQueueTableWrite; grind [good_State_queueWrite, Good, State.Canonical, Device.Canonical, GoodOut, Opt, Res, Fst, Snd, Both, GoodFound, GoodServe, GoodFillPlan, GoodGot]
theorem good_execTranslationInvalidate (a0 : BitVec 14) (a1 : State) (h1 : Good a1) : GoodOut (execTranslationInvalidate a0 a1) := by
  unfold execTranslationInvalidate; grind [good_State_schedule, Good, State.Canonical, Device.Canonical, GoodOut, Opt, Res, Fst, Snd, Both, GoodFound, GoodServe, GoodFillPlan, GoodGot]
theorem good_execEvth (a0 : BitVec 5) (a1 : BitVec 5) (a2 : State) (h2 : Good a2) : GoodOut (execEvth a0 a1 a2) := by
  unfold execEvth; grind [good_raise, good_finish, good_State_setHart, Good, State.Canonical, Device.Canonical, GoodOut, Opt, Res, Fst, Snd, Both, GoodFound, GoodServe, GoodFillPlan, GoodGot]
theorem good_execEvret (a0 : State) (h0 : Good a0) : GoodOut (execEvret a0) := by
  unfold execEvret; grind [good_raise, good_State_setHart, Good, State.Canonical, Device.Canonical, GoodOut, Opt, Res, Fst, Snd, Both, GoodFound, GoodServe, GoodFillPlan, GoodGot]
theorem good_execTrap (a0 : BitVec 5) (a1 : State) (h1 : Good a1) : GoodOut (execTrap a0 a1) := by
  unfold execTrap; grind [good_State_takeTrapAt, Good, State.Canonical, Device.Canonical, GoodOut, Opt, Res, Fst, Snd, Both, GoodFound, GoodServe, GoodFillPlan, GoodGot]
theorem good_execBkpt (a0 : State) (h0 : Good a0) : GoodOut (execBkpt a0) := by
  unfold execBkpt; grind [good_State_takeTrapAt, Good, State.Canonical, Device.Canonical, GoodOut, Opt, Res, Fst, Snd, Both, GoodFound, GoodServe, GoodFillPlan, GoodGot]
theorem good_execEret (a0 : State) (h0 : Good a0) : GoodOut (execEret a0) := by
  unfold execEret; grind [good_raise, good_State_returnFromTrap, Good, State.Canonical, Device.Canonical, GoodOut, Opt, Res, Fst, Snd, Both, GoodFound, GoodServe, GoodFillPlan, GoodGot]
theorem good_execEwait (a0 : State) (h0 : Good a0) : GoodOut (execEwait a0) := by
  unfold execEwait; grind [good_State_releaseWait, good_park, good_State_deliver, good_finish, Good, State.Canonical, Device.Canonical, GoodOut, Opt, Res, Fst, Snd, Both, GoodFound, GoodServe, GoodFillPlan, GoodGot]
theorem good_when_ (a0 : Bool) (a1 : State) (h1 : Good a1) : (Opt Good) (when? a0 a1) := by
  unfold when?; grind [Good, State.Canonical, Device.Canonical, GoodOut, Opt, Res, Fst, Snd, Both, GoodFound, GoodServe, GoodFillPlan, GoodGot]
theorem good_State_setFS (a0 : Fin 4) (a1 : Word) (a2 : State) (h2 : Good a2) : Good (State.setFS a0 a1 a2) := by
  unfold State.setFS; grind [good_State_setHart, Good, State.Canonical, Device.Canonical, GoodOut, Opt, Res, Fst, Snd, Both, GoodFound, GoodServe, GoodFillPlan, GoodGot]
theorem good_State_sregWrite (a0 : State) (a1 : Nat) (a2 : Word) (h0 : Good a0) : (Opt Good) (State.sregWrite a0 a1 a2) := by
  unfold State.sregWrite; grind [good_when_, good_State_setHart, good_State_setLfsr, good_State_setTask, good_State_ctlWrite, good_State_setFS, good_State_setOX, Good, State.Canonical, Device.Canonical, GoodOut, Opt, Res, Fst, Snd, Both, GoodFound, GoodServe, GoodFillPlan, GoodGot]
theorem good_execRds (a0 : BitVec 5) (a1 : BitVec 12) (a2 : State) (h2 : Good a2) : GoodOut (execRds a0 a1 a2) := by
  unfold execRds; grind [good_raise, good_finish, good_State_busy, good_State_setX, Good, State.Canonical, Device.Canonical, GoodOut, Opt, Res, Fst, Snd, Both, GoodFound, GoodServe, GoodFillPlan, GoodGot]
theorem good_execWrs (a0 : BitVec 5) (a1 : BitVec 12) (a2 : State) (h2 : Good a2) : GoodOut (execWrs a0 a1 a2) := by
  unfold execWrs; grind [good_State_sregWrite, good_raise, good_finish, good_State_busy, Good, State.Canonical, Device.Canonical, GoodOut, Opt, Res, Fst, Snd, Both, GoodFound, GoodServe, GoodFillPlan, GoodGot]
theorem good_State_fpWrite (a0 : State) (a1 : BitVec 5) (a2 : Nat × FFlags) (a3 : Word) (h0 : Good a0) : Good (State.fpWrite a0 a1 a2 a3) := by
  unfold State.fpWrite; grind [good_State_setLfsr, good_State_raiseFlags, good_State_setX, Good, State.Canonical, Device.Canonical, GoodOut, Opt, Res, Fst, Snd, Both, GoodFound, GoodServe, GoodFillPlan, GoodGot]
theorem good_fpOp (a0 : BitVec 5) (a1 : Rnd) (a2 : Prec) (a3 : Nat) (a4 : Env → Nat × FFlags) (a5 : State) (h5 : Good a5) : GoodOut (fpOp a0 a1 a2 a3 a4 a5) := by
  unfold fpOp; grind [good_finish, good_State_busy, good_State_fpWrite, Good, State.Canonical, Device.Canonical, GoodOut, Opt, Res, Fst, Snd, Both, GoodFound, GoodServe, GoodFillPlan, GoodGot]
theorem good_execFadd (a0 : BitVec 5) (a1 : BitVec 5) (a2 : BitVec 5) (a3 : Rnd) (a4 : Prec) (a5 : State) (h5 : Good a5) : GoodOut (execFadd a0 a1 a2 a3 a4 a5) := by
  unfold execFadd; grind [good_fpOp, Good, State.Canonical, Device.Canonical, GoodOut, Opt, Res, Fst, Snd, Both, GoodFound, GoodServe, GoodFillPlan, GoodGot]
theorem good_execFsub (a0 : BitVec 5) (a1 : BitVec 5) (a2 : BitVec 5) (a3 : Rnd) (a4 : Prec) (a5 : State) (h5 : Good a5) : GoodOut (execFsub a0 a1 a2 a3 a4 a5) := by
  unfold execFsub; grind [good_fpOp, Good, State.Canonical, Device.Canonical, GoodOut, Opt, Res, Fst, Snd, Both, GoodFound, GoodServe, GoodFillPlan, GoodGot]
theorem good_execFmul (a0 : BitVec 5) (a1 : BitVec 5) (a2 : BitVec 5) (a3 : Rnd) (a4 : Prec) (a5 : State) (h5 : Good a5) : GoodOut (execFmul a0 a1 a2 a3 a4 a5) := by
  unfold execFmul; grind [good_fpOp, Good, State.Canonical, Device.Canonical, GoodOut, Opt, Res, Fst, Snd, Both, GoodFound, GoodServe, GoodFillPlan, GoodGot]
theorem good_execFma (a0 : BitVec 5) (a1 : BitVec 5) (a2 : BitVec 5) (a3 : Rnd) (a4 : Prec) (a5 : State) (h5 : Good a5) : GoodOut (execFma a0 a1 a2 a3 a4 a5) := by
  unfold execFma; grind [good_fpOp, Good, State.Canonical, Device.Canonical, GoodOut, Opt, Res, Fst, Snd, Both, GoodFound, GoodServe, GoodFillPlan, GoodGot]
theorem good_execFdiv (a0 : BitVec 5) (a1 : BitVec 5) (a2 : BitVec 5) (a3 : Rnd) (a4 : Prec) (a5 : State) (h5 : Good a5) : GoodOut (execFdiv a0 a1 a2 a3 a4 a5) := by
  unfold execFdiv; grind [good_fpOp, Good, State.Canonical, Device.Canonical, GoodOut, Opt, Res, Fst, Snd, Both, GoodFound, GoodServe, GoodFillPlan, GoodGot]
theorem good_execFsqrt (a0 : BitVec 5) (a1 : BitVec 5) (a2 : Rnd) (a3 : Prec) (a4 : State) (h4 : Good a4) : GoodOut (execFsqrt a0 a1 a2 a3 a4) := by
  unfold execFsqrt; grind [good_fpOp, Good, State.Canonical, Device.Canonical, GoodOut, Opt, Res, Fst, Snd, Both, GoodFound, GoodServe, GoodFillPlan, GoodGot]
theorem good_fpPick (a0 : Bool) (a1 : BitVec 5) (a2 : BitVec 5) (a3 : BitVec 5) (a4 : Prec) (a5 : State) (h5 : Good a5) : GoodOut (fpPick a0 a1 a2 a3 a4 a5) := by
  unfold fpPick; grind [good_finish, good_State_fpWrite, Good, State.Canonical, Device.Canonical, GoodOut, Opt, Res, Fst, Snd, Both, GoodFound, GoodServe, GoodFillPlan, GoodGot]
theorem good_execFmin (a0 : BitVec 5) (a1 : BitVec 5) (a2 : BitVec 5) (a3 : Prec) (a4 : State) (h4 : Good a4) : GoodOut (execFmin a0 a1 a2 a3 a4) := by
  unfold execFmin; grind [good_fpPick, Good, State.Canonical, Device.Canonical, GoodOut, Opt, Res, Fst, Snd, Both, GoodFound, GoodServe, GoodFillPlan, GoodGot]
theorem good_execFmax (a0 : BitVec 5) (a1 : BitVec 5) (a2 : BitVec 5) (a3 : Prec) (a4 : State) (h4 : Good a4) : GoodOut (execFmax a0 a1 a2 a3 a4) := by
  unfold execFmax; grind [good_fpPick, Good, State.Canonical, Device.Canonical, GoodOut, Opt, Res, Fst, Snd, Both, GoodFound, GoodServe, GoodFillPlan, GoodGot]
theorem good_execFcmp (a0 : BitVec 5) (a1 : BitVec 5) (a2 : BitVec 5) (a3 : FCond) (a4 : Prec) (a5 : State) (h5 : Good a5) : GoodOut (execFcmp a0 a1 a2 a3 a4 a5) := by
  unfold execFcmp; grind [good_finish, good_State_fpWrite, Good, State.Canonical, Device.Canonical, GoodOut, Opt, Res, Fst, Snd, Both, GoodFound, GoodServe, GoodFillPlan, GoodGot]
theorem good_execFclass (a0 : BitVec 5) (a1 : BitVec 5) (a2 : Prec) (a3 : State) (h3 : Good a3) : GoodOut (execFclass a0 a1 a2 a3) := by
  unfold execFclass; grind [good_finish, good_State_setX, Good, State.Canonical, Device.Canonical, GoodOut, Opt, Res, Fst, Snd, Both, GoodFound, GoodServe, GoodFillPlan, GoodGot]
theorem good_cvtFloat (a0 : BitVec 5) (a1 : BitVec 5) (a2 : Rnd) (a3 : FpFmt) (a4 : FpFmt) (a5 : State) (h5 : Good a5) : GoodOut (cvtFloat a0 a1 a2 a3 a4 a5) := by
  unfold cvtFloat; grind [good_finish, good_State_fpWrite, Good, State.Canonical, Device.Canonical, GoodOut, Opt, Res, Fst, Snd, Both, GoodFound, GoodServe, GoodFillPlan, GoodGot]
theorem good_cvtToInt (a0 : BitVec 5) (a1 : BitVec 5) (a2 : Rnd) (a3 : Prec) (a4 : Int) (a5 : Int) (a6 : State) (h6 : Good a6) : GoodOut (cvtToInt a0 a1 a2 a3 a4 a5 a6) := by
  unfold cvtToInt; grind [good_finish, good_State_fpWrite, Good, State.Canonical, Device.Canonical, GoodOut, Opt, Res, Fst, Snd, Both, GoodFound, GoodServe, GoodFillPlan, GoodGot]
theorem good_cvtOfInt (a0 : BitVec 5) (a1 : Rnd) (a2 : Prec) (a3 : Int) (a4 : State) (h4 : Good a4) : GoodOut (cvtOfInt a0 a1 a2 a3 a4) := by
  unfold cvtOfInt; grind [good_finish, good_State_fpWrite, Good, State.Canonical, Device.Canonical, GoodOut, Opt, Res, Fst, Snd, Both, GoodFound, GoodServe, GoodFillPlan, GoodGot]
theorem good_execFcvt (a0 : BitVec 5) (a1 : BitVec 5) (a2 : Conv) (a3 : Rnd) (a4 : Prec) (a5 : State) (h5 : Good a5) : GoodOut (execFcvt a0 a1 a2 a3 a4 a5) := by
  unfold execFcvt; grind [good_cvtFloat, good_cvtToInt, good_cvtOfInt, Good, State.Canonical, Device.Canonical, GoodOut, Opt, Res, Fst, Snd, Both, GoodFound, GoodServe, GoodFillPlan, GoodGot]
theorem good_State_vecWrite (a0 : State) (a1 : BitVec 5) (a2 : Nat) (a3 : List Nat × FFlags × Word) (h0 : Good a0) : Good (State.vecWrite a0 a1 a2 a3) := by
  unfold State.vecWrite; grind [good_State_setLfsr, good_State_raiseFlags, good_State_setV, Good, State.Canonical, Device.Canonical, GoodOut, Opt, Res, Fst, Snd, Both, GoodFound, GoodServe, GoodFillPlan, GoodGot]
theorem good_withRows (a0 : List (BitVec 5)) (a1 : State → Out) (a2 : State) (h1 : ∀ (y0 : State), Good y0 → GoodOut (a1 y0)) (h2 : Good a2) : GoodOut (withRows a0 a1 a2) := by
  unfold withRows; grind [good_park, Good, State.Canonical, Device.Canonical, GoodOut, Opt, Res, Fst, Snd, Both, GoodFound, GoodServe, GoodFillPlan, GoodGot]
theorem good_vecFp (a0 : BitVec 5) (a1 : Et) (a2 : BitVec 2) (a3 : Nat) (a4 : List (BitVec 5)) (a5 : State → Env → Nat → Nat × FFlags) (a6 : State) (h6 : Good a6) : GoodOut (vecFp a0 a1 a2 a3 a4 a5 a6) := by
  unfold vecFp; grind [good_withRows, good_finish, good_State_busy, good_State_vecWrite, Good, State.Canonical, Device.Canonical, GoodOut, Opt, Res, Fst, Snd, Both, GoodFound, GoodServe, GoodFillPlan, GoodGot]
theorem good_vecFpExact (a0 : BitVec 5) (a1 : Et) (a2 : BitVec 2) (a3 : List (BitVec 5)) (a4 : State → Env → Nat → Nat × FFlags) (a5 : State) (h5 : Good a5) : GoodOut (vecFpExact a0 a1 a2 a3 a4 a5) := by
  unfold vecFpExact; grind [good_withRows, good_finish, good_State_vecWrite, Good, State.Canonical, Device.Canonical, GoodOut, Opt, Res, Fst, Snd, Both, GoodFound, GoodServe, GoodFillPlan, GoodGot]
theorem good_execVadd (a0 : BitVec 5) (a1 : BitVec 5) (a2 : BitVec 5) (a3 : Et) (a4 : BitVec 2) (a5 : State) (h5 : Good a5) : GoodOut (execVadd a0 a1 a2 a3 a4 a5) := by
  unfold execVadd; grind [good_vecFp, Good, State.Canonical, Device.Canonical, GoodOut, Opt, Res, Fst, Snd, Both, GoodFound, GoodServe, GoodFillPlan, GoodGot]
theorem good_execVsub (a0 : BitVec 5) (a1 : BitVec 5) (a2 : BitVec 5) (a3 : Et) (a4 : BitVec 2) (a5 : State) (h5 : Good a5) : GoodOut (execVsub a0 a1 a2 a3 a4 a5) := by
  unfold execVsub; grind [good_vecFp, Good, State.Canonical, Device.Canonical, GoodOut, Opt, Res, Fst, Snd, Both, GoodFound, GoodServe, GoodFillPlan, GoodGot]
theorem good_execVmul (a0 : BitVec 5) (a1 : BitVec 5) (a2 : BitVec 5) (a3 : Et) (a4 : BitVec 2) (a5 : State) (h5 : Good a5) : GoodOut (execVmul a0 a1 a2 a3 a4 a5) := by
  unfold execVmul; grind [good_vecFp, Good, State.Canonical, Device.Canonical, GoodOut, Opt, Res, Fst, Snd, Both, GoodFound, GoodServe, GoodFillPlan, GoodGot]
theorem good_execVfma (a0 : BitVec 5) (a1 : BitVec 5) (a2 : BitVec 5) (a3 : Et) (a4 : BitVec 2) (a5 : State) (h5 : Good a5) : GoodOut (execVfma a0 a1 a2 a3 a4 a5) := by
  unfold execVfma; grind [good_vecFp, Good, State.Canonical, Device.Canonical, GoodOut, Opt, Res, Fst, Snd, Both, GoodFound, GoodServe, GoodFillPlan, GoodGot]
theorem good_execVfnma (a0 : BitVec 5) (a1 : BitVec 5) (a2 : BitVec 5) (a3 : Et) (a4 : BitVec 2) (a5 : State) (h5 : Good a5) : GoodOut (execVfnma a0 a1 a2 a3 a4 a5) := by
  unfold execVfnma; grind [good_vecFp, Good, State.Canonical, Device.Canonical, GoodOut, Opt, Res, Fst, Snd, Both, GoodFound, GoodServe, GoodFillPlan, GoodGot]
theorem good_execVmin (a0 : BitVec 5) (a1 : BitVec 5) (a2 : BitVec 5) (a3 : Et) (a4 : BitVec 2) (a5 : State) (h5 : Good a5) : GoodOut (execVmin a0 a1 a2 a3 a4 a5) := by
  unfold execVmin; grind [good_vecFpExact, Good, State.Canonical, Device.Canonical, GoodOut, Opt, Res, Fst, Snd, Both, GoodFound, GoodServe, GoodFillPlan, GoodGot]
theorem good_execVmax (a0 : BitVec 5) (a1 : BitVec 5) (a2 : BitVec 5) (a3 : Et) (a4 : BitVec 2) (a5 : State) (h5 : Good a5) : GoodOut (execVmax a0 a1 a2 a3 a4 a5) := by
  unfold execVmax; grind [good_vecFpExact, Good, State.Canonical, Device.Canonical, GoodOut, Opt, Res, Fst, Snd, Both, GoodFound, GoodServe, GoodFillPlan, GoodGot]
theorem good_vecLanes (a0 : BitVec 5) (a1 : Et) (a2 : BitVec 2) (a3 : List (BitVec 5)) (a4 : State → Nat → Nat) (a5 : State) (h5 : Good a5) : GoodOut (vecLanes a0 a1 a2 a3 a4 a5) := by
  unfold vecLanes; grind [good_withRows, good_finish, good_State_setV, Good, State.Canonical, Device.Canonical, GoodOut, Opt, Res, Fst, Snd, Both, GoodFound, GoodServe, GoodFillPlan, GoodGot]
theorem good_execVabs (a0 : BitVec 5) (a1 : BitVec 5) (a2 : Et) (a3 : BitVec 2) (a4 : State) (h4 : Good a4) : GoodOut (execVabs a0 a1 a2 a3 a4) := by
  unfold execVabs; grind [good_vecLanes, Good, State.Canonical, Device.Canonical, GoodOut, Opt, Res, Fst, Snd, Both, GoodFound, GoodServe, GoodFillPlan, GoodGot]
theorem good_execVneg (a0 : BitVec 5) (a1 : BitVec 5) (a2 : Et) (a3 : BitVec 2) (a4 : State) (h4 : Good a4) : GoodOut (execVneg a0 a1 a2 a3 a4) := by
  unfold execVneg; grind [good_vecLanes, Good, State.Canonical, Device.Canonical, GoodOut, Opt, Res, Fst, Snd, Both, GoodFound, GoodServe, GoodFillPlan, GoodGot]
theorem good_vecInt (a0 : BitVec 5) (a1 : BitVec 5) (a2 : BitVec 5) (a3 : Et) (a4 : BitVec 2) (a5 : Bool) (a6 : Int → Int → Int → Int) (a7 : State) (h7 : Good a7) : GoodOut (vecInt a0 a1 a2 a3 a4 a5 a6 a7) := by
  unfold vecInt; grind [good_vecLanes, Good, State.Canonical, Device.Canonical, GoodOut, Opt, Res, Fst, Snd, Both, GoodFound, GoodServe, GoodFillPlan, GoodGot]
theorem good_execViadd (a0 : BitVec 5) (a1 : BitVec 5) (a2 : BitVec 5) (a3 : Et) (a4 : BitVec 2) (a5 : Bool) (a6 : State) (h6 : Good a6) : GoodOut (execViadd a0 a1 a2 a3 a4 a5 a6) := by
  unfold execViadd; grind [good_vecInt, Good, State.Canonical, Device.Canonical, GoodOut, Opt, Res, Fst, Snd, Both, GoodFound, GoodServe, GoodFillPlan, GoodGot]
theorem good_execVisub (a0 : BitVec 5) (a1 : BitVec 5) (a2 : BitVec 5) (a3 : Et) (a4 : BitVec 2) (a5 : Bool) (a6 : State) (h6 : Good a6) : GoodOut (execVisub a0 a1 a2 a3 a4 a5 a6) := by
  unfold execVisub; grind [good_vecInt, Good, State.Canonical, Device.Canonical, GoodOut, Opt, Res, Fst, Snd, Both, GoodFound, GoodServe, GoodFillPlan, GoodGot]
theorem good_execVimul (a0 : BitVec 5) (a1 : BitVec 5) (a2 : BitVec 5) (a3 : Et) (a4 : BitVec 2) (a5 : Bool) (a6 : State) (h6 : Good a6) : GoodOut (execVimul a0 a1 a2 a3 a4 a5 a6) := by
  unfold execVimul; grind [good_vecInt, Good, State.Canonical, Device.Canonical, GoodOut, Opt, Res, Fst, Snd, Both, GoodFound, GoodServe, GoodFillPlan, GoodGot]
theorem good_execVimac (a0 : BitVec 5) (a1 : BitVec 5) (a2 : BitVec 5) (a3 : Et) (a4 : BitVec 2) (a5 : Bool) (a6 : State) (h6 : Good a6) : GoodOut (execVimac a0 a1 a2 a3 a4 a5 a6) := by
  unfold execVimac; grind [good_vecInt, Good, State.Canonical, Device.Canonical, GoodOut, Opt, Res, Fst, Snd, Both, GoodFound, GoodServe, GoodFillPlan, GoodGot]
theorem good_vecBits (a0 : BitVec 5) (a1 : BitVec 5) (a2 : BitVec 5) (a3 : Et) (a4 : BitVec 2) (a5 : Nat → Nat → Nat → Nat) (a6 : State) (h6 : Good a6) : GoodOut (vecBits a0 a1 a2 a3 a4 a5 a6) := by
  unfold vecBits; grind [good_vecLanes, Good, State.Canonical, Device.Canonical, GoodOut, Opt, Res, Fst, Snd, Both, GoodFound, GoodServe, GoodFillPlan, GoodGot]
theorem good_execVand (a0 : BitVec 5) (a1 : BitVec 5) (a2 : BitVec 5) (a3 : Et) (a4 : BitVec 2) (a5 : State) (h5 : Good a5) : GoodOut (execVand a0 a1 a2 a3 a4 a5) := by
  unfold execVand; grind [good_vecBits, Good, State.Canonical, Device.Canonical, GoodOut, Opt, Res, Fst, Snd, Both, GoodFound, GoodServe, GoodFillPlan, GoodGot]
theorem good_execVor (a0 : BitVec 5) (a1 : BitVec 5) (a2 : BitVec 5) (a3 : Et) (a4 : BitVec 2) (a5 : State) (h5 : Good a5) : GoodOut (execVor a0 a1 a2 a3 a4 a5) := by
  unfold execVor; grind [good_vecBits, Good, State.Canonical, Device.Canonical, GoodOut, Opt, Res, Fst, Snd, Both, GoodFound, GoodServe, GoodFillPlan, GoodGot]
theorem good_execVxor (a0 : BitVec 5) (a1 : BitVec 5) (a2 : BitVec 5) (a3 : Et) (a4 : BitVec 2) (a5 : State) (h5 : Good a5) : GoodOut (execVxor a0 a1 a2 a3 a4 a5) := by
  unfold execVxor; grind [good_vecBits, Good, State.Canonical, Device.Canonical, GoodOut, Opt, Res, Fst, Snd, Both, GoodFound, GoodServe, GoodFillPlan, GoodGot]
theorem good_execVshl (a0 : BitVec 5) (a1 : BitVec 5) (a2 : BitVec 5) (a3 : Et) (a4 : BitVec 2) (a5 : State) (h5 : Good a5) : GoodOut (execVshl a0 a1 a2 a3 a4 a5) := by
  unfold execVshl; grind [good_vecBits, Good, State.Canonical, Device.Canonical, GoodOut, Opt, Res, Fst, Snd, Both, GoodFound, GoodServe, GoodFillPlan, GoodGot]
theorem good_execVshr (a0 : BitVec 5) (a1 : BitVec 5) (a2 : BitVec 5) (a3 : Et) (a4 : BitVec 2) (a5 : State) (h5 : Good a5) : GoodOut (execVshr a0 a1 a2 a3 a4 a5) := by
  unfold execVshr; grind [good_vecBits, Good, State.Canonical, Device.Canonical, GoodOut, Opt, Res, Fst, Snd, Both, GoodFound, GoodServe, GoodFillPlan, GoodGot]
theorem good_execVsra (a0 : BitVec 5) (a1 : BitVec 5) (a2 : BitVec 5) (a3 : Et) (a4 : BitVec 2) (a5 : State) (h5 : Good a5) : GoodOut (execVsra a0 a1 a2 a3 a4 a5) := by
  unfold execVsra; grind [good_vecBits, Good, State.Canonical, Device.Canonical, GoodOut, Opt, Res, Fst, Snd, Both, GoodFound, GoodServe, GoodFillPlan, GoodGot]
theorem good_execVcmp (a0 : BitVec 5) (a1 : BitVec 5) (a2 : BitVec 5) (a3 : Et) (a4 : BitVec 2) (a5 : Bool) (a6 : VCond) (a7 : State) (h7 : Good a7) : GoodOut (execVcmp a0 a1 a2 a3 a4 a5 a6 a7) := by
  unfold execVcmp; grind [good_raise, good_withRows, good_finish, good_State_raiseFlags, good_State_setM, Good, State.Canonical, Device.Canonical, GoodOut, Opt, Res, Fst, Snd, Both, GoodFound, GoodServe, GoodFillPlan, GoodGot, good_foldl]
theorem good_execVsel (a0 : BitVec 5) (a1 : BitVec 5) (a2 : BitVec 5) (a3 : Et) (a4 : BitVec 2) (a5 : State) (h5 : Good a5) : GoodOut (execVsel a0 a1 a2 a3 a4 a5) := by
  unfold execVsel; grind [good_withRows, good_finish, good_State_setV, Good, State.Canonical, Device.Canonical, GoodOut, Opt, Res, Fst, Snd, Both, GoodFound, GoodServe, GoodFillPlan, GoodGot]
theorem good_execVmskAnd (a0 : BitVec 2) (a1 : BitVec 2) (a2 : BitVec 2) (a3 : State) (h3 : Good a3) : GoodOut (execVmskAnd a0 a1 a2 a3) := by
  unfold execVmskAnd; grind [good_finish, good_State_setM, Good, State.Canonical, Device.Canonical, GoodOut, Opt, Res, Fst, Snd, Both, GoodFound, GoodServe, GoodFillPlan, GoodGot]
theorem good_execVmskOr (a0 : BitVec 2) (a1 : BitVec 2) (a2 : BitVec 2) (a3 : State) (h3 : Good a3) : GoodOut (execVmskOr a0 a1 a2 a3) := by
  unfold execVmskOr; grind [good_finish, good_State_setM, Good, State.Canonical, Device.Canonical, GoodOut, Opt, Res, Fst, Snd, Both, GoodFound, GoodServe, GoodFillPlan, GoodGot]
theorem good_execVmskXor (a0 : BitVec 2) (a1 : BitVec 2) (a2 : BitVec 2) (a3 : State) (h3 : Good a3) : GoodOut (execVmskXor a0 a1 a2 a3) := by
  unfold execVmskXor; grind [good_finish, good_State_setM, Good, State.Canonical, Device.Canonical, GoodOut, Opt, Res, Fst, Snd, Both, GoodFound, GoodServe, GoodFillPlan, GoodGot]
theorem good_execVmskAndn (a0 : BitVec 2) (a1 : BitVec 2) (a2 : BitVec 2) (a3 : State) (h3 : Good a3) : GoodOut (execVmskAndn a0 a1 a2 a3) := by
  unfold execVmskAndn; grind [good_finish, good_State_setM, Good, State.Canonical, Device.Canonical, GoodOut, Opt, Res, Fst, Snd, Both, GoodFound, GoodServe, GoodFillPlan, GoodGot]
theorem good_execVmskMov (a0 : BitVec 2) (a1 : BitVec 5) (a2 : State) (h2 : Good a2) : GoodOut (execVmskMov a0 a1 a2) := by
  unfold execVmskMov; grind [good_finish, good_State_setM, Good, State.Canonical, Device.Canonical, GoodOut, Opt, Res, Fst, Snd, Both, GoodFound, GoodServe, GoodFillPlan, GoodGot]
theorem good_execVmskGet (a0 : BitVec 5) (a1 : BitVec 2) (a2 : State) (h2 : Good a2) : GoodOut (execVmskGet a0 a1 a2) := by
  unfold execVmskGet; grind [good_finish, good_State_setX, Good, State.Canonical, Device.Canonical, GoodOut, Opt, Res, Fst, Snd, Both, GoodFound, GoodServe, GoodFillPlan, GoodGot]
theorem good_execVmovi (a0 : BitVec 5) (a1 : Et) (a2 : BitVec 16) (a3 : State) (h3 : Good a3) : GoodOut (execVmovi a0 a1 a2 a3) := by
  unfold execVmovi; grind [good_withRows, good_finish, good_State_setV, Good, State.Canonical, Device.Canonical, GoodOut, Opt, Res, Fst, Snd, Both, GoodFound, GoodServe, GoodFillPlan, GoodGot]
theorem good_execVmuli (a0 : BitVec 5) (a1 : Et) (a2 : BitVec 16) (a3 : State) (h3 : Good a3) : GoodOut (execVmuli a0 a1 a2 a3) := by
  unfold execVmuli; grind [good_withRows, good_finish, good_State_vecWrite, Good, State.Canonical, Device.Canonical, GoodOut, Opt, Res, Fst, Snd, Both, GoodFound, GoodServe, GoodFillPlan, GoodGot]
theorem good_execVaddi (a0 : BitVec 5) (a1 : Et) (a2 : BitVec 16) (a3 : State) (h3 : Good a3) : GoodOut (execVaddi a0 a1 a2 a3) := by
  unfold execVaddi; grind [good_withRows, good_finish, good_State_setV, Good, State.Canonical, Device.Canonical, GoodOut, Opt, Res, Fst, Snd, Both, GoodFound, GoodServe, GoodFillPlan, GoodGot]
theorem good_special (a0 : SpecialFn) (a1 : BitVec 5) (a2 : BitVec 5) (a3 : Et) (a4 : BitVec 2) (a5 : State) (h5 : Good a5) : GoodOut (special a0 a1 a2 a3 a4 a5) := by
  unfold special; grind [good_vecFpExact, Good, State.Canonical, Device.Canonical, GoodOut, Opt, Res, Fst, Snd, Both, GoodFound, GoodServe, GoodFillPlan, GoodGot]
theorem good_execVrcp (a0 : BitVec 5) (a1 : BitVec 5) (a2 : Et) (a3 : BitVec 2) (a4 : State) (h4 : Good a4) : GoodOut (execVrcp a0 a1 a2 a3 a4) := by
  unfold execVrcp; grind [good_special, Good, State.Canonical, Device.Canonical, GoodOut, Opt, Res, Fst, Snd, Both, GoodFound, GoodServe, GoodFillPlan, GoodGot]
theorem good_execVrsq (a0 : BitVec 5) (a1 : BitVec 5) (a2 : Et) (a3 : BitVec 2) (a4 : State) (h4 : Good a4) : GoodOut (execVrsq a0 a1 a2 a3 a4) := by
  unfold execVrsq; grind [good_special, Good, State.Canonical, Device.Canonical, GoodOut, Opt, Res, Fst, Snd, Both, GoodFound, GoodServe, GoodFillPlan, GoodGot]
theorem good_execVexp (a0 : BitVec 5) (a1 : BitVec 5) (a2 : Et) (a3 : BitVec 2) (a4 : State) (h4 : Good a4) : GoodOut (execVexp a0 a1 a2 a3 a4) := by
  unfold execVexp; grind [good_special, Good, State.Canonical, Device.Canonical, GoodOut, Opt, Res, Fst, Snd, Both, GoodFound, GoodServe, GoodFillPlan, GoodGot]
theorem good_execVexp2 (a0 : BitVec 5) (a1 : BitVec 5) (a2 : Et) (a3 : BitVec 2) (a4 : State) (h4 : Good a4) : GoodOut (execVexp2 a0 a1 a2 a3 a4) := by
  unfold execVexp2; grind [good_special, Good, State.Canonical, Device.Canonical, GoodOut, Opt, Res, Fst, Snd, Both, GoodFound, GoodServe, GoodFillPlan, GoodGot]
theorem good_execVlog (a0 : BitVec 5) (a1 : BitVec 5) (a2 : Et) (a3 : BitVec 2) (a4 : State) (h4 : Good a4) : GoodOut (execVlog a0 a1 a2 a3 a4) := by
  unfold execVlog; grind [good_special, Good, State.Canonical, Device.Canonical, GoodOut, Opt, Res, Fst, Snd, Both, GoodFound, GoodServe, GoodFillPlan, GoodGot]
theorem good_execVlog2 (a0 : BitVec 5) (a1 : BitVec 5) (a2 : Et) (a3 : BitVec 2) (a4 : State) (h4 : Good a4) : GoodOut (execVlog2 a0 a1 a2 a3 a4) := by
  unfold execVlog2; grind [good_special, Good, State.Canonical, Device.Canonical, GoodOut, Opt, Res, Fst, Snd, Both, GoodFound, GoodServe, GoodFillPlan, GoodGot]
theorem good_execVtanh (a0 : BitVec 5) (a1 : BitVec 5) (a2 : Et) (a3 : BitVec 2) (a4 : State) (h4 : Good a4) : GoodOut (execVtanh a0 a1 a2 a3 a4) := by
  unfold execVtanh; grind [good_special, Good, State.Canonical, Device.Canonical, GoodOut, Opt, Res, Fst, Snd, Both, GoodFound, GoodServe, GoodFillPlan, GoodGot]
theorem good_execVsigm (a0 : BitVec 5) (a1 : BitVec 5) (a2 : Et) (a3 : BitVec 2) (a4 : State) (h4 : Good a4) : GoodOut (execVsigm a0 a1 a2 a3 a4) := by
  unfold execVsigm; grind [good_special, Good, State.Canonical, Device.Canonical, GoodOut, Opt, Res, Fst, Snd, Both, GoodFound, GoodServe, GoodFillPlan, GoodGot]
theorem good_execVsqrt (a0 : BitVec 5) (a1 : BitVec 5) (a2 : Et) (a3 : BitVec 2) (a4 : State) (h4 : Good a4) : GoodOut (execVsqrt a0 a1 a2 a3 a4) := by
  unfold execVsqrt; grind [good_vecFp, Good, State.Canonical, Device.Canonical, GoodOut, Opt, Res, Fst, Snd, Both, GoodFound, GoodServe, GoodFillPlan, GoodGot]
theorem good_execVdiv (a0 : BitVec 5) (a1 : BitVec 5) (a2 : BitVec 5) (a3 : Et) (a4 : BitVec 2) (a5 : State) (h5 : Good a5) : GoodOut (execVdiv a0 a1 a2 a3 a4 a5) := by
  unfold execVdiv; grind [good_vecFp, Good, State.Canonical, Device.Canonical, GoodOut, Opt, Res, Fst, Snd, Both, GoodFound, GoodServe, GoodFillPlan, GoodGot]
theorem good_State_cvtWrite (a0 : State) (a1 : BitVec 5) (a2 : Into) (a3 : Bool) (a4 : Nat) (a5 : Nat) (a6 : List Elem) (h0 : Good a0) : Good (State.cvtWrite a0 a1 a2 a3 a4 a5 a6) := by
  unfold State.cvtWrite; grind [good_State_setLfsr, good_State_raiseFlags, good_State_setV, Good, State.Canonical, Device.Canonical, GoodOut, Opt, Res, Fst, Snd, Both, GoodFound, GoodServe, GoodFillPlan, GoodGot]
theorem good_execVcvt (a0 : BitVec 5) (a1 : BitVec 5) (a2 : Et) (a3 : Et) (a4 : Bool) (a5 : BitVec 2) (a6 : State) (h6 : Good a6) : GoodOut (execVcvt a0 a1 a2 a3 a4 a5 a6) := by
  unfold execVcvt; grind [good_raise, good_withRows, good_finish, good_State_cvtWrite, Good, State.Canonical, Device.Canonical, GoodOut, Opt, Res, Fst, Snd, Both, GoodFound, GoodServe, GoodFillPlan, GoodGot]
theorem good_execVqnt (a0 : BitVec 5) (a1 : BitVec 5) (a2 : BitVec 5) (a3 : Et) (a4 : BitVec 2) (a5 : Bool) (a6 : State) (h6 : Good a6) : GoodOut (execVqnt a0 a1 a2 a3 a4 a5 a6) := by
  unfold execVqnt; grind [good_raise, good_withRows, good_finish, good_State_cvtWrite, Good, State.Canonical, Device.Canonical, GoodOut, Opt, Res, Fst, Snd, Both, GoodFound, GoodServe, GoodFillPlan, GoodGot]
theorem good_execVdqn (a0 : BitVec 5) (a1 : BitVec 5) (a2 : BitVec 5) (a3 : Et) (a4 : BitVec 2) (a5 : State) (h5 : Good a5) : GoodOut (execVdqn a0 a1 a2 a3 a4 a5) := by
  unfold execVdqn; grind [good_raise, good_withRows, good_finish, good_State_cvtWrite, Good, State.Canonical, Device.Canonical, GoodOut, Opt, Res, Fst, Snd, Both, GoodFound, GoodServe, GoodFillPlan, GoodGot]
theorem good_execVbaddq (a0 : BitVec 5) (a1 : BitVec 5) (a2 : BitVec 5) (a3 : BitVec 2) (a4 : State) (h4 : Good a4) : GoodOut (execVbaddq a0 a1 a2 a3 a4) := by
  unfold execVbaddq; grind [good_raise, good_withRows, good_finish, good_State_raiseFlags, good_State_setV, Good, State.Canonical, Device.Canonical, GoodOut, Opt, Res, Fst, Snd, Both, GoodFound, GoodServe, GoodFillPlan, GoodGot]
theorem good_execVperm (a0 : BitVec 5) (a1 : BitVec 5) (a2 : BitVec 5) (a3 : Et) (a4 : BitVec 2) (a5 : State) (h5 : Good a5) : GoodOut (execVperm a0 a1 a2 a3 a4 a5) := by
  unfold execVperm; grind [good_vecLanes, Good, State.Canonical, Device.Canonical, GoodOut, Opt, Res, Fst, Snd, Both, GoodFound, GoodServe, GoodFillPlan, GoodGot]
theorem good_execVbcast (a0 : BitVec 5) (a1 : BitVec 5) (a2 : Et) (a3 : BitVec 2) (a4 : State) (h4 : Good a4) : GoodOut (execVbcast a0 a1 a2 a3 a4) := by
  unfold execVbcast; grind [good_vecLanes, Good, State.Canonical, Device.Canonical, GoodOut, Opt, Res, Fst, Snd, Both, GoodFound, GoodServe, GoodFillPlan, GoodGot]
theorem good_execVbcastLane (a0 : BitVec 5) (a1 : BitVec 5) (a2 : BitVec 5) (a3 : Et) (a4 : BitVec 2) (a5 : State) (h5 : Good a5) : GoodOut (execVbcastLane a0 a1 a2 a3 a4 a5) := by
  unfold execVbcastLane; grind [good_raise, good_vecLanes, Good, State.Canonical, Device.Canonical, GoodOut, Opt, Res, Fst, Snd, Both, GoodFound, GoodServe, GoodFillPlan, GoodGot]
theorem good_execVbcastLaneHigh (a0 : BitVec 5) (a1 : BitVec 5) (a2 : BitVec 5) (a3 : Et) (a4 : BitVec 2) (a5 : State) (h5 : Good a5) : GoodOut (execVbcastLaneHigh a0 a1 a2 a3 a4 a5) := by
  unfold execVbcastLaneHigh; grind [good_raise, good_vecLanes, Good, State.Canonical, Device.Canonical, GoodOut, Opt, Res, Fst, Snd, Both, GoodFound, GoodServe, GoodFillPlan, GoodGot]
theorem good_State_redWrite (a0 : State) (a1 : BitVec 5) (a2 : Word) (a3 : Carried) (h0 : Good a0) : Good (State.redWrite a0 a1 a2 a3) := by
  unfold State.redWrite; grind [good_State_setLfsr, good_State_raiseFlags, good_State_setX, Good, State.Canonical, Device.Canonical, GoodOut, Opt, Res, Fst, Snd, Both, GoodFound, GoodServe, GoodFillPlan, GoodGot]
theorem good_execVreds (a0 : BitVec 5) (a1 : BitVec 5) (a2 : Et) (a3 : BitVec 2) (a4 : State) (h4 : Good a4) : GoodOut (execVreds a0 a1 a2 a3 a4) := by
  unfold execVreds; grind [good_withRows, good_finish, good_State_setX, good_State_redWrite, Good, State.Canonical, Device.Canonical, GoodOut, Opt, Res, Fst, Snd, Both, GoodFound, GoodServe, GoodFillPlan, GoodGot, good_foldl]
theorem good_vredm (a0 : Bool) (a1 : BitVec 5) (a2 : BitVec 5) (a3 : Et) (a4 : BitVec 2) (a5 : Bool) (a6 : State) (h6 : Good a6) : GoodOut (vredm a0 a1 a2 a3 a4 a5 a6) := by
  unfold vredm; grind [good_raise, good_withRows, good_finish, good_State_setX, good_State_redWrite, Good, State.Canonical, Device.Canonical, GoodOut, Opt, Res, Fst, Snd, Both, GoodFound, GoodServe, GoodFillPlan, GoodGot]
theorem good_execVredmMax (a0 : BitVec 5) (a1 : BitVec 5) (a2 : Et) (a3 : BitVec 2) (a4 : Bool) (a5 : State) (h5 : Good a5) : GoodOut (execVredmMax a0 a1 a2 a3 a4 a5) := by
  unfold execVredmMax; grind [good_vredm, Good, State.Canonical, Device.Canonical, GoodOut, Opt, Res, Fst, Snd, Both, GoodFound, GoodServe, GoodFillPlan, GoodGot]
theorem good_execVredmMin (a0 : BitVec 5) (a1 : BitVec 5) (a2 : Et) (a3 : BitVec 2) (a4 : Bool) (a5 : State) (h5 : Good a5) : GoodOut (execVredmMin a0 a1 a2 a3 a4 a5) := by
  unfold execVredmMin; grind [good_vredm, Good, State.Canonical, Device.Canonical, GoodOut, Opt, Res, Fst, Snd, Both, GoodFound, GoodServe, GoodFillPlan, GoodGot]
theorem good_execVtrn (a0 : AccT) (a1 : AccT) (a2 : Et) (a3 : State) (h3 : Good a3) : GoodOut (execVtrn a0 a1 a2 a3) := by
  unfold execVtrn; grind [good_withRows, good_finish, good_State_busy, good_State_setV, Good, State.Canonical, Device.Canonical, GoodOut, Opt, Res, Fst, Snd, Both, GoodFound, GoodServe, GoodFillPlan, GoodGot, good_foldl]
theorem good_execVgx (a0 : BitVec 5) (a1 : BitVec 5) (a2 : GDir) (a3 : State) (h3 : Good a3) : GoodOut (execVgx a0 a1 a2 a3) := by
  unfold execVgx; grind [good_raise, good_withRows, good_park, good_finish, good_State_busy, good_State_putHart, good_State_setV, Good, State.Canonical, Device.Canonical, GoodOut, Opt, Res, Fst, Snd, Both, GoodFound, GoodServe, GoodFillPlan, GoodGot]
theorem good_State_cacheRecord (a0 : State) (a1 : CapRec) (a2 : Nat) (a3 : List Word) (h0 : Good a0) : Good (State.cacheRecord a0 a1 a2 a3) := by
  unfold State.cacheRecord; grind [good_State_setTile, Good, State.Canonical, Device.Canonical, GoodOut, Opt, Res, Fst, Snd, Both, GoodFound, GoodServe, GoodFillPlan, GoodGot]
theorem good_State_shapeRecord (a0 : State) (a1 : CapRec) (a2 : Nat) (h0 : Good a0) : (Fst Good) (State.shapeRecord a0 a1 a2) := by
  unfold State.shapeRecord; grind [good_State_touch, good_State_cacheRecord, Good, State.Canonical, Device.Canonical, GoodOut, Opt, Res, Fst, Snd, Both, GoodFound, GoodServe, GoodFillPlan, GoodGot]
theorem good_State_tableOf (a0 : State) (a1 : CapRec) (a2 : Nat) (a3 : Nat) (a4 : Nat) (h0 : Good a0) : (Fst Good) (State.tableOf a0 a1 a2 a3 a4) := by
  unfold State.tableOf; grind [good_State_touch, good_State_setTile, Good, State.Canonical, Device.Canonical, GoodOut, Opt, Res, Fst, Snd, Both, GoodFound, GoodServe, GoodFillPlan, GoodGot]
theorem good_State_nextSeq (a0 : State) (h0 : Good a0) : (Snd Good) (State.nextSeq a0) := by
  unfold State.nextSeq; grind [good_State_setTile, Good, State.Canonical, Device.Canonical, GoodOut, Opt, Res, Fst, Snd, Both, GoodFound, GoodServe, GoodFillPlan, GoodGot]
theorem good_State_engineMerr (a0 : State) (a1 : Image) (a2 : Nat) (a3 : Tid) (a4 : Nat) (a5 : Option (BitVec 4)) (h0 : Good a0) : Good (State.engineMerr a0 a1 a2 a3 a4 a5) := by
  unfold State.engineMerr; grind [good_State_pend, good_State_bufferError, Good, State.Canonical, Device.Canonical, GoodOut, Opt, Res, Fst, Snd, Both, GoodFound, GoodServe, GoodFillPlan, GoodGot]
theorem good_State_notifyTask (a0 : State) (a1 : Tid) (a2 : Bool) (h0 : Good a0) : Good (State.notifyTask a0 a1 a2) := by
  unfold State.notifyTask; grind [good_State_modTask, Good, State.Canonical, Device.Canonical, GoodOut, Opt, Res, Fst, Snd, Both, GoodFound, GoodServe, GoodFillPlan, GoodGot]
theorem good_ggeoFrom (a0 : BitVec 3) (a1 : List Word) (a2 : State) (h2 : Good a2) : GoodOut (ggeoFrom a0 a1 a2) := by
  unfold ggeoFrom; grind [good_raise, good_finish, good_State_setOX, Good, State.Canonical, Device.Canonical, GoodOut, Opt, Res, Fst, Snd, Both, GoodFound, GoodServe, GoodFillPlan, GoodGot]
theorem good_execGgeoRng (a0 : BitVec 3) (a1 : BitVec 4) (a2 : BitVec 3) (a3 : State) (h3 : Good a3) : GoodOut (execGgeoRng a0 a1 a2 a3) := by
  unfold execGgeoRng; grind [good_raise, good_park, good_State_request, good_ggeoFrom, good_State_cacheRecord, good_State_shapeRecord, Good, State.Canonical, Device.Canonical, GoodOut, Opt, Res, Fst, Snd, Both, GoodFound, GoodServe, GoodFillPlan, GoodGot]
theorem good_execGgeoEdge (a0 : BitVec 3) (a1 : BitVec 3) (a2 : BitVec 5) (a3 : State) (h3 : Good a3) : GoodOut (execGgeoEdge a0 a1 a2 a3) := by
  unfold execGgeoEdge; grind [good_finish, good_State_setOX, Good, State.Canonical, Device.Canonical, GoodOut, Opt, Res, Fst, Snd, Both, GoodFound, GoodServe, GoodFillPlan, GoodGot]
theorem good_execOclm (a0 : BitVec 5) (a1 : BitVec 5) (a2 : Bool) (a3 : State) (h3 : Good a3) : GoodOut (execOclm a0 a1 a2 a3) := by
  unfold execOclm; grind [good_raise, good_park, good_finish, good_State_setX, good_State_setTile, Good, State.Canonical, Device.Canonical, GoodOut, Opt, Res, Fst, Snd, Both, GoodFound, GoodServe, GoodFillPlan, GoodGot]
theorem good_execOrel (a0 : BitVec 5) (a1 : State) (h1 : Good a1) : GoodOut (execOrel a0 a1) := by
  unfold execOrel; grind [good_raise, good_park, good_finish, good_State_setTile, Good, State.Canonical, Device.Canonical, GoodOut, Opt, Res, Fst, Snd, Both, GoodFound, GoodServe, GoodFillPlan, GoodGot, good_foldl]
theorem good_State_startFill (a0 : State) (a1 : Nat) (a2 : FillOp) (h0 : Good a0) : Good (State.startFill a0 a1 a2) := by
  unfold State.startFill; grind [good_State_schedule, good_State_modTile, good_State_sendSequenced, Good, State.Canonical, Device.Canonical, GoodOut, Opt, Res, Fst, Snd, Both, GoodFound, GoodServe, GoodFillPlan, GoodGot, good_foldl]
theorem good_State_startFills (a0 : State) (a1 : Nat) (h0 : Good a0) : Good (State.startFills a0 a1) := by
  unfold State.startFills; grind [good_State_startFill, Good, State.Canonical, Device.Canonical, GoodOut, Opt, Res, Fst, Snd, Both, GoodFound, GoodServe, GoodFillPlan, GoodGot, good_foldl]
theorem good_State_codebook (a0 : State) (a1 : CapRec) (a2 : BitVec 4) (a3 : Nat) (a4 : Side) (h0 : Good a0) : (Fst Good) (State.codebook a0 a1 a2 a3 a4) := by
  unfold State.codebook
  repeat' split
  all_goals grind [good_State_shapeRecord, good_State_tableOf, Good, State.Canonical, Device.Canonical, GoodOut, Opt, Res, Fst, Snd, Both, GoodFound, GoodServe, GoodFillPlan, GoodGot]
theorem good_State_planFill (a0 : State) (a1 : Nat) (a2 : BitVec 2) (a3 : BitVec 4) (a4 : BitVec 3) (a5 : BitVec 3) (a6 : Side) (a7 : Bool) (a8 : Bool) (h0 : Good a0) : GoodFillPlan (State.planFill a0 a1 a2 a3 a4 a5 a6 a7 a8) := by
  unfold State.planFill; grind [good_State_codebook, Good, State.Canonical, Device.Canonical, GoodOut, Opt, Res, Fst, Snd, Both, GoodFound, GoodServe, GoodFillPlan, GoodGot]
theorem good_State_forkFill (a0 : State) (a1 : FillOp) (h0 : Good a0) : Good (State.forkFill a0 a1) := by
  unfold State.forkFill; grind [good_State_nextSeq, good_State_forkRead, good_State_setTile, good_State_startFills, Good, State.Canonical, Device.Canonical, GoodOut, Opt, Res, Fst, Snd, Both, GoodFound, GoodServe, GoodFillPlan, GoodGot, good_foldl]

end Sys2Proof.Machine
end

