-- ==== Sys2Proof/Laws/KeptUnits.lean ====
section
/-!
SUPPORT. The matrix unit, the transfer engine and the events keep the canonical forms and always go on.
-/
namespace Sys2Proof.Machine

open Sys2Proof

set_option Elab.async false

theorem good_execOld (a0 : BitVec 3) (a1 : BitVec 2) (a2 : BitVec 4) (a3 : BitVec 3) (a4 : Side) (a5 : BitVec 3) (a6 : State) (h6 : Good a6) : GoodOut (execOld a0 a1 a2 a3 a4 a5 a6) := by
  unfold execOld; grind [good_State_planFill, good_raise, good_park, good_State_releaseWait, good_finish, good_State_forkFill, Good, State.Canonical, Device.Canonical, GoodOut, Opt, Res, Fst, Snd, Both, GoodFound, GoodServe, GoodFillPlan, GoodGot]
theorem good_State_writeRows (a0 : State) (a1 : Nat) (a2 : FillOp) (a3 : Nat → Nat) (h0 : Good a0) : Good (State.writeRows a0 a1 a2 a3) := by
  unfold State.writeRows; grind [good_State_modTile, Good, State.Canonical, Device.Canonical, GoodOut, Opt, Res, Fst, Snd, Both, GoodFound, GoodServe, GoodFillPlan, GoodGot, good_foldl]
theorem good_State_endFill (a0 : State) (a1 : Nat) (a2 : FillOp) (a3 : Bool) (h0 : Good a0) : Good (State.endFill a0 a1 a2 a3) := by
  unfold State.endFill; grind [good_State_modTile, good_State_settle, good_State_notifyTask, good_State_joinRead, Good, State.Canonical, Device.Canonical, GoodOut, Opt, Res, Fst, Snd, Both, GoodFound, GoodServe, GoodFillPlan, GoodGot, good_foldl]
theorem good_execOldJoin (a0 : Nat) (a1 : Nat) (a2 : Option LegError) (a3 : State) (h3 : Good a3) : GoodOut (execOldJoin a0 a1 a2 a3) := by
  unfold execOldJoin
  repeat' split
  all_goals grind [good_State_schedule, good_State_pend, good_State_endFill, good_State_writeRows, good_State_correctBuf, good_State_engineMerr, good_State_noteRawWalk, Good, State.Canonical, Device.Canonical, GoodOut, Opt, Res, Fst, Snd, Both, GoodFound, GoodServe, GoodFillPlan, GoodGot, good_foldl]
theorem good_State_acceptMatrix (a0 : State) (a1 : MatOp) (h0 : Good a0) : Good (State.acceptMatrix a0 a1) := by
  unfold State.acceptMatrix; grind [good_State_nextSeq, good_State_setTile, good_State_setHart, Good, State.Canonical, Device.Canonical, GoodOut, Opt, Res, Fst, Snd, Both, GoodFound, GoodServe, GoodFillPlan, GoodGot]
theorem good_acceptOrWait (a0 : MatOp) (a1 : Nat) (a2 : State) (h2 : Good a2) : GoodOut (acceptOrWait a0 a1 a2) := by
  unfold acceptOrWait; grind [good_park, good_holdForRamp, good_finish, good_State_acceptMatrix, Good, State.Canonical, Device.Canonical, GoodOut, Opt, Res, Fst, Snd, Both, GoodFound, GoodServe, GoodFillPlan, GoodGot]
theorem good_mul (a0 : MatKind) (a1 : AccT) (a2 : BitVec 2) (a3 : BitVec 2) (a4 : BitVec 3) (a5 : Bool) (a6 : BitVec 3) (a7 : BitVec 3) (a8 : State) (h8 : Good a8) : GoodOut (mul a0 a1 a2 a3 a4 a5 a6 a7 a8) := by
  unfold mul; grind [good_raise, good_acceptOrWait, Good, State.Canonical, Device.Canonical, GoodOut, Opt, Res, Fst, Snd, Both, GoodFound, GoodServe, GoodFillPlan, GoodGot]
theorem good_execMma (a0 : AccT) (a1 : BitVec 2) (a2 : BitVec 2) (a3 : BitVec 3) (a4 : Bool) (a5 : BitVec 3) (a6 : BitVec 3) (a7 : State) (h7 : Good a7) : GoodOut (execMma a0 a1 a2 a3 a4 a5 a6 a7) := by
  unfold execMma; grind [good_mul, Good, State.Canonical, Device.Canonical, GoodOut, Opt, Res, Fst, Snd, Both, GoodFound, GoodServe, GoodFillPlan, GoodGot]
theorem good_execMmap (a0 : AccT) (a1 : BitVec 2) (a2 : BitVec 2) (a3 : BitVec 3) (a4 : Bool) (a5 : BitVec 3) (a6 : BitVec 3) (a7 : State) (h7 : Good a7) : GoodOut (execMmap a0 a1 a2 a3 a4 a5 a6 a7) := by
  unfold execMmap; grind [good_mul, Good, State.Canonical, Device.Canonical, GoodOut, Opt, Res, Fst, Snd, Both, GoodFound, GoodServe, GoodFillPlan, GoodGot]
theorem good_execMzero (a0 : AccT) (a1 : Bool) (a2 : State) (h2 : Good a2) : GoodOut (execMzero a0 a1 a2) := by
  unfold execMzero; grind [good_acceptOrWait, Good, State.Canonical, Device.Canonical, GoodOut, Opt, Res, Fst, Snd, Both, GoodFound, GoodServe, GoodFillPlan, GoodGot]
theorem good_execMatrixOpStart (a0 : Nat) (a1 : State) (h1 : Good a1) : GoodOut (execMatrixOpStart a0 a1) := by
  unfold execMatrixOpStart; grind [good_State_schedule, good_State_putTile, Good, State.Canonical, Device.Canonical, GoodOut, Opt, Res, Fst, Snd, Both, GoodFound, GoodServe, GoodFillPlan, GoodGot]
theorem good_State_writeEnded (a0 : State) (a1 : Nat) (a2 : MatOp) (a3 : List Nat) (h0 : Good a0) : Good (State.writeEnded a0 a1 a2 a3) := by
  unfold State.writeEnded; exact good_State_modTile _ _ _ h0
theorem good_State_writeTile (a0 : State) (a1 : Nat) (a2 : MatOp) (a3 : List Nat) (h0 : Good a0) : Good (State.writeTile a0 a1 a2 a3) := by
  unfold State.writeTile; grind [good_State_putHart, good_State_writeEnded, Good, State.Canonical, Device.Canonical, GoodOut, Opt, Res, Fst, Snd, Both, GoodFound, GoodServe, GoodFillPlan, GoodGot]
theorem good_State_disarm (a0 : State) (a1 : MatOp) (h0 : Good a0) : Good (State.disarm a0 a1) := by
  unfold State.disarm; grind [good_State_modHart, Good, State.Canonical, Device.Canonical, GoodOut, Opt, Res, Fst, Snd, Both, GoodFound, GoodServe, GoodFillPlan, GoodGot]
theorem good_State_endMatrix (a0 : State) (a1 : Nat) (a2 : MatOp) (h0 : Good a0) : Good (State.endMatrix a0 a1 a2) := by
  unfold State.endMatrix; grind [good_State_modTile, good_State_settle, good_State_startFills, good_State_notifyTask, good_State_disarm, Good, State.Canonical, Device.Canonical, GoodOut, Opt, Res, Fst, Snd, Both, GoodFound, GoodServe, GoodFillPlan, GoodGot]
theorem good_execMatrixOpComplete (a0 : Nat) (a1 : List Upset) (a2 : State) (h2 : Good a2) : GoodOut (execMatrixOpComplete a0 a1 a2) := by
  unfold execMatrixOpComplete; grind [good_State_endMatrix, good_State_log, good_State_writeTile, good_State_schedule, good_State_putTile, good_State_pend, Good, State.Canonical, Device.Canonical, GoodOut, Opt, Res, Fst, Snd, Both, GoodFound, GoodServe, GoodFillPlan, GoodGot, good_foldl]
theorem good_execRampInterval (a0 : Nat) (a1 : State) (h1 : Good a1) : GoodOut (execRampInterval a0 a1) := by
  unfold execRampInterval; grind [good_State_modTile, Good, State.Canonical, Device.Canonical, GoodOut, Opt, Res, Fst, Snd, Both, GoodFound, GoodServe, GoodFillPlan, GoodGot]
theorem good_forkOrWait (a0 : State) (a1 : State → Out) (h0 : Good a0) (h1 : ∀ (y0 : State), Good y0 → GoodOut (a1 y0)) : GoodOut (forkOrWait a0 a1) := by
  unfold forkOrWait; grind [good_park, good_State_releaseWait, Good, State.Canonical, Device.Canonical, GoodOut, Opt, Res, Fst, Snd, Both, GoodFound, GoodServe, GoodFillPlan, GoodGot]
theorem good_State_setXfer (a0 : State) (a1 : Nat) (a2 : XferOp) (h0 : Good a0) : Good (State.setXfer a0 a1 a2) := by
  unfold State.setXfer; grind [good_State_modTile, Good, State.Canonical, Device.Canonical, GoodOut, Opt, Res, Fst, Snd, Both, GoodFound, GoodServe, GoodFillPlan, GoodGot]
theorem good_State_askPeer (a0 : State) (a1 : Nat) (a2 : XferOp) (a3 : Bool) (a4 : CapRec) (a5 : Nat) (a6 : Nat) (h0 : Good a0) : (Fst Good) (State.askPeer a0 a1 a2 a3 a4 a5 a6) := by
  have k : ∀ (l : List (Nat × Nat)) (f : State × XferOp → Nat × Nat → State × XferOp), (∀ a b, Good a.1 → Good (f a b).1) → ∀ a, Good a.1 → Good (l.foldl f a).1 := by
    intro l f hf
    induction l with
    | nil => intro a h; exact h
    | cons b l ih => intro a h; exact ih _ (hf _ _ h)
  unfold State.askPeer
  split
  · exact h0
  · unfold Fst
    refine k _ _ ?_ _ h0
    intro a b h
    exact good_State_sendSequenced _ _ _ _ _ _ _ _ h
theorem good_State_askFirst (a0 : State) (a1 : Nat) (a2 : XferOp) (h0 : Good a0) : (Fst Good) (State.askFirst a0 a1 a2) := by
  unfold State.askFirst; grind [good_State_askPeer, Good, State.Canonical, Device.Canonical, GoodOut, Opt, Res, Fst, Snd, Both, GoodFound, GoodServe, GoodFillPlan, GoodGot, good_foldl]
theorem good_State_forkXfer (a0 : State) (a1 : Nat) (a2 : XferOp) (a3 : List Image) (a4 : List Image) (h0 : Good a0) : Good (State.forkXfer a0 a1 a2 a3 a4) := by
  unfold State.forkXfer
  have k1 : Good (a3.foldl (fun (st : State) i => st.forkRead i a2.tid) a0) := good_foldl _ (fun _ _ h => good_State_forkRead _ _ _ h) h0
  have k2 := good_foldl (g := fun (st : State) i => st.forkWrite i a2.tid) a4 (fun _ _ h => good_State_forkWrite _ _ _ h) k1
  have k3 := fun o => good_State_putTile _ o k2
  dsimp only
  generalize List.foldl (fun (st : State) i => st.forkWrite i a2.tid) _ a4 = s at k3 ⊢
  have k4 := fun o p => good_State_askFirst _ a1 p (k3 o)
  generalize hq : State.askFirst _ a1 _ = q
  have k5 : Good q.1 := hq ▸ k4 _ _
  have k6 := good_State_setXfer _ a1 q.2 k5
  have k7 := good_foldl (g := fun (st : State) ch => st.schedule q.2.due (.scanUnitLeg a1 q.2.id ch)) q.2.units (fun _ _ h => good_State_schedule _ _ _ h) k6
  split
  · exact good_State_schedule _ _ _ k7
  · exact k7
  · exact good_foldl _ (fun _ _ h => good_State_schedule _ _ _ h) k7
theorem good_execCopy (a0 : BitVec 4) (a1 : BitVec 4) (a2 : BitVec 2) (a3 : BitVec 5) (a4 : Bool) (a5 : State) (h5 : Good a5) : GoodOut (execCopy a0 a1 a2 a3 a4 a5) := by
  unfold execCopy; grind [good_raise, good_park, good_forkOrWait, good_finish, good_State_forkXfer, Good, State.Canonical, Device.Canonical, GoodOut, Opt, Res, Fst, Snd, Both, GoodFound, GoodServe, GoodFillPlan, GoodGot]
theorem good_relocate (a0 : Bool) (a1 : BitVec 4) (a2 : BitVec 4) (a3 : Bool) (a4 : State) (h4 : Good a4) : GoodOut (relocate a0 a1 a2 a3 a4) := by
  unfold relocate
  split
  · exact good_raise _ _ h4
  · split
    · exact good_raise _ _ h4
    · split
      · exact good_raise _ _ h4
      · exact good_park _ _ h4
      · refine good_forkOrWait _ _ h4 (fun s hs => ?_)
        split
        · exact good_finish _ _ (good_State_forkXfer _ _ _ _ _ (good_State_setHandle _ _ _ (good_State_setHandle _ _ _ (good_State_clearWritten _ _ hs))))
        · split
          · exact good_park _ _ hs
          · exact good_finish _ _ (good_State_forkXfer _ _ _ _ _ (good_State_dropCached _ _ (good_State_setHandle _ _ _ (good_State_setHandle _ _ _ (good_State_putRec _ _ (good_State_putRec _ _ (good_State_scrub _ _ _ hs)))))))
theorem good_execCopyMove (a0 : BitVec 4) (a1 : BitVec 4) (a2 : Bool) (a3 : State) (h3 : Good a3) : GoodOut (execCopyMove a0 a1 a2 a3) := by
  unfold execCopyMove; grind [good_relocate, Good, State.Canonical, Device.Canonical, GoodOut, Opt, Res, Fst, Snd, Both, GoodFound, GoodServe, GoodFillPlan, GoodGot]
theorem good_execCopyAuto (a0 : BitVec 4) (a1 : BitVec 4) (a2 : Bool) (a3 : State) (h3 : Good a3) : GoodOut (execCopyAuto a0 a1 a2 a3) := by
  unfold execCopyAuto; grind [good_relocate, Good, State.Canonical, Device.Canonical, GoodOut, Opt, Res, Fst, Snd, Both, GoodFound, GoodServe, GoodFillPlan, GoodGot]
theorem good_copyPacketFrom (a0 : BitVec 4) (a1 : CapRec) (a2 : Nat) (a3 : List Word) (a4 : State) (h4 : Good a4) : GoodOut (copyPacketFrom a0 a1 a2 a3 a4) := by
  unfold copyPacketFrom; grind [good_raise, good_State_reject, good_park, good_finish, good_forkOrWait, good_State_forkXfer, Good, State.Canonical, Device.Canonical, GoodOut, Opt, Res, Fst, Snd, Both, GoodFound, GoodServe, GoodFillPlan, GoodGot]
theorem good_execCopyPkt (a0 : BitVec 4) (a1 : BitVec 5) (a2 : State) (h2 : Good a2) : GoodOut (execCopyPkt a0 a1 a2) := by
  unfold execCopyPkt; grind [good_State_find, good_raise, good_park, good_State_readOf, good_copyPacketFrom, Good, State.Canonical, Device.Canonical, GoodOut, Opt, Res, Fst, Snd, Both, GoodFound, GoodServe, GoodFillPlan, GoodGot]
theorem good_execCopym (a0 : BitVec 3) (a1 : BitVec 2) (a2 : BitVec 4) (a3 : BitVec 3) (a4 : Side) (a5 : BitVec 3) (a6 : BitVec 3) (a7 : Bool) (a8 : State) (h8 : Good a8) : GoodOut (execCopym a0 a1 a2 a3 a4 a5 a6 a7 a8) := by
  unfold execCopym; grind [good_State_planFill, good_raise, good_park, good_forkOrWait, good_finish, good_State_forkFill, good_holdForRamp, good_State_acceptMatrix, Good, State.Canonical, Device.Canonical, GoodOut, Opt, Res, Fst, Snd, Both, GoodFound, GoodServe, GoodFillPlan, GoodGot]
theorem good_execGath (a0 : BitVec 4) (a1 : BitVec 4) (a2 : BitVec 3) (a3 : Bool) (a4 : BitVec 4) (a5 : State) (h5 : Good a5) : GoodOut (execGath a0 a1 a2 a3 a4 a5) := by
  unfold execGath
  repeat' split
  all_goals grind [good_raise, good_park, good_forkOrWait, good_finish, good_State_forkXfer, Good, State.Canonical, Device.Canonical, GoodOut, Opt, Res, Fst, Snd, Both, GoodFound, GoodServe, GoodFillPlan, GoodGot]
theorem good_execFill (a0 : BitVec 4) (a1 : BitVec 2) (a2 : BitVec 5) (a3 : Bool) (a4 : State) (h4 : Good a4) : GoodOut (execFill a0 a1 a2 a3 a4) := by
  unfold execFill; grind [good_raise, good_park, good_forkOrWait, good_finish, good_State_forkXfer, Good, State.Canonical, Device.Canonical, GoodOut, Opt, Res, Fst, Snd, Both, GoodFound, GoodServe, GoodFillPlan, GoodGot]
theorem good_execSelt (a0 : BitVec 4) (a1 : BitVec 4) (a2 : BitVec 2) (a3 : Bool) (a4 : Bool) (a5 : State) (h5 : Good a5) : GoodOut (execSelt a0 a1 a2 a3 a4 a5) := by
  unfold execSelt; grind [good_raise, good_park, good_forkOrWait, good_finish, good_State_forkXfer, Good, State.Canonical, Device.Canonical, GoodOut, Opt, Res, Fst, Snd, Both, GoodFound, GoodServe, GoodFillPlan, GoodGot]
theorem good_execSrinv (a0 : BitVec 4) (a1 : BitVec 3) (a2 : State) (h2 : Good a2) : GoodOut (execSrinv a0 a1 a2) := by
  unfold execSrinv; grind [good_raise, good_park, good_finish, good_State_setTile, Good, State.Canonical, Device.Canonical, GoodOut, Opt, Res, Fst, Snd, Both, GoodFound, GoodServe, GoodFillPlan, GoodGot]
theorem good_execSrinvAll (a0 : State) (h0 : Good a0) : GoodOut (execSrinvAll a0) := by
  unfold execSrinvAll; grind [good_park, good_finish, good_State_setTile, Good, State.Canonical, Device.Canonical, GoodOut, Opt, Res, Fst, Snd, Both, GoodFound, GoodServe, GoodFillPlan, GoodGot]
theorem good_qappFrom (a0 : List Word) (a1 : BitVec 5) (a2 : Nat) (a3 : Bool) (a4 : List Word) (a5 : Nat) (a6 : State) (h6 : Good a6) : GoodOut (qappFrom a0 a1 a2 a3 a4 a5 a6) := by
  unfold qappFrom; grind [good_raise, good_State_reject, good_forkOrWait, good_State_claim, good_finish, good_State_busy, good_State_setX, good_State_forkXfer, Good, State.Canonical, Device.Canonical, GoodOut, Opt, Res, Fst, Snd, Both, GoodFound, GoodServe, GoodFillPlan, GoodGot]
theorem good_execQapp (a0 : BitVec 5) (a1 : BitVec 4) (a2 : BitVec 3) (a3 : BitVec 5) (a4 : Bool) (a5 : State) (h5 : Good a5) : GoodOut (execQapp a0 a1 a2 a3 a4 a5) := by
  unfold execQapp; grind [good_raise, good_readRecord, good_qappFrom, Good, State.Canonical, Device.Canonical, GoodOut, Opt, Res, Fst, Snd, Both, GoodFound, GoodServe, GoodFillPlan, GoodGot]
theorem good_State_legWrite (a0 : Nat) (a1 : CapRec) (a2 : Tid) (a3 : Nat) (a4 : Nat) (a5 : Nat) (a6 : List Byte) (a7 : State) (h7 : Good a7) : (Fst Good) (State.legWrite a0 a1 a2 a3 a4 a5 a6 a7) := by
  induction a4 generalizing a5 a6 a7 with
  | zero => exact h7
  | succ n ih =>
    unfold State.legWrite
    split
    · exact h7
    · dsimp only
      split
      · exact good_State_noteRawWalk _ _ _ _ h7
      · split
        · exact h7
        · rename_i hq
          have k := (congrArg (Opt (Fst Good)) hq).mp (good_State_shadowWrite _ _ _ h7)
          refine ih _ _ _ ?_
          split
          · exact good_State_postHost _ _ _ _ _ k
          · exact good_State_writeVia _ _ _ _ k
theorem good_State_writeBytes (a0 : State) (a1 : Nat) (a2 : XferOp) (a3 : CapRec) (a4 : Nat) (a5 : List Byte) (h0 : Good a0) : (Fst Good) (State.writeBytes a0 a1 a2 a3 a4 a5) := by
  unfold State.writeBytes; grind [good_State_legWrite, Good, State.Canonical, Device.Canonical, GoodOut, Opt, Res, Fst, Snd, Both, GoodFound, GoodServe, GoodFillPlan, GoodGot]
theorem good_State_flushBehind (a0 : State) (a1 : List Nat) (h0 : Good a0) : Good (State.flushBehind a0 a1) := by
  unfold State.flushBehind; grind [good_State_performPort, Good, State.Canonical, Device.Canonical, GoodOut, Opt, Res, Fst, Snd, Both, GoodFound, GoodServe, GoodFillPlan, GoodGot, good_foldl]
theorem good_State_endLeg (a0 : State) (a1 : Nat) (a2 : Nat) (a3 : Nat) (a4 : Nat) (h0 : Good a0) : Good (State.endLeg a0 a1 a2 a3 a4) := by
  unfold State.endLeg; grind [good_State_setXfer, good_State_joinWrite, good_State_poison, Good, State.Canonical, Device.Canonical, GoodOut, Opt, Res, Fst, Snd, Both, GoodFound, GoodServe, GoodFillPlan, GoodGot]
theorem good_State_failLeg (a0 : State) (a1 : Nat) (a2 : Nat) (a3 : Nat) (a4 : TrapInfo) (h0 : Good a0) : Good (State.failLeg a0 a1 a2 a3 a4) := by
  unfold State.failLeg; grind [good_State_pend, good_State_endLeg, Good, State.Canonical, Device.Canonical, GoodOut, Opt, Res, Fst, Snd, Both, GoodFound, GoodServe, GoodFillPlan, GoodGot]
theorem good_State_stopLeg (a0 : State) (a1 : Nat) (a2 : Nat) (a3 : Nat) (a4 : ReadStop) (h0 : Good a0) : Good (State.stopLeg a0 a1 a2 a3 a4) := by
  unfold State.stopLeg; grind [good_State_engineMerr, good_State_endLeg, good_State_failLeg, Good, State.Canonical, Device.Canonical, GoodOut, Opt, Res, Fst, Snd, Both, GoodFound, GoodServe, GoodFillPlan, GoodGot]
theorem good_State_sendLeg (a0 : State) (a1 : Nat) (a2 : XferOp) (a3 : Nat) (a4 : Leg) (a5 : CapRec) (a6 : List Byte) (h0 : Good a0) : Good (State.sendLeg a0 a1 a2 a3 a4 a5 a6) := by
  unfold State.sendLeg; grind [good_State_sendSequenced, Good, State.Canonical, Device.Canonical, GoodOut, Opt, Res, Fst, Snd, Both, GoodFound, GoodServe, GoodFillPlan, GoodGot, good_foldl]
theorem good_State_correctLeg (a0 : State) (a1 : XferOp) (a2 : Leg) (h0 : Good a0) : Good (State.correctLeg a0 a1 a2) := by
  unfold State.correctLeg; grind [good_State_correctBuf, Good, State.Canonical, Device.Canonical, GoodOut, Opt, Res, Fst, Snd, Both, GoodFound, GoodServe, GoodFillPlan, GoodGot, good_foldl]
theorem good_State_landLeg (a0 : State) (a1 : Nat) (a2 : Nat) (a3 : Nat) (a4 : XferOp) (a5 : Leg) (h0 : Good a0) : Good (State.landLeg a0 a1 a2 a3 a4 a5) := by
  unfold State.landLeg; grind [good_State_endLeg, good_State_pend, Good, State.Canonical, Device.Canonical, GoodOut, Opt, Res, Fst, Snd, Both, GoodFound, GoodServe, GoodFillPlan, GoodGot]
theorem good_State_noteRead (a0 : State) (a1 : Nat) (a2 : XferOp) (a3 : Leg) (a4 : LegData) (h0 : Good a0) : Good (State.noteRead a0 a1 a2 a3 a4) := by
  unfold State.noteRead; grind [good_State_correctLeg, good_State_noteRawWalk, Good, State.Canonical, Device.Canonical, GoodOut, Opt, Res, Fst, Snd, Both, GoodFound, GoodServe, GoodFillPlan, GoodGot]
theorem good_State_joinLeg (a0 : State) (a1 : Nat) (a2 : Nat) (a3 : Nat) (h0 : Good a0) : Good (State.joinLeg a0 a1 a2 a3) := by
  unfold State.joinLeg
  repeat' split
  all_goals grind [good_State_failLeg, good_State_landLeg, good_State_flushBehind, good_State_noteRead, good_State_stopLeg, good_State_sendLeg, good_State_setXfer, good_State_writeBytes, good_State_schedule, Good, State.Canonical, Device.Canonical, GoodOut, Opt, Res, Fst, Snd, Both, GoodFound, GoodServe, GoodFillPlan, GoodGot]
theorem good_State_writeCompletion (a0 : State) (a1 : Nat) (a2 : XferOp) (h0 : Good a0) : (Opt Good) (State.writeCompletion a0 a1 a2) := by
  unfold State.writeCompletion; grind [good_State_writeBytes, good_State_pend, good_State_poison, good_State_joinWrite, good_State_flushBehind, good_State_wakeProducers, good_State_entryWord0, Good, State.Canonical, Device.Canonical, GoodOut, Opt, Res, Fst, Snd, Both, GoodFound, GoodServe, GoodFillPlan, GoodGot]
theorem good_State_finishXfer (a0 : State) (a1 : Nat) (a2 : XferOp) (h0 : Good a0) : Good (State.finishXfer a0 a1 a2) := by
  unfold State.finishXfer; grind [good_State_writeCompletion, good_State_schedule, good_State_freeRoot, good_State_joinRead, good_State_modTile, good_State_settle, good_State_notifyTask, Good, State.Canonical, Device.Canonical, GoodOut, Opt, Res, Fst, Snd, Both, GoodFound, GoodServe, GoodFillPlan, GoodGot, good_foldl]
theorem good_State_askRows (a0 : State) (a1 : Nat) (a2 : XferOp) (h0 : Good a0) : (Opt Good) (State.askRows a0 a1 a2) := by
  have k : ∀ (l : List Int) (f : State × XferOp → Int → State × XferOp), (∀ a b, Good a.1 → Good (f a b).1) → ∀ a, Good a.1 → Good (l.foldl f a).1 := by
    intro l f hf
    induction l with
    | nil => intro a h; exact h
    | cons b l ih => intro a h; exact ih _ (hf _ _ h)
  unfold State.askRows
  split
  · split
    · trivial
    · dsimp only
      split
      · trivial
      · exact good_State_setXfer _ _ _ (k _ _ (fun a b h => good_State_askPeer _ _ _ _ _ _ _ h) _ h0)
  · trivial
theorem good_State_stepXfer (a0 : State) (a1 : Nat) (a2 : Nat) (h0 : Good a0) : Good (State.stepXfer a0 a1 a2) := by
  unfold State.stepXfer
  repeat' split
  all_goals grind [good_State_askRows, good_State_joinLeg, good_State_finishXfer, Good, State.Canonical, Device.Canonical, GoodOut, Opt, Res, Fst, Snd, Both, GoodFound, GoodServe, GoodFillPlan, GoodGot, good_foldl]
theorem good_execTransferJoin (a0 : Nat) (a1 : Nat) (a2 : State) (h2 : Good a2) : GoodOut (execTransferJoin a0 a1 a2) := by
  unfold execTransferJoin; grind [good_State_stepXfer, Good, State.Canonical, Device.Canonical, GoodOut, Opt, Res, Fst, Snd, Both, GoodFound, GoodServe, GoodFillPlan, GoodGot]
theorem good_execScanUnitLeg (a0 : Nat) (a1 : Nat) (a2 : Nat) (a3 : State) (h3 : Good a3) : GoodOut (execScanUnitLeg a0 a1 a2 a3) := by
  unfold execScanUnitLeg; grind [good_State_stepXfer, good_State_setXfer, Good, State.Canonical, Device.Canonical, GoodOut, Opt, Res, Fst, Snd, Both, GoodFound, GoodServe, GoodFillPlan, GoodGot]
theorem good_State_writePrefix (a0 : State) (a1 : Nat) (a2 : Nat) (a3 : Nat) (a4 : Nat) (h0 : Good a0) : Good (State.writePrefix a0 a1 a2 a3 a4) := by
  unfold State.writePrefix; grind [good_State_writeBytes, Good, State.Canonical, Device.Canonical, GoodOut, Opt, Res, Fst, Snd, Both, GoodFound, GoodServe, GoodFillPlan, GoodGot]
theorem good_execEngineLegError (a0 : Nat) (a1 : Nat) (a2 : Nat) (a3 : Nat) (a4 : LegError) (a5 : State) (h5 : Good a5) : GoodOut (execEngineLegError a0 a1 a2 a3 a4 a5) := by
  unfold execEngineLegError; grind [good_State_schedule, good_State_failLeg, good_State_writePrefix, good_State_modTile, good_State_finishXfer, Good, State.Canonical, Device.Canonical, GoodOut, Opt, Res, Fst, Snd, Both, GoodFound, GoodServe, GoodFillPlan, GoodGot, good_foldl]
theorem good_execQappEntryWrite (a0 : Nat) (a1 : Nat) (a2 : State) (h2 : Good a2) : GoodOut (execQappEntryWrite a0 a1 a2) := by
  unfold execQappEntryWrite; grind [good_State_finishXfer, good_State_fillEntry, Good, State.Canonical, Device.Canonical, GoodOut, Opt, Res, Fst, Snd, Both, GoodFound, GoodServe, GoodFillPlan, GoodGot]
theorem good_execHbind (a0 : BitVec 4) (a1 : BitVec 4) (a2 : BitVec 3) (a3 : State) (h3 : Good a3) : GoodOut (execHbind a0 a1 a2 a3) := by
  unfold execHbind; grind [good_raise, good_park, good_finish, good_State_clearWritten, good_State_setTile, Good, State.Canonical, Device.Canonical, GoodOut, Opt, Res, Fst, Snd, Both, GoodFound, GoodServe, GoodFillPlan, GoodGot]
theorem good_execMmd (a0 : BitVec 4) (a1 : AccT) (a2 : BitVec 4) (a3 : BitVec 3) (a4 : Bool) (a5 : BitVec 3) (a6 : BitVec 3) (a7 : State) (h7 : Good a7) : GoodOut (execMmd a0 a1 a2 a3 a4 a5 a6 a7) := by
  unfold execMmd; grind [good_raise, good_park, good_acceptOrWait, Good, State.Canonical, Device.Canonical, GoodOut, Opt, Res, Fst, Snd, Both, GoodFound, GoodServe, GoodFillPlan, GoodGot]
theorem good_execHkill (a0 : BitVec 4) (a1 : Bool) (a2 : State) (h2 : Good a2) : GoodOut (execHkill a0 a1 a2) := by
  unfold execHkill; grind [good_raise, good_park, good_finish, good_State_setTile, Good, State.Canonical, Device.Canonical, GoodOut, Opt, Res, Fst, Snd, Both, GoodFound, GoodServe, GoodFillPlan, GoodGot]
theorem good_execHstat (a0 : BitVec 5) (a1 : BitVec 4) (a2 : Bool) (a3 : State) (h3 : Good a3) : GoodOut (execHstat a0 a1 a2 a3) := by
  unfold execHstat; grind [good_park, good_finish, good_State_setX, Good, State.Canonical, Device.Canonical, GoodOut, Opt, Res, Fst, Snd, Both, GoodFound, GoodServe, GoodFillPlan, GoodGot]
theorem good_execHalo (a0 : BitVec 4) (a1 : BitVec 4) (a2 : BitVec 3) (a3 : Dir) (a4 : Bool) (a5 : State) (h5 : Good a5) : GoodOut (execHalo a0 a1 a2 a3 a4 a5) := by
  unfold execHalo
  repeat' split
  all_goals grind [good_raise, good_park, good_forkOrWait, good_State_schedule, good_State_forkXfer, Good, State.Canonical, Device.Canonical, GoodOut, Opt, Res, Fst, Snd, Both, GoodFound, GoodServe, GoodFillPlan, GoodGot]
theorem good_execHaloReceive (a0 : Nat) (a1 : Nat) (a2 : State) (h2 : Good a2) : GoodOut (execHaloReceive a0 a1 a2) := by
  unfold execHaloReceive
  repeat' split
  all_goals grind [good_State_schedule, good_State_putHart, good_State_modRec, good_State_bumpVersion, good_State_setXfer, good_State_finishXfer, Good, State.Canonical, Device.Canonical, GoodOut, Opt, Res, Fst, Snd, Both, GoodFound, GoodServe, GoodFillPlan, GoodGot]
theorem good_execHaloReply (a0 : Nat) (a1 : Nat) (a2 : State) (h2 : Good a2) : GoodOut (execHaloReply a0 a1 a2) := by
  unfold execHaloReply; grind [good_State_putHart, Good, State.Canonical, Device.Canonical, GoodOut, Opt, Res, Fst, Snd, Both, GoodFound, GoodServe, GoodFillPlan, GoodGot]
theorem good_State_swapPhase (a0 : State) (a1 : Image) (h0 : Good a0) : Good (State.swapPhase a0 a1) := by
  unfold State.swapPhase; grind [good_State_modRec, Good, State.Canonical, Device.Canonical, GoodOut, Opt, Res, Fst, Snd, Both, GoodFound, GoodServe, GoodFillPlan, GoodGot]
theorem good_State_releaseArrival (a0 : State) (a1 : Tid) (h0 : Good a0) : Good (State.releaseArrival a0 a1) := by
  unfold State.releaseArrival; grind [good_State_putTask, good_State_stopDonating, good_State_putHart, Good, State.Canonical, Device.Canonical, GoodOut, Opt, Res, Fst, Snd, Both, GoodFound, GoodServe, GoodFillPlan, GoodGot, good_foldl]
theorem good_State_releaseMember (a0 : State) (a1 : Tid) (a2 : Option Image) (h0 : Good a0) : Good (State.releaseMember a0 a1 a2) := by
  unfold State.releaseMember; grind [good_State_releaseArrival, good_State_swapPhase, good_State_modTask, Good, State.Canonical, Device.Canonical, GoodOut, Opt, Res, Fst, Snd, Both, GoodFound, GoodServe, GoodFillPlan, GoodGot]
theorem good_State_swapReady (a0 : State) (a1 : Image) (h0 : Good a0) : Good (State.swapReady a0 a1) := by
  unfold State.swapReady; grind [good_State_releaseArrival, good_State_swapPhase, Good, State.Canonical, Device.Canonical, GoodOut, Opt, Res, Fst, Snd, Both, GoodFound, GoodServe, GoodFillPlan, GoodGot, good_foldl]
theorem good_State_writeDeposit (a0 : State) (a1 : Nat) (a2 : Nat) (a3 : List Byte) (a4 : List (Nat × Nat)) (h0 : Good a0) : Good (State.writeDeposit a0 a1 a2 a3 a4) := by
  unfold State.writeDeposit; grind [good_State_writePhys, Good, State.Canonical, Device.Canonical, GoodOut, Opt, Res, Fst, Snd, Both, GoodFound, GoodServe, GoodFillPlan, GoodGot, good_foldl]
theorem good_execHaloDepositJoin (a0 : Nat) (a1 : Nat) (a2 : State) (h2 : Good a2) : GoodOut (execHaloDepositJoin a0 a1 a2) := by
  unfold execHaloDepositJoin; grind [good_State_correctBuf, good_State_writeDeposit, good_State_modRec, good_State_modTile, good_State_stopLeg, good_State_swapReady, good_State_finishXfer, Good, State.Canonical, Device.Canonical, GoodOut, Opt, Res, Fst, Snd, Both, GoodFound, GoodServe, GoodFillPlan, GoodGot]
theorem good_execMbox (a0 : BitVec 4) (a1 : BitVec 5) (a2 : State) (h2 : Good a2) : GoodOut (execMbox a0 a1 a2) := by
  unfold execMbox; grind [good_raise, good_finish, good_State_setX, Good, State.Canonical, Device.Canonical, GoodOut, Opt, Res, Fst, Snd, Both, GoodFound, GoodServe, GoodFillPlan, GoodGot]
theorem good_execMboxWait (a0 : BitVec 4) (a1 : BitVec 5) (a2 : State) (h2 : Good a2) : GoodOut (execMboxWait a0 a1 a2) := by
  unfold execMboxWait; grind [good_raise, good_finish, good_park, Good, State.Canonical, Device.Canonical, GoodOut, Opt, Res, Fst, Snd, Both, GoodFound, GoodServe, GoodFillPlan, GoodGot]
theorem good_State_arrive (a0 : State) (a1 : Launch) (a2 : Nat × Nat) (a3 : Nat) (a4 : Nat) (a5 : Option Image) (h0 : Good a0) : Good (State.arrive a0 a1 a2 a3 a4 a5) := by
  unfold State.arrive; grind [good_State_setTask, good_State_startReleases, good_State_putLaunch, Good, State.Canonical, Device.Canonical, GoodOut, Opt, Res, Fst, Snd, Both, GoodFound, GoodServe, GoodFillPlan, GoodGot]
theorem good_awaitRelease (a0 : State) (h0 : Good a0) : GoodOut (awaitRelease a0) := by
  unfold awaitRelease; grind [good_finish, good_State_setTask, good_park, good_State_donate, Good, State.Canonical, Device.Canonical, GoodOut, Opt, Res, Fst, Snd, Both, GoodFound, GoodServe, GoodFillPlan, GoodGot]
theorem good_barrier (a0 : Bool) (a1 : BitVec 4) (a2 : Bool) (a3 : BitVec 3) (a4 : BitVec 4) (a5 : State) (h5 : Good a5) : GoodOut (barrier a0 a1 a2 a3 a4 a5) := by
  unfold barrier; grind [good_raise, good_awaitRelease, good_park, good_State_releaseWait, good_State_arrive, good_finish, good_State_setTask, Good, State.Canonical, Device.Canonical, GoodOut, Opt, Res, Fst, Snd, Both, GoodFound, GoodServe, GoodFillPlan, GoodGot]
theorem good_execBara (a0 : BitVec 4) (a1 : Bool) (a2 : BitVec 3) (a3 : BitVec 4) (a4 : State) (h4 : Good a4) : GoodOut (execBara a0 a1 a2 a3 a4) := by
  unfold execBara; grind [good_barrier, Good, State.Canonical, Device.Canonical, GoodOut, Opt, Res, Fst, Snd, Both, GoodFound, GoodServe, GoodFillPlan, GoodGot]
theorem good_execBarw (a0 : State) (h0 : Good a0) : GoodOut (execBarw a0) := by
  unfold execBarw; grind [good_raise, good_awaitRelease, Good, State.Canonical, Device.Canonical, GoodOut, Opt, Res, Fst, Snd, Both, GoodFound, GoodServe, GoodFillPlan, GoodGot]
theorem good_execBar (a0 : BitVec 4) (a1 : Bool) (a2 : BitVec 3) (a3 : BitVec 4) (a4 : State) (h4 : Good a4) : GoodOut (execBar a0 a1 a2 a3 a4) := by
  unfold execBar; grind [good_barrier, Good, State.Canonical, Device.Canonical, GoodOut, Opt, Res, Fst, Snd, Both, GoodFound, GoodServe, GoodFillPlan, GoodGot]
theorem good_execBarrierRelease (a0 : Nat) (a1 : Subgroup) (a2 : State) (h2 : Good a2) : GoodOut (execBarrierRelease a0 a1 a2) := by
  unfold execBarrierRelease; grind [good_State_releaseMember, good_State_putLaunch, Good, State.Canonical, Device.Canonical, GoodOut, Opt, Res, Fst, Snd, Both, GoodFound, GoodServe, GoodFillPlan, GoodGot, good_foldl]
theorem good_execChannelWordArrival (a0 : Tid) (a1 : Dir) (a2 : State) (h2 : Good a2) : GoodOut (execChannelWordArrival a0 a1 a2) := by
  unfold execChannelWordArrival; grind [good_State_modTask, Good, State.Canonical, Device.Canonical, GoodOut, Opt, Res, Fst, Snd, Both, GoodFound, GoodServe, GoodFillPlan, GoodGot]
theorem good_execChannelCreditReturn (a0 : Tid) (a1 : Dir) (a2 : State) (h2 : Good a2) : GoodOut (execChannelCreditReturn a0 a1 a2) := by
  unfold execChannelCreditReturn; grind [good_State_modTask, Good, State.Canonical, Device.Canonical, GoodOut, Opt, Res, Fst, Snd, Both, GoodFound, GoodServe, GoodFillPlan, GoodGot]
theorem good_execNeighbourExitedFlag (a0 : Tid) (a1 : Dir) (a2 : State) (h2 : Good a2) : GoodOut (execNeighbourExitedFlag a0 a1 a2) := by
  unfold execNeighbourExitedFlag; grind [good_State_modTask, Good, State.Canonical, Device.Canonical, GoodOut, Opt, Res, Fst, Snd, Both, GoodFound, GoodServe, GoodFillPlan, GoodGot]
theorem good_inScanOrder (a0 : BitVec 2) (a1 : State → Out) (a2 : State) (h1 : ∀ (y0 : State), Good y0 → GoodOut (a1 y0)) (h2 : Good a2) : GoodOut (inScanOrder a0 a1 a2) := by
  unfold inScanOrder; grind [good_State_lineUp, good_park, Good, State.Canonical, Device.Canonical, GoodOut, Opt, Res, Fst, Snd, Both, GoodFound, GoodServe, GoodFillPlan, GoodGot]
theorem good_execScnb (a0 : BitVec 5) (a1 : BitVec 2) (a2 : State) (h2 : Good a2) : GoodOut (execScnb a0 a1 a2) := by
  unfold execScnb; grind [good_inScanOrder, good_raise, good_finish, good_State_putLaunch, good_State_setTask, Good, State.Canonical, Device.Canonical, GoodOut, Opt, Res, Fst, Snd, Both, GoodFound, GoodServe, GoodFillPlan, GoodGot]
theorem good_State_deliverRow (a0 : State) (a1 : BitVec 2) (a2 : ScanCtx) (a3 : ScanLine) (a4 : Row) (h0 : Good a0) : Good (State.deliverRow a0 a1 a2 a3 a4) := by
  unfold State.deliverRow; grind [good_State_modTask, Good, State.Canonical, Device.Canonical, GoodOut, Opt, Res, Fst, Snd, Both, GoodFound, GoodServe, GoodFillPlan, GoodGot]
theorem good_execScnp (a0 : BitVec 5) (a1 : BitVec 2) (a2 : State) (h2 : Good a2) : GoodOut (execScnp a0 a1 a2) := by
  unfold execScnp; grind [good_inScanOrder, good_raise, good_park, good_State_releaseWait, good_State_deliverRow, good_State_modLaunch, good_finish, good_State_setTask, Good, State.Canonical, Device.Canonical, GoodOut, Opt, Res, Fst, Snd, Both, GoodFound, GoodServe, GoodFillPlan, GoodGot]
theorem good_execScng (a0 : BitVec 5) (a1 : BitVec 2) (a2 : State) (h2 : Good a2) : GoodOut (execScng a0 a1 a2) := by
  unfold execScng; grind [good_inScanOrder, good_raise, good_park, good_State_donate, good_State_setV, good_State_putLaunch, good_finish, good_State_setTask, Good, State.Canonical, Device.Canonical, GoodOut, Opt, Res, Fst, Snd, Both, GoodFound, GoodServe, GoodFillPlan, GoodGot]
theorem good_execScne (a0 : BitVec 5) (a1 : BitVec 2) (a2 : State) (h2 : Good a2) : GoodOut (execScne a0 a1 a2) := by
  unfold execScne; grind [good_inScanOrder, good_raise, good_park, good_finish, good_State_setX, good_State_setTask, Good, State.Canonical, Device.Canonical, GoodOut, Opt, Res, Fst, Snd, Both, GoodFound, GoodServe, GoodFillPlan, GoodGot]
theorem good_execScneClose (a0 : BitVec 5) (a1 : BitVec 2) (a2 : State) (h2 : Good a2) : GoodOut (execScneClose a0 a1 a2) := by
  unfold execScneClose; grind [good_inScanOrder, good_raise, good_State_putLaunch, good_finish, good_State_setX, good_State_setTask, Good, State.Canonical, Device.Canonical, GoodOut, Opt, Res, Fst, Snd, Both, GoodFound, GoodServe, GoodFillPlan, GoodGot]
theorem good_State_lookAgain (a0 : State) (a1 : Tid) (a2 : Nat) (h0 : Good a0) : Good (State.lookAgain a0 a1 a2) := by
  unfold State.lookAgain; grind [good_State_focusOn, good_State_setHart, good_execScng, good_State_stopDonating, good_execScne, good_execScnp, Good, State.Canonical, Device.Canonical, GoodOut, Opt, Res, Fst, Snd, Both, GoodFound, GoodServe, GoodFillPlan, GoodGot]
theorem good_execScanCarryReady (a0 : Tid) (a1 : Nat) (a2 : State) (h2 : Good a2) : GoodOut (execScanCarryReady a0 a1 a2) := by
  unfold execScanCarryReady; grind [good_State_lookAgain, Good, State.Canonical, Device.Canonical, GoodOut, Opt, Res, Fst, Snd, Both, GoodFound, GoodServe, GoodFillPlan, GoodGot]
theorem good_execEpochClose (a0 : Tid) (a1 : Nat) (a2 : Nat) (a3 : State) (h3 : Good a3) : GoodOut (execEpochClose a0 a1 a2 a3) := by
  unfold execEpochClose; grind [good_State_lookAgain, Good, State.Canonical, Device.Canonical, GoodOut, Opt, Res, Fst, Snd, Both, GoodFound, GoodServe, GoodFillPlan, GoodGot, good_foldl]
theorem good_execLeavingMark (a0 : Tid) (a1 : Nat) (a2 : State) (h2 : Good a2) : GoodOut (execLeavingMark a0 a1 a2) := by
  unfold execLeavingMark; grind [good_State_lookAgain, Good, State.Canonical, Device.Canonical, GoodOut, Opt, Res, Fst, Snd, Both, GoodFound, GoodServe, GoodFillPlan, GoodGot, good_foldl]
theorem good_State_createSet (a0 : State) (a1 : SweepReq) (h0 : Good a0) : (Fst Good) (State.createSet a0 a1) := by
  unfold State.createSet; grind [good_State_modDie, Good, State.Canonical, Device.Canonical, GoodOut, Opt, Res, Fst, Snd, Both, GoodFound, GoodServe, GoodFillPlan, GoodGot]
theorem good_State_sweepArrive (a0 : State) (a1 : SweepReq) (h0 : Good a0) : Good (State.sweepArrive a0 a1) := by
  unfold State.sweepArrive
  repeat' split
  all_goals grind [good_State_done, good_State_setX, good_State_schedule, good_State_setHart, good_State_createSet, good_State_modDie, Good, State.Canonical, Device.Canonical, GoodOut, Opt, Res, Fst, Snd, Both, GoodFound, GoodServe, GoodFillPlan, GoodGot]
theorem good_sendSweep (a0 : SweepAct) (a1 : BitVec 5) (a2 : Word) (a3 : Word) (a4 : Word) (a5 : State) (h5 : Good a5) : GoodOut (sendSweep a0 a1 a2 a3 a4 a5) := by
  unfold sendSweep; grind [good_park, Good, State.Canonical, Device.Canonical, GoodOut, Opt, Res, Fst, Snd, Both, GoodFound, GoodServe, GoodFillPlan, GoodGot]
theorem good_sweepOp (a0 : SweepAct) (a1 : Bool) (a2 : BitVec 5) (a3 : Word) (a4 : Word) (a5 : Word) (a6 : State) (h6 : Good a6) : GoodOut (sweepOp a0 a1 a2 a3 a4 a5 a6) := by
  unfold sweepOp; grind [good_raise, good_park, good_sendSweep, Good, State.Canonical, Device.Canonical, GoodOut, Opt, Res, Fst, Snd, Both, GoodFound, GoodServe, GoodFillPlan, GoodGot]
theorem good_execSwcr (a0 : BitVec 5) (a1 : BitVec 3) (a2 : BitVec 5) (a3 : State) (h3 : Good a3) : GoodOut (execSwcr a0 a1 a2 a3) := by
  unfold execSwcr; grind [good_raise, good_sendSweep, Good, State.Canonical, Device.Canonical, GoodOut, Opt, Res, Fst, Snd, Both, GoodFound, GoodServe, GoodFillPlan, GoodGot]
theorem good_execSwadd (a0 : BitVec 5) (a1 : BitVec 3) (a2 : BitVec 5) (a3 : State) (h3 : Good a3) : GoodOut (execSwadd a0 a1 a2 a3) := by
  unfold execSwadd; grind [good_sweepOp, Good, State.Canonical, Device.Canonical, GoodOut, Opt, Res, Fst, Snd, Both, GoodFound, GoodServe, GoodFillPlan, GoodGot]
theorem good_execSwdel (a0 : BitVec 5) (a1 : State) (h1 : Good a1) : GoodOut (execSwdel a0 a1) := by
  unfold execSwdel; grind [good_sweepOp, Good, State.Canonical, Device.Canonical, GoodOut, Opt, Res, Fst, Snd, Both, GoodFound, GoodServe, GoodFillPlan, GoodGot]
theorem good_execSwnxt (a0 : BitVec 5) (a1 : BitVec 5) (a2 : State) (h2 : Good a2) : GoodOut (execSwnxt a0 a1 a2) := by
  unfold execSwnxt; grind [good_sweepOp, Good, State.Canonical, Device.Canonical, GoodOut, Opt, Res, Fst, Snd, Both, GoodFound, GoodServe, GoodFillPlan, GoodGot]
theorem good_execSwrpt (a0 : BitVec 5) (a1 : BitVec 5) (a2 : State) (h2 : Good a2) : GoodOut (execSwrpt a0 a1 a2) := by
  unfold execSwrpt; grind [good_sweepOp, Good, State.Canonical, Device.Canonical, GoodOut, Opt, Res, Fst, Snd, Both, GoodFound, GoodServe, GoodFillPlan, GoodGot]
theorem good_execSwset (a0 : BitVec 5) (a1 : BitVec 3) (a2 : BitVec 5) (a3 : State) (h3 : Good a3) : GoodOut (execSwset a0 a1 a2 a3) := by
  unfold execSwset; grind [good_sweepOp, Good, State.Canonical, Device.Canonical, GoodOut, Opt, Res, Fst, Snd, Both, GoodFound, GoodServe, GoodFillPlan, GoodGot]
theorem good_execSwsetNb (a0 : BitVec 3) (a1 : BitVec 5) (a2 : State) (h2 : Good a2) : GoodOut (execSwsetNb a0 a1 a2) := by
  unfold execSwsetNb; grind [good_sweepOp, Good, State.Canonical, Device.Canonical, GoodOut, Opt, Res, Fst, Snd, Both, GoodFound, GoodServe, GoodFillPlan, GoodGot]
theorem good_execSwnb (a0 : BitVec 5) (a1 : Bool) (a2 : BitVec 2) (a3 : BitVec 5) (a4 : State) (h4 : Good a4) : GoodOut (execSwnb a0 a1 a2 a3 a4) := by
  unfold execSwnb; grind [good_sweepOp, Good, State.Canonical, Device.Canonical, GoodOut, Opt, Res, Fst, Snd, Both, GoodFound, GoodServe, GoodFillPlan, GoodGot]
theorem good_execSwadv (a0 : BitVec 5) (a1 : BitVec 5) (a2 : State) (h2 : Good a2) : GoodOut (execSwadv a0 a1 a2) := by
  unfold execSwadv; grind [good_raise, good_park, good_State_releaseWait, good_sendSweep, Good, State.Canonical, Device.Canonical, GoodOut, Opt, Res, Fst, Snd, Both, GoodFound, GoodServe, GoodFillPlan, GoodGot]
theorem good_State_startAdvance (a0 : State) (a1 : Nat) (a2 : Calendar) (h0 : Good a0) : Good (State.startAdvance a0 a1 a2) := by
  unfold State.startAdvance; grind [good_State_schedule, good_State_modDie, Good, State.Canonical, Device.Canonical, GoodOut, Opt, Res, Fst, Snd, Both, GoodFound, GoodServe, GoodFillPlan, GoodGot]
theorem good_State_endSwadv (a0 : State) (a1 : Hart) (a2 : BitVec 5) (a3 : Word) (h0 : Good a0) : Good (State.endSwadv a0 a1 a2 a3) := by
  unfold State.endSwadv; grind [good_State_putHart, Good, State.Canonical, Device.Canonical, GoodOut, Opt, Res, Fst, Snd, Both, GoodFound, GoodServe, GoodFillPlan, GoodGot]
theorem good_execSweepRelease (a0 : Nat) (a1 : Nat) (a2 : State) (h2 : Good a2) : GoodOut (execSweepRelease a0 a1 a2) := by
  unfold execSweepRelease; grind [good_State_endSwadv, good_State_modDie, Good, State.Canonical, Device.Canonical, GoodOut, Opt, Res, Fst, Snd, Both, GoodFound, GoodServe, GoodFillPlan, GoodGot, good_foldl]
theorem good_runRepeated (a0 : Instr) (a1 : State) (h1 : Good a1) : GoodOut (runRepeated a0 a1) := by
  cases a0 with
  | add x0 x1 x2 => exact good_execAdd x0 x1 x2 _ h1
  | sub x0 x1 x2 => exact good_execSub x0 x1 x2 _ h1
  | min x0 x1 x2 => exact good_execMin x0 x1 x2 _ h1
  | max x0 x1 x2 => exact good_execMax x0 x1 x2 _ h1
  | minu x0 x1 x2 => exact good_execMinu x0 x1 x2 _ h1
  | maxu x0 x1 x2 => exact good_execMaxu x0 x1 x2 _ h1
  | slt x0 x1 x2 => exact good_execSlt x0 x1 x2 _ h1
  | sltu x0 x1 x2 => exact good_execSltu x0 x1 x2 _ h1
  | and x0 x1 x2 => exact good_execAnd x0 x1 x2 _ h1
  | or x0 x1 x2 => exact good_execOr x0 x1 x2 _ h1
  | xor x0 x1 x2 => exact good_execXor x0 x1 x2 _ h1
  | andn x0 x1 x2 => exact good_execAndn x0 x1 x2 _ h1
  | sel x0 x1 x2 => exact good_execSel x0 x1 x2 _ h1
  | sll x0 x1 x2 => exact good_execSll x0 x1 x2 _ h1
  | srl x0 x1 x2 => exact good_execSrl x0 x1 x2 _ h1
  | sra x0 x1 x2 => exact good_execSra x0 x1 x2 _ h1
  | clz x0 x1 => exact good_execClz x0 x1 _ h1
  | ctz x0 x1 => exact good_execCtz x0 x1 _ h1
  | popc x0 x1 => exact good_execPopc x0 x1 _ h1
  | mul x0 x1 x2 => exact good_execMul x0 x1 x2 _ h1
  | mulh x0 x1 x2 => exact good_execMulh x0 x1 x2 _ h1
  | mulhu x0 x1 x2 => exact good_execMulhu x0 x1 x2 _ h1
  | div x0 x1 x2 => exact good_execDiv x0 x1 x2 _ h1
  | divu x0 x1 x2 => exact good_execDivu x0 x1 x2 _ h1
  | rem x0 x1 x2 => exact good_execRem x0 x1 x2 _ h1
  | remu x0 x1 x2 => exact good_execRemu x0 x1 x2 _ h1
  | addi x0 x1 x2 => exact good_execAddi x0 x1 x2 _ h1
  | andi x0 x1 x2 => exact good_execAndi x0 x1 x2 _ h1
  | ori x0 x1 x2 => exact good_execOri x0 x1 x2 _ h1
  | xori x0 x1 x2 => exact good_execXori x0 x1 x2 _ h1
  | slli x0 x1 x2 => exact good_execSlli x0 x1 x2 _ h1
  | srli x0 x1 x2 => exact good_execSrli x0 x1 x2 _ h1
  | srai x0 x1 x2 => exact good_execSrai x0 x1 x2 _ h1
  | slti x0 x1 x2 => exact good_execSlti x0 x1 x2 _ h1
  | sltiu x0 x1 x2 => exact good_execSltiu x0 x1 x2 _ h1
  | fadd x0 x1 x2 x3 x4 => exact good_execFadd x0 x1 x2 x3 x4 _ h1
  | fsub x0 x1 x2 x3 x4 => exact good_execFsub x0 x1 x2 x3 x4 _ h1
  | fmul x0 x1 x2 x3 x4 => exact good_execFmul x0 x1 x2 x3 x4 _ h1
  | fma x0 x1 x2 x3 x4 => exact good_execFma x0 x1 x2 x3 x4 _ h1
  | fdiv x0 x1 x2 x3 x4 => exact good_execFdiv x0 x1 x2 x3 x4 _ h1
  | fsqrt x0 x1 x2 x3 => exact good_execFsqrt x0 x1 x2 x3 _ h1
  | fmin x0 x1 x2 x3 => exact good_execFmin x0 x1 x2 x3 _ h1
  | fmax x0 x1 x2 x3 => exact good_execFmax x0 x1 x2 x3 _ h1
  | fcmp x0 x1 x2 x3 x4 => exact good_execFcmp x0 x1 x2 x3 x4 _ h1
  | fcvt x0 x1 x2 x3 x4 => exact good_execFcvt x0 x1 x2 x3 x4 _ h1
  | fclass x0 x1 x2 => exact good_execFclass x0 x1 x2 _ h1
  | ldB x0 x1 x2 x3 => exact good_execLdB x0 x1 x2 x3 _ h1
  | ldBu x0 x1 x2 x3 => exact good_execLdBu x0 x1 x2 x3 _ h1
  | ldH x0 x1 x2 x3 => exact good_execLdH x0 x1 x2 x3 _ h1
  | ldHu x0 x1 x2 x3 => exact good_execLdHu x0 x1 x2 x3 _ h1
  | ldW x0 x1 x2 x3 => exact good_execLdW x0 x1 x2 x3 _ h1
  | ldWu x0 x1 x2 x3 => exact good_execLdWu x0 x1 x2 x3 _ h1
  | ldD x0 x1 x2 x3 => exact good_execLdD x0 x1 x2 x3 _ h1
  | ldv x0 x1 x2 x3 => exact good_execLdv x0 x1 x2 x3 _ h1
  | stB x0 x1 x2 x3 => exact good_execStB x0 x1 x2 x3 _ h1
  | stH x0 x1 x2 x3 => exact good_execStH x0 x1 x2 x3 _ h1
  | stW x0 x1 x2 x3 => exact good_execStW x0 x1 x2 x3 _ h1
  | stD x0 x1 x2 x3 => exact good_execStD x0 x1 x2 x3 _ h1
  | stv x0 x1 x2 x3 => exact good_execStv x0 x1 x2 x3 _ h1
  | stlW x0 x1 x2 x3 => exact good_execStlW x0 x1 x2 x3 _ h1
  | stlD x0 x1 x2 x3 => exact good_execStlD x0 x1 x2 x3 _ h1
  | vadd x0 x1 x2 x3 x4 => exact good_execVadd x0 x1 x2 x3 x4 _ h1
  | vsub x0 x1 x2 x3 x4 => exact good_execVsub x0 x1 x2 x3 x4 _ h1
  | vmul x0 x1 x2 x3 x4 => exact good_execVmul x0 x1 x2 x3 x4 _ h1
  | vfma x0 x1 x2 x3 x4 => exact good_execVfma x0 x1 x2 x3 x4 _ h1
  | vfnma x0 x1 x2 x3 x4 => exact good_execVfnma x0 x1 x2 x3 x4 _ h1
  | vmin x0 x1 x2 x3 x4 => exact good_execVmin x0 x1 x2 x3 x4 _ h1
  | vmax x0 x1 x2 x3 x4 => exact good_execVmax x0 x1 x2 x3 x4 _ h1
  | vabs x0 x1 x2 x3 => exact good_execVabs x0 x1 x2 x3 _ h1
  | vneg x0 x1 x2 x3 => exact good_execVneg x0 x1 x2 x3 _ h1
  | viadd x0 x1 x2 x3 x4 x5 => exact good_execViadd x0 x1 x2 x3 x4 x5 _ h1
  | visub x0 x1 x2 x3 x4 x5 => exact good_execVisub x0 x1 x2 x3 x4 x5 _ h1
  | vimul x0 x1 x2 x3 x4 x5 => exact good_execVimul x0 x1 x2 x3 x4 x5 _ h1
  | vimac x0 x1 x2 x3 x4 x5 => exact good_execVimac x0 x1 x2 x3 x4 x5 _ h1
  | vand x0 x1 x2 x3 x4 => exact good_execVand x0 x1 x2 x3 x4 _ h1
  | vor x0 x1 x2 x3 x4 => exact good_execVor x0 x1 x2 x3 x4 _ h1
  | vxor x0 x1 x2 x3 x4 => exact good_execVxor x0 x1 x2 x3 x4 _ h1
  | vshl x0 x1 x2 x3 x4 => exact good_execVshl x0 x1 x2 x3 x4 _ h1
  | vshr x0 x1 x2 x3 x4 => exact good_execVshr x0 x1 x2 x3 x4 _ h1
  | vsra x0 x1 x2 x3 x4 => exact good_execVsra x0 x1 x2 x3 x4 _ h1
  | vcmp x0 x1 x2 x3 x4 x5 x6 => exact good_execVcmp x0 x1 x2 x3 x4 x5 x6 _ h1
  | vsel x0 x1 x2 x3 x4 => exact good_execVsel x0 x1 x2 x3 x4 _ h1
  | vmskAnd x0 x1 x2 => exact good_execVmskAnd x0 x1 x2 _ h1
  | vmskOr x0 x1 x2 => exact good_execVmskOr x0 x1 x2 _ h1
  | vmskXor x0 x1 x2 => exact good_execVmskXor x0 x1 x2 _ h1
  | vmskAndn x0 x1 x2 => exact good_execVmskAndn x0 x1 x2 _ h1
  | vmskMov x0 x1 => exact good_execVmskMov x0 x1 _ h1
  | vmskGet x0 x1 => exact good_execVmskGet x0 x1 _ h1
  | vrcp x0 x1 x2 x3 => exact good_execVrcp x0 x1 x2 x3 _ h1
  | vrsq x0 x1 x2 x3 => exact good_execVrsq x0 x1 x2 x3 _ h1
  | vsqrt x0 x1 x2 x3 => exact good_execVsqrt x0 x1 x2 x3 _ h1
  | vdiv x0 x1 x2 x3 x4 => exact good_execVdiv x0 x1 x2 x3 x4 _ h1
  | vexp x0 x1 x2 x3 => exact good_execVexp x0 x1 x2 x3 _ h1
  | vexp2 x0 x1 x2 x3 => exact good_execVexp2 x0 x1 x2 x3 _ h1
  | vlog x0 x1 x2 x3 => exact good_execVlog x0 x1 x2 x3 _ h1
  | vlog2 x0 x1 x2 x3 => exact good_execVlog2 x0 x1 x2 x3 _ h1
  | vtanh x0 x1 x2 x3 => exact good_execVtanh x0 x1 x2 x3 _ h1
  | vsigm x0 x1 x2 x3 => exact good_execVsigm x0 x1 x2 x3 _ h1
  | vcvt x0 x1 x2 x3 x4 x5 => exact good_execVcvt x0 x1 x2 x3 x4 x5 _ h1
  | vqnt x0 x1 x2 x3 x4 x5 => exact good_execVqnt x0 x1 x2 x3 x4 x5 _ h1
  | vdqn x0 x1 x2 x3 x4 => exact good_execVdqn x0 x1 x2 x3 x4 _ h1
  | vbaddq x0 x1 x2 x3 => exact good_execVbaddq x0 x1 x2 x3 _ h1
  | vperm x0 x1 x2 x3 x4 => exact good_execVperm x0 x1 x2 x3 x4 _ h1
  | vbcast x0 x1 x2 x3 => exact good_execVbcast x0 x1 x2 x3 _ h1
  | vbcastLane x0 x1 x2 x3 x4 => exact good_execVbcastLane x0 x1 x2 x3 x4 _ h1
  | vbcastLaneHigh x0 x1 x2 x3 x4 => exact good_execVbcastLaneHigh x0 x1 x2 x3 x4 _ h1
  | vreds x0 x1 x2 x3 => exact good_execVreds x0 x1 x2 x3 _ h1
  | vredmMax x0 x1 x2 x3 x4 => exact good_execVredmMax x0 x1 x2 x3 x4 _ h1
  | vredmMin x0 x1 x2 x3 x4 => exact good_execVredmMin x0 x1 x2 x3 x4 _ h1
  | vtrn x0 x1 x2 => exact good_execVtrn x0 x1 x2 _ h1
  | vgx x0 x1 x2 => exact good_execVgx x0 x1 x2 _ h1
  | vmovi x0 x1 x2 => exact good_execVmovi x0 x1 x2 _ h1
  | vmuli x0 x1 x2 => exact good_execVmuli x0 x1 x2 _ h1
  | vaddi x0 x1 x2 => exact good_execVaddi x0 x1 x2 _ h1
  | _ => exact good_raise _ _ h1
theorem good_execRep (a0 : BitVec 6) (a1 : BitVec 3) (a2 : BitVec 2) (a3 : State) (h3 : Good a3) : GoodOut (execRep a0 a1 a2 a3) := by
  unfold execRep; grind [good_State_noteFetch, good_raise, good_runRepeated, good_State_setHart, Good, State.Canonical, Device.Canonical, GoodOut, Opt, Res, Fst, Snd, Both, GoodFound, GoodServe, GoodFillPlan, GoodGot]
theorem good_State_lookLater (a0 : State) (a1 : Nat) (h0 : Good a0) : Good (State.lookLater a0 a1) := by
  unfold State.lookLater; grind [good_State_schedule, Good, State.Canonical, Device.Canonical, GoodOut, Opt, Res, Fst, Snd, Both, GoodFound, GoodServe, GoodFillPlan, GoodGot]
theorem good_State_consume (a0 : State) (a1 : Nat) (a2 : Nat) (h0 : Good a0) : Good (State.consume a0 a1 a2) := by
  unfold State.consume; grind [good_State_stepRI, good_State_entryWord0, Good, State.Canonical, Device.Canonical, GoodOut, Opt, Res, Fst, Snd, Both, GoodFound, GoodServe, GoodFillPlan, GoodGot]
theorem good_State_rejectAt (a0 : State) (a1 : Nat) (a2 : Nat) (a3 : List Word) (h0 : Good a0) : Good (State.rejectAt a0 a1 a2 a3) := by
  unfold State.rejectAt; grind [good_State_consume, good_State_reject, Good, State.Canonical, Device.Canonical, GoodOut, Opt, Res, Fst, Snd, Both, GoodFound, GoodServe, GoodFillPlan, GoodGot]
theorem good_State_touchTable (a0 : State) (a1 : Nat) (a2 : List Word) (h0 : Good a0) : Good (State.touchTable a0 a1 a2) := by
  unfold State.touchTable; grind [good_State_touch, Good, State.Canonical, Device.Canonical, GoodOut, Opt, Res, Fst, Snd, Both, GoodFound, GoodServe, GoodFillPlan, GoodGot]
theorem good_State_refuseLaunch (a0 : State) (a1 : Nat) (a2 : Nat) (a3 : List Word) (a4 : Nat) (h0 : Good a0) : Good (State.refuseLaunch a0 a1 a2 a3 a4) := by
  unfold State.refuseLaunch; grind [good_State_stepRI, good_State_entryWord0, good_State_log, Good, State.Canonical, Device.Canonical, GoodOut, Opt, Res, Fst, Snd, Both, GoodFound, GoodServe, GoodFillPlan, GoodGot]
theorem good_State_lendBuffer (a0 : State) (a1 : Nat) (a2 : Tid) (a3 : Image) (h0 : Good a0) : (Opt (Snd Good)) (State.lendBuffer a0 a1 a2 a3) := by
  unfold State.lendBuffer; grind [good_State_modRec, good_State_putRec, Good, State.Canonical, Device.Canonical, GoodOut, Opt, Res, Fst, Snd, Both, GoodFound, GoodServe, GoodFillPlan, GoodGot]
theorem good_State_lendAll (a0 : State) (a1 : Nat) (a2 : Tid) (a3 : List Image) (h0 : Good a0) : (Opt (Snd Good)) (State.lendAll a0 a1 a2 a3) := by
  induction a3 generalizing a0 with
  | nil => exact h0
  | cons i is ih =>
    unfold State.lendAll
    have k := good_State_lendBuffer a0 a1 a2 i h0
    split
    · trivial
    · rename_i hq
      rw [hq] at k
      have k2 := ih _ k
      generalize State.lendAll _ a1 a2 is = q at k2
      cases q with
      | none => trivial
      | some r => exact k2
theorem good_State_startTileTask (a0 : State) (a1 : Nat) (a2 : Nat × Nat) (a3 : List Image) (h0 : Good a0) : (Opt Good) (State.startTileTask a0 a1 a2 a3) := by
  unfold State.startTileTask; grind [good_State_newTid, good_State_lendAll, good_State_admitRecord, good_State_modTask, good_State_modLaunch, Good, State.Canonical, Device.Canonical, GoodOut, Opt, Res, Fst, Snd, Both, GoodFound, GoodServe, GoodFillPlan, GoodGot]
theorem good_State_startTiles (a0 : State) (a1 : Nat) (a2 : Nat) (a3 : Nat) (a4 : List (List Image)) (h0 : Good a0) : (Opt Good) (State.startTiles a0 a1 a2 a3 a4) := by
  induction a4 generalizing a0 a3 with
  | nil => exact h0
  | cons b bs ih =>
    unfold State.startTiles
    have k := good_State_startTileTask a0 a1 (a3 / a2, a3 % a2) b h0
    split
    · trivial
    · rename_i hq
      rw [hq] at k
      exact ih _ _ k
theorem good_State_snapOf (a0 : State) (a1 : Launch) (a2 : Image) (h0 : Good a0) : (Opt Good) (State.snapOf a0 a1 a2) := by
  unfold State.snapOf; grind [good_State_modLaunch, good_State_correct, good_State_bufferError, good_State_writePhys, good_State_scrub, Good, State.Canonical, Device.Canonical, GoodOut, Opt, Res, Fst, Snd, Both, GoodFound, GoodServe, GoodFillPlan, GoodGot]
theorem good_State_snapAll (a0 : State) (a1 : Launch) (a2 : List Image) (h0 : Good a0) : (Opt Good) (State.snapAll a0 a1 a2) := by
  induction a2 generalizing a0 with
  | nil => exact h0
  | cons i l ih =>
    unfold State.snapAll
    have k := good_State_snapOf a0 a1 i h0
    split
    · trivial
    · rename_i t e
      rw [e] at k
      exact ih _ k
theorem popLend_img (s : State) (c : CapRec) (l : List (Option Nat × Tid)) (t : Tid) : (s.popLend c l t).img = c.img := by
  induction l generalizing t with
  | nil => rfl
  | cons p r ih =>
    obtain ⟨x, u⟩ := p
    unfold State.popLend
    split
    · rfl
    · exact ih u
theorem good_State_returnRecords (a0 : State) (a1 : Nat) (h0 : Good a0) : Good (State.returnRecords a0 a1) := by
  refine good_State_setQuire _ _ (quire_map (fun c => ?_) h0.1.2) h0
  repeat' split
  all_goals first | rfl | exact popLend_img _ _ _ _
theorem good_State_dropSeized (a0 : State) (h0 : Good a0) : Good (State.dropSeized a0) := by
  unfold State.dropSeized; grind [good_State_returnRecords, good_State_dispose, Good, State.Canonical, Device.Canonical, GoodOut, Opt, Res, Fst, Snd, Both, GoodFound, GoodServe, GoodFillPlan, GoodGot, good_foldl]
theorem good_State_acceptLaunch (a0 : State) (a1 : Launch) (h0 : Good a0) : (Opt Good) (State.acceptLaunch a0 a1) := by
  unfold State.acceptLaunch; grind [good_State_snapAll, good_State_putLaunch, good_State_modRec, good_State_schedule, good_State_startTiles, Good, State.Canonical, Device.Canonical, GoodOut, Opt, Res, Fst, Snd, Both, GoodFound, GoodServe, GoodFillPlan, GoodGot]
theorem good_execLaunch (a0 : Nat) (a1 : Nat) (a2 : State) (h2 : Good a2) : GoodOut (execLaunch a0 a1 a2) := by
  unfold execLaunch; grind [good_State_touchTable, good_State_dropSeized, good_State_refuseLaunch, good_State_lookLater, good_State_acceptLaunch, good_State_stepRI, Good, State.Canonical, Device.Canonical, GoodOut, Opt, Res, Fst, Snd, Both, GoodFound, GoodServe, GoodFillPlan, GoodGot]
theorem good_execTorusRestitch (a0 : Nat) (a1 : State) (h1 : Good a1) : GoodOut (execTorusRestitch a0 a1) := by
  unfold execTorusRestitch
  split
  · exact h1
  · rename_i k _
    split
    · split
      · exact good_State_schedule _ _ _ h1
      · exact good_State_schedule _ _ _ (good_State_putLaunch _ _ h1)
    · split
      · split
        · exact h1
        · split
          · rename_i hq
            obtain ⟨b, -, hb⟩ := Option.bind_eq_some_iff.1 hq
            exact (congrArg (Opt Good) hb).mp (good_State_startTiles _ _ _ _ _ (good_State_putLaunch _ _ h1))
          · exact good_State_schedule _ _ _ h1
      · exact h1
theorem good_State_replacePage (a0 : State) (a1 : Nat) (a2 : Nat) (h0 : Good a0) : Good (State.replacePage a0 a1 a2) := good_State_scrub _ _ _ (good_State_copyRange _ _ _ _ h0)
theorem good_State_dropShadow (a0 : State) (a1 : Nat) (h0 : Good a0) : Good (State.dropShadow a0 a1) := by
  unfold State.dropShadow; grind [good_State_scrub, Good, State.Canonical, Device.Canonical, GoodOut, Opt, Res, Fst, Snd, Both, GoodFound, GoodServe, GoodFillPlan, GoodGot]
theorem good_State_closeLaunch (a0 : State) (a1 : Launch) (a2 : Nat) (h0 : Good a0) : Good (State.closeLaunch a0 a1 a2) := by
  unfold State.closeLaunch; grind [good_State_scrub, good_State_returnRecords, good_State_wakeProducers, good_State_entryWord0, Good, State.Canonical, Device.Canonical, GoodOut, Opt, Res, Fst, Snd, Both, GoodFound, GoodServe, GoodFillPlan, GoodGot, good_foldl]
theorem good_execLaunchComplete (a0 : Nat) (a1 : State) (h1 : Good a1) : GoodOut (execLaunchComplete a0 a1) := by
  unfold execLaunchComplete; grind [good_State_replacePage, good_State_closeLaunch, Good, State.Canonical, Device.Canonical, GoodOut, Opt, Res, Fst, Snd, Both, GoodFound, GoodServe, GoodFillPlan, GoodGot, good_foldl]
theorem good_State_unqueue (a0 : State) (a1 : Tid) (h0 : Good a0) : Good (State.unqueue a0 a1) := by
  unfold State.unqueue; grind [good_State_takeRecord, good_State_modTile, Good, State.Canonical, Device.Canonical, GoodOut, Opt, Res, Fst, Snd, Both, GoodFound, GoodServe, GoodFillPlan, GoodGot, good_foldl]
theorem good_State_stopForReplay (a0 : State) (a1 : Task) (h0 : Good a0) : Good (State.stopForReplay a0 a1) := by
  unfold State.stopForReplay; grind [good_State_unqueue, good_State_abandonWait, good_State_putTask, Good, State.Canonical, Device.Canonical, GoodOut, Opt, Res, Fst, Snd, Both, GoodFound, GoodServe, GoodFillPlan, GoodGot, good_foldl]
theorem good_State_removeTask (a0 : State) (a1 : Launch) (a2 : Task) (h0 : Good a0) : Good (State.removeTask a0 a1 a2) := by
  unfold State.removeTask; grind [good_State_dispose, good_State_bounce, good_State_endStream, good_State_endDonations, good_State_putTask, Good, State.Canonical, Device.Canonical, GoodOut, Opt, Res, Fst, Snd, Both, GoodFound, GoodServe, GoodFillPlan, GoodGot, good_foldl]
theorem good_State_freeCreated (a0 : State) (a1 : List Image) (h0 : Good a0) : Good (State.freeCreated a0 a1) := by
  unfold State.freeCreated; grind [good_State_freeRoot, good_State_dropRec, Good, State.Canonical, Device.Canonical, GoodOut, Opt, Res, Fst, Snd, Both, GoodFound, GoodServe, GoodFillPlan, GoodGot, good_foldl]
theorem good_State_restoreBuffer (a0 : State) (a1 : Nat) (a2 : List Tid) (a3 : SnapBuffer) (h0 : Good a0) : Good (State.restoreBuffer a0 a1 a2 a3) := by
  unfold State.restoreBuffer; grind [good_State_dropRec, good_State_writePhys, good_State_scrub, good_State_correct, good_State_bufferError, good_State_dropStores, good_State_putRec, good_State_modRec, Good, State.Canonical, Device.Canonical, GoodOut, Opt, Res, Fst, Snd, Both, GoodFound, GoodServe, GoodFillPlan, GoodGot, good_foldl]
theorem good_State_reaccept (a0 : State) (a1 : Launch) (h0 : Good a0) : Good (State.reaccept a0 a1) := by
  unfold State.reaccept
  dsimp only
  cases a0.rec? a1.params with
  | none => exact good_State_schedule _ _ _ (good_State_putLaunch _ _ h0)
  | some pc =>
    dsimp only
    cases a0.launchTable a1.packet pc with
    | none => exact good_State_schedule _ _ _ (good_State_putLaunch _ _ h0)
    | some l =>
      have k := good_State_startTiles (a0.putLaunch { a1 with replayPending := false, restored := false }) a1.idx a1.cols 0 l (good_State_putLaunch _ _ h0)
      dsimp only [Option.bind_some]
      generalize State.startTiles _ a1.idx a1.cols 0 l = o at k ⊢
      cases o with
      | none => exact good_State_schedule _ _ _ (good_State_putLaunch _ _ h0)
      | some t => exact k
theorem good_execReplay (a0 : Nat) (a1 : State) (h1 : Good a1) : GoodOut (execReplay a0 a1) := by
  unfold execReplay
  split
  · exact h1
  · rename_i l _
    split
    · exact h1
    · split
      · exact good_State_reaccept _ _ h1
      · have k1 := good_foldl (g := fun (st : State) (t : Task) => st.flushTask t.tid) (a1.tasksOf a0) (fun _ _ h => good_State_flushTask _ _ h)
          (good_foldl (g := fun (st : State) t => st.stopForReplay t) (a1.tasksOf a0) (fun _ _ h => good_State_stopForReplay _ _ h) h1)
        dsimp only
        generalize List.foldl (fun (st : State) (t : Task) => st.flushTask t.tid) _ (a1.tasksOf a0) = s at k1 ⊢
        split
        · exact good_State_schedule _ _ _ k1
        · have k2 := good_foldl (g := fun (st : State) t => st.removeTask l t) (s.tasksOf a0) (fun _ _ h => good_State_removeTask _ _ _ h) k1
          have k3 := good_foldl (g := fun (st : State) (sh : Shadow) => st.dropShadow sh.copy) l.shadows (fun _ _ h => good_State_dropShadow _ _ h) k2
          have k4 := good_foldl (g := fun (st : State) b => st.restoreBuffer a0 ((s.tasksOf a0).map (·.tid)) b) l.snapshot (fun _ _ h => good_State_restoreBuffer _ _ _ _ h) (good_State_freeCreated _ l.created k3)
          have k5 := good_foldl (g := State.bumpVersion) ((l.snapshot.map (·.cap.root)).eraseDups) (fun _ _ h => good_State_bumpVersion _ _ h) k4
          generalize List.foldl State.bumpVersion _ _ = s at k5 ⊢
          split
          · exact good_State_reaccept _ _ (good_State_putLaunch _ _ k5)
          · exact good_State_closeLaunch _ _ _ (good_State_putLaunch _ _ (good_State_log _ _ _ _ _ _ _ k5))
theorem good_State_land (a0 : State) (a1 : Msg) (a2 : Landing) (h0 : Good a0) : Good (State.land a0 a1 a2) := by
  unfold State.land; grind [good_State_enterInbox, good_State_modTile, good_State_bounce, Good, State.Canonical, Device.Canonical, GoodOut, Opt, Res, Fst, Snd, Both, GoodFound, GoodServe, GoodFillPlan, GoodGot]
theorem good_execSignalPacket (a0 : Nat) (a1 : Nat) (a2 : State) (h2 : Good a2) : GoodOut (execSignalPacket a0 a1 a2) := by
  unfold execSignalPacket; grind [good_State_rejectAt, good_State_lookLater, good_State_consume, good_State_land, Good, State.Canonical, Device.Canonical, GoodOut, Opt, Res, Fst, Snd, Both, GoodFound, GoodServe, GoodFillPlan, GoodGot]
theorem good_execSpawnPacket (a0 : Nat) (a1 : Nat) (a2 : State) (h2 : Good a2) : GoodOut (execSpawnPacket a0 a1 a2) := by
  unfold execSpawnPacket; grind [good_State_rejectAt, good_State_lookLater, good_State_newTid, good_State_consume, good_State_spawnTask, Good, State.Canonical, Device.Canonical, GoodOut, Opt, Res, Fst, Snd, Both, GoodFound, GoodServe, GoodFillPlan, GoodGot]
theorem good_State_dropRingMsg (a0 : State) (a1 : Nat) (a2 : Nat) (h0 : Good a0) : Good (State.dropRingMsg a0 a1 a2) := by
  unfold State.dropRingMsg; grind [Good, State.Canonical, Device.Canonical, GoodOut, Opt, Res, Fst, Snd, Both, GoodFound, GoodServe, GoodFillPlan, GoodGot]
theorem good_State_returnRingMsg (a0 : State) (a1 : RingMsg) (a2 : List Word) (h0 : Good a0) : Good (State.returnRingMsg a0 a1 a2) := by
  unfold State.returnRingMsg; grind [good_State_bounce, Good, State.Canonical, Device.Canonical, GoodOut, Opt, Res, Fst, Snd, Both, GoodFound, GoodServe, GoodFillPlan, GoodGot]
theorem good_execCapabilityMessageConsume (a0 : Nat) (a1 : Nat) (a2 : State) (h2 : Good a2) : GoodOut (execCapabilityMessageConsume a0 a1 a2) := by
  unfold execCapabilityMessageConsume; grind [good_State_rejectAt, good_State_returnRingMsg, good_State_dropRingMsg, good_State_consume, good_State_lookLater, good_State_land, Good, State.Canonical, Device.Canonical, GoodOut, Opt, Res, Fst, Snd, Both, GoodFound, GoodServe, GoodFillPlan, GoodGot]
theorem good_execHostConsume (a0 : Nat) (a1 : Nat) (a2 : State) (h2 : Good a2) : GoodOut (execHostConsume a0 a1 a2) := by
  unfold execHostConsume; grind [good_State_consume, good_State_returnRingMsg, good_State_dropRingMsg, Good, State.Canonical, Device.Canonical, GoodOut, Opt, Res, Fst, Snd, Both, GoodFound, GoodServe, GoodFillPlan, GoodGot]
theorem good_execCopyPacketConsume (a0 : Nat) (a1 : Nat) (a2 : State) (h2 : Good a2) : GoodOut (execCopyPacketConsume a0 a1 a2) := by
  unfold execCopyPacketConsume; grind [good_State_consume, good_State_reject, good_State_lookLater, good_State_stepRI, good_State_forkXfer, Good, State.Canonical, Device.Canonical, GoodOut, Opt, Res, Fst, Snd, Both, GoodFound, GoodServe, GoodFillPlan, GoodGot]
theorem good_execQueueConsume (a0 : Nat) (a1 : State) (h1 : Good a1) : GoodOut (execQueueConsume a0 a1) := by
  unfold execQueueConsume; grind [good_State_touchRing, good_State_schedule, good_State_rejectAt, good_State_consume, good_State_reject, good_State_lookLater, Good, State.Canonical, Device.Canonical, GoodOut, Opt, Res, Fst, Snd, Both, GoodFound, GoodServe, GoodFillPlan, GoodGot]
theorem good_execQueueViewCreate (a0 : Nat) (a1 : BitVec 14) (a2 : State) (h2 : Good a2) : GoodOut (execQueueViewCreate a0 a1 a2) := by
  unfold execQueueViewCreate; grind [good_State_putRec, Good, State.Canonical, Device.Canonical, GoodOut, Opt, Res, Fst, Snd, Both, GoodFound, GoodServe, GoodFillPlan, GoodGot]
theorem good_State_endWait (a0 : State) (a1 : Hart) (h0 : Good a0) : Good (State.endWait a0 a1) := by
  unfold State.endWait; grind [good_State_stopDonating, good_State_putHart, Good, State.Canonical, Device.Canonical, GoodOut, Opt, Res, Fst, Snd, Both, GoodFound, GoodServe, GoodFillPlan, GoodGot]
theorem good_execWaitConditionMet (a0 : Tid) (a1 : Nat) (a2 : State) (h2 : Good a2) : GoodOut (execWaitConditionMet a0 a1 a2) := by
  unfold execWaitConditionMet; grind [good_State_endWait, Good, State.Canonical, Device.Canonical, GoodOut, Opt, Res, Fst, Snd, Both, GoodFound, GoodServe, GoodFillPlan, GoodGot]
theorem good_execTaskRequeue (a0 : Tid) (a1 : State) (h1 : Good a1) : GoodOut (execTaskRequeue a0 a1) := by
  unfold execTaskRequeue; grind [good_State_pushRecord, Good, State.Canonical, Device.Canonical, GoodOut, Opt, Res, Fst, Snd, Both, GoodFound, GoodServe, GoodFillPlan, GoodGot]
theorem good_State_leaveWheel (a0 : State) (a1 : Nat) (a2 : Tid) (h0 : Good a0) : Good (State.leaveWheel a0 a1 a2) := by
  unfold State.leaveWheel; grind [good_State_modDie, Good, State.Canonical, Device.Canonical, GoodOut, Opt, Res, Fst, Snd, Both, GoodFound, GoodServe, GoodFillPlan, GoodGot]
theorem good_execDequePlaceFreed (a0 : Nat) (a1 : State) (h1 : Good a1) : GoodOut (execDequePlaceFreed a0 a1) := by
  unfold execDequePlaceFreed; grind [good_State_enterDeque, good_State_modTile, good_State_endWait, good_State_leaveWheel, Good, State.Canonical, Device.Canonical, GoodOut, Opt, Res, Fst, Snd, Both, GoodFound, GoodServe, GoodFillPlan, GoodGot]
theorem good_State_releaseTimed (a0 : State) (a1 : Nat) (a2 : Timed) (h0 : Good a0) : Good (State.releaseTimed a0 a1 a2) := by
  unfold State.releaseTimed; grind [good_State_modDie, good_State_pushRecord, good_State_leaveWheel, Good, State.Canonical, Device.Canonical, GoodOut, Opt, Res, Fst, Snd, Both, GoodFound, GoodServe, GoodFillPlan, GoodGot]
theorem good_execTimerTick (a0 : Nat) (a1 : State) (h1 : Good a1) : GoodOut (execTimerTick a0 a1) := by
  unfold execTimerTick; grind [good_State_releaseTimed, Good, State.Canonical, Device.Canonical, GoodOut, Opt, Res, Fst, Snd, Both, GoodFound, GoodServe, GoodFillPlan, GoodGot, good_foldl]
theorem good_execPtpStep (a0 : Nat) (a1 : State) (h1 : Good a1) : GoodOut (execPtpStep a0 a1) := by
  unfold execPtpStep; grind [Good, State.Canonical, Device.Canonical, GoodOut, Opt, Res, Fst, Snd, Both, GoodFound, GoodServe, GoodFillPlan, GoodGot]
theorem good_execPtpLockLost (a0 : Word) (a1 : State) (h1 : Good a1) : GoodOut (execPtpLockLost a0 a1) := by
  unfold execPtpLockLost; grind [good_State_log, Good, State.Canonical, Device.Canonical, GoodOut, Opt, Res, Fst, Snd, Both, GoodFound, GoodServe, GoodFillPlan, GoodGot]
theorem good_State_ownHandles (a0 : State) (a1 : Tid) (a2 : List Nat) (h0 : Good a0) : Good (State.ownHandles a0 a1 a2) := by
  unfold State.ownHandles; grind [good_State_modRec, Good, State.Canonical, Device.Canonical, GoodOut, Opt, Res, Fst, Snd, Both, GoodFound, GoodServe, GoodFillPlan, GoodGot, good_foldl]
theorem good_State_readFrame (a0 : State) (a1 : Tid) (a2 : Nat) (a3 : Nat) (h0 : Good a0) : Good (State.readFrame a0 a1 a2 a3) := by
  unfold State.readFrame; grind [good_State_correct, good_State_pend, good_State_log, Good, State.Canonical, Device.Canonical, GoodOut, Opt, Res, Fst, Snd, Both, GoodFound, GoodServe, GoodFillPlan, GoodGot]
theorem good_State_occupy (a0 : State) (a1 : Nat) (a2 : Nat) (a3 : TaskRec) (a4 : Bool) (a5 : Nat) (h0 : Good a0) : Good (State.occupy a0 a1 a2 a3 a4 a5) := by
  unfold State.occupy; grind [good_State_readFrame, good_State_modTask, good_State_modHart, good_State_ownHandles, good_State_putHart, Good, State.Canonical, Device.Canonical, GoodOut, Opt, Res, Fst, Snd, Both, GoodFound, GoodServe, GoodFillPlan, GoodGot, good_foldl]
theorem good_execSlotChoice (a0 : Nat) (a1 : Nat) (a2 : State) (h2 : Good a2) : GoodOut (execSlotChoice a0 a1 a2) := by
  unfold execSlotChoice; grind [good_State_occupy, good_State_modTile, good_State_takeRecord, Good, State.Canonical, Device.Canonical, GoodOut, Opt, Res, Fst, Snd, Both, GoodFound, GoodServe, GoodFillPlan, GoodGot]
theorem good_execRotationBoundary (a0 : Nat) (a1 : State) (h1 : Good a1) : GoodOut (execRotationBoundary a0 a1) := by
  unfold execRotationBoundary; grind [good_State_putTile, Good, State.Canonical, Device.Canonical, GoodOut, Opt, Res, Fst, Snd, Both, GoodFound, GoodServe, GoodFillPlan, GoodGot]
theorem good_execShareWindowStart (a0 : Nat) (a1 : State) (h1 : Good a1) : GoodOut (execShareWindowStart a0 a1) := by
  unfold execShareWindowStart; grind [good_State_modDie, good_State_modTile, Good, State.Canonical, Device.Canonical, GoodOut, Opt, Res, Fst, Snd, Both, GoodFound, GoodServe, GoodFillPlan, GoodGot, good_foldl]
theorem good_State_atStream0 (a0 : State) (a1 : Tid) (a2 : Hart) (h0 : Good a0) : (Opt Good) (State.atStream0 a0 a1 a2) := by
  unfold State.atStream0; grind [good_State_focusOn, good_State_stopDonating, good_State_abandonWait, Good, State.Canonical, Device.Canonical, GoodOut, Opt, Res, Fst, Snd, Both, GoodFound, GoodServe, GoodFillPlan, GoodGot]
theorem good_execBudg (a0 : Tid) (a1 : State) (h1 : Good a1) : GoodOut (execBudg a0 a1) := by
  unfold execBudg; grind [good_State_atStream0, good_raise, good_State_setTask, Good, State.Canonical, Device.Canonical, GoodOut, Opt, Res, Fst, Snd, Both, GoodFound, GoodServe, GoodFillPlan, GoodGot]
theorem good_execWdog (a0 : Tid) (a1 : State) (h1 : Good a1) : GoodOut (execWdog a0 a1) := by
  unfold execWdog; grind [good_State_atStream0, good_raise, good_State_setTask, Good, State.Canonical, Device.Canonical, GoodOut, Opt, Res, Fst, Snd, Both, GoodFound, GoodServe, GoodFillPlan, GoodGot]
theorem good_State_takeSeiz (a0 : State) (h0 : Good a0) : Good (State.takeSeiz a0) := by
  unfold State.takeSeiz; grind [good_State_takeTrap, good_State_setTask, good_State_setHart, Good, State.Canonical, Device.Canonical, GoodOut, Opt, Res, Fst, Snd, Both, GoodFound, GoodServe, GoodFillPlan, GoodGot]
theorem good_execUserEvent (a0 : Tid) (a1 : State) (h1 : Good a1) : GoodOut (execUserEvent a0 a1) := by
  unfold execUserEvent; grind [good_State_atStream0, good_State_setTask, good_State_setHart, Good, State.Canonical, Device.Canonical, GoodOut, Opt, Res, Fst, Snd, Both, GoodFound, GoodServe, GoodFillPlan, GoodGot]
theorem good_State_askNext (a0 : State) (a1 : Nat) (a2 : List Nat) (h0 : Good a0) : Good (State.askNext a0 a1 a2) := by
  unfold State.askNext; grind [good_State_modTile, good_State_schedule, Good, State.Canonical, Device.Canonical, GoodOut, Opt, Res, Fst, Snd, Both, GoodFound, GoodServe, GoodFillPlan, GoodGot]
theorem good_execStealRound (a0 : Nat) (a1 : List Nat) (a2 : State) (h2 : Good a2) : GoodOut (execStealRound a0 a1 a2) := by
  unfold execStealRound; grind [good_State_askNext, Good, State.Canonical, Device.Canonical, GoodOut, Opt, Res, Fst, Snd, Both, GoodFound, GoodServe, GoodFillPlan, GoodGot]
theorem good_execStealRequest (a0 : Nat) (a1 : Nat) (a2 : Bool) (a3 : State) (h3 : Good a3) : GoodOut (execStealRequest a0 a1 a2 a3) := by
  unfold execStealRequest; grind [good_State_schedule, good_State_modTile, Good, State.Canonical, Device.Canonical, GoodOut, Opt, Res, Fst, Snd, Both, GoodFound, GoodServe, GoodFillPlan, GoodGot]
theorem good_State_takeOffer (a0 : State) (a1 : Nat) (a2 : Nat) (a3 : Queued) (h0 : Good a0) : Good (State.takeOffer a0 a1 a2 a3) := by
  unfold State.takeOffer; grind [good_State_modTile, good_State_takeRecord, good_State_pushRecord, good_State_modTask, Good, State.Canonical, Device.Canonical, GoodOut, Opt, Res, Fst, Snd, Both, GoodFound, GoodServe, GoodFillPlan, GoodGot]
theorem good_execStealOffer (a0 : Nat) (a1 : Nat) (a2 : Tid) (a3 : State) (h3 : Good a3) : GoodOut (execStealOffer a0 a1 a2 a3) := by
  unfold execStealOffer; grind [good_State_schedule, good_State_takeOffer, good_State_askNext, good_State_modTile, Good, State.Canonical, Device.Canonical, GoodOut, Opt, Res, Fst, Snd, Both, GoodFound, GoodServe, GoodFillPlan, GoodGot]
theorem good_State_passOn (a0 : State) (a1 : Task) (a2 : Nat) (h0 : Good a0) : Good (State.passOn a0 a1 a2) := by
  unfold State.passOn; grind [good_State_schedule, Good, State.Canonical, Device.Canonical, GoodOut, Opt, Res, Fst, Snd, Both, GoodFound, GoodServe, GoodFillPlan, GoodGot, good_foldl]
theorem good_execDonationArrival (a0 : Tid) (a1 : Tid) (a2 : Nat) (a3 : Nat) (a4 : State) (h4 : Good a4) : GoodOut (execDonationArrival a0 a1 a2 a3 a4) := by
  unfold execDonationArrival; grind [good_State_modRecord, good_State_putTask, good_State_passOn, Good, State.Canonical, Device.Canonical, GoodOut, Opt, Res, Fst, Snd, Both, GoodFound, GoodServe, GoodFillPlan, GoodGot]
theorem good_execLoadResponse (a0 : Tid) (a1 : Nat) (a2 : State) (h2 : Good a2) : GoodOut (execLoadResponse a0 a1 a2) := by
  unfold execLoadResponse; grind [good_State_modHart, Good, State.Canonical, Device.Canonical, GoodOut, Opt, Res, Fst, Snd, Both, GoodFound, GoodServe, GoodFillPlan, GoodGot]
theorem good_execHomePerform (a0 : Nat) (a1 : State) (h1 : Good a1) : GoodOut (execHomePerform a0 a1) := by
  unfold execHomePerform; grind [good_State_performHost, Good, State.Canonical, Device.Canonical, GoodOut, Opt, Res, Fst, Snd, Both, GoodFound, GoodServe, GoodFillPlan, GoodGot]
theorem good_execFlushPacket (a0 : Nat) (a1 : State) (h1 : Good a1) : GoodOut (execFlushPacket a0 a1) := by
  unfold execFlushPacket; grind [good_State_performPort, Good, State.Canonical, Device.Canonical, GoodOut, Opt, Res, Fst, Snd, Both, GoodFound, GoodServe, GoodFillPlan, GoodGot]
theorem good_State_drainRun (a0 : State) (a1 : SbEntry) (a2 : Nat × Nat) (h0 : Good a0) : Good (State.drainRun a0 a1 a2) := by
  unfold State.drainRun; grind [good_State_postHost, good_State_modHart, good_State_sendSequenced, Good, State.Canonical, Device.Canonical, GoodOut, Opt, Res, Fst, Snd, Both, GoodFound, GoodServe, GoodFillPlan, GoodGot, good_foldl]
theorem good_State_drainEntry (a0 : State) (a1 : SbEntry) (h0 : Good a0) : Good (State.drainEntry a0 a1) := by
  unfold State.drainEntry; grind [good_State_drainRun, good_State_writeRuns, Good, State.Canonical, Device.Canonical, GoodOut, Opt, Res, Fst, Snd, Both, GoodFound, GoodServe, GoodFillPlan, GoodGot, good_foldl]
theorem good_execStoreBufferDrain (a0 : Nat) (a1 : Nat) (a2 : State) (h2 : Good a2) : GoodOut (execStoreBufferDrain a0 a1 a2) := by
  unfold execStoreBufferDrain; grind [good_State_drainEntry, good_State_modTile, Good, State.Canonical, Device.Canonical, GoodOut, Opt, Res, Fst, Snd, Both, GoodFound, GoodServe, GoodFillPlan, GoodGot]
theorem good_State_pushDrain (a0 : State) (a1 : Nat) (a2 : Nat) (h0 : Good a0) : Good (State.pushDrain a0 a1 a2) := by
  unfold State.pushDrain; grind [good_State_snoop, good_State_startFlush, Good, State.Canonical, Device.Canonical, GoodOut, Opt, Res, Fst, Snd, Both, GoodFound, GoodServe, GoodFillPlan, GoodGot]
theorem good_execWalkStart (a0 : Nat) (a1 : State) (h1 : Good a1) : GoodOut (execWalkStart a0 a1) := by
  unfold execWalkStart; grind [good_State_putDie, Good, State.Canonical, Device.Canonical, GoodOut, Opt, Res, Fst, Snd, Both, GoodFound, GoodServe, GoodFillPlan, GoodGot]
theorem good_State_dropMiss (a0 : State) (a1 : Walk) (h0 : Good a0) : Good (State.dropMiss a0 a1) := by
  unfold State.dropMiss; grind [good_State_putCluster, Good, State.Canonical, Device.Canonical, GoodOut, Opt, Res, Fst, Snd, Both, GoodFound, GoodServe, GoodFillPlan, GoodGot]
theorem good_State_failWalk (a0 : State) (a1 : Walk) (a2 : Bool) (h0 : Good a0) : Good (State.failWalk a0 a1 a2) := by
  unfold State.failWalk; grind [good_State_endWait, good_State_dropMiss, Good, State.Canonical, Device.Canonical, GoodOut, Opt, Res, Fst, Snd, Both, GoodFound, GoodServe, GoodFillPlan, GoodGot, good_foldl]
theorem good_State_endWalk (a0 : State) (a1 : Walk) (h0 : Good a0) : Good (State.endWalk a0 a1) := by
  unfold State.endWalk; grind [good_State_noteWalk, good_State_dropMiss, good_State_putCluster, good_State_endWait, good_State_failWalk, Good, State.Canonical, Device.Canonical, GoodOut, Opt, Res, Fst, Snd, Both, GoodFound, GoodServe, GoodFillPlan, GoodGot, good_foldl]
theorem good_execWalkComplete (a0 : Nat) (a1 : Nat) (a2 : State) (h2 : Good a2) : GoodOut (execWalkComplete a0 a1 a2) := by
  unfold execWalkComplete; grind [good_State_putDie, good_State_dropMiss, good_State_endWalk, Good, State.Canonical, Device.Canonical, GoodOut, Opt, Res, Fst, Snd, Both, GoodFound, GoodServe, GoodFillPlan, GoodGot]
theorem good_State_dropTransit (a0 : State) (a1 : Nat) (h0 : Good a0) : Good (State.dropTransit a0 a1) := by
  unfold State.dropTransit; grind [Good, State.Canonical, Device.Canonical, GoodOut, Opt, Res, Fst, Snd, Both, GoodFound, GoodServe, GoodFillPlan, GoodGot]
theorem good_State_deliverTransit (a0 : State) (a1 : Transit) (a2 : Msg) (h0 : Good a0) : Good (State.deliverTransit a0 a1 a2) := by
  unfold State.deliverTransit; grind [good_State_dropTransit, good_State_modTile, good_State_bounce, good_State_enterInbox, Good, State.Canonical, Device.Canonical, GoodOut, Opt, Res, Fst, Snd, Both, GoodFound, GoodServe, GoodFillPlan, GoodGot]
theorem good_State_startMove (a0 : State) (a1 : Transit) (a2 : CapRec) (a3 : Nat) (a4 : Nat) (a5 : Nat) (h0 : Good a0) : Good (State.startMove a0 a1 a2 a3 a4 a5) := by
  unfold State.startMove; grind [good_State_putRec, good_State_scrub, good_State_dropCached, good_State_dropTransit, good_State_schedule, Good, State.Canonical, Device.Canonical, GoodOut, Opt, Res, Fst, Snd, Both, GoodFound, GoodServe, GoodFillPlan, GoodGot]
theorem good_execCsendDelivery (a0 : Nat) (a1 : State) (h1 : Good a1) : GoodOut (execCsendDelivery a0 a1) := by
  unfold execCsendDelivery
  repeat' split
  all_goals grind [good_State_fillEntry, good_State_dropTransit, good_State_deliverTransit, good_State_schedule, good_State_startMove, Good, State.Canonical, Device.Canonical, GoodOut, Opt, Res, Fst, Snd, Both, GoodFound, GoodServe, GoodFillPlan, GoodGot]
theorem good_execMoveBytesLanded (a0 : Nat) (a1 : State) (h1 : Good a1) : GoodOut (execMoveBytesLanded a0 a1) := by
  unfold execMoveBytesLanded
  repeat' split
  all_goals grind [good_State_dropTransit, good_State_writePhys, good_State_correctBuf, good_State_poison, good_State_engineMerr, good_State_pend, good_State_joinWrite, good_State_freeRoot, good_State_deliverTransit, Good, State.Canonical, Device.Canonical, GoodOut, Opt, Res, Fst, Snd, Both, GoodFound, GoodServe, GoodFillPlan, GoodGot]
theorem good_execBounceEnqueue (a0 : Tid) (a1 : State) (h1 : Good a1) : GoodOut (execBounceEnqueue a0 a1) := by
  unfold execBounceEnqueue; grind [good_State_enterInbox, good_State_putTask, Good, State.Canonical, Device.Canonical, GoodOut, Opt, Res, Fst, Snd, Both, GoodFound, GoodServe, GoodFillPlan, GoodGot]
theorem good_execTileAsidClear (a0 : Nat) (a1 : BitVec 14) (a2 : State) (h2 : Good a2) : GoodOut (execTileAsidClear a0 a1 a2) := by
  unfold execTileAsidClear; grind [good_State_modTile, good_State_bounce, Good, State.Canonical, Device.Canonical, GoodOut, Opt, Res, Fst, Snd, Both, GoodFound, GoodServe, GoodFillPlan, GoodGot, good_foldl]
theorem good_execHbmRecalibration (a0 : Nat) (a1 : Nat) (a2 : State) (h2 : Good a2) : GoodOut (execHbmRecalibration a0 a1 a2) := by
  unfold execHbmRecalibration; grind [good_State_schedule, good_State_draw, good_State_modDie, Good, State.Canonical, Device.Canonical, GoodOut, Opt, Res, Fst, Snd, Both, GoodFound, GoodServe, GoodFillPlan, GoodGot]
theorem good_execAlertBackoff (a0 : Nat) (a1 : Nat) (a2 : Nat) (a3 : State) (h3 : Good a3) : GoodOut (execAlertBackoff a0 a1 a2 a3) := by
  unfold execAlertBackoff; grind [good_State_schedule, good_State_draw, good_State_modDie, Good, State.Canonical, Device.Canonical, GoodOut, Opt, Res, Fst, Snd, Both, GoodFound, GoodServe, GoodFillPlan, GoodGot]
theorem good_State_stopIssue (a0 : State) (a1 : Nat) (a2 : Nat) (h0 : Good a0) : Good (State.stopIssue a0 a1 a2) := by
  unfold State.stopIssue; grind [good_State_draw, good_State_modDie, Good, State.Canonical, Device.Canonical, GoodOut, Opt, Res, Fst, Snd, Both, GoodFound, GoodServe, GoodFillPlan, GoodGot]
theorem good_execClockStepChange (a0 : Nat) (a1 : Nat) (a2 : State) (h2 : Good a2) : GoodOut (execClockStepChange a0 a1 a2) := by
  unfold execClockStepChange; grind [good_State_modDie, good_State_stopIssue, Good, State.Canonical, Device.Canonical, GoodOut, Opt, Res, Fst, Snd, Both, GoodFound, GoodServe, GoodFillPlan, GoodGot]
theorem good_State_decideStep (a0 : State) (a1 : Nat) (a2 : Nat) (a3 : Nat) (h0 : Good a0) : Good (State.decideStep a0 a1 a2 a3) := by
  unfold State.decideStep; grind [good_State_schedule, good_State_log, Good, State.Canonical, Device.Canonical, GoodOut, Opt, Res, Fst, Snd, Both, GoodFound, GoodServe, GoodFillPlan, GoodGot]
theorem good_execPowerMeasurement (a0 : Nat) (a1 : List Nat) (a2 : Nat) (a3 : State) (h3 : Good a3) : GoodOut (execPowerMeasurement a0 a1 a2 a3) := by
  unfold execPowerMeasurement; grind [good_State_decideStep, Good, State.Canonical, Device.Canonical, GoodOut, Opt, Res, Fst, Snd, Both, GoodFound, GoodServe, GoodFillPlan, GoodGot]
theorem good_execThermalReading (a0 : Nat) (a1 : Nat) (a2 : State) (h2 : Good a2) : GoodOut (execThermalReading a0 a1 a2) := by
  unfold execThermalReading; grind [good_State_modDie, good_State_log, good_State_decideStep, Good, State.Canonical, Device.Canonical, GoodOut, Opt, Res, Fst, Snd, Both, GoodFound, GoodServe, GoodFillPlan, GoodGot]
theorem good_State_fenceTasks (a0 : State) (a1 : Nat) (h0 : Good a0) : Good (State.fenceTasks a0 a1) := by
  unfold State.fenceTasks; grind [good_State_terminate, good_State_unqueue, Good, State.Canonical, Device.Canonical, GoodOut, Opt, Res, Fst, Snd, Both, GoodFound, GoodServe, GoodFillPlan, GoodGot, good_foldl]
theorem good_State_fence (a0 : State) (a1 : Nat) (h0 : Good a0) : Good (State.fence a0 a1) := by
  unfold State.fence; grind [good_State_log, good_State_fenceTasks, Good, State.Canonical, Device.Canonical, GoodOut, Opt, Res, Fst, Snd, Both, GoodFound, GoodServe, GoodFillPlan, GoodGot]
theorem good_State_keepReading (a0 : State) (a1 : List MonitorReading) (a2 : List Nat) (h0 : Good a0) : Good (State.keepReading a0 a1 a2) := by
  unfold State.keepReading; grind [Good, State.Canonical, Device.Canonical, GoodOut, Opt, Res, Fst, Snd, Both, GoodFound, GoodServe, GoodFillPlan, GoodGot]
theorem good_State_degrade (a0 : State) (a1 : AgeingAction) (h0 : Good a0) : Good (State.degrade a0 a1) := by
  unfold State.degrade; grind [good_State_modDie, good_State_log, good_State_decideStep, good_State_fence, Good, State.Canonical, Device.Canonical, GoodOut, Opt, Res, Fst, Snd, Both, GoodFound, GoodServe, GoodFillPlan, GoodGot]
theorem good_execAgeingMonitorRead (a0 : MonitorRead) (a1 : State) (h1 : Good a1) : GoodOut (execAgeingMonitorRead a0 a1) := by
  unfold execAgeingMonitorRead; grind [good_State_keepReading, good_State_degrade, Good, State.Canonical, Device.Canonical, GoodOut, Opt, Res, Fst, Snd, Both, GoodFound, GoodServe, GoodFillPlan, GoodGot]
theorem good_State_applyConfig (a0 : State) (h0 : Good a0) : Good (State.applyConfig a0) := by
  unfold State.applyConfig; grind [good_State_modDie, Good, State.Canonical, Device.Canonical, GoodOut, Opt, Res, Fst, Snd, Both, GoodFound, GoodServe, GoodFillPlan, GoodGot, good_foldl]
theorem good_execConfigBlockLoad (a0 : ConfigBlock) (a1 : Bool) (a2 : State) (h2 : Good a2) : GoodOut (execConfigBlockLoad a0 a1 a2) := by
  unfold execConfigBlockLoad; grind [good_State_applyConfig, Good, State.Canonical, Device.Canonical, GoodOut, Opt, Res, Fst, Snd, Both, GoodFound, GoodServe, GoodFillPlan, GoodGot]
theorem good_execMeshFlitCrcError (a0 : Nat) (a1 : Nat) (a2 : State) (h2 : Good a2) : GoodOut (execMeshFlitCrcError a0 a1 a2) := by
  unfold execMeshFlitCrcError; grind [good_State_log, Good, State.Canonical, Device.Canonical, GoodOut, Opt, Res, Fst, Snd, Both, GoodFound, GoodServe, GoodFillPlan, GoodGot]
theorem good_execMeshLinkFailure (a0 : Nat) (a1 : Nat) (a2 : Option (BitVec 32 × Nat)) (a3 : State) (h3 : Good a3) : GoodOut (execMeshLinkFailure a0 a1 a2 a3) := by
  unfold execMeshLinkFailure; grind [good_State_stopIssue, good_State_pend, good_State_log, Good, State.Canonical, Device.Canonical, GoodOut, Opt, Res, Fst, Snd, Both, GoodFound, GoodServe, GoodFillPlan, GoodGot]
theorem good_execPortFailure (a0 : Nat) (a1 : State) (h1 : Good a1) : GoodOut (execPortFailure a0 a1) := by
  unfold execPortFailure; grind [good_State_startFlush, Good, State.Canonical, Device.Canonical, GoodOut, Opt, Res, Fst, Snd, Both, GoodFound, GoodServe, GoodFillPlan, GoodGot]
theorem good_State_setSeize (a0 : State) (a1 : SeizeBlock) (h0 : Good a0) : Good (State.setSeize a0 a1) := by
  unfold State.setSeize; grind [Good, State.Canonical, Device.Canonical, GoodOut, Opt, Res, Fst, Snd, Both, GoodFound, GoodServe, GoodFillPlan, GoodGot]
theorem good_State_refuseSeize (a0 : State) (a1 : Nat) (h0 : Good a0) : Good (State.refuseSeize a0 a1) := by
  unfold State.refuseSeize; grind [good_State_setSeize, Good, State.Canonical, Device.Canonical, GoodOut, Opt, Res, Fst, Snd, Both, GoodFound, GoodServe, GoodFillPlan, GoodGot]
theorem good_State_stopWork (a0 : State) (h0 : Good a0) : Good (State.stopWork a0) := by
  unfold State.stopWork; grind [good_State_stopDonating, good_State_abandonWait, Good, State.Canonical, Device.Canonical, GoodOut, Opt, Res, Fst, Snd, Both, GoodFound, GoodServe, GoodFillPlan, GoodGot, good_foldl]
theorem good_State_at_ (a0 : State) (a1 : Nat) (h0 : Good a0) : Good (State.at_ a0 a1) := by
  unfold State.at_; grind [Good, State.Canonical, Device.Canonical, GoodOut, Opt, Res, Fst, Snd, Both, GoodFound, GoodServe, GoodFillPlan, GoodGot]
theorem good_State_nextPush (a0 : State) (h0 : Good a0) : (Opt Good) (State.nextPush a0) := by
  unfold State.nextPush
  refine opt_findSome _ fun t => opt_findSome _ fun i => ?_
  dsimp only
  split
  · have k := good_State_pushDrain (a0.at_ ((t.sb.map (·.due)).foldl max 0)) t.idx i (good_State_at_ _ _ h0)
    exact k
  · trivial
theorem good_State_restartLinks (a0 : State) (h0 : Good a0) : Good (State.restartLinks a0) := by
  unfold State.restartLinks; grind [Good, State.Canonical, Device.Canonical, GoodOut, Opt, Res, Fst, Snd, Both, GoodFound, GoodServe, GoodFillPlan, GoodGot]
theorem good_State_markSeiz (a0 : State) (h0 : Good a0) : Good (State.markSeiz a0) := by
  unfold State.markSeiz; grind [Good, State.Canonical, Device.Canonical, GoodOut, Opt, Res, Fst, Snd, Both, GoodFound, GoodServe, GoodFillPlan, GoodGot]
theorem good_State_lookAll (a0 : State) (h0 : Good a0) : Good (State.lookAll a0) := by
  unfold State.lookAll; grind [good_State_schedule, Good, State.Canonical, Device.Canonical, GoodOut, Opt, Res, Fst, Snd, Both, GoodFound, GoodServe, GoodFillPlan, GoodGot, good_foldl]
theorem good_State_command (a0 : State) (a1 : Nat) (h0 : Good a0) : Good (State.command a0 a1) := by
  unfold State.command; grind [good_State_stopWork, good_State_refuseSeize, good_State_setSeize, good_State_lookAll, good_State_markSeiz, good_State_restartLinks, Good, State.Canonical, Device.Canonical, GoodOut, Opt, Res, Fst, Snd, Both, GoodFound, GoodServe, GoodFillPlan, GoodGot]
theorem good_execSeize (a0 : State) (h0 : Good a0) : GoodOut (execSeize a0) := by
  unfold execSeize; grind [good_State_command, Good, State.Canonical, Device.Canonical, GoodOut, Opt, Res, Fst, Snd, Both, GoodFound, GoodServe, GoodFillPlan, GoodGot]
theorem good_execResumeFromImage (a0 : State) (h0 : Good a0) : GoodOut (execResumeFromImage a0) := by
  unfold execResumeFromImage; grind [good_State_command, Good, State.Canonical, Device.Canonical, GoodOut, Opt, Res, Fst, Snd, Both, GoodFound, GoodServe, GoodFillPlan, GoodGot]
theorem good_execThaw (a0 : State) (h0 : Good a0) : GoodOut (execThaw a0) := by
  unfold execThaw; grind [good_State_command, Good, State.Canonical, Device.Canonical, GoodOut, Opt, Res, Fst, Snd, Both, GoodFound, GoodServe, GoodFillPlan, GoodGot]
theorem good_State_seizeWrite (a0 : State) (a1 : Nat) (a2 : Word) (h0 : Good a0) : Good (State.seizeWrite a0 a1 a2) := by
  unfold State.seizeWrite; grind [good_State_log, good_State_command, good_State_setSeize, Good, State.Canonical, Device.Canonical, GoodOut, Opt, Res, Fst, Snd, Both, GoodFound, GoodServe, GoodFillPlan, GoodGot]
theorem good_execQuiesceComplete (a0 : State) (h0 : Good a0) : GoodOut (execQuiesceComplete a0) := by
  unfold execQuiesceComplete; grind [good_State_setSeize, Good, State.Canonical, Device.Canonical, GoodOut, Opt, Res, Fst, Snd, Both, GoodFound, GoodServe, GoodFillPlan, GoodGot]
/-- A sound image that is noted, and the control block that is set with it. -/
theorem good_withImage (s : State) (i : Image0) (b : SeizeBlock) (h : Good s) (hi : i.body.Canonical) : Good ({ s with images := putBy Image0.base i s.images, seize := b } : State) := by
  refine ⟨h.1, fun j hj => ?_⟩
  rcases putBy_mem hj with rfl | hj
  · exact hi
  · exact h.2 j hj
theorem good_execStreamComplete (a0 : State) (h0 : Good a0) : GoodOut (execStreamComplete a0) := by
  unfold execStreamComplete
  split
  · exact good_withImage _ _ _ (good_State_writePhys _ _ _ (good_State_writePhys _ _ _ h0)) h0.1
  · exact h0
theorem good_execStreamPortsFailed (a0 : State) (h0 : Good a0) : GoodOut (execStreamPortsFailed a0) := by
  unfold execStreamPortsFailed; grind [good_State_draw, good_State_setSeize, good_State_writePhys, Good, State.Canonical, Device.Canonical, GoodOut, Opt, Res, Fst, Snd, Both, GoodFound, GoodServe, GoodFillPlan, GoodGot]
theorem good_State_resend (a0 : State) (a1 : Nat) (h0 : Good a0) : Good (State.resend a0 a1) := by
  unfold State.resend; grind [good_State_putLink, Good, State.Canonical, Device.Canonical, GoodOut, Opt, Res, Fst, Snd, Both, GoodFound, GoodServe, GoodFillPlan, GoodGot]
theorem good_State_scrubbed (a0 : State) (a1 : SeizeBlock) (h0 : Good a0) : Good (State.scrubbed a0 a1) := good_State_applyConfig _ ⟨⟨wf_filter _ h0.1.1, rfl⟩, h0.2⟩
theorem wf_divide {m n : List Host.Cell} (p : Nat → Bool) (hp : ∀ a b, p a = false → p b = true → a < b) (hm : Memory.wf m = true) (hn : Memory.wf n = true) :
    Memory.wf ((m.filter fun c => !p c.1) ++ n.filter fun c => p c.1) = true := by
  refine wf_append (wf_filter _ hm) (wf_filter _ hn) fun c hc d hd => hp _ _ ?_ ?_
  · simpa using (List.mem_filter.1 hc).2
  · exact (List.mem_filter.1 hd).2
theorem isHost_above (a b : Nat) (ha : isHost a = false) (hb : isHost b = true) : a < b := by
  unfold isHost at ha hb
  have h1 := of_decide_eq_false ha
  have h2 := of_decide_eq_true hb
  omega
theorem good_State_restored (a0 : State) (a1 : Image0) (h0 : Good a0) (h1 : a1.body.Canonical) : Good (State.restored a0 a1) :=
  ⟨⟨wf_divide isHost isHost_above h1.1 h0.1.1, h1.2⟩, h0.2⟩
theorem image_held (s : State) (i : Image0) (h : s.image? = some i) : i ∈ s.images := by
  unfold State.image? at h
  split at h
  · rename_i hi
    split at h
    · cases h; exact List.mem_of_find?_eq_some hi
    · exact nomatch h
  · exact nomatch h
theorem good_execRestoreComplete (a0 : State) (h0 : Good a0) : GoodOut (execRestoreComplete a0) := by
  unfold execRestoreComplete
  split
  · split
    · rename_i i _ hi _
      have k := good_State_restartLinks _ (good_State_restored a0 i h0 (h0.2 i (image_held a0 i hi)))
      exact good_State_lookAll _ (good_State_markSeiz _ (good_foldl _ (fun _ _ h => good_State_resend _ _ h) k))
    · exact h0
  · exact h0
theorem good_execRestoreFailure (a0 : State) (h0 : Good a0) : GoodOut (execRestoreFailure a0) := by
  unfold execRestoreFailure; grind [good_State_scrubbed, Good, State.Canonical, Device.Canonical, GoodOut, Opt, Res, Fst, Snd, Both, GoodFound, GoodServe, GoodFillPlan, GoodGot]
theorem good_execReset (a0 : State) (h0 : Good a0) : GoodOut (execReset a0) := by
  unfold execReset; grind [good_State_scrubbed, Good, State.Canonical, Device.Canonical, GoodOut, Opt, Res, Fst, Snd, Both, GoodFound, GoodServe, GoodFillPlan, GoodGot]
theorem good_State_dropPacket (a0 : State) (a1 : Nat) (a2 : Packet) (h0 : Good a0) : Good (State.dropPacket a0 a1 a2) := by
  unfold State.dropPacket; grind [good_State_log, Good, State.Canonical, Device.Canonical, GoodOut, Opt, Res, Fst, Snd, Both, GoodFound, GoodServe, GoodFillPlan, GoodGot]
theorem good_State_remoteCheck (a0 : State) (a1 : Packet) (a2 : Rights) (a3 : CapRec → Admit) (a4 : Nat) (a5 : Bool) (a6 : CapRec → Serve) (h0 : Good a0) (h6 : ∀ (y0 : CapRec), GoodServe (a6 y0)) : GoodServe (State.remoteCheck a0 a1 a2 a3 a4 a5 a6) := by
  unfold State.remoteCheck
  repeat' split
  all_goals grind [good_State_snoop, Good, State.Canonical, Device.Canonical, GoodOut, Opt, Res, Fst, Snd, Both, GoodFound, GoodServe, GoodFillPlan, GoodGot]
theorem good_State_remoteMerr (a0 : State) (a1 : CapRec) (a2 : Nat) (h0 : Good a0) : Good (State.remoteMerr a0 a1 a2) := by
  unfold State.remoteMerr; grind [good_State_sharedError, good_State_log, good_State_poison, Good, State.Canonical, Device.Canonical, GoodOut, Opt, Res, Fst, Snd, Both, GoodFound, GoodServe, GoodFillPlan, GoodGot]
theorem good_State_answer (a0 : State) (a1 : Packet) (a2 : Nat) (a3 : Nat) (a4 : List Byte) (h0 : Good a0) : (Fst Good) (State.answer a0 a1 a2 a3 a4) := by
  unfold State.answer; grind [good_State_sendSequenced, Good, State.Canonical, Device.Canonical, GoodOut, Opt, Res, Fst, Snd, Both, GoodFound, GoodServe, GoodFillPlan, GoodGot]
theorem good_State_serveRead (a0 : State) (a1 : Packet) (h0 : Good a0) : GoodServe (State.serveRead a0 a1) := by
  unfold State.serveRead; grind [good_State_remoteCheck, good_State_answer, good_State_correctBuf, good_State_remoteMerr, Good, State.Canonical, Device.Canonical, GoodOut, Opt, Res, Fst, Snd, Both, GoodFound, GoodServe, GoodFillPlan, GoodGot]
theorem good_State_remoteWrite (a0 : State) (a1 : Packet) (a2 : CapRec) (a3 : List Byte) (h0 : Good a0) : (Fst Good) (State.remoteWrite a0 a1 a2 a3) := by
  unfold State.remoteWrite; grind [good_State_noteStore, good_State_legWrite, Good, State.Canonical, Device.Canonical, GoodOut, Opt, Res, Fst, Snd, Both, GoodFound, GoodServe, GoodFillPlan, GoodGot]
theorem good_State_serveWrite (a0 : State) (a1 : Packet) (h0 : Good a0) : GoodServe (State.serveWrite a0 a1) := by
  unfold State.serveWrite; grind [good_State_remoteCheck, good_State_remoteWrite, Good, State.Canonical, Device.Canonical, GoodOut, Opt, Res, Fst, Snd, Both, GoodFound, GoodServe, GoodFillPlan, GoodGot]
theorem good_State_serveAtomic (a0 : State) (a1 : Packet) (h0 : Good a0) : GoodServe (State.serveAtomic a0 a1) := by
  unfold State.serveAtomic; grind [good_State_remoteCheck, good_State_remoteMerr, good_State_correct, good_State_writePhys, good_State_noteStore, good_State_answer, Good, State.Canonical, Device.Canonical, GoodOut, Opt, Res, Fst, Snd, Both, GoodFound, GoodServe, GoodFillPlan, GoodGot]
theorem good_State_dropWrenq (a0 : State) (a1 : Wrenq) (h0 : Good a0) : Good (State.dropWrenq a0 a1) := by
  unfold State.dropWrenq; grind [Good, State.Canonical, Device.Canonical, GoodOut, Opt, Res, Fst, Snd, Both, GoodFound, GoodServe, GoodFillPlan, GoodGot]
theorem good_State_finishWrenq (a0 : State) (a1 : Packet) (a2 : Wrenq) (h0 : Good a0) : GoodServe (State.finishWrenq a0 a1 a2) := by
  unfold State.finishWrenq; grind [good_State_fillEntry, good_State_dropWrenq, Good, State.Canonical, Device.Canonical, GoodOut, Opt, Res, Fst, Snd, Both, GoodFound, GoodServe, GoodFillPlan, GoodGot]
theorem good_State_serveWrenq (a0 : State) (a1 : Option Nat) (a2 : Packet) (h0 : Good a0) : GoodServe (State.serveWrenq a0 a1 a2) := by
  unfold State.serveWrenq; grind [good_State_finishWrenq, good_State_remoteCheck, good_State_remoteWrite, good_State_claim, Good, State.Canonical, Device.Canonical, GoodOut, Opt, Res, Fst, Snd, Both, GoodFound, GoodServe, GoodFillPlan, GoodGot]
theorem good_State_serveRevoke (a0 : State) (a1 : Packet) (h0 : Good a0) : GoodServe (State.serveRevoke a0 a1) := by
  unfold State.serveRevoke; grind [good_State_setQuire, quire_map, quire_filter, quire_put, quire_drop, Good, State.Canonical, Device.Canonical, GoodOut, Opt, Res, Fst, Snd, Both, GoodFound, GoodServe, GoodFillPlan, GoodGot]
theorem good_State_serveFrz (a0 : State) (a1 : Packet) (h0 : Good a0) : GoodServe (State.serveFrz a0 a1) := by
  unfold State.serveFrz; grind [good_State_modRec, Good, State.Canonical, Device.Canonical, GoodOut, Opt, Res, Fst, Snd, Both, GoodFound, GoodServe, GoodFillPlan, GoodGot]
theorem good_State_serveRights (a0 : State) (a1 : Packet) (a2 : Landing) (h0 : Good a0) : GoodServe (State.serveRights a0 a1 a2) := by
  unfold State.serveRights; grind [good_State_land, good_State_putRec, good_State_sendPlain, Good, State.Canonical, Device.Canonical, GoodOut, Opt, Res, Fst, Snd, Both, GoodFound, GoodServe, GoodFillPlan, GoodGot]
theorem good_State_serveHome (a0 : State) (a1 : Packet) (h0 : Good a0) : GoodServe (State.serveHome a0 a1) := by
  unfold State.serveHome; grind [good_State_freeRoot, good_State_putRec, good_State_sendPlain, Good, State.Canonical, Device.Canonical, GoodOut, Opt, Res, Fst, Snd, Both, GoodFound, GoodServe, GoodFillPlan, GoodGot]
theorem good_State_serveOffer (a0 : State) (a1 : Packet) (a2 : Landing) (h0 : Good a0) : GoodServe (State.serveOffer a0 a1 a2) := by
  unfold State.serveOffer; grind [good_State_putRec, good_State_scrub, good_State_putLink, good_State_sendPlain, Good, State.Canonical, Device.Canonical, GoodOut, Opt, Res, Fst, Snd, Both, GoodFound, GoodServe, GoodFillPlan, GoodGot]
theorem good_State_serveDone (a0 : State) (a1 : Packet) (a2 : Landing) (h0 : Good a0) : GoodServe (State.serveDone a0 a1 a2) := by
  unfold State.serveDone; grind [good_State_putLink, good_State_freeRoot, good_State_land, good_State_joinWrite, Good, State.Canonical, Device.Canonical, GoodOut, Opt, Res, Fst, Snd, Both, GoodFound, GoodServe, GoodFillPlan, GoodGot]
theorem good_State_serveXfer (a0 : State) (a1 : Packet) (h0 : Good a0) : GoodServe (State.serveXfer a0 a1) := by
  unfold State.serveXfer; grind [good_State_serveHome, good_State_serveDone, good_State_serveOffer, good_State_serveRights, Good, State.Canonical, Device.Canonical, GoodOut, Opt, Res, Fst, Snd, Both, GoodFound, GoodServe, GoodFillPlan, GoodGot]
theorem good_State_handBlock (a0 : State) (a1 : Nat) (h0 : Good a0) : Good (State.handBlock a0 a1) := by
  unfold State.handBlock; grind [good_State_modDie, good_State_putTask, Good, State.Canonical, Device.Canonical, GoodOut, Opt, Res, Fst, Snd, Both, GoodFound, GoodServe, GoodFillPlan, GoodGot]
theorem good_State_serveBlock (a0 : State) (a1 : Nat) (a2 : Packet) (h0 : Good a0) : GoodServe (State.serveBlock a0 a1 a2) := by
  unfold State.serveBlock; grind [good_State_handBlock, good_State_modDie, Good, State.Canonical, Device.Canonical, GoodOut, Opt, Res, Fst, Snd, Both, GoodFound, GoodServe, GoodFillPlan, GoodGot]
theorem good_State_sendAck (a0 : State) (a1 : Nat) (h0 : Good a0) : Good (State.sendAck a0 a1) := by
  unfold State.sendAck; grind [good_State_sendPlain, good_State_putLink, Good, State.Canonical, Device.Canonical, GoodOut, Opt, Res, Fst, Snd, Both, GoodFound, GoodServe, GoodFillPlan, GoodGot]
theorem good_State_stepExpect (a0 : State) (a1 : Packet) (a2 : Option Packet) (h0 : Good a0) : Good (State.stepExpect a0 a1 a2) := by
  unfold State.stepExpect; grind [good_State_putLink, good_State_sendAck, good_State_schedule, Good, State.Canonical, Device.Canonical, GoodOut, Opt, Res, Fst, Snd, Both, GoodFound, GoodServe, GoodFillPlan, GoodGot]
theorem good_State_answerAgain (a0 : State) (a1 : Packet) (h0 : Good a0) : Good (State.answerAgain a0 a1) := by
  unfold State.answerAgain; grind [good_State_sendPlain, good_State_sendAck, Good, State.Canonical, Device.Canonical, GoodOut, Opt, Res, Fst, Snd, Both, GoodFound, GoodServe, GoodFillPlan, GoodGot]
theorem good_State_receive_ (a0 : State) (a1 : Nat) (a2 : Packet) (a3 : State → Serve) (h0 : Good a0) (h3 : ∀ (y0 : State), Good y0 → GoodServe (a3 y0)) : Good (State.receive_ a0 a1 a2 a3) := by
  unfold State.receive_; grind [good_State_dropPacket, good_State_answerAgain, good_State_stepExpect, good_State_sendPlain, good_State_putLink, Good, State.Canonical, Device.Canonical, GoodOut, Opt, Res, Fst, Snd, Both, GoodFound, GoodServe, GoodFillPlan, GoodGot]
theorem good_State_receivePlain (a0 : State) (a1 : Packet) (a2 : State → State) (h0 : Good a0) (h2 : ∀ (y0 : State), Good y0 → Good (a2 y0)) : Good (State.receivePlain a0 a1 a2) := by
  unfold State.receivePlain; grind [good_State_dropPacket, Good, State.Canonical, Device.Canonical, GoodOut, Opt, Res, Fst, Snd, Both, GoodFound, GoodServe, GoodFillPlan, GoodGot]
theorem good_execWrite (a0 : Packet) (a1 : State) (h1 : Good a1) : GoodOut (execWrite a0 a1) := by
  unfold execWrite; grind [good_State_receive_, good_State_serveWrite, Good, State.Canonical, Device.Canonical, GoodOut, Opt, Res, Fst, Snd, Both, GoodFound, GoodServe, GoodFillPlan, GoodGot]
theorem good_execRead (a0 : Packet) (a1 : State) (h1 : Good a1) : GoodOut (execRead a0 a1) := by
  unfold execRead; grind [good_State_receive_, good_State_serveRead, Good, State.Canonical, Device.Canonical, GoodOut, Opt, Res, Fst, Snd, Both, GoodFound, GoodServe, GoodFillPlan, GoodGot]
theorem good_execAtomic (a0 : Packet) (a1 : State) (h1 : Good a1) : GoodOut (execAtomic a0 a1) := by
  unfold execAtomic; grind [good_State_receive_, good_State_serveAtomic, Good, State.Canonical, Device.Canonical, GoodOut, Opt, Res, Fst, Snd, Both, GoodFound, GoodServe, GoodFillPlan, GoodGot]
theorem good_execCapxfer (a0 : Packet) (a1 : State) (h1 : Good a1) : GoodOut (execCapxfer a0 a1) := by
  unfold execCapxfer; grind [good_State_receive_, good_State_serveXfer, Good, State.Canonical, Device.Canonical, GoodOut, Opt, Res, Fst, Snd, Both, GoodFound, GoodServe, GoodFillPlan, GoodGot]
theorem good_execRevoke (a0 : Packet) (a1 : State) (h1 : Good a1) : GoodOut (execRevoke a0 a1) := by
  unfold execRevoke; grind [good_State_receive_, good_State_serveRevoke, Good, State.Canonical, Device.Canonical, GoodOut, Opt, Res, Fst, Snd, Both, GoodFound, GoodServe, GoodFillPlan, GoodGot]
theorem good_execWrenq (a0 : Packet) (a1 : State) (h1 : Good a1) : GoodOut (execWrenq a0 a1) := by
  unfold execWrenq; grind [good_State_receive_, good_State_serveWrenq, Good, State.Canonical, Device.Canonical, GoodOut, Opt, Res, Fst, Snd, Both, GoodFound, GoodServe, GoodFillPlan, GoodGot]
theorem good_execRedblk (a0 : Nat) (a1 : Packet) (a2 : State) (h2 : Good a2) : GoodOut (execRedblk a0 a1 a2) := by
  unfold execRedblk; grind [good_State_receive_, good_State_serveBlock, Good, State.Canonical, Device.Canonical, GoodOut, Opt, Res, Fst, Snd, Both, GoodFound, GoodServe, GoodFillPlan, GoodGot]
theorem good_execFrz (a0 : Packet) (a1 : State) (h1 : Good a1) : GoodOut (execFrz a0 a1) := by
  unfold execFrz; grind [good_State_receive_, good_State_serveFrz, Good, State.Canonical, Device.Canonical, GoodOut, Opt, Res, Fst, Snd, Both, GoodFound, GoodServe, GoodFillPlan, GoodGot]
theorem good_State_refuseSent (a0 : State) (a1 : Nat) (a2 : Sent) (a3 : Nat) (h0 : Good a0) : Good (State.refuseSent a0 a1 a2 a3) := by
  unfold State.refuseSent
  repeat' split
  all_goals grind [good_State_schedule, good_State_dropRec, good_State_returnXfer, good_State_failRemote, good_State_pend, Good, State.Canonical, Device.Canonical, GoodOut, Opt, Res, Fst, Snd, Both, GoodFound, GoodServe, GoodFillPlan, GoodGot]
theorem good_State_engineReply (a0 : State) (a1 : Nat) (a2 : Nat) (a3 : Nat) (a4 : Sent) (a5 : List Byte) (h0 : Good a0) : Good (State.engineReply a0 a1 a2 a3 a4 a5) := by
  unfold State.engineReply; grind [good_State_setXfer, good_State_schedule, good_State_modTile, Good, State.Canonical, Device.Canonical, GoodOut, Opt, Res, Fst, Snd, Both, GoodFound, GoodServe, GoodFillPlan, GoodGot, good_foldl]
theorem good_State_streamReply (a0 : State) (a1 : Nat) (a2 : Sent) (a3 : List Byte) (h0 : Good a0) : Good (State.streamReply a0 a1 a2 a3) := by
  unfold State.streamReply; grind [good_State_focusOn, good_State_setHart, good_State_writeReply, Good, State.Canonical, Device.Canonical, GoodOut, Opt, Res, Fst, Snd, Both, GoodFound, GoodServe, GoodFillPlan, GoodGot]
theorem good_State_serveReply (a0 : State) (a1 : Nat) (a2 : Packet) (h0 : Good a0) : GoodServe (State.serveReply a0 a1 a2) := by
  unfold State.serveReply; grind [good_State_putLink, good_State_refuseSent, good_State_engineReply, good_State_streamReply, Good, State.Canonical, Device.Canonical, GoodOut, Opt, Res, Fst, Snd, Both, GoodFound, GoodServe, GoodFillPlan, GoodGot]
theorem good_execRdresp (a0 : Packet) (a1 : State) (h1 : Good a1) : GoodOut (execRdresp a0 a1) := by
  unfold execRdresp; grind [good_State_receive_, good_State_serveReply, Good, State.Canonical, Device.Canonical, GoodOut, Opt, Res, Fst, Snd, Both, GoodFound, GoodServe, GoodFillPlan, GoodGot]
theorem good_execAtresp (a0 : Packet) (a1 : State) (h1 : Good a1) : GoodOut (execAtresp a0 a1) := by
  unfold execAtresp; grind [good_State_receive_, good_State_serveReply, Good, State.Canonical, Device.Canonical, GoodOut, Opt, Res, Fst, Snd, Both, GoodFound, GoodServe, GoodFillPlan, GoodGot]
theorem good_State_endXfer (a0 : State) (a1 : Nat) (a2 : Sent) (a3 : Nat) (h0 : Good a0) : Good (State.endXfer a0 a1 a2 a3) := by
  unfold State.endXfer; grind [good_State_modRec, good_State_freeRoot, good_State_dropRec, good_State_sendRevoke, Good, State.Canonical, Device.Canonical, GoodOut, Opt, Res, Fst, Snd, Both, GoodFound, GoodServe, GoodFillPlan, GoodGot]
theorem good_State_settleSent (a0 : State) (a1 : Nat) (a2 : Sent) (a3 : Nat) (h0 : Good a0) : Good (State.settleSent a0 a1 a2 a3) := by
  unfold State.settleSent; grind [good_State_setXfer, good_State_schedule, good_State_endXfer, Good, State.Canonical, Device.Canonical, GoodOut, Opt, Res, Fst, Snd, Both, GoodFound, GoodServe, GoodFillPlan, GoodGot]
theorem good_State_hear (a0 : State) (a1 : Nat) (h0 : Good a0) : Good (State.hear a0 a1) := by
  unfold State.hear; grind [good_State_putLink, Good, State.Canonical, Device.Canonical, GoodOut, Opt, Res, Fst, Snd, Both, GoodFound, GoodServe, GoodFillPlan, GoodGot]
theorem good_execAck (a0 : Packet) (a1 : State) (h1 : Good a1) : GoodOut (execAck a0 a1) := by
  unfold execAck; grind [good_State_receivePlain, good_State_putLink, good_State_settleSent, good_State_hear, good_State_pumpLink, Good, State.Canonical, Device.Canonical, GoodOut, Opt, Res, Fst, Snd, Both, GoodFound, GoodServe, GoodFillPlan, GoodGot, good_foldl]
theorem good_State_sendBytes (a0 : State) (a1 : Nat) (a2 : Sent) (a3 : Nat) (h0 : Good a0) : Good (State.sendBytes a0 a1 a2 a3) := by
  unfold State.sendBytes; grind [good_State_remoteMerr, good_State_returnXfer, good_State_sendSequenced, Good, State.Canonical, Device.Canonical, GoodOut, Opt, Res, Fst, Snd, Both, GoodFound, GoodServe, GoodFillPlan, GoodGot, good_foldl]
theorem good_execNak (a0 : Packet) (a1 : State) (h1 : Good a1) : GoodOut (execNak a0 a1) := by
  unfold execNak; grind [good_State_receivePlain, good_State_hear, good_State_putLink, good_State_sendBytes, good_State_refuseSent, good_State_pumpLink, Good, State.Canonical, Device.Canonical, GoodOut, Opt, Res, Fst, Snd, Both, GoodFound, GoodServe, GoodFillPlan, GoodGot]
theorem good_execHntAckTimer (a0 : Nat) (a1 : State) (h1 : Good a1) : GoodOut (execHntAckTimer a0 a1) := by
  unfold execHntAckTimer; grind [good_State_sendAck, Good, State.Canonical, Device.Canonical, GoodOut, Opt, Res, Fst, Snd, Both, GoodFound, GoodServe, GoodFillPlan, GoodGot]
theorem good_execHntRetransmit (a0 : Nat) (a1 : State) (h1 : Good a1) : GoodOut (execHntRetransmit a0 a1) := by
  unfold execHntRetransmit; grind [good_State_resend, Good, State.Canonical, Device.Canonical, GoodOut, Opt, Res, Fst, Snd, Both, GoodFound, GoodServe, GoodFillPlan, GoodGot]
theorem good_execHntBeyondRecovery (a0 : Nat) (a1 : State) (h1 : Good a1) : GoodOut (execHntBeyondRecovery a0 a1) := by
  unfold execHntBeyondRecovery; grind [good_State_beyondRecovery, Good, State.Canonical, Device.Canonical, GoodOut, Opt, Res, Fst, Snd, Both, GoodFound, GoodServe, GoodFillPlan, GoodGot]
theorem good_State_followNumbers (a0 : State) (a1 : Nat) (a2 : List (Nat × Nat)) (h0 : Good a0) : Good (State.followNumbers a0 a1 a2) := by
  unfold State.followNumbers; grind [Good, State.Canonical, Device.Canonical, GoodOut, Opt, Res, Fst, Snd, Both, GoodFound, GoodServe, GoodFillPlan, GoodGot]
theorem good_State_dropEpoch (a0 : State) (a1 : Nat) (a2 : Nat) (h0 : Good a0) : Good (State.dropEpoch a0 a1 a2) := by
  unfold State.dropEpoch; grind [good_State_setQuire, good_State_putLink, quire_map, quire_filter, quire_put, quire_drop, Good, State.Canonical, Device.Canonical, GoodOut, Opt, Res, Fst, Snd, Both, GoodFound, GoodServe, GoodFillPlan, GoodGot]
theorem good_execResync (a0 : Packet) (a1 : State) (h1 : Good a1) : GoodOut (execResync a0 a1) := by
  unfold execResync; grind [good_State_receivePlain, good_State_hear, good_State_dropEpoch, good_State_putLink, good_State_followNumbers, good_State_settleSent, good_State_pumpLink, Good, State.Canonical, Device.Canonical, GoodOut, Opt, Res, Fst, Snd, Both, GoodFound, GoodServe, GoodFillPlan, GoodGot, good_foldl]
theorem good_State_resyncAll (a0 : State) (a1 : Nat) (h0 : Good a0) : Good (State.resyncAll a0 a1) := by
  unfold State.resyncAll; grind [good_State_sendPlain, Good, State.Canonical, Device.Canonical, GoodOut, Opt, Res, Fst, Snd, Both, GoodFound, GoodServe, GoodFillPlan, GoodGot, good_foldl]
theorem good_execPortRetrain (a0 : Nat) (a1 : Nat) (a2 : State) (h2 : Good a2) : GoodOut (execPortRetrain a0 a1 a2) := by
  unfold execPortRetrain; grind [good_State_log, good_State_resyncAll, Good, State.Canonical, Device.Canonical, GoodOut, Opt, Res, Fst, Snd, Both, GoodFound, GoodServe, GoodFillPlan, GoodGot]
theorem good_State_hostRefused (a0 : State) (a1 : Nat) (h0 : Good a0) : Good (State.hostRefused a0 a1) := by
  unfold State.hostRefused; grind [Good, State.Canonical, Device.Canonical, GoodOut, Opt, Res, Fst, Snd, Both, GoodFound, GoodServe, GoodFillPlan, GoodGot]
theorem good_State_hostServe (a0 : State) (a1 : Nat) (a2 : Packet) (h0 : Good a0) : (Fst Good) (State.hostServe a0 a1 a2) := by
  unfold State.hostServe; grind [good_State_serveWrite, good_State_serveWrenq, good_State_hostRefused, Good, State.Canonical, Device.Canonical, GoodOut, Opt, Res, Fst, Snd, Both, GoodFound, GoodServe, GoodFillPlan, GoodGot]
theorem good_execHostHntWrite (a0 : Nat) (a1 : Nat) (a2 : Packet) (a3 : State) (h3 : Good a3) : GoodOut (execHostHntWrite a0 a1 a2 a3) := by
  unfold execHostHntWrite; grind [good_State_dropPacket, good_State_hostServe, Good, State.Canonical, Device.Canonical, GoodOut, Opt, Res, Fst, Snd, Both, GoodFound, GoodServe, GoodFillPlan, GoodGot]
theorem good_State_nextHostPacket (a0 : State) (h0 : Good a0) : (Opt Good) (State.nextHostPacket a0) := by
  unfold State.nextHostPacket
  repeat' (first | apply opt_findSome | apply opt_map | intro _ | split)
  all_goals grind [good_State_hostServe, Good, State.Canonical, Device.Canonical, GoodOut, Opt, Fst, Snd]
theorem good_execHpkstRead (a0 : Nat) (a1 : State) (h1 : Good a1) : GoodOut (execHpkstRead a0 a1) := by
  unfold execHpkstRead; grind [good_State_schedule, Good, State.Canonical, Device.Canonical, GoodOut, Opt, Res, Fst, Snd, Both, GoodFound, GoodServe, GoodFillPlan, GoodGot]
theorem good_execHostTicketClaim (a0 : HostAtomic) (a1 : State) (h1 : Good a1) : GoodOut (execHostTicketClaim a0 a1) := by
  unfold execHostTicketClaim; grind [good_State_putQueue, Good, State.Canonical, Device.Canonical, GoodOut, Opt, Res, Fst, Snd, Both, GoodFound, GoodServe, GoodFillPlan, GoodGot]
theorem good_execHostRingWrite (a0 : Nat) (a1 : Nat) (a2 : List Word) (a3 : State) (h3 : Good a3) : GoodOut (execHostRingWrite a0 a1 a2 a3) := by
  unfold execHostRingWrite; grind [good_State_fillEntry, Good, State.Canonical, Device.Canonical, GoodOut, Opt, Res, Fst, Snd, Both, GoodFound, GoodServe, GoodFillPlan, GoodGot]
theorem good_State_holdLine (a0 : State) (a1 : Nat) (a2 : Bool) (a3 : Bool) (h0 : Good a0) : Good (State.holdLine a0 a1 a2 a3) := by
  unfold State.holdLine; grind [Good, State.Canonical, Device.Canonical, GoodOut, Opt, Res, Fst, Snd, Both, GoodFound, GoodServe, GoodFillPlan, GoodGot]
theorem good_execHostWindowAccess (a0 : Nat) (a1 : WindowAccess) (a2 : State) (h2 : Good a2) : GoodOut (execHostWindowAccess a0 a1 a2) := by
  unfold execHostWindowAccess; grind [good_State_seizeWrite, good_State_holdLine, good_State_writePhys, Good, State.Canonical, Device.Canonical, GoodOut, Opt, Res, Fst, Snd, Both, GoodFound, GoodServe, GoodFillPlan, GoodGot]
theorem good_execBirsp (a0 : Nat) (a1 : Option (BitVec 512)) (a2 : State) (h2 : Good a2) : GoodOut (execBirsp a0 a1 a2) := by
  unfold execBirsp; grind [good_State_writePhys, good_State_holdLine, Good, State.Canonical, Device.Canonical, GoodOut, Opt, Res, Fst, Snd, Both, GoodFound, GoodServe, GoodFillPlan, GoodGot]
theorem good_State_attest (a0 : State) (a1 : Nat) (a2 : Attest) (h0 : Good a0) : Good (State.attest a0 a1 a2) := by
  unfold State.attest; grind [Good, State.Canonical, Device.Canonical, GoodOut, Opt, Res, Fst, Snd, Both, GoodFound, GoodServe, GoodFillPlan, GoodGot]
theorem good_execGetVersion (a0 : Nat) (a1 : State) (h1 : Good a1) : GoodOut (execGetVersion a0 a1) := by
  unfold execGetVersion; grind [good_State_attest, Good, State.Canonical, Device.Canonical, GoodOut, Opt, Res, Fst, Snd, Both, GoodFound, GoodServe, GoodFillPlan, GoodGot]
theorem good_execGetCapabilities (a0 : Nat) (a1 : State) (h1 : Good a1) : GoodOut (execGetCapabilities a0 a1) := by
  unfold execGetCapabilities; grind [good_State_attest, Good, State.Canonical, Device.Canonical, GoodOut, Opt, Res, Fst, Snd, Both, GoodFound, GoodServe, GoodFillPlan, GoodGot]
theorem good_execNegotiateAlgorithms (a0 : Nat) (a1 : State) (h1 : Good a1) : GoodOut (execNegotiateAlgorithms a0 a1) := by
  unfold execNegotiateAlgorithms; grind [good_State_attest, Good, State.Canonical, Device.Canonical, GoodOut, Opt, Res, Fst, Snd, Both, GoodFound, GoodServe, GoodFillPlan, GoodGot]
theorem good_execGetCertificate (a0 : Nat) (a1 : State) (h1 : Good a1) : GoodOut (execGetCertificate a0 a1) := by
  unfold execGetCertificate; grind [good_State_attest, Good, State.Canonical, Device.Canonical, GoodOut, Opt, Res, Fst, Snd, Both, GoodFound, GoodServe, GoodFillPlan, GoodGot]
theorem good_execChallenge (a0 : Nat) (a1 : BitVec 256) (a2 : State) (h2 : Good a2) : GoodOut (execChallenge a0 a1 a2) := by
  unfold execChallenge; grind [good_State_attest, Good, State.Canonical, Device.Canonical, GoodOut, Opt, Res, Fst, Snd, Both, GoodFound, GoodServe, GoodFillPlan, GoodGot]
theorem good_execGetMeasurements (a0 : Nat) (a1 : BitVec 256) (a2 : State) (h2 : Good a2) : GoodOut (execGetMeasurements a0 a1 a2) := by
  unfold execGetMeasurements; grind [good_State_attest, Good, State.Canonical, Device.Canonical, GoodOut, Opt, Res, Fst, Snd, Both, GoodFound, GoodServe, GoodFillPlan, GoodGot]
theorem good_execSinkCreate (a0 : BitVec 14) (a1 : Nat) (a2 : Nat) (a3 : Nat) (a4 : State) (h4 : Good a4) : GoodOut (execSinkCreate a0 a1 a2 a3 a4) := by
  unfold execSinkCreate; grind [good_State_putRec, Good, State.Canonical, Device.Canonical, GoodOut, Opt, Res, Fst, Snd, Both, GoodFound, GoodServe, GoodFillPlan, GoodGot]

end Sys2Proof.Machine
end

