-- ==== Sys2Proof/Laws/KeptRun.lean ====
section
/-!
SUPPORT. Every instruction, every event and what the agents of the device look for keep the canonical forms.
-/
namespace Sys2Proof.Machine

open Sys2Proof

set_option Elab.async false

theorem good_exec (a0 : Instr) (a1 : State) (h1 : Good a1) : GoodOut (exec a0 a1) := by
  cases a0 with
  | cAddi x0 x1 => exact good_execCAddi x0 x1 _ h1
  | cMov x0 x1 => exact good_execCMov x0 x1 _ h1
  | cAdd x0 x1 => exact good_execCAdd x0 x1 _ h1
  | cLd x0 x1 x2 => exact good_execCLd x0 x1 x2 _ h1
  | cSt x0 x1 x2 => exact good_execCSt x0 x1 x2 _ h1
  | cBeqz x0 x1 => exact good_execCBeqz x0 x1 _ h1
  | cBnez x0 x1 => exact good_execCBnez x0 x1 _ h1
  | cJ x0 => exact good_execCJ x0 _ h1
  | cYield  => exact good_execCYield  _ h1
  | cNop  => exact good_execCNop  _ h1
  | cQr x0 x1 => exact good_execCQr x0 x1 _ h1
  | cQw x0 x1 => exact good_execCQw x0 x1 _ h1
  | add x0 x1 x2 => exact good_execAdd x0 x1 x2 _ h1
  | sub x0 x1 x2 => exact good_execSub x0 x1 x2 _ h1
  | min x0 x1 x2 => exact good_execMin x0 x1 x2 _ h1
  | max x0 x1 x2 => exact good_execMax x0 x1 x2 _ h1
  | minu x0 x1 x2 => exact good_execMinu x0 x1 x2 _ h1
  | maxu x0 x1 x2 => exact good_execMaxu x0 x1 x2 _ h1
  | slt x0 x1 x2 => exact good_execSlt x0 x1 x2 _ h1
  | sltu x0 x1 x2 => exact good_execSltu x0 x1 x2 _ h1
  | and x0 x1 x2 => exact good_execAnd x0 x1 x2 _ h1
  | or x0 x1 x2 => exact good_execOr x0 x1 x2 _ h1
  | xor x0 x1 x2 => exact good_execXor x0 x1 x2 _ h1
  | andn x0 x1 x2 => exact good_execAndn x0 x1 x2 _ h1
  | sel x0 x1 x2 => exact good_execSel x0 x1 x2 _ h1
  | sll x0 x1 x2 => exact good_execSll x0 x1 x2 _ h1
  | srl x0 x1 x2 => exact good_execSrl x0 x1 x2 _ h1
  | sra x0 x1 x2 => exact good_execSra x0 x1 x2 _ h1
  | clz x0 x1 => exact good_execClz x0 x1 _ h1
  | ctz x0 x1 => exact good_execCtz x0 x1 _ h1
  | popc x0 x1 => exact good_execPopc x0 x1 _ h1
  | mul x0 x1 x2 => exact good_execMul x0 x1 x2 _ h1
  | mulh x0 x1 x2 => exact good_execMulh x0 x1 x2 _ h1
  | mulhu x0 x1 x2 => exact good_execMulhu x0 x1 x2 _ h1
  | div x0 x1 x2 => exact good_execDiv x0 x1 x2 _ h1
  | divu x0 x1 x2 => exact good_execDivu x0 x1 x2 _ h1
  | rem x0 x1 x2 => exact good_execRem x0 x1 x2 _ h1
  | remu x0 x1 x2 => exact good_execRemu x0 x1 x2 _ h1
  | addi x0 x1 x2 => exact good_execAddi x0 x1 x2 _ h1
  | andi x0 x1 x2 => exact good_execAndi x0 x1 x2 _ h1
  | ori x0 x1 x2 => exact good_execOri x0 x1 x2 _ h1
  | xori x0 x1 x2 => exact good_execXori x0 x1 x2 _ h1
  | slli x0 x1 x2 => exact good_execSlli x0 x1 x2 _ h1
  | srli x0 x1 x2 => exact good_execSrli x0 x1 x2 _ h1
  | srai x0 x1 x2 => exact good_execSrai x0 x1 x2 _ h1
  | slti x0 x1 x2 => exact good_execSlti x0 x1 x2 _ h1
  | sltiu x0 x1 x2 => exact good_execSltiu x0 x1 x2 _ h1
  | lui x0 x1 => exact good_execLui x0 x1 _ h1
  | addpc x0 x1 => exact good_execAddpc x0 x1 _ h1
  | beq x0 x1 x2 => exact good_execBeq x0 x1 x2 _ h1
  | bne x0 x1 x2 => exact good_execBne x0 x1 x2 _ h1
  | blt x0 x1 x2 => exact good_execBlt x0 x1 x2 _ h1
  | bge x0 x1 x2 => exact good_execBge x0 x1 x2 _ h1
  | bltu x0 x1 x2 => exact good_execBltu x0 x1 x2 _ h1
  | bgeu x0 x1 x2 => exact good_execBgeu x0 x1 x2 _ h1
  | jal x0 x1 => exact good_execJal x0 x1 _ h1
  | jalr x0 x1 x2 => exact good_execJalr x0 x1 x2 _ h1
  | fadd x0 x1 x2 x3 x4 => exact good_execFadd x0 x1 x2 x3 x4 _ h1
  | fsub x0 x1 x2 x3 x4 => exact good_execFsub x0 x1 x2 x3 x4 _ h1
  | fmul x0 x1 x2 x3 x4 => exact good_execFmul x0 x1 x2 x3 x4 _ h1
  | fma x0 x1 x2 x3 x4 => exact good_execFma x0 x1 x2 x3 x4 _ h1
  | fdiv x0 x1 x2 x3 x4 => exact good_execFdiv x0 x1 x2 x3 x4 _ h1
  | fsqrt x0 x1 x2 x3 => exact good_execFsqrt x0 x1 x2 x3 _ h1
  | fmin x0 x1 x2 x3 => exact good_execFmin x0 x1 x2 x3 _ h1
  | fmax x0 x1 x2 x3 => exact good_execFmax x0 x1 x2 x3 _ h1
  | fcmp x0 x1 x2 x3 x4 => exact good_execFcmp x0 x1 x2 x3 x4 _ h1
  | fcvt x0 x1 x2 x3 x4 => exact good_execFcvt x0 x1 x2 x3 x4 _ h1
  | fclass x0 x1 x2 => exact good_execFclass x0 x1 x2 _ h1
  | ldB x0 x1 x2 x3 => exact good_execLdB x0 x1 x2 x3 _ h1
  | ldBu x0 x1 x2 x3 => exact good_execLdBu x0 x1 x2 x3 _ h1
  | ldH x0 x1 x2 x3 => exact good_execLdH x0 x1 x2 x3 _ h1
  | ldHu x0 x1 x2 x3 => exact good_execLdHu x0 x1 x2 x3 _ h1
  | ldW x0 x1 x2 x3 => exact good_execLdW x0 x1 x2 x3 _ h1
  | ldWu x0 x1 x2 x3 => exact good_execLdWu x0 x1 x2 x3 _ h1
  | ldD x0 x1 x2 x3 => exact good_execLdD x0 x1 x2 x3 _ h1
  | ldv x0 x1 x2 x3 => exact good_execLdv x0 x1 x2 x3 _ h1
  | stB x0 x1 x2 x3 => exact good_execStB x0 x1 x2 x3 _ h1
  | stH x0 x1 x2 x3 => exact good_execStH x0 x1 x2 x3 _ h1
  | stW x0 x1 x2 x3 => exact good_execStW x0 x1 x2 x3 _ h1
  | stD x0 x1 x2 x3 => exact good_execStD x0 x1 x2 x3 _ h1
  | stv x0 x1 x2 x3 => exact good_execStv x0 x1 x2 x3 _ h1
  | stlW x0 x1 x2 x3 => exact good_execStlW x0 x1 x2 x3 _ h1
  | stlD x0 x1 x2 x3 => exact good_execStlD x0 x1 x2 x3 _ h1
  | amoAdd x0 x1 x2 x3 x4 => exact good_execAmoAdd x0 x1 x2 x3 x4 _ h1
  | amoAnd x0 x1 x2 x3 x4 => exact good_execAmoAnd x0 x1 x2 x3 x4 _ h1
  | amoOr x0 x1 x2 x3 x4 => exact good_execAmoOr x0 x1 x2 x3 x4 _ h1
  | amoXor x0 x1 x2 x3 x4 => exact good_execAmoXor x0 x1 x2 x3 x4 _ h1
  | amoMin x0 x1 x2 x3 x4 => exact good_execAmoMin x0 x1 x2 x3 x4 _ h1
  | amoMax x0 x1 x2 x3 x4 => exact good_execAmoMax x0 x1 x2 x3 x4 _ h1
  | amoMinu x0 x1 x2 x3 x4 => exact good_execAmoMinu x0 x1 x2 x3 x4 _ h1
  | amoMaxu x0 x1 x2 x3 x4 => exact good_execAmoMaxu x0 x1 x2 x3 x4 _ h1
  | amoSwap x0 x1 x2 x3 x4 => exact good_execAmoSwap x0 x1 x2 x3 x4 _ h1
  | cas x0 x1 x2 x3 x4 => exact good_execCas x0 x1 x2 x3 x4 _ h1
  | lda x0 x1 x2 x3 => exact good_execLda x0 x1 x2 x3 _ h1
  | calloc x0 x1 x2 x3 => exact good_execCalloc x0 x1 x2 x3 _ h1
  | cfree x0 => exact good_execCfree x0 _ h1
  | cget x0 x1 x2 => exact good_execCget x0 x1 x2 _ h1
  | cnarrow x0 x1 x2 => exact good_execCnarrow x0 x1 x2 _ h1
  | csplit x0 x1 x2 => exact good_execCsplit x0 x1 x2 _ h1
  | cjoin x0 x1 => exact good_execCjoin x0 x1 _ h1
  | csendKeep x0 x1 x2 => exact good_execCsendKeep x0 x1 x2 _ h1
  | csendMove x0 x1 x2 => exact good_execCsendMove x0 x1 x2 _ h1
  | csendAuto x0 x1 x2 => exact good_execCsendAuto x0 x1 x2 _ h1
  | csendDup x0 x1 x2 => exact good_execCsendDup x0 x1 x2 _ h1
  | crecv x0 x1 x2 x3 => exact good_execCrecv x0 x1 x2 x3 _ h1
  | cwait x0 x1 => exact good_execCwait x0 x1 _ h1
  | crevoke x0 x1 => exact good_execCrevoke x0 x1 _ h1
  | cmarkFill x0 => exact good_execCmarkFill x0 _ h1
  | cmarkFull x0 => exact good_execCmarkFull x0 _ h1
  | cmarkClrp x0 => exact good_execCmarkClrp x0 _ h1
  | qw x0 x1 => exact good_execQw x0 x1 _ h1
  | qr x0 x1 => exact good_execQr x0 x1 _ h1
  | vqw x0 x1 => exact good_execVqw x0 x1 _ h1
  | vqr x0 x1 => exact good_execVqr x0 x1 _ h1
  | sfork x0 x1 x2 => exact good_execSfork x0 x1 x2 _ h1
  | sjoin x0 => exact good_execSjoin x0 _ h1
  | chw x0 x1 => exact good_execChw x0 x1 _ h1
  | chr x0 x1 => exact good_execChr x0 x1 _ h1
  | spawn x0 x1 x2 => exact good_execSpawn x0 x1 x2 _ h1
  | spawnat x0 x1 x2 => exact good_execSpawnat x0 x1 x2 _ h1
  | joinw  => exact good_execJoinw  _ h1
  | yield  => exact good_execYield  _ h1
  | exit  => exact good_execExit  _ h1
  | wakeat x0 => exact good_execWakeat x0 _ h1
  | evth x0 x1 => exact good_execEvth x0 x1 _ h1
  | evret  => exact good_execEvret  _ h1
  | trap x0 => exact good_execTrap x0 _ h1
  | eret  => exact good_execEret  _ h1
  | rds x0 x1 => exact good_execRds x0 x1 _ h1
  | wrs x0 x1 => exact good_execWrs x0 x1 _ h1
  | ewait  => exact good_execEwait  _ h1
  | bkpt  => exact good_execBkpt  _ h1
  | oxl x0 x1 x2 => exact good_execOxl x0 x1 x2 _ h1
  | oxlH x0 x1 => exact good_execOxlH x0 x1 _ h1
  | oxli x0 x1 x2 => exact good_execOxli x0 x1 x2 _ h1
  | vadd x0 x1 x2 x3 x4 => exact good_execVadd x0 x1 x2 x3 x4 _ h1
  | vsub x0 x1 x2 x3 x4 => exact good_execVsub x0 x1 x2 x3 x4 _ h1
  | vmul x0 x1 x2 x3 x4 => exact good_execVmul x0 x1 x2 x3 x4 _ h1
  | vfma x0 x1 x2 x3 x4 => exact good_execVfma x0 x1 x2 x3 x4 _ h1
  | vfnma x0 x1 x2 x3 x4 => exact good_execVfnma x0 x1 x2 x3 x4 _ h1
  | vmin x0 x1 x2 x3 x4 => exact good_execVmin x0 x1 x2 x3 x4 _ h1
  | vmax x0 x1 x2 x3 x4 => exact good_execVmax x0 x1 x2 x3 x4 _ h1
  | vabs x0 x1 x2 x3 => exact good_execVabs x0 x1 x2 x3 _ h1
  | vneg x0 x1 x2 x3 => exact good_execVneg x0 x1 x2 x3 _ h1
  | viadd x0 x1 x2 x3 x4 x5 => exact good_execViadd x0 x1 x2 x3 x4 x5 _ h1
  | visub x0 x1 x2 x3 x4 x5 => exact good_execVisub x0 x1 x2 x3 x4 x5 _ h1
  | vimul x0 x1 x2 x3 x4 x5 => exact good_execVimul x0 x1 x2 x3 x4 x5 _ h1
  | vimac x0 x1 x2 x3 x4 x5 => exact good_execVimac x0 x1 x2 x3 x4 x5 _ h1
  | vand x0 x1 x2 x3 x4 => exact good_execVand x0 x1 x2 x3 x4 _ h1
  | vor x0 x1 x2 x3 x4 => exact good_execVor x0 x1 x2 x3 x4 _ h1
  | vxor x0 x1 x2 x3 x4 => exact good_execVxor x0 x1 x2 x3 x4 _ h1
  | vshl x0 x1 x2 x3 x4 => exact good_execVshl x0 x1 x2 x3 x4 _ h1
  | vshr x0 x1 x2 x3 x4 => exact good_execVshr x0 x1 x2 x3 x4 _ h1
  | vsra x0 x1 x2 x3 x4 => exact good_execVsra x0 x1 x2 x3 x4 _ h1
  | vcmp x0 x1 x2 x3 x4 x5 x6 => exact good_execVcmp x0 x1 x2 x3 x4 x5 x6 _ h1
  | vsel x0 x1 x2 x3 x4 => exact good_execVsel x0 x1 x2 x3 x4 _ h1
  | vmskAnd x0 x1 x2 => exact good_execVmskAnd x0 x1 x2 _ h1
  | vmskOr x0 x1 x2 => exact good_execVmskOr x0 x1 x2 _ h1
  | vmskXor x0 x1 x2 => exact good_execVmskXor x0 x1 x2 _ h1
  | vmskAndn x0 x1 x2 => exact good_execVmskAndn x0 x1 x2 _ h1
  | vmskMov x0 x1 => exact good_execVmskMov x0 x1 _ h1
  | vmskGet x0 x1 => exact good_execVmskGet x0 x1 _ h1
  | vrcp x0 x1 x2 x3 => exact good_execVrcp x0 x1 x2 x3 _ h1
  | vrsq x0 x1 x2 x3 => exact good_execVrsq x0 x1 x2 x3 _ h1
  | vsqrt x0 x1 x2 x3 => exact good_execVsqrt x0 x1 x2 x3 _ h1
  | vdiv x0 x1 x2 x3 x4 => exact good_execVdiv x0 x1 x2 x3 x4 _ h1
  | vexp x0 x1 x2 x3 => exact good_execVexp x0 x1 x2 x3 _ h1
  | vexp2 x0 x1 x2 x3 => exact good_execVexp2 x0 x1 x2 x3 _ h1
  | vlog x0 x1 x2 x3 => exact good_execVlog x0 x1 x2 x3 _ h1
  | vlog2 x0 x1 x2 x3 => exact good_execVlog2 x0 x1 x2 x3 _ h1
  | vtanh x0 x1 x2 x3 => exact good_execVtanh x0 x1 x2 x3 _ h1
  | vsigm x0 x1 x2 x3 => exact good_execVsigm x0 x1 x2 x3 _ h1
  | vcvt x0 x1 x2 x3 x4 x5 => exact good_execVcvt x0 x1 x2 x3 x4 x5 _ h1
  | vqnt x0 x1 x2 x3 x4 x5 => exact good_execVqnt x0 x1 x2 x3 x4 x5 _ h1
  | vdqn x0 x1 x2 x3 x4 => exact good_execVdqn x0 x1 x2 x3 x4 _ h1
  | vbaddq x0 x1 x2 x3 => exact good_execVbaddq x0 x1 x2 x3 _ h1
  | vperm x0 x1 x2 x3 x4 => exact good_execVperm x0 x1 x2 x3 x4 _ h1
  | vbcast x0 x1 x2 x3 => exact good_execVbcast x0 x1 x2 x3 _ h1
  | vbcastLane x0 x1 x2 x3 x4 => exact good_execVbcastLane x0 x1 x2 x3 x4 _ h1
  | vbcastLaneHigh x0 x1 x2 x3 x4 => exact good_execVbcastLaneHigh x0 x1 x2 x3 x4 _ h1
  | vreds x0 x1 x2 x3 => exact good_execVreds x0 x1 x2 x3 _ h1
  | vredmMax x0 x1 x2 x3 x4 => exact good_execVredmMax x0 x1 x2 x3 x4 _ h1
  | vredmMin x0 x1 x2 x3 x4 => exact good_execVredmMin x0 x1 x2 x3 x4 _ h1
  | vtrn x0 x1 x2 => exact good_execVtrn x0 x1 x2 _ h1
  | vgx x0 x1 x2 => exact good_execVgx x0 x1 x2 _ h1
  | vmovi x0 x1 x2 => exact good_execVmovi x0 x1 x2 _ h1
  | vmuli x0 x1 x2 => exact good_execVmuli x0 x1 x2 _ h1
  | vaddi x0 x1 x2 => exact good_execVaddi x0 x1 x2 _ h1
  | rep x0 x1 x2 => exact good_execRep x0 x1 x2 _ h1
  | oclm x0 x1 x2 => exact good_execOclm x0 x1 x2 _ h1
  | orel x0 => exact good_execOrel x0 _ h1
  | old x0 x1 x2 x3 x4 x5 => exact good_execOld x0 x1 x2 x3 x4 x5 _ h1
  | mma x0 x1 x2 x3 x4 x5 x6 => exact good_execMma x0 x1 x2 x3 x4 x5 x6 _ h1
  | mmap x0 x1 x2 x3 x4 x5 x6 => exact good_execMmap x0 x1 x2 x3 x4 x5 x6 _ h1
  | mzero x0 x1 => exact good_execMzero x0 x1 _ h1
  | hbind x0 x1 x2 => exact good_execHbind x0 x1 x2 _ h1
  | mmd x0 x1 x2 x3 x4 x5 x6 => exact good_execMmd x0 x1 x2 x3 x4 x5 x6 _ h1
  | hkill x0 x1 => exact good_execHkill x0 x1 _ h1
  | hstat x0 x1 x2 => exact good_execHstat x0 x1 x2 _ h1
  | ggeoRng x0 x1 x2 => exact good_execGgeoRng x0 x1 x2 _ h1
  | ggeoEdge x0 x1 x2 => exact good_execGgeoEdge x0 x1 x2 _ h1
  | copy x0 x1 x2 x3 x4 => exact good_execCopy x0 x1 x2 x3 x4 _ h1
  | copyMove x0 x1 x2 => exact good_execCopyMove x0 x1 x2 _ h1
  | copyAuto x0 x1 x2 => exact good_execCopyAuto x0 x1 x2 _ h1
  | copyPkt x0 x1 => exact good_execCopyPkt x0 x1 _ h1
  | copym x0 x1 x2 x3 x4 x5 x6 x7 => exact good_execCopym x0 x1 x2 x3 x4 x5 x6 x7 _ h1
  | gath x0 x1 x2 x3 x4 => exact good_execGath x0 x1 x2 x3 x4 _ h1
  | fill x0 x1 x2 x3 => exact good_execFill x0 x1 x2 x3 _ h1
  | srinv x0 x1 => exact good_execSrinv x0 x1 _ h1
  | srinvAll  => exact good_execSrinvAll  _ h1
  | qapp x0 x1 x2 x3 x4 => exact good_execQapp x0 x1 x2 x3 x4 _ h1
  | selt x0 x1 x2 x3 x4 => exact good_execSelt x0 x1 x2 x3 x4 _ h1
  | halo x0 x1 x2 x3 x4 => exact good_execHalo x0 x1 x2 x3 x4 _ h1
  | mbox x0 x1 => exact good_execMbox x0 x1 _ h1
  | mboxWait x0 x1 => exact good_execMboxWait x0 x1 _ h1
  | bara x0 x1 x2 x3 => exact good_execBara x0 x1 x2 x3 _ h1
  | barw  => exact good_execBarw  _ h1
  | bar x0 x1 x2 x3 => exact good_execBar x0 x1 x2 x3 _ h1
  | scnb x0 x1 => exact good_execScnb x0 x1 _ h1
  | scnp x0 x1 => exact good_execScnp x0 x1 _ h1
  | scng x0 x1 => exact good_execScng x0 x1 _ h1
  | scne x0 x1 => exact good_execScne x0 x1 _ h1
  | scneClose x0 x1 => exact good_execScneClose x0 x1 _ h1
  | swcr x0 x1 x2 => exact good_execSwcr x0 x1 x2 _ h1
  | swadd x0 x1 x2 => exact good_execSwadd x0 x1 x2 _ h1
  | swdel x0 => exact good_execSwdel x0 _ h1
  | swnxt x0 x1 => exact good_execSwnxt x0 x1 _ h1
  | swrpt x0 x1 => exact good_execSwrpt x0 x1 _ h1
  | swset x0 x1 x2 => exact good_execSwset x0 x1 x2 _ h1
  | swsetNb x0 x1 => exact good_execSwsetNb x0 x1 _ h1
  | swnb x0 x1 x2 x3 => exact good_execSwnb x0 x1 x2 x3 _ h1
  | swadv x0 x1 => exact good_execSwadv x0 x1 _ h1
  | cswdRead x0 => exact good_execCswdRead x0 _ h1
  | cswdWrite x0 => exact good_execCswdWrite x0 _ h1
  | controlSpaceWrite x0 x1 x2 => exact good_execControlSpaceWrite x0 x1 x2 _ h1
  | elstatClear x0 x1 => exact good_execElstatClear x0 x1 _ h1
  | winreqGo x0 => exact good_execWinreqGo x0 _ h1
  | winfree x0 => exact good_execWinfree x0 _ h1
  | peerEpochWrite x0 x1 => exact good_execPeerEpochWrite x0 x1 _ h1
  | shareTableWrite x0 x1 x2 => exact good_execShareTableWrite x0 x1 x2 _ h1
  | queueTableWrite x0 x1 x2 => exact good_execQueueTableWrite x0 x1 x2 _ h1
  | translationInvalidate x0 => exact good_execTranslationInvalidate x0 _ h1
  | seize  => exact good_execSeize  _ h1
  | resumeFromImage  => exact good_execResumeFromImage  _ h1
  | thaw  => exact good_execThaw  _ h1
  | quiesceComplete  => exact good_execQuiesceComplete  _ h1
  | streamComplete  => exact good_execStreamComplete  _ h1
  | streamPortsFailed  => exact good_execStreamPortsFailed  _ h1
  | restoreComplete  => exact good_execRestoreComplete  _ h1
  | restoreFailure  => exact good_execRestoreFailure  _ h1
  | reset  => exact good_execReset  _ h1
  | configBlockLoad x0 x1 => exact good_execConfigBlockLoad x0 x1 _ h1
  | launch x0 x1 => exact good_execLaunch x0 x1 _ h1
  | launchComplete x0 => exact good_execLaunchComplete x0 _ h1
  | signalPacket x0 x1 => exact good_execSignalPacket x0 x1 _ h1
  | spawnPacket x0 x1 => exact good_execSpawnPacket x0 x1 _ h1
  | capabilityMessageConsume x0 x1 => exact good_execCapabilityMessageConsume x0 x1 _ h1
  | hostConsume x0 x1 => exact good_execHostConsume x0 x1 _ h1
  | queueConsume x0 => exact good_execQueueConsume x0 _ h1
  | copyPacketConsume x0 x1 => exact good_execCopyPacketConsume x0 x1 _ h1
  | qappEntryWrite x0 x1 => exact good_execQappEntryWrite x0 x1 _ h1
  | timerTick x0 => exact good_execTimerTick x0 _ h1
  | ptpStep x0 => exact good_execPtpStep x0 _ h1
  | ptpLockLost x0 => exact good_execPtpLockLost x0 _ h1
  | rotationBoundary x0 => exact good_execRotationBoundary x0 _ h1
  | shareWindowStart x0 => exact good_execShareWindowStart x0 _ h1
  | rampInterval x0 => exact good_execRampInterval x0 _ h1
  | budg x0 => exact good_execBudg x0 _ h1
  | wdog x0 => exact good_execWdog x0 _ h1
  | slotChoice x0 x1 => exact good_execSlotChoice x0 x1 _ h1
  | dequePlaceFreed x0 => exact good_execDequePlaceFreed x0 _ h1
  | stealRound x0 x1 => exact good_execStealRound x0 x1 _ h1
  | stealRequest x0 x1 x2 => exact good_execStealRequest x0 x1 x2 _ h1
  | stealOffer x0 x1 x2 => exact good_execStealOffer x0 x1 x2 _ h1
  | donationArrival x0 x1 x2 x3 => exact good_execDonationArrival x0 x1 x2 x3 _ h1
  | waitConditionMet x0 x1 => exact good_execWaitConditionMet x0 x1 _ h1
  | taskRequeue x0 => exact good_execTaskRequeue x0 _ h1
  | userEvent x0 => exact good_execUserEvent x0 _ h1
  | loadResponse x0 x1 => exact good_execLoadResponse x0 x1 _ h1
  | homePerform x0 => exact good_execHomePerform x0 _ h1
  | storeBufferDrain x0 x1 => exact good_execStoreBufferDrain x0 x1 _ h1
  | walkStart x0 => exact good_execWalkStart x0 _ h1
  | walkComplete x0 x1 => exact good_execWalkComplete x0 x1 _ h1
  | matrixOpStart x0 => exact good_execMatrixOpStart x0 _ h1
  | matrixOpComplete x0 x1 => exact good_execMatrixOpComplete x0 x1 _ h1
  | oldJoin x0 x1 x2 => exact good_execOldJoin x0 x1 x2 _ h1
  | transferJoin x0 x1 => exact good_execTransferJoin x0 x1 _ h1
  | engineLegError x0 x1 x2 x3 x4 => exact good_execEngineLegError x0 x1 x2 x3 x4 _ h1
  | scanUnitLeg x0 x1 x2 => exact good_execScanUnitLeg x0 x1 x2 _ h1
  | csendDelivery x0 => exact good_execCsendDelivery x0 _ h1
  | moveBytesLanded x0 => exact good_execMoveBytesLanded x0 _ h1
  | bounceEnqueue x0 => exact good_execBounceEnqueue x0 _ h1
  | tileAsidClear x0 x1 => exact good_execTileAsidClear x0 x1 _ h1
  | channelWordArrival x0 x1 => exact good_execChannelWordArrival x0 x1 _ h1
  | channelCreditReturn x0 x1 => exact good_execChannelCreditReturn x0 x1 _ h1
  | neighbourExitedFlag x0 x1 => exact good_execNeighbourExitedFlag x0 x1 _ h1
  | haloReceive x0 x1 => exact good_execHaloReceive x0 x1 _ h1
  | haloReply x0 x1 => exact good_execHaloReply x0 x1 _ h1
  | haloDepositJoin x0 x1 => exact good_execHaloDepositJoin x0 x1 _ h1
  | barrierRelease x0 x1 => exact good_execBarrierRelease x0 x1 _ h1
  | scanCarryReady x0 x1 => exact good_execScanCarryReady x0 x1 _ h1
  | epochClose x0 x1 x2 => exact good_execEpochClose x0 x1 x2 _ h1
  | leavingMark x0 x1 => exact good_execLeavingMark x0 x1 _ h1
  | sweepRelease x0 x1 => exact good_execSweepRelease x0 x1 _ h1
  | hbmRecalibration x0 x1 => exact good_execHbmRecalibration x0 x1 _ h1
  | alertBackoff x0 x1 x2 => exact good_execAlertBackoff x0 x1 x2 _ h1
  | powerMeasurement x0 x1 x2 => exact good_execPowerMeasurement x0 x1 x2 _ h1
  | thermalReading x0 x1 => exact good_execThermalReading x0 x1 _ h1
  | clockStepChange x0 x1 => exact good_execClockStepChange x0 x1 _ h1
  | ageingMonitorRead x0 => exact good_execAgeingMonitorRead x0 _ h1
  | meshFlitCrcError x0 x1 => exact good_execMeshFlitCrcError x0 x1 _ h1
  | meshLinkFailure x0 x1 x2 => exact good_execMeshLinkFailure x0 x1 x2 _ h1
  | torusRestitch x0 => exact good_execTorusRestitch x0 _ h1
  | replay x0 => exact good_execReplay x0 _ h1
  | portRetrain x0 x1 => exact good_execPortRetrain x0 x1 _ h1
  | hostHntWrite x0 x1 x2 => exact good_execHostHntWrite x0 x1 x2 _ h1
  | hpkstRead x0 => exact good_execHpkstRead x0 _ h1
  | hostTicketClaim x0 => exact good_execHostTicketClaim x0 _ h1
  | hostRingWrite x0 x1 x2 => exact good_execHostRingWrite x0 x1 x2 _ h1
  | hostWindowAccess x0 x1 => exact good_execHostWindowAccess x0 x1 _ h1
  | birsp x0 x1 => exact good_execBirsp x0 x1 _ h1
  | flushPacket x0 => exact good_execFlushPacket x0 _ h1
  | write x0 => exact good_execWrite x0 _ h1
  | read x0 => exact good_execRead x0 _ h1
  | rdresp x0 => exact good_execRdresp x0 _ h1
  | atomic x0 => exact good_execAtomic x0 _ h1
  | atresp x0 => exact good_execAtresp x0 _ h1
  | capxfer x0 => exact good_execCapxfer x0 _ h1
  | ack x0 => exact good_execAck x0 _ h1
  | nak x0 => exact good_execNak x0 _ h1
  | revoke x0 => exact good_execRevoke x0 _ h1
  | wrenq x0 => exact good_execWrenq x0 _ h1
  | redblk x0 x1 => exact good_execRedblk x0 x1 _ h1
  | resync x0 => exact good_execResync x0 _ h1
  | frz x0 => exact good_execFrz x0 _ h1
  | hntAckTimer x0 => exact good_execHntAckTimer x0 _ h1
  | hntRetransmit x0 => exact good_execHntRetransmit x0 _ h1
  | hntBeyondRecovery x0 => exact good_execHntBeyondRecovery x0 _ h1
  | getVersion x0 => exact good_execGetVersion x0 _ h1
  | getCapabilities x0 => exact good_execGetCapabilities x0 _ h1
  | negotiateAlgorithms x0 => exact good_execNegotiateAlgorithms x0 _ h1
  | getCertificate x0 => exact good_execGetCertificate x0 _ h1
  | challenge x0 x1 => exact good_execChallenge x0 x1 _ h1
  | getMeasurements x0 x1 => exact good_execGetMeasurements x0 x1 _ h1
  | portFailure x0 => exact good_execPortFailure x0 _ h1
  | queueViewCreate x0 x1 => exact good_execQueueViewCreate x0 x1 _ h1
  | sinkCreate x0 x1 x2 x3 => exact good_execSinkCreate x0 x1 x2 x3 _ h1
theorem good_runEvent (a0 : Event) (a1 : State) (h1 : Good a1) : GoodOut (runEvent a0 a1) := by
  cases a0 with
  | cswdRead x0 => exact good_execCswdRead x0 _ h1
  | cswdWrite x0 => exact good_execCswdWrite x0 _ h1
  | controlSpaceWrite x0 x1 x2 => exact good_execControlSpaceWrite x0 x1 x2 _ h1
  | elstatClear x0 x1 => exact good_execElstatClear x0 x1 _ h1
  | winreqGo x0 => exact good_execWinreqGo x0 _ h1
  | winfree x0 => exact good_execWinfree x0 _ h1
  | peerEpochWrite x0 x1 => exact good_execPeerEpochWrite x0 x1 _ h1
  | shareTableWrite x0 x1 x2 => exact good_execShareTableWrite x0 x1 x2 _ h1
  | queueTableWrite x0 x1 x2 => exact good_execQueueTableWrite x0 x1 x2 _ h1
  | translationInvalidate x0 => exact good_execTranslationInvalidate x0 _ h1
  | seize  => exact good_execSeize  _ h1
  | resumeFromImage  => exact good_execResumeFromImage  _ h1
  | thaw  => exact good_execThaw  _ h1
  | quiesceComplete  => exact good_execQuiesceComplete  _ h1
  | streamComplete  => exact good_execStreamComplete  _ h1
  | streamPortsFailed  => exact good_execStreamPortsFailed  _ h1
  | restoreComplete  => exact good_execRestoreComplete  _ h1
  | restoreFailure  => exact good_execRestoreFailure  _ h1
  | reset  => exact good_execReset  _ h1
  | configBlockLoad x0 x1 => exact good_execConfigBlockLoad x0 x1 _ h1
  | launch x0 x1 => exact good_execLaunch x0 x1 _ h1
  | launchComplete x0 => exact good_execLaunchComplete x0 _ h1
  | signalPacket x0 x1 => exact good_execSignalPacket x0 x1 _ h1
  | spawnPacket x0 x1 => exact good_execSpawnPacket x0 x1 _ h1
  | capabilityMessageConsume x0 x1 => exact good_execCapabilityMessageConsume x0 x1 _ h1
  | hostConsume x0 x1 => exact good_execHostConsume x0 x1 _ h1
  | queueConsume x0 => exact good_execQueueConsume x0 _ h1
  | copyPacketConsume x0 x1 => exact good_execCopyPacketConsume x0 x1 _ h1
  | qappEntryWrite x0 x1 => exact good_execQappEntryWrite x0 x1 _ h1
  | timerTick x0 => exact good_execTimerTick x0 _ h1
  | ptpStep x0 => exact good_execPtpStep x0 _ h1
  | ptpLockLost x0 => exact good_execPtpLockLost x0 _ h1
  | rotationBoundary x0 => exact good_execRotationBoundary x0 _ h1
  | shareWindowStart x0 => exact good_execShareWindowStart x0 _ h1
  | rampInterval x0 => exact good_execRampInterval x0 _ h1
  | budg x0 => exact good_execBudg x0 _ h1
  | wdog x0 => exact good_execWdog x0 _ h1
  | slotChoice x0 x1 => exact good_execSlotChoice x0 x1 _ h1
  | dequePlaceFreed x0 => exact good_execDequePlaceFreed x0 _ h1
  | stealRound x0 x1 => exact good_execStealRound x0 x1 _ h1
  | stealRequest x0 x1 x2 => exact good_execStealRequest x0 x1 x2 _ h1
  | stealOffer x0 x1 x2 => exact good_execStealOffer x0 x1 x2 _ h1
  | donationArrival x0 x1 x2 x3 => exact good_execDonationArrival x0 x1 x2 x3 _ h1
  | waitConditionMet x0 x1 => exact good_execWaitConditionMet x0 x1 _ h1
  | taskRequeue x0 => exact good_execTaskRequeue x0 _ h1
  | userEvent x0 => exact good_execUserEvent x0 _ h1
  | loadResponse x0 x1 => exact good_execLoadResponse x0 x1 _ h1
  | homePerform x0 => exact good_execHomePerform x0 _ h1
  | storeBufferDrain x0 x1 => exact good_execStoreBufferDrain x0 x1 _ h1
  | walkStart x0 => exact good_execWalkStart x0 _ h1
  | walkComplete x0 x1 => exact good_execWalkComplete x0 x1 _ h1
  | matrixOpStart x0 => exact good_execMatrixOpStart x0 _ h1
  | matrixOpComplete x0 x1 => exact good_execMatrixOpComplete x0 x1 _ h1
  | oldJoin x0 x1 x2 => exact good_execOldJoin x0 x1 x2 _ h1
  | transferJoin x0 x1 => exact good_execTransferJoin x0 x1 _ h1
  | engineLegError x0 x1 x2 x3 x4 => exact good_execEngineLegError x0 x1 x2 x3 x4 _ h1
  | scanUnitLeg x0 x1 x2 => exact good_execScanUnitLeg x0 x1 x2 _ h1
  | csendDelivery x0 => exact good_execCsendDelivery x0 _ h1
  | moveBytesLanded x0 => exact good_execMoveBytesLanded x0 _ h1
  | bounceEnqueue x0 => exact good_execBounceEnqueue x0 _ h1
  | tileAsidClear x0 x1 => exact good_execTileAsidClear x0 x1 _ h1
  | channelWordArrival x0 x1 => exact good_execChannelWordArrival x0 x1 _ h1
  | channelCreditReturn x0 x1 => exact good_execChannelCreditReturn x0 x1 _ h1
  | neighbourExitedFlag x0 x1 => exact good_execNeighbourExitedFlag x0 x1 _ h1
  | haloReceive x0 x1 => exact good_execHaloReceive x0 x1 _ h1
  | haloReply x0 x1 => exact good_execHaloReply x0 x1 _ h1
  | haloDepositJoin x0 x1 => exact good_execHaloDepositJoin x0 x1 _ h1
  | barrierRelease x0 x1 => exact good_execBarrierRelease x0 x1 _ h1
  | scanCarryReady x0 x1 => exact good_execScanCarryReady x0 x1 _ h1
  | epochClose x0 x1 x2 => exact good_execEpochClose x0 x1 x2 _ h1
  | leavingMark x0 x1 => exact good_execLeavingMark x0 x1 _ h1
  | sweepRelease x0 x1 => exact good_execSweepRelease x0 x1 _ h1
  | hbmRecalibration x0 x1 => exact good_execHbmRecalibration x0 x1 _ h1
  | alertBackoff x0 x1 x2 => exact good_execAlertBackoff x0 x1 x2 _ h1
  | powerMeasurement x0 x1 x2 => exact good_execPowerMeasurement x0 x1 x2 _ h1
  | thermalReading x0 x1 => exact good_execThermalReading x0 x1 _ h1
  | clockStepChange x0 x1 => exact good_execClockStepChange x0 x1 _ h1
  | ageingMonitorRead x0 => exact good_execAgeingMonitorRead x0 _ h1
  | meshFlitCrcError x0 x1 => exact good_execMeshFlitCrcError x0 x1 _ h1
  | meshLinkFailure x0 x1 x2 => exact good_execMeshLinkFailure x0 x1 x2 _ h1
  | torusRestitch x0 => exact good_execTorusRestitch x0 _ h1
  | replay x0 => exact good_execReplay x0 _ h1
  | portRetrain x0 x1 => exact good_execPortRetrain x0 x1 _ h1
  | hostHntWrite x0 x1 x2 => exact good_execHostHntWrite x0 x1 x2 _ h1
  | hpkstRead x0 => exact good_execHpkstRead x0 _ h1
  | hostTicketClaim x0 => exact good_execHostTicketClaim x0 _ h1
  | hostRingWrite x0 x1 x2 => exact good_execHostRingWrite x0 x1 x2 _ h1
  | hostWindowAccess x0 x1 => exact good_execHostWindowAccess x0 x1 _ h1
  | birsp x0 x1 => exact good_execBirsp x0 x1 _ h1
  | flushPacket x0 => exact good_execFlushPacket x0 _ h1
  | write x0 => exact good_execWrite x0 _ h1
  | read x0 => exact good_execRead x0 _ h1
  | rdresp x0 => exact good_execRdresp x0 _ h1
  | atomic x0 => exact good_execAtomic x0 _ h1
  | atresp x0 => exact good_execAtresp x0 _ h1
  | capxfer x0 => exact good_execCapxfer x0 _ h1
  | ack x0 => exact good_execAck x0 _ h1
  | nak x0 => exact good_execNak x0 _ h1
  | revoke x0 => exact good_execRevoke x0 _ h1
  | wrenq x0 => exact good_execWrenq x0 _ h1
  | redblk x0 x1 => exact good_execRedblk x0 x1 _ h1
  | resync x0 => exact good_execResync x0 _ h1
  | frz x0 => exact good_execFrz x0 _ h1
  | hntAckTimer x0 => exact good_execHntAckTimer x0 _ h1
  | hntRetransmit x0 => exact good_execHntRetransmit x0 _ h1
  | hntBeyondRecovery x0 => exact good_execHntBeyondRecovery x0 _ h1
  | getVersion x0 => exact good_execGetVersion x0 _ h1
  | getCapabilities x0 => exact good_execGetCapabilities x0 _ h1
  | negotiateAlgorithms x0 => exact good_execNegotiateAlgorithms x0 _ h1
  | getCertificate x0 => exact good_execGetCertificate x0 _ h1
  | challenge x0 x1 => exact good_execChallenge x0 x1 _ h1
  | getMeasurements x0 x1 => exact good_execGetMeasurements x0 x1 _ h1
  | portFailure x0 => exact good_execPortFailure x0 _ h1
  | queueViewCreate x0 x1 => exact good_execQueueViewCreate x0 x1 _ h1
  | sinkCreate x0 x1 x2 x3 => exact good_execSinkCreate x0 x1 x2 x3 _ h1
theorem good_State_pollTasks (a0 : State) (h0 : Good a0) : (Opt GoodOut) (State.pollTasks a0) := by
  unfold State.pollTasks
  repeat' (first | apply opt_findSome | apply opt_map | intro _ | split)
  all_goals grind [good_execBounceEnqueue, good_execWaitConditionMet, good_execTaskRequeue, Good, State.Canonical, Device.Canonical, GoodOut, Opt, Fst, Snd]
theorem good_State_pollScan (a0 : State) (h0 : Good a0) : (Opt GoodOut) (State.pollScan a0) := by
  unfold State.pollScan
  repeat' (first | apply opt_findSome | apply opt_map | intro _ | split)
  all_goals grind [good_State_lookAgain, good_execScanCarryReady, good_execEpochClose, good_execLeavingMark, Good, State.Canonical, Device.Canonical, GoodOut, Opt, Fst, Snd]
theorem good_State_pollDeques (a0 : State) (h0 : Good a0) : (Opt GoodOut) (State.pollDeques a0) := by
  unfold State.pollDeques
  repeat' (first | apply opt_findSome | apply opt_map | intro _ | split)
  all_goals grind [good_execDequePlaceFreed, good_execSlotChoice, Good, State.Canonical, Device.Canonical, GoodOut, Opt, Fst, Snd]
theorem good_State_pollStores (a0 : State) (h0 : Good a0) : (Opt GoodOut) (State.pollStores a0) := by
  unfold State.pollStores
  repeat' (first | apply opt_findSome | apply opt_map | intro _ | split)
  all_goals grind [good_execStoreBufferDrain, good_State_pushDrain, Good, State.Canonical, Device.Canonical, GoodOut, Opt, Fst, Snd]
theorem good_State_pollWalks (a0 : State) (h0 : Good a0) : (Opt GoodOut) (State.pollWalks a0) := by
  unfold State.pollWalks
  repeat' (first | apply opt_findSome | apply opt_map | intro _ | split)
  all_goals grind [good_execWalkComplete, good_execWalkStart, Good, State.Canonical, Device.Canonical, GoodOut, Opt, Fst, Snd]
theorem good_State_pollTiles (a0 : State) (h0 : Good a0) : (Opt GoodOut) (State.pollTiles a0) := by
  unfold State.pollTiles
  split
  · exact good_execMatrixOpStart _ _ h0
  · exact opt_findSome _ fun t => opt_map _ fun a => good_execTileAsidClear _ _ _ h0
theorem good_State_pollSweep (a0 : State) (h0 : Good a0) : (Opt GoodOut) (State.pollSweep a0) := by
  unfold State.pollSweep
  split
  · rename_i _ u hq
    show Good u
    refine opt_ok hq (opt_findSome (P := Good) _ fun t => ?_)
    split
    · split
      · rename_i h _ _ _ _ _
        have k := good_State_focusOn a0 t.tid t.no h0
        generalize a0.focusOn t.tid t.no = o at k
        cases o with
        | none => trivial
        | some f => exact good_State_sweepArrive _ _ k
      · trivial
    · trivial
  · split
    · rename_i _ u hq
      show Good u
      exact opt_ok hq (opt_findSome (P := Good) _ fun d => opt_map _ fun c => good_State_startAdvance _ _ _ h0)
    · refine opt_findSome _ fun h => ?_
      split
      · split
        · exact good_State_endSwadv _ _ _ _ h0
        · trivial
      · trivial
theorem good_packetStep (a0 : Packet) (a1 : State) (h1 : Good a1) : GoodOut (packetStep a0 a1) := by
  unfold packetStep; grind [good_execWrite, good_execRead, good_execRdresp, good_execAtomic, good_execAtresp, good_execCapxfer, good_execRevoke, good_execWrenq, good_execRedblk, good_execFrz, Good, State.Canonical, Device.Canonical, GoodOut, Opt, Res, Fst, Snd, Both, GoodFound, GoodServe, GoodFillPlan, GoodGot]
theorem good_State_pollFabric (a0 : State) (h0 : Good a0) : (Opt GoodOut) (State.pollFabric a0) := by
  unfold State.pollFabric
  split
  · exact good_execHntBeyondRecovery _ _ h0
  · split
    · exact good_execHntRetransmit _ _ h0
    · split
      · rename_i _ u hq
        show Good u
        refine opt_ok hq (opt_findSome (P := Good) _ fun l => ?_)
        split
        · rename_i p _ _
          have k := good_packetStep p a0 h0
          split
          · rename_i hp
            rw [hp] at k
            split
            · exact k
            · trivial
          · trivial
        · trivial
      · split
        · exact good_State_handBlock _ _ h0
        · have k := good_State_nextHostPacket a0 h0
          generalize a0.nextHostPacket = o at k
          cases o with
          | none => trivial
          | some t => exact k
theorem good_State_pollBoundary (a0 : State) (h0 : Good a0) : (Opt GoodOut) (State.pollBoundary a0) := by
  unfold State.pollBoundary
  refine opt_findSome _ fun h => ?_
  split
  · split
    · exact good_execBudg _ _ h0
    · split
      · exact good_execWdog _ _ h0
      · split
        · exact good_execUserEvent _ _ h0
        · trivial
  · trivial
theorem good_State_pollSteal (a0 : State) (h0 : Good a0) : (Opt GoodOut) (State.pollSteal a0) := by
  unfold State.pollSteal
  generalize upTo 40960 = l
  split
  · exact good_execStealRound _ _ _ h0
  · split
    · apply opt_map
      intro k
      exact good_execStealRound _ _ _ h0
    · trivial
theorem good_State_pollBursts (a0 : State) (h0 : Good a0) : (Opt GoodOut) (State.pollBursts a0) := by
  unfold State.pollBursts
  split
  · trivial
  · exact opt_findSome _ fun d => opt_map _ fun c => good_execHbmRecalibration _ _ _ h0
theorem good_State_poll (a0 : State) (h0 : Good a0) : (Opt GoodOut) (State.poll a0) := by
  unfold State.poll
  have k1 := good_State_pollErrors a0 h0
  have k2 := good_State_pollEnding a0 h0
  refine opt_findSome_mem _ fun o ho => ?_
  simp only [List.mem_cons, List.not_mem_nil, or_false] at ho
  rcases ho with rfl | rfl | rfl | rfl | rfl | rfl | rfl | rfl | rfl | rfl
  · generalize a0.pollErrors = o at k1
    cases o with | none => trivial | some t => exact k1
  · exact good_State_pollTasks a0 h0
  · exact good_State_pollScan a0 h0
  · exact good_State_pollDeques a0 h0
  · exact good_State_pollStores a0 h0
  · exact good_State_pollWalks a0 h0
  · exact good_State_pollTiles a0 h0
  · exact good_State_pollSweep a0 h0
  · exact good_State_pollFabric a0 h0
  · generalize a0.pollEnding = o at k2
    cases o with | none => trivial | some t => exact k2
theorem good_State_pollLate (a0 : State) (h0 : Good a0) : (Opt GoodOut) (State.pollLate a0) := by
  unfold State.pollLate
  refine opt_findSome_mem _ fun o ho => ?_
  simp only [List.mem_cons, List.not_mem_nil, or_false] at ho
  rcases ho with rfl | rfl
  · exact good_State_pollSteal a0 h0
  · exact good_State_pollBursts a0 h0
theorem good_runNext (a0 : State) (h0 : Good a0) : GoodOut (runNext a0) := by
  unfold runNext; grind [good_State_noteFetch, good_raise, good_exec, Good, State.Canonical, Device.Canonical, GoodOut, Opt, Res, Fst, Snd, Both, GoodFound, GoodServe, GoodFillPlan, GoodGot]
theorem good_turn (a0 : State) (h0 : Good a0) : GoodOut (turn a0) := by
  unfold turn; grind [good_raise, good_State_setHart, good_runNext, good_State_takeSeiz, good_execBudg, good_execWdog, good_execUserEvent, Good, State.Canonical, Device.Canonical, GoodOut, Opt, Res, Fst, Snd, Both, GoodFound, GoodServe, GoodFillPlan, GoodGot]
theorem good_State_issue (a0 : State) (a1 : Nat) (h0 : Good a0) : GoodOut (State.issue a0 a1) := by
  unfold State.issue; grind [good_State_modTile, good_State_focusOn, good_turn, good_State_setHart, good_State_setTile, Good, State.Canonical, Device.Canonical, GoodOut, Opt, Res, Fst, Snd, Both, GoodFound, GoodServe, GoodFillPlan, GoodGot]
theorem good_State_chargeClock (a0 : State) (h0 : Good a0) : Good (State.chargeClock a0) := by
  unfold State.chargeClock; grind [Good, State.Canonical, Device.Canonical, GoodOut, Opt, Res, Fst, Snd, Both, GoodFound, GoodServe, GoodFillPlan, GoodGot]
theorem good_State_startClock (a0 : State) (a1 : Nat) (h0 : Good a0) : Good (State.startClock a0 a1) := by
  unfold State.startClock; grind [good_State_schedule, Good, State.Canonical, Device.Canonical, GoodOut, Opt, Res, Fst, Snd, Both, GoodFound, GoodServe, GoodFillPlan, GoodGot, good_foldl]
theorem good_State_passTime (a0 : State) (h0 : Good a0) : Good (State.passTime a0) := by
  unfold State.passTime; grind [good_State_draw, Good, State.Canonical, Device.Canonical, GoodOut, Opt, Res, Fst, Snd, Both, GoodFound, GoodServe, GoodFillPlan, GoodGot]
theorem good_State_edge (a0 : State) (h0 : Good a0) : Good (State.edge a0) := by
  unfold State.edge; grind [good_State_passTime, good_State_chargeClock, good_State_startClock, Good, State.Canonical, Device.Canonical, GoodOut, Opt, Res, Fst, Snd, Both, GoodFound, GoodServe, GoodFillPlan, GoodGot]
theorem good_State_advance_go (a0 : State) (h0 : Good a0) : GoodOut (State.advance.go a0) := by
  unfold State.advance.go; grind [good_State_poll, good_State_issue, good_State_pollLate, good_State_edge, Good, State.Canonical, Device.Canonical, GoodOut, Opt, Res, Fst, Snd, Both, GoodFound, GoodServe, GoodFillPlan, GoodGot]
theorem good_State_advance (a0 : State) (h0 : Good a0) : GoodOut (State.advance a0) := by
  unfold State.advance; grind [good_State_pollBoundary, good_runEvent, good_State_setAgenda, good_State_advance_go, Good, State.Canonical, Device.Canonical, GoodOut, Opt, Res, Fst, Snd, Both, GoodFound, GoodServe, GoodFillPlan, GoodGot]
theorem good_State_atClock (a0 : State) (a1 : Nat) (a2 : State → Out) (h0 : Good a0) (h2 : ∀ (y0 : State), Good y0 → GoodOut (a2 y0)) : GoodOut (State.atClock a0 a1 a2) := by
  unfold State.atClock; grind [good_State_at_, Good, State.Canonical, Device.Canonical, GoodOut, Opt, Res, Fst, Snd, Both, GoodFound, GoodServe, GoodFillPlan, GoodGot]
theorem good_State_idleTick (a0 : State) (h0 : Good a0) : Good (State.idleTick a0) := by
  unfold State.idleTick; grind [good_State_passTime, good_State_setAgenda, Good, State.Canonical, Device.Canonical, GoodOut, Opt, Res, Fst, Snd, Both, GoodFound, GoodServe, GoodFillPlan, GoodGot]
theorem good_State_quiesce (a0 : State) (h0 : Good a0) : GoodOut (State.quiesce a0) := by
  unfold State.quiesce
  repeat' split
  all_goals grind [good_State_atClock, good_runEvent, good_execStoreBufferDrain, good_State_nextPush, good_execMatrixOpStart, good_State_focusOn, good_State_sweepArrive, good_execQuiesceComplete, good_execHntBeyondRecovery, good_execHntRetransmit, good_State_idleTick, Good, State.Canonical, Device.Canonical, GoodOut, Opt, Res, Fst, Snd, Both, GoodFound, GoodServe, GoodFillPlan, GoodGot, good_foldl]
theorem good_State_seized (a0 : State) (h0 : Good a0) : GoodOut (State.seized a0) := by
  unfold State.seized; grind [good_runEvent, good_State_setAgenda, good_State_quiesce, good_execStreamComplete, good_execStreamPortsFailed, good_execRestoreComplete, good_execRestoreFailure, good_State_idleTick, Good, State.Canonical, Device.Canonical, GoodOut, Opt, Res, Fst, Snd, Both, GoodFound, GoodServe, GoodFillPlan, GoodGot]
theorem good_State_quiet (a0 : State) (h0 : Good a0) : Good (State.quiet a0) := by
  unfold State.quiet; grind [Good, State.Canonical, Device.Canonical, GoodOut, Opt, Res, Fst, Snd, Both, GoodFound, GoodServe, GoodFillPlan, GoodGot]
theorem good_State_placeCode (a0 : State) (a1 : List Byte) (h0 : Good a0) : Good (State.placeCode a0 a1) := by
  unfold State.placeCode; grind [good_State_quiet, good_State_writePhys, good_State_putRec, Good, State.Canonical, Device.Canonical, GoodOut, Opt, Res, Fst, Snd, Both, GoodFound, GoodServe, GoodFillPlan, GoodGot]
theorem good_State_withFetchWord (a0 : State) (a1 : Nat) (a2 : Nat) (h0 : Good a0) : Good (State.withFetchWord a0 a1 a2) := by
  unfold State.withFetchWord; grind [good_State_placeCode, Good, State.Canonical, Device.Canonical, GoodOut, Opt, Res, Fst, Snd, Both, GoodFound, GoodServe, GoodFillPlan, GoodGot]

end Sys2Proof.Machine
end

