-- ==== Sys2Proof/Laws/Memory.lean ====
section
/-!
SUPPORT. Reading memory after it was written.
-/
namespace Sys2Proof.Machine

open Sys2Proof

theorem memGet_below {a : Nat} {m : List Host.Cell} (h : ∀ c ∈ m, a < c.1) : memGet a m = unlisted := by
  cases m with
  | nil => rfl
  | cons c m =>
    obtain ⟨k, b⟩ := c
    have k1 : a < k := h (k, b) (by simp)
    unfold memGet; rw [if_neg (by omega), if_pos k1]

/-- A byte reads as it was last written, every other byte as before. -/
theorem memGet_memSet {a b : Nat} {v : Byte} {m : List Host.Cell} (h : Memory.wf m = true) : memGet b (memSet a v m) = if b = a then v else memGet b m := by
  induction m with
  | nil =>
    unfold memSet
    split
    · rename_i hv; split
      · exact hv.symm
      · rfl
    · simp only [memGet]; grind
  | cons c m ih =>
    obtain ⟨k, w⟩ := c
    rw [wf_cons] at h
    have hb := fun (x : Nat) (hx : x ≤ k) => memGet_below (a := x) (m := m) fun c hc => Nat.lt_of_le_of_lt hx (h.2.1 c hc)
    have ih := ih h.2.2
    unfold memSet
    split
    · split <;> (simp only [memGet]; grind)
    · split
      · split <;> (simp only [memGet]; grind)
      · simp only [memGet]; grind

/-- A range reads as it was last written, every byte outside it as before. -/
theorem memGet_memPut {a b : Nat} {bs : List Byte} {m : List Host.Cell} (h : Memory.wf m = true) :
    memGet b (memPut a bs m) = if hb : a ≤ b ∧ b - a < bs.length then bs[b - a] else memGet b m := by
  induction bs generalizing a m with
  | nil => simp [memPut]
  | cons v bs ih =>
    unfold memPut
    rw [ih (wf_memSet h), memGet_memSet h]
    by_cases e : b = a
    · subst e; simp <;> omega
    · by_cases h1 : a + 1 ≤ b ∧ b - (a + 1) < bs.length
      · rw [dif_pos h1, dif_pos (by simp only [List.length_cons]; omega)]
        have : b - a = b - (a + 1) + 1 := by omega
        simp only [this, List.getElem_cons_succ]
      · rw [dif_neg h1, if_neg e, dif_neg (by simp only [List.length_cons]; omega)]

theorem bytesOf_length (n v : Nat) : (bytesOf n v).length = n := by
  induction n generalizing v with | zero => rfl | succ n ih => simp [bytesOf, ih]

theorem bytesOf_get (n v i : Nat) (h : i < (bytesOf n v).length) : (bytesOf n v)[i] = BitVec.ofNat 8 (v / 256 ^ i) := by
  induction n generalizing v i with
  | zero => simp [bytesOf] at h
  | succ n ih =>
    cases i with
    | zero => simp [bytesOf]
    | succ i =>
      simp only [bytesOf, List.getElem_cons_succ]
      rw [ih]; congr 1; rw [Nat.div_div_eq_div_mul, Nat.pow_succ, Nat.mul_comm]

/-- The number that n bytes hold, the byte of the lowest address counting least. -/
theorem leValue_memBytes (n a : Nat) (m : List Host.Cell) : leValue (memBytes n a m) = ((List.range n).map fun k => (memGet (a + k) m).toNat * 256 ^ k).sum := by
  induction n generalizing a with
  | zero => rfl
  | succ n ih =>
    rw [List.range_succ_eq_map, List.map_cons, List.sum_cons, List.map_map]
    simp only [memBytes, leValue, ih]
    simp only [Nat.add_zero, Nat.pow_zero, Nat.mul_one, Nat.add_right_inj]
    clear ih
    have : ∀ l : List Nat, 256 * (l.map fun k => (memGet (a + 1 + k) m).toNat * 256 ^ k).sum = (l.map ((fun k => (memGet (a + k) m).toNat * 256 ^ k) ∘ Nat.succ)).sum := by
      intro l
      induction l with
      | nil => rfl
      | cons x l ih =>
        simp only [List.map_cons, List.sum_cons, Nat.mul_add, ih, Function.comp]
        congr 1
        rw [show a + 1 + x = a + x.succ by omega, Nat.pow_succ]; ac_rfl
    exact this _

theorem leValue_bytesOf (n v : Nat) : leValue (bytesOf n v) = v % 256 ^ n := by
  induction n generalizing v with
  | zero => simp [bytesOf, leValue, Nat.mod_one]
  | succ n ih =>
    simp only [bytesOf, leValue, ih, BitVec.toNat_ofNat]
    rw [show (256 : Nat) ^ (n + 1) = 256 * 256 ^ n by rw [Nat.pow_succ, Nat.mul_comm], Nat.mod_mul]

theorem memBytes_memPut (a n : Nat) (bs : List Byte) (m : List Host.Cell) (h : Memory.wf m = true) (hn : bs.length = n) : memBytes n a (memPut a bs m) = bs := by
  subst hn
  have g : ∀ k, (memBytes k a (memPut a bs m)).length = k := by
    intro k; generalize a = a'; generalize memPut _ _ _ = q; induction k generalizing a' with | zero => rfl | succ k ih => simp [memBytes, ih]
  apply List.ext_getElem (g _)
  intro i h1 h2
  have e : ∀ k a' (q : List Host.Cell) i (hi : i < (memBytes k a' q).length), (memBytes k a' q)[i] = memGet (a' + i) q := by
    intro k
    induction k with
    | zero => intro a' q i hi; simp [memBytes] at hi
    | succ k ih =>
      intro a' q i hi
      cases i with
      | zero => simp [memBytes]
      | succ i => simp only [memBytes, List.getElem_cons_succ]; rw [ih]; congr 1; omega
  rw [e, memGet_memPut h, dif_pos (by omega)]
  congr 1; omega

end Sys2Proof.Machine
end

