-- ==== Sys2Proof/Laws/Registers.lean ====
section
/-!
SUPPORT. What a register holds after it was written, and a trap's entry.
-/
namespace Sys2Proof.Machine

open Sys2Proof

theorem getX_setX (h : Hart) (d r : BitVec 5) (w : Word) : (h.setX d w).getX r = if r = 0 then 0 else if r = d then w else h.getX r := by
  unfold Hart.getX Hart.setX
  by_cases hr : r = 0
  · rw [if_pos hr, if_pos hr]
  · rw [if_neg hr, if_neg hr]
    by_cases hd : d = 0
    · rw [if_pos hd, if_neg (fun e => hr (e.trans hd)), if_neg hr]
    · rw [if_neg hd]
      by_cases e : r = d
      · subst e; rw [if_pos rfl]; exact Vector.getElem_set_self ..
      · have k : d.toNat ≠ r.toNat := fun x => e (BitVec.eq_of_toNat_eq x).symm
        rw [if_neg e, if_neg hr]; exact Vector.getElem_set_ne d.isLt r.isLt k

theorem setX_only (h : Hart) (d : BitVec 5) (w : Word) : h.setX d w = { h with x := (h.setX d w).x } := by
  unfold Hart.setX; split <;> rfl

theorem setX_x (h : Hart) (d : BitVec 5) (w : Word) : (h.setX d w).x = if d = 0 then h.x else h.x.set d.toNat w d.isLt := by
  unfold Hart.setX; split <;> rfl

theorem advance_plain (h : Hart) (n : Nat) (e : h.inRep = false) :
    h.advance n = { h with pc := h.pc + BitVec.ofNat 64 n, wait := none, met := none, order := none, walkFail := none } := by
  unfold Hart.advance; rw [e]; rfl

theorem wrote_of (s t : State) (d : BitVec 5) (w : Word) (e : t = { s with hart := { s.hart with x := (s.hart.setX d w).x } }) : WroteX d w s t := by
  subst e
  refine ⟨fun r => ?_, rfl⟩
  exact getX_setX s.hart d r w

theorem done_past (s : State) (h : s.Plain) (d : BitVec 5) (w : Word) (n : Nat) : WroteX d w (s.past n) ((s.setX d w).done n) := by
  apply wrote_of
  unfold State.done State.setX State.setHart
  dsimp only
  rw [setX_only, advance_plain, setX_x, setX_x]
  · rfl
  · exact h

theorem done_stands (s : State) (h : s.Plain) (d : BitVec 5) (w : Word) (n k : Nat) :
    WroteX d w (s.stands (s.hart.pc + BitVec.ofNat 64 n) (s.clk + k)) (((s.setX d w).busy k).done n) := by
  apply wrote_of
  unfold State.done State.busy State.setX State.setHart
  dsimp only
  rw [setX_only, advance_plain, setX_x, setX_x]
  · rfl
  · exact h

theorem trailing_le (n a : Nat) : trailing n a ≤ n := by
  induction n generalizing a with
  | zero => simp [trailing]
  | succ n ih => unfold trailing; split; omega; have := ih (a / 2); omega

theorem trailing_zeros (n a k : Nat) (h : k < trailing n a) : a.testBit k = false := by
  induction n generalizing a k with
  | zero => simp [trailing] at h
  | succ n ih =>
    unfold trailing at h
    split at h
    · omega
    · cases k with
      | zero => simp [Nat.testBit_zero]; omega
      | succ k => rw [Nat.testBit_succ]; exact ih _ _ (by omega)

theorem trailing_one (n a : Nat) (h : trailing n a < n) : a.testBit (trailing n a) = true := by
  induction n generalizing a with
  | zero => omega
  | succ n ih =>
    unfold trailing at h ⊢
    split
    · simp [Nat.testBit_zero]; omega
    · rename_i hn; rw [if_neg hn] at h
      rw [Nat.add_comm, Nat.testBit_succ]; exact ih _ (by omega)

theorem ones_count (n a : Nat) : ones n a = ((List.range n).filter fun k => a.testBit k).length := by
  induction n generalizing a with
  | zero => rfl
  | succ n ih =>
    unfold ones
    rw [List.range_succ_eq_map, List.filter_cons, ih]
    have e : (List.filter (fun k => a.testBit k) (List.map Nat.succ (List.range n))).length = ((List.range n).filter fun k => (a/2).testBit k).length := by
      rw [List.filter_map, List.length_map]; congr 1; apply List.filter_congr; intro x _; simp [Nat.testBit_succ]
    split
    · rename_i h; simp only [Nat.testBit_zero, decide_eq_true_eq] at h; rw [List.length_cons, e]; omega
    · rename_i h; simp only [Nat.testBit_zero, decide_eq_true_eq] at h; rw [e]; omega

theorem sx_int {n : Nat} (i : BitVec n) : sx i = BitVec.ofInt 64 i.toInt := by
  unfold sx; rfl

theorem finish_past (s : State) (h : s.Plain) (n : Nat) : finish n s = .next (s.past n) := by
  unfold finish State.done; rw [advance_plain _ _ h]; rfl

theorem target_eq (s : State) {n : Nat} (i : BitVec n) : s.target i = BitVec.ofInt 64 (s.hart.pc.toInt + i.toInt * 2) := by
  unfold State.target; rw [sx_int, BitVec.ofInt_add, BitVec.ofInt_mul]; simp

theorem jump_of (s : State) (p : Word) : jump p s = .next (s.stands p s.hart.readyAt) := rfl

theorem finish_of {t u : State} {n : Nat} (h : t.Plain) (e : t.past n = u) : finish n t = .next u := by rw [finish_past t h, e]

theorem sendFrz_only (s : State) (c : CapRec) (b : Bool) : ∃ l w, s.sendFrz c b = { s with links := l, wire := w } := by
  unfold State.sendFrz; split
  · exact ⟨s.links, s.wire, rfl⟩
  · exact ⟨_, _, rfl⟩

theorem freezeAll_only (s : State) (tid : Tid) (b : Bool) : ∃ q l w, s.freezeAll tid b = { s with quire := q, links := l, wire := w } := by
  unfold State.freezeAll
  generalize s.quire = l
  suffices h : ∀ (l : List CapRec) (s0 : State), (∃ q l w, s0 = { s with quire := q, links := l, wire := w }) → 
      ∃ q lk w, l.foldl (fun st c => if c.owner = tid ∧ c.kind = .frac ∧ !c.revoked ∧ c.frozen ≠ b ∧ !(s.quireBad.contains c.img) then (st.putRec { c with frozen := b }).sendFrz c b else st) s0 = { s with quire := q, links := lk, wire := w } from h l s ⟨_, _, _, rfl⟩
  intro l
  induction l with
  | nil => intro s0 h; exact h
  | cons c l ih =>
    intro s0 h
    apply ih
    dsimp only
    split
    · obtain ⟨q, lk, w, rfl⟩ := h
      obtain ⟨l2, w2, e⟩ := sendFrz_only ((({ s with quire := q, links := lk, wire := w } : State)).putRec { c with frozen := b }) c b
      exact ⟨_, l2, w2, e⟩
    · exact h

theorem stopSiblings_none (s : State) (tid : Tid) (h : ∀ h ∈ s.hartsOf tid, match h.wait with | some (.partner _ _ _) | some (.sweep _ _ _) | some (.sweepReq _ _) => False | _ => True) : s.stopSiblings tid = s := by
  unfold State.stopSiblings
  generalize s.hartsOf tid = l at h
  induction l with
  | nil => rfl
  | cons a l ih =>
    rw [List.foldl_cons]
    have k := h a (by simp)
    refine Eq.trans (congrArg (fun z => List.foldl _ z l) (?_ : _ = s)) (ih fun x hx => h x (by simp [hx]))
    split
    · rename_i hq; rw [hq] at k; exact k.elim
    · rename_i hq; rw [hq] at k; exact k.elim
    · rename_i hq; rw [hq] at k; exact k.elim
    · rfl

theorem dropTombstone_none (s : State) (t : TrapInfo) (h : t.cause ≠ .revk) : s.dropTombstone t = s := by
  unfold State.dropTombstone
  split
  · rename_i hq _; exact absurd hq h
  · rfl

/-- What taking an exception does where there is a handler. -/
theorem takeTrapAt_handled (s : State) (tr : TrapInfo) (stream : Nat) (pc : Word) (h : s.Handled) (hc : tr.cause ≠ .revk) :
    ∃ q l w, s.takeTrapAt tr stream pc = { s with quire := q, links := l, wire := w, task := { s.task with state := .trapped, handler := some s.hart.no },
                                                   hart := s.hart.enterHandler tr stream s.task.pendErr.isSome pc s.vector } := by
  obtain ⟨h1, h2, h3⟩ := h
  unfold State.takeTrapAt
  rw [dropTombstone_none s tr hc]
  dsimp only
  obtain ⟨q, l, w, e⟩ := freezeAll_only s s.task.tid true
  rw [if_neg (by rw [h1]; decide), if_neg h2, e, stopSiblings_none]
  · exact ⟨q, l, w, rfl⟩
  · exact h3

theorem swapShadow_x (x : Vector Word 32) (sh : Vector Word 8) (i : Nat) (h : i < 32) : (swapShadow x sh).1[i] = if h : 24 ≤ i then sh[i - 24] else x[i] := by
  simp [swapShadow]

theorem swapShadow_sh (x : Vector Word 32) (sh : Vector Word 8) (i : Nat) (h : i < 8) : (swapShadow x sh).2[i] = x[i + 24] := by
  simp [swapShadow]

theorem takeTrapAt_entered (s : State) (tr : TrapInfo) (stream : Nat) (pc : Word) (h : s.Handled) (hc : tr.cause ≠ .revk) : EnteredHandler tr.cause.code tr.sub s.vector pc s (s.takeTrapAt tr stream pc) := by
  obtain ⟨q, l, w, e⟩ := takeTrapAt_handled s tr stream pc h hc
  rw [e]
  refine ⟨?_, ?_, ?_, ?_, ?_, rfl, rfl, rfl, rfl, rfl, rfl, rfl⟩
  · simp [State.x, Hart.getX, Hart.enterHandler]
  · simp [State.x, Hart.getX, Hart.enterHandler, Nat.mul_comm]
  · intro r hr
    simp only [State.x, Hart.getX, Hart.enterHandler]
    split
    · rfl
    · rw [Vector.getElem_set_ne _ _ (by omega), Vector.getElem_set_ne _ _ (by omega), swapShadow_x, dif_neg (by omega)]
  · intro i
    simp only [Hart.enterHandler]
    rw [Vector.getElem_set_ne _ _ (by omega), Vector.getElem_set_ne _ _ (by omega), swapShadow_x, dif_pos (by omega)]
    simp
  · intro i
    simp only [Hart.enterHandler]
    rw [swapShadow_sh]; simp [Nat.add_comm]

theorem errst_fields (tr : TrapInfo) (stream : Nat) (pending : Bool) (old : Word) (hs : tr.sub < 256) :
    let w := errstWord tr stream pending old
    wordBits 7 0 w = tr.cause.code ∧ wordBits 15 8 w = tr.sub ∧ wordBits 31 16 w = tr.detail.toNat ∧
    wordBits 35 32 w = (match tr.handle with | some h => h.toNat | none => 0) ∧
    wordBits 36 36 w = (if tr.handle.isSome then 1 else 0) ∧
    wordBits 39 38 w = stream % 4 ∧ wordBits 47 40 w = wordBits 47 40 old ∧
    wordBits 54 54 w = (if pending then 1 else 0) ∧
    wordBits 55 55 w = (if tr.imprecise then 1 else 0) := by
  have hd := tr.detail.isLt
  have hcode : tr.cause.code < 256 := by cases tr.cause <;> decide
  unfold errstWord
  generalize tr.detail.toNat = D at *
  generalize tr.cause.code = C at *
  generalize tr.sub = S at *
  generalize hL : old.toNat = L
  have hl : wordBits 47 40 old = L / 2 ^ 40 % 256 := by subst hL; rfl
  rw [hl]
  rcases tr.handle with _ | hd <;> rcases tr.imprecise <;> rcases pending <;> simp only [wordBits, BitVec.toNat_ofNat, Option.isSome_none, Option.isSome_some, if_true, if_false, Bool.false_eq_true] <;>
    refine ⟨?_, ?_, ?_, ?_, ?_, ?_, ?_, ?_, ?_⟩ <;> first | omega | (have := hd.isLt; omega)

theorem evth_traps (s : State) (a b : BitVec 5) (h1 : (s.x a).getLsbD 0 = false) (h2 : wordBits 63 48 (s.x a) = 0) (h3 : wordBits 63 3 (s.x b) = 0) :
    execEvth a b s = finish 4 (s.setHart { s.hart with evhpc := BitVec.ofNat 64 (wordBits 63 63 s.hart.evhpc * 2 ^ 63 + wordBits 2 0 (s.x b) * 2 ^ 48 + wordBits 47 0 (s.x a)) }) := by
  unfold execEvth; dsimp only; rw [if_neg (by rw [h1, h2, h3]; decide)]

theorem finish_evhpc (s : State) (w : Word) (h : s.Plain) : finish 4 (s.setHart { s.hart with evhpc := w }) = .next ((s.past 4).setHart { (s.past 4).hart with evhpc := w }) := finish_of h rfl

theorem evth_next (s : State) (a b : BitVec 5) (h : s.Plain) (h1 : (s.x a).getLsbD 0 = false) (h2 : wordBits 63 48 (s.x a) = 0) (h3 : wordBits 63 3 (s.x b) = 0) :
    exec (.evth a b) s = .next ((s.past 4).setHart { (s.past 4).hart with evhpc := BitVec.ofNat 64 (wordBits 63 63 s.hart.evhpc * 2 ^ 63 + wordBits 2 0 (s.x b) * 2 ^ 48 + wordBits 47 0 (s.x a)) }) := by
  exact ((rfl : exec (.evth a b) s = execEvth a b s).trans (evth_traps s a b h1 h2 h3)).trans (finish_evhpc s _ h)

theorem evth_fields (A B C : Word) (h2 : wordBits 63 48 A = 0) (h3 : wordBits 63 3 B = 0) :
    let w := BitVec.ofNat 64 (wordBits 63 63 C * 2 ^ 63 + wordBits 2 0 B * 2 ^ 48 + wordBits 47 0 A)
    wordBits 47 0 w = A.toNat ∧ wordBits 50 48 w = B.toNat ∧ wordBits 62 51 w = 0 ∧ wordBits 63 63 w = wordBits 63 63 C := by
  have la := A.isLt
  have lb := B.isLt
  have lc := C.isLt
  simp only [wordBits, BitVec.toNat_ofNat] at h2 h3 ⊢
  omega

theorem evActive_bit (w : Word) : (evActive w = true ↔ wordBits 63 63 w = 1) ∧ (evActive w = false ↔ wordBits 63 63 w = 0) := by
  have := w.isLt
  simp only [evActive, wordBits]; simp; omega

theorem evhpc_cleared (w : Word) : wordBits 63 63 (BitVec.ofNat 64 (wordBits 62 0 w)) = 0 ∧ wordBits 62 0 (BitVec.ofNat 64 (wordBits 62 0 w)) = wordBits 62 0 w := by
  simp only [wordBits, BitVec.toNat_ofNat]; omega

theorem fin_four (k : Fin 4) : k = 0 ∨ k = 1 ∨ k = 2 ∨ k = 3 := by omega

theorem fin_eight (k : Fin 8) : k = 0 ∨ k = 1 ∨ k = 2 ∨ k = 3 ∨ k = 4 ∨ k = 5 ∨ k = 6 ∨ k = 7 := by omega

theorem done_wroteF (s : State) (h : s.Plain) (d : BitVec 5) (r : Nat × FFlags) (l : Word) (k : Nat) :
    WroteF d r l (s.stands (s.hart.pc + 4) (s.clk + k)) (((s.fpWrite d r l).busy k).done 4) := by
  apply wrote_of
  unfold State.done State.busy State.fpWrite State.setLfsr State.raiseFlags Hart.raise State.setX State.setHart
  dsimp only
  rw [setX_only, advance_plain, setX_x, setX_x]
  · rfl
  · exact h

theorem past_wroteF (s : State) (h : s.Plain) (d : BitVec 5) (r : Nat × FFlags) (l : Word) :
    WroteF d r l (s.past 4) ((s.fpWrite d r l).done 4) := by
  apply wrote_of
  unfold State.done State.fpWrite State.setLfsr State.raiseFlags Hart.raise State.setX State.setHart
  dsimp only
  rw [setX_only, advance_plain, setX_x, setX_x]
  · rfl
  · exact h

theorem env_eq (s : State) (f : FpFmt) (m : RMode) : s.env f m = ({ fmt := f, mode := m, ftz := s.ftz, u := if m = .rs then lfsrLow s.hart.lfsr else 0 }, if m = .rs then stepWord s.hart.lfsr else s.hart.lfsr) := by
  unfold State.env; split <;> rfl

end Sys2Proof.Machine
end

