-- ==== Sys2Proof/Laws/Accesses.lean ====
section
/-!
SUPPORT. Loads, stores and atomics that pass their checks, and the records of the quire.
-/
namespace Sys2Proof.Machine

open Sys2Proof

theorem readHome_sound (s : State) (c : CapRec) (h : BitVec 4) (a n : Nat) (k : s.Sound a n) : s.readHome c h a n = (s, s.little a n) := by
  obtain ⟨h3, h4, h5⟩ := k
  unfold State.readHome
  rw [h5, h3, h4, if_neg (by decide), if_neg (by decide)]
  unfold State.readPhys State.little
  rw [leValue_memBytes]

/-- What a read that meets no wait comes to. -/
theorem readOf_value (s : State) (size : Nat) (h : BitVec 4) (off : Word) (word : Bool) (c : CapRec) (a : Nat) (hl : s.Reads h off size word c a) :
    s.readOf size h off needRD word = .value c (s.little a size) (s.homeLatency (.mem a)) s := by
  obtain ⟨h1, h2, h3, h4⟩ := hl
  unfold State.readOf
  rw [h1]; dsimp only; rw [h2]; dsimp only
  rw [h3, readHome_sound s c h a size h4]; rfl

theorem load_next (s : State) (n : Nat) (r : Reply) (size : Nat) (h : BitVec 4) (off : Word) (c : CapRec) (a : Nat) (hl : s.Loads h off size c a) :
    load n r size h off s = .next (s.loaded n r (s.little a size) (s.homeLatency (.mem a))) := by
  unfold load
  have : wordSize size = (size == 4 || size == 8) := rfl
  rw [this, readOf_value s size h off _ c a hl]

theorem loaded_x (s : State) (h : s.Plain) (n : Nat) (d : BitVec 5) (size : Nat) (sg : Bool) (v lat : Nat) :
    WroteX d (extendBytes size sg v) (s.awaits n (s.clk + lat) { pc := s.hart.pc, repst := s.hart.repst, x := some (d, s.x d) }) (s.loaded n (.x d size sg) v lat) := by
  apply wrote_of
  unfold State.loaded State.writeReply State.awaits State.done State.setX State.setHart State.schedule
  dsimp only
  rw [setX_only, advance_plain, setX_x, setX_x]
  · rfl
  · exact h

theorem extend_unsigned (size v : Nat) (h : v < 256 ^ size) : extendBytes size false v = BitVec.ofInt 64 (v : Int) := by
  unfold extendBytes
  have : (256:Nat) ^ size = 2 ^ (8 * size) := by rw [Nat.pow_mul]
  rw [if_neg (by decide), Nat.mod_eq_of_lt (this ▸ h)]; exact (BitVec.ofInt_natCast _ _).symm

theorem extend_signed (size v : Nat) (h : v < 256 ^ size) (h0 : 0 < size) : extendBytes size true v = BitVec.ofInt 64 (signedNat size v) := by
  unfold extendBytes signedNat
  have e : (256:Nat) ^ size = 2 ^ (8 * size) := by rw [Nat.pow_mul]
  rw [if_pos rfl, BitVec.signExtend]
  congr 1
  rw [BitVec.toInt_eq_toNat_cond]
  simp only [BitVec.toNat_ofNat]
  rw [Nat.mod_eq_of_lt (e ▸ h)]
  have e2 : (256 : Int) ^ size = ((2 ^ (8 * size) : Nat) : Int) := by rw [← e]; simp
  rw [e, e2]

theorem little_lt (s : State) (a n : Nat) : s.little a n < 256 ^ n := by
  unfold State.little
  rw [← leValue_memBytes]
  generalize s.mem = m
  induction n generalizing a with
  | zero => simp [memBytes, leValue]
  | succ n ih =>
    simp only [memBytes, leValue]
    have := ih (a + 1)
    have hb := (memGet a m).isLt
    rw [Nat.pow_succ]; omega

theorem offset_eq (s : State) (x : BitVec 5) (i : BitVec 8) (n : Nat) : s.offset x i n = s.x x + BitVec.ofNat 64 (i.toNat * n) := rfl

theorem find_traps (s : State) (h : BitVec 4) (off : Word) (n : Nat) (need : Rights) (use : Use) (w : Bool) :
    (∀ t, s.checkHandle h need = .error t → s.find h off n need use w = .trap t) ∧
    (∀ c, s.checkHandle h need = .ok c → (off.toNat % n ≠ 0 → s.find h off n need use w = .trap { cause := .algn, handle := some h }) ∧
      (off.toNat % n = 0 → c.len < off.toNat + n → s.find h off n need use w = .trap (trapCapv subLEN h)) ∧
      (off.toNat % n = 0 → off.toNat + n ≤ c.len → ∀ sub, s.admits c use = .no sub → s.find h off n need use w = .trap (trapCapv sub h))) := by
  unfold State.find
  refine ⟨fun t e => by rw [e], fun c e => ?_⟩
  rw [e]; dsimp only
  refine ⟨fun h1 => by rw [if_pos h1], fun h1 h2 => by rw [if_neg (by simpa using h1), if_pos h2], fun h1 h2 sub h3 => ?_⟩
  rw [if_neg (by simpa using h1), if_neg (by omega), h3]

theorem modRec_only (s : State) (i : Image) (f : CapRec → CapRec) : ∃ q, s.modRec i f = { s with quire := q } := by
  unfold State.modRec; split
  · exact ⟨_, rfl⟩
  · exact ⟨s.quire, rfl⟩

theorem invalidate_only (s : State) (r : Nat) : ∃ t ts, s.invalidateHusks r = { s with tile := t, tiles := ts } ∧ t.sb = s.tile.sb ∧ t.idx = s.tile.idx := ⟨_, _, rfl, rfl, rfl⟩

theorem sequenced_only (s : State) (dev : Nat) (p : Packet) (t : Tid) (no : Nat) (h : BitVec 4) (x : Option (Nat × Nat × Nat)) (c : Option Image) :
    ∃ l w, (s.sendSequenced dev p t no h x c).1 = { s with links := l, wire := w } := ⟨_, _, rfl⟩

theorem foldl_links {α : Type} (f : State → α → State) (hf : ∀ s x, ∃ l w, f s x = { s with links := l, wire := w }) (xs : List α) (s : State) :
    ∃ l w, xs.foldl f s = { s with links := l, wire := w } := by
  induction xs generalizing s with
  | nil => exact ⟨s.links, s.wire, rfl⟩
  | cons x xs ih =>
    obtain ⟨l, w, e⟩ := hf s x
    rw [List.foldl_cons, e]
    exact ih _

theorem tellWrap_only (s : State) (r : Image) : ∃ l w, s.tellWrap r = { s with links := l, wire := w } := by
  unfold State.tellWrap
  split
  · exact foldl_links _ (fun s d => sequenced_only s d _ 0 0 0 none none) _ _
  · exact ⟨s.links, s.wire, rfl⟩

theorem bump_only (s : State) (r : Image) : ∃ q t ts l w, s.bumpVersion r = { s with quire := q, tile := t, tiles := ts, links := l, wire := w } ∧ t.sb = s.tile.sb ∧ t.idx = s.tile.idx := by
  unfold State.bumpVersion
  split
  · exact ⟨s.quire, s.tile, s.tiles, s.links, s.wire, rfl, rfl, rfl⟩
  · dsimp only
    split
    · obtain ⟨l, w, e⟩ := tellWrap_only ((s.setQuire _).invalidateHusks r) r
      exact ⟨_, _, _, l, w, e, rfl, rfl⟩
    · exact ⟨_, s.tile, s.tiles, s.links, s.wire, rfl, rfl, rfl⟩

theorem noteStore_only (s : State) (r : Image) : ∃ q t ts l w, s.noteStore r = { s with quire := q, tile := t, tiles := ts, links := l, wire := w } ∧ t.sb = s.tile.sb ∧ t.idx = s.tile.idx := by
  unfold State.noteStore
  split
  · split
    · exact ⟨s.quire, s.tile, s.tiles, s.links, s.wire, rfl, rfl, rfl⟩
    · obtain ⟨q, t, ts, l, w, e, h1, h2⟩ := bump_only s r
      rw [e]
      obtain ⟨q2, e2⟩ := modRec_only ({ s with quire := q, tile := t, tiles := ts, links := l, wire := w } : State) r fun c => { c with written := true }
      exact ⟨q2, t, ts, l, w, e2, h1, h2⟩
  · exact ⟨s.quire, s.tile, s.tiles, s.links, s.wire, rfl, rfl, rfl⟩

theorem mergeAt_none (h : Hart) (img : Nat) (g : Nat × Nat) (bank : Nat) (l : List SbEntry) (k : ∀ e ∈ l, ¬(e.tid = h.tid ∧ e.no = h.no ∧ (e.key, e.granule) = g)) : mergeAt h img g bank l = none := by
  induction l with
  | nil => rfl
  | cons e l ih =>
    have ih := ih fun x hx => k x (by simp [hx])
    have ke := k e (by simp)
    unfold mergeAt
    split
    · rw [ih]; rfl
    · rename_i ho
      have ho : e.tid = h.tid ∧ e.no = h.no := by
        simp [SbEntry.own] at ho; exact ho
      rw [if_neg (fun x => ke ⟨ho.1, ho.2, x⟩)]
      split
      · rfl
      · rw [ih]; rfl

theorem and_mask (v n k w : Nat) (hv : v < 2 ^ (8 * n)) (hk : 8 * n + k ≤ w) :
    (v * 2 ^ k) % 2 ^ w &&& ((2 ^ (8 * n) - 1) * 2 ^ k) % 2 ^ w = v * 2 ^ k := by
  have hw : 2 ^ (8 * n) * 2 ^ k ≤ 2 ^ w := by rw [← Nat.pow_add]; exact Nat.pow_le_pow_right (by decide) hk
  have h1 : v * 2 ^ k < 2 ^ w := Nat.lt_of_lt_of_le (Nat.mul_lt_mul_of_pos_right hv (Nat.two_pow_pos k)) hw
  have h2 : (2 ^ (8 * n) - 1) * 2 ^ k < 2 ^ w := Nat.lt_of_lt_of_le (Nat.mul_lt_mul_of_pos_right (Nat.sub_lt (Nat.two_pow_pos _) (by decide)) (Nat.two_pow_pos k)) hw
  rw [Nat.mod_eq_of_lt h1, Nat.mod_eq_of_lt h2]
  rw [← Nat.shiftLeft_eq, ← Nat.shiftLeft_eq, ← Nat.shiftLeft_and_distrib, Nat.and_two_pow_sub_one_eq_mod, Nat.mod_eq_of_lt hv]

theorem store_retires (s : State) (hp : s.Plain) (nb n v : Nat) (round_lanes_upTo : Bool) (h : BitVec 4) (off : Word) (c : CapRec) (a : Nat) (hs : s.Stores h off n round_lanes_upTo c a)
    (hn : n = 1 ∨ n = 2 ∨ n = 4 ∨ n = 8 ∨ n = 64) (ha : off.toNat % n = 0) (hv : v < 256 ^ n) :
    ∃ t, store nb n round_lanes_upTo v h off s = .next t ∧ Retired s t nb h off.toNat n v round_lanes_upTo c a := by
  obtain ⟨h1, h2, h3, h4⟩ := hs
  unfold store
  have : wordSize n = (n == 4 || n == 8) := rfl
  rw [this, h1]; dsimp only
  rw [if_neg (fun x => h2 x.1), if_neg h2]
  obtain ⟨q, ti, ts, lk, wi, e, e1, e2⟩ := noteStore_only s c.root
  rw [e]
  generalize hver : State.storeVersion _ c = ver
  unfold Tile.retire
  have hm : (if round_lanes_upTo then none else mergeAt s.hart c.root (c.granuleOf off.toNat) (Home.mem a).bank ti.sb.reverse) = none := by
    rcases h4 with h4 | h4
    · rw [h4]; rfl
    · split
      · rfl
      · refine mergeAt_none _ _ _ _ _ fun x hx => h4 x ?_
        rw [e1] at hx; exact List.mem_reverse.1 hx
  dsimp only
  rw [hm]; dsimp only
  rw [if_neg (by rw [e1]; omega)]
  dsimp only
  refine ⟨_, rfl, ?_, rfl, rfl, ?_⟩
  · simp only [State.done, State.setHart, State.setTile]
    rw [advance_plain _ _ hp]; rfl
  · refine ⟨_, congrArg (· ++ _) e1, rfl, rfl, rfl, rfl, rfl, rfl, rfl, rfl, ?_, ?_⟩
    · simp only [SbEntry.merge, accessMask]
      have hb : off.toNat % 64 + n ≤ 64 := by rcases hn with rfl | rfl | rfl | rfl | rfl <;> omega
      rw [BitVec.toNat_or]
      simp only [BitVec.ofNat_eq_ofNat, BitVec.toNat_ofNat, Nat.zero_mod, Nat.zero_or]
      refine Nat.mod_eq_of_lt ?_
      have q1 : 2 ^ n * 2 ^ (off.toNat % 64) ≤ 2 ^ 64 := by rw [← Nat.pow_add]; exact Nat.pow_le_pow_right (by omega) (by omega)
      have q2 := Nat.two_pow_pos (off.toNat % 64)
      have q3 := Nat.two_pow_pos n
      rw [Nat.sub_mul]; omega
    · simp only [SbEntry.merge]
      have hb : off.toNat % 64 + n ≤ 64 := by rcases hn with rfl | rfl | rfl | rfl | rfl <;> omega
      have e256 : ∀ k, (256 : Nat) ^ k = 2 ^ (8 * k) := fun k => by rw [Nat.pow_mul]
      rw [BitVec.toNat_or, BitVec.toNat_and, BitVec.toNat_and]
      simp only [BitVec.ofNat_eq_ofNat, BitVec.toNat_ofNat, Nat.zero_mod, Nat.zero_and, Nat.zero_or]
      rw [e256, and_mask v n _ 512 (by rw [← e256]; exact hv) (by omega)]

theorem found_aligned {s : State} {h : BitVec 4} {off : Word} {n : Nat} {need : Rights} {u : Use} {w : Bool} {c : CapRec} {m : Home} {t : State} (e : s.find h off n need u w = .at_ c m t) : off.toNat % n = 0 := by
  unfold State.find at e
  split at e
  · cases e
  · split at e
    · cases e
    · rename_i h; simpa using h

theorem atomic_at (s : State) (n : Nat) (o : Order) (po : Bool) (act : AtomicAct) (r : Reply) (h : BitVec 4) (off : Word) (c : CapRec) (a : Nat) (hs : s.Atomic h off n o c a) :
    atomic n o po act r h off s = .next (s.atomicHome c h n a act r) := by
  obtain ⟨h1, h2, h3, h4, h5, h6, h7, h8, h9, h10, h11⟩ := hs
  unfold atomic
  rw [h1]; dsimp only
  have ha : s.admitAtomic c po = .ok := by
    unfold State.admitAtomic
    rcases h2 with ⟨k, q⟩ | k <;> rcases h3 with l | l <;> rw [k, l] <;> first | rfl | exact q
  have hr : (if orderReleases o then s.releaseWait else none) = none := by
    cases o <;> simp only [orderReleases] <;> first | rfl | exact h6 (by simp)
  rw [ha]; dsimp only
  rw [if_neg (by simpa using h4), if_neg (by omega), hr]; dsimp only
  rw [h7, if_neg (by decide), h8]; dsimp only
  rw [h9, if_neg (by decide)]

theorem home_write (s : State) (hp : s.Plain) (hc : s.Canonical) (c : CapRec) (h : BitVec 4) (n a : Nat) (act : AtomicAct) (r : Reply) (w ok : Nat)
    (h9 : s.hasUE a n = false) (h10 : s.correct a n = s) (he : act.result n (s.little a n) = (some w, ok)) (hw : w < 256 ^ n) :
    let t := s.atomicHome c h n a act r
    t.task = s.task ∧ t.little a n = w ∧ (∀ p, (p < a ∨ a + n ≤ p) → memGet p t.mem = memGet p s.mem) ∧
    ∃ u : State, u.hart = s.hart ∧ u.task = s.task ∧ u.mem = memPut a (bytesOf n w) s.mem ∧ u.clk = s.clk ∧ t = u.atomicDone r (s.little a n + ok * 2 ^ 64) (s.homeLatency (.mem a)) := by
  have hl : leValue (s.readPhys a n) = s.little a n := by unfold State.readPhys State.little; exact leValue_memBytes _ _ _
  unfold State.atomicHome
  dsimp only
  rw [h9, if_neg (by decide), hl, he]
  dsimp only
  rw [h10]
  obtain ⟨q, ti, ts, lk, wi, e, e1, e2⟩ := noteStore_only s c.root
  rw [e]
  have mem : ∀ (u : State) v l, (u.atomicDone r v l).mem = u.mem := by
    intro u v l; cases r <;> rfl
  have task : ∀ (u : State) v l, (u.atomicDone r v l).task = u.task := by
    intro u v l; cases r <;> rfl
  refine ⟨?_, ?_, ?_, _, ?_, ?_, ?_, ?_, rfl⟩
  rotate_left 3
  · rfl
  · rfl
  · rfl
  · rfl
  · rw [task]; rfl
  · unfold State.little; rw [mem, ← leValue_memBytes]
    show leValue (memBytes n a (memPut a (bytesOf n w) s.mem)) = w
    rw [memBytes_memPut a n _ _ hc.1.1 (bytesOf_length n w), leValue_bytesOf, Nat.mod_eq_of_lt hw]
  · intro p hpa
    rw [mem]
    show memGet p (memPut a (bytesOf n w) s.mem) = _
    rw [memGet_memPut hc.1.1, dif_neg (by rw [bytesOf_length]; omega)]

theorem extend_signedNat (n v : Nat) (hn : n = 4 ∨ n = 8) (h : v < 256 ^ n) : extendBytes n (n == 4) v = BitVec.ofInt 64 (signedNat n v) := by
  rcases hn with rfl | rfl
  · exact extend_signed 4 v h (by decide)
  · show extendBytes 8 false v = _
    rw [extend_unsigned 8 v h]
    unfold signedNat
    split
    · rfl
    · rw [Int.sub_eq_add_neg, BitVec.ofInt_add]; simp

theorem amo_lt (op : AmoOp) (n old v : Nat) (ho : old < 256 ^ n) (hv : v < 256 ^ n) : amoOf op n old v < 256 ^ n := by
  have e256 : (256 : Nat) ^ n = 2 ^ (8 * n) := by rw [Nat.pow_mul]
  rw [e256] at ho hv ⊢
  cases op <;> unfold amoOf <;> dsimp only
  · exact Nat.mod_lt _ (Nat.two_pow_pos _)
  · exact Nat.lt_of_le_of_lt Nat.and_le_left ho
  · exact Nat.or_lt_two_pow ho hv
  · exact Nat.xor_lt_two_pow ho hv
  all_goals first | (split <;> assumption) | assumption

theorem signed_eq (n v : Nat) (h : v < 256 ^ n) : signedOf n v = signedNat n v := by
  have e : (256:Nat) ^ n = 2 ^ (8 * n) := by rw [Nat.pow_mul]
  unfold signedOf signedNat
  rw [BitVec.toInt_eq_toNat_cond]
  simp only [BitVec.toNat_ofNat]
  rw [Nat.mod_eq_of_lt (e ▸ h)]
  have e2 : (256 : Int) ^ n = ((2 ^ (8 * n) : Nat) : Int) := by rw [← e]; simp
  rw [e, e2]

theorem amo_next (s : State) (hp : s.Plain) (hc : s.Canonical) (d : BitVec 5) (h : BitVec 4) (b : BitVec 5) (n : Nat) (hn : n = 4 ∨ n = 8) (o : Order) (po : Bool) (op : AmoOp) (c : CapRec) (a v w : Nat)
    (ha : s.Atomic h (s.x b) n o c a) (hv : v < 256 ^ n) (hw : amoOf op n (s.little a n) v = w) :
    ∃ t, atomic n o po (.amo op v) (.amo d n) h (s.x b) s = .next t ∧
      (t.hart.pc = s.hart.pc + 4 ∧ t.hart.wait = some (.reply (s.clk + s.homeLatency (.mem a) + 1)) ∧ t.task = s.task) ∧
      (∀ r, t.x r = if r = 0 then 0 else if r = d then BitVec.ofInt 64 (signedNat n (s.little a n)) else s.x r) ∧
      (t.little a n = w ∧ ∀ p, (p < a ∨ a + n ≤ p) → memGet p t.mem = memGet p s.mem) := by
  refine ⟨_, atomic_at s n o po _ _ h _ c a ha, ?_⟩
  obtain ⟨k1, k2, k3, u, u1, u2, u3, u4, u5⟩ := home_write s hp hc c h n a (.amo op v) (.amo d n) w 0 ha.2.2.2.2.2.2.2.2.2.1 ha.2.2.2.2.2.2.2.2.2.2 (by unfold AtomicAct.result; dsimp only; rw [hw]) (hw ▸ amo_lt op n _ v (little_lt s a n) hv)
  have hh : u.hart.inRep = false := by rw [u1]; exact hp
  have hh2 : (u.hart.setX d (extendBytes n (n == 4) (s.little a n + 0 * 2 ^ 64))).inRep = false := by rw [setX_only]; exact hh
  refine ⟨⟨?_, ?_, k1⟩, ?_, k2, k3⟩
  · rw [u5]; simp only [State.atomicDone, State.writeReply, State.done, State.setHart, State.setX, State.schedule]
    rw [advance_plain _ _ hh2, setX_only]; dsimp only; rw [u1]; rfl
  · rw [u5]; simp only [State.atomicDone, State.writeReply, State.done, State.setHart, State.setX, State.schedule]
    rw [u4]
  · intro r
    rw [u5]; simp only [State.x, State.atomicDone, State.writeReply, State.done, State.setHart, State.setX, State.schedule]
    rw [advance_plain _ _ hh2]
    have := getX_setX u.hart d r (extendBytes n (n == 4) (s.little a n + 0 * 2 ^ 64))
    rw [Nat.zero_mul, Nat.add_zero, extend_signedNat n _ hn (little_lt s a n), u1] at this
    rw [Nat.zero_mul, Nat.add_zero, extend_signedNat n _ hn (little_lt s a n), u1]
    exact this

theorem findBy_putBy {α : Type} (key : α → Nat) (a : α) (k : Nat) (l : List α) :
    findBy key k (putBy key a l) = if k = key a then some a else findBy key k l := by
  induction l with
  | nil => simp only [putBy, findBy]; grind
  | cons b l ih => simp only [putBy]; split <;> (try split) <;> simp only [findBy, ih] <;> grind

theorem findBy_dropBy {α : Type} (key : α → Nat) (j k : Nat) (l : List α) :
    findBy key k (dropBy key j l) = if k = j then none else findBy key k l := by
  induction l with
  | nil => simp [dropBy, findBy]
  | cons b l ih =>
    unfold dropBy at ih ⊢
    rw [List.filter_cons]; split <;> simp only [findBy, ih] <;> grind

theorem findBy_key {α : Type} {key : α → Nat} {k : Nat} {l : List α} {a : α} (h : findBy key k l = some a) : key a = k := by
  induction l with
  | nil => simp [findBy] at h
  | cons b l ih => simp only [findBy] at h; split at h; · cases h; assumption
                   · exact ih h

theorem findBy_mem {α : Type} {key : α → Nat} {k : Nat} {l : List α} {a : α} (h : findBy key k l = some a) : a ∈ l := by
  induction l with
  | nil => simp [findBy] at h
  | cons b l ih => simp only [findBy] at h; split at h; · cases h; simp
                   · simp [ih h]

theorem findBy_map {α : Type} {key : α → Nat} (f : α → α) (hf : ∀ a, key (f a) = key a) (k : Nat) (l : List α) :
    findBy key k (l.map f) = (findBy key k l).map f := by
  induction l with
  | nil => rfl
  | cons b l ih => simp only [List.map, findBy, hf]; split; · rfl
                   · exact ih

theorem rec_put (s : State) (c : CapRec) (i : Nat) : (s.putRec c).rec? i = if i = c.img then some c else s.rec? i := findBy_putBy ..

theorem rec_drop (s : State) (j i : Nat) : (s.dropRec j).rec? i = if i = j then none else s.rec? i := findBy_dropBy ..

theorem rec_img {s : State} {i : Nat} {c : CapRec} (h : s.rec? i = some c) : c.img = i := findBy_key h

theorem rec_mod (s : State) (j : Nat) (f : CapRec → CapRec) (hf : ∀ c, (f c).img = c.img) (i : Nat) :
    (s.modRec j f).rec? i = if i = j then (s.rec? j).map f else s.rec? i := by
  unfold State.modRec
  split
  · rename_i c h; rw [rec_put, hf, rec_img h]; split; · rw [h]; rfl
    · rfl
  · rename_i h; split; · rename_i e; rw [e, h]; rfl
    · rfl

theorem setH_get (t : Task) (d e : BitVec 4) (w : Word) : (t.setH d w).getH e = if e = d then w else t.getH e := by
  unfold Task.getH Task.setH
  by_cases h : e = d
  · subst h; rw [if_pos rfl]; exact Vector.getElem_set_self ..
  · rw [if_neg h]; exact Vector.getElem_set_ne d.isLt e.isLt (fun x => h (BitVec.eq_of_toNat_eq x).symm)

theorem handle_setHandle (s : State) (d e : BitVec 4) (w : Word) : (s.setHandle d w).handle e = if e = d then w else s.handle e := setH_get ..

theorem check_rec {s : State} {h : BitVec 4} {need : Rights} {sk : Bool} {c : CapRec} (e : s.checkHandle h need sk = .ok c) :
    s.handle h ≠ 0 ∧ s.rec? (imgOf (s.handle h)) = some c ∧ c.usableBy s.task = true ∧ c.revoked = false ∧ c.rights.lacks need = false := by
  unfold State.checkHandle at e
  have w : s.task.h[h.toNat] = s.handle h := rfl
  simp only [w] at e
  split at e; · cases e
  split at e; · cases e
  split at e; · cases e
  split at e; · cases e
  split at e; · cases e
  split at e; · cases e
  cases e
  simp_all

end Sys2Proof.Machine
end

