-- ==== Sys2Proof/Laws/Capabilities.lean ====
section
/-!
SUPPORT. What the shared operations over capability records change.
-/
namespace Sys2Proof.Machine

open Sys2Proof

theorem plain_advance (s : State) (h : s.Plain) (n : Nat) : s.hart.advance n = (s.past n).hart := by rw [advance_plain _ _ h]; rfl

/-- The state after finish, in parts. -/
theorem done_hart_past {t : State} (n : Nat) (s : State) (hh : t.hart = s.hart) (hp : s.Plain) : (t.done n).hart = (s.past n).hart := by
  unfold State.done State.setHart; dsimp only; rw [hh]; exact plain_advance s hp n

theorem setH_same (t : Task) (d : BitVec 4) (w : Word) (h : t.getH d = w) : t.setH d w = t := by
  unfold Task.setH Task.getH at *; subst h; simp

theorem lowest_free (fuel n : Nat) (used : List Nat) (k : Nat) (h : lowestFree fuel n used = some k) : k ∉ used := by
  induction fuel generalizing n with
  | zero => simp [lowestFree] at h
  | succ f ih => unfold lowestFree at h; split at h; · exact ih _ h
                 · rename_i q; cases h; simpa using q

theorem free_rec {s : State} {die img : Nat} (h : s.freeRecord die = some img) : img / 2 ^ 20 = die ∧ s.rec? img = none := by
  unfold State.freeRecord at h
  dsimp only at h
  split at h
  · rename_i k hk
    split at h
    · rename_i hl
      cases h
      have e1 : (die * 2 ^ 20 + k) / 2 ^ 20 = die := by omega
      have e2 : (die * 2 ^ 20 + k) % 2 ^ 20 = k := by omega
      refine ⟨e1, ?_⟩
      have hn := lowest_free _ _ _ _ hk
      cases hr : s.rec? (die * 2 ^ 20 + k) with
      | none => rfl
      | some c =>
        exfalso; apply hn
        rw [List.mem_filterMap]
        refine ⟨c, findBy_mem hr, ?_⟩
        rw [rec_img hr, if_pos e1, e2]
    · cases h
  · cases h

theorem note_created (s : State) (i : Nat) : ∃ l, s.noteCreated i = { s with launches := l } := by
  unfold State.noteCreated State.modLaunch
  split
  · split
    · exact ⟨_, rfl⟩
    · exact ⟨_, rfl⟩
  · exact ⟨s.launches, rfl⟩

theorem mem_scrub_only (s : State) (a n : Nat) : ∃ m u c g, s.scrub a n = { s with mem := m, ue := u, ce := c, groupModes := g } := ⟨_, _, _, _, rfl⟩

theorem foldl_dies {α : Type} (f : State → α → State) (hf : ∀ s x, ∃ d, f s x = { s with dies := d }) (xs : List α) (s : State) : ∃ d, xs.foldl f s = { s with dies := d } := by
  induction xs generalizing s with
  | nil => exact ⟨s.dies, rfl⟩
  | cons x xs ih =>
    obtain ⟨d, e⟩ := hf s x
    rw [List.foldl_cons, e]
    exact ih _

theorem freePage_only (s : State) (a n : Nat) : ∃ d, s.freePageErrors a n = { s with dies := d } := by
  unfold State.freePageErrors
  dsimp only
  have h : ∀ (cls : Nat) (s : State) (u : Nat), ∃ d, s.log (memSite u).1 cls (memSite u).2.1 (memSite u).2.2.1 (BitVec.ofNat 64 (memSite u).2.2.2) 0 = { s with dies := d } := fun _ _ _ => ⟨_, rfl⟩
  obtain ⟨d, e⟩ := foldl_dies _ (h 3) (s.ce.filter fun u => decide (a ≤ u ∧ u < a + n)) s
  obtain ⟨d2, e2⟩ := foldl_dies _ (h 4) (s.ue.filter fun u => decide (a ≤ u ∧ u < a + n)) ({ s with dies := d })
  exact ⟨d2, (congrArg (fun z => List.foldl _ z _) e).trans e2⟩

theorem storage_only {s u : State} {l : ALevel} {k : CapKind} {n base : Nat} (h : s.takeStorage l k n = some (base, u)) :
    ∃ m ue ce g p d, u = { s with mem := m, ue := ue, ce := ce, groupModes := g, pages := p, dies := d } := by
  unfold State.takeStorage at h
  cases l <;> dsimp only at h
  · rw [Option.map_eq_some_iff] at h; obtain ⟨a, _, h⟩ := h; cases h; exact ⟨_, _, _, _, s.pages, s.dies, rfl⟩
  · rw [Option.map_eq_some_iff] at h; obtain ⟨a, _, h⟩ := h; cases h; exact ⟨_, _, _, _, s.pages, s.dies, rfl⟩
  · split at h
    · cases h
      obtain ⟨d, e⟩ := freePage_only s _ (storageSize (levelOf .hbm) k n)
      rw [e]; exact ⟨_, _, _, _, _, d, rfl⟩
    · cases h

theorem memGet_filter {m : List Host.Cell} (f : Nat → Bool) (h : Memory.wf m = true) (b : Nat) :
    memGet b (m.filter fun c => f c.1) = if f b then memGet b m else unlisted := by
  induction m with
  | nil => simp [memGet]
  | cons c r ih =>
    obtain ⟨k, v⟩ := c
    obtain ⟨h1, h2, h3⟩ := wf_cons.1 h
    have ih := ih h3
    rw [List.filter_cons]
    by_cases hk : f k = true
    · rw [if_pos hk]; simp only [memGet]; grind
    · rw [if_neg hk, ih]; simp only [memGet]
      have := @memGet_below b r
      grind

theorem mem_scrub (s : State) (a n b : Nat) (h : Memory.wf s.mem = true) : memGet b (s.scrub a n).mem = if a ≤ b ∧ b < a + n then 0 else memGet b s.mem := by
  refine (memGet_filter (fun x => !decide (a ≤ x ∧ x < a + n)) h b).trans ?_
  by_cases q : a ≤ b ∧ b < a + n
  · simp [q, unlisted]
  · simp [q]

theorem release_only (s : State) (c : CapRec) : ∃ m ue ce g pg cl, s.releaseStorage c = { s with mem := m, ue := ue, ce := ce, groupModes := g, pages := pg, clusters := cl } := by
  unfold State.releaseStorage
  split
  · exact ⟨s.mem, s.ue, s.ce, s.groupModes, s.pages, s.clusters, rfl⟩
  · split
    · exact ⟨_, _, _, _, s.pages, s.clusters, rfl⟩
    · exact ⟨_, _, _, _, s.pages, s.clusters, rfl⟩
    · split
      · exact ⟨_, _, _, _, _, _, rfl⟩
      · exact ⟨s.mem, s.ue, s.ce, s.groupModes, s.pages, s.clusters, rfl⟩
    · exact ⟨s.mem, s.ue, s.ce, s.groupModes, s.pages, s.clusters, rfl⟩

theorem freeRoot_only (s : State) (c : CapRec) : ∃ ue ce g qc qu qb pg cl tl ts, s.freeRoot c = { s with
    mem := (s.releaseStorage c).mem, ue := ue, ce := ce, groupModes := g, quireCE := qc, quireUE := qu, quireBad := qb, pages := pg, clusters := cl, tile := tl, tiles := ts
    quire := (dropBy CapRec.img c.img s.quire).map fun f => if f.kind = .frac ∧ f.root = c.img then { f with revoked := true } else f } := by
  obtain ⟨m, ue, ce, g, pg, cl, e⟩ := release_only s c
  unfold State.freeRoot
  rw [e]
  exact ⟨_, _, _, _, _, _, _, _, _, _, rfl⟩

theorem freeRoot_rec (s : State) (c : CapRec) (i : Nat) : (s.freeRoot c).rec? i =
    if i = c.img then none else (s.rec? i).map fun f => if f.kind = .frac ∧ f.root = c.img then { f with revoked := true } else f := by
  obtain ⟨ue, ce, g, qc, qu, qb, pg, cl, tl, ts, e⟩ := freeRoot_only s c
  rw [e]
  unfold State.rec?
  dsimp only
  rw [findBy_map _ (by intro a; split <;> rfl), findBy_dropBy]
  split <;> rfl

theorem freeRoot_kept (s : State) (c : CapRec) : (s.freeRoot c).hart = s.hart ∧ (s.freeRoot c).task = s.task := by
  obtain ⟨ue, ce, g, qc, qu, qb, pg, cl, tl, ts, q⟩ := freeRoot_only s c; rw [q]; exact ⟨rfl, rfl⟩

theorem dropHolder_kept (s : State) (c : CapRec) : (s.dropHolder c).hart = s.hart ∧ (s.dropHolder c).task = s.task := by
  unfold State.dropHolder
  dsimp only
  have h : ∃ q a b d, (if c.isRoot = true then s.modRec c.img fun r => { r with owner := 0 } else s.dropRec c.img) = { s with quire := q, quireCE := a, quireUE := b, quireBad := d } := by
    split
    · obtain ⟨q, e⟩ := modRec_only s c.img fun r => { r with owner := 0 }
      exact ⟨q, s.quireCE, s.quireUE, s.quireBad, e⟩
    · exact ⟨_, _, _, _, rfl⟩
  obtain ⟨q, a, b, d, h⟩ := h
  rw [h]
  split
  · exact ⟨rfl, rfl⟩
  · split
    · exact freeRoot_kept { s with quire := q, quireCE := a, quireUE := b, quireBad := d } _
    · exact ⟨rfl, rfl⟩

theorem tellWrap_quire (s : State) (r : Image) : (s.tellWrap r).quire = s.quire := by
  obtain ⟨l, w, e⟩ := tellWrap_only s r
  rw [e]

theorem bump_rec {s : State} {root : Nat} {r : CapRec} (hr : s.rec? root = some r) (i : Nat) :
    (s.bumpVersion root).rec? i = (s.rec? i).map fun c => if c.img = root then { c with version := r.version + 1, revVersion := if r.version + 1 = 0 then r.version + 1 else c.revVersion }
                                              else if c.kind = .frac ∧ c.root = root then { c with version := r.version + 1 } else c := by
  have Q : (s.bumpVersion root).quire = s.quire.map fun c => if c.img = root then { c with version := r.version + 1, revVersion := if r.version + 1 = 0 then r.version + 1 else c.revVersion }
                                              else if c.kind = .frac ∧ c.root = root then { c with version := r.version + 1 } else c := by
    unfold State.bumpVersion; rw [hr]; dsimp only
    split
    · rename_i h0
      exact tellWrap_quire _ _
    · rfl
  unfold State.rec? at hr ⊢
  rw [Q]
  exact findBy_map _ (by intro a; grind) i s.quire

theorem foldl_add (l : List Nat) (a : Nat) : l.foldl (· + ·) a = a + l.sum := by
  induction l generalizing a with
  | nil => simp
  | cons b l ih => simp only [List.foldl, ih, List.sum_cons]; omega

end Sys2Proof.Machine
end

