-- ==== Sys2Proof/Laws/Fetch.lean ====
section
/-!
SUPPORT. The instruction that a step fetches, and the instructions that a REP repeats.
-/
namespace Sys2Proof.Machine

open Sys2Proof

theorem recBytes_take (f : State) (c : CapRec) : ∀ (n m off : Nat) (bs : List Byte), f.recBytes c n off = .ok bs → m ≤ n → f.recBytes c m off = .ok (bs.take m) := by
  intro n
  induction n with
  | zero => intro m off bs h hm; obtain rfl : m = 0 := by omega
            simp only [State.recBytes] at h ⊢; simp
  | succ n ih =>
    intro m off bs h hm
    cases m with
    | zero => simp [State.recBytes]
    | succ m =>
      simp only [State.recBytes] at h ⊢
      split at h
      · cases h
      · split at h
        · cases h
        · rename_i b hb bs' hbs
          cases h
          rw [ih m _ _ hbs (by omega)]; simp

theorem recBytes_len (f : State) (c : CapRec) : ∀ (n off : Nat) (bs : List Byte), f.recBytes c n off = .ok bs → bs.length = n := by
  intro n
  induction n with
  | zero => intro off bs h; simp only [State.recBytes] at h; cases h; rfl
  | succ n ih =>
    intro off bs h
    simp only [State.recBytes] at h
    split at h
    · cases h
    · split at h
      · cases h
      · rename_i b hb bs' hbs
        cases h; simp [ih _ _ hbs]

theorem fetch_code (f : State) (bs : List Byte) (i : Instr) (h : f.CodeAt bs) (hd : decode bs = .ok (i, bs.length, [])) : f.fetch f.hart.pc.toNat = .ok i := by
  obtain ⟨c, hc, hp, hl, hb⟩ := h
  have cb : ∀ m ≤ bs.length, f.codeBytes m f.hart.pc.toNat = .ok (bs.take m) := by
    intro m hm
    unfold State.codeBytes
    rw [hc]; dsimp only
    rw [if_neg (by omega), if_neg (by simp [hp]), recBytes_take f c _ m _ _ hb hm]
  unfold State.fetch State.fetchBytes
  match bs, hd with
  | [], hd => simp [decode] at hd
  | [b], hd => simp [decode] at hd
  | b0 :: b1 :: rest, hd =>
    rw [cb 2 (by simp)]
    dsimp only [List.take]
    have e : leValue [b0, b1] % 2 = b0.toNat % 2 := by simp [leValue]; omega
    rw [e]
    unfold decode at hd
    dsimp only at hd
    by_cases h0 : b0.toNat % 2 = 0
    · rw [if_pos h0] at hd
      rw [if_neg (by omega)]
      dsimp only [decode]
      rw [if_pos h0]
      split at hd
      · rename_i j hj; simp only [Except.ok.injEq, Prod.mk.injEq] at hd; obtain ⟨rfl, -, rfl⟩ := hd; rfl
      · cases hd
    · rw [if_neg h0] at hd
      rw [if_pos (by omega)]
      match rest, hd with
      | [], hd => cases hd
      | [b], hd => cases hd
      | b2 :: b3 :: r, hd =>
        rw [cb 4 (by simp)]
        dsimp only [List.take, decode] at hd ⊢
        rw [if_neg h0]
        split at hd
        · rename_i j hj; simp only [Except.ok.injEq, Prod.mk.injEq] at hd; obtain ⟨rfl, -, rfl⟩ := hd; rfl
        · cases hd

theorem runRepeated_intReg {w : Nat} {i : Instr} (h : decodeIntReg w = some i) : runRepeated i = exec i := by
  unfold decodeIntReg at h
  dsimp only at h
  repeat' split at h
  all_goals first | (cases h; done) | (cases h; rfl)

theorem runRepeated_intImm {w : Nat} {i : Instr} (h : decodeIntImm w = some i) : runRepeated i = exec i := by
  unfold decodeIntImm at h
  dsimp only at h
  repeat' split at h
  all_goals first | (cases h; done) | (cases h; rfl)

theorem runRepeated_scalarFp {w : Nat} {i : Instr} (h : decodeScalarFp w = some i) : runRepeated i = exec i := by
  unfold decodeScalarFp at h
  dsimp only at h
  repeat' split at h
  all_goals first | (cases h; done) | (cases h; rfl)

theorem runRepeated_load {w : Nat} {i : Instr} (h : decodeLoad w = some i) : runRepeated i = exec i := by
  unfold decodeLoad at h
  dsimp only at h
  repeat' split at h
  all_goals first | (cases h; done) | (cases h; rfl)

theorem runRepeated_store {w : Nat} {i : Instr} (h : decodeStore w = some i) : runRepeated i = exec i := by
  unfold decodeStore at h
  dsimp only at h
  repeat' split at h
  all_goals first | (cases h; done) | (cases h; rfl)

theorem runRepeated_vecFp {w : Nat} {i : Instr} (h : decodeVecFp w = some i) : runRepeated i = exec i := by
  unfold decodeVecFp at h
  dsimp only at h
  repeat' split at h
  all_goals first | (cases h; done) | (cases h; rfl)

theorem runRepeated_vecInt {w : Nat} {i : Instr} (h : decodeVecInt w = some i) : runRepeated i = exec i := by
  unfold decodeVecInt at h
  dsimp only at h
  repeat' split at h
  all_goals first | (cases h; done) | (cases h; rfl)

theorem runRepeated_vecLogic {w : Nat} {i : Instr} (h : decodeVecLogic w = some i) : runRepeated i = exec i := by
  unfold decodeVecLogic at h
  dsimp only at h
  repeat' split at h
  all_goals first | (cases h; done) | (cases h; rfl)

theorem runRepeated_vecCompare {w : Nat} {i : Instr} (h : decodeVecCompare w = some i) : runRepeated i = exec i := by
  unfold decodeVecCompare at h
  dsimp only at h
  repeat' split at h
  all_goals first | (cases h; done) | (cases h; rfl)

theorem runRepeated_vecSpecial {w : Nat} {i : Instr} (h : decodeVecSpecial w = some i) : runRepeated i = exec i := by
  unfold decodeVecSpecial at h
  dsimp only at h
  repeat' split at h
  all_goals first | (cases h; done) | (cases h; rfl)

theorem runRepeated_vecConvert {w : Nat} {i : Instr} (h : decodeVecConvert w = some i) : runRepeated i = exec i := by
  unfold decodeVecConvert at h
  dsimp only at h
  repeat' split at h
  all_goals first | (cases h; done) | (cases h; rfl)

theorem runRepeated_vecPermute {w : Nat} {i : Instr} (h : decodeVecPermute w = some i) : runRepeated i = exec i := by
  unfold decodeVecPermute at h
  dsimp only at h
  repeat' split at h
  all_goals first | (cases h; done) | (cases h; rfl)

theorem runRepeated_vecImm {w : Nat} {i : Instr} (h : decodeVecImm w = some i) : runRepeated i = exec i := by
  unfold decodeVecImm at h
  dsimp only at h
  repeat' split at h
  all_goals first | (cases h; done) | (cases h; rfl)

end Sys2Proof.Machine
end

