-- ==== Sys2Proof/Laws/Lanes.lean ====
section
/-!
SUPPORT. Lanes of rows: packed, rounded in order, and written under a mask.
-/
namespace Sys2Proof.Machine

open Sys2Proof

theorem lanesValue_lt (w : Nat) (l : List Nat) : lanesValue w l < 2 ^ (w * l.length) := by
  induction l with
  | nil => simp [lanesValue]
  | cons c cs ih =>
    simp only [lanesValue, List.length_cons, Nat.mul_add, Nat.mul_one, Nat.pow_add]
    have h1 : c % 2 ^ w < 2 ^ w := Nat.mod_lt _ (Nat.two_pow_pos w)
    have h2 : 2 ^ w * lanesValue w cs + 2 ^ w ≤ 2 ^ w * 2 ^ (w * cs.length) := by rw [← Nat.mul_succ]; exact Nat.mul_le_mul_left _ ih
    rw [Nat.mul_comm (2 ^ (w * cs.length))]
    omega

theorem lanesValue_get (w : Nat) (l : List Nat) (i : Nat) (h : i < l.length) : lanesValue w l / 2 ^ (w * i) % 2 ^ w = l[i] % 2 ^ w := by
  induction l generalizing i with
  | nil => simp at h
  | cons c cs ih =>
    have hp := Nat.two_pow_pos w
    cases i with
    | zero => simp [lanesValue]
    | succ i =>
      have h' : i < cs.length := by simpa using h
      simp only [lanesValue, List.getElem_cons_succ]
      rw [Nat.mul_add, Nat.mul_one, Nat.add_comm (w * i), Nat.pow_add, ← Nat.div_div_eq_div_mul]
      have e : (c % 2 ^ w + 2 ^ w * lanesValue w cs) / 2 ^ w = lanesValue w cs := by
        rw [Nat.add_mul_div_left _ _ hp, Nat.div_eq_of_lt (Nat.mod_lt _ hp)]; omega
      rw [e]; exact ih i h'

theorem lane_packed (w : Nat) (l : List Nat) (i : Nat) (h : i < l.length) (hw : w * l.length ≤ 512) : laneOf w (packRow w l) i = l[i] % 2 ^ w := by
  unfold laneOf packRow
  have : lanesValue w l < 2 ^ 512 := Nat.lt_of_lt_of_le (lanesValue_lt w l) (Nat.pow_le_pow_right (by omega) hw)
  rw [BitVec.toNat_ofNat, Nat.mod_eq_of_lt this]
  exact lanesValue_get w l i h

theorem et_size (e : Et) : e.width * e.lanes = 512 := by cases e <;> rfl

theorem lane_packRow (e : Et) (f : Nat → Nat) (i : Nat) (h : i < e.lanes) : laneOf e.width (rowFrom e f) i = f i % 2 ^ e.width := by
  unfold rowFrom
  rw [lane_packed _ _ _ (by simpa using h) (by simp [et_size])]
  simp

theorem v_setV (s : State) (d r : BitVec 5) (w : Row) : (s.setV d w).v r = if r = d then w else s.v r := by
  unfold State.setV State.setHart State.v Hart.getV Hart.setV; dsimp only
  by_cases q : r = d
  · subst q; rw [if_pos rfl]; exact Vector.getElem_set_self ..
  · rw [if_neg q]; exact Vector.getElem_set_ne d.isLt r.isLt (fun x => q (BitVec.eq_of_toNat_eq x).symm)

theorem done_v (u : State) (n : Nat) (r : BitVec 5) : (u.done n).v r = u.v r := by
  unfold State.done State.setHart State.v Hart.getV Hart.advance; dsimp only; split
  · split <;> rfl
  · rfl

theorem rows_free (s : State) (h : s.RowsFree) (l : List (BitVec 5)) : s.rowWait l = none := by
  unfold State.rowWait
  rw [if_neg]
  simp only [List.any_eq_true, not_exists, not_and]
  intro r _
  unfold rowTile; split
  · rw [h.1]; decide
  · rw [h.2]; decide

theorem with_rows (s : State) (h : s.RowsFree) (l : List (BitVec 5)) (f : State → Out) : withRows l f s = f s := by
  unfold withRows; rw [rows_free s h]

theorem setV_done (s : State) (hp : s.Plain) (d : BitVec 5) (w : Row) (n : Nat) : (s.setV d w).done n = (s.past n).setHart { (s.past n).hart with v := ((s.setV d w).done n).hart.v } := by
  unfold State.done State.setV State.setHart Hart.setV; dsimp only
  rw [advance_plain _ _ (by exact hp)]
  rfl

theorem setV_wrote (s : State) (hp : s.Plain) (d : BitVec 5) (row : Row) (e : Et) (f : Nat → Nat) (h : ∀ i < e.lanes, laneOf e.width row i = f i % 2 ^ e.width) :
    WroteV d e.width e.lanes f (s.past 4) ((s.setV d row).done 4) := by
  refine ⟨fun r hr => ?_, fun i hi => ?_, setV_done s hp d row 4⟩
  · rw [done_v, v_setV, if_neg hr]; rfl
  · rw [done_v, v_setV, if_pos rfl]; exact h i hi

theorem vecLanes_ok (s : State) (hp : s.Plain) (hr : s.RowsFree) (d : BitVec 5) (e : Et) (k : BitVec 2) (rows : List (BitVec 5)) (f : State → Nat → Nat) (g : Nat → Nat)
    (h : ∀ i < e.lanes, f s i % 2 ^ e.width = g i % 2 ^ e.width) :
    ∃ t, vecLanes d e k rows f s = .next t ∧ WroteV d e.width e.lanes (fun i => if (s.hart.getM k).getLsbD i then g i else laneOf e.width (s.v d) i) (s.past 4) t := by
  refine ⟨_, ?_, setV_wrote s hp d (rowMasked e (s.hart.getM k) (s.v d) (f s)) e _ fun i hi => ?_⟩
  · unfold vecLanes; rw [with_rows s hr]; rfl
  · unfold rowMasked; rw [lane_packRow _ _ _ hi]; unfold activeLane
    split
    · exact h i hi
    · rfl

def genAt (v : Env) (act : Nat → Bool) (a : Nat) (l : Word) (n : Nat) : Word :=
  if v.mode = .rs then generatorAfter (((List.range' a n).filter act).length) l else l

theorem genAt_succ (v : Env) (act : Nat → Bool) (a : Nat) (l : Word) (n : Nat) :
    genAt v act a l (n + 1) = genAt v act (a + 1) (if act a = true ∧ v.mode = .rs then stepWord l else l) n := by
  unfold genAt
  rw [List.range'_succ, List.filter_cons]
  by_cases m : v.mode = .rs
  · by_cases h : act a = true
    · simp [m, h, generatorAfter]
    · simp [m, h]
  · simp [m]

theorem round_lanes (v : Env) (act : Nat → Bool) (f : Env → Nat → Nat × FFlags) (keep : Nat → Nat) (n a : Nat) (l : Word) :
    (roundLanes v act f keep (List.range' a n) l).1 =
        (List.range' a n).map (fun i => if act i then (f { v with u := (genAt v act a l (i + 1 - a)).toNat % 65536 } i).1 else keep i) ∧
    (∀ j, (roundLanes v act f keep (List.range' a n) l).2.1.getLsbD j = true ↔
        ∃ i, a ≤ i ∧ i < a + n ∧ (if act i then (f { v with u := (genAt v act a l (i + 1 - a)).toNat % 65536 } i).2 else 0).getLsbD j = true) ∧
    (roundLanes v act f keep (List.range' a n) l).2.2 = genAt v act a l n := by
  induction n generalizing a l with
  | zero => exact ⟨rfl, fun j => ⟨fun h => by simp [roundLanes] at h, fun ⟨i, h, h', _⟩ => by omega⟩, by simp [roundLanes, genAt, generatorAfter]⟩
  | succ n ih =>
    have key : ∀ i, a + 1 ≤ i → genAt v act a l (i + 1 - a) = genAt v act (a + 1) (if act a = true ∧ v.mode = .rs then stepWord l else l) (i + 1 - (a + 1)) := by
      intro i hi
      rw [show i + 1 - a = (i + 1 - (a + 1)) + 1 from by omega, genAt_succ]
    have one : genAt v act a l 1 = if act a = true ∧ v.mode = .rs then stepWord l else l := by
      rw [genAt_succ]; unfold genAt; simp [generatorAfter]
    have mem : ∀ i ∈ List.range' (a + 1) n, a + 1 ≤ i := fun i hi => by rw [List.mem_range'] at hi; obtain ⟨k, _, rfl⟩ := hi; omega
    rw [List.range'_succ, genAt_succ]
    obtain ⟨h1, h2, h3⟩ := ih (a + 1) (if act a = true ∧ v.mode = .rs then stepWord l else l)
    have tail : (List.range' (a + 1) n).map (fun i => if act i then (f { v with u := (genAt v act a l (i + 1 - a)).toNat % 65536 } i).1 else keep i) =
        (List.range' (a + 1) n).map (fun i => if act i then (f { v with u := (genAt v act (a + 1) (if act a = true ∧ v.mode = .rs then stepWord l else l) (i + 1 - (a + 1))).toNat % 65536 } i).1 else keep i) :=
      List.map_congr_left fun i hi => by rw [key i (mem i hi)]
    have split' : ∀ P : Nat → Prop, (∃ i, a ≤ i ∧ i < a + (n + 1) ∧ P i) ↔ (P a ∨ ∃ i, a + 1 ≤ i ∧ i < a + 1 + n ∧ P i) := by
      intro P; constructor
      · rintro ⟨i, h, h', p⟩
        by_cases q : i = a
        · exact .inl (q ▸ p)
        · exact .inr ⟨i, by omega, by omega, p⟩
      · rintro (p | ⟨i, h, h', p⟩)
        · exact ⟨a, by omega, by omega, p⟩
        · exact ⟨i, by omega, by omega, p⟩
    have bits : ∀ j, (∃ i, a + 1 ≤ i ∧ i < a + 1 + n ∧ (if act i then (f { v with u := (genAt v act a l (i + 1 - a)).toNat % 65536 } i).2 else 0).getLsbD j = true) ↔
        (∃ i, a + 1 ≤ i ∧ i < a + 1 + n ∧ (if act i then (f { v with u := (genAt v act (a + 1) (if act a = true ∧ v.mode = .rs then stepWord l else l) (i + 1 - (a + 1))).toNat % 65536 } i).2 else 0).getLsbD j = true) := by
      intro j
      constructor <;> rintro ⟨i, h, h', p⟩ <;> refine ⟨i, h, h', ?_⟩
      · rwa [← key i h]
      · rwa [key i h]
    have a1 : a + 1 - a = 1 := by omega
    by_cases ha : act a = true
    · have e : (if act a = true ∧ v.mode = .rs then stepWord l else l) = if v.mode = .rs then stepWord l else l := by simp [ha]
      rw [e] at h1 h2 h3 tail bits one
      simp only [roundLanes, ha, if_true, List.map_cons, a1, one, true_and]
      refine ⟨?_, fun j => ?_, h3⟩
      · rw [h1, tail]
      · rw [BitVec.getLsbD_or, Bool.or_eq_true, h2, split', bits]
        simp only [ha, if_true, a1, one]
    · have e : (if act a = true ∧ v.mode = .rs then stepWord l else l) = l := by simp [ha]
      rw [e] at h1 h2 h3 tail bits one
      simp only [roundLanes, ha, List.map_cons, Bool.false_eq_true, if_false, false_and]
      refine ⟨?_, fun j => ?_, h3⟩
      · rw [h1, tail]
      · rw [h2, split', bits]
        simp [ha]

theorem range_range' (n : Nat) : List.range n = List.range' 0 n := List.range_eq_range'

/-- what roundLanes gives, in the statement's words -/
theorem round_lanes_upTo (v : Env) (m : Word) (f : Env → Nat → Nat × FFlags) (keep : Nat → Nat) (n : Nat) (l : Word) (hn : 0 < n) :
    let gen (i : Nat) : Word := if v.mode = .rs then generatorAfter (activeUpTo m i) l else l
    (roundLanes v (activeLane m) f keep (List.range n) l).1 = (List.range n).map (fun i => if m.getLsbD i then (f { v with u := (gen i).toNat % 65536 } i).1 else keep i) ∧
    (∀ j, (roundLanes v (activeLane m) f keep (List.range n) l).2.1.getLsbD j = decide (∃ i < n, (if m.getLsbD i then (f { v with u := (gen i).toNat % 65536 } i).2 else 0).getLsbD j = true)) ∧
    (roundLanes v (activeLane m) f keep (List.range n) l).2.2 = gen (n - 1) := by
  intro gen
  have g : ∀ i, genAt v (activeLane m) 0 l (i + 1 - 0) = gen i := by
    intro i; unfold genAt; dsimp only [gen, activeUpTo]; rw [Nat.sub_zero, range_range']; rfl
  obtain ⟨h1, h2, h3⟩ := round_lanes v (activeLane m) f keep n 0 l
  rw [range_range']
  refine ⟨?_, fun j => ?_, ?_⟩
  · rw [h1]; exact List.map_congr_left fun i _ => by rw [g]; rfl
  · have := h2 j
    rw [Bool.eq_iff_iff, this, decide_eq_true_eq]
    constructor
    · rintro ⟨i, _, h, p⟩; exact ⟨i, by omega, by rw [g] at p; exact p⟩
    · rintro ⟨i, h, p⟩; exact ⟨i, by omega, by omega, by rw [g]; exact p⟩
  · rw [h3]
    obtain ⟨k, rfl⟩ : ∃ k, n = k + 1 := ⟨n - 1, by omega⟩
    exact g k

theorem vecWrite_done (s : State) (hp : s.Plain) (d : BitVec 5) (w : Nat) (r : List Nat × FFlags × Word) :
    (s.vecWrite d w r).done 4 = (((s.past 4).setHart { (s.past 4).hart with fflg := (s.hart.raise r.2.1).fflg, lfsr := r.2.2 }).setHart { ((s.past 4).setHart { (s.past 4).hart with fflg := (s.hart.raise r.2.1).fflg, lfsr := r.2.2 }).hart with v := (s.setV d (packRow w r.1)).hart.v }) := by
  unfold State.done State.vecWrite State.setLfsr State.raiseFlags State.setV State.setHart; dsimp only
  rw [advance_plain _ _ (by exact hp)]
  rfl

theorem getV_set (h : Hart) (d r : BitVec 5) (w : Row) : (h.setV d w).getV r = if r = d then w else h.getV r := by
  unfold Hart.getV Hart.setV; dsimp only
  by_cases q : r = d
  · subst q; rw [if_pos rfl]; exact Vector.getElem_set_self ..
  · rw [if_neg q]; exact Vector.getElem_set_ne d.isLt r.isLt (fun x => q (BitVec.eq_of_toNat_eq x).symm)

/-- state s0 with row d set -/
theorem wroteV_of (s s0 t : State) (d : BitVec 5) (e : Et) (g : Nat → Nat) (l : List Nat) (hl : l = (List.range e.lanes).map g)
    (h0 : s0.hart.v = s.hart.v) (ht : t = s0.setHart { s0.hart with v := (s.hart.setV d (packRow e.width l)).v }) : WroteV d e.width e.lanes g s0 t := by
  have gv : ∀ r, t.v r = if r = d then packRow e.width l else s0.v r := by
    intro r
    have := getV_set s.hart d r (packRow e.width l)
    rw [ht]
    refine Eq.trans this ?_
    have : s.hart.getV r = s0.v r := by unfold State.v Hart.getV; rw [h0]
    rw [this]
  refine ⟨fun r hr => ?_, fun i hi => ?_, ?_⟩
  · rw [gv, if_neg hr]
  · rw [gv, if_pos rfl, hl]
    exact lane_packRow e g i hi
  · rw [ht]; rfl

theorem flagsOf_raise (h : Hart) (fl : FFlags) (n : Nat) (F : Nat → FFlags) (hb : ∀ j, fl.getLsbD j = decide (∃ i < n, (F i).getLsbD j = true)) :
    FlagsOf n F h.fflg (h.raise fl).fflg := by
  intro j
  show (h.fflg ||| fl.zeroExtend 64).getLsbD j = _
  rw [BitVec.getLsbD_or, ← hb]
  by_cases q : j < 64
  · simp [q]
  · have : fl.getLsbD j = false := BitVec.getLsbD_of_ge _ _ (by omega)
    simp [this, q]

theorem lanes_pos (e : Et) : 0 < e.lanes := by cases e <;> decide

theorem stands_setHart (s : State) (hp : s.Plain) (d : BitVec 5) (w : Nat) (r : List Nat × FFlags × Word) (c : Nat) :
    ((s.vecWrite d w r).busy c).done 4 =
      (((s.stands (s.hart.pc + 4) (s.clk + c)).setHart { (s.stands (s.hart.pc + 4) (s.clk + c)).hart with fflg := (s.hart.raise r.2.1).fflg, lfsr := r.2.2 }).setHart
        { ((s.stands (s.hart.pc + 4) (s.clk + c)).setHart { (s.stands (s.hart.pc + 4) (s.clk + c)).hart with fflg := (s.hart.raise r.2.1).fflg, lfsr := r.2.2 }).hart with v := (s.hart.setV d (packRow w r.1)).v }) := by
  unfold State.done State.busy State.vecWrite State.setLfsr State.raiseFlags State.setV State.setHart; dsimp only
  rw [advance_plain _ _ (by exact hp)]
  rfl

theorem vecFp_ok (s : State) (hp : s.Plain) (hr : s.RowsFree) (d : BitVec 5) (e : Et) (k : BitVec 2) (c : Nat) (rows : List (BitVec 5)) (f : State → Env → Nat → Nat × FFlags) :
    let gen (i : Nat) : Word := if fctlMode s.hart.fctl = .rs then generatorAfter (activeUpTo (s.hart.getM k) i) s.hart.lfsr else s.hart.lfsr
    let env (i : Nat) : Env := { fmt := laneFmt e, mode := fctlMode s.hart.fctl, ftz := s.ftz, u := (gen i).toNat % 65536 }
    ∃ t fl, vecFp d e k c rows f s = .next t ∧
      WroteV d e.width e.lanes (fun i => if (s.hart.getM k).getLsbD i then (f s (env i) i).1 else laneOf e.width (s.v d) i)
        ((s.stands (s.hart.pc + 4) (s.clk + c)).setHart { (s.stands (s.hart.pc + 4) (s.clk + c)).hart with fflg := fl, lfsr := gen (e.lanes - 1) }) t ∧
      FlagsOf e.lanes (fun i => if (s.hart.getM k).getLsbD i then (f s (env i) i).2 else 0) s.hart.fflg fl := by
  intro gen env
  obtain ⟨h1, h2, h3⟩ := round_lanes_upTo { fmt := laneFmt e, mode := fctlMode s.hart.fctl, ftz := s.ftz } (s.hart.getM k) (f s) (laneOf e.width (s.v d)) e.lanes s.hart.lfsr (lanes_pos e)
  generalize hq : roundLanes { fmt := laneFmt e, mode := fctlMode s.hart.fctl, ftz := s.ftz } (activeLane (s.hart.getM k)) (f s) (laneOf e.width (s.v d)) (List.range e.lanes) s.hart.lfsr = q at h1 h2 h3
  have T := stands_setHart s hp d e.width q c
  rw [h3] at T
  refine ⟨((s.vecWrite d e.width q).busy c).done 4, (s.hart.raise q.2.1).fflg, ?_, wroteV_of s _ _ d e _ q.1 h1 rfl T, flagsOf_raise s.hart q.2.1 _ _ h2⟩
  unfold vecFp; rw [with_rows s hr]; dsimp only; rw [hq]; rfl

theorem vecFpExact_ok (s : State) (hp : s.Plain) (hr : s.RowsFree) (d : BitVec 5) (e : Et) (k : BitVec 2) (rows : List (BitVec 5)) (f : State → Env → Nat → Nat × FFlags)
    (hu : ∀ (v : Env) u i, f s { v with u := u } i = f s v i) :
    let env : Env := { fmt := laneFmt e, mode := .rne, ftz := s.ftz }
    ∃ t fl, vecFpExact d e k rows f s = .next t ∧
      WroteV d e.width e.lanes (fun i => if (s.hart.getM k).getLsbD i then (f s env i).1 else laneOf e.width (s.v d) i)
        ((s.past 4).setHart { (s.past 4).hart with fflg := fl }) t ∧
      FlagsOf e.lanes (fun i => if (s.hart.getM k).getLsbD i then (f s env i).2 else 0) s.hart.fflg fl := by
  intro env
  obtain ⟨h1, h2, h3⟩ := round_lanes_upTo env (s.hart.getM k) (f s) (laneOf e.width (s.v d)) e.lanes s.hart.lfsr (lanes_pos e)
  simp only [hu] at h1 h2
  generalize hq : roundLanes env (activeLane (s.hart.getM k)) (f s) (laneOf e.width (s.v d)) (List.range e.lanes) s.hart.lfsr = q at h1 h2 h3
  have T := vecWrite_done s hp d e.width q
  rw [h3] at T
  refine ⟨(s.vecWrite d e.width q).done 4, (s.hart.raise q.2.1).fflg, ?_, wroteV_of s _ _ d e _ q.1 h1 rfl T, flagsOf_raise s.hart q.2.1 _ _ h2⟩
  unfold vecFpExact; rw [with_rows s hr]; dsimp only; rw [hq]; rfl

/-- A special function on the active lanes (R140, R155). -/
theorem special_wrote (s : State) (hp : s.Plain) (hr : s.RowsFree) (fn : SpecialFn) (d a : BitVec 5) (e : Et) (k : BitVec 2) (ins : Instr) (hi : exec ins s = special fn d a e k s) :
    let r (i : Nat) : Nat × FFlags := fn.apply { fmt := laneFmt e, mode := .rne, ftz := s.ftz } (fn.reached e (laneOf e.width (s.v a) i)) ((laneFmt e).read s.ftz (laneOf e.width (s.v a) i))
    ∃ t fl, exec ins s = .next t ∧
      WroteV d e.width e.lanes (fun i => if (s.hart.getM k).getLsbD i then (r i).1 else laneOf e.width (s.v d) i) ((s.past 4).setHart { (s.past 4).hart with fflg := fl }) t ∧
      FlagsOf e.lanes (fun i => if (s.hart.getM k).getLsbD i then (r i).2 else 0) s.hart.fflg fl := by
  obtain ⟨t, fl, h, w, f⟩ := vecFpExact_ok s hp hr d e k [d, a] (fun s v i => fn.apply v (fn.reached e (laneOf e.width (s.v a) i)) (s.laneFp e a i)) fun v u i => rfl
  exact ⟨t, fl, hi.trans h, w, f⟩

theorem foldl_max_mem (l : List Nat) (a : Nat) : l.foldl max a = a ∨ l.foldl max a ∈ l := by
  induction l generalizing a with
  | nil => exact .inl rfl
  | cons x l ih =>
    simp only [List.foldl_cons, List.mem_cons]
    rcases ih (max a x) with h | h
    · rw [h, Nat.max_def]; split
      · exact .inr (.inl rfl)
      · exact .inl rfl
    · exact .inr (.inr h)

/-- Where a function is not exact, its result is one of the codes that R140 allows. -/
theorem give_mem (fn : SpecialFn) (v : Env) (p : Bool → Nat → Bool) (neg : Bool) (n : Nat) (x : Int) (h1 : ¬((fn.exact v.fmt neg n x).m = 0 ∧ (fn.exact v.fmt neg n x).sticky = false))
    (h2 : v.fmt.exactly (fn.exact v.fmt neg n x) = false) (h3 : fn.codes v.fmt neg (fn.exact v.fmt neg n x) ≠ []) :
    ∃ c ∈ fn.codes v.fmt neg (fn.exact v.fmt neg n x), fn.give v p neg n x =
      if v.fmt.maxCode < c then (v.fmt.infCode false (fn.exact v.fmt neg n x).neg, flOF ||| flNX)
      else v.fmt.flush v.ftz (v.fmt.signBit (fn.exact v.fmt neg n x).neg + c, (if c < 2 ^ v.fmt.mbits then flUF else 0) ||| flNX) := by
  refine ⟨((fn.codes v.fmt neg (fn.exact v.fmt neg n x)).filter (p (fn.exact v.fmt neg n x).neg)).foldl max ((fn.codes v.fmt neg (fn.exact v.fmt neg n x)).headD (v.fmt.floorCode (fn.exact v.fmt neg n x)).1), ?_, ?_⟩
  · rcases foldl_max_mem ((fn.codes v.fmt neg (fn.exact v.fmt neg n x)).filter (p (fn.exact v.fmt neg n x).neg)) ((fn.codes v.fmt neg (fn.exact v.fmt neg n x)).headD (v.fmt.floorCode (fn.exact v.fmt neg n x)).1) with h | h
    · rw [h]
      generalize fn.codes v.fmt neg (fn.exact v.fmt neg n x) = l at *
      cases l with
      | nil => exact absurd rfl h3
      | cons y l => exact List.mem_cons_self ..
    · exact (List.mem_filter.1 h).1
  · unfold SpecialFn.give
    dsimp only
    rw [if_neg (by simpa using h1), if_neg (by rw [h2]; decide)]

theorem t_moves8 (s : State) (d : BitVec 5) (e : Et) (imm : BitVec 16) (hp : s.Plain) (hr : s.RowsFree) : 
    ∃ t fl, exec (.vmuli d e imm) s = .next t ∧
      (let gen (i : Nat) : Word := if fctlMode s.hart.fctl = .rs then generatorAfter (i + 1) s.hart.lfsr else s.hart.lfsr
       let env (i : Nat) : Env := { fmt := laneFmt e, mode := fctlMode s.hart.fctl, ftz := s.ftz, u := (gen i).toNat % 65536 }
       let r (i : Nat) : Nat × FFlags := fpMul (env i) ((laneFmt e).read s.ftz (laneOf e.width (s.v d) i)) ((laneFmt e).read s.ftz (immLane e imm i))
       WroteV d e.width e.lanes (fun i => (r i).1) ((s.past 4).setHart { (s.past 4).hart with fflg := fl, lfsr := gen (e.lanes - 1) }) t ∧ FlagsOf e.lanes (fun i => (r i).2) s.hart.fflg fl) := by
  dsimp only
  obtain ⟨h1, h2, h3⟩ := round_lanes { fmt := laneFmt e, mode := fctlMode s.hart.fctl, ftz := s.ftz } (fun _ => true) (fun v j => fpMul v (s.laneFp e d j) ((laneFmt e).read s.ftz (immLane e imm j))) (fun _ => 0) e.lanes 0 s.hart.lfsr
  have g : ∀ i, genAt { fmt := laneFmt e, mode := fctlMode s.hart.fctl, ftz := s.ftz } (fun _ => true) 0 s.hart.lfsr i = if fctlMode s.hart.fctl = .rs then generatorAfter i s.hart.lfsr else s.hart.lfsr := by
    intro i; unfold genAt; rw [List.filter_eq_self.mpr (by intro _ _; rfl), List.length_range']
  simp only [g, Nat.sub_zero, if_true] at h1 h2 h3
  rw [← range_range'] at h1 h2 h3
  generalize hq : roundLanes { fmt := laneFmt e, mode := fctlMode s.hart.fctl, ftz := s.ftz } (fun _ => true) (fun v j => fpMul v (s.laneFp e d j) ((laneFmt e).read s.ftz (immLane e imm j))) (fun _ => 0) (List.range e.lanes) s.hart.lfsr = q at h1 h2 h3
  have T := vecWrite_done s hp d e.width q
  rw [h3] at T
  have lp := lanes_pos e
  rw [show e.lanes - 1 + 1 = e.lanes from by omega]
  refine ⟨(s.vecWrite d e.width q).done 4, (s.hart.raise q.2.1).fflg, ?_, wroteV_of s _ _ d e _ q.1 h1 rfl T, flagsOf_raise s.hart q.2.1 _ _ fun j => ?_⟩
  · show execVmuli d e imm s = _
    unfold execVmuli; rw [with_rows s hr]; dsimp only; rw [hq]; rfl
  · have := h2 j
    rw [Bool.eq_iff_iff, this, decide_eq_true_eq]
    constructor
    · rintro ⟨i, _, h, p⟩; exact ⟨i, by omega, p⟩
    · rintro ⟨i, h, p⟩; exact ⟨i, by omega, by omega, p⟩

theorem row_wrote (s : State) (hp : s.Plain) (hr : s.RowsFree) (d : BitVec 5) (e : Et) (rows : List (BitVec 5)) (f g : Nat → Nat)
    (h : ∀ i < e.lanes, f i % 2 ^ e.width = g i % 2 ^ e.width) :
    ∃ t, withRows rows (fun s => finish 4 (s.setV d (rowFrom e f))) s = .next t ∧ WroteV d e.width e.lanes g (s.past 4) t := by
  refine ⟨_, ?_, setV_wrote s hp d (rowFrom e f) e g fun i hi => ?_⟩
  · rw [with_rows s hr]; rfl
  · rw [lane_packRow _ _ _ hi]; exact h i hi

theorem setM_getM (h : Hart) (d i : BitVec 2) (w : Word) : (h.setM d w).getM i = if i = d then w else h.getM i := by
  unfold Hart.setM Hart.getM
  by_cases q : i = d
  · subst q; rw [if_pos rfl]; exact Vector.getElem_set_self ..
  · rw [if_neg q]; exact Vector.getElem_set_ne d.isLt i.isLt (fun x => q (BitVec.eq_of_toNat_eq x).symm)

theorem immLane_eq (e : Et) (imm : BitVec 16) : immLane e imm = laneImmediate e imm := by
  funext j
  unfold immLane laneImmediate
  cases e <;> try rfl

theorem setV_fold_v (s : State) (d : AccT) (rows : Nat → Row) (n : Nat) (hn : n ≤ 16) (r : BitVec 5) :
    ((((List.range n).map fun i => (i, rows i)).foldl (fun (st : State) x => st.setV (tileRow d x.1) x.2) s).v r) =
      match (List.range n).find? (fun i => decide (r = tileRow d i)) with | some i => rows i | none => s.v r := by
  induction n with
  | zero => rfl
  | succ n ih =>
    have ih := ih (by omega)
    rw [List.range_succ, List.map_append, List.foldl_append, List.find?_append]
    simp only [List.map_cons, List.map_nil, List.foldl_cons, List.foldl_nil, v_setV, ih, List.find?_cons, List.find?_nil]
    by_cases q : r = tileRow d n
    · rw [if_pos q]
      have : (List.range n).find? (fun i => decide (r = tileRow d i)) = none := by
        rw [List.find?_eq_none]
        intro i hi
        have hi : i < n := List.mem_range.mp hi
        simp only [decide_eq_true_eq]
        intro h
        rw [q] at h
        have := congrArg BitVec.toNat h
        unfold tileRow at this
        simp only [BitVec.toNat_ofNat] at this
        cases d <;> simp only at this <;> omega
      rw [this]
      simp [q]
    · rw [if_neg q]
      cases (List.range n).find? (fun i => decide (r = tileRow d i)) <;> simp [q]

theorem setV_fold_other (s : State) (d : AccT) (l : List (Nat × Row)) :
    ∃ v, l.foldl (fun (st : State) x => st.setV (tileRow d x.1) x.2) s = s.setHart { s.hart with v := v } := by
  induction l generalizing s with
  | nil => exact ⟨s.hart.v, rfl⟩
  | cons x l ih =>
    obtain ⟨v, h⟩ := ih (s.setV (tileRow d x.1) x.2)
    exact ⟨v, by rw [List.foldl_cons, h]; rfl⟩

theorem tileRow_eq (d : AccT) (i : Nat) (hi : i < 16) : BitVec.ofNat 5 ((if d = .t0 then 0 else 16) + i) = tileRow d i := by
  unfold tileRow; cases d <;> rfl

theorem lanes_bit (l : List Bool) (j : Nat) : (lanesValue 1 (l.map fun b => if b then 1 else 0)).testBit j = (l[j]?).getD false := by
  induction l generalizing j with
  | nil => simp [lanesValue]
  | cons b l ih =>
    simp only [List.map_cons, lanesValue]
    cases j with
    | zero => cases b <;> simp [Nat.testBit_zero] <;> omega
    | succ j =>
      rw [Nat.testBit_succ]
      have : ((if b = true then 1 else 0) % 2 ^ 1 + 2 ^ 1 * lanesValue 1 (l.map fun b => if b then 1 else 0)) / 2 = lanesValue 1 (l.map fun b => if b then 1 else 0) := by
        cases b <;> simp <;> omega
      rw [this, ih]
      simp

theorem mask_bits (n : Nat) (g : Nat → Bool) (j : Nat) (hj : j < 64) :
    (BitVec.ofNat 64 (lanesValue 1 (((List.range n).map g).map fun b => if b then 1 else 0))).getLsbD j = (decide (j < n) && g j) := by
  rw [BitVec.getLsbD_ofNat, lanes_bit]
  by_cases q : j < n
  · simp [hj, q]
  · simp [q]

theorem foldl_or (l : List (Bool × FFlags)) (a : FFlags) (j : Nat) : (l.foldl (fun (f : FFlags) r => f ||| r.2) a).getLsbD j = (a.getLsbD j || decide (∃ r ∈ l, r.2.getLsbD j = true)) := by
  induction l generalizing a with
  | nil => simp
  | cons r l ih => rw [List.foldl_cons, ih, BitVec.getLsbD_or]; cases a.getLsbD j <;> cases h : r.2.getLsbD j <;> simp [h]

theorem vcmp_gen (s : State) (d : BitVec 2) (va vb : BitVec 5) (e : Et) (k : BitVec 2) (u : Bool) (c : VCond) (hp : s.Plain) (hr : s.RowsFree) (hf : (u && e.isFloat) = false) :
    ∃ t fl, exec (.vcmp (d.zeroExtend 5) va vb e k u c) s = .next t ∧
      (∀ j < 64, (t.hart.getM d).getLsbD j = (decide (j < e.lanes) && (s.hart.getM k).getLsbD j && (s.vcmpLane va vb e u c j).1)) ∧ (∀ i, i ≠ d → t.hart.getM i = s.hart.getM i) ∧
      t = (s.past 4).setHart { (s.past 4).hart with m := t.hart.m, fflg := fl } ∧ FlagsOf e.lanes (fun j => if (s.hart.getM k).getLsbD j then (s.vcmpLane va vb e u c j).2 else 0) s.hart.fflg fl := by
  let L := (List.range e.lanes).map fun i => if activeLane (s.hart.getM k) i then s.vcmpLane va vb e u c i else (false, 0)
  let W : Word := BitVec.ofNat 64 (lanesValue 1 (L.map fun r => if r.1 then 1 else 0))
  let F : FFlags := L.foldl (fun (f : FFlags) r => f ||| r.2) 0
  have X : exec (.vcmp (d.zeroExtend 5) va vb e k u c) s = .next (((s.setM d W).raiseFlags F).done 4) := by
    show execVcmp _ va vb e k u c s = _
    unfold execVcmp; rw [hf, if_neg (by simp; omega), with_rows s hr]
    have : BitVec.ofNat 2 (d.zeroExtend 5).toNat = d := by
      apply BitVec.eq_of_toNat_eq; simp
      omega
    rw [this]; rfl
  have B : ∀ j < 64, W.getLsbD j = (decide (j < e.lanes) && (s.hart.getM k).getLsbD j && (s.vcmpLane va vb e u c j).1) := by
    intro j hj
    have := mask_bits e.lanes (fun i => (s.hart.getM k).getLsbD i && (s.vcmpLane va vb e u c i).1) j hj
    rw [Bool.and_assoc, ← this]
    dsimp only [W, L]
    congr 3
    rw [List.map_map, List.map_map]
    refine List.map_congr_left fun i _ => ?_
    show _ = if (activeLane (s.hart.getM k) i && (s.vcmpLane va vb e u c i).1) = true then 1 else 0
    simp only [Function.comp]
    by_cases q : activeLane (s.hart.getM k) i = true
    · simp [q]
    · simp [q]
  have P : ((s.setM d W).raiseFlags F).done 4 = (s.past 4).setHart { (s.past 4).hart with m := (s.hart.setM d W).m, fflg := (s.hart.raise F).fflg } := by
    unfold State.done State.raiseFlags State.setM State.setHart; dsimp only
    rw [advance_plain _ _ (by exact hp)]
    rfl
  rw [P] at X
  refine ⟨_, _, X, fun j hj => ?_, fun i hi => ?_, rfl, flagsOf_raise s.hart F _ _ fun j => ?_⟩
  · rw [← B j hj]; congr 1
    exact (setM_getM s.hart d d W).trans (if_pos rfl)
  · exact (setM_getM s.hart d i W).trans (if_neg hi)
  · dsimp only [F, L]
    rw [foldl_or, show BitVec.getLsbD (0 : FFlags) j = false by simp, Bool.false_or, decide_eq_decide]
    constructor
    · rintro ⟨r, h, p⟩
      rw [List.mem_map] at h
      obtain ⟨i, hi, rfl⟩ := h
      refine ⟨i, List.mem_range.mp hi, ?_⟩
      show BitVec.getLsbD (if activeLane (s.hart.getM k) i then (s.vcmpLane va vb e u c i).2 else 0) j = true
      by_cases q : activeLane (s.hart.getM k) i = true
      · rw [if_pos q] at p ⊢; exact p
      · rw [if_neg q] at p; simp at p
    · rintro ⟨i, hi, p⟩
      refine ⟨_, List.mem_map.mpr ⟨i, List.mem_range.mpr hi, rfl⟩, ?_⟩
      change BitVec.getLsbD (if activeLane (s.hart.getM k) i then (s.vcmpLane va vb e u c i).2 else 0) j = true at p
      by_cases q : activeLane (s.hart.getM k) i = true
      · rw [if_pos q] at p ⊢; exact p
      · rw [if_neg q] at p; simp at p

end Sys2Proof.Machine
end

