-- ==== Sys2Proof/Laws/Messages.lean ====
section
/-!
SUPPORT. Messages on their way, taken and arrived.
-/
namespace Sys2Proof.Machine

open Sys2Proof

theorem agenda_mem (t : Nat) (i : Event) (l : List (Nat × Event)) : (t, i) ∈ agendaPut t i l := by
  induction l with
  | nil => simp [agendaPut]
  | cons a l ih => obtain ⟨u, j⟩ := a; simp only [agendaPut]; split <;> simp [ih]

theorem agenda_keeps (t : Nat) (i : Event) (l : List (Nat × Event)) (e : Nat × Event) (h : e ∈ l) : e ∈ agendaPut t i l := by
  induction l with
  | nil => cases h
  | cons a l ih => obtain ⟨u, j⟩ := a; simp only [agendaPut]; split <;> grind

theorem dest_of (target ty : Nat) (h : ty = 0 ∧ target < 2 ^ 32 ∨ ty = 1 ∧ target < 40960) : Dest.of (BitVec.ofNat 64 (target * 2 ^ 32 + ty)) = some ⟨ty, 0, target⟩ := by
  unfold Dest.of
  have e1 : wordBits 1 0 (BitVec.ofNat 64 (target * 2 ^ 32 + ty)) = ty := by simp only [wordBits, BitVec.toNat_ofNat]; omega
  have e2 : wordBits 15 8 (BitVec.ofNat 64 (target * 2 ^ 32 + ty)) = 0 := by simp only [wordBits, BitVec.toNat_ofNat]; omega
  have e3 : wordBits 63 32 (BitVec.ofNat 64 (target * 2 ^ 32 + ty)) = target := by simp only [wordBits, BitVec.toNat_ofNat]; omega
  have e4 : wordBits 7 2 (BitVec.ofNat 64 (target * 2 ^ 32 + ty)) = 0 := by simp only [wordBits, BitVec.toNat_ofNat]; omega
  have e5 : wordBits 31 16 (BitVec.ofNat 64 (target * 2 ^ 32 + ty)) = 0 := by simp only [wordBits, BitVec.toNat_ofNat]; omega
  rw [e1, e2, e3, e4, e5]
  dsimp only
  rw [if_neg (by omega), if_neg (by omega), if_neg (by omega)]

theorem find_cons {α : Type} {key : α → Nat} {k : Nat} {l : List α} (h : findBy key k l = none) : ∀ a ∈ l, key a ≠ k := by
  induction l with
  | nil => simp
  | cons b l ih => simp only [findBy] at h; split at h; · cases h
                   · rename_i q; intro a ha; simp only [List.mem_cons] at ha; rcases ha with rfl | ha; exact q; exact ih h a ha

theorem task_put (s : State) (t : Task) (h : t.state ≠ .exited) : (s.putTask t).taskAt? t.tid = some t := by
  unfold State.putTask
  split
  · simp [State.taskAt?, h]
  · rename_i e; simp only [State.taskAt?, if_neg h, if_neg e, findBy_putBy]; exact if_pos rfl

theorem task_tid {s : State} {tid : Tid} {r : Task} (h : s.taskAt? tid = some r) : r.tid = tid := by
  unfold State.taskAt? at h
  split at h
  · rename_i e; split at h
    · cases h
    · cases h; exact e
  · have := findBy_key h; exact BitVec.eq_of_toNat_eq this

theorem task_mod {s : State} {tid : Tid} {r : Task} (f : Task → Task) (h : s.taskAt? tid = some r) (h1 : (f r).tid = r.tid) (h2 : (f r).state ≠ .exited) :
    (s.modTask tid f).taskAt? tid = some (f r) := by
  unfold State.modTask; rw [h]; dsimp only
  have := task_put s (f r) h2
  rw [h1, task_tid h] at this; exact this

theorem putTask_only (s : State) (r : Task) : ∃ t ts, s.putTask r = { s with task := t, tasks := ts } := by
  unfold State.putTask
  split
  · exact ⟨_, s.tasks, rfl⟩
  · split
    · exact ⟨s.task, _, rfl⟩
    · exact ⟨s.task, _, rfl⟩

theorem modTask_only (s : State) (tid : Tid) (f : Task → Task) : ∃ t ts, s.modTask tid f = { s with task := t, tasks := ts } := by
  unfold State.modTask; split
  · exact putTask_only ..
  · exact ⟨s.task, s.tasks, rfl⟩

theorem clearWritten_only (s : State) (r : Nat) : ∃ q, s.clearWritten r = { s with quire := q } := modRec_only ..

theorem pair_eq (s : State) (b : BitVec 5) (img : Nat) : ({ cap := some img, p0 := (s.pair b).1, p1 := (s.pair b).2, sender := s.task.tid, asid := s.task.asid } : Msg) = s.message img b := by
  unfold State.pair State.message; split <;> rfl

theorem send_local (policy : Nat) (s : State) (d : BitVec 5) (a : BitVec 4) (b : BitVec 5) (c : CapRec) (dest : Dest) (r : Route) (hc : s.checkHandle a needXFER = .ok c)
    (hd : Dest.of (s.x d) = some dest) (h0 : dest.dev = 0) (h2 : dest.type ≠ 2) (hp : policy ≠ 3) (ha : s.admits c (.send policy) = .ok) (hr : s.releaseWait = none)
    (ho : s.route dest = r) (hw : ∀ w, r ≠ .wait w) : csend policy d a b s = finish 4 (s.sendLocal c policy a (s.pair b).1 (s.pair b).2 r 0) := by
  unfold csend
  rw [hc]; dsimp only; rw [hd]; dsimp only
  have e : s.isThisDevice dest.dev = true := by rw [h0]; rfl
  have e2 : (dest.type == 2) = false := by simpa using h2
  rw [e, e2]
  simp only [Bool.not_true, Bool.false_and, Bool.false_eq_true, if_false, Bool.not_false, Bool.true_and, hp, false_and]
  rw [ha]; dsimp only; rw [hr]; dsimp only; rw [ho]
  cases r with
  | wait w => exact absurd rfl (hw w)
  | _ => rfl

theorem x_setX (s : State) (d r : BitVec 5) (w : Word) : (s.setX d w).x r = if r = 0 then 0 else if r = d then w else s.x r := getX_setX s.hart d r w

theorem x_zero (s : State) : s.x 0 = 0 := rfl

theorem writePair_x (s : State) (p r : BitVec 5) (a b : Word) : (s.writePair p a b).x r = if r = 0 then 0 else if p ≠ 0 ∧ r = p + 1 then b else if p ≠ 0 ∧ r = p then a else s.x r := by
  unfold State.writePair
  by_cases h : p = 0
  · simp only [h, ne_eq, not_true, false_and, if_false, if_true]; have := x_zero s; grind
  · simp only [h, if_false, ne_eq, not_false_iff, true_and, x_setX]
    grind

theorem writePair_only (s : State) (p : BitVec 5) (a b : Word) : s.writePair p a b = { s with hart := { s.hart with x := (s.writePair p a b).hart.x } } := by
  unfold State.writePair
  split
  · rfl
  · unfold State.setX State.setHart; dsimp only; rw [setX_only (s.hart.setX p a), setX_only s.hart]

theorem setX_st (s : State) (d : BitVec 5) (w : Word) : s.setX d w = { s with hart := { s.hart with x := (s.setX d w).hart.x } } := by
  unfold State.setX State.setHart; dsimp only; rw [setX_only]

theorem done_x (s : State) (n : Nat) (r : BitVec 5) : (s.done n).x r = s.x r := by
  unfold State.done State.setHart State.x Hart.getX Hart.advance; dsimp only; split
  · rfl
  · split
    · split <;> rfl
    · rfl

theorem receive_ok (s : State) (d : BitVec 4) (p x : BitVec 5) (m : Msg) (u : State) (hp : s.Plain) (hd : s.handle d = 0) (hh : u.hart = s.hart) (ht : u.task.h = s.task.h) (hq : u.quire = s.quire) (hm : u.mem = s.mem) (hi : u.task.tid = s.task.tid) :
    Received d p x m s ((u.receive d p x m).done 4) ∧ ((u.receive d p x m).done 4).task = { u.task with h := ((u.receive d p x m).done 4).task.h, targets := [] } ∧ ((u.receive d p x m).done 4).agenda = u.agenda ∧ ((u.receive d p x m).done 4).tile = u.tile := by
  let u1 : State := match m.cap with
    | none => u
    | some i =>
      match u.rec? i with
      | none => u
      | some c => (u.putRec { c with owner := u.task.tid }).setHandle d (BitVec.ofNat 64 c.image)
  have hu1 : u1.hart = s.hart ∧ u1.mem = s.mem ∧ u1.agenda = u.agenda ∧ u1.tile = u.tile ∧ u1.task = { u.task with h := u1.task.h } ∧
      (∀ e, u1.handle e = if e = d then (match m.cap.bind s.rec? with | some c => BitVec.ofNat 64 c.image | none => 0) else s.handle e) ∧
      (∀ c, m.cap.bind s.rec? = some c → u1.rec? c.img = some { c with owner := s.task.tid }) := by
    have hr : ∀ i, u.rec? i = s.rec? i := fun i => by unfold State.rec?; rw [hq]
    have hg : ∀ e, u.handle e = s.handle e := fun e => by unfold State.handle Task.getH; simp only [ht]
    have e0 : ∀ e, s.handle e = if e = d then 0 else s.handle e := by intro e; grind
    simp only [u1]
    cases hc : m.cap with
    | none => exact ⟨hh, hm, rfl, rfl, rfl, fun e => (hg e).trans (e0 e), by simp⟩
    | some i =>
      dsimp only
      cases hri : s.rec? i with
      | none => rw [hr, hri]; exact ⟨hh, hm, rfl, rfl, rfl, fun e => (hg e).trans (by rw [Option.bind_some, hri]; exact e0 e), by simp [hri]⟩
      | some c =>
        rw [hr, hri, Option.bind_some, hri]
        refine ⟨hh, hm, rfl, rfl, rfl, fun e => (handle_setHandle _ _ _ _).trans ?_, ?_⟩
        · rw [show (u.putRec { c with owner := u.task.tid }).handle e = _ from hg e]
        · intro c' h; cases h; rw [← hi]; exact (rec_put u _ c.img).trans (if_pos rfl)
  have hR : u.receive d p x m = ((u1.writePair p m.p0 m.p1).setX x m.status).setTask { u1.task with targets := [] } := rfl
  have hW : (u1.writePair p m.p0 m.p1).setX x m.status = { u1 with hart := { u1.hart with x := ((u1.writePair p m.p0 m.p1).setX x m.status).hart.x } } := by
    rw [setX_st, writePair_only]
  have hX := fun r => (x_setX (u1.writePair p m.p0 m.p1) x r m.status).trans (by rw [writePair_x])
  obtain ⟨a1, a2, a3, a4, a5, a6, a7⟩ := hu1
  have hx1 : ∀ r, u1.x r = s.x r := fun r => by unfold State.x; rw [a1]
  have hH : ((u.receive d p x m).done 4).hart = { (s.past 4).hart with x := ((u.receive d p x m).done 4).hart.x } := by
    rw [hR, hW]; unfold State.setTask State.done State.setHart; dsimp only
    rw [advance_plain _ _ (by show u1.hart.inRep = false; rw [a1]; exact hp), a1]; rfl
  have hT : ((u.receive d p x m).done 4).task = { u1.task with targets := [] } := by rw [hR, hW]; rfl
  refine ⟨⟨fun e => ?_, fun c hc => ?_, fun r => ?_, hH, ?_⟩, ?_, ?_, ?_⟩
  · refine Eq.trans ?_ (a6 e); unfold State.handle Task.getH; rw [hT]
  · refine Eq.trans ?_ (a7 c hc); rw [hR, hW]; rfl
  · rw [done_x, hR]
    refine (hX r).trans ?_
    rw [hx1]
    unfold Msg.status
    grind
  · rw [hR, hW]; exact a2
  · rw [hT]; rw [a5]
  · rw [hR, hW]; exact a3
  · rw [hR, hW]; exact a4

theorem takeFirst_append {α : Type} (f : α → Bool) (l : List α) (m : α) (rest : List α) (h1 : ∀ k ∈ l, f k = false) (h2 : f m = true) : takeFirst f (l ++ m :: rest) = some (m, l ++ rest) := by
  induction l with
  | nil => simp [takeFirst, h2]
  | cons a l ih => simp only [List.cons_append, takeFirst]; rw [if_neg (by rw [h1 a (by simp)]; decide), ih (fun k hk => h1 k (by simp [hk]))]; rfl

theorem deliver_task (s : State) (x : Transit) (m : Msg) (r : Task) (h1 : x.toTile = none) (h2 : s.taskAt? x.toTid = some r) (h3 : r.state ≠ .exited) :
    ∃ t ts, s.deliverTransit x m = { s with transits := s.transits.filter (fun y => y.id != x.id), task := t, tasks := ts } ∧
      (s.deliverTransit x m).taskAt? x.toTid = some { r with inbox := r.inbox ++ [m], ev2 := r.ev2 || r.inbox.isEmpty } := by
  have e : s.deliverTransit x m = (s.dropTransit x.id).enterInbox x.toTid m := by
    unfold State.deliverTransit; rw [h1]; dsimp only
    have : (s.dropTransit x.id).taskAt? x.toTid = some r := h2
    rw [this]; rfl
  rw [e]
  unfold State.enterInbox
  obtain ⟨t, ts, k⟩ := modTask_only (s.dropTransit x.id) x.toTid fun t => { t with inbox := t.inbox ++ [m], ev2 := t.ev2 || t.inbox.isEmpty }
  refine ⟨t, ts, k, ?_⟩
  exact task_mod (s := s.dropTransit x.id) (fun t => { t with inbox := t.inbox ++ [m], ev2 := t.ev2 || t.inbox.isEmpty }) h2 rfl h3

theorem foldl_log_task (l : List Nat) (s : State) (g : State → Nat → State) (h : ∀ s u, (g s u).task = s.task ∧ (g s u).tasks = s.tasks ∧ (g s u).quire = s.quire ∧ (g s u).transits = s.transits) :
    (l.foldl g s).task = s.task ∧ (l.foldl g s).tasks = s.tasks ∧ (l.foldl g s).quire = s.quire ∧ (l.foldl g s).transits = s.transits := by
  induction l generalizing s with
  | nil => exact ⟨rfl, rfl, rfl, rfl⟩
  | cons a l ih => obtain ⟨a1, a2, a3, a4⟩ := ih (g s a); obtain ⟨b1, b2, b3, b4⟩ := h s a; exact ⟨a1.trans b1, a2.trans b2, a3.trans b3, a4.trans b4⟩

def SameTables (s t : State) : Prop := t.task = s.task ∧ t.tasks = s.tasks ∧ t.quire = s.quire ∧ t.transits = s.transits

theorem correct_keep (s : State) (a n : Nat) : SameTables s (s.correct a n) := by
  unfold State.correct
  exact foldl_log_task _ _ _ (fun s u => ⟨rfl, rfl, rfl, rfl⟩)

theorem correctBuf_keep (s : State) (c : CapRec) (o n : Nat) : SameTables s (s.correctBuf c o n) := by
  unfold State.correctBuf
  split
  · exact ⟨rfl, rfl, rfl, rfl⟩
  · refine foldl_log_task _ _ _ (fun s u => ?_)
    split
    · exact correct_keep ..
    · exact ⟨rfl, rfl, rfl, rfl⟩

theorem tile_put (s : State) (t : Tile) : (s.putTile t).tileAt t.idx = t := by
  unfold State.putTile
  split
  · simp [State.tileAt]
  · rename_i e; simp only [State.tileAt, findBy_putBy, if_neg e]; rfl

theorem tile_idx (s : State) (i : Nat) : (s.tileAt i).idx = i := by
  unfold State.tileAt
  split
  · assumption
  · cases h : findBy Tile.idx i s.tiles with
    | none => rfl
    | some t => exact findBy_key h

theorem tile_mod (s : State) (i : Nat) (f : Tile → Tile) (h : ∀ t, (f t).idx = t.idx) : (s.modTile i f).tileAt i = f (s.tileAt i) := by
  have := tile_put s (f (s.tileAt i))
  rw [h, tile_idx] at this; exact this

theorem putTile_only (s : State) (r : Tile) : ∃ t ts, s.putTile r = { s with tile := t, tiles := ts } := by
  unfold State.putTile
  split
  · exact ⟨_, s.tiles, rfl⟩
  · exact ⟨s.tile, _, rfl⟩

end Sys2Proof.Machine
end

