-- ==== Sys2Proof/Laws/PerInstr.lean ====
section
/-!
SUPPORT. The per-instruction family EncodeDecode: the word that encodeWord gives a well-formed instruction is read back by the decoder of its width as that instruction (R54 to R58).
-/
namespace Sys2Proof.Laws

set_option Elab.async false

/-- An operand is the bits of the word at its place. -/
theorem bits_of {n lo w : Nat} {b : BitVec n} (h : w / 2 ^ lo % 2 ^ n = b.toNat) : bits n lo w = b := by
  apply BitVec.eq_of_toNat_eq; simp [bits, h]

/-- A one-bit operand is the bit of the word at its place. -/
theorem flag_of {lo w : Nat} {b : Bool} (h : w / 2 ^ lo % 2 ^ 1 = boolNat b) : flag lo w = b := by
  cases b <;> simp_all [flag, field, boolNat]

/-- The lowest field of a number and what stands above it. -/
theorem peel {w lo n v r : Nat} (h : w / 2 ^ lo = v + 2 ^ n * r) (hv : v < 2 ^ n) : w / 2 ^ lo % 2 ^ n = v ∧ w / 2 ^ (lo + n) = r := by
  rw [Nat.pow_add, ← Nat.div_div_eq_div_mul, h, Nat.add_mul_mod_self_left, Nat.mod_eq_of_lt hv, Nat.add_mul_div_left _ _ (Nat.two_pow_pos n), Nat.div_eq_of_lt hv]
  exact ⟨rfl, Nat.zero_add r⟩

/-- Nothing stands above the last field. -/
theorem lt_of {w m : Nat} (h : w / 2 ^ m = 0) : w < 2 ^ m := by
  rcases Nat.div_eq_zero_iff.mp h with h | h
  · exact absurd h (by have := Nat.two_pow_pos m; omega)
  · exact h

/-- Bit 0 of the lowest field is bit 0 of the number. -/
theorem par_of {w n v b : Nat} (h : w / 2 ^ 0 % 2 ^ (n + 1) = v) (hb : v % 2 = b := by decide) : w % 2 = b := by
  subst hb h; rw [Nat.pow_zero, Nat.div_one, Nat.pow_succ', Nat.mod_mul_right_mod]

theorem boolNat_lt (b : Bool) : boolNat b < 2 := by cases b <;> decide

/-- The word and the width of an encoding. -/
theorem word_eq {n m w v : Nat} (h : some (n, w) = some (m, v)) : m = n ∧ v = w := by
  simp only [Option.some.injEq, Prod.mk.injEq] at h; exact ⟨h.1.symm, h.2.symm⟩

theorem Prec.code_lt (x : Prec) : x.code < 2 := by cases x <;> decide
theorem Prec.ofCode_code (x : Prec) : Prec.ofCode x.code = x := by cases x <;> rfl
theorem Rnd.code_lt (x : Rnd) : x.code < 8 := by cases x <;> decide
theorem Rnd.ofCode_code (x : Rnd) : Rnd.ofCode x.code = some x := by cases x <;> rfl
theorem FCond.code_lt (x : FCond) : x.code < 8 := by cases x <;> decide
theorem FCond.ofCode_code (x : FCond) : FCond.ofCode x.code = some x := by cases x <;> rfl
theorem Conv.code_lt (x : Conv) : x.code < 32 := by cases x <;> decide
theorem Conv.ofCode_code (x : Conv) : Conv.ofCode x.code = some x := by cases x <;> rfl
theorem Et.code_lt (x : Et) : x.code < 8 := by cases x <;> decide
theorem Et.ofCode_code (x : Et) : Et.ofCode x.code = x := by cases x <;> rfl
theorem Order.code_lt (x : Order) : x.code < 4 := by cases x <;> decide
theorem Order.ofCode_code (x : Order) : Order.ofCode x.code = x := by cases x <;> rfl
theorem Sz.code_lt (x : Sz) : x.code < 2 := by cases x <;> decide
theorem Sz.ofCode_code (x : Sz) : Sz.ofCode x.code = x := by cases x <;> rfl
theorem ALevel.code_lt (x : ALevel) : x.code < 4 := by cases x <;> decide
theorem ALevel.ofCode_code (x : ALevel) : ALevel.ofCode x.code = some x := by cases x <;> rfl
theorem RecvOpt.code_lt (x : RecvOpt) : x.code < 4 := by cases x <;> decide
theorem RecvOpt.ofCode_code (x : RecvOpt) : RecvOpt.ofCode x.code = x := by cases x <;> rfl
theorem WaitCond.code_lt (x : WaitCond) : x.code < 4 := by cases x <;> decide
theorem WaitCond.ofCode_code (x : WaitCond) : WaitCond.ofCode x.code = some x := by cases x <;> rfl
theorem RevMode.code_lt (x : RevMode) : x.code < 2 := by cases x <;> decide
theorem RevMode.ofCode_code (x : RevMode) : RevMode.ofCode x.code = x := by cases x <;> rfl
theorem Dir.code_lt (x : Dir) : x.code < 4 := by cases x <;> decide
theorem Dir.ofCode_code (x : Dir) : Dir.ofCode x.code = x := by cases x <;> rfl
theorem GDir.code_lt (x : GDir) : x.code < 4 := by cases x <;> decide
theorem GDir.ofCode_code (x : GDir) : GDir.ofCode x.code = some x := by cases x <;> rfl
theorem VCond.code_lt (x : VCond) : x.code < 8 := by cases x <;> decide
theorem VCond.ofCode_code (x : VCond) : VCond.ofCode x.code = some x := by cases x <;> rfl
theorem AccT.code_lt (x : AccT) : x.code < 2 := by cases x <;> decide
theorem AccT.ofCode_code (x : AccT) : AccT.ofCode x.code = x := by cases x <;> rfl
theorem Side.code_lt (x : Side) : x.code < 2 := by cases x <;> decide
theorem Side.ofCode_code (x : Side) : Side.ofCode x.code = x := by cases x <;> rfl

/-- The word of a well-formed instruction is a halfword with bit 0 clear or a word with bit 0 set (R54), and the decoder of that width reads the instruction from it, every operand as it stood. -/
def EncodeDecode.Statement (i : Instr) : Prop :=
  i.wf = true → ∀ n w, encodeWord i = some (n, w) →
    (n = 16 ∧ w < 2 ^ 16 ∧ w % 2 = 0 ∧ decodeCompact w = some i) ∨ (n = 32 ∧ w < 2 ^ 32 ∧ w % 2 = 1 ∧ decodeWord w = some i)

theorem EncodeDecode.cAddi (d : BitVec 5) (i : BitVec 6) : EncodeDecode.Statement (.cAddi d i) := by
  intro hw nb wd hq
  have hv : ((d != 0 : Bool)) = true := hw
  simp at hv
  obtain ⟨rfl, he⟩ := word_eq (show some (16, Sys2Proof.fill 0x2 [(5, d.toNat), (10, i.toNat)]) = some (nb, wd) from hq)
  simp only [Sys2Proof.fill] at he
  have p0 : wd / 2 ^ 0 = 0 + 2 ^ 1 * (1 + 2 ^ 4 * (d.toNat + 2 ^ 5 * (i.toNat + 2 ^ 6 * 0))) := by omega
  have ⟨m0, p1⟩ := peel p0 (by decide)
  have ⟨m1, p2⟩ := peel p1 (by decide)
  have ⟨m2, p3⟩ := peel p2 (d.isLt)
  have ⟨m3, p4⟩ := peel p3 (i.isLt)
  have q0 : field 4 1 wd = 1 := m1
  have q1 : bits 5 5 wd = d := bits_of m2
  have q2 : bits 6 10 wd = i := bits_of m3
  exact .inl ⟨rfl, lt_of p4, par_of m0, by simp [decodeCompact, q0, q1, q2, hv]⟩
theorem EncodeDecode.cMov (d : BitVec 5) (s : BitVec 5) : EncodeDecode.Statement (.cMov d s) := by
  intro hw nb wd hq
  have hv : ((d != 0 : Bool)) = true := hw
  simp at hv
  obtain ⟨rfl, he⟩ := word_eq (show some (16, Sys2Proof.fill 0x4 [(5, d.toNat), (10, s.toNat)]) = some (nb, wd) from hq)
  simp only [Sys2Proof.fill] at he
  have p0 : wd / 2 ^ 0 = 0 + 2 ^ 1 * (2 + 2 ^ 4 * (d.toNat + 2 ^ 5 * (s.toNat + 2 ^ 5 * (0 + 2 ^ 1 * 0)))) := by omega
  have ⟨m0, p1⟩ := peel p0 (by decide)
  have ⟨m1, p2⟩ := peel p1 (by decide)
  have ⟨m2, p3⟩ := peel p2 (d.isLt)
  have ⟨m3, p4⟩ := peel p3 (s.isLt)
  have ⟨m4, p5⟩ := peel p4 (by decide)
  have q0 : field 4 1 wd = 2 := m1
  have q1 : bits 5 5 wd = d := bits_of m2
  have q2 : bits 5 10 wd = s := bits_of m3
  have q3 : field 1 15 wd = 0 := m4
  exact .inl ⟨rfl, lt_of p5, par_of m0, by simp [decodeCompact, q0, q1, q2, q3, hv]⟩
theorem EncodeDecode.cAdd (d : BitVec 5) (s : BitVec 5) : EncodeDecode.Statement (.cAdd d s) := by
  intro hw nb wd hq
  have hv : ((d != 0 : Bool)) = true := hw
  simp at hv
  obtain ⟨rfl, he⟩ := word_eq (show some (16, Sys2Proof.fill 0x6 [(5, d.toNat), (10, s.toNat)]) = some (nb, wd) from hq)
  simp only [Sys2Proof.fill] at he
  have p0 : wd / 2 ^ 0 = 0 + 2 ^ 1 * (3 + 2 ^ 4 * (d.toNat + 2 ^ 5 * (s.toNat + 2 ^ 5 * (0 + 2 ^ 1 * 0)))) := by omega
  have ⟨m0, p1⟩ := peel p0 (by decide)
  have ⟨m1, p2⟩ := peel p1 (by decide)
  have ⟨m2, p3⟩ := peel p2 (d.isLt)
  have ⟨m3, p4⟩ := peel p3 (s.isLt)
  have ⟨m4, p5⟩ := peel p4 (by decide)
  have q0 : field 4 1 wd = 3 := m1
  have q1 : bits 5 5 wd = d := bits_of m2
  have q2 : bits 5 10 wd = s := bits_of m3
  have q3 : field 1 15 wd = 0 := m4
  exact .inl ⟨rfl, lt_of p5, par_of m0, by simp [decodeCompact, q0, q1, q2, q3, hv]⟩
theorem EncodeDecode.cLd (d : BitVec 5) (n : BitVec 2) (o : BitVec 4) : EncodeDecode.Statement (.cLd d n o) := by
  intro hw nb wd hq
  obtain ⟨rfl, he⟩ := word_eq (show some (16, Sys2Proof.fill 0x8 [(5, d.toNat), (10, n.toNat), (12, o.toNat)]) = some (nb, wd) from hq)
  simp only [Sys2Proof.fill] at he
  have p0 : wd / 2 ^ 0 = 0 + 2 ^ 1 * (4 + 2 ^ 4 * (d.toNat + 2 ^ 5 * (n.toNat + 2 ^ 2 * (o.toNat + 2 ^ 4 * 0)))) := by omega
  have ⟨m0, p1⟩ := peel p0 (by decide)
  have ⟨m1, p2⟩ := peel p1 (by decide)
  have ⟨m2, p3⟩ := peel p2 (d.isLt)
  have ⟨m3, p4⟩ := peel p3 (n.isLt)
  have ⟨m4, p5⟩ := peel p4 (o.isLt)
  have q0 : field 4 1 wd = 4 := m1
  have q1 : bits 5 5 wd = d := bits_of m2
  have q2 : bits 2 10 wd = n := bits_of m3
  have q3 : bits 4 12 wd = o := bits_of m4
  exact .inl ⟨rfl, lt_of p5, par_of m0, by simp [decodeCompact, q0, q1, q2, q3]⟩
theorem EncodeDecode.cSt (s : BitVec 5) (n : BitVec 2) (o : BitVec 4) : EncodeDecode.Statement (.cSt s n o) := by
  intro hw nb wd hq
  obtain ⟨rfl, he⟩ := word_eq (show some (16, Sys2Proof.fill 0xa [(5, s.toNat), (10, n.toNat), (12, o.toNat)]) = some (nb, wd) from hq)
  simp only [Sys2Proof.fill] at he
  have p0 : wd / 2 ^ 0 = 0 + 2 ^ 1 * (5 + 2 ^ 4 * (s.toNat + 2 ^ 5 * (n.toNat + 2 ^ 2 * (o.toNat + 2 ^ 4 * 0)))) := by omega
  have ⟨m0, p1⟩ := peel p0 (by decide)
  have ⟨m1, p2⟩ := peel p1 (by decide)
  have ⟨m2, p3⟩ := peel p2 (s.isLt)
  have ⟨m3, p4⟩ := peel p3 (n.isLt)
  have ⟨m4, p5⟩ := peel p4 (o.isLt)
  have q0 : field 4 1 wd = 5 := m1
  have q1 : bits 5 5 wd = s := bits_of m2
  have q2 : bits 2 10 wd = n := bits_of m3
  have q3 : bits 4 12 wd = o := bits_of m4
  exact .inl ⟨rfl, lt_of p5, par_of m0, by simp [decodeCompact, q0, q1, q2, q3]⟩
theorem EncodeDecode.cBeqz (s : BitVec 5) (i : BitVec 6) : EncodeDecode.Statement (.cBeqz s i) := by
  intro hw nb wd hq
  obtain ⟨rfl, he⟩ := word_eq (show some (16, Sys2Proof.fill 0xc [(5, s.toNat), (10, i.toNat)]) = some (nb, wd) from hq)
  simp only [Sys2Proof.fill] at he
  have p0 : wd / 2 ^ 0 = 0 + 2 ^ 1 * (6 + 2 ^ 4 * (s.toNat + 2 ^ 5 * (i.toNat + 2 ^ 6 * 0))) := by omega
  have ⟨m0, p1⟩ := peel p0 (by decide)
  have ⟨m1, p2⟩ := peel p1 (by decide)
  have ⟨m2, p3⟩ := peel p2 (s.isLt)
  have ⟨m3, p4⟩ := peel p3 (i.isLt)
  have q0 : field 4 1 wd = 6 := m1
  have q1 : bits 5 5 wd = s := bits_of m2
  have q2 : bits 6 10 wd = i := bits_of m3
  exact .inl ⟨rfl, lt_of p4, par_of m0, by simp [decodeCompact, q0, q1, q2]⟩
theorem EncodeDecode.cBnez (s : BitVec 5) (i : BitVec 6) : EncodeDecode.Statement (.cBnez s i) := by
  intro hw nb wd hq
  obtain ⟨rfl, he⟩ := word_eq (show some (16, Sys2Proof.fill 0xe [(5, s.toNat), (10, i.toNat)]) = some (nb, wd) from hq)
  simp only [Sys2Proof.fill] at he
  have p0 : wd / 2 ^ 0 = 0 + 2 ^ 1 * (7 + 2 ^ 4 * (s.toNat + 2 ^ 5 * (i.toNat + 2 ^ 6 * 0))) := by omega
  have ⟨m0, p1⟩ := peel p0 (by decide)
  have ⟨m1, p2⟩ := peel p1 (by decide)
  have ⟨m2, p3⟩ := peel p2 (s.isLt)
  have ⟨m3, p4⟩ := peel p3 (i.isLt)
  have q0 : field 4 1 wd = 7 := m1
  have q1 : bits 5 5 wd = s := bits_of m2
  have q2 : bits 6 10 wd = i := bits_of m3
  exact .inl ⟨rfl, lt_of p4, par_of m0, by simp [decodeCompact, q0, q1, q2]⟩
theorem EncodeDecode.cJ (i : BitVec 11) : EncodeDecode.Statement (.cJ i) := by
  intro hw nb wd hq
  obtain ⟨rfl, he⟩ := word_eq (show some (16, Sys2Proof.fill 0x10 [(5, i.toNat)]) = some (nb, wd) from hq)
  simp only [Sys2Proof.fill] at he
  have p0 : wd / 2 ^ 0 = 0 + 2 ^ 1 * (8 + 2 ^ 4 * (i.toNat + 2 ^ 11 * 0)) := by omega
  have ⟨m0, p1⟩ := peel p0 (by decide)
  have ⟨m1, p2⟩ := peel p1 (by decide)
  have ⟨m2, p3⟩ := peel p2 (i.isLt)
  have q0 : field 4 1 wd = 8 := m1
  have q1 : bits 11 5 wd = i := bits_of m2
  exact .inl ⟨rfl, lt_of p3, par_of m0, by simp [decodeCompact, q0, q1]⟩
theorem EncodeDecode.cYield : EncodeDecode.Statement .cYield := by
  intro hw nb wd hq
  obtain ⟨rfl, he⟩ := word_eq (show some (16, Sys2Proof.fill 0x12 []) = some (nb, wd) from hq)
  simp only [Sys2Proof.fill] at he
  have p0 : wd / 2 ^ 0 = 0 + 2 ^ 1 * (9 + 2 ^ 4 * (0 + 2 ^ 11 * 0)) := by omega
  have ⟨m0, p1⟩ := peel p0 (by decide)
  have ⟨m1, p2⟩ := peel p1 (by decide)
  have ⟨m2, p3⟩ := peel p2 (by decide)
  have q0 : field 4 1 wd = 9 := m1
  have q1 : field 11 5 wd = 0 := m2
  exact .inl ⟨rfl, lt_of p3, par_of m0, by simp [decodeCompact, q0, q1]⟩
theorem EncodeDecode.cNop : EncodeDecode.Statement .cNop := by
  intro hw nb wd hq
  obtain ⟨rfl, he⟩ := word_eq (show some (16, Sys2Proof.fill 0x14 []) = some (nb, wd) from hq)
  simp only [Sys2Proof.fill] at he
  have p0 : wd / 2 ^ 0 = 0 + 2 ^ 1 * (10 + 2 ^ 4 * (0 + 2 ^ 11 * 0)) := by omega
  have ⟨m0, p1⟩ := peel p0 (by decide)
  have ⟨m1, p2⟩ := peel p1 (by decide)
  have ⟨m2, p3⟩ := peel p2 (by decide)
  have q0 : field 4 1 wd = 10 := m1
  have q1 : field 11 5 wd = 0 := m2
  exact .inl ⟨rfl, lt_of p3, par_of m0, by simp [decodeCompact, q0, q1]⟩
theorem EncodeDecode.cQr (d : BitVec 5) (n : BitVec 3) : EncodeDecode.Statement (.cQr d n) := by
  intro hw nb wd hq
  have hv : ((n.toNat < 4 : Bool)) = true := hw
  simp at hv
  obtain ⟨rfl, he⟩ := word_eq (show some (16, Sys2Proof.fill 0x16 [(5, d.toNat), (10, n.toNat)]) = some (nb, wd) from hq)
  simp only [Sys2Proof.fill] at he
  have p0 : wd / 2 ^ 0 = 0 + 2 ^ 1 * (11 + 2 ^ 4 * (d.toNat + 2 ^ 5 * (n.toNat + 2 ^ 3 * (0 + 2 ^ 3 * 0)))) := by omega
  have ⟨m0, p1⟩ := peel p0 (by decide)
  have ⟨m1, p2⟩ := peel p1 (by decide)
  have ⟨m2, p3⟩ := peel p2 (d.isLt)
  have ⟨m3, p4⟩ := peel p3 (n.isLt)
  have ⟨m4, p5⟩ := peel p4 (by decide)
  have q0 : field 4 1 wd = 11 := m1
  have q1 : bits 5 5 wd = d := bits_of m2
  have q2 : bits 3 10 wd = n := bits_of m3
  have q3 : field 3 13 wd = 0 := m4
  exact .inl ⟨rfl, lt_of p5, par_of m0, by simp [decodeCompact, q0, q1, q2, q3, hv]⟩
theorem EncodeDecode.cQw (s : BitVec 5) (n : BitVec 3) : EncodeDecode.Statement (.cQw s n) := by
  intro hw nb wd hq
  have hv : ((n.toNat < 4 : Bool)) = true := hw
  simp at hv
  obtain ⟨rfl, he⟩ := word_eq (show some (16, Sys2Proof.fill 0x18 [(5, s.toNat), (10, n.toNat)]) = some (nb, wd) from hq)
  simp only [Sys2Proof.fill] at he
  have p0 : wd / 2 ^ 0 = 0 + 2 ^ 1 * (12 + 2 ^ 4 * (s.toNat + 2 ^ 5 * (n.toNat + 2 ^ 3 * (0 + 2 ^ 3 * 0)))) := by omega
  have ⟨m0, p1⟩ := peel p0 (by decide)
  have ⟨m1, p2⟩ := peel p1 (by decide)
  have ⟨m2, p3⟩ := peel p2 (s.isLt)
  have ⟨m3, p4⟩ := peel p3 (n.isLt)
  have ⟨m4, p5⟩ := peel p4 (by decide)
  have q0 : field 4 1 wd = 12 := m1
  have q1 : bits 5 5 wd = s := bits_of m2
  have q2 : bits 3 10 wd = n := bits_of m3
  have q3 : field 3 13 wd = 0 := m4
  exact .inl ⟨rfl, lt_of p5, par_of m0, by simp [decodeCompact, q0, q1, q2, q3, hv]⟩
theorem EncodeDecode.add (d : BitVec 5) (a : BitVec 5) (b : BitVec 5) : EncodeDecode.Statement (.add d a b) := by
  intro hw nb wd hq
  obtain ⟨rfl, he⟩ := word_eq (show some (32, Sys2Proof.fill 0x3 [(7, d.toNat), (12, a.toNat), (17, b.toNat)]) = some (nb, wd) from hq)
  simp only [Sys2Proof.fill] at he
  have p0 : wd / 2 ^ 0 = 3 + 2 ^ 7 * (d.toNat + 2 ^ 5 * (a.toNat + 2 ^ 5 * (b.toNat + 2 ^ 5 * (0 + 2 ^ 3 * (0 + 2 ^ 7 * 0))))) := by omega
  have ⟨m0, p1⟩ := peel p0 (by decide)
  have ⟨m1, p2⟩ := peel p1 (d.isLt)
  have ⟨m2, p3⟩ := peel p2 (a.isLt)
  have ⟨m3, p4⟩ := peel p3 (b.isLt)
  have ⟨m4, p5⟩ := peel p4 (by decide)
  have ⟨m5, p6⟩ := peel p5 (by decide)
  have q0 : wd % 128 = 3 := (by simpa using m0)
  have q1 : bits 5 7 wd = d := bits_of m1
  have q2 : bits 5 12 wd = a := bits_of m2
  have q3 : bits 5 17 wd = b := bits_of m3
  have q4 : field 3 22 wd = 0 := m4
  have q5 : field 7 25 wd = 0 := m5
  exact .inr ⟨rfl, lt_of p6, par_of m0, by simp [decodeWord, decodeIntReg, q0, q1, q2, q3, q4, q5]⟩
theorem EncodeDecode.sub (d : BitVec 5) (a : BitVec 5) (b : BitVec 5) : EncodeDecode.Statement (.sub d a b) := by
  intro hw nb wd hq
  obtain ⟨rfl, he⟩ := word_eq (show some (32, Sys2Proof.fill 0x2000003 [(7, d.toNat), (12, a.toNat), (17, b.toNat)]) = some (nb, wd) from hq)
  simp only [Sys2Proof.fill] at he
  have p0 : wd / 2 ^ 0 = 3 + 2 ^ 7 * (d.toNat + 2 ^ 5 * (a.toNat + 2 ^ 5 * (b.toNat + 2 ^ 5 * (0 + 2 ^ 3 * (1 + 2 ^ 7 * 0))))) := by omega
  have ⟨m0, p1⟩ := peel p0 (by decide)
  have ⟨m1, p2⟩ := peel p1 (d.isLt)
  have ⟨m2, p3⟩ := peel p2 (a.isLt)
  have ⟨m3, p4⟩ := peel p3 (b.isLt)
  have ⟨m4, p5⟩ := peel p4 (by decide)
  have ⟨m5, p6⟩ := peel p5 (by decide)
  have q0 : wd % 128 = 3 := (by simpa using m0)
  have q1 : bits 5 7 wd = d := bits_of m1
  have q2 : bits 5 12 wd = a := bits_of m2
  have q3 : bits 5 17 wd = b := bits_of m3
  have q4 : field 3 22 wd = 0 := m4
  have q5 : field 7 25 wd = 1 := m5
  exact .inr ⟨rfl, lt_of p6, par_of m0, by simp [decodeWord, decodeIntReg, q0, q1, q2, q3, q4, q5]⟩
theorem EncodeDecode.min (d : BitVec 5) (a : BitVec 5) (b : BitVec 5) : EncodeDecode.Statement (.min d a b) := by
  intro hw nb wd hq
  obtain ⟨rfl, he⟩ := word_eq (show some (32, Sys2Proof.fill 0x4000003 [(7, d.toNat), (12, a.toNat), (17, b.toNat)]) = some (nb, wd) from hq)
  simp only [Sys2Proof.fill] at he
  have p0 : wd / 2 ^ 0 = 3 + 2 ^ 7 * (d.toNat + 2 ^ 5 * (a.toNat + 2 ^ 5 * (b.toNat + 2 ^ 5 * (0 + 2 ^ 3 * (2 + 2 ^ 7 * 0))))) := by omega
  have ⟨m0, p1⟩ := peel p0 (by decide)
  have ⟨m1, p2⟩ := peel p1 (d.isLt)
  have ⟨m2, p3⟩ := peel p2 (a.isLt)
  have ⟨m3, p4⟩ := peel p3 (b.isLt)
  have ⟨m4, p5⟩ := peel p4 (by decide)
  have ⟨m5, p6⟩ := peel p5 (by decide)
  have q0 : wd % 128 = 3 := (by simpa using m0)
  have q1 : bits 5 7 wd = d := bits_of m1
  have q2 : bits 5 12 wd = a := bits_of m2
  have q3 : bits 5 17 wd = b := bits_of m3
  have q4 : field 3 22 wd = 0 := m4
  have q5 : field 7 25 wd = 2 := m5
  exact .inr ⟨rfl, lt_of p6, par_of m0, by simp [decodeWord, decodeIntReg, q0, q1, q2, q3, q4, q5]⟩
theorem EncodeDecode.max (d : BitVec 5) (a : BitVec 5) (b : BitVec 5) : EncodeDecode.Statement (.max d a b) := by
  intro hw nb wd hq
  obtain ⟨rfl, he⟩ := word_eq (show some (32, Sys2Proof.fill 0x6000003 [(7, d.toNat), (12, a.toNat), (17, b.toNat)]) = some (nb, wd) from hq)
  simp only [Sys2Proof.fill] at he
  have p0 : wd / 2 ^ 0 = 3 + 2 ^ 7 * (d.toNat + 2 ^ 5 * (a.toNat + 2 ^ 5 * (b.toNat + 2 ^ 5 * (0 + 2 ^ 3 * (3 + 2 ^ 7 * 0))))) := by omega
  have ⟨m0, p1⟩ := peel p0 (by decide)
  have ⟨m1, p2⟩ := peel p1 (d.isLt)
  have ⟨m2, p3⟩ := peel p2 (a.isLt)
  have ⟨m3, p4⟩ := peel p3 (b.isLt)
  have ⟨m4, p5⟩ := peel p4 (by decide)
  have ⟨m5, p6⟩ := peel p5 (by decide)
  have q0 : wd % 128 = 3 := (by simpa using m0)
  have q1 : bits 5 7 wd = d := bits_of m1
  have q2 : bits 5 12 wd = a := bits_of m2
  have q3 : bits 5 17 wd = b := bits_of m3
  have q4 : field 3 22 wd = 0 := m4
  have q5 : field 7 25 wd = 3 := m5
  exact .inr ⟨rfl, lt_of p6, par_of m0, by simp [decodeWord, decodeIntReg, q0, q1, q2, q3, q4, q5]⟩
theorem EncodeDecode.minu (d : BitVec 5) (a : BitVec 5) (b : BitVec 5) : EncodeDecode.Statement (.minu d a b) := by
  intro hw nb wd hq
  obtain ⟨rfl, he⟩ := word_eq (show some (32, Sys2Proof.fill 0x8000003 [(7, d.toNat), (12, a.toNat), (17, b.toNat)]) = some (nb, wd) from hq)
  simp only [Sys2Proof.fill] at he
  have p0 : wd / 2 ^ 0 = 3 + 2 ^ 7 * (d.toNat + 2 ^ 5 * (a.toNat + 2 ^ 5 * (b.toNat + 2 ^ 5 * (0 + 2 ^ 3 * (4 + 2 ^ 7 * 0))))) := by omega
  have ⟨m0, p1⟩ := peel p0 (by decide)
  have ⟨m1, p2⟩ := peel p1 (d.isLt)
  have ⟨m2, p3⟩ := peel p2 (a.isLt)
  have ⟨m3, p4⟩ := peel p3 (b.isLt)
  have ⟨m4, p5⟩ := peel p4 (by decide)
  have ⟨m5, p6⟩ := peel p5 (by decide)
  have q0 : wd % 128 = 3 := (by simpa using m0)
  have q1 : bits 5 7 wd = d := bits_of m1
  have q2 : bits 5 12 wd = a := bits_of m2
  have q3 : bits 5 17 wd = b := bits_of m3
  have q4 : field 3 22 wd = 0 := m4
  have q5 : field 7 25 wd = 4 := m5
  exact .inr ⟨rfl, lt_of p6, par_of m0, by simp [decodeWord, decodeIntReg, q0, q1, q2, q3, q4, q5]⟩
theorem EncodeDecode.maxu (d : BitVec 5) (a : BitVec 5) (b : BitVec 5) : EncodeDecode.Statement (.maxu d a b) := by
  intro hw nb wd hq
  obtain ⟨rfl, he⟩ := word_eq (show some (32, Sys2Proof.fill 0xa000003 [(7, d.toNat), (12, a.toNat), (17, b.toNat)]) = some (nb, wd) from hq)
  simp only [Sys2Proof.fill] at he
  have p0 : wd / 2 ^ 0 = 3 + 2 ^ 7 * (d.toNat + 2 ^ 5 * (a.toNat + 2 ^ 5 * (b.toNat + 2 ^ 5 * (0 + 2 ^ 3 * (5 + 2 ^ 7 * 0))))) := by omega
  have ⟨m0, p1⟩ := peel p0 (by decide)
  have ⟨m1, p2⟩ := peel p1 (d.isLt)
  have ⟨m2, p3⟩ := peel p2 (a.isLt)
  have ⟨m3, p4⟩ := peel p3 (b.isLt)
  have ⟨m4, p5⟩ := peel p4 (by decide)
  have ⟨m5, p6⟩ := peel p5 (by decide)
  have q0 : wd % 128 = 3 := (by simpa using m0)
  have q1 : bits 5 7 wd = d := bits_of m1
  have q2 : bits 5 12 wd = a := bits_of m2
  have q3 : bits 5 17 wd = b := bits_of m3
  have q4 : field 3 22 wd = 0 := m4
  have q5 : field 7 25 wd = 5 := m5
  exact .inr ⟨rfl, lt_of p6, par_of m0, by simp [decodeWord, decodeIntReg, q0, q1, q2, q3, q4, q5]⟩
theorem EncodeDecode.slt (d : BitVec 5) (a : BitVec 5) (b : BitVec 5) : EncodeDecode.Statement (.slt d a b) := by
  intro hw nb wd hq
  obtain ⟨rfl, he⟩ := word_eq (show some (32, Sys2Proof.fill 0xc000003 [(7, d.toNat), (12, a.toNat), (17, b.toNat)]) = some (nb, wd) from hq)
  simp only [Sys2Proof.fill] at he
  have p0 : wd / 2 ^ 0 = 3 + 2 ^ 7 * (d.toNat + 2 ^ 5 * (a.toNat + 2 ^ 5 * (b.toNat + 2 ^ 5 * (0 + 2 ^ 3 * (6 + 2 ^ 7 * 0))))) := by omega
  have ⟨m0, p1⟩ := peel p0 (by decide)
  have ⟨m1, p2⟩ := peel p1 (d.isLt)
  have ⟨m2, p3⟩ := peel p2 (a.isLt)
  have ⟨m3, p4⟩ := peel p3 (b.isLt)
  have ⟨m4, p5⟩ := peel p4 (by decide)
  have ⟨m5, p6⟩ := peel p5 (by decide)
  have q0 : wd % 128 = 3 := (by simpa using m0)
  have q1 : bits 5 7 wd = d := bits_of m1
  have q2 : bits 5 12 wd = a := bits_of m2
  have q3 : bits 5 17 wd = b := bits_of m3
  have q4 : field 3 22 wd = 0 := m4
  have q5 : field 7 25 wd = 6 := m5
  exact .inr ⟨rfl, lt_of p6, par_of m0, by simp [decodeWord, decodeIntReg, q0, q1, q2, q3, q4, q5]⟩
theorem EncodeDecode.sltu (d : BitVec 5) (a : BitVec 5) (b : BitVec 5) : EncodeDecode.Statement (.sltu d a b) := by
  intro hw nb wd hq
  obtain ⟨rfl, he⟩ := word_eq (show some (32, Sys2Proof.fill 0xe000003 [(7, d.toNat), (12, a.toNat), (17, b.toNat)]) = some (nb, wd) from hq)
  simp only [Sys2Proof.fill] at he
  have p0 : wd / 2 ^ 0 = 3 + 2 ^ 7 * (d.toNat + 2 ^ 5 * (a.toNat + 2 ^ 5 * (b.toNat + 2 ^ 5 * (0 + 2 ^ 3 * (7 + 2 ^ 7 * 0))))) := by omega
  have ⟨m0, p1⟩ := peel p0 (by decide)
  have ⟨m1, p2⟩ := peel p1 (d.isLt)
  have ⟨m2, p3⟩ := peel p2 (a.isLt)
  have ⟨m3, p4⟩ := peel p3 (b.isLt)
  have ⟨m4, p5⟩ := peel p4 (by decide)
  have ⟨m5, p6⟩ := peel p5 (by decide)
  have q0 : wd % 128 = 3 := (by simpa using m0)
  have q1 : bits 5 7 wd = d := bits_of m1
  have q2 : bits 5 12 wd = a := bits_of m2
  have q3 : bits 5 17 wd = b := bits_of m3
  have q4 : field 3 22 wd = 0 := m4
  have q5 : field 7 25 wd = 7 := m5
  exact .inr ⟨rfl, lt_of p6, par_of m0, by simp [decodeWord, decodeIntReg, q0, q1, q2, q3, q4, q5]⟩
theorem EncodeDecode.and (d : BitVec 5) (a : BitVec 5) (b : BitVec 5) : EncodeDecode.Statement (.and d a b) := by
  intro hw nb wd hq
  obtain ⟨rfl, he⟩ := word_eq (show some (32, Sys2Proof.fill 0x10000003 [(7, d.toNat), (12, a.toNat), (17, b.toNat)]) = some (nb, wd) from hq)
  simp only [Sys2Proof.fill] at he
  have p0 : wd / 2 ^ 0 = 3 + 2 ^ 7 * (d.toNat + 2 ^ 5 * (a.toNat + 2 ^ 5 * (b.toNat + 2 ^ 5 * (0 + 2 ^ 3 * (8 + 2 ^ 7 * 0))))) := by omega
  have ⟨m0, p1⟩ := peel p0 (by decide)
  have ⟨m1, p2⟩ := peel p1 (d.isLt)
  have ⟨m2, p3⟩ := peel p2 (a.isLt)
  have ⟨m3, p4⟩ := peel p3 (b.isLt)
  have ⟨m4, p5⟩ := peel p4 (by decide)
  have ⟨m5, p6⟩ := peel p5 (by decide)
  have q0 : wd % 128 = 3 := (by simpa using m0)
  have q1 : bits 5 7 wd = d := bits_of m1
  have q2 : bits 5 12 wd = a := bits_of m2
  have q3 : bits 5 17 wd = b := bits_of m3
  have q4 : field 3 22 wd = 0 := m4
  have q5 : field 7 25 wd = 8 := m5
  exact .inr ⟨rfl, lt_of p6, par_of m0, by simp [decodeWord, decodeIntReg, q0, q1, q2, q3, q4, q5]⟩
theorem EncodeDecode.or (d : BitVec 5) (a : BitVec 5) (b : BitVec 5) : EncodeDecode.Statement (.or d a b) := by
  intro hw nb wd hq
  obtain ⟨rfl, he⟩ := word_eq (show some (32, Sys2Proof.fill 0x12000003 [(7, d.toNat), (12, a.toNat), (17, b.toNat)]) = some (nb, wd) from hq)
  simp only [Sys2Proof.fill] at he
  have p0 : wd / 2 ^ 0 = 3 + 2 ^ 7 * (d.toNat + 2 ^ 5 * (a.toNat + 2 ^ 5 * (b.toNat + 2 ^ 5 * (0 + 2 ^ 3 * (9 + 2 ^ 7 * 0))))) := by omega
  have ⟨m0, p1⟩ := peel p0 (by decide)
  have ⟨m1, p2⟩ := peel p1 (d.isLt)
  have ⟨m2, p3⟩ := peel p2 (a.isLt)
  have ⟨m3, p4⟩ := peel p3 (b.isLt)
  have ⟨m4, p5⟩ := peel p4 (by decide)
  have ⟨m5, p6⟩ := peel p5 (by decide)
  have q0 : wd % 128 = 3 := (by simpa using m0)
  have q1 : bits 5 7 wd = d := bits_of m1
  have q2 : bits 5 12 wd = a := bits_of m2
  have q3 : bits 5 17 wd = b := bits_of m3
  have q4 : field 3 22 wd = 0 := m4
  have q5 : field 7 25 wd = 9 := m5
  exact .inr ⟨rfl, lt_of p6, par_of m0, by simp [decodeWord, decodeIntReg, q0, q1, q2, q3, q4, q5]⟩
theorem EncodeDecode.xor (d : BitVec 5) (a : BitVec 5) (b : BitVec 5) : EncodeDecode.Statement (.xor d a b) := by
  intro hw nb wd hq
  obtain ⟨rfl, he⟩ := word_eq (show some (32, Sys2Proof.fill 0x14000003 [(7, d.toNat), (12, a.toNat), (17, b.toNat)]) = some (nb, wd) from hq)
  simp only [Sys2Proof.fill] at he
  have p0 : wd / 2 ^ 0 = 3 + 2 ^ 7 * (d.toNat + 2 ^ 5 * (a.toNat + 2 ^ 5 * (b.toNat + 2 ^ 5 * (0 + 2 ^ 3 * (10 + 2 ^ 7 * 0))))) := by omega
  have ⟨m0, p1⟩ := peel p0 (by decide)
  have ⟨m1, p2⟩ := peel p1 (d.isLt)
  have ⟨m2, p3⟩ := peel p2 (a.isLt)
  have ⟨m3, p4⟩ := peel p3 (b.isLt)
  have ⟨m4, p5⟩ := peel p4 (by decide)
  have ⟨m5, p6⟩ := peel p5 (by decide)
  have q0 : wd % 128 = 3 := (by simpa using m0)
  have q1 : bits 5 7 wd = d := bits_of m1
  have q2 : bits 5 12 wd = a := bits_of m2
  have q3 : bits 5 17 wd = b := bits_of m3
  have q4 : field 3 22 wd = 0 := m4
  have q5 : field 7 25 wd = 10 := m5
  exact .inr ⟨rfl, lt_of p6, par_of m0, by simp [decodeWord, decodeIntReg, q0, q1, q2, q3, q4, q5]⟩
theorem EncodeDecode.andn (d : BitVec 5) (a : BitVec 5) (b : BitVec 5) : EncodeDecode.Statement (.andn d a b) := by
  intro hw nb wd hq
  obtain ⟨rfl, he⟩ := word_eq (show some (32, Sys2Proof.fill 0x16000003 [(7, d.toNat), (12, a.toNat), (17, b.toNat)]) = some (nb, wd) from hq)
  simp only [Sys2Proof.fill] at he
  have p0 : wd / 2 ^ 0 = 3 + 2 ^ 7 * (d.toNat + 2 ^ 5 * (a.toNat + 2 ^ 5 * (b.toNat + 2 ^ 5 * (0 + 2 ^ 3 * (11 + 2 ^ 7 * 0))))) := by omega
  have ⟨m0, p1⟩ := peel p0 (by decide)
  have ⟨m1, p2⟩ := peel p1 (d.isLt)
  have ⟨m2, p3⟩ := peel p2 (a.isLt)
  have ⟨m3, p4⟩ := peel p3 (b.isLt)
  have ⟨m4, p5⟩ := peel p4 (by decide)
  have ⟨m5, p6⟩ := peel p5 (by decide)
  have q0 : wd % 128 = 3 := (by simpa using m0)
  have q1 : bits 5 7 wd = d := bits_of m1
  have q2 : bits 5 12 wd = a := bits_of m2
  have q3 : bits 5 17 wd = b := bits_of m3
  have q4 : field 3 22 wd = 0 := m4
  have q5 : field 7 25 wd = 11 := m5
  exact .inr ⟨rfl, lt_of p6, par_of m0, by simp [decodeWord, decodeIntReg, q0, q1, q2, q3, q4, q5]⟩
theorem EncodeDecode.sel (d : BitVec 5) (a : BitVec 5) (b : BitVec 5) : EncodeDecode.Statement (.sel d a b) := by
  intro hw nb wd hq
  obtain ⟨rfl, he⟩ := word_eq (show some (32, Sys2Proof.fill 0x18000003 [(7, d.toNat), (12, a.toNat), (17, b.toNat)]) = some (nb, wd) from hq)
  simp only [Sys2Proof.fill] at he
  have p0 : wd / 2 ^ 0 = 3 + 2 ^ 7 * (d.toNat + 2 ^ 5 * (a.toNat + 2 ^ 5 * (b.toNat + 2 ^ 5 * (0 + 2 ^ 3 * (12 + 2 ^ 7 * 0))))) := by omega
  have ⟨m0, p1⟩ := peel p0 (by decide)
  have ⟨m1, p2⟩ := peel p1 (d.isLt)
  have ⟨m2, p3⟩ := peel p2 (a.isLt)
  have ⟨m3, p4⟩ := peel p3 (b.isLt)
  have ⟨m4, p5⟩ := peel p4 (by decide)
  have ⟨m5, p6⟩ := peel p5 (by decide)
  have q0 : wd % 128 = 3 := (by simpa using m0)
  have q1 : bits 5 7 wd = d := bits_of m1
  have q2 : bits 5 12 wd = a := bits_of m2
  have q3 : bits 5 17 wd = b := bits_of m3
  have q4 : field 3 22 wd = 0 := m4
  have q5 : field 7 25 wd = 12 := m5
  exact .inr ⟨rfl, lt_of p6, par_of m0, by simp [decodeWord, decodeIntReg, q0, q1, q2, q3, q4, q5]⟩
theorem EncodeDecode.sll (d : BitVec 5) (a : BitVec 5) (b : BitVec 5) : EncodeDecode.Statement (.sll d a b) := by
  intro hw nb wd hq
  obtain ⟨rfl, he⟩ := word_eq (show some (32, Sys2Proof.fill 0x1a000003 [(7, d.toNat), (12, a.toNat), (17, b.toNat)]) = some (nb, wd) from hq)
  simp only [Sys2Proof.fill] at he
  have p0 : wd / 2 ^ 0 = 3 + 2 ^ 7 * (d.toNat + 2 ^ 5 * (a.toNat + 2 ^ 5 * (b.toNat + 2 ^ 5 * (0 + 2 ^ 3 * (13 + 2 ^ 7 * 0))))) := by omega
  have ⟨m0, p1⟩ := peel p0 (by decide)
  have ⟨m1, p2⟩ := peel p1 (d.isLt)
  have ⟨m2, p3⟩ := peel p2 (a.isLt)
  have ⟨m3, p4⟩ := peel p3 (b.isLt)
  have ⟨m4, p5⟩ := peel p4 (by decide)
  have ⟨m5, p6⟩ := peel p5 (by decide)
  have q0 : wd % 128 = 3 := (by simpa using m0)
  have q1 : bits 5 7 wd = d := bits_of m1
  have q2 : bits 5 12 wd = a := bits_of m2
  have q3 : bits 5 17 wd = b := bits_of m3
  have q4 : field 3 22 wd = 0 := m4
  have q5 : field 7 25 wd = 13 := m5
  exact .inr ⟨rfl, lt_of p6, par_of m0, by simp [decodeWord, decodeIntReg, q0, q1, q2, q3, q4, q5]⟩
theorem EncodeDecode.srl (d : BitVec 5) (a : BitVec 5) (b : BitVec 5) : EncodeDecode.Statement (.srl d a b) := by
  intro hw nb wd hq
  obtain ⟨rfl, he⟩ := word_eq (show some (32, Sys2Proof.fill 0x1c000003 [(7, d.toNat), (12, a.toNat), (17, b.toNat)]) = some (nb, wd) from hq)
  simp only [Sys2Proof.fill] at he
  have p0 : wd / 2 ^ 0 = 3 + 2 ^ 7 * (d.toNat + 2 ^ 5 * (a.toNat + 2 ^ 5 * (b.toNat + 2 ^ 5 * (0 + 2 ^ 3 * (14 + 2 ^ 7 * 0))))) := by omega
  have ⟨m0, p1⟩ := peel p0 (by decide)
  have ⟨m1, p2⟩ := peel p1 (d.isLt)
  have ⟨m2, p3⟩ := peel p2 (a.isLt)
  have ⟨m3, p4⟩ := peel p3 (b.isLt)
  have ⟨m4, p5⟩ := peel p4 (by decide)
  have ⟨m5, p6⟩ := peel p5 (by decide)
  have q0 : wd % 128 = 3 := (by simpa using m0)
  have q1 : bits 5 7 wd = d := bits_of m1
  have q2 : bits 5 12 wd = a := bits_of m2
  have q3 : bits 5 17 wd = b := bits_of m3
  have q4 : field 3 22 wd = 0 := m4
  have q5 : field 7 25 wd = 14 := m5
  exact .inr ⟨rfl, lt_of p6, par_of m0, by simp [decodeWord, decodeIntReg, q0, q1, q2, q3, q4, q5]⟩
theorem EncodeDecode.sra (d : BitVec 5) (a : BitVec 5) (b : BitVec 5) : EncodeDecode.Statement (.sra d a b) := by
  intro hw nb wd hq
  obtain ⟨rfl, he⟩ := word_eq (show some (32, Sys2Proof.fill 0x1e000003 [(7, d.toNat), (12, a.toNat), (17, b.toNat)]) = some (nb, wd) from hq)
  simp only [Sys2Proof.fill] at he
  have p0 : wd / 2 ^ 0 = 3 + 2 ^ 7 * (d.toNat + 2 ^ 5 * (a.toNat + 2 ^ 5 * (b.toNat + 2 ^ 5 * (0 + 2 ^ 3 * (15 + 2 ^ 7 * 0))))) := by omega
  have ⟨m0, p1⟩ := peel p0 (by decide)
  have ⟨m1, p2⟩ := peel p1 (d.isLt)
  have ⟨m2, p3⟩ := peel p2 (a.isLt)
  have ⟨m3, p4⟩ := peel p3 (b.isLt)
  have ⟨m4, p5⟩ := peel p4 (by decide)
  have ⟨m5, p6⟩ := peel p5 (by decide)
  have q0 : wd % 128 = 3 := (by simpa using m0)
  have q1 : bits 5 7 wd = d := bits_of m1
  have q2 : bits 5 12 wd = a := bits_of m2
  have q3 : bits 5 17 wd = b := bits_of m3
  have q4 : field 3 22 wd = 0 := m4
  have q5 : field 7 25 wd = 15 := m5
  exact .inr ⟨rfl, lt_of p6, par_of m0, by simp [decodeWord, decodeIntReg, q0, q1, q2, q3, q4, q5]⟩
theorem EncodeDecode.clz (d : BitVec 5) (a : BitVec 5) : EncodeDecode.Statement (.clz d a) := by
  intro hw nb wd hq
  obtain ⟨rfl, he⟩ := word_eq (show some (32, Sys2Proof.fill 0x20000003 [(7, d.toNat), (12, a.toNat)]) = some (nb, wd) from hq)
  simp only [Sys2Proof.fill] at he
  have p0 : wd / 2 ^ 0 = 3 + 2 ^ 7 * (d.toNat + 2 ^ 5 * (a.toNat + 2 ^ 5 * (0 + 2 ^ 8 * (16 + 2 ^ 7 * 0)))) := by omega
  have ⟨m0, p1⟩ := peel p0 (by decide)
  have ⟨m1, p2⟩ := peel p1 (d.isLt)
  have ⟨m2, p3⟩ := peel p2 (a.isLt)
  have ⟨m3, p4⟩ := peel p3 (by decide)
  have ⟨m4, p5⟩ := peel p4 (by decide)
  have q0 : wd % 128 = 3 := (by simpa using m0)
  have q1 : bits 5 7 wd = d := bits_of m1
  have q2 : bits 5 12 wd = a := bits_of m2
  have q3 : field 8 17 wd = 0 := m3
  have q4 : field 7 25 wd = 16 := m4
  exact .inr ⟨rfl, lt_of p5, par_of m0, by simp [decodeWord, decodeIntReg, q0, q1, q2, q3, q4]⟩
theorem EncodeDecode.ctz (d : BitVec 5) (a : BitVec 5) : EncodeDecode.Statement (.ctz d a) := by
  intro hw nb wd hq
  obtain ⟨rfl, he⟩ := word_eq (show some (32, Sys2Proof.fill 0x22000003 [(7, d.toNat), (12, a.toNat)]) = some (nb, wd) from hq)
  simp only [Sys2Proof.fill] at he
  have p0 : wd / 2 ^ 0 = 3 + 2 ^ 7 * (d.toNat + 2 ^ 5 * (a.toNat + 2 ^ 5 * (0 + 2 ^ 8 * (17 + 2 ^ 7 * 0)))) := by omega
  have ⟨m0, p1⟩ := peel p0 (by decide)
  have ⟨m1, p2⟩ := peel p1 (d.isLt)
  have ⟨m2, p3⟩ := peel p2 (a.isLt)
  have ⟨m3, p4⟩ := peel p3 (by decide)
  have ⟨m4, p5⟩ := peel p4 (by decide)
  have q0 : wd % 128 = 3 := (by simpa using m0)
  have q1 : bits 5 7 wd = d := bits_of m1
  have q2 : bits 5 12 wd = a := bits_of m2
  have q3 : field 8 17 wd = 0 := m3
  have q4 : field 7 25 wd = 17 := m4
  exact .inr ⟨rfl, lt_of p5, par_of m0, by simp [decodeWord, decodeIntReg, q0, q1, q2, q3, q4]⟩
theorem EncodeDecode.popc (d : BitVec 5) (a : BitVec 5) : EncodeDecode.Statement (.popc d a) := by
  intro hw nb wd hq
  obtain ⟨rfl, he⟩ := word_eq (show some (32, Sys2Proof.fill 0x24000003 [(7, d.toNat), (12, a.toNat)]) = some (nb, wd) from hq)
  simp only [Sys2Proof.fill] at he
  have p0 : wd / 2 ^ 0 = 3 + 2 ^ 7 * (d.toNat + 2 ^ 5 * (a.toNat + 2 ^ 5 * (0 + 2 ^ 8 * (18 + 2 ^ 7 * 0)))) := by omega
  have ⟨m0, p1⟩ := peel p0 (by decide)
  have ⟨m1, p2⟩ := peel p1 (d.isLt)
  have ⟨m2, p3⟩ := peel p2 (a.isLt)
  have ⟨m3, p4⟩ := peel p3 (by decide)
  have ⟨m4, p5⟩ := peel p4 (by decide)
  have q0 : wd % 128 = 3 := (by simpa using m0)
  have q1 : bits 5 7 wd = d := bits_of m1
  have q2 : bits 5 12 wd = a := bits_of m2
  have q3 : field 8 17 wd = 0 := m3
  have q4 : field 7 25 wd = 18 := m4
  exact .inr ⟨rfl, lt_of p5, par_of m0, by simp [decodeWord, decodeIntReg, q0, q1, q2, q3, q4]⟩
theorem EncodeDecode.mul (d : BitVec 5) (a : BitVec 5) (b : BitVec 5) : EncodeDecode.Statement (.mul d a b) := by
  intro hw nb wd hq
  obtain ⟨rfl, he⟩ := word_eq (show some (32, Sys2Proof.fill 0x26000003 [(7, d.toNat), (12, a.toNat), (17, b.toNat)]) = some (nb, wd) from hq)
  simp only [Sys2Proof.fill] at he
  have p0 : wd / 2 ^ 0 = 3 + 2 ^ 7 * (d.toNat + 2 ^ 5 * (a.toNat + 2 ^ 5 * (b.toNat + 2 ^ 5 * (0 + 2 ^ 3 * (19 + 2 ^ 7 * 0))))) := by omega
  have ⟨m0, p1⟩ := peel p0 (by decide)
  have ⟨m1, p2⟩ := peel p1 (d.isLt)
  have ⟨m2, p3⟩ := peel p2 (a.isLt)
  have ⟨m3, p4⟩ := peel p3 (b.isLt)
  have ⟨m4, p5⟩ := peel p4 (by decide)
  have ⟨m5, p6⟩ := peel p5 (by decide)
  have q0 : wd % 128 = 3 := (by simpa using m0)
  have q1 : bits 5 7 wd = d := bits_of m1
  have q2 : bits 5 12 wd = a := bits_of m2
  have q3 : bits 5 17 wd = b := bits_of m3
  have q4 : field 3 22 wd = 0 := m4
  have q5 : field 7 25 wd = 19 := m5
  exact .inr ⟨rfl, lt_of p6, par_of m0, by simp [decodeWord, decodeIntReg, q0, q1, q2, q3, q4, q5]⟩
theorem EncodeDecode.mulh (d : BitVec 5) (a : BitVec 5) (b : BitVec 5) : EncodeDecode.Statement (.mulh d a b) := by
  intro hw nb wd hq
  obtain ⟨rfl, he⟩ := word_eq (show some (32, Sys2Proof.fill 0x28000003 [(7, d.toNat), (12, a.toNat), (17, b.toNat)]) = some (nb, wd) from hq)
  simp only [Sys2Proof.fill] at he
  have p0 : wd / 2 ^ 0 = 3 + 2 ^ 7 * (d.toNat + 2 ^ 5 * (a.toNat + 2 ^ 5 * (b.toNat + 2 ^ 5 * (0 + 2 ^ 3 * (20 + 2 ^ 7 * 0))))) := by omega
  have ⟨m0, p1⟩ := peel p0 (by decide)
  have ⟨m1, p2⟩ := peel p1 (d.isLt)
  have ⟨m2, p3⟩ := peel p2 (a.isLt)
  have ⟨m3, p4⟩ := peel p3 (b.isLt)
  have ⟨m4, p5⟩ := peel p4 (by decide)
  have ⟨m5, p6⟩ := peel p5 (by decide)
  have q0 : wd % 128 = 3 := (by simpa using m0)
  have q1 : bits 5 7 wd = d := bits_of m1
  have q2 : bits 5 12 wd = a := bits_of m2
  have q3 : bits 5 17 wd = b := bits_of m3
  have q4 : field 3 22 wd = 0 := m4
  have q5 : field 7 25 wd = 20 := m5
  exact .inr ⟨rfl, lt_of p6, par_of m0, by simp [decodeWord, decodeIntReg, q0, q1, q2, q3, q4, q5]⟩
theorem EncodeDecode.mulhu (d : BitVec 5) (a : BitVec 5) (b : BitVec 5) : EncodeDecode.Statement (.mulhu d a b) := by
  intro hw nb wd hq
  obtain ⟨rfl, he⟩ := word_eq (show some (32, Sys2Proof.fill 0x2a000003 [(7, d.toNat), (12, a.toNat), (17, b.toNat)]) = some (nb, wd) from hq)
  simp only [Sys2Proof.fill] at he
  have p0 : wd / 2 ^ 0 = 3 + 2 ^ 7 * (d.toNat + 2 ^ 5 * (a.toNat + 2 ^ 5 * (b.toNat + 2 ^ 5 * (0 + 2 ^ 3 * (21 + 2 ^ 7 * 0))))) := by omega
  have ⟨m0, p1⟩ := peel p0 (by decide)
  have ⟨m1, p2⟩ := peel p1 (d.isLt)
  have ⟨m2, p3⟩ := peel p2 (a.isLt)
  have ⟨m3, p4⟩ := peel p3 (b.isLt)
  have ⟨m4, p5⟩ := peel p4 (by decide)
  have ⟨m5, p6⟩ := peel p5 (by decide)
  have q0 : wd % 128 = 3 := (by simpa using m0)
  have q1 : bits 5 7 wd = d := bits_of m1
  have q2 : bits 5 12 wd = a := bits_of m2
  have q3 : bits 5 17 wd = b := bits_of m3
  have q4 : field 3 22 wd = 0 := m4
  have q5 : field 7 25 wd = 21 := m5
  exact .inr ⟨rfl, lt_of p6, par_of m0, by simp [decodeWord, decodeIntReg, q0, q1, q2, q3, q4, q5]⟩
theorem EncodeDecode.div (d : BitVec 5) (a : BitVec 5) (b : BitVec 5) : EncodeDecode.Statement (.div d a b) := by
  intro hw nb wd hq
  obtain ⟨rfl, he⟩ := word_eq (show some (32, Sys2Proof.fill 0x2c000003 [(7, d.toNat), (12, a.toNat), (17, b.toNat)]) = some (nb, wd) from hq)
  simp only [Sys2Proof.fill] at he
  have p0 : wd / 2 ^ 0 = 3 + 2 ^ 7 * (d.toNat + 2 ^ 5 * (a.toNat + 2 ^ 5 * (b.toNat + 2 ^ 5 * (0 + 2 ^ 3 * (22 + 2 ^ 7 * 0))))) := by omega
  have ⟨m0, p1⟩ := peel p0 (by decide)
  have ⟨m1, p2⟩ := peel p1 (d.isLt)
  have ⟨m2, p3⟩ := peel p2 (a.isLt)
  have ⟨m3, p4⟩ := peel p3 (b.isLt)
  have ⟨m4, p5⟩ := peel p4 (by decide)
  have ⟨m5, p6⟩ := peel p5 (by decide)
  have q0 : wd % 128 = 3 := (by simpa using m0)
  have q1 : bits 5 7 wd = d := bits_of m1
  have q2 : bits 5 12 wd = a := bits_of m2
  have q3 : bits 5 17 wd = b := bits_of m3
  have q4 : field 3 22 wd = 0 := m4
  have q5 : field 7 25 wd = 22 := m5
  exact .inr ⟨rfl, lt_of p6, par_of m0, by simp [decodeWord, decodeIntReg, q0, q1, q2, q3, q4, q5]⟩
theorem EncodeDecode.divu (d : BitVec 5) (a : BitVec 5) (b : BitVec 5) : EncodeDecode.Statement (.divu d a b) := by
  intro hw nb wd hq
  obtain ⟨rfl, he⟩ := word_eq (show some (32, Sys2Proof.fill 0x2e000003 [(7, d.toNat), (12, a.toNat), (17, b.toNat)]) = some (nb, wd) from hq)
  simp only [Sys2Proof.fill] at he
  have p0 : wd / 2 ^ 0 = 3 + 2 ^ 7 * (d.toNat + 2 ^ 5 * (a.toNat + 2 ^ 5 * (b.toNat + 2 ^ 5 * (0 + 2 ^ 3 * (23 + 2 ^ 7 * 0))))) := by omega
  have ⟨m0, p1⟩ := peel p0 (by decide)
  have ⟨m1, p2⟩ := peel p1 (d.isLt)
  have ⟨m2, p3⟩ := peel p2 (a.isLt)
  have ⟨m3, p4⟩ := peel p3 (b.isLt)
  have ⟨m4, p5⟩ := peel p4 (by decide)
  have ⟨m5, p6⟩ := peel p5 (by decide)
  have q0 : wd % 128 = 3 := (by simpa using m0)
  have q1 : bits 5 7 wd = d := bits_of m1
  have q2 : bits 5 12 wd = a := bits_of m2
  have q3 : bits 5 17 wd = b := bits_of m3
  have q4 : field 3 22 wd = 0 := m4
  have q5 : field 7 25 wd = 23 := m5
  exact .inr ⟨rfl, lt_of p6, par_of m0, by simp [decodeWord, decodeIntReg, q0, q1, q2, q3, q4, q5]⟩
theorem EncodeDecode.rem (d : BitVec 5) (a : BitVec 5) (b : BitVec 5) : EncodeDecode.Statement (.rem d a b) := by
  intro hw nb wd hq
  obtain ⟨rfl, he⟩ := word_eq (show some (32, Sys2Proof.fill 0x30000003 [(7, d.toNat), (12, a.toNat), (17, b.toNat)]) = some (nb, wd) from hq)
  simp only [Sys2Proof.fill] at he
  have p0 : wd / 2 ^ 0 = 3 + 2 ^ 7 * (d.toNat + 2 ^ 5 * (a.toNat + 2 ^ 5 * (b.toNat + 2 ^ 5 * (0 + 2 ^ 3 * (24 + 2 ^ 7 * 0))))) := by omega
  have ⟨m0, p1⟩ := peel p0 (by decide)
  have ⟨m1, p2⟩ := peel p1 (d.isLt)
  have ⟨m2, p3⟩ := peel p2 (a.isLt)
  have ⟨m3, p4⟩ := peel p3 (b.isLt)
  have ⟨m4, p5⟩ := peel p4 (by decide)
  have ⟨m5, p6⟩ := peel p5 (by decide)
  have q0 : wd % 128 = 3 := (by simpa using m0)
  have q1 : bits 5 7 wd = d := bits_of m1
  have q2 : bits 5 12 wd = a := bits_of m2
  have q3 : bits 5 17 wd = b := bits_of m3
  have q4 : field 3 22 wd = 0 := m4
  have q5 : field 7 25 wd = 24 := m5
  exact .inr ⟨rfl, lt_of p6, par_of m0, by simp [decodeWord, decodeIntReg, q0, q1, q2, q3, q4, q5]⟩
theorem EncodeDecode.remu (d : BitVec 5) (a : BitVec 5) (b : BitVec 5) : EncodeDecode.Statement (.remu d a b) := by
  intro hw nb wd hq
  obtain ⟨rfl, he⟩ := word_eq (show some (32, Sys2Proof.fill 0x32000003 [(7, d.toNat), (12, a.toNat), (17, b.toNat)]) = some (nb, wd) from hq)
  simp only [Sys2Proof.fill] at he
  have p0 : wd / 2 ^ 0 = 3 + 2 ^ 7 * (d.toNat + 2 ^ 5 * (a.toNat + 2 ^ 5 * (b.toNat + 2 ^ 5 * (0 + 2 ^ 3 * (25 + 2 ^ 7 * 0))))) := by omega
  have ⟨m0, p1⟩ := peel p0 (by decide)
  have ⟨m1, p2⟩ := peel p1 (d.isLt)
  have ⟨m2, p3⟩ := peel p2 (a.isLt)
  have ⟨m3, p4⟩ := peel p3 (b.isLt)
  have ⟨m4, p5⟩ := peel p4 (by decide)
  have ⟨m5, p6⟩ := peel p5 (by decide)
  have q0 : wd % 128 = 3 := (by simpa using m0)
  have q1 : bits 5 7 wd = d := bits_of m1
  have q2 : bits 5 12 wd = a := bits_of m2
  have q3 : bits 5 17 wd = b := bits_of m3
  have q4 : field 3 22 wd = 0 := m4
  have q5 : field 7 25 wd = 25 := m5
  exact .inr ⟨rfl, lt_of p6, par_of m0, by simp [decodeWord, decodeIntReg, q0, q1, q2, q3, q4, q5]⟩
theorem EncodeDecode.addi (d : BitVec 5) (a : BitVec 5) (i : BitVec 12) : EncodeDecode.Statement (.addi d a i) := by
  intro hw nb wd hq
  obtain ⟨rfl, he⟩ := word_eq (show some (32, Sys2Proof.fill 0x5 [(7, d.toNat), (12, a.toNat), (20, i.toNat)]) = some (nb, wd) from hq)
  simp only [Sys2Proof.fill] at he
  have p0 : wd / 2 ^ 0 = 5 + 2 ^ 7 * (d.toNat + 2 ^ 5 * (a.toNat + 2 ^ 5 * (0 + 2 ^ 3 * (i.toNat + 2 ^ 12 * 0)))) := by omega
  have ⟨m0, p1⟩ := peel p0 (by decide)
  have ⟨m1, p2⟩ := peel p1 (d.isLt)
  have ⟨m2, p3⟩ := peel p2 (a.isLt)
  have ⟨m3, p4⟩ := peel p3 (by decide)
  have ⟨m4, p5⟩ := peel p4 (i.isLt)
  have q0 : wd % 128 = 5 := (by simpa using m0)
  have q1 : bits 5 7 wd = d := bits_of m1
  have q2 : bits 5 12 wd = a := bits_of m2
  have q3 : field 3 17 wd = 0 := m3
  have q4 : bits 12 20 wd = i := bits_of m4
  exact .inr ⟨rfl, lt_of p5, par_of m0, by simp [decodeWord, decodeIntImm, q0, q1, q2, q3, q4]⟩
theorem EncodeDecode.andi (d : BitVec 5) (a : BitVec 5) (i : BitVec 12) : EncodeDecode.Statement (.andi d a i) := by
  intro hw nb wd hq
  obtain ⟨rfl, he⟩ := word_eq (show some (32, Sys2Proof.fill 0x20005 [(7, d.toNat), (12, a.toNat), (20, i.toNat)]) = some (nb, wd) from hq)
  simp only [Sys2Proof.fill] at he
  have p0 : wd / 2 ^ 0 = 5 + 2 ^ 7 * (d.toNat + 2 ^ 5 * (a.toNat + 2 ^ 5 * (1 + 2 ^ 3 * (i.toNat + 2 ^ 12 * 0)))) := by omega
  have ⟨m0, p1⟩ := peel p0 (by decide)
  have ⟨m1, p2⟩ := peel p1 (d.isLt)
  have ⟨m2, p3⟩ := peel p2 (a.isLt)
  have ⟨m3, p4⟩ := peel p3 (by decide)
  have ⟨m4, p5⟩ := peel p4 (i.isLt)
  have q0 : wd % 128 = 5 := (by simpa using m0)
  have q1 : bits 5 7 wd = d := bits_of m1
  have q2 : bits 5 12 wd = a := bits_of m2
  have q3 : field 3 17 wd = 1 := m3
  have q4 : bits 12 20 wd = i := bits_of m4
  exact .inr ⟨rfl, lt_of p5, par_of m0, by simp [decodeWord, decodeIntImm, q0, q1, q2, q3, q4]⟩
theorem EncodeDecode.ori (d : BitVec 5) (a : BitVec 5) (i : BitVec 12) : EncodeDecode.Statement (.ori d a i) := by
  intro hw nb wd hq
  obtain ⟨rfl, he⟩ := word_eq (show some (32, Sys2Proof.fill 0x40005 [(7, d.toNat), (12, a.toNat), (20, i.toNat)]) = some (nb, wd) from hq)
  simp only [Sys2Proof.fill] at he
  have p0 : wd / 2 ^ 0 = 5 + 2 ^ 7 * (d.toNat + 2 ^ 5 * (a.toNat + 2 ^ 5 * (2 + 2 ^ 3 * (i.toNat + 2 ^ 12 * 0)))) := by omega
  have ⟨m0, p1⟩ := peel p0 (by decide)
  have ⟨m1, p2⟩ := peel p1 (d.isLt)
  have ⟨m2, p3⟩ := peel p2 (a.isLt)
  have ⟨m3, p4⟩ := peel p3 (by decide)
  have ⟨m4, p5⟩ := peel p4 (i.isLt)
  have q0 : wd % 128 = 5 := (by simpa using m0)
  have q1 : bits 5 7 wd = d := bits_of m1
  have q2 : bits 5 12 wd = a := bits_of m2
  have q3 : field 3 17 wd = 2 := m3
  have q4 : bits 12 20 wd = i := bits_of m4
  exact .inr ⟨rfl, lt_of p5, par_of m0, by simp [decodeWord, decodeIntImm, q0, q1, q2, q3, q4]⟩
theorem EncodeDecode.xori (d : BitVec 5) (a : BitVec 5) (i : BitVec 12) : EncodeDecode.Statement (.xori d a i) := by
  intro hw nb wd hq
  obtain ⟨rfl, he⟩ := word_eq (show some (32, Sys2Proof.fill 0x60005 [(7, d.toNat), (12, a.toNat), (20, i.toNat)]) = some (nb, wd) from hq)
  simp only [Sys2Proof.fill] at he
  have p0 : wd / 2 ^ 0 = 5 + 2 ^ 7 * (d.toNat + 2 ^ 5 * (a.toNat + 2 ^ 5 * (3 + 2 ^ 3 * (i.toNat + 2 ^ 12 * 0)))) := by omega
  have ⟨m0, p1⟩ := peel p0 (by decide)
  have ⟨m1, p2⟩ := peel p1 (d.isLt)
  have ⟨m2, p3⟩ := peel p2 (a.isLt)
  have ⟨m3, p4⟩ := peel p3 (by decide)
  have ⟨m4, p5⟩ := peel p4 (i.isLt)
  have q0 : wd % 128 = 5 := (by simpa using m0)
  have q1 : bits 5 7 wd = d := bits_of m1
  have q2 : bits 5 12 wd = a := bits_of m2
  have q3 : field 3 17 wd = 3 := m3
  have q4 : bits 12 20 wd = i := bits_of m4
  exact .inr ⟨rfl, lt_of p5, par_of m0, by simp [decodeWord, decodeIntImm, q0, q1, q2, q3, q4]⟩
theorem EncodeDecode.slli (d : BitVec 5) (a : BitVec 5) (s : BitVec 6) : EncodeDecode.Statement (.slli d a s) := by
  intro hw nb wd hq
  obtain ⟨rfl, he⟩ := word_eq (show some (32, Sys2Proof.fill 0x80005 [(7, d.toNat), (12, a.toNat), (20, s.toNat)]) = some (nb, wd) from hq)
  simp only [Sys2Proof.fill] at he
  have p0 : wd / 2 ^ 0 = 5 + 2 ^ 7 * (d.toNat + 2 ^ 5 * (a.toNat + 2 ^ 5 * (4 + 2 ^ 3 * (s.toNat + 2 ^ 6 * (0 + 2 ^ 6 * 0))))) := by omega
  have ⟨m0, p1⟩ := peel p0 (by decide)
  have ⟨m1, p2⟩ := peel p1 (d.isLt)
  have ⟨m2, p3⟩ := peel p2 (a.isLt)
  have ⟨m3, p4⟩ := peel p3 (by decide)
  have ⟨m4, p5⟩ := peel p4 (s.isLt)
  have ⟨m5, p6⟩ := peel p5 (by decide)
  have q0 : wd % 128 = 5 := (by simpa using m0)
  have q1 : bits 5 7 wd = d := bits_of m1
  have q2 : bits 5 12 wd = a := bits_of m2
  have q3 : field 3 17 wd = 4 := m3
  have q4 : bits 6 20 wd = s := bits_of m4
  have q5 : field 6 26 wd = 0 := m5
  exact .inr ⟨rfl, lt_of p6, par_of m0, by simp [decodeWord, decodeIntImm, q0, q1, q2, q3, q4, q5]⟩
theorem EncodeDecode.srli (d : BitVec 5) (a : BitVec 5) (s : BitVec 6) : EncodeDecode.Statement (.srli d a s) := by
  intro hw nb wd hq
  obtain ⟨rfl, he⟩ := word_eq (show some (32, Sys2Proof.fill 0x40080005 [(7, d.toNat), (12, a.toNat), (20, s.toNat)]) = some (nb, wd) from hq)
  simp only [Sys2Proof.fill] at he
  have p0 : wd / 2 ^ 0 = 5 + 2 ^ 7 * (d.toNat + 2 ^ 5 * (a.toNat + 2 ^ 5 * (4 + 2 ^ 3 * (s.toNat + 2 ^ 6 * (16 + 2 ^ 6 * 0))))) := by omega
  have ⟨m0, p1⟩ := peel p0 (by decide)
  have ⟨m1, p2⟩ := peel p1 (d.isLt)
  have ⟨m2, p3⟩ := peel p2 (a.isLt)
  have ⟨m3, p4⟩ := peel p3 (by decide)
  have ⟨m4, p5⟩ := peel p4 (s.isLt)
  have ⟨m5, p6⟩ := peel p5 (by decide)
  have q0 : wd % 128 = 5 := (by simpa using m0)
  have q1 : bits 5 7 wd = d := bits_of m1
  have q2 : bits 5 12 wd = a := bits_of m2
  have q3 : field 3 17 wd = 4 := m3
  have q4 : bits 6 20 wd = s := bits_of m4
  have q5 : field 6 26 wd = 16 := m5
  exact .inr ⟨rfl, lt_of p6, par_of m0, by simp [decodeWord, decodeIntImm, q0, q1, q2, q3, q4, q5]⟩
theorem EncodeDecode.srai (d : BitVec 5) (a : BitVec 5) (s : BitVec 6) : EncodeDecode.Statement (.srai d a s) := by
  intro hw nb wd hq
  obtain ⟨rfl, he⟩ := word_eq (show some (32, Sys2Proof.fill 0x80080005 [(7, d.toNat), (12, a.toNat), (20, s.toNat)]) = some (nb, wd) from hq)
  simp only [Sys2Proof.fill] at he
  have p0 : wd / 2 ^ 0 = 5 + 2 ^ 7 * (d.toNat + 2 ^ 5 * (a.toNat + 2 ^ 5 * (4 + 2 ^ 3 * (s.toNat + 2 ^ 6 * (32 + 2 ^ 6 * 0))))) := by omega
  have ⟨m0, p1⟩ := peel p0 (by decide)
  have ⟨m1, p2⟩ := peel p1 (d.isLt)
  have ⟨m2, p3⟩ := peel p2 (a.isLt)
  have ⟨m3, p4⟩ := peel p3 (by decide)
  have ⟨m4, p5⟩ := peel p4 (s.isLt)
  have ⟨m5, p6⟩ := peel p5 (by decide)
  have q0 : wd % 128 = 5 := (by simpa using m0)
  have q1 : bits 5 7 wd = d := bits_of m1
  have q2 : bits 5 12 wd = a := bits_of m2
  have q3 : field 3 17 wd = 4 := m3
  have q4 : bits 6 20 wd = s := bits_of m4
  have q5 : field 6 26 wd = 32 := m5
  exact .inr ⟨rfl, lt_of p6, par_of m0, by simp [decodeWord, decodeIntImm, q0, q1, q2, q3, q4, q5]⟩
theorem EncodeDecode.slti (d : BitVec 5) (a : BitVec 5) (i : BitVec 12) : EncodeDecode.Statement (.slti d a i) := by
  intro hw nb wd hq
  obtain ⟨rfl, he⟩ := word_eq (show some (32, Sys2Proof.fill 0xa0005 [(7, d.toNat), (12, a.toNat), (20, i.toNat)]) = some (nb, wd) from hq)
  simp only [Sys2Proof.fill] at he
  have p0 : wd / 2 ^ 0 = 5 + 2 ^ 7 * (d.toNat + 2 ^ 5 * (a.toNat + 2 ^ 5 * (5 + 2 ^ 3 * (i.toNat + 2 ^ 12 * 0)))) := by omega
  have ⟨m0, p1⟩ := peel p0 (by decide)
  have ⟨m1, p2⟩ := peel p1 (d.isLt)
  have ⟨m2, p3⟩ := peel p2 (a.isLt)
  have ⟨m3, p4⟩ := peel p3 (by decide)
  have ⟨m4, p5⟩ := peel p4 (i.isLt)
  have q0 : wd % 128 = 5 := (by simpa using m0)
  have q1 : bits 5 7 wd = d := bits_of m1
  have q2 : bits 5 12 wd = a := bits_of m2
  have q3 : field 3 17 wd = 5 := m3
  have q4 : bits 12 20 wd = i := bits_of m4
  exact .inr ⟨rfl, lt_of p5, par_of m0, by simp [decodeWord, decodeIntImm, q0, q1, q2, q3, q4]⟩
theorem EncodeDecode.sltiu (d : BitVec 5) (a : BitVec 5) (i : BitVec 12) : EncodeDecode.Statement (.sltiu d a i) := by
  intro hw nb wd hq
  obtain ⟨rfl, he⟩ := word_eq (show some (32, Sys2Proof.fill 0xc0005 [(7, d.toNat), (12, a.toNat), (20, i.toNat)]) = some (nb, wd) from hq)
  simp only [Sys2Proof.fill] at he
  have p0 : wd / 2 ^ 0 = 5 + 2 ^ 7 * (d.toNat + 2 ^ 5 * (a.toNat + 2 ^ 5 * (6 + 2 ^ 3 * (i.toNat + 2 ^ 12 * 0)))) := by omega
  have ⟨m0, p1⟩ := peel p0 (by decide)
  have ⟨m1, p2⟩ := peel p1 (d.isLt)
  have ⟨m2, p3⟩ := peel p2 (a.isLt)
  have ⟨m3, p4⟩ := peel p3 (by decide)
  have ⟨m4, p5⟩ := peel p4 (i.isLt)
  have q0 : wd % 128 = 5 := (by simpa using m0)
  have q1 : bits 5 7 wd = d := bits_of m1
  have q2 : bits 5 12 wd = a := bits_of m2
  have q3 : field 3 17 wd = 6 := m3
  have q4 : bits 12 20 wd = i := bits_of m4
  exact .inr ⟨rfl, lt_of p5, par_of m0, by simp [decodeWord, decodeIntImm, q0, q1, q2, q3, q4]⟩
theorem EncodeDecode.lui (d : BitVec 5) (i : BitVec 19) : EncodeDecode.Statement (.lui d i) := by
  intro hw nb wd hq
  obtain ⟨rfl, he⟩ := word_eq (show some (32, Sys2Proof.fill 0x7 [(7, d.toNat), (13, i.toNat)]) = some (nb, wd) from hq)
  simp only [Sys2Proof.fill] at he
  have p0 : wd / 2 ^ 0 = 7 + 2 ^ 7 * (d.toNat + 2 ^ 5 * (0 + 2 ^ 1 * (i.toNat + 2 ^ 19 * 0))) := by omega
  have ⟨m0, p1⟩ := peel p0 (by decide)
  have ⟨m1, p2⟩ := peel p1 (d.isLt)
  have ⟨m2, p3⟩ := peel p2 (by decide)
  have ⟨m3, p4⟩ := peel p3 (i.isLt)
  have q0 : wd % 128 = 7 := (by simpa using m0)
  have q1 : bits 5 7 wd = d := bits_of m1
  have q2 : field 1 12 wd = 0 := m2
  have q3 : bits 19 13 wd = i := bits_of m3
  exact .inr ⟨rfl, lt_of p4, par_of m0, by simp [decodeWord, decodeUpper, q0, q1, q2, q3]⟩
theorem EncodeDecode.addpc (d : BitVec 5) (i : BitVec 19) : EncodeDecode.Statement (.addpc d i) := by
  intro hw nb wd hq
  obtain ⟨rfl, he⟩ := word_eq (show some (32, Sys2Proof.fill 0x1007 [(7, d.toNat), (13, i.toNat)]) = some (nb, wd) from hq)
  simp only [Sys2Proof.fill] at he
  have p0 : wd / 2 ^ 0 = 7 + 2 ^ 7 * (d.toNat + 2 ^ 5 * (1 + 2 ^ 1 * (i.toNat + 2 ^ 19 * 0))) := by omega
  have ⟨m0, p1⟩ := peel p0 (by decide)
  have ⟨m1, p2⟩ := peel p1 (d.isLt)
  have ⟨m2, p3⟩ := peel p2 (by decide)
  have ⟨m3, p4⟩ := peel p3 (i.isLt)
  have q0 : wd % 128 = 7 := (by simpa using m0)
  have q1 : bits 5 7 wd = d := bits_of m1
  have q2 : field 1 12 wd = 1 := m2
  have q3 : bits 19 13 wd = i := bits_of m3
  exact .inr ⟨rfl, lt_of p4, par_of m0, by simp [decodeWord, decodeUpper, q0, q1, q2, q3]⟩
theorem EncodeDecode.beq (a : BitVec 5) (b : BitVec 5) (i : BitVec 12) : EncodeDecode.Statement (.beq a b i) := by
  intro hw nb wd hq
  obtain ⟨rfl, he⟩ := word_eq (show some (32, Sys2Proof.fill 0x9 [(7, a.toNat), (12, b.toNat), (20, i.toNat)]) = some (nb, wd) from hq)
  simp only [Sys2Proof.fill] at he
  have p0 : wd / 2 ^ 0 = 9 + 2 ^ 7 * (a.toNat + 2 ^ 5 * (b.toNat + 2 ^ 5 * (0 + 2 ^ 3 * (i.toNat + 2 ^ 12 * 0)))) := by omega
  have ⟨m0, p1⟩ := peel p0 (by decide)
  have ⟨m1, p2⟩ := peel p1 (a.isLt)
  have ⟨m2, p3⟩ := peel p2 (b.isLt)
  have ⟨m3, p4⟩ := peel p3 (by decide)
  have ⟨m4, p5⟩ := peel p4 (i.isLt)
  have q0 : wd % 128 = 9 := (by simpa using m0)
  have q1 : bits 5 7 wd = a := bits_of m1
  have q2 : bits 5 12 wd = b := bits_of m2
  have q3 : field 3 17 wd = 0 := m3
  have q4 : bits 12 20 wd = i := bits_of m4
  exact .inr ⟨rfl, lt_of p5, par_of m0, by simp [decodeWord, decodeBranch, q0, q1, q2, q3, q4]⟩
theorem EncodeDecode.bne (a : BitVec 5) (b : BitVec 5) (i : BitVec 12) : EncodeDecode.Statement (.bne a b i) := by
  intro hw nb wd hq
  obtain ⟨rfl, he⟩ := word_eq (show some (32, Sys2Proof.fill 0x20009 [(7, a.toNat), (12, b.toNat), (20, i.toNat)]) = some (nb, wd) from hq)
  simp only [Sys2Proof.fill] at he
  have p0 : wd / 2 ^ 0 = 9 + 2 ^ 7 * (a.toNat + 2 ^ 5 * (b.toNat + 2 ^ 5 * (1 + 2 ^ 3 * (i.toNat + 2 ^ 12 * 0)))) := by omega
  have ⟨m0, p1⟩ := peel p0 (by decide)
  have ⟨m1, p2⟩ := peel p1 (a.isLt)
  have ⟨m2, p3⟩ := peel p2 (b.isLt)
  have ⟨m3, p4⟩ := peel p3 (by decide)
  have ⟨m4, p5⟩ := peel p4 (i.isLt)
  have q0 : wd % 128 = 9 := (by simpa using m0)
  have q1 : bits 5 7 wd = a := bits_of m1
  have q2 : bits 5 12 wd = b := bits_of m2
  have q3 : field 3 17 wd = 1 := m3
  have q4 : bits 12 20 wd = i := bits_of m4
  exact .inr ⟨rfl, lt_of p5, par_of m0, by simp [decodeWord, decodeBranch, q0, q1, q2, q3, q4]⟩
theorem EncodeDecode.blt (a : BitVec 5) (b : BitVec 5) (i : BitVec 12) : EncodeDecode.Statement (.blt a b i) := by
  intro hw nb wd hq
  obtain ⟨rfl, he⟩ := word_eq (show some (32, Sys2Proof.fill 0x40009 [(7, a.toNat), (12, b.toNat), (20, i.toNat)]) = some (nb, wd) from hq)
  simp only [Sys2Proof.fill] at he
  have p0 : wd / 2 ^ 0 = 9 + 2 ^ 7 * (a.toNat + 2 ^ 5 * (b.toNat + 2 ^ 5 * (2 + 2 ^ 3 * (i.toNat + 2 ^ 12 * 0)))) := by omega
  have ⟨m0, p1⟩ := peel p0 (by decide)
  have ⟨m1, p2⟩ := peel p1 (a.isLt)
  have ⟨m2, p3⟩ := peel p2 (b.isLt)
  have ⟨m3, p4⟩ := peel p3 (by decide)
  have ⟨m4, p5⟩ := peel p4 (i.isLt)
  have q0 : wd % 128 = 9 := (by simpa using m0)
  have q1 : bits 5 7 wd = a := bits_of m1
  have q2 : bits 5 12 wd = b := bits_of m2
  have q3 : field 3 17 wd = 2 := m3
  have q4 : bits 12 20 wd = i := bits_of m4
  exact .inr ⟨rfl, lt_of p5, par_of m0, by simp [decodeWord, decodeBranch, q0, q1, q2, q3, q4]⟩
theorem EncodeDecode.bge (a : BitVec 5) (b : BitVec 5) (i : BitVec 12) : EncodeDecode.Statement (.bge a b i) := by
  intro hw nb wd hq
  obtain ⟨rfl, he⟩ := word_eq (show some (32, Sys2Proof.fill 0x60009 [(7, a.toNat), (12, b.toNat), (20, i.toNat)]) = some (nb, wd) from hq)
  simp only [Sys2Proof.fill] at he
  have p0 : wd / 2 ^ 0 = 9 + 2 ^ 7 * (a.toNat + 2 ^ 5 * (b.toNat + 2 ^ 5 * (3 + 2 ^ 3 * (i.toNat + 2 ^ 12 * 0)))) := by omega
  have ⟨m0, p1⟩ := peel p0 (by decide)
  have ⟨m1, p2⟩ := peel p1 (a.isLt)
  have ⟨m2, p3⟩ := peel p2 (b.isLt)
  have ⟨m3, p4⟩ := peel p3 (by decide)
  have ⟨m4, p5⟩ := peel p4 (i.isLt)
  have q0 : wd % 128 = 9 := (by simpa using m0)
  have q1 : bits 5 7 wd = a := bits_of m1
  have q2 : bits 5 12 wd = b := bits_of m2
  have q3 : field 3 17 wd = 3 := m3
  have q4 : bits 12 20 wd = i := bits_of m4
  exact .inr ⟨rfl, lt_of p5, par_of m0, by simp [decodeWord, decodeBranch, q0, q1, q2, q3, q4]⟩
theorem EncodeDecode.bltu (a : BitVec 5) (b : BitVec 5) (i : BitVec 12) : EncodeDecode.Statement (.bltu a b i) := by
  intro hw nb wd hq
  obtain ⟨rfl, he⟩ := word_eq (show some (32, Sys2Proof.fill 0x80009 [(7, a.toNat), (12, b.toNat), (20, i.toNat)]) = some (nb, wd) from hq)
  simp only [Sys2Proof.fill] at he
  have p0 : wd / 2 ^ 0 = 9 + 2 ^ 7 * (a.toNat + 2 ^ 5 * (b.toNat + 2 ^ 5 * (4 + 2 ^ 3 * (i.toNat + 2 ^ 12 * 0)))) := by omega
  have ⟨m0, p1⟩ := peel p0 (by decide)
  have ⟨m1, p2⟩ := peel p1 (a.isLt)
  have ⟨m2, p3⟩ := peel p2 (b.isLt)
  have ⟨m3, p4⟩ := peel p3 (by decide)
  have ⟨m4, p5⟩ := peel p4 (i.isLt)
  have q0 : wd % 128 = 9 := (by simpa using m0)
  have q1 : bits 5 7 wd = a := bits_of m1
  have q2 : bits 5 12 wd = b := bits_of m2
  have q3 : field 3 17 wd = 4 := m3
  have q4 : bits 12 20 wd = i := bits_of m4
  exact .inr ⟨rfl, lt_of p5, par_of m0, by simp [decodeWord, decodeBranch, q0, q1, q2, q3, q4]⟩
theorem EncodeDecode.bgeu (a : BitVec 5) (b : BitVec 5) (i : BitVec 12) : EncodeDecode.Statement (.bgeu a b i) := by
  intro hw nb wd hq
  obtain ⟨rfl, he⟩ := word_eq (show some (32, Sys2Proof.fill 0xa0009 [(7, a.toNat), (12, b.toNat), (20, i.toNat)]) = some (nb, wd) from hq)
  simp only [Sys2Proof.fill] at he
  have p0 : wd / 2 ^ 0 = 9 + 2 ^ 7 * (a.toNat + 2 ^ 5 * (b.toNat + 2 ^ 5 * (5 + 2 ^ 3 * (i.toNat + 2 ^ 12 * 0)))) := by omega
  have ⟨m0, p1⟩ := peel p0 (by decide)
  have ⟨m1, p2⟩ := peel p1 (a.isLt)
  have ⟨m2, p3⟩ := peel p2 (b.isLt)
  have ⟨m3, p4⟩ := peel p3 (by decide)
  have ⟨m4, p5⟩ := peel p4 (i.isLt)
  have q0 : wd % 128 = 9 := (by simpa using m0)
  have q1 : bits 5 7 wd = a := bits_of m1
  have q2 : bits 5 12 wd = b := bits_of m2
  have q3 : field 3 17 wd = 5 := m3
  have q4 : bits 12 20 wd = i := bits_of m4
  exact .inr ⟨rfl, lt_of p5, par_of m0, by simp [decodeWord, decodeBranch, q0, q1, q2, q3, q4]⟩
theorem EncodeDecode.jal (d : BitVec 5) (i : BitVec 20) : EncodeDecode.Statement (.jal d i) := by
  intro hw nb wd hq
  obtain ⟨rfl, he⟩ := word_eq (show some (32, Sys2Proof.fill 0xb [(7, d.toNat), (12, i.toNat)]) = some (nb, wd) from hq)
  simp only [Sys2Proof.fill] at he
  have p0 : wd / 2 ^ 0 = 11 + 2 ^ 7 * (d.toNat + 2 ^ 5 * (i.toNat + 2 ^ 20 * 0)) := by omega
  have ⟨m0, p1⟩ := peel p0 (by decide)
  have ⟨m1, p2⟩ := peel p1 (d.isLt)
  have ⟨m2, p3⟩ := peel p2 (i.isLt)
  have q0 : wd % 128 = 11 := (by simpa using m0)
  have q1 : bits 5 7 wd = d := bits_of m1
  have q2 : bits 20 12 wd = i := bits_of m2
  exact .inr ⟨rfl, lt_of p3, par_of m0, by simp [decodeWord, decodeJal, q0, q1, q2]⟩
theorem EncodeDecode.jalr (d : BitVec 5) (a : BitVec 5) (i : BitVec 15) : EncodeDecode.Statement (.jalr d a i) := by
  intro hw nb wd hq
  obtain ⟨rfl, he⟩ := word_eq (show some (32, Sys2Proof.fill 0xd [(7, d.toNat), (12, a.toNat), (17, i.toNat)]) = some (nb, wd) from hq)
  simp only [Sys2Proof.fill] at he
  have p0 : wd / 2 ^ 0 = 13 + 2 ^ 7 * (d.toNat + 2 ^ 5 * (a.toNat + 2 ^ 5 * (i.toNat + 2 ^ 15 * 0))) := by omega
  have ⟨m0, p1⟩ := peel p0 (by decide)
  have ⟨m1, p2⟩ := peel p1 (d.isLt)
  have ⟨m2, p3⟩ := peel p2 (a.isLt)
  have ⟨m3, p4⟩ := peel p3 (i.isLt)
  have q0 : wd % 128 = 13 := (by simpa using m0)
  have q1 : bits 5 7 wd = d := bits_of m1
  have q2 : bits 5 12 wd = a := bits_of m2
  have q3 : bits 15 17 wd = i := bits_of m3
  exact .inr ⟨rfl, lt_of p4, par_of m0, by simp [decodeWord, decodeJalr, q0, q1, q2, q3]⟩
theorem EncodeDecode.fadd (d : BitVec 5) (a : BitVec 5) (b : BitVec 5) (r : Rnd) (p : Prec) : EncodeDecode.Statement (.fadd d a b r p) := by
  intro hw nb wd hq
  obtain ⟨rfl, he⟩ := word_eq (show some (32, Sys2Proof.fill 0xf [(7, d.toNat), (12, a.toNat), (17, b.toNat), (22, r.code), (25, p.code)]) = some (nb, wd) from hq)
  simp only [Sys2Proof.fill] at he
  have p0 : wd / 2 ^ 0 = 15 + 2 ^ 7 * (d.toNat + 2 ^ 5 * (a.toNat + 2 ^ 5 * (b.toNat + 2 ^ 5 * (r.code + 2 ^ 3 * (p.code + 2 ^ 1 * (0 + 2 ^ 6 * 0)))))) := by omega
  have ⟨m0, p1⟩ := peel p0 (by decide)
  have ⟨m1, p2⟩ := peel p1 (d.isLt)
  have ⟨m2, p3⟩ := peel p2 (a.isLt)
  have ⟨m3, p4⟩ := peel p3 (b.isLt)
  have ⟨m4, p5⟩ := peel p4 (Rnd.code_lt r)
  have ⟨m5, p6⟩ := peel p5 (Prec.code_lt p)
  have ⟨m6, p7⟩ := peel p6 (by decide)
  have q0 : wd % 128 = 15 := (by simpa using m0)
  have q1 : bits 5 7 wd = d := bits_of m1
  have q2 : bits 5 12 wd = a := bits_of m2
  have q3 : bits 5 17 wd = b := bits_of m3
  have q4 : field 3 22 wd = r.code := m4
  have q5 : field 1 25 wd = p.code := m5
  have q6 : field 6 26 wd = 0 := m6
  exact .inr ⟨rfl, lt_of p7, par_of m0, by simp [decodeWord, decodeScalarFp, q0, q1, q2, q3, q4, q5, q6, Prec.ofCode_code, Rnd.ofCode_code]⟩
theorem EncodeDecode.fsub (d : BitVec 5) (a : BitVec 5) (b : BitVec 5) (r : Rnd) (p : Prec) : EncodeDecode.Statement (.fsub d a b r p) := by
  intro hw nb wd hq
  obtain ⟨rfl, he⟩ := word_eq (show some (32, Sys2Proof.fill 0x400000f [(7, d.toNat), (12, a.toNat), (17, b.toNat), (22, r.code), (25, p.code)]) = some (nb, wd) from hq)
  simp only [Sys2Proof.fill] at he
  have p0 : wd / 2 ^ 0 = 15 + 2 ^ 7 * (d.toNat + 2 ^ 5 * (a.toNat + 2 ^ 5 * (b.toNat + 2 ^ 5 * (r.code + 2 ^ 3 * (p.code + 2 ^ 1 * (1 + 2 ^ 6 * 0)))))) := by omega
  have ⟨m0, p1⟩ := peel p0 (by decide)
  have ⟨m1, p2⟩ := peel p1 (d.isLt)
  have ⟨m2, p3⟩ := peel p2 (a.isLt)
  have ⟨m3, p4⟩ := peel p3 (b.isLt)
  have ⟨m4, p5⟩ := peel p4 (Rnd.code_lt r)
  have ⟨m5, p6⟩ := peel p5 (Prec.code_lt p)
  have ⟨m6, p7⟩ := peel p6 (by decide)
  have q0 : wd % 128 = 15 := (by simpa using m0)
  have q1 : bits 5 7 wd = d := bits_of m1
  have q2 : bits 5 12 wd = a := bits_of m2
  have q3 : bits 5 17 wd = b := bits_of m3
  have q4 : field 3 22 wd = r.code := m4
  have q5 : field 1 25 wd = p.code := m5
  have q6 : field 6 26 wd = 1 := m6
  exact .inr ⟨rfl, lt_of p7, par_of m0, by simp [decodeWord, decodeScalarFp, q0, q1, q2, q3, q4, q5, q6, Prec.ofCode_code, Rnd.ofCode_code]⟩
theorem EncodeDecode.fmul (d : BitVec 5) (a : BitVec 5) (b : BitVec 5) (r : Rnd) (p : Prec) : EncodeDecode.Statement (.fmul d a b r p) := by
  intro hw nb wd hq
  obtain ⟨rfl, he⟩ := word_eq (show some (32, Sys2Proof.fill 0x800000f [(7, d.toNat), (12, a.toNat), (17, b.toNat), (22, r.code), (25, p.code)]) = some (nb, wd) from hq)
  simp only [Sys2Proof.fill] at he
  have p0 : wd / 2 ^ 0 = 15 + 2 ^ 7 * (d.toNat + 2 ^ 5 * (a.toNat + 2 ^ 5 * (b.toNat + 2 ^ 5 * (r.code + 2 ^ 3 * (p.code + 2 ^ 1 * (2 + 2 ^ 6 * 0)))))) := by omega
  have ⟨m0, p1⟩ := peel p0 (by decide)
  have ⟨m1, p2⟩ := peel p1 (d.isLt)
  have ⟨m2, p3⟩ := peel p2 (a.isLt)
  have ⟨m3, p4⟩ := peel p3 (b.isLt)
  have ⟨m4, p5⟩ := peel p4 (Rnd.code_lt r)
  have ⟨m5, p6⟩ := peel p5 (Prec.code_lt p)
  have ⟨m6, p7⟩ := peel p6 (by decide)
  have q0 : wd % 128 = 15 := (by simpa using m0)
  have q1 : bits 5 7 wd = d := bits_of m1
  have q2 : bits 5 12 wd = a := bits_of m2
  have q3 : bits 5 17 wd = b := bits_of m3
  have q4 : field 3 22 wd = r.code := m4
  have q5 : field 1 25 wd = p.code := m5
  have q6 : field 6 26 wd = 2 := m6
  exact .inr ⟨rfl, lt_of p7, par_of m0, by simp [decodeWord, decodeScalarFp, q0, q1, q2, q3, q4, q5, q6, Prec.ofCode_code, Rnd.ofCode_code]⟩
theorem EncodeDecode.fma (d : BitVec 5) (a : BitVec 5) (b : BitVec 5) (r : Rnd) (p : Prec) : EncodeDecode.Statement (.fma d a b r p) := by
  intro hw nb wd hq
  obtain ⟨rfl, he⟩ := word_eq (show some (32, Sys2Proof.fill 0xc00000f [(7, d.toNat), (12, a.toNat), (17, b.toNat), (22, r.code), (25, p.code)]) = some (nb, wd) from hq)
  simp only [Sys2Proof.fill] at he
  have p0 : wd / 2 ^ 0 = 15 + 2 ^ 7 * (d.toNat + 2 ^ 5 * (a.toNat + 2 ^ 5 * (b.toNat + 2 ^ 5 * (r.code + 2 ^ 3 * (p.code + 2 ^ 1 * (3 + 2 ^ 6 * 0)))))) := by omega
  have ⟨m0, p1⟩ := peel p0 (by decide)
  have ⟨m1, p2⟩ := peel p1 (d.isLt)
  have ⟨m2, p3⟩ := peel p2 (a.isLt)
  have ⟨m3, p4⟩ := peel p3 (b.isLt)
  have ⟨m4, p5⟩ := peel p4 (Rnd.code_lt r)
  have ⟨m5, p6⟩ := peel p5 (Prec.code_lt p)
  have ⟨m6, p7⟩ := peel p6 (by decide)
  have q0 : wd % 128 = 15 := (by simpa using m0)
  have q1 : bits 5 7 wd = d := bits_of m1
  have q2 : bits 5 12 wd = a := bits_of m2
  have q3 : bits 5 17 wd = b := bits_of m3
  have q4 : field 3 22 wd = r.code := m4
  have q5 : field 1 25 wd = p.code := m5
  have q6 : field 6 26 wd = 3 := m6
  exact .inr ⟨rfl, lt_of p7, par_of m0, by simp [decodeWord, decodeScalarFp, q0, q1, q2, q3, q4, q5, q6, Prec.ofCode_code, Rnd.ofCode_code]⟩
theorem EncodeDecode.fdiv (d : BitVec 5) (a : BitVec 5) (b : BitVec 5) (r : Rnd) (p : Prec) : EncodeDecode.Statement (.fdiv d a b r p) := by
  intro hw nb wd hq
  obtain ⟨rfl, he⟩ := word_eq (show some (32, Sys2Proof.fill 0x1000000f [(7, d.toNat), (12, a.toNat), (17, b.toNat), (22, r.code), (25, p.code)]) = some (nb, wd) from hq)
  simp only [Sys2Proof.fill] at he
  have p0 : wd / 2 ^ 0 = 15 + 2 ^ 7 * (d.toNat + 2 ^ 5 * (a.toNat + 2 ^ 5 * (b.toNat + 2 ^ 5 * (r.code + 2 ^ 3 * (p.code + 2 ^ 1 * (4 + 2 ^ 6 * 0)))))) := by omega
  have ⟨m0, p1⟩ := peel p0 (by decide)
  have ⟨m1, p2⟩ := peel p1 (d.isLt)
  have ⟨m2, p3⟩ := peel p2 (a.isLt)
  have ⟨m3, p4⟩ := peel p3 (b.isLt)
  have ⟨m4, p5⟩ := peel p4 (Rnd.code_lt r)
  have ⟨m5, p6⟩ := peel p5 (Prec.code_lt p)
  have ⟨m6, p7⟩ := peel p6 (by decide)
  have q0 : wd % 128 = 15 := (by simpa using m0)
  have q1 : bits 5 7 wd = d := bits_of m1
  have q2 : bits 5 12 wd = a := bits_of m2
  have q3 : bits 5 17 wd = b := bits_of m3
  have q4 : field 3 22 wd = r.code := m4
  have q5 : field 1 25 wd = p.code := m5
  have q6 : field 6 26 wd = 4 := m6
  exact .inr ⟨rfl, lt_of p7, par_of m0, by simp [decodeWord, decodeScalarFp, q0, q1, q2, q3, q4, q5, q6, Prec.ofCode_code, Rnd.ofCode_code]⟩
theorem EncodeDecode.fsqrt (d : BitVec 5) (a : BitVec 5) (r : Rnd) (p : Prec) : EncodeDecode.Statement (.fsqrt d a r p) := by
  intro hw nb wd hq
  obtain ⟨rfl, he⟩ := word_eq (show some (32, Sys2Proof.fill 0x1400000f [(7, d.toNat), (12, a.toNat), (22, r.code), (25, p.code)]) = some (nb, wd) from hq)
  simp only [Sys2Proof.fill] at he
  have p0 : wd / 2 ^ 0 = 15 + 2 ^ 7 * (d.toNat + 2 ^ 5 * (a.toNat + 2 ^ 5 * (0 + 2 ^ 5 * (r.code + 2 ^ 3 * (p.code + 2 ^ 1 * (5 + 2 ^ 6 * 0)))))) := by omega
  have ⟨m0, p1⟩ := peel p0 (by decide)
  have ⟨m1, p2⟩ := peel p1 (d.isLt)
  have ⟨m2, p3⟩ := peel p2 (a.isLt)
  have ⟨m3, p4⟩ := peel p3 (by decide)
  have ⟨m4, p5⟩ := peel p4 (Rnd.code_lt r)
  have ⟨m5, p6⟩ := peel p5 (Prec.code_lt p)
  have ⟨m6, p7⟩ := peel p6 (by decide)
  have q0 : wd % 128 = 15 := (by simpa using m0)
  have q1 : bits 5 7 wd = d := bits_of m1
  have q2 : bits 5 12 wd = a := bits_of m2
  have q3 : field 5 17 wd = 0 := m3
  have q4 : field 3 22 wd = r.code := m4
  have q5 : field 1 25 wd = p.code := m5
  have q6 : field 6 26 wd = 5 := m6
  exact .inr ⟨rfl, lt_of p7, par_of m0, by simp [decodeWord, decodeScalarFp, q0, q1, q2, q3, q4, q5, q6, Prec.ofCode_code, Rnd.ofCode_code]⟩
theorem EncodeDecode.fmin (d : BitVec 5) (a : BitVec 5) (b : BitVec 5) (p : Prec) : EncodeDecode.Statement (.fmin d a b p) := by
  intro hw nb wd hq
  obtain ⟨rfl, he⟩ := word_eq (show some (32, Sys2Proof.fill 0x1800000f [(7, d.toNat), (12, a.toNat), (17, b.toNat), (25, p.code)]) = some (nb, wd) from hq)
  simp only [Sys2Proof.fill] at he
  have p0 : wd / 2 ^ 0 = 15 + 2 ^ 7 * (d.toNat + 2 ^ 5 * (a.toNat + 2 ^ 5 * (b.toNat + 2 ^ 5 * (0 + 2 ^ 3 * (p.code + 2 ^ 1 * (6 + 2 ^ 6 * 0)))))) := by omega
  have ⟨m0, p1⟩ := peel p0 (by decide)
  have ⟨m1, p2⟩ := peel p1 (d.isLt)
  have ⟨m2, p3⟩ := peel p2 (a.isLt)
  have ⟨m3, p4⟩ := peel p3 (b.isLt)
  have ⟨m4, p5⟩ := peel p4 (by decide)
  have ⟨m5, p6⟩ := peel p5 (Prec.code_lt p)
  have ⟨m6, p7⟩ := peel p6 (by decide)
  have q0 : wd % 128 = 15 := (by simpa using m0)
  have q1 : bits 5 7 wd = d := bits_of m1
  have q2 : bits 5 12 wd = a := bits_of m2
  have q3 : bits 5 17 wd = b := bits_of m3
  have q4 : field 3 22 wd = 0 := m4
  have q5 : field 1 25 wd = p.code := m5
  have q6 : field 6 26 wd = 6 := m6
  exact .inr ⟨rfl, lt_of p7, par_of m0, by simp [decodeWord, decodeScalarFp, q0, q1, q2, q3, q4, q5, q6, Prec.ofCode_code]⟩
theorem EncodeDecode.fmax (d : BitVec 5) (a : BitVec 5) (b : BitVec 5) (p : Prec) : EncodeDecode.Statement (.fmax d a b p) := by
  intro hw nb wd hq
  obtain ⟨rfl, he⟩ := word_eq (show some (32, Sys2Proof.fill 0x1c00000f [(7, d.toNat), (12, a.toNat), (17, b.toNat), (25, p.code)]) = some (nb, wd) from hq)
  simp only [Sys2Proof.fill] at he
  have p0 : wd / 2 ^ 0 = 15 + 2 ^ 7 * (d.toNat + 2 ^ 5 * (a.toNat + 2 ^ 5 * (b.toNat + 2 ^ 5 * (0 + 2 ^ 3 * (p.code + 2 ^ 1 * (7 + 2 ^ 6 * 0)))))) := by omega
  have ⟨m0, p1⟩ := peel p0 (by decide)
  have ⟨m1, p2⟩ := peel p1 (d.isLt)
  have ⟨m2, p3⟩ := peel p2 (a.isLt)
  have ⟨m3, p4⟩ := peel p3 (b.isLt)
  have ⟨m4, p5⟩ := peel p4 (by decide)
  have ⟨m5, p6⟩ := peel p5 (Prec.code_lt p)
  have ⟨m6, p7⟩ := peel p6 (by decide)
  have q0 : wd % 128 = 15 := (by simpa using m0)
  have q1 : bits 5 7 wd = d := bits_of m1
  have q2 : bits 5 12 wd = a := bits_of m2
  have q3 : bits 5 17 wd = b := bits_of m3
  have q4 : field 3 22 wd = 0 := m4
  have q5 : field 1 25 wd = p.code := m5
  have q6 : field 6 26 wd = 7 := m6
  exact .inr ⟨rfl, lt_of p7, par_of m0, by simp [decodeWord, decodeScalarFp, q0, q1, q2, q3, q4, q5, q6, Prec.ofCode_code]⟩
theorem EncodeDecode.fcmp (d : BitVec 5) (a : BitVec 5) (b : BitVec 5) (c : FCond) (p : Prec) : EncodeDecode.Statement (.fcmp d a b c p) := by
  intro hw nb wd hq
  obtain ⟨rfl, he⟩ := word_eq (show some (32, Sys2Proof.fill 0x2000000f [(7, d.toNat), (12, a.toNat), (17, b.toNat), (22, c.code), (25, p.code)]) = some (nb, wd) from hq)
  simp only [Sys2Proof.fill] at he
  have p0 : wd / 2 ^ 0 = 15 + 2 ^ 7 * (d.toNat + 2 ^ 5 * (a.toNat + 2 ^ 5 * (b.toNat + 2 ^ 5 * (c.code + 2 ^ 3 * (p.code + 2 ^ 1 * (8 + 2 ^ 6 * 0)))))) := by omega
  have ⟨m0, p1⟩ := peel p0 (by decide)
  have ⟨m1, p2⟩ := peel p1 (d.isLt)
  have ⟨m2, p3⟩ := peel p2 (a.isLt)
  have ⟨m3, p4⟩ := peel p3 (b.isLt)
  have ⟨m4, p5⟩ := peel p4 (FCond.code_lt c)
  have ⟨m5, p6⟩ := peel p5 (Prec.code_lt p)
  have ⟨m6, p7⟩ := peel p6 (by decide)
  have q0 : wd % 128 = 15 := (by simpa using m0)
  have q1 : bits 5 7 wd = d := bits_of m1
  have q2 : bits 5 12 wd = a := bits_of m2
  have q3 : bits 5 17 wd = b := bits_of m3
  have q4 : field 3 22 wd = c.code := m4
  have q5 : field 1 25 wd = p.code := m5
  have q6 : field 6 26 wd = 8 := m6
  exact .inr ⟨rfl, lt_of p7, par_of m0, by simp [decodeWord, decodeScalarFp, q0, q1, q2, q3, q4, q5, q6, FCond.ofCode_code, Prec.ofCode_code]⟩
theorem EncodeDecode.fcvt (d : BitVec 5) (a : BitVec 5) (s : Conv) (r : Rnd) (p : Prec) : EncodeDecode.Statement (.fcvt d a s r p) := by
  intro hw nb wd hq
  obtain ⟨rfl, he⟩ := word_eq (show some (32, Sys2Proof.fill 0x2400000f [(7, d.toNat), (12, a.toNat), (17, s.code), (22, r.code), (25, p.code)]) = some (nb, wd) from hq)
  simp only [Sys2Proof.fill] at he
  have p0 : wd / 2 ^ 0 = 15 + 2 ^ 7 * (d.toNat + 2 ^ 5 * (a.toNat + 2 ^ 5 * (s.code + 2 ^ 5 * (r.code + 2 ^ 3 * (p.code + 2 ^ 1 * (9 + 2 ^ 6 * 0)))))) := by omega
  have ⟨m0, p1⟩ := peel p0 (by decide)
  have ⟨m1, p2⟩ := peel p1 (d.isLt)
  have ⟨m2, p3⟩ := peel p2 (a.isLt)
  have ⟨m3, p4⟩ := peel p3 (Conv.code_lt s)
  have ⟨m4, p5⟩ := peel p4 (Rnd.code_lt r)
  have ⟨m5, p6⟩ := peel p5 (Prec.code_lt p)
  have ⟨m6, p7⟩ := peel p6 (by decide)
  have q0 : wd % 128 = 15 := (by simpa using m0)
  have q1 : bits 5 7 wd = d := bits_of m1
  have q2 : bits 5 12 wd = a := bits_of m2
  have q3 : field 5 17 wd = s.code := m3
  have q4 : field 3 22 wd = r.code := m4
  have q5 : field 1 25 wd = p.code := m5
  have q6 : field 6 26 wd = 9 := m6
  exact .inr ⟨rfl, lt_of p7, par_of m0, by simp [decodeWord, decodeScalarFp, q0, q1, q2, q3, q4, q5, q6, Conv.ofCode_code, Prec.ofCode_code, Rnd.ofCode_code]⟩
theorem EncodeDecode.fclass (d : BitVec 5) (a : BitVec 5) (p : Prec) : EncodeDecode.Statement (.fclass d a p) := by
  intro hw nb wd hq
  obtain ⟨rfl, he⟩ := word_eq (show some (32, Sys2Proof.fill 0x2800000f [(7, d.toNat), (12, a.toNat), (25, p.code)]) = some (nb, wd) from hq)
  simp only [Sys2Proof.fill] at he
  have p0 : wd / 2 ^ 0 = 15 + 2 ^ 7 * (d.toNat + 2 ^ 5 * (a.toNat + 2 ^ 5 * (0 + 2 ^ 8 * (p.code + 2 ^ 1 * (10 + 2 ^ 6 * 0))))) := by omega
  have ⟨m0, p1⟩ := peel p0 (by decide)
  have ⟨m1, p2⟩ := peel p1 (d.isLt)
  have ⟨m2, p3⟩ := peel p2 (a.isLt)
  have ⟨m3, p4⟩ := peel p3 (by decide)
  have ⟨m4, p5⟩ := peel p4 (Prec.code_lt p)
  have ⟨m5, p6⟩ := peel p5 (by decide)
  have q0 : wd % 128 = 15 := (by simpa using m0)
  have q1 : bits 5 7 wd = d := bits_of m1
  have q2 : bits 5 12 wd = a := bits_of m2
  have q3 : field 8 17 wd = 0 := m3
  have q4 : field 1 25 wd = p.code := m4
  have q5 : field 6 26 wd = 10 := m5
  exact .inr ⟨rfl, lt_of p6, par_of m0, by simp [decodeWord, decodeScalarFp, q0, q1, q2, q3, q4, q5, Prec.ofCode_code]⟩
theorem EncodeDecode.ldB (d : BitVec 5) (h : BitVec 4) (x : BitVec 5) (i : BitVec 8) : EncodeDecode.Statement (.ldB d h x i) := by
  intro hw nb wd hq
  obtain ⟨rfl, he⟩ := word_eq (show some (32, Sys2Proof.fill 0x11 [(7, d.toNat), (12, h.toNat), (16, x.toNat), (24, i.toNat)]) = some (nb, wd) from hq)
  simp only [Sys2Proof.fill] at he
  have p0 : wd / 2 ^ 0 = 17 + 2 ^ 7 * (d.toNat + 2 ^ 5 * (h.toNat + 2 ^ 4 * (x.toNat + 2 ^ 5 * (0 + 2 ^ 3 * (i.toNat + 2 ^ 8 * 0))))) := by omega
  have ⟨m0, p1⟩ := peel p0 (by decide)
  have ⟨m1, p2⟩ := peel p1 (d.isLt)
  have ⟨m2, p3⟩ := peel p2 (h.isLt)
  have ⟨m3, p4⟩ := peel p3 (x.isLt)
  have ⟨m4, p5⟩ := peel p4 (by decide)
  have ⟨m5, p6⟩ := peel p5 (i.isLt)
  have q0 : wd % 128 = 17 := (by simpa using m0)
  have q1 : bits 5 7 wd = d := bits_of m1
  have q2 : bits 4 12 wd = h := bits_of m2
  have q3 : bits 5 16 wd = x := bits_of m3
  have q4 : field 3 21 wd = 0 := m4
  have q5 : bits 8 24 wd = i := bits_of m5
  exact .inr ⟨rfl, lt_of p6, par_of m0, by simp [decodeWord, decodeLoad, q0, q1, q2, q3, q4, q5]⟩
theorem EncodeDecode.ldBu (d : BitVec 5) (h : BitVec 4) (x : BitVec 5) (i : BitVec 8) : EncodeDecode.Statement (.ldBu d h x i) := by
  intro hw nb wd hq
  obtain ⟨rfl, he⟩ := word_eq (show some (32, Sys2Proof.fill 0x200011 [(7, d.toNat), (12, h.toNat), (16, x.toNat), (24, i.toNat)]) = some (nb, wd) from hq)
  simp only [Sys2Proof.fill] at he
  have p0 : wd / 2 ^ 0 = 17 + 2 ^ 7 * (d.toNat + 2 ^ 5 * (h.toNat + 2 ^ 4 * (x.toNat + 2 ^ 5 * (1 + 2 ^ 3 * (i.toNat + 2 ^ 8 * 0))))) := by omega
  have ⟨m0, p1⟩ := peel p0 (by decide)
  have ⟨m1, p2⟩ := peel p1 (d.isLt)
  have ⟨m2, p3⟩ := peel p2 (h.isLt)
  have ⟨m3, p4⟩ := peel p3 (x.isLt)
  have ⟨m4, p5⟩ := peel p4 (by decide)
  have ⟨m5, p6⟩ := peel p5 (i.isLt)
  have q0 : wd % 128 = 17 := (by simpa using m0)
  have q1 : bits 5 7 wd = d := bits_of m1
  have q2 : bits 4 12 wd = h := bits_of m2
  have q3 : bits 5 16 wd = x := bits_of m3
  have q4 : field 3 21 wd = 1 := m4
  have q5 : bits 8 24 wd = i := bits_of m5
  exact .inr ⟨rfl, lt_of p6, par_of m0, by simp [decodeWord, decodeLoad, q0, q1, q2, q3, q4, q5]⟩
theorem EncodeDecode.ldH (d : BitVec 5) (h : BitVec 4) (x : BitVec 5) (i : BitVec 8) : EncodeDecode.Statement (.ldH d h x i) := by
  intro hw nb wd hq
  obtain ⟨rfl, he⟩ := word_eq (show some (32, Sys2Proof.fill 0x400011 [(7, d.toNat), (12, h.toNat), (16, x.toNat), (24, i.toNat)]) = some (nb, wd) from hq)
  simp only [Sys2Proof.fill] at he
  have p0 : wd / 2 ^ 0 = 17 + 2 ^ 7 * (d.toNat + 2 ^ 5 * (h.toNat + 2 ^ 4 * (x.toNat + 2 ^ 5 * (2 + 2 ^ 3 * (i.toNat + 2 ^ 8 * 0))))) := by omega
  have ⟨m0, p1⟩ := peel p0 (by decide)
  have ⟨m1, p2⟩ := peel p1 (d.isLt)
  have ⟨m2, p3⟩ := peel p2 (h.isLt)
  have ⟨m3, p4⟩ := peel p3 (x.isLt)
  have ⟨m4, p5⟩ := peel p4 (by decide)
  have ⟨m5, p6⟩ := peel p5 (i.isLt)
  have q0 : wd % 128 = 17 := (by simpa using m0)
  have q1 : bits 5 7 wd = d := bits_of m1
  have q2 : bits 4 12 wd = h := bits_of m2
  have q3 : bits 5 16 wd = x := bits_of m3
  have q4 : field 3 21 wd = 2 := m4
  have q5 : bits 8 24 wd = i := bits_of m5
  exact .inr ⟨rfl, lt_of p6, par_of m0, by simp [decodeWord, decodeLoad, q0, q1, q2, q3, q4, q5]⟩
theorem EncodeDecode.ldHu (d : BitVec 5) (h : BitVec 4) (x : BitVec 5) (i : BitVec 8) : EncodeDecode.Statement (.ldHu d h x i) := by
  intro hw nb wd hq
  obtain ⟨rfl, he⟩ := word_eq (show some (32, Sys2Proof.fill 0x600011 [(7, d.toNat), (12, h.toNat), (16, x.toNat), (24, i.toNat)]) = some (nb, wd) from hq)
  simp only [Sys2Proof.fill] at he
  have p0 : wd / 2 ^ 0 = 17 + 2 ^ 7 * (d.toNat + 2 ^ 5 * (h.toNat + 2 ^ 4 * (x.toNat + 2 ^ 5 * (3 + 2 ^ 3 * (i.toNat + 2 ^ 8 * 0))))) := by omega
  have ⟨m0, p1⟩ := peel p0 (by decide)
  have ⟨m1, p2⟩ := peel p1 (d.isLt)
  have ⟨m2, p3⟩ := peel p2 (h.isLt)
  have ⟨m3, p4⟩ := peel p3 (x.isLt)
  have ⟨m4, p5⟩ := peel p4 (by decide)
  have ⟨m5, p6⟩ := peel p5 (i.isLt)
  have q0 : wd % 128 = 17 := (by simpa using m0)
  have q1 : bits 5 7 wd = d := bits_of m1
  have q2 : bits 4 12 wd = h := bits_of m2
  have q3 : bits 5 16 wd = x := bits_of m3
  have q4 : field 3 21 wd = 3 := m4
  have q5 : bits 8 24 wd = i := bits_of m5
  exact .inr ⟨rfl, lt_of p6, par_of m0, by simp [decodeWord, decodeLoad, q0, q1, q2, q3, q4, q5]⟩
theorem EncodeDecode.ldW (d : BitVec 5) (h : BitVec 4) (x : BitVec 5) (i : BitVec 8) : EncodeDecode.Statement (.ldW d h x i) := by
  intro hw nb wd hq
  obtain ⟨rfl, he⟩ := word_eq (show some (32, Sys2Proof.fill 0x800011 [(7, d.toNat), (12, h.toNat), (16, x.toNat), (24, i.toNat)]) = some (nb, wd) from hq)
  simp only [Sys2Proof.fill] at he
  have p0 : wd / 2 ^ 0 = 17 + 2 ^ 7 * (d.toNat + 2 ^ 5 * (h.toNat + 2 ^ 4 * (x.toNat + 2 ^ 5 * (4 + 2 ^ 3 * (i.toNat + 2 ^ 8 * 0))))) := by omega
  have ⟨m0, p1⟩ := peel p0 (by decide)
  have ⟨m1, p2⟩ := peel p1 (d.isLt)
  have ⟨m2, p3⟩ := peel p2 (h.isLt)
  have ⟨m3, p4⟩ := peel p3 (x.isLt)
  have ⟨m4, p5⟩ := peel p4 (by decide)
  have ⟨m5, p6⟩ := peel p5 (i.isLt)
  have q0 : wd % 128 = 17 := (by simpa using m0)
  have q1 : bits 5 7 wd = d := bits_of m1
  have q2 : bits 4 12 wd = h := bits_of m2
  have q3 : bits 5 16 wd = x := bits_of m3
  have q4 : field 3 21 wd = 4 := m4
  have q5 : bits 8 24 wd = i := bits_of m5
  exact .inr ⟨rfl, lt_of p6, par_of m0, by simp [decodeWord, decodeLoad, q0, q1, q2, q3, q4, q5]⟩
theorem EncodeDecode.ldWu (d : BitVec 5) (h : BitVec 4) (x : BitVec 5) (i : BitVec 8) : EncodeDecode.Statement (.ldWu d h x i) := by
  intro hw nb wd hq
  obtain ⟨rfl, he⟩ := word_eq (show some (32, Sys2Proof.fill 0xa00011 [(7, d.toNat), (12, h.toNat), (16, x.toNat), (24, i.toNat)]) = some (nb, wd) from hq)
  simp only [Sys2Proof.fill] at he
  have p0 : wd / 2 ^ 0 = 17 + 2 ^ 7 * (d.toNat + 2 ^ 5 * (h.toNat + 2 ^ 4 * (x.toNat + 2 ^ 5 * (5 + 2 ^ 3 * (i.toNat + 2 ^ 8 * 0))))) := by omega
  have ⟨m0, p1⟩ := peel p0 (by decide)
  have ⟨m1, p2⟩ := peel p1 (d.isLt)
  have ⟨m2, p3⟩ := peel p2 (h.isLt)
  have ⟨m3, p4⟩ := peel p3 (x.isLt)
  have ⟨m4, p5⟩ := peel p4 (by decide)
  have ⟨m5, p6⟩ := peel p5 (i.isLt)
  have q0 : wd % 128 = 17 := (by simpa using m0)
  have q1 : bits 5 7 wd = d := bits_of m1
  have q2 : bits 4 12 wd = h := bits_of m2
  have q3 : bits 5 16 wd = x := bits_of m3
  have q4 : field 3 21 wd = 5 := m4
  have q5 : bits 8 24 wd = i := bits_of m5
  exact .inr ⟨rfl, lt_of p6, par_of m0, by simp [decodeWord, decodeLoad, q0, q1, q2, q3, q4, q5]⟩
theorem EncodeDecode.ldD (d : BitVec 5) (h : BitVec 4) (x : BitVec 5) (i : BitVec 8) : EncodeDecode.Statement (.ldD d h x i) := by
  intro hw nb wd hq
  obtain ⟨rfl, he⟩ := word_eq (show some (32, Sys2Proof.fill 0xc00011 [(7, d.toNat), (12, h.toNat), (16, x.toNat), (24, i.toNat)]) = some (nb, wd) from hq)
  simp only [Sys2Proof.fill] at he
  have p0 : wd / 2 ^ 0 = 17 + 2 ^ 7 * (d.toNat + 2 ^ 5 * (h.toNat + 2 ^ 4 * (x.toNat + 2 ^ 5 * (6 + 2 ^ 3 * (i.toNat + 2 ^ 8 * 0))))) := by omega
  have ⟨m0, p1⟩ := peel p0 (by decide)
  have ⟨m1, p2⟩ := peel p1 (d.isLt)
  have ⟨m2, p3⟩ := peel p2 (h.isLt)
  have ⟨m3, p4⟩ := peel p3 (x.isLt)
  have ⟨m4, p5⟩ := peel p4 (by decide)
  have ⟨m5, p6⟩ := peel p5 (i.isLt)
  have q0 : wd % 128 = 17 := (by simpa using m0)
  have q1 : bits 5 7 wd = d := bits_of m1
  have q2 : bits 4 12 wd = h := bits_of m2
  have q3 : bits 5 16 wd = x := bits_of m3
  have q4 : field 3 21 wd = 6 := m4
  have q5 : bits 8 24 wd = i := bits_of m5
  exact .inr ⟨rfl, lt_of p6, par_of m0, by simp [decodeWord, decodeLoad, q0, q1, q2, q3, q4, q5]⟩
theorem EncodeDecode.ldv (d : BitVec 5) (h : BitVec 4) (x : BitVec 5) (i : BitVec 8) : EncodeDecode.Statement (.ldv d h x i) := by
  intro hw nb wd hq
  obtain ⟨rfl, he⟩ := word_eq (show some (32, Sys2Proof.fill 0xe00011 [(7, d.toNat), (12, h.toNat), (16, x.toNat), (24, i.toNat)]) = some (nb, wd) from hq)
  simp only [Sys2Proof.fill] at he
  have p0 : wd / 2 ^ 0 = 17 + 2 ^ 7 * (d.toNat + 2 ^ 5 * (h.toNat + 2 ^ 4 * (x.toNat + 2 ^ 5 * (7 + 2 ^ 3 * (i.toNat + 2 ^ 8 * 0))))) := by omega
  have ⟨m0, p1⟩ := peel p0 (by decide)
  have ⟨m1, p2⟩ := peel p1 (d.isLt)
  have ⟨m2, p3⟩ := peel p2 (h.isLt)
  have ⟨m3, p4⟩ := peel p3 (x.isLt)
  have ⟨m4, p5⟩ := peel p4 (by decide)
  have ⟨m5, p6⟩ := peel p5 (i.isLt)
  have q0 : wd % 128 = 17 := (by simpa using m0)
  have q1 : bits 5 7 wd = d := bits_of m1
  have q2 : bits 4 12 wd = h := bits_of m2
  have q3 : bits 5 16 wd = x := bits_of m3
  have q4 : field 3 21 wd = 7 := m4
  have q5 : bits 8 24 wd = i := bits_of m5
  exact .inr ⟨rfl, lt_of p6, par_of m0, by simp [decodeWord, decodeLoad, q0, q1, q2, q3, q4, q5]⟩
theorem EncodeDecode.stB (s : BitVec 5) (h : BitVec 4) (x : BitVec 5) (i : BitVec 8) : EncodeDecode.Statement (.stB s h x i) := by
  intro hw nb wd hq
  obtain ⟨rfl, he⟩ := word_eq (show some (32, Sys2Proof.fill 0x13 [(7, s.toNat), (12, h.toNat), (16, x.toNat), (24, i.toNat)]) = some (nb, wd) from hq)
  simp only [Sys2Proof.fill] at he
  have p0 : wd / 2 ^ 0 = 19 + 2 ^ 7 * (s.toNat + 2 ^ 5 * (h.toNat + 2 ^ 4 * (x.toNat + 2 ^ 5 * (0 + 2 ^ 3 * (i.toNat + 2 ^ 8 * 0))))) := by omega
  have ⟨m0, p1⟩ := peel p0 (by decide)
  have ⟨m1, p2⟩ := peel p1 (s.isLt)
  have ⟨m2, p3⟩ := peel p2 (h.isLt)
  have ⟨m3, p4⟩ := peel p3 (x.isLt)
  have ⟨m4, p5⟩ := peel p4 (by decide)
  have ⟨m5, p6⟩ := peel p5 (i.isLt)
  have q0 : wd % 128 = 19 := (by simpa using m0)
  have q1 : bits 5 7 wd = s := bits_of m1
  have q2 : bits 4 12 wd = h := bits_of m2
  have q3 : bits 5 16 wd = x := bits_of m3
  have q4 : field 3 21 wd = 0 := m4
  have q5 : bits 8 24 wd = i := bits_of m5
  exact .inr ⟨rfl, lt_of p6, par_of m0, by simp [decodeWord, decodeStore, q0, q1, q2, q3, q4, q5]⟩
theorem EncodeDecode.stH (s : BitVec 5) (h : BitVec 4) (x : BitVec 5) (i : BitVec 8) : EncodeDecode.Statement (.stH s h x i) := by
  intro hw nb wd hq
  obtain ⟨rfl, he⟩ := word_eq (show some (32, Sys2Proof.fill 0x200013 [(7, s.toNat), (12, h.toNat), (16, x.toNat), (24, i.toNat)]) = some (nb, wd) from hq)
  simp only [Sys2Proof.fill] at he
  have p0 : wd / 2 ^ 0 = 19 + 2 ^ 7 * (s.toNat + 2 ^ 5 * (h.toNat + 2 ^ 4 * (x.toNat + 2 ^ 5 * (1 + 2 ^ 3 * (i.toNat + 2 ^ 8 * 0))))) := by omega
  have ⟨m0, p1⟩ := peel p0 (by decide)
  have ⟨m1, p2⟩ := peel p1 (s.isLt)
  have ⟨m2, p3⟩ := peel p2 (h.isLt)
  have ⟨m3, p4⟩ := peel p3 (x.isLt)
  have ⟨m4, p5⟩ := peel p4 (by decide)
  have ⟨m5, p6⟩ := peel p5 (i.isLt)
  have q0 : wd % 128 = 19 := (by simpa using m0)
  have q1 : bits 5 7 wd = s := bits_of m1
  have q2 : bits 4 12 wd = h := bits_of m2
  have q3 : bits 5 16 wd = x := bits_of m3
  have q4 : field 3 21 wd = 1 := m4
  have q5 : bits 8 24 wd = i := bits_of m5
  exact .inr ⟨rfl, lt_of p6, par_of m0, by simp [decodeWord, decodeStore, q0, q1, q2, q3, q4, q5]⟩
theorem EncodeDecode.stW (s : BitVec 5) (h : BitVec 4) (x : BitVec 5) (i : BitVec 8) : EncodeDecode.Statement (.stW s h x i) := by
  intro hw nb wd hq
  obtain ⟨rfl, he⟩ := word_eq (show some (32, Sys2Proof.fill 0x400013 [(7, s.toNat), (12, h.toNat), (16, x.toNat), (24, i.toNat)]) = some (nb, wd) from hq)
  simp only [Sys2Proof.fill] at he
  have p0 : wd / 2 ^ 0 = 19 + 2 ^ 7 * (s.toNat + 2 ^ 5 * (h.toNat + 2 ^ 4 * (x.toNat + 2 ^ 5 * (2 + 2 ^ 3 * (i.toNat + 2 ^ 8 * 0))))) := by omega
  have ⟨m0, p1⟩ := peel p0 (by decide)
  have ⟨m1, p2⟩ := peel p1 (s.isLt)
  have ⟨m2, p3⟩ := peel p2 (h.isLt)
  have ⟨m3, p4⟩ := peel p3 (x.isLt)
  have ⟨m4, p5⟩ := peel p4 (by decide)
  have ⟨m5, p6⟩ := peel p5 (i.isLt)
  have q0 : wd % 128 = 19 := (by simpa using m0)
  have q1 : bits 5 7 wd = s := bits_of m1
  have q2 : bits 4 12 wd = h := bits_of m2
  have q3 : bits 5 16 wd = x := bits_of m3
  have q4 : field 3 21 wd = 2 := m4
  have q5 : bits 8 24 wd = i := bits_of m5
  exact .inr ⟨rfl, lt_of p6, par_of m0, by simp [decodeWord, decodeStore, q0, q1, q2, q3, q4, q5]⟩
theorem EncodeDecode.stD (s : BitVec 5) (h : BitVec 4) (x : BitVec 5) (i : BitVec 8) : EncodeDecode.Statement (.stD s h x i) := by
  intro hw nb wd hq
  obtain ⟨rfl, he⟩ := word_eq (show some (32, Sys2Proof.fill 0x600013 [(7, s.toNat), (12, h.toNat), (16, x.toNat), (24, i.toNat)]) = some (nb, wd) from hq)
  simp only [Sys2Proof.fill] at he
  have p0 : wd / 2 ^ 0 = 19 + 2 ^ 7 * (s.toNat + 2 ^ 5 * (h.toNat + 2 ^ 4 * (x.toNat + 2 ^ 5 * (3 + 2 ^ 3 * (i.toNat + 2 ^ 8 * 0))))) := by omega
  have ⟨m0, p1⟩ := peel p0 (by decide)
  have ⟨m1, p2⟩ := peel p1 (s.isLt)
  have ⟨m2, p3⟩ := peel p2 (h.isLt)
  have ⟨m3, p4⟩ := peel p3 (x.isLt)
  have ⟨m4, p5⟩ := peel p4 (by decide)
  have ⟨m5, p6⟩ := peel p5 (i.isLt)
  have q0 : wd % 128 = 19 := (by simpa using m0)
  have q1 : bits 5 7 wd = s := bits_of m1
  have q2 : bits 4 12 wd = h := bits_of m2
  have q3 : bits 5 16 wd = x := bits_of m3
  have q4 : field 3 21 wd = 3 := m4
  have q5 : bits 8 24 wd = i := bits_of m5
  exact .inr ⟨rfl, lt_of p6, par_of m0, by simp [decodeWord, decodeStore, q0, q1, q2, q3, q4, q5]⟩
theorem EncodeDecode.stv (s : BitVec 5) (h : BitVec 4) (x : BitVec 5) (i : BitVec 8) : EncodeDecode.Statement (.stv s h x i) := by
  intro hw nb wd hq
  obtain ⟨rfl, he⟩ := word_eq (show some (32, Sys2Proof.fill 0x800013 [(7, s.toNat), (12, h.toNat), (16, x.toNat), (24, i.toNat)]) = some (nb, wd) from hq)
  simp only [Sys2Proof.fill] at he
  have p0 : wd / 2 ^ 0 = 19 + 2 ^ 7 * (s.toNat + 2 ^ 5 * (h.toNat + 2 ^ 4 * (x.toNat + 2 ^ 5 * (4 + 2 ^ 3 * (i.toNat + 2 ^ 8 * 0))))) := by omega
  have ⟨m0, p1⟩ := peel p0 (by decide)
  have ⟨m1, p2⟩ := peel p1 (s.isLt)
  have ⟨m2, p3⟩ := peel p2 (h.isLt)
  have ⟨m3, p4⟩ := peel p3 (x.isLt)
  have ⟨m4, p5⟩ := peel p4 (by decide)
  have ⟨m5, p6⟩ := peel p5 (i.isLt)
  have q0 : wd % 128 = 19 := (by simpa using m0)
  have q1 : bits 5 7 wd = s := bits_of m1
  have q2 : bits 4 12 wd = h := bits_of m2
  have q3 : bits 5 16 wd = x := bits_of m3
  have q4 : field 3 21 wd = 4 := m4
  have q5 : bits 8 24 wd = i := bits_of m5
  exact .inr ⟨rfl, lt_of p6, par_of m0, by simp [decodeWord, decodeStore, q0, q1, q2, q3, q4, q5]⟩
theorem EncodeDecode.stlW (s : BitVec 5) (h : BitVec 4) (x : BitVec 5) (i : BitVec 8) : EncodeDecode.Statement (.stlW s h x i) := by
  intro hw nb wd hq
  obtain ⟨rfl, he⟩ := word_eq (show some (32, Sys2Proof.fill 0xa00013 [(7, s.toNat), (12, h.toNat), (16, x.toNat), (24, i.toNat)]) = some (nb, wd) from hq)
  simp only [Sys2Proof.fill] at he
  have p0 : wd / 2 ^ 0 = 19 + 2 ^ 7 * (s.toNat + 2 ^ 5 * (h.toNat + 2 ^ 4 * (x.toNat + 2 ^ 5 * (5 + 2 ^ 3 * (i.toNat + 2 ^ 8 * 0))))) := by omega
  have ⟨m0, p1⟩ := peel p0 (by decide)
  have ⟨m1, p2⟩ := peel p1 (s.isLt)
  have ⟨m2, p3⟩ := peel p2 (h.isLt)
  have ⟨m3, p4⟩ := peel p3 (x.isLt)
  have ⟨m4, p5⟩ := peel p4 (by decide)
  have ⟨m5, p6⟩ := peel p5 (i.isLt)
  have q0 : wd % 128 = 19 := (by simpa using m0)
  have q1 : bits 5 7 wd = s := bits_of m1
  have q2 : bits 4 12 wd = h := bits_of m2
  have q3 : bits 5 16 wd = x := bits_of m3
  have q4 : field 3 21 wd = 5 := m4
  have q5 : bits 8 24 wd = i := bits_of m5
  exact .inr ⟨rfl, lt_of p6, par_of m0, by simp [decodeWord, decodeStore, q0, q1, q2, q3, q4, q5]⟩
theorem EncodeDecode.stlD (s : BitVec 5) (h : BitVec 4) (x : BitVec 5) (i : BitVec 8) : EncodeDecode.Statement (.stlD s h x i) := by
  intro hw nb wd hq
  obtain ⟨rfl, he⟩ := word_eq (show some (32, Sys2Proof.fill 0xc00013 [(7, s.toNat), (12, h.toNat), (16, x.toNat), (24, i.toNat)]) = some (nb, wd) from hq)
  simp only [Sys2Proof.fill] at he
  have p0 : wd / 2 ^ 0 = 19 + 2 ^ 7 * (s.toNat + 2 ^ 5 * (h.toNat + 2 ^ 4 * (x.toNat + 2 ^ 5 * (6 + 2 ^ 3 * (i.toNat + 2 ^ 8 * 0))))) := by omega
  have ⟨m0, p1⟩ := peel p0 (by decide)
  have ⟨m1, p2⟩ := peel p1 (s.isLt)
  have ⟨m2, p3⟩ := peel p2 (h.isLt)
  have ⟨m3, p4⟩ := peel p3 (x.isLt)
  have ⟨m4, p5⟩ := peel p4 (by decide)
  have ⟨m5, p6⟩ := peel p5 (i.isLt)
  have q0 : wd % 128 = 19 := (by simpa using m0)
  have q1 : bits 5 7 wd = s := bits_of m1
  have q2 : bits 4 12 wd = h := bits_of m2
  have q3 : bits 5 16 wd = x := bits_of m3
  have q4 : field 3 21 wd = 6 := m4
  have q5 : bits 8 24 wd = i := bits_of m5
  exact .inr ⟨rfl, lt_of p6, par_of m0, by simp [decodeWord, decodeStore, q0, q1, q2, q3, q4, q5]⟩
theorem EncodeDecode.amoAdd (d : BitVec 5) (h : BitVec 4) (b : BitVec 5) (z : Sz) (o : Order) : EncodeDecode.Statement (.amoAdd d h b z o) := by
  intro hw nb wd hq
  obtain ⟨rfl, he⟩ := word_eq (show some (32, Sys2Proof.fill 0x15 [(7, d.toNat), (12, h.toNat), (17, b.toNat), (22, z.code), (23, o.code)]) = some (nb, wd) from hq)
  simp only [Sys2Proof.fill] at he
  have p0 : wd / 2 ^ 0 = 21 + 2 ^ 7 * (d.toNat + 2 ^ 5 * (h.toNat + 2 ^ 4 * (0 + 2 ^ 1 * (b.toNat + 2 ^ 5 * (z.code + 2 ^ 1 * (o.code + 2 ^ 2 * (0 + 2 ^ 7 * 0))))))) := by omega
  have ⟨m0, p1⟩ := peel p0 (by decide)
  have ⟨m1, p2⟩ := peel p1 (d.isLt)
  have ⟨m2, p3⟩ := peel p2 (h.isLt)
  have ⟨m3, p4⟩ := peel p3 (by decide)
  have ⟨m4, p5⟩ := peel p4 (b.isLt)
  have ⟨m5, p6⟩ := peel p5 (Sz.code_lt z)
  have ⟨m6, p7⟩ := peel p6 (Order.code_lt o)
  have ⟨m7, p8⟩ := peel p7 (by decide)
  have q0 : wd % 128 = 21 := (by simpa using m0)
  have q1 : bits 5 7 wd = d := bits_of m1
  have q2 : bits 4 12 wd = h := bits_of m2
  have q3 : field 1 16 wd = 0 := m3
  have q4 : bits 5 17 wd = b := bits_of m4
  have q5 : field 1 22 wd = z.code := m5
  have q6 : field 2 23 wd = o.code := m6
  have q7 : field 7 25 wd = 0 := m7
  exact .inr ⟨rfl, lt_of p8, par_of m0, by simp [decodeWord, decodeAtomic, q0, q1, q2, q3, q4, q5, q6, q7, Order.ofCode_code, Sz.ofCode_code]⟩
theorem EncodeDecode.amoAnd (d : BitVec 5) (h : BitVec 4) (b : BitVec 5) (z : Sz) (o : Order) : EncodeDecode.Statement (.amoAnd d h b z o) := by
  intro hw nb wd hq
  obtain ⟨rfl, he⟩ := word_eq (show some (32, Sys2Proof.fill 0x2000015 [(7, d.toNat), (12, h.toNat), (17, b.toNat), (22, z.code), (23, o.code)]) = some (nb, wd) from hq)
  simp only [Sys2Proof.fill] at he
  have p0 : wd / 2 ^ 0 = 21 + 2 ^ 7 * (d.toNat + 2 ^ 5 * (h.toNat + 2 ^ 4 * (0 + 2 ^ 1 * (b.toNat + 2 ^ 5 * (z.code + 2 ^ 1 * (o.code + 2 ^ 2 * (1 + 2 ^ 7 * 0))))))) := by omega
  have ⟨m0, p1⟩ := peel p0 (by decide)
  have ⟨m1, p2⟩ := peel p1 (d.isLt)
  have ⟨m2, p3⟩ := peel p2 (h.isLt)
  have ⟨m3, p4⟩ := peel p3 (by decide)
  have ⟨m4, p5⟩ := peel p4 (b.isLt)
  have ⟨m5, p6⟩ := peel p5 (Sz.code_lt z)
  have ⟨m6, p7⟩ := peel p6 (Order.code_lt o)
  have ⟨m7, p8⟩ := peel p7 (by decide)
  have q0 : wd % 128 = 21 := (by simpa using m0)
  have q1 : bits 5 7 wd = d := bits_of m1
  have q2 : bits 4 12 wd = h := bits_of m2
  have q3 : field 1 16 wd = 0 := m3
  have q4 : bits 5 17 wd = b := bits_of m4
  have q5 : field 1 22 wd = z.code := m5
  have q6 : field 2 23 wd = o.code := m6
  have q7 : field 7 25 wd = 1 := m7
  exact .inr ⟨rfl, lt_of p8, par_of m0, by simp [decodeWord, decodeAtomic, q0, q1, q2, q3, q4, q5, q6, q7, Order.ofCode_code, Sz.ofCode_code]⟩
theorem EncodeDecode.amoOr (d : BitVec 5) (h : BitVec 4) (b : BitVec 5) (z : Sz) (o : Order) : EncodeDecode.Statement (.amoOr d h b z o) := by
  intro hw nb wd hq
  obtain ⟨rfl, he⟩ := word_eq (show some (32, Sys2Proof.fill 0x4000015 [(7, d.toNat), (12, h.toNat), (17, b.toNat), (22, z.code), (23, o.code)]) = some (nb, wd) from hq)
  simp only [Sys2Proof.fill] at he
  have p0 : wd / 2 ^ 0 = 21 + 2 ^ 7 * (d.toNat + 2 ^ 5 * (h.toNat + 2 ^ 4 * (0 + 2 ^ 1 * (b.toNat + 2 ^ 5 * (z.code + 2 ^ 1 * (o.code + 2 ^ 2 * (2 + 2 ^ 7 * 0))))))) := by omega
  have ⟨m0, p1⟩ := peel p0 (by decide)
  have ⟨m1, p2⟩ := peel p1 (d.isLt)
  have ⟨m2, p3⟩ := peel p2 (h.isLt)
  have ⟨m3, p4⟩ := peel p3 (by decide)
  have ⟨m4, p5⟩ := peel p4 (b.isLt)
  have ⟨m5, p6⟩ := peel p5 (Sz.code_lt z)
  have ⟨m6, p7⟩ := peel p6 (Order.code_lt o)
  have ⟨m7, p8⟩ := peel p7 (by decide)
  have q0 : wd % 128 = 21 := (by simpa using m0)
  have q1 : bits 5 7 wd = d := bits_of m1
  have q2 : bits 4 12 wd = h := bits_of m2
  have q3 : field 1 16 wd = 0 := m3
  have q4 : bits 5 17 wd = b := bits_of m4
  have q5 : field 1 22 wd = z.code := m5
  have q6 : field 2 23 wd = o.code := m6
  have q7 : field 7 25 wd = 2 := m7
  exact .inr ⟨rfl, lt_of p8, par_of m0, by simp [decodeWord, decodeAtomic, q0, q1, q2, q3, q4, q5, q6, q7, Order.ofCode_code, Sz.ofCode_code]⟩
theorem EncodeDecode.amoXor (d : BitVec 5) (h : BitVec 4) (b : BitVec 5) (z : Sz) (o : Order) : EncodeDecode.Statement (.amoXor d h b z o) := by
  intro hw nb wd hq
  obtain ⟨rfl, he⟩ := word_eq (show some (32, Sys2Proof.fill 0x6000015 [(7, d.toNat), (12, h.toNat), (17, b.toNat), (22, z.code), (23, o.code)]) = some (nb, wd) from hq)
  simp only [Sys2Proof.fill] at he
  have p0 : wd / 2 ^ 0 = 21 + 2 ^ 7 * (d.toNat + 2 ^ 5 * (h.toNat + 2 ^ 4 * (0 + 2 ^ 1 * (b.toNat + 2 ^ 5 * (z.code + 2 ^ 1 * (o.code + 2 ^ 2 * (3 + 2 ^ 7 * 0))))))) := by omega
  have ⟨m0, p1⟩ := peel p0 (by decide)
  have ⟨m1, p2⟩ := peel p1 (d.isLt)
  have ⟨m2, p3⟩ := peel p2 (h.isLt)
  have ⟨m3, p4⟩ := peel p3 (by decide)
  have ⟨m4, p5⟩ := peel p4 (b.isLt)
  have ⟨m5, p6⟩ := peel p5 (Sz.code_lt z)
  have ⟨m6, p7⟩ := peel p6 (Order.code_lt o)
  have ⟨m7, p8⟩ := peel p7 (by decide)
  have q0 : wd % 128 = 21 := (by simpa using m0)
  have q1 : bits 5 7 wd = d := bits_of m1
  have q2 : bits 4 12 wd = h := bits_of m2
  have q3 : field 1 16 wd = 0 := m3
  have q4 : bits 5 17 wd = b := bits_of m4
  have q5 : field 1 22 wd = z.code := m5
  have q6 : field 2 23 wd = o.code := m6
  have q7 : field 7 25 wd = 3 := m7
  exact .inr ⟨rfl, lt_of p8, par_of m0, by simp [decodeWord, decodeAtomic, q0, q1, q2, q3, q4, q5, q6, q7, Order.ofCode_code, Sz.ofCode_code]⟩
theorem EncodeDecode.amoMin (d : BitVec 5) (h : BitVec 4) (b : BitVec 5) (z : Sz) (o : Order) : EncodeDecode.Statement (.amoMin d h b z o) := by
  intro hw nb wd hq
  obtain ⟨rfl, he⟩ := word_eq (show some (32, Sys2Proof.fill 0x8000015 [(7, d.toNat), (12, h.toNat), (17, b.toNat), (22, z.code), (23, o.code)]) = some (nb, wd) from hq)
  simp only [Sys2Proof.fill] at he
  have p0 : wd / 2 ^ 0 = 21 + 2 ^ 7 * (d.toNat + 2 ^ 5 * (h.toNat + 2 ^ 4 * (0 + 2 ^ 1 * (b.toNat + 2 ^ 5 * (z.code + 2 ^ 1 * (o.code + 2 ^ 2 * (4 + 2 ^ 7 * 0))))))) := by omega
  have ⟨m0, p1⟩ := peel p0 (by decide)
  have ⟨m1, p2⟩ := peel p1 (d.isLt)
  have ⟨m2, p3⟩ := peel p2 (h.isLt)
  have ⟨m3, p4⟩ := peel p3 (by decide)
  have ⟨m4, p5⟩ := peel p4 (b.isLt)
  have ⟨m5, p6⟩ := peel p5 (Sz.code_lt z)
  have ⟨m6, p7⟩ := peel p6 (Order.code_lt o)
  have ⟨m7, p8⟩ := peel p7 (by decide)
  have q0 : wd % 128 = 21 := (by simpa using m0)
  have q1 : bits 5 7 wd = d := bits_of m1
  have q2 : bits 4 12 wd = h := bits_of m2
  have q3 : field 1 16 wd = 0 := m3
  have q4 : bits 5 17 wd = b := bits_of m4
  have q5 : field 1 22 wd = z.code := m5
  have q6 : field 2 23 wd = o.code := m6
  have q7 : field 7 25 wd = 4 := m7
  exact .inr ⟨rfl, lt_of p8, par_of m0, by simp [decodeWord, decodeAtomic, q0, q1, q2, q3, q4, q5, q6, q7, Order.ofCode_code, Sz.ofCode_code]⟩
theorem EncodeDecode.amoMax (d : BitVec 5) (h : BitVec 4) (b : BitVec 5) (z : Sz) (o : Order) : EncodeDecode.Statement (.amoMax d h b z o) := by
  intro hw nb wd hq
  obtain ⟨rfl, he⟩ := word_eq (show some (32, Sys2Proof.fill 0xa000015 [(7, d.toNat), (12, h.toNat), (17, b.toNat), (22, z.code), (23, o.code)]) = some (nb, wd) from hq)
  simp only [Sys2Proof.fill] at he
  have p0 : wd / 2 ^ 0 = 21 + 2 ^ 7 * (d.toNat + 2 ^ 5 * (h.toNat + 2 ^ 4 * (0 + 2 ^ 1 * (b.toNat + 2 ^ 5 * (z.code + 2 ^ 1 * (o.code + 2 ^ 2 * (5 + 2 ^ 7 * 0))))))) := by omega
  have ⟨m0, p1⟩ := peel p0 (by decide)
  have ⟨m1, p2⟩ := peel p1 (d.isLt)
  have ⟨m2, p3⟩ := peel p2 (h.isLt)
  have ⟨m3, p4⟩ := peel p3 (by decide)
  have ⟨m4, p5⟩ := peel p4 (b.isLt)
  have ⟨m5, p6⟩ := peel p5 (Sz.code_lt z)
  have ⟨m6, p7⟩ := peel p6 (Order.code_lt o)
  have ⟨m7, p8⟩ := peel p7 (by decide)
  have q0 : wd % 128 = 21 := (by simpa using m0)
  have q1 : bits 5 7 wd = d := bits_of m1
  have q2 : bits 4 12 wd = h := bits_of m2
  have q3 : field 1 16 wd = 0 := m3
  have q4 : bits 5 17 wd = b := bits_of m4
  have q5 : field 1 22 wd = z.code := m5
  have q6 : field 2 23 wd = o.code := m6
  have q7 : field 7 25 wd = 5 := m7
  exact .inr ⟨rfl, lt_of p8, par_of m0, by simp [decodeWord, decodeAtomic, q0, q1, q2, q3, q4, q5, q6, q7, Order.ofCode_code, Sz.ofCode_code]⟩
theorem EncodeDecode.amoMinu (d : BitVec 5) (h : BitVec 4) (b : BitVec 5) (z : Sz) (o : Order) : EncodeDecode.Statement (.amoMinu d h b z o) := by
  intro hw nb wd hq
  obtain ⟨rfl, he⟩ := word_eq (show some (32, Sys2Proof.fill 0xc000015 [(7, d.toNat), (12, h.toNat), (17, b.toNat), (22, z.code), (23, o.code)]) = some (nb, wd) from hq)
  simp only [Sys2Proof.fill] at he
  have p0 : wd / 2 ^ 0 = 21 + 2 ^ 7 * (d.toNat + 2 ^ 5 * (h.toNat + 2 ^ 4 * (0 + 2 ^ 1 * (b.toNat + 2 ^ 5 * (z.code + 2 ^ 1 * (o.code + 2 ^ 2 * (6 + 2 ^ 7 * 0))))))) := by omega
  have ⟨m0, p1⟩ := peel p0 (by decide)
  have ⟨m1, p2⟩ := peel p1 (d.isLt)
  have ⟨m2, p3⟩ := peel p2 (h.isLt)
  have ⟨m3, p4⟩ := peel p3 (by decide)
  have ⟨m4, p5⟩ := peel p4 (b.isLt)
  have ⟨m5, p6⟩ := peel p5 (Sz.code_lt z)
  have ⟨m6, p7⟩ := peel p6 (Order.code_lt o)
  have ⟨m7, p8⟩ := peel p7 (by decide)
  have q0 : wd % 128 = 21 := (by simpa using m0)
  have q1 : bits 5 7 wd = d := bits_of m1
  have q2 : bits 4 12 wd = h := bits_of m2
  have q3 : field 1 16 wd = 0 := m3
  have q4 : bits 5 17 wd = b := bits_of m4
  have q5 : field 1 22 wd = z.code := m5
  have q6 : field 2 23 wd = o.code := m6
  have q7 : field 7 25 wd = 6 := m7
  exact .inr ⟨rfl, lt_of p8, par_of m0, by simp [decodeWord, decodeAtomic, q0, q1, q2, q3, q4, q5, q6, q7, Order.ofCode_code, Sz.ofCode_code]⟩
theorem EncodeDecode.amoMaxu (d : BitVec 5) (h : BitVec 4) (b : BitVec 5) (z : Sz) (o : Order) : EncodeDecode.Statement (.amoMaxu d h b z o) := by
  intro hw nb wd hq
  obtain ⟨rfl, he⟩ := word_eq (show some (32, Sys2Proof.fill 0xe000015 [(7, d.toNat), (12, h.toNat), (17, b.toNat), (22, z.code), (23, o.code)]) = some (nb, wd) from hq)
  simp only [Sys2Proof.fill] at he
  have p0 : wd / 2 ^ 0 = 21 + 2 ^ 7 * (d.toNat + 2 ^ 5 * (h.toNat + 2 ^ 4 * (0 + 2 ^ 1 * (b.toNat + 2 ^ 5 * (z.code + 2 ^ 1 * (o.code + 2 ^ 2 * (7 + 2 ^ 7 * 0))))))) := by omega
  have ⟨m0, p1⟩ := peel p0 (by decide)
  have ⟨m1, p2⟩ := peel p1 (d.isLt)
  have ⟨m2, p3⟩ := peel p2 (h.isLt)
  have ⟨m3, p4⟩ := peel p3 (by decide)
  have ⟨m4, p5⟩ := peel p4 (b.isLt)
  have ⟨m5, p6⟩ := peel p5 (Sz.code_lt z)
  have ⟨m6, p7⟩ := peel p6 (Order.code_lt o)
  have ⟨m7, p8⟩ := peel p7 (by decide)
  have q0 : wd % 128 = 21 := (by simpa using m0)
  have q1 : bits 5 7 wd = d := bits_of m1
  have q2 : bits 4 12 wd = h := bits_of m2
  have q3 : field 1 16 wd = 0 := m3
  have q4 : bits 5 17 wd = b := bits_of m4
  have q5 : field 1 22 wd = z.code := m5
  have q6 : field 2 23 wd = o.code := m6
  have q7 : field 7 25 wd = 7 := m7
  exact .inr ⟨rfl, lt_of p8, par_of m0, by simp [decodeWord, decodeAtomic, q0, q1, q2, q3, q4, q5, q6, q7, Order.ofCode_code, Sz.ofCode_code]⟩
theorem EncodeDecode.amoSwap (d : BitVec 5) (h : BitVec 4) (b : BitVec 5) (z : Sz) (o : Order) : EncodeDecode.Statement (.amoSwap d h b z o) := by
  intro hw nb wd hq
  obtain ⟨rfl, he⟩ := word_eq (show some (32, Sys2Proof.fill 0x10000015 [(7, d.toNat), (12, h.toNat), (17, b.toNat), (22, z.code), (23, o.code)]) = some (nb, wd) from hq)
  simp only [Sys2Proof.fill] at he
  have p0 : wd / 2 ^ 0 = 21 + 2 ^ 7 * (d.toNat + 2 ^ 5 * (h.toNat + 2 ^ 4 * (0 + 2 ^ 1 * (b.toNat + 2 ^ 5 * (z.code + 2 ^ 1 * (o.code + 2 ^ 2 * (8 + 2 ^ 7 * 0))))))) := by omega
  have ⟨m0, p1⟩ := peel p0 (by decide)
  have ⟨m1, p2⟩ := peel p1 (d.isLt)
  have ⟨m2, p3⟩ := peel p2 (h.isLt)
  have ⟨m3, p4⟩ := peel p3 (by decide)
  have ⟨m4, p5⟩ := peel p4 (b.isLt)
  have ⟨m5, p6⟩ := peel p5 (Sz.code_lt z)
  have ⟨m6, p7⟩ := peel p6 (Order.code_lt o)
  have ⟨m7, p8⟩ := peel p7 (by decide)
  have q0 : wd % 128 = 21 := (by simpa using m0)
  have q1 : bits 5 7 wd = d := bits_of m1
  have q2 : bits 4 12 wd = h := bits_of m2
  have q3 : field 1 16 wd = 0 := m3
  have q4 : bits 5 17 wd = b := bits_of m4
  have q5 : field 1 22 wd = z.code := m5
  have q6 : field 2 23 wd = o.code := m6
  have q7 : field 7 25 wd = 8 := m7
  exact .inr ⟨rfl, lt_of p8, par_of m0, by simp [decodeWord, decodeAtomic, q0, q1, q2, q3, q4, q5, q6, q7, Order.ofCode_code, Sz.ofCode_code]⟩
theorem EncodeDecode.cas (d : BitVec 4) (h : BitVec 4) (b : BitVec 5) (z : Sz) (o : Order) : EncodeDecode.Statement (.cas d h b z o) := by
  intro hw nb wd hq
  have hv : ((d != 0 : Bool)) = true := hw
  simp at hv
  obtain ⟨rfl, he⟩ := word_eq (show some (32, Sys2Proof.fill 0x12000015 [(8, d.toNat), (12, h.toNat), (17, b.toNat), (22, z.code), (23, o.code)]) = some (nb, wd) from hq)
  simp only [Sys2Proof.fill] at he
  have p0 : wd / 2 ^ 0 = 21 + 2 ^ 7 * (0 + 2 ^ 1 * (d.toNat + 2 ^ 4 * (h.toNat + 2 ^ 4 * (0 + 2 ^ 1 * (b.toNat + 2 ^ 5 * (z.code + 2 ^ 1 * (o.code + 2 ^ 2 * (9 + 2 ^ 7 * 0)))))))) := by omega
  have ⟨m0, p1⟩ := peel p0 (by decide)
  have ⟨m1, p2⟩ := peel p1 (by decide)
  have ⟨m2, p3⟩ := peel p2 (d.isLt)
  have ⟨m3, p4⟩ := peel p3 (h.isLt)
  have ⟨m4, p5⟩ := peel p4 (by decide)
  have ⟨m5, p6⟩ := peel p5 (b.isLt)
  have ⟨m6, p7⟩ := peel p6 (Sz.code_lt z)
  have ⟨m7, p8⟩ := peel p7 (Order.code_lt o)
  have ⟨m8, p9⟩ := peel p8 (by decide)
  have q0 : wd % 128 = 21 := (by simpa using m0)
  have q1 : field 1 7 wd = 0 := m1
  have q2 : bits 4 8 wd = d := bits_of m2
  have q3 : bits 4 12 wd = h := bits_of m3
  have q4 : field 1 16 wd = 0 := m4
  have q5 : bits 5 17 wd = b := bits_of m5
  have q6 : field 1 22 wd = z.code := m6
  have q7 : field 2 23 wd = o.code := m7
  have q8 : field 7 25 wd = 9 := m8
  exact .inr ⟨rfl, lt_of p9, par_of m0, by simp [decodeWord, decodeAtomic, q0, q1, q2, q3, q4, q5, q6, q7, q8, Order.ofCode_code, Sz.ofCode_code, hv]⟩
theorem EncodeDecode.lda (d : BitVec 5) (h : BitVec 4) (b : BitVec 5) (z : Sz) : EncodeDecode.Statement (.lda d h b z) := by
  intro hw nb wd hq
  obtain ⟨rfl, he⟩ := word_eq (show some (32, Sys2Proof.fill 0x14000015 [(7, d.toNat), (12, h.toNat), (17, b.toNat), (22, z.code)]) = some (nb, wd) from hq)
  simp only [Sys2Proof.fill] at he
  have p0 : wd / 2 ^ 0 = 21 + 2 ^ 7 * (d.toNat + 2 ^ 5 * (h.toNat + 2 ^ 4 * (0 + 2 ^ 1 * (b.toNat + 2 ^ 5 * (z.code + 2 ^ 1 * (0 + 2 ^ 2 * (10 + 2 ^ 7 * 0))))))) := by omega
  have ⟨m0, p1⟩ := peel p0 (by decide)
  have ⟨m1, p2⟩ := peel p1 (d.isLt)
  have ⟨m2, p3⟩ := peel p2 (h.isLt)
  have ⟨m3, p4⟩ := peel p3 (by decide)
  have ⟨m4, p5⟩ := peel p4 (b.isLt)
  have ⟨m5, p6⟩ := peel p5 (Sz.code_lt z)
  have ⟨m6, p7⟩ := peel p6 (by decide)
  have ⟨m7, p8⟩ := peel p7 (by decide)
  have q0 : wd % 128 = 21 := (by simpa using m0)
  have q1 : bits 5 7 wd = d := bits_of m1
  have q2 : bits 4 12 wd = h := bits_of m2
  have q3 : field 1 16 wd = 0 := m3
  have q4 : bits 5 17 wd = b := bits_of m4
  have q5 : field 1 22 wd = z.code := m5
  have q6 : field 2 23 wd = 0 := m6
  have q7 : field 7 25 wd = 10 := m7
  exact .inr ⟨rfl, lt_of p8, par_of m0, by simp [decodeWord, decodeAtomic, q0, q1, q2, q3, q4, q5, q6, q7, Sz.ofCode_code]⟩
theorem EncodeDecode.calloc (d : BitVec 4) (a : BitVec 5) (b : BitVec 5) (l : ALevel) : EncodeDecode.Statement (.calloc d a b l) := by
  intro hw nb wd hq
  obtain ⟨rfl, he⟩ := word_eq (show some (32, Sys2Proof.fill 0x17 [(7, d.toNat), (12, a.toNat), (17, b.toNat), (22, l.code)]) = some (nb, wd) from hq)
  simp only [Sys2Proof.fill] at he
  have p0 : wd / 2 ^ 0 = 23 + 2 ^ 7 * (d.toNat + 2 ^ 4 * (0 + 2 ^ 1 * (a.toNat + 2 ^ 5 * (b.toNat + 2 ^ 5 * (l.code + 2 ^ 2 * (0 + 2 ^ 1 * (0 + 2 ^ 7 * 0))))))) := by omega
  have ⟨m0, p1⟩ := peel p0 (by decide)
  have ⟨m1, p2⟩ := peel p1 (d.isLt)
  have ⟨m2, p3⟩ := peel p2 (by decide)
  have ⟨m3, p4⟩ := peel p3 (a.isLt)
  have ⟨m4, p5⟩ := peel p4 (b.isLt)
  have ⟨m5, p6⟩ := peel p5 (ALevel.code_lt l)
  have ⟨m6, p7⟩ := peel p6 (by decide)
  have ⟨m7, p8⟩ := peel p7 (by decide)
  have q0 : wd % 128 = 23 := (by simpa using m0)
  have q1 : bits 4 7 wd = d := bits_of m1
  have q2 : field 1 11 wd = 0 := m2
  have q3 : bits 5 12 wd = a := bits_of m3
  have q4 : bits 5 17 wd = b := bits_of m4
  have q5 : field 2 22 wd = l.code := m5
  have q6 : field 1 24 wd = 0 := m6
  have q7 : field 7 25 wd = 0 := m7
  exact .inr ⟨rfl, lt_of p8, par_of m0, by simp [decodeWord, decodeCapability, q0, q1, q2, q3, q4, q5, q6, q7, ALevel.ofCode_code]⟩
theorem EncodeDecode.cfree (a : BitVec 4) : EncodeDecode.Statement (.cfree a) := by
  intro hw nb wd hq
  obtain ⟨rfl, he⟩ := word_eq (show some (32, Sys2Proof.fill 0x2000017 [(12, a.toNat)]) = some (nb, wd) from hq)
  simp only [Sys2Proof.fill] at he
  have p0 : wd / 2 ^ 0 = 23 + 2 ^ 7 * (0 + 2 ^ 5 * (a.toNat + 2 ^ 4 * (0 + 2 ^ 9 * (1 + 2 ^ 7 * 0)))) := by omega
  have ⟨m0, p1⟩ := peel p0 (by decide)
  have ⟨m1, p2⟩ := peel p1 (by decide)
  have ⟨m2, p3⟩ := peel p2 (a.isLt)
  have ⟨m3, p4⟩ := peel p3 (by decide)
  have ⟨m4, p5⟩ := peel p4 (by decide)
  have q0 : wd % 128 = 23 := (by simpa using m0)
  have q1 : field 5 7 wd = 0 := m1
  have q2 : bits 4 12 wd = a := bits_of m2
  have q3 : field 9 16 wd = 0 := m3
  have q4 : field 7 25 wd = 1 := m4
  exact .inr ⟨rfl, lt_of p5, par_of m0, by simp [decodeWord, decodeCapability, q0, q1, q2, q3, q4]⟩
theorem EncodeDecode.cget (d : BitVec 5) (a : BitVec 4) (s : BitVec 3) : EncodeDecode.Statement (.cget d a s) := by
  intro hw nb wd hq
  obtain ⟨rfl, he⟩ := word_eq (show some (32, Sys2Proof.fill 0x4000017 [(7, d.toNat), (12, a.toNat), (22, s.toNat)]) = some (nb, wd) from hq)
  simp only [Sys2Proof.fill] at he
  have p0 : wd / 2 ^ 0 = 23 + 2 ^ 7 * (d.toNat + 2 ^ 5 * (a.toNat + 2 ^ 4 * (0 + 2 ^ 6 * (s.toNat + 2 ^ 3 * (2 + 2 ^ 7 * 0))))) := by omega
  have ⟨m0, p1⟩ := peel p0 (by decide)
  have ⟨m1, p2⟩ := peel p1 (d.isLt)
  have ⟨m2, p3⟩ := peel p2 (a.isLt)
  have ⟨m3, p4⟩ := peel p3 (by decide)
  have ⟨m4, p5⟩ := peel p4 (s.isLt)
  have ⟨m5, p6⟩ := peel p5 (by decide)
  have q0 : wd % 128 = 23 := (by simpa using m0)
  have q1 : bits 5 7 wd = d := bits_of m1
  have q2 : bits 4 12 wd = a := bits_of m2
  have q3 : field 6 16 wd = 0 := m3
  have q4 : bits 3 22 wd = s := bits_of m4
  have q5 : field 7 25 wd = 2 := m5
  exact .inr ⟨rfl, lt_of p6, par_of m0, by simp [decodeWord, decodeCapability, q0, q1, q2, q3, q4, q5]⟩
theorem EncodeDecode.cnarrow (d : BitVec 4) (a : BitVec 4) (m : BitVec 4) : EncodeDecode.Statement (.cnarrow d a m) := by
  intro hw nb wd hq
  obtain ⟨rfl, he⟩ := word_eq (show some (32, Sys2Proof.fill 0x6000017 [(7, d.toNat), (12, a.toNat), (17, m.toNat)]) = some (nb, wd) from hq)
  simp only [Sys2Proof.fill] at he
  have p0 : wd / 2 ^ 0 = 23 + 2 ^ 7 * (d.toNat + 2 ^ 4 * (0 + 2 ^ 1 * (a.toNat + 2 ^ 4 * (0 + 2 ^ 1 * (m.toNat + 2 ^ 4 * (0 + 2 ^ 4 * (3 + 2 ^ 7 * 0))))))) := by omega
  have ⟨m0, p1⟩ := peel p0 (by decide)
  have ⟨m1, p2⟩ := peel p1 (d.isLt)
  have ⟨m2, p3⟩ := peel p2 (by decide)
  have ⟨m3, p4⟩ := peel p3 (a.isLt)
  have ⟨m4, p5⟩ := peel p4 (by decide)
  have ⟨m5, p6⟩ := peel p5 (m.isLt)
  have ⟨m6, p7⟩ := peel p6 (by decide)
  have ⟨m7, p8⟩ := peel p7 (by decide)
  have q0 : wd % 128 = 23 := (by simpa using m0)
  have q1 : bits 4 7 wd = d := bits_of m1
  have q2 : field 1 11 wd = 0 := m2
  have q3 : bits 4 12 wd = a := bits_of m3
  have q4 : field 1 16 wd = 0 := m4
  have q5 : bits 4 17 wd = m := bits_of m5
  have q6 : field 4 21 wd = 0 := m6
  have q7 : field 7 25 wd = 3 := m7
  exact .inr ⟨rfl, lt_of p8, par_of m0, by simp [decodeWord, decodeCapability, q0, q1, q2, q3, q4, q5, q6, q7]⟩
theorem EncodeDecode.csplit (d : BitVec 4) (a : BitVec 4) (b : BitVec 5) : EncodeDecode.Statement (.csplit d a b) := by
  intro hw nb wd hq
  obtain ⟨rfl, he⟩ := word_eq (show some (32, Sys2Proof.fill 0x8000017 [(7, d.toNat), (12, a.toNat), (17, b.toNat)]) = some (nb, wd) from hq)
  simp only [Sys2Proof.fill] at he
  have p0 : wd / 2 ^ 0 = 23 + 2 ^ 7 * (d.toNat + 2 ^ 4 * (0 + 2 ^ 1 * (a.toNat + 2 ^ 4 * (0 + 2 ^ 1 * (b.toNat + 2 ^ 5 * (0 + 2 ^ 3 * (4 + 2 ^ 7 * 0))))))) := by omega
  have ⟨m0, p1⟩ := peel p0 (by decide)
  have ⟨m1, p2⟩ := peel p1 (d.isLt)
  have ⟨m2, p3⟩ := peel p2 (by decide)
  have ⟨m3, p4⟩ := peel p3 (a.isLt)
  have ⟨m4, p5⟩ := peel p4 (by decide)
  have ⟨m5, p6⟩ := peel p5 (b.isLt)
  have ⟨m6, p7⟩ := peel p6 (by decide)
  have ⟨m7, p8⟩ := peel p7 (by decide)
  have q0 : wd % 128 = 23 := (by simpa using m0)
  have q1 : bits 4 7 wd = d := bits_of m1
  have q2 : field 1 11 wd = 0 := m2
  have q3 : bits 4 12 wd = a := bits_of m3
  have q4 : field 1 16 wd = 0 := m4
  have q5 : bits 5 17 wd = b := bits_of m5
  have q6 : field 3 22 wd = 0 := m6
  have q7 : field 7 25 wd = 4 := m7
  exact .inr ⟨rfl, lt_of p8, par_of m0, by simp [decodeWord, decodeCapability, q0, q1, q2, q3, q4, q5, q6, q7]⟩
theorem EncodeDecode.cjoin (a : BitVec 4) (b : BitVec 4) : EncodeDecode.Statement (.cjoin a b) := by
  intro hw nb wd hq
  obtain ⟨rfl, he⟩ := word_eq (show some (32, Sys2Proof.fill 0xa000017 [(12, a.toNat), (17, b.toNat)]) = some (nb, wd) from hq)
  simp only [Sys2Proof.fill] at he
  have p0 : wd / 2 ^ 0 = 23 + 2 ^ 7 * (0 + 2 ^ 5 * (a.toNat + 2 ^ 4 * (0 + 2 ^ 1 * (b.toNat + 2 ^ 4 * (0 + 2 ^ 4 * (5 + 2 ^ 7 * 0)))))) := by omega
  have ⟨m0, p1⟩ := peel p0 (by decide)
  have ⟨m1, p2⟩ := peel p1 (by decide)
  have ⟨m2, p3⟩ := peel p2 (a.isLt)
  have ⟨m3, p4⟩ := peel p3 (by decide)
  have ⟨m4, p5⟩ := peel p4 (b.isLt)
  have ⟨m5, p6⟩ := peel p5 (by decide)
  have ⟨m6, p7⟩ := peel p6 (by decide)
  have q0 : wd % 128 = 23 := (by simpa using m0)
  have q1 : field 5 7 wd = 0 := m1
  have q2 : bits 4 12 wd = a := bits_of m2
  have q3 : field 1 16 wd = 0 := m3
  have q4 : bits 4 17 wd = b := bits_of m4
  have q5 : field 4 21 wd = 0 := m5
  have q6 : field 7 25 wd = 5 := m6
  exact .inr ⟨rfl, lt_of p7, par_of m0, by simp [decodeWord, decodeCapability, q0, q1, q2, q3, q4, q5, q6]⟩
theorem EncodeDecode.csendKeep (d : BitVec 5) (a : BitVec 4) (b : BitVec 5) : EncodeDecode.Statement (.csendKeep d a b) := by
  intro hw nb wd hq
  have hv : ((b.toNat % 2 == 0 : Bool)) = true := hw
  simp at hv
  obtain ⟨rfl, he⟩ := word_eq (show some (32, Sys2Proof.fill 0xc000017 [(7, d.toNat), (12, a.toNat), (17, b.toNat)]) = some (nb, wd) from hq)
  simp only [Sys2Proof.fill] at he
  have p0 : wd / 2 ^ 0 = 23 + 2 ^ 7 * (d.toNat + 2 ^ 5 * (a.toNat + 2 ^ 4 * (0 + 2 ^ 1 * (b.toNat + 2 ^ 5 * (0 + 2 ^ 3 * (6 + 2 ^ 7 * 0)))))) := by omega
  have ⟨m0, p1⟩ := peel p0 (by decide)
  have ⟨m1, p2⟩ := peel p1 (d.isLt)
  have ⟨m2, p3⟩ := peel p2 (a.isLt)
  have ⟨m3, p4⟩ := peel p3 (by decide)
  have ⟨m4, p5⟩ := peel p4 (b.isLt)
  have ⟨m5, p6⟩ := peel p5 (by decide)
  have ⟨m6, p7⟩ := peel p6 (by decide)
  have q0 : wd % 128 = 23 := (by simpa using m0)
  have q1 : bits 5 7 wd = d := bits_of m1
  have q2 : bits 4 12 wd = a := bits_of m2
  have q3 : field 1 16 wd = 0 := m3
  have q4 : bits 5 17 wd = b := bits_of m4
  have q5 : field 3 22 wd = 0 := m5
  have q6 : field 7 25 wd = 6 := m6
  exact .inr ⟨rfl, lt_of p7, par_of m0, by simp [decodeWord, decodeCapability, q0, q1, q2, q3, q4, q5, q6, hv]⟩
theorem EncodeDecode.csendMove (d : BitVec 5) (a : BitVec 4) (b : BitVec 5) : EncodeDecode.Statement (.csendMove d a b) := by
  intro hw nb wd hq
  have hv : ((b.toNat % 2 == 0 : Bool)) = true := hw
  simp at hv
  obtain ⟨rfl, he⟩ := word_eq (show some (32, Sys2Proof.fill 0xc400017 [(7, d.toNat), (12, a.toNat), (17, b.toNat)]) = some (nb, wd) from hq)
  simp only [Sys2Proof.fill] at he
  have p0 : wd / 2 ^ 0 = 23 + 2 ^ 7 * (d.toNat + 2 ^ 5 * (a.toNat + 2 ^ 4 * (0 + 2 ^ 1 * (b.toNat + 2 ^ 5 * (1 + 2 ^ 3 * (6 + 2 ^ 7 * 0)))))) := by omega
  have ⟨m0, p1⟩ := peel p0 (by decide)
  have ⟨m1, p2⟩ := peel p1 (d.isLt)
  have ⟨m2, p3⟩ := peel p2 (a.isLt)
  have ⟨m3, p4⟩ := peel p3 (by decide)
  have ⟨m4, p5⟩ := peel p4 (b.isLt)
  have ⟨m5, p6⟩ := peel p5 (by decide)
  have ⟨m6, p7⟩ := peel p6 (by decide)
  have q0 : wd % 128 = 23 := (by simpa using m0)
  have q1 : bits 5 7 wd = d := bits_of m1
  have q2 : bits 4 12 wd = a := bits_of m2
  have q3 : field 1 16 wd = 0 := m3
  have q4 : bits 5 17 wd = b := bits_of m4
  have q5 : field 3 22 wd = 1 := m5
  have q6 : field 7 25 wd = 6 := m6
  exact .inr ⟨rfl, lt_of p7, par_of m0, by simp [decodeWord, decodeCapability, q0, q1, q2, q3, q4, q5, q6, hv]⟩
theorem EncodeDecode.csendAuto (d : BitVec 5) (a : BitVec 4) (b : BitVec 5) : EncodeDecode.Statement (.csendAuto d a b) := by
  intro hw nb wd hq
  have hv : ((b.toNat % 2 == 0 : Bool)) = true := hw
  simp at hv
  obtain ⟨rfl, he⟩ := word_eq (show some (32, Sys2Proof.fill 0xc800017 [(7, d.toNat), (12, a.toNat), (17, b.toNat)]) = some (nb, wd) from hq)
  simp only [Sys2Proof.fill] at he
  have p0 : wd / 2 ^ 0 = 23 + 2 ^ 7 * (d.toNat + 2 ^ 5 * (a.toNat + 2 ^ 4 * (0 + 2 ^ 1 * (b.toNat + 2 ^ 5 * (2 + 2 ^ 3 * (6 + 2 ^ 7 * 0)))))) := by omega
  have ⟨m0, p1⟩ := peel p0 (by decide)
  have ⟨m1, p2⟩ := peel p1 (d.isLt)
  have ⟨m2, p3⟩ := peel p2 (a.isLt)
  have ⟨m3, p4⟩ := peel p3 (by decide)
  have ⟨m4, p5⟩ := peel p4 (b.isLt)
  have ⟨m5, p6⟩ := peel p5 (by decide)
  have ⟨m6, p7⟩ := peel p6 (by decide)
  have q0 : wd % 128 = 23 := (by simpa using m0)
  have q1 : bits 5 7 wd = d := bits_of m1
  have q2 : bits 4 12 wd = a := bits_of m2
  have q3 : field 1 16 wd = 0 := m3
  have q4 : bits 5 17 wd = b := bits_of m4
  have q5 : field 3 22 wd = 2 := m5
  have q6 : field 7 25 wd = 6 := m6
  exact .inr ⟨rfl, lt_of p7, par_of m0, by simp [decodeWord, decodeCapability, q0, q1, q2, q3, q4, q5, q6, hv]⟩
theorem EncodeDecode.csendDup (d : BitVec 5) (a : BitVec 4) (b : BitVec 5) : EncodeDecode.Statement (.csendDup d a b) := by
  intro hw nb wd hq
  have hv : ((b.toNat % 2 == 0 : Bool)) = true := hw
  simp at hv
  obtain ⟨rfl, he⟩ := word_eq (show some (32, Sys2Proof.fill 0xcc00017 [(7, d.toNat), (12, a.toNat), (17, b.toNat)]) = some (nb, wd) from hq)
  simp only [Sys2Proof.fill] at he
  have p0 : wd / 2 ^ 0 = 23 + 2 ^ 7 * (d.toNat + 2 ^ 5 * (a.toNat + 2 ^ 4 * (0 + 2 ^ 1 * (b.toNat + 2 ^ 5 * (3 + 2 ^ 3 * (6 + 2 ^ 7 * 0)))))) := by omega
  have ⟨m0, p1⟩ := peel p0 (by decide)
  have ⟨m1, p2⟩ := peel p1 (d.isLt)
  have ⟨m2, p3⟩ := peel p2 (a.isLt)
  have ⟨m3, p4⟩ := peel p3 (by decide)
  have ⟨m4, p5⟩ := peel p4 (b.isLt)
  have ⟨m5, p6⟩ := peel p5 (by decide)
  have ⟨m6, p7⟩ := peel p6 (by decide)
  have q0 : wd % 128 = 23 := (by simpa using m0)
  have q1 : bits 5 7 wd = d := bits_of m1
  have q2 : bits 4 12 wd = a := bits_of m2
  have q3 : field 1 16 wd = 0 := m3
  have q4 : bits 5 17 wd = b := bits_of m4
  have q5 : field 3 22 wd = 3 := m5
  have q6 : field 7 25 wd = 6 := m6
  exact .inr ⟨rfl, lt_of p7, par_of m0, by simp [decodeWord, decodeCapability, q0, q1, q2, q3, q4, q5, q6, hv]⟩
theorem EncodeDecode.crecv (d : BitVec 4) (p : BitVec 5) (s : BitVec 5) (o : RecvOpt) : EncodeDecode.Statement (.crecv d p s o) := by
  intro hw nb wd hq
  have hv : ((p.toNat % 2 == 0 : Bool)) = true := hw
  simp at hv
  obtain ⟨rfl, he⟩ := word_eq (show some (32, Sys2Proof.fill 0xe000017 [(7, d.toNat), (12, p.toNat), (17, s.toNat), (22, o.code)]) = some (nb, wd) from hq)
  simp only [Sys2Proof.fill] at he
  have p0 : wd / 2 ^ 0 = 23 + 2 ^ 7 * (d.toNat + 2 ^ 4 * (0 + 2 ^ 1 * (p.toNat + 2 ^ 5 * (s.toNat + 2 ^ 5 * (o.code + 2 ^ 2 * (0 + 2 ^ 1 * (7 + 2 ^ 7 * 0))))))) := by omega
  have ⟨m0, p1⟩ := peel p0 (by decide)
  have ⟨m1, p2⟩ := peel p1 (d.isLt)
  have ⟨m2, p3⟩ := peel p2 (by decide)
  have ⟨m3, p4⟩ := peel p3 (p.isLt)
  have ⟨m4, p5⟩ := peel p4 (s.isLt)
  have ⟨m5, p6⟩ := peel p5 (RecvOpt.code_lt o)
  have ⟨m6, p7⟩ := peel p6 (by decide)
  have ⟨m7, p8⟩ := peel p7 (by decide)
  have q0 : wd % 128 = 23 := (by simpa using m0)
  have q1 : bits 4 7 wd = d := bits_of m1
  have q2 : field 1 11 wd = 0 := m2
  have q3 : bits 5 12 wd = p := bits_of m3
  have q4 : bits 5 17 wd = s := bits_of m4
  have q5 : field 2 22 wd = o.code := m5
  have q6 : field 1 24 wd = 0 := m6
  have q7 : field 7 25 wd = 7 := m7
  exact .inr ⟨rfl, lt_of p8, par_of m0, by simp [decodeWord, decodeCapability, q0, q1, q2, q3, q4, q5, q6, q7, RecvOpt.ofCode_code, hv]⟩
theorem EncodeDecode.cwait (a : BitVec 4) (c : WaitCond) : EncodeDecode.Statement (.cwait a c) := by
  intro hw nb wd hq
  obtain ⟨rfl, he⟩ := word_eq (show some (32, Sys2Proof.fill 0x10000017 [(12, a.toNat), (22, c.code)]) = some (nb, wd) from hq)
  simp only [Sys2Proof.fill] at he
  have p0 : wd / 2 ^ 0 = 23 + 2 ^ 7 * (0 + 2 ^ 5 * (a.toNat + 2 ^ 4 * (0 + 2 ^ 6 * (c.code + 2 ^ 2 * (0 + 2 ^ 1 * (8 + 2 ^ 7 * 0)))))) := by omega
  have ⟨m0, p1⟩ := peel p0 (by decide)
  have ⟨m1, p2⟩ := peel p1 (by decide)
  have ⟨m2, p3⟩ := peel p2 (a.isLt)
  have ⟨m3, p4⟩ := peel p3 (by decide)
  have ⟨m4, p5⟩ := peel p4 (WaitCond.code_lt c)
  have ⟨m5, p6⟩ := peel p5 (by decide)
  have ⟨m6, p7⟩ := peel p6 (by decide)
  have q0 : wd % 128 = 23 := (by simpa using m0)
  have q1 : field 5 7 wd = 0 := m1
  have q2 : bits 4 12 wd = a := bits_of m2
  have q3 : field 6 16 wd = 0 := m3
  have q4 : field 2 22 wd = c.code := m4
  have q5 : field 1 24 wd = 0 := m5
  have q6 : field 7 25 wd = 8 := m6
  exact .inr ⟨rfl, lt_of p7, par_of m0, by simp [decodeWord, decodeCapability, q0, q1, q2, q3, q4, q5, q6, WaitCond.ofCode_code]⟩
theorem EncodeDecode.crevoke (a : BitVec 4) (m : RevMode) : EncodeDecode.Statement (.crevoke a m) := by
  intro hw nb wd hq
  obtain ⟨rfl, he⟩ := word_eq (show some (32, Sys2Proof.fill 0x12000017 [(12, a.toNat), (22, m.code)]) = some (nb, wd) from hq)
  simp only [Sys2Proof.fill] at he
  have p0 : wd / 2 ^ 0 = 23 + 2 ^ 7 * (0 + 2 ^ 5 * (a.toNat + 2 ^ 4 * (0 + 2 ^ 6 * (m.code + 2 ^ 1 * (0 + 2 ^ 2 * (9 + 2 ^ 7 * 0)))))) := by omega
  have ⟨m0, p1⟩ := peel p0 (by decide)
  have ⟨m1, p2⟩ := peel p1 (by decide)
  have ⟨m2, p3⟩ := peel p2 (a.isLt)
  have ⟨m3, p4⟩ := peel p3 (by decide)
  have ⟨m4, p5⟩ := peel p4 (RevMode.code_lt m)
  have ⟨m5, p6⟩ := peel p5 (by decide)
  have ⟨m6, p7⟩ := peel p6 (by decide)
  have q0 : wd % 128 = 23 := (by simpa using m0)
  have q1 : field 5 7 wd = 0 := m1
  have q2 : bits 4 12 wd = a := bits_of m2
  have q3 : field 6 16 wd = 0 := m3
  have q4 : field 1 22 wd = m.code := m4
  have q5 : field 2 23 wd = 0 := m5
  have q6 : field 7 25 wd = 9 := m6
  exact .inr ⟨rfl, lt_of p7, par_of m0, by simp [decodeWord, decodeCapability, q0, q1, q2, q3, q4, q5, q6, RevMode.ofCode_code]⟩
theorem EncodeDecode.cmarkFill (a : BitVec 4) : EncodeDecode.Statement (.cmarkFill a) := by
  intro hw nb wd hq
  obtain ⟨rfl, he⟩ := word_eq (show some (32, Sys2Proof.fill 0x14000017 [(12, a.toNat)]) = some (nb, wd) from hq)
  simp only [Sys2Proof.fill] at he
  have p0 : wd / 2 ^ 0 = 23 + 2 ^ 7 * (0 + 2 ^ 5 * (a.toNat + 2 ^ 4 * (0 + 2 ^ 9 * (10 + 2 ^ 7 * 0)))) := by omega
  have ⟨m0, p1⟩ := peel p0 (by decide)
  have ⟨m1, p2⟩ := peel p1 (by decide)
  have ⟨m2, p3⟩ := peel p2 (a.isLt)
  have ⟨m3, p4⟩ := peel p3 (by decide)
  have ⟨m4, p5⟩ := peel p4 (by decide)
  have q0 : wd % 128 = 23 := (by simpa using m0)
  have q1 : field 5 7 wd = 0 := m1
  have q2 : bits 4 12 wd = a := bits_of m2
  have q3 : field 9 16 wd = 0 := m3
  have q4 : field 7 25 wd = 10 := m4
  exact .inr ⟨rfl, lt_of p5, par_of m0, by simp [decodeWord, decodeCapability, q0, q1, q2, q3, q4]⟩
theorem EncodeDecode.cmarkFull (a : BitVec 4) : EncodeDecode.Statement (.cmarkFull a) := by
  intro hw nb wd hq
  obtain ⟨rfl, he⟩ := word_eq (show some (32, Sys2Proof.fill 0x14400017 [(12, a.toNat)]) = some (nb, wd) from hq)
  simp only [Sys2Proof.fill] at he
  have p0 : wd / 2 ^ 0 = 23 + 2 ^ 7 * (0 + 2 ^ 5 * (a.toNat + 2 ^ 4 * (64 + 2 ^ 9 * (10 + 2 ^ 7 * 0)))) := by omega
  have ⟨m0, p1⟩ := peel p0 (by decide)
  have ⟨m1, p2⟩ := peel p1 (by decide)
  have ⟨m2, p3⟩ := peel p2 (a.isLt)
  have ⟨m3, p4⟩ := peel p3 (by decide)
  have ⟨m4, p5⟩ := peel p4 (by decide)
  have q0 : wd % 128 = 23 := (by simpa using m0)
  have q1 : field 5 7 wd = 0 := m1
  have q2 : bits 4 12 wd = a := bits_of m2
  have q3 : field 9 16 wd = 64 := m3
  have q4 : field 7 25 wd = 10 := m4
  exact .inr ⟨rfl, lt_of p5, par_of m0, by simp [decodeWord, decodeCapability, q0, q1, q2, q3, q4]⟩
theorem EncodeDecode.cmarkClrp (a : BitVec 4) : EncodeDecode.Statement (.cmarkClrp a) := by
  intro hw nb wd hq
  obtain ⟨rfl, he⟩ := word_eq (show some (32, Sys2Proof.fill 0x14800017 [(12, a.toNat)]) = some (nb, wd) from hq)
  simp only [Sys2Proof.fill] at he
  have p0 : wd / 2 ^ 0 = 23 + 2 ^ 7 * (0 + 2 ^ 5 * (a.toNat + 2 ^ 4 * (128 + 2 ^ 9 * (10 + 2 ^ 7 * 0)))) := by omega
  have ⟨m0, p1⟩ := peel p0 (by decide)
  have ⟨m1, p2⟩ := peel p1 (by decide)
  have ⟨m2, p3⟩ := peel p2 (a.isLt)
  have ⟨m3, p4⟩ := peel p3 (by decide)
  have ⟨m4, p5⟩ := peel p4 (by decide)
  have q0 : wd % 128 = 23 := (by simpa using m0)
  have q1 : field 5 7 wd = 0 := m1
  have q2 : bits 4 12 wd = a := bits_of m2
  have q3 : field 9 16 wd = 128 := m3
  have q4 : field 7 25 wd = 10 := m4
  exact .inr ⟨rfl, lt_of p5, par_of m0, by simp [decodeWord, decodeCapability, q0, q1, q2, q3, q4]⟩
theorem EncodeDecode.qw (s : BitVec 5) (n : BitVec 3) : EncodeDecode.Statement (.qw s n) := by
  intro hw nb wd hq
  have hv : ((n.toNat < 4 : Bool)) = true := hw
  simp at hv
  obtain ⟨rfl, he⟩ := word_eq (show some (32, Sys2Proof.fill 0x19 [(12, s.toNat), (17, n.toNat)]) = some (nb, wd) from hq)
  simp only [Sys2Proof.fill] at he
  have p0 : wd / 2 ^ 0 = 25 + 2 ^ 7 * (0 + 2 ^ 5 * (s.toNat + 2 ^ 5 * (n.toNat + 2 ^ 3 * (0 + 2 ^ 5 * (0 + 2 ^ 7 * 0))))) := by omega
  have ⟨m0, p1⟩ := peel p0 (by decide)
  have ⟨m1, p2⟩ := peel p1 (by decide)
  have ⟨m2, p3⟩ := peel p2 (s.isLt)
  have ⟨m3, p4⟩ := peel p3 (n.isLt)
  have ⟨m4, p5⟩ := peel p4 (by decide)
  have ⟨m5, p6⟩ := peel p5 (by decide)
  have q0 : wd % 128 = 25 := (by simpa using m0)
  have q1 : field 5 7 wd = 0 := m1
  have q2 : bits 5 12 wd = s := bits_of m2
  have q3 : bits 3 17 wd = n := bits_of m3
  have q4 : field 5 20 wd = 0 := m4
  have q5 : field 7 25 wd = 0 := m5
  exact .inr ⟨rfl, lt_of p6, par_of m0, by simp [decodeWord, decodeQueue, q0, q1, q2, q3, q4, q5, hv]⟩
theorem EncodeDecode.qr (d : BitVec 5) (n : BitVec 3) : EncodeDecode.Statement (.qr d n) := by
  intro hw nb wd hq
  have hv : ((n.toNat < 4 : Bool)) = true := hw
  simp at hv
  obtain ⟨rfl, he⟩ := word_eq (show some (32, Sys2Proof.fill 0x2000019 [(7, d.toNat), (17, n.toNat)]) = some (nb, wd) from hq)
  simp only [Sys2Proof.fill] at he
  have p0 : wd / 2 ^ 0 = 25 + 2 ^ 7 * (d.toNat + 2 ^ 5 * (0 + 2 ^ 5 * (n.toNat + 2 ^ 3 * (0 + 2 ^ 5 * (1 + 2 ^ 7 * 0))))) := by omega
  have ⟨m0, p1⟩ := peel p0 (by decide)
  have ⟨m1, p2⟩ := peel p1 (d.isLt)
  have ⟨m2, p3⟩ := peel p2 (by decide)
  have ⟨m3, p4⟩ := peel p3 (n.isLt)
  have ⟨m4, p5⟩ := peel p4 (by decide)
  have ⟨m5, p6⟩ := peel p5 (by decide)
  have q0 : wd % 128 = 25 := (by simpa using m0)
  have q1 : bits 5 7 wd = d := bits_of m1
  have q2 : field 5 12 wd = 0 := m2
  have q3 : bits 3 17 wd = n := bits_of m3
  have q4 : field 5 20 wd = 0 := m4
  have q5 : field 7 25 wd = 1 := m5
  exact .inr ⟨rfl, lt_of p6, par_of m0, by simp [decodeWord, decodeQueue, q0, q1, q2, q3, q4, q5, hv]⟩
theorem EncodeDecode.vqw (s : BitVec 5) (n : BitVec 3) : EncodeDecode.Statement (.vqw s n) := by
  intro hw nb wd hq
  have hv : ((4 ≤ n.toNat : Bool)) = true := hw
  simp at hv
  obtain ⟨rfl, he⟩ := word_eq (show some (32, Sys2Proof.fill 0x4000019 [(12, s.toNat), (17, n.toNat)]) = some (nb, wd) from hq)
  simp only [Sys2Proof.fill] at he
  have p0 : wd / 2 ^ 0 = 25 + 2 ^ 7 * (0 + 2 ^ 5 * (s.toNat + 2 ^ 5 * (n.toNat + 2 ^ 3 * (0 + 2 ^ 5 * (2 + 2 ^ 7 * 0))))) := by omega
  have ⟨m0, p1⟩ := peel p0 (by decide)
  have ⟨m1, p2⟩ := peel p1 (by decide)
  have ⟨m2, p3⟩ := peel p2 (s.isLt)
  have ⟨m3, p4⟩ := peel p3 (n.isLt)
  have ⟨m4, p5⟩ := peel p4 (by decide)
  have ⟨m5, p6⟩ := peel p5 (by decide)
  have q0 : wd % 128 = 25 := (by simpa using m0)
  have q1 : field 5 7 wd = 0 := m1
  have q2 : bits 5 12 wd = s := bits_of m2
  have q3 : bits 3 17 wd = n := bits_of m3
  have q4 : field 5 20 wd = 0 := m4
  have q5 : field 7 25 wd = 2 := m5
  exact .inr ⟨rfl, lt_of p6, par_of m0, by simp [decodeWord, decodeQueue, q0, q1, q2, q3, q4, q5, hv]⟩
theorem EncodeDecode.vqr (d : BitVec 5) (n : BitVec 3) : EncodeDecode.Statement (.vqr d n) := by
  intro hw nb wd hq
  have hv : ((4 ≤ n.toNat : Bool)) = true := hw
  simp at hv
  obtain ⟨rfl, he⟩ := word_eq (show some (32, Sys2Proof.fill 0x6000019 [(7, d.toNat), (17, n.toNat)]) = some (nb, wd) from hq)
  simp only [Sys2Proof.fill] at he
  have p0 : wd / 2 ^ 0 = 25 + 2 ^ 7 * (d.toNat + 2 ^ 5 * (0 + 2 ^ 5 * (n.toNat + 2 ^ 3 * (0 + 2 ^ 5 * (3 + 2 ^ 7 * 0))))) := by omega
  have ⟨m0, p1⟩ := peel p0 (by decide)
  have ⟨m1, p2⟩ := peel p1 (d.isLt)
  have ⟨m2, p3⟩ := peel p2 (by decide)
  have ⟨m3, p4⟩ := peel p3 (n.isLt)
  have ⟨m4, p5⟩ := peel p4 (by decide)
  have ⟨m5, p6⟩ := peel p5 (by decide)
  have q0 : wd % 128 = 25 := (by simpa using m0)
  have q1 : bits 5 7 wd = d := bits_of m1
  have q2 : field 5 12 wd = 0 := m2
  have q3 : bits 3 17 wd = n := bits_of m3
  have q4 : field 5 20 wd = 0 := m4
  have q5 : field 7 25 wd = 3 := m5
  exact .inr ⟨rfl, lt_of p6, par_of m0, by simp [decodeWord, decodeQueue, q0, q1, q2, q3, q4, q5, hv]⟩
theorem EncodeDecode.sfork (d : BitVec 5) (a : BitVec 5) (b : BitVec 5) : EncodeDecode.Statement (.sfork d a b) := by
  intro hw nb wd hq
  obtain ⟨rfl, he⟩ := word_eq (show some (32, Sys2Proof.fill 0x8000019 [(7, d.toNat), (12, a.toNat), (17, b.toNat)]) = some (nb, wd) from hq)
  simp only [Sys2Proof.fill] at he
  have p0 : wd / 2 ^ 0 = 25 + 2 ^ 7 * (d.toNat + 2 ^ 5 * (a.toNat + 2 ^ 5 * (b.toNat + 2 ^ 5 * (0 + 2 ^ 3 * (4 + 2 ^ 7 * 0))))) := by omega
  have ⟨m0, p1⟩ := peel p0 (by decide)
  have ⟨m1, p2⟩ := peel p1 (d.isLt)
  have ⟨m2, p3⟩ := peel p2 (a.isLt)
  have ⟨m3, p4⟩ := peel p3 (b.isLt)
  have ⟨m4, p5⟩ := peel p4 (by decide)
  have ⟨m5, p6⟩ := peel p5 (by decide)
  have q0 : wd % 128 = 25 := (by simpa using m0)
  have q1 : bits 5 7 wd = d := bits_of m1
  have q2 : bits 5 12 wd = a := bits_of m2
  have q3 : bits 5 17 wd = b := bits_of m3
  have q4 : field 3 22 wd = 0 := m4
  have q5 : field 7 25 wd = 4 := m5
  exact .inr ⟨rfl, lt_of p6, par_of m0, by simp [decodeWord, decodeQueue, q0, q1, q2, q3, q4, q5]⟩
theorem EncodeDecode.sjoin (a : BitVec 5) : EncodeDecode.Statement (.sjoin a) := by
  intro hw nb wd hq
  obtain ⟨rfl, he⟩ := word_eq (show some (32, Sys2Proof.fill 0xa000019 [(12, a.toNat)]) = some (nb, wd) from hq)
  simp only [Sys2Proof.fill] at he
  have p0 : wd / 2 ^ 0 = 25 + 2 ^ 7 * (0 + 2 ^ 5 * (a.toNat + 2 ^ 5 * (0 + 2 ^ 8 * (5 + 2 ^ 7 * 0)))) := by omega
  have ⟨m0, p1⟩ := peel p0 (by decide)
  have ⟨m1, p2⟩ := peel p1 (by decide)
  have ⟨m2, p3⟩ := peel p2 (a.isLt)
  have ⟨m3, p4⟩ := peel p3 (by decide)
  have ⟨m4, p5⟩ := peel p4 (by decide)
  have q0 : wd % 128 = 25 := (by simpa using m0)
  have q1 : field 5 7 wd = 0 := m1
  have q2 : bits 5 12 wd = a := bits_of m2
  have q3 : field 8 17 wd = 0 := m3
  have q4 : field 7 25 wd = 5 := m4
  exact .inr ⟨rfl, lt_of p5, par_of m0, by simp [decodeWord, decodeQueue, q0, q1, q2, q3, q4]⟩
theorem EncodeDecode.chw (s : BitVec 5) (r : Dir) : EncodeDecode.Statement (.chw s r) := by
  intro hw nb wd hq
  obtain ⟨rfl, he⟩ := word_eq (show some (32, Sys2Proof.fill 0xc000019 [(12, s.toNat), (17, r.code)]) = some (nb, wd) from hq)
  simp only [Sys2Proof.fill] at he
  have p0 : wd / 2 ^ 0 = 25 + 2 ^ 7 * (0 + 2 ^ 5 * (s.toNat + 2 ^ 5 * (r.code + 2 ^ 2 * (0 + 2 ^ 6 * (6 + 2 ^ 7 * 0))))) := by omega
  have ⟨m0, p1⟩ := peel p0 (by decide)
  have ⟨m1, p2⟩ := peel p1 (by decide)
  have ⟨m2, p3⟩ := peel p2 (s.isLt)
  have ⟨m3, p4⟩ := peel p3 (Dir.code_lt r)
  have ⟨m4, p5⟩ := peel p4 (by decide)
  have ⟨m5, p6⟩ := peel p5 (by decide)
  have q0 : wd % 128 = 25 := (by simpa using m0)
  have q1 : field 5 7 wd = 0 := m1
  have q2 : bits 5 12 wd = s := bits_of m2
  have q3 : field 2 17 wd = r.code := m3
  have q4 : field 6 19 wd = 0 := m4
  have q5 : field 7 25 wd = 6 := m5
  exact .inr ⟨rfl, lt_of p6, par_of m0, by simp [decodeWord, decodeQueue, q0, q1, q2, q3, q4, q5, Dir.ofCode_code]⟩
theorem EncodeDecode.chr (d : BitVec 5) (r : Dir) : EncodeDecode.Statement (.chr d r) := by
  intro hw nb wd hq
  obtain ⟨rfl, he⟩ := word_eq (show some (32, Sys2Proof.fill 0xe000019 [(7, d.toNat), (17, r.code)]) = some (nb, wd) from hq)
  simp only [Sys2Proof.fill] at he
  have p0 : wd / 2 ^ 0 = 25 + 2 ^ 7 * (d.toNat + 2 ^ 5 * (0 + 2 ^ 5 * (r.code + 2 ^ 2 * (0 + 2 ^ 6 * (7 + 2 ^ 7 * 0))))) := by omega
  have ⟨m0, p1⟩ := peel p0 (by decide)
  have ⟨m1, p2⟩ := peel p1 (d.isLt)
  have ⟨m2, p3⟩ := peel p2 (by decide)
  have ⟨m3, p4⟩ := peel p3 (Dir.code_lt r)
  have ⟨m4, p5⟩ := peel p4 (by decide)
  have ⟨m5, p6⟩ := peel p5 (by decide)
  have q0 : wd % 128 = 25 := (by simpa using m0)
  have q1 : bits 5 7 wd = d := bits_of m1
  have q2 : field 5 12 wd = 0 := m2
  have q3 : field 2 17 wd = r.code := m3
  have q4 : field 6 19 wd = 0 := m4
  have q5 : field 7 25 wd = 7 := m5
  exact .inr ⟨rfl, lt_of p6, par_of m0, by simp [decodeWord, decodeQueue, q0, q1, q2, q3, q4, q5, Dir.ofCode_code]⟩
theorem EncodeDecode.spawn (d : BitVec 5) (a : BitVec 4) (b : BitVec 5) : EncodeDecode.Statement (.spawn d a b) := by
  intro hw nb wd hq
  obtain ⟨rfl, he⟩ := word_eq (show some (32, Sys2Proof.fill 0x1b [(7, d.toNat), (12, a.toNat), (17, b.toNat)]) = some (nb, wd) from hq)
  simp only [Sys2Proof.fill] at he
  have p0 : wd / 2 ^ 0 = 27 + 2 ^ 7 * (d.toNat + 2 ^ 5 * (a.toNat + 2 ^ 4 * (0 + 2 ^ 1 * (b.toNat + 2 ^ 5 * (0 + 2 ^ 3 * (0 + 2 ^ 7 * 0)))))) := by omega
  have ⟨m0, p1⟩ := peel p0 (by decide)
  have ⟨m1, p2⟩ := peel p1 (d.isLt)
  have ⟨m2, p3⟩ := peel p2 (a.isLt)
  have ⟨m3, p4⟩ := peel p3 (by decide)
  have ⟨m4, p5⟩ := peel p4 (b.isLt)
  have ⟨m5, p6⟩ := peel p5 (by decide)
  have ⟨m6, p7⟩ := peel p6 (by decide)
  have q0 : wd % 128 = 27 := (by simpa using m0)
  have q1 : bits 5 7 wd = d := bits_of m1
  have q2 : bits 4 12 wd = a := bits_of m2
  have q3 : field 1 16 wd = 0 := m3
  have q4 : bits 5 17 wd = b := bits_of m4
  have q5 : field 3 22 wd = 0 := m5
  have q6 : field 7 25 wd = 0 := m6
  exact .inr ⟨rfl, lt_of p7, par_of m0, by simp [decodeWord, decodeTaskControl, q0, q1, q2, q3, q4, q5, q6]⟩
theorem EncodeDecode.spawnat (d : BitVec 5) (a : BitVec 4) (b : BitVec 5) : EncodeDecode.Statement (.spawnat d a b) := by
  intro hw nb wd hq
  obtain ⟨rfl, he⟩ := word_eq (show some (32, Sys2Proof.fill 0x200001b [(7, d.toNat), (12, a.toNat), (17, b.toNat)]) = some (nb, wd) from hq)
  simp only [Sys2Proof.fill] at he
  have p0 : wd / 2 ^ 0 = 27 + 2 ^ 7 * (d.toNat + 2 ^ 5 * (a.toNat + 2 ^ 4 * (0 + 2 ^ 1 * (b.toNat + 2 ^ 5 * (0 + 2 ^ 3 * (1 + 2 ^ 7 * 0)))))) := by omega
  have ⟨m0, p1⟩ := peel p0 (by decide)
  have ⟨m1, p2⟩ := peel p1 (d.isLt)
  have ⟨m2, p3⟩ := peel p2 (a.isLt)
  have ⟨m3, p4⟩ := peel p3 (by decide)
  have ⟨m4, p5⟩ := peel p4 (b.isLt)
  have ⟨m5, p6⟩ := peel p5 (by decide)
  have ⟨m6, p7⟩ := peel p6 (by decide)
  have q0 : wd % 128 = 27 := (by simpa using m0)
  have q1 : bits 5 7 wd = d := bits_of m1
  have q2 : bits 4 12 wd = a := bits_of m2
  have q3 : field 1 16 wd = 0 := m3
  have q4 : bits 5 17 wd = b := bits_of m4
  have q5 : field 3 22 wd = 0 := m5
  have q6 : field 7 25 wd = 1 := m6
  exact .inr ⟨rfl, lt_of p7, par_of m0, by simp [decodeWord, decodeTaskControl, q0, q1, q2, q3, q4, q5, q6]⟩
theorem EncodeDecode.joinw : EncodeDecode.Statement .joinw := by
  intro hw nb wd hq
  obtain ⟨rfl, he⟩ := word_eq (show some (32, Sys2Proof.fill 0x400001b []) = some (nb, wd) from hq)
  simp only [Sys2Proof.fill] at he
  have p0 : wd / 2 ^ 0 = 27 + 2 ^ 7 * (0 + 2 ^ 18 * (2 + 2 ^ 7 * 0)) := by omega
  have ⟨m0, p1⟩ := peel p0 (by decide)
  have ⟨m1, p2⟩ := peel p1 (by decide)
  have ⟨m2, p3⟩ := peel p2 (by decide)
  have q0 : wd % 128 = 27 := (by simpa using m0)
  have q1 : field 7 25 wd = 2 := m2
  have q2 : field 18 7 wd = 0 := m1
  exact .inr ⟨rfl, lt_of p3, par_of m0, by simp [decodeWord, decodeTaskControl, q0, q1, q2]⟩
theorem EncodeDecode.yield : EncodeDecode.Statement .yield := by
  intro hw nb wd hq
  obtain ⟨rfl, he⟩ := word_eq (show some (32, Sys2Proof.fill 0x600001b []) = some (nb, wd) from hq)
  simp only [Sys2Proof.fill] at he
  have p0 : wd / 2 ^ 0 = 27 + 2 ^ 7 * (0 + 2 ^ 18 * (3 + 2 ^ 7 * 0)) := by omega
  have ⟨m0, p1⟩ := peel p0 (by decide)
  have ⟨m1, p2⟩ := peel p1 (by decide)
  have ⟨m2, p3⟩ := peel p2 (by decide)
  have q0 : wd % 128 = 27 := (by simpa using m0)
  have q1 : field 7 25 wd = 3 := m2
  have q2 : field 18 7 wd = 0 := m1
  exact .inr ⟨rfl, lt_of p3, par_of m0, by simp [decodeWord, decodeTaskControl, q0, q1, q2]⟩
theorem EncodeDecode.exit : EncodeDecode.Statement .exit := by
  intro hw nb wd hq
  obtain ⟨rfl, he⟩ := word_eq (show some (32, Sys2Proof.fill 0x800001b []) = some (nb, wd) from hq)
  simp only [Sys2Proof.fill] at he
  have p0 : wd / 2 ^ 0 = 27 + 2 ^ 7 * (0 + 2 ^ 18 * (4 + 2 ^ 7 * 0)) := by omega
  have ⟨m0, p1⟩ := peel p0 (by decide)
  have ⟨m1, p2⟩ := peel p1 (by decide)
  have ⟨m2, p3⟩ := peel p2 (by decide)
  have q0 : wd % 128 = 27 := (by simpa using m0)
  have q1 : field 7 25 wd = 4 := m2
  have q2 : field 18 7 wd = 0 := m1
  exact .inr ⟨rfl, lt_of p3, par_of m0, by simp [decodeWord, decodeTaskControl, q0, q1, q2]⟩
theorem EncodeDecode.wakeat (a : BitVec 5) : EncodeDecode.Statement (.wakeat a) := by
  intro hw nb wd hq
  obtain ⟨rfl, he⟩ := word_eq (show some (32, Sys2Proof.fill 0xa00001b [(12, a.toNat)]) = some (nb, wd) from hq)
  simp only [Sys2Proof.fill] at he
  have p0 : wd / 2 ^ 0 = 27 + 2 ^ 7 * (0 + 2 ^ 5 * (a.toNat + 2 ^ 5 * (0 + 2 ^ 8 * (5 + 2 ^ 7 * 0)))) := by omega
  have ⟨m0, p1⟩ := peel p0 (by decide)
  have ⟨m1, p2⟩ := peel p1 (by decide)
  have ⟨m2, p3⟩ := peel p2 (a.isLt)
  have ⟨m3, p4⟩ := peel p3 (by decide)
  have ⟨m4, p5⟩ := peel p4 (by decide)
  have q0 : wd % 128 = 27 := (by simpa using m0)
  have q1 : field 5 7 wd = 0 := m1
  have q2 : bits 5 12 wd = a := bits_of m2
  have q3 : field 8 17 wd = 0 := m3
  have q4 : field 7 25 wd = 5 := m4
  exact .inr ⟨rfl, lt_of p5, par_of m0, by simp [decodeWord, decodeTaskControl, q0, q1, q2, q3, q4]⟩
theorem EncodeDecode.evth (a : BitVec 5) (b : BitVec 5) : EncodeDecode.Statement (.evth a b) := by
  intro hw nb wd hq
  obtain ⟨rfl, he⟩ := word_eq (show some (32, Sys2Proof.fill 0x1d [(12, a.toNat), (17, b.toNat)]) = some (nb, wd) from hq)
  simp only [Sys2Proof.fill] at he
  have p0 : wd / 2 ^ 0 = 29 + 2 ^ 7 * (0 + 2 ^ 5 * (a.toNat + 2 ^ 5 * (b.toNat + 2 ^ 5 * (0 + 2 ^ 3 * (0 + 2 ^ 7 * 0))))) := by omega
  have ⟨m0, p1⟩ := peel p0 (by decide)
  have ⟨m1, p2⟩ := peel p1 (by decide)
  have ⟨m2, p3⟩ := peel p2 (a.isLt)
  have ⟨m3, p4⟩ := peel p3 (b.isLt)
  have ⟨m4, p5⟩ := peel p4 (by decide)
  have ⟨m5, p6⟩ := peel p5 (by decide)
  have q0 : wd % 128 = 29 := (by simpa using m0)
  have q1 : field 5 7 wd = 0 := m1
  have q2 : bits 5 12 wd = a := bits_of m2
  have q3 : bits 5 17 wd = b := bits_of m3
  have q4 : field 3 22 wd = 0 := m4
  have q5 : field 7 25 wd = 0 := m5
  exact .inr ⟨rfl, lt_of p6, par_of m0, by simp [decodeWord, decodeSystem, q0, q1, q2, q3, q4, q5]⟩
theorem EncodeDecode.evret : EncodeDecode.Statement .evret := by
  intro hw nb wd hq
  obtain ⟨rfl, he⟩ := word_eq (show some (32, Sys2Proof.fill 0x200001d []) = some (nb, wd) from hq)
  simp only [Sys2Proof.fill] at he
  have p0 : wd / 2 ^ 0 = 29 + 2 ^ 7 * (0 + 2 ^ 18 * (1 + 2 ^ 7 * 0)) := by omega
  have ⟨m0, p1⟩ := peel p0 (by decide)
  have ⟨m1, p2⟩ := peel p1 (by decide)
  have ⟨m2, p3⟩ := peel p2 (by decide)
  have q0 : wd % 128 = 29 := (by simpa using m0)
  have q1 : field 7 25 wd = 1 := m2
  have q2 : field 18 7 wd = 0 := m1
  exact .inr ⟨rfl, lt_of p3, par_of m0, by simp [decodeWord, decodeSystem, q0, q1, q2]⟩
theorem EncodeDecode.trap (a : BitVec 5) : EncodeDecode.Statement (.trap a) := by
  intro hw nb wd hq
  obtain ⟨rfl, he⟩ := word_eq (show some (32, Sys2Proof.fill 0x400001d [(12, a.toNat)]) = some (nb, wd) from hq)
  simp only [Sys2Proof.fill] at he
  have p0 : wd / 2 ^ 0 = 29 + 2 ^ 7 * (0 + 2 ^ 5 * (a.toNat + 2 ^ 5 * (0 + 2 ^ 8 * (2 + 2 ^ 7 * 0)))) := by omega
  have ⟨m0, p1⟩ := peel p0 (by decide)
  have ⟨m1, p2⟩ := peel p1 (by decide)
  have ⟨m2, p3⟩ := peel p2 (a.isLt)
  have ⟨m3, p4⟩ := peel p3 (by decide)
  have ⟨m4, p5⟩ := peel p4 (by decide)
  have q0 : wd % 128 = 29 := (by simpa using m0)
  have q1 : field 5 7 wd = 0 := m1
  have q2 : bits 5 12 wd = a := bits_of m2
  have q3 : field 8 17 wd = 0 := m3
  have q4 : field 7 25 wd = 2 := m4
  exact .inr ⟨rfl, lt_of p5, par_of m0, by simp [decodeWord, decodeSystem, q0, q1, q2, q3, q4]⟩
theorem EncodeDecode.eret : EncodeDecode.Statement .eret := by
  intro hw nb wd hq
  obtain ⟨rfl, he⟩ := word_eq (show some (32, Sys2Proof.fill 0x600001d []) = some (nb, wd) from hq)
  simp only [Sys2Proof.fill] at he
  have p0 : wd / 2 ^ 0 = 29 + 2 ^ 7 * (0 + 2 ^ 18 * (3 + 2 ^ 7 * 0)) := by omega
  have ⟨m0, p1⟩ := peel p0 (by decide)
  have ⟨m1, p2⟩ := peel p1 (by decide)
  have ⟨m2, p3⟩ := peel p2 (by decide)
  have q0 : wd % 128 = 29 := (by simpa using m0)
  have q1 : field 7 25 wd = 3 := m2
  have q2 : field 18 7 wd = 0 := m1
  exact .inr ⟨rfl, lt_of p3, par_of m0, by simp [decodeWord, decodeSystem, q0, q1, q2]⟩
theorem EncodeDecode.rds (d : BitVec 5) (n : BitVec 12) : EncodeDecode.Statement (.rds d n) := by
  intro hw nb wd hq
  have hv : ((sregListed n.toNat : Bool)) = true := hw
  obtain ⟨rfl, he⟩ := word_eq (show some (32, Sys2Proof.fill 0x800001d [(7, d.toNat), (12, n.toNat)]) = some (nb, wd) from hq)
  simp only [Sys2Proof.fill] at he
  have p0 : wd / 2 ^ 0 = 29 + 2 ^ 7 * (d.toNat + 2 ^ 5 * (n.toNat + 2 ^ 12 * (0 + 2 ^ 1 * (4 + 2 ^ 7 * 0)))) := by omega
  have ⟨m0, p1⟩ := peel p0 (by decide)
  have ⟨m1, p2⟩ := peel p1 (d.isLt)
  have ⟨m2, p3⟩ := peel p2 (n.isLt)
  have ⟨m3, p4⟩ := peel p3 (by decide)
  have ⟨m4, p5⟩ := peel p4 (by decide)
  have q0 : wd % 128 = 29 := (by simpa using m0)
  have q1 : bits 5 7 wd = d := bits_of m1
  have q2 : bits 12 12 wd = n := bits_of m2
  have q3 : field 1 24 wd = 0 := m3
  have q4 : field 7 25 wd = 4 := m4
  exact .inr ⟨rfl, lt_of p5, par_of m0, by simp [decodeWord, decodeSystem, q0, q1, q2, q3, q4, hv]⟩
theorem EncodeDecode.wrs (s : BitVec 5) (n : BitVec 12) : EncodeDecode.Statement (.wrs s n) := by
  intro hw nb wd hq
  have hv : ((sregListed n.toNat : Bool)) = true := hw
  obtain ⟨rfl, he⟩ := word_eq (show some (32, Sys2Proof.fill 0xa00001d [(7, s.toNat), (12, n.toNat)]) = some (nb, wd) from hq)
  simp only [Sys2Proof.fill] at he
  have p0 : wd / 2 ^ 0 = 29 + 2 ^ 7 * (s.toNat + 2 ^ 5 * (n.toNat + 2 ^ 12 * (0 + 2 ^ 1 * (5 + 2 ^ 7 * 0)))) := by omega
  have ⟨m0, p1⟩ := peel p0 (by decide)
  have ⟨m1, p2⟩ := peel p1 (s.isLt)
  have ⟨m2, p3⟩ := peel p2 (n.isLt)
  have ⟨m3, p4⟩ := peel p3 (by decide)
  have ⟨m4, p5⟩ := peel p4 (by decide)
  have q0 : wd % 128 = 29 := (by simpa using m0)
  have q1 : bits 5 7 wd = s := bits_of m1
  have q2 : bits 12 12 wd = n := bits_of m2
  have q3 : field 1 24 wd = 0 := m3
  have q4 : field 7 25 wd = 5 := m4
  exact .inr ⟨rfl, lt_of p5, par_of m0, by simp [decodeWord, decodeSystem, q0, q1, q2, q3, q4, hv]⟩
theorem EncodeDecode.ewait : EncodeDecode.Statement .ewait := by
  intro hw nb wd hq
  obtain ⟨rfl, he⟩ := word_eq (show some (32, Sys2Proof.fill 0xc00001d []) = some (nb, wd) from hq)
  simp only [Sys2Proof.fill] at he
  have p0 : wd / 2 ^ 0 = 29 + 2 ^ 7 * (0 + 2 ^ 18 * (6 + 2 ^ 7 * 0)) := by omega
  have ⟨m0, p1⟩ := peel p0 (by decide)
  have ⟨m1, p2⟩ := peel p1 (by decide)
  have ⟨m2, p3⟩ := peel p2 (by decide)
  have q0 : wd % 128 = 29 := (by simpa using m0)
  have q1 : field 7 25 wd = 6 := m2
  have q2 : field 18 7 wd = 0 := m1
  exact .inr ⟨rfl, lt_of p3, par_of m0, by simp [decodeWord, decodeSystem, q0, q1, q2]⟩
theorem EncodeDecode.bkpt : EncodeDecode.Statement .bkpt := by
  intro hw nb wd hq
  obtain ⟨rfl, he⟩ := word_eq (show some (32, Sys2Proof.fill 0xe00001d []) = some (nb, wd) from hq)
  simp only [Sys2Proof.fill] at he
  have p0 : wd / 2 ^ 0 = 29 + 2 ^ 7 * (0 + 2 ^ 18 * (7 + 2 ^ 7 * 0)) := by omega
  have ⟨m0, p1⟩ := peel p0 (by decide)
  have ⟨m1, p2⟩ := peel p1 (by decide)
  have ⟨m2, p3⟩ := peel p2 (by decide)
  have q0 : wd % 128 = 29 := (by simpa using m0)
  have q1 : field 7 25 wd = 7 := m2
  have q2 : field 18 7 wd = 0 := m1
  exact .inr ⟨rfl, lt_of p3, par_of m0, by simp [decodeWord, decodeSystem, q0, q1, q2]⟩
theorem EncodeDecode.oxl (n : BitVec 3) (h : BitVec 4) (i : BitVec 15) : EncodeDecode.Statement (.oxl n h i) := by
  intro hw nb wd hq
  obtain ⟨rfl, he⟩ := word_eq (show some (32, Sys2Proof.fill 0x1f [(7, n.toNat), (12, h.toNat), (17, i.toNat)]) = some (nb, wd) from hq)
  simp only [Sys2Proof.fill] at he
  have p0 : wd / 2 ^ 0 = 31 + 2 ^ 7 * (n.toNat + 2 ^ 3 * (0 + 2 ^ 2 * (h.toNat + 2 ^ 4 * (0 + 2 ^ 1 * (i.toNat + 2 ^ 15 * 0))))) := by omega
  have ⟨m0, p1⟩ := peel p0 (by decide)
  have ⟨m1, p2⟩ := peel p1 (n.isLt)
  have ⟨m2, p3⟩ := peel p2 (by decide)
  have ⟨m3, p4⟩ := peel p3 (h.isLt)
  have ⟨m4, p5⟩ := peel p4 (by decide)
  have ⟨m5, p6⟩ := peel p5 (i.isLt)
  have q0 : wd % 128 = 31 := (by simpa using m0)
  have q1 : bits 3 7 wd = n := bits_of m1
  have q2 : field 2 10 wd = 0 := m2
  have q3 : bits 4 12 wd = h := bits_of m3
  have q4 : field 1 16 wd = 0 := m4
  have q5 : bits 15 17 wd = i := bits_of m5
  exact .inr ⟨rfl, lt_of p6, par_of m0, by simp [decodeWord, decodeOperandExt, q0, q1, q2, q3, q4, q5]⟩
theorem EncodeDecode.oxlH (n : BitVec 3) (h : BitVec 4) : EncodeDecode.Statement (.oxlH n h) := by
  intro hw nb wd hq
  obtain ⟨rfl, he⟩ := word_eq (show some (32, Sys2Proof.fill 0x41f [(7, n.toNat), (12, h.toNat)]) = some (nb, wd) from hq)
  simp only [Sys2Proof.fill] at he
  have p0 : wd / 2 ^ 0 = 31 + 2 ^ 7 * (n.toNat + 2 ^ 3 * (1 + 2 ^ 2 * (h.toNat + 2 ^ 4 * (0 + 2 ^ 16 * 0)))) := by omega
  have ⟨m0, p1⟩ := peel p0 (by decide)
  have ⟨m1, p2⟩ := peel p1 (n.isLt)
  have ⟨m2, p3⟩ := peel p2 (by decide)
  have ⟨m3, p4⟩ := peel p3 (h.isLt)
  have ⟨m4, p5⟩ := peel p4 (by decide)
  have q0 : wd % 128 = 31 := (by simpa using m0)
  have q1 : bits 3 7 wd = n := bits_of m1
  have q2 : field 2 10 wd = 1 := m2
  have q3 : bits 4 12 wd = h := bits_of m3
  have q4 : field 16 16 wd = 0 := m4
  exact .inr ⟨rfl, lt_of p5, par_of m0, by simp [decodeWord, decodeOperandExt, q0, q1, q2, q3, q4]⟩
theorem EncodeDecode.oxli (n : BitVec 3) (a : BitVec 5) (i : BitVec 15) : EncodeDecode.Statement (.oxli n a i) := by
  intro hw nb wd hq
  obtain ⟨rfl, he⟩ := word_eq (show some (32, Sys2Proof.fill 0x81f [(7, n.toNat), (12, a.toNat), (17, i.toNat)]) = some (nb, wd) from hq)
  simp only [Sys2Proof.fill] at he
  have p0 : wd / 2 ^ 0 = 31 + 2 ^ 7 * (n.toNat + 2 ^ 3 * (2 + 2 ^ 2 * (a.toNat + 2 ^ 5 * (i.toNat + 2 ^ 15 * 0)))) := by omega
  have ⟨m0, p1⟩ := peel p0 (by decide)
  have ⟨m1, p2⟩ := peel p1 (n.isLt)
  have ⟨m2, p3⟩ := peel p2 (by decide)
  have ⟨m3, p4⟩ := peel p3 (a.isLt)
  have ⟨m4, p5⟩ := peel p4 (i.isLt)
  have q0 : wd % 128 = 31 := (by simpa using m0)
  have q1 : bits 3 7 wd = n := bits_of m1
  have q2 : field 2 10 wd = 2 := m2
  have q3 : bits 5 12 wd = a := bits_of m3
  have q4 : bits 15 17 wd = i := bits_of m4
  exact .inr ⟨rfl, lt_of p5, par_of m0, by simp [decodeWord, decodeOperandExt, q0, q1, q2, q3, q4]⟩
theorem EncodeDecode.vadd (d : BitVec 5) (a : BitVec 5) (b : BitVec 5) (e : Et) (k : BitVec 2) : EncodeDecode.Statement (.vadd d a b e k) := by
  intro hw nb wd hq
  have hv : ((e.isFloat : Bool)) = true := hw
  obtain ⟨rfl, he⟩ := word_eq (show some (32, Sys2Proof.fill 0x21 [(7, d.toNat), (12, a.toNat), (17, b.toNat), (22, e.code), (25, k.toNat)]) = some (nb, wd) from hq)
  simp only [Sys2Proof.fill] at he
  have p0 : wd / 2 ^ 0 = 33 + 2 ^ 7 * (d.toNat + 2 ^ 5 * (a.toNat + 2 ^ 5 * (b.toNat + 2 ^ 5 * (e.code + 2 ^ 3 * (k.toNat + 2 ^ 2 * (0 + 2 ^ 1 * (0 + 2 ^ 4 * 0))))))) := by omega
  have ⟨m0, p1⟩ := peel p0 (by decide)
  have ⟨m1, p2⟩ := peel p1 (d.isLt)
  have ⟨m2, p3⟩ := peel p2 (a.isLt)
  have ⟨m3, p4⟩ := peel p3 (b.isLt)
  have ⟨m4, p5⟩ := peel p4 (Et.code_lt e)
  have ⟨m5, p6⟩ := peel p5 (k.isLt)
  have ⟨m6, p7⟩ := peel p6 (by decide)
  have ⟨m7, p8⟩ := peel p7 (by decide)
  have q0 : wd % 128 = 33 := (by simpa using m0)
  have q1 : bits 5 7 wd = d := bits_of m1
  have q2 : bits 5 12 wd = a := bits_of m2
  have q3 : bits 5 17 wd = b := bits_of m3
  have q4 : field 3 22 wd = e.code := m4
  have q5 : bits 2 25 wd = k := bits_of m5
  have q6 : field 1 27 wd = 0 := m6
  have q7 : field 4 28 wd = 0 := m7
  exact .inr ⟨rfl, lt_of p8, par_of m0, by simp [decodeWord, decodeVecFp, q0, q1, q2, q3, q4, q5, q6, q7, Et.ofCode_code, hv]⟩
theorem EncodeDecode.vsub (d : BitVec 5) (a : BitVec 5) (b : BitVec 5) (e : Et) (k : BitVec 2) : EncodeDecode.Statement (.vsub d a b e k) := by
  intro hw nb wd hq
  have hv : ((e.isFloat : Bool)) = true := hw
  obtain ⟨rfl, he⟩ := word_eq (show some (32, Sys2Proof.fill 0x10000021 [(7, d.toNat), (12, a.toNat), (17, b.toNat), (22, e.code), (25, k.toNat)]) = some (nb, wd) from hq)
  simp only [Sys2Proof.fill] at he
  have p0 : wd / 2 ^ 0 = 33 + 2 ^ 7 * (d.toNat + 2 ^ 5 * (a.toNat + 2 ^ 5 * (b.toNat + 2 ^ 5 * (e.code + 2 ^ 3 * (k.toNat + 2 ^ 2 * (0 + 2 ^ 1 * (1 + 2 ^ 4 * 0))))))) := by omega
  have ⟨m0, p1⟩ := peel p0 (by decide)
  have ⟨m1, p2⟩ := peel p1 (d.isLt)
  have ⟨m2, p3⟩ := peel p2 (a.isLt)
  have ⟨m3, p4⟩ := peel p3 (b.isLt)
  have ⟨m4, p5⟩ := peel p4 (Et.code_lt e)
  have ⟨m5, p6⟩ := peel p5 (k.isLt)
  have ⟨m6, p7⟩ := peel p6 (by decide)
  have ⟨m7, p8⟩ := peel p7 (by decide)
  have q0 : wd % 128 = 33 := (by simpa using m0)
  have q1 : bits 5 7 wd = d := bits_of m1
  have q2 : bits 5 12 wd = a := bits_of m2
  have q3 : bits 5 17 wd = b := bits_of m3
  have q4 : field 3 22 wd = e.code := m4
  have q5 : bits 2 25 wd = k := bits_of m5
  have q6 : field 1 27 wd = 0 := m6
  have q7 : field 4 28 wd = 1 := m7
  exact .inr ⟨rfl, lt_of p8, par_of m0, by simp [decodeWord, decodeVecFp, q0, q1, q2, q3, q4, q5, q6, q7, Et.ofCode_code, hv]⟩
theorem EncodeDecode.vmul (d : BitVec 5) (a : BitVec 5) (b : BitVec 5) (e : Et) (k : BitVec 2) : EncodeDecode.Statement (.vmul d a b e k) := by
  intro hw nb wd hq
  have hv : ((e.isFloat : Bool)) = true := hw
  obtain ⟨rfl, he⟩ := word_eq (show some (32, Sys2Proof.fill 0x20000021 [(7, d.toNat), (12, a.toNat), (17, b.toNat), (22, e.code), (25, k.toNat)]) = some (nb, wd) from hq)
  simp only [Sys2Proof.fill] at he
  have p0 : wd / 2 ^ 0 = 33 + 2 ^ 7 * (d.toNat + 2 ^ 5 * (a.toNat + 2 ^ 5 * (b.toNat + 2 ^ 5 * (e.code + 2 ^ 3 * (k.toNat + 2 ^ 2 * (0 + 2 ^ 1 * (2 + 2 ^ 4 * 0))))))) := by omega
  have ⟨m0, p1⟩ := peel p0 (by decide)
  have ⟨m1, p2⟩ := peel p1 (d.isLt)
  have ⟨m2, p3⟩ := peel p2 (a.isLt)
  have ⟨m3, p4⟩ := peel p3 (b.isLt)
  have ⟨m4, p5⟩ := peel p4 (Et.code_lt e)
  have ⟨m5, p6⟩ := peel p5 (k.isLt)
  have ⟨m6, p7⟩ := peel p6 (by decide)
  have ⟨m7, p8⟩ := peel p7 (by decide)
  have q0 : wd % 128 = 33 := (by simpa using m0)
  have q1 : bits 5 7 wd = d := bits_of m1
  have q2 : bits 5 12 wd = a := bits_of m2
  have q3 : bits 5 17 wd = b := bits_of m3
  have q4 : field 3 22 wd = e.code := m4
  have q5 : bits 2 25 wd = k := bits_of m5
  have q6 : field 1 27 wd = 0 := m6
  have q7 : field 4 28 wd = 2 := m7
  exact .inr ⟨rfl, lt_of p8, par_of m0, by simp [decodeWord, decodeVecFp, q0, q1, q2, q3, q4, q5, q6, q7, Et.ofCode_code, hv]⟩
theorem EncodeDecode.vfma (d : BitVec 5) (a : BitVec 5) (b : BitVec 5) (e : Et) (k : BitVec 2) : EncodeDecode.Statement (.vfma d a b e k) := by
  intro hw nb wd hq
  have hv : ((e.isFloat : Bool)) = true := hw
  obtain ⟨rfl, he⟩ := word_eq (show some (32, Sys2Proof.fill 0x30000021 [(7, d.toNat), (12, a.toNat), (17, b.toNat), (22, e.code), (25, k.toNat)]) = some (nb, wd) from hq)
  simp only [Sys2Proof.fill] at he
  have p0 : wd / 2 ^ 0 = 33 + 2 ^ 7 * (d.toNat + 2 ^ 5 * (a.toNat + 2 ^ 5 * (b.toNat + 2 ^ 5 * (e.code + 2 ^ 3 * (k.toNat + 2 ^ 2 * (0 + 2 ^ 1 * (3 + 2 ^ 4 * 0))))))) := by omega
  have ⟨m0, p1⟩ := peel p0 (by decide)
  have ⟨m1, p2⟩ := peel p1 (d.isLt)
  have ⟨m2, p3⟩ := peel p2 (a.isLt)
  have ⟨m3, p4⟩ := peel p3 (b.isLt)
  have ⟨m4, p5⟩ := peel p4 (Et.code_lt e)
  have ⟨m5, p6⟩ := peel p5 (k.isLt)
  have ⟨m6, p7⟩ := peel p6 (by decide)
  have ⟨m7, p8⟩ := peel p7 (by decide)
  have q0 : wd % 128 = 33 := (by simpa using m0)
  have q1 : bits 5 7 wd = d := bits_of m1
  have q2 : bits 5 12 wd = a := bits_of m2
  have q3 : bits 5 17 wd = b := bits_of m3
  have q4 : field 3 22 wd = e.code := m4
  have q5 : bits 2 25 wd = k := bits_of m5
  have q6 : field 1 27 wd = 0 := m6
  have q7 : field 4 28 wd = 3 := m7
  exact .inr ⟨rfl, lt_of p8, par_of m0, by simp [decodeWord, decodeVecFp, q0, q1, q2, q3, q4, q5, q6, q7, Et.ofCode_code, hv]⟩
theorem EncodeDecode.vfnma (d : BitVec 5) (a : BitVec 5) (b : BitVec 5) (e : Et) (k : BitVec 2) : EncodeDecode.Statement (.vfnma d a b e k) := by
  intro hw nb wd hq
  have hv : ((e.isFloat : Bool)) = true := hw
  obtain ⟨rfl, he⟩ := word_eq (show some (32, Sys2Proof.fill 0x40000021 [(7, d.toNat), (12, a.toNat), (17, b.toNat), (22, e.code), (25, k.toNat)]) = some (nb, wd) from hq)
  simp only [Sys2Proof.fill] at he
  have p0 : wd / 2 ^ 0 = 33 + 2 ^ 7 * (d.toNat + 2 ^ 5 * (a.toNat + 2 ^ 5 * (b.toNat + 2 ^ 5 * (e.code + 2 ^ 3 * (k.toNat + 2 ^ 2 * (0 + 2 ^ 1 * (4 + 2 ^ 4 * 0))))))) := by omega
  have ⟨m0, p1⟩ := peel p0 (by decide)
  have ⟨m1, p2⟩ := peel p1 (d.isLt)
  have ⟨m2, p3⟩ := peel p2 (a.isLt)
  have ⟨m3, p4⟩ := peel p3 (b.isLt)
  have ⟨m4, p5⟩ := peel p4 (Et.code_lt e)
  have ⟨m5, p6⟩ := peel p5 (k.isLt)
  have ⟨m6, p7⟩ := peel p6 (by decide)
  have ⟨m7, p8⟩ := peel p7 (by decide)
  have q0 : wd % 128 = 33 := (by simpa using m0)
  have q1 : bits 5 7 wd = d := bits_of m1
  have q2 : bits 5 12 wd = a := bits_of m2
  have q3 : bits 5 17 wd = b := bits_of m3
  have q4 : field 3 22 wd = e.code := m4
  have q5 : bits 2 25 wd = k := bits_of m5
  have q6 : field 1 27 wd = 0 := m6
  have q7 : field 4 28 wd = 4 := m7
  exact .inr ⟨rfl, lt_of p8, par_of m0, by simp [decodeWord, decodeVecFp, q0, q1, q2, q3, q4, q5, q6, q7, Et.ofCode_code, hv]⟩
theorem EncodeDecode.vmin (d : BitVec 5) (a : BitVec 5) (b : BitVec 5) (e : Et) (k : BitVec 2) : EncodeDecode.Statement (.vmin d a b e k) := by
  intro hw nb wd hq
  have hv : ((e.isFloat : Bool)) = true := hw
  obtain ⟨rfl, he⟩ := word_eq (show some (32, Sys2Proof.fill 0x50000021 [(7, d.toNat), (12, a.toNat), (17, b.toNat), (22, e.code), (25, k.toNat)]) = some (nb, wd) from hq)
  simp only [Sys2Proof.fill] at he
  have p0 : wd / 2 ^ 0 = 33 + 2 ^ 7 * (d.toNat + 2 ^ 5 * (a.toNat + 2 ^ 5 * (b.toNat + 2 ^ 5 * (e.code + 2 ^ 3 * (k.toNat + 2 ^ 2 * (0 + 2 ^ 1 * (5 + 2 ^ 4 * 0))))))) := by omega
  have ⟨m0, p1⟩ := peel p0 (by decide)
  have ⟨m1, p2⟩ := peel p1 (d.isLt)
  have ⟨m2, p3⟩ := peel p2 (a.isLt)
  have ⟨m3, p4⟩ := peel p3 (b.isLt)
  have ⟨m4, p5⟩ := peel p4 (Et.code_lt e)
  have ⟨m5, p6⟩ := peel p5 (k.isLt)
  have ⟨m6, p7⟩ := peel p6 (by decide)
  have ⟨m7, p8⟩ := peel p7 (by decide)
  have q0 : wd % 128 = 33 := (by simpa using m0)
  have q1 : bits 5 7 wd = d := bits_of m1
  have q2 : bits 5 12 wd = a := bits_of m2
  have q3 : bits 5 17 wd = b := bits_of m3
  have q4 : field 3 22 wd = e.code := m4
  have q5 : bits 2 25 wd = k := bits_of m5
  have q6 : field 1 27 wd = 0 := m6
  have q7 : field 4 28 wd = 5 := m7
  exact .inr ⟨rfl, lt_of p8, par_of m0, by simp [decodeWord, decodeVecFp, q0, q1, q2, q3, q4, q5, q6, q7, Et.ofCode_code, hv]⟩
theorem EncodeDecode.vmax (d : BitVec 5) (a : BitVec 5) (b : BitVec 5) (e : Et) (k : BitVec 2) : EncodeDecode.Statement (.vmax d a b e k) := by
  intro hw nb wd hq
  have hv : ((e.isFloat : Bool)) = true := hw
  obtain ⟨rfl, he⟩ := word_eq (show some (32, Sys2Proof.fill 0x60000021 [(7, d.toNat), (12, a.toNat), (17, b.toNat), (22, e.code), (25, k.toNat)]) = some (nb, wd) from hq)
  simp only [Sys2Proof.fill] at he
  have p0 : wd / 2 ^ 0 = 33 + 2 ^ 7 * (d.toNat + 2 ^ 5 * (a.toNat + 2 ^ 5 * (b.toNat + 2 ^ 5 * (e.code + 2 ^ 3 * (k.toNat + 2 ^ 2 * (0 + 2 ^ 1 * (6 + 2 ^ 4 * 0))))))) := by omega
  have ⟨m0, p1⟩ := peel p0 (by decide)
  have ⟨m1, p2⟩ := peel p1 (d.isLt)
  have ⟨m2, p3⟩ := peel p2 (a.isLt)
  have ⟨m3, p4⟩ := peel p3 (b.isLt)
  have ⟨m4, p5⟩ := peel p4 (Et.code_lt e)
  have ⟨m5, p6⟩ := peel p5 (k.isLt)
  have ⟨m6, p7⟩ := peel p6 (by decide)
  have ⟨m7, p8⟩ := peel p7 (by decide)
  have q0 : wd % 128 = 33 := (by simpa using m0)
  have q1 : bits 5 7 wd = d := bits_of m1
  have q2 : bits 5 12 wd = a := bits_of m2
  have q3 : bits 5 17 wd = b := bits_of m3
  have q4 : field 3 22 wd = e.code := m4
  have q5 : bits 2 25 wd = k := bits_of m5
  have q6 : field 1 27 wd = 0 := m6
  have q7 : field 4 28 wd = 6 := m7
  exact .inr ⟨rfl, lt_of p8, par_of m0, by simp [decodeWord, decodeVecFp, q0, q1, q2, q3, q4, q5, q6, q7, Et.ofCode_code, hv]⟩
theorem EncodeDecode.vabs (d : BitVec 5) (a : BitVec 5) (e : Et) (k : BitVec 2) : EncodeDecode.Statement (.vabs d a e k) := by
  intro hw nb wd hq
  have hv : ((e.isFloat : Bool)) = true := hw
  obtain ⟨rfl, he⟩ := word_eq (show some (32, Sys2Proof.fill 0x70000021 [(7, d.toNat), (12, a.toNat), (22, e.code), (25, k.toNat)]) = some (nb, wd) from hq)
  simp only [Sys2Proof.fill] at he
  have p0 : wd / 2 ^ 0 = 33 + 2 ^ 7 * (d.toNat + 2 ^ 5 * (a.toNat + 2 ^ 5 * (0 + 2 ^ 5 * (e.code + 2 ^ 3 * (k.toNat + 2 ^ 2 * (0 + 2 ^ 1 * (7 + 2 ^ 4 * 0))))))) := by omega
  have ⟨m0, p1⟩ := peel p0 (by decide)
  have ⟨m1, p2⟩ := peel p1 (d.isLt)
  have ⟨m2, p3⟩ := peel p2 (a.isLt)
  have ⟨m3, p4⟩ := peel p3 (by decide)
  have ⟨m4, p5⟩ := peel p4 (Et.code_lt e)
  have ⟨m5, p6⟩ := peel p5 (k.isLt)
  have ⟨m6, p7⟩ := peel p6 (by decide)
  have ⟨m7, p8⟩ := peel p7 (by decide)
  have q0 : wd % 128 = 33 := (by simpa using m0)
  have q1 : bits 5 7 wd = d := bits_of m1
  have q2 : bits 5 12 wd = a := bits_of m2
  have q3 : field 5 17 wd = 0 := m3
  have q4 : field 3 22 wd = e.code := m4
  have q5 : bits 2 25 wd = k := bits_of m5
  have q6 : field 1 27 wd = 0 := m6
  have q7 : field 4 28 wd = 7 := m7
  exact .inr ⟨rfl, lt_of p8, par_of m0, by simp [decodeWord, decodeVecFp, q0, q1, q2, q3, q4, q5, q6, q7, Et.ofCode_code, hv]⟩
theorem EncodeDecode.vneg (d : BitVec 5) (a : BitVec 5) (e : Et) (k : BitVec 2) : EncodeDecode.Statement (.vneg d a e k) := by
  intro hw nb wd hq
  have hv : ((e.isFloat : Bool)) = true := hw
  obtain ⟨rfl, he⟩ := word_eq (show some (32, Sys2Proof.fill 0x80000021 [(7, d.toNat), (12, a.toNat), (22, e.code), (25, k.toNat)]) = some (nb, wd) from hq)
  simp only [Sys2Proof.fill] at he
  have p0 : wd / 2 ^ 0 = 33 + 2 ^ 7 * (d.toNat + 2 ^ 5 * (a.toNat + 2 ^ 5 * (0 + 2 ^ 5 * (e.code + 2 ^ 3 * (k.toNat + 2 ^ 2 * (0 + 2 ^ 1 * (8 + 2 ^ 4 * 0))))))) := by omega
  have ⟨m0, p1⟩ := peel p0 (by decide)
  have ⟨m1, p2⟩ := peel p1 (d.isLt)
  have ⟨m2, p3⟩ := peel p2 (a.isLt)
  have ⟨m3, p4⟩ := peel p3 (by decide)
  have ⟨m4, p5⟩ := peel p4 (Et.code_lt e)
  have ⟨m5, p6⟩ := peel p5 (k.isLt)
  have ⟨m6, p7⟩ := peel p6 (by decide)
  have ⟨m7, p8⟩ := peel p7 (by decide)
  have q0 : wd % 128 = 33 := (by simpa using m0)
  have q1 : bits 5 7 wd = d := bits_of m1
  have q2 : bits 5 12 wd = a := bits_of m2
  have q3 : field 5 17 wd = 0 := m3
  have q4 : field 3 22 wd = e.code := m4
  have q5 : bits 2 25 wd = k := bits_of m5
  have q6 : field 1 27 wd = 0 := m6
  have q7 : field 4 28 wd = 8 := m7
  exact .inr ⟨rfl, lt_of p8, par_of m0, by simp [decodeWord, decodeVecFp, q0, q1, q2, q3, q4, q5, q6, q7, Et.ofCode_code, hv]⟩
theorem EncodeDecode.viadd (d : BitVec 5) (a : BitVec 5) (b : BitVec 5) (e : Et) (k : BitVec 2) (s : Bool) : EncodeDecode.Statement (.viadd d a b e k s) := by
  intro hw nb wd hq
  have hv : ((!e.isFloat : Bool)) = true := hw
  simp at hv
  obtain ⟨rfl, he⟩ := word_eq (show some (32, Sys2Proof.fill 0x23 [(7, d.toNat), (12, a.toNat), (17, b.toNat), (22, e.code), (25, k.toNat), (27, boolNat s)]) = some (nb, wd) from hq)
  simp only [Sys2Proof.fill] at he
  have p0 : wd / 2 ^ 0 = 35 + 2 ^ 7 * (d.toNat + 2 ^ 5 * (a.toNat + 2 ^ 5 * (b.toNat + 2 ^ 5 * (e.code + 2 ^ 3 * (k.toNat + 2 ^ 2 * (boolNat s + 2 ^ 1 * (0 + 2 ^ 4 * 0))))))) := by omega
  have ⟨m0, p1⟩ := peel p0 (by decide)
  have ⟨m1, p2⟩ := peel p1 (d.isLt)
  have ⟨m2, p3⟩ := peel p2 (a.isLt)
  have ⟨m3, p4⟩ := peel p3 (b.isLt)
  have ⟨m4, p5⟩ := peel p4 (Et.code_lt e)
  have ⟨m5, p6⟩ := peel p5 (k.isLt)
  have ⟨m6, p7⟩ := peel p6 (boolNat_lt s)
  have ⟨m7, p8⟩ := peel p7 (by decide)
  have q0 : wd % 128 = 35 := (by simpa using m0)
  have q1 : bits 5 7 wd = d := bits_of m1
  have q2 : bits 5 12 wd = a := bits_of m2
  have q3 : bits 5 17 wd = b := bits_of m3
  have q4 : field 3 22 wd = e.code := m4
  have q5 : bits 2 25 wd = k := bits_of m5
  have q6 : flag 27 wd = s := flag_of m6
  have q7 : field 4 28 wd = 0 := m7
  exact .inr ⟨rfl, lt_of p8, par_of m0, by simp [decodeWord, decodeVecInt, q0, q1, q2, q3, q4, q5, q6, q7, Et.ofCode_code, hv]⟩
theorem EncodeDecode.visub (d : BitVec 5) (a : BitVec 5) (b : BitVec 5) (e : Et) (k : BitVec 2) (s : Bool) : EncodeDecode.Statement (.visub d a b e k s) := by
  intro hw nb wd hq
  have hv : ((!e.isFloat : Bool)) = true := hw
  simp at hv
  obtain ⟨rfl, he⟩ := word_eq (show some (32, Sys2Proof.fill 0x10000023 [(7, d.toNat), (12, a.toNat), (17, b.toNat), (22, e.code), (25, k.toNat), (27, boolNat s)]) = some (nb, wd) from hq)
  simp only [Sys2Proof.fill] at he
  have p0 : wd / 2 ^ 0 = 35 + 2 ^ 7 * (d.toNat + 2 ^ 5 * (a.toNat + 2 ^ 5 * (b.toNat + 2 ^ 5 * (e.code + 2 ^ 3 * (k.toNat + 2 ^ 2 * (boolNat s + 2 ^ 1 * (1 + 2 ^ 4 * 0))))))) := by omega
  have ⟨m0, p1⟩ := peel p0 (by decide)
  have ⟨m1, p2⟩ := peel p1 (d.isLt)
  have ⟨m2, p3⟩ := peel p2 (a.isLt)
  have ⟨m3, p4⟩ := peel p3 (b.isLt)
  have ⟨m4, p5⟩ := peel p4 (Et.code_lt e)
  have ⟨m5, p6⟩ := peel p5 (k.isLt)
  have ⟨m6, p7⟩ := peel p6 (boolNat_lt s)
  have ⟨m7, p8⟩ := peel p7 (by decide)
  have q0 : wd % 128 = 35 := (by simpa using m0)
  have q1 : bits 5 7 wd = d := bits_of m1
  have q2 : bits 5 12 wd = a := bits_of m2
  have q3 : bits 5 17 wd = b := bits_of m3
  have q4 : field 3 22 wd = e.code := m4
  have q5 : bits 2 25 wd = k := bits_of m5
  have q6 : flag 27 wd = s := flag_of m6
  have q7 : field 4 28 wd = 1 := m7
  exact .inr ⟨rfl, lt_of p8, par_of m0, by simp [decodeWord, decodeVecInt, q0, q1, q2, q3, q4, q5, q6, q7, Et.ofCode_code, hv]⟩
theorem EncodeDecode.vimul (d : BitVec 5) (a : BitVec 5) (b : BitVec 5) (e : Et) (k : BitVec 2) (s : Bool) : EncodeDecode.Statement (.vimul d a b e k s) := by
  intro hw nb wd hq
  have hv : ((!e.isFloat : Bool)) = true := hw
  simp at hv
  obtain ⟨rfl, he⟩ := word_eq (show some (32, Sys2Proof.fill 0x20000023 [(7, d.toNat), (12, a.toNat), (17, b.toNat), (22, e.code), (25, k.toNat), (27, boolNat s)]) = some (nb, wd) from hq)
  simp only [Sys2Proof.fill] at he
  have p0 : wd / 2 ^ 0 = 35 + 2 ^ 7 * (d.toNat + 2 ^ 5 * (a.toNat + 2 ^ 5 * (b.toNat + 2 ^ 5 * (e.code + 2 ^ 3 * (k.toNat + 2 ^ 2 * (boolNat s + 2 ^ 1 * (2 + 2 ^ 4 * 0))))))) := by omega
  have ⟨m0, p1⟩ := peel p0 (by decide)
  have ⟨m1, p2⟩ := peel p1 (d.isLt)
  have ⟨m2, p3⟩ := peel p2 (a.isLt)
  have ⟨m3, p4⟩ := peel p3 (b.isLt)
  have ⟨m4, p5⟩ := peel p4 (Et.code_lt e)
  have ⟨m5, p6⟩ := peel p5 (k.isLt)
  have ⟨m6, p7⟩ := peel p6 (boolNat_lt s)
  have ⟨m7, p8⟩ := peel p7 (by decide)
  have q0 : wd % 128 = 35 := (by simpa using m0)
  have q1 : bits 5 7 wd = d := bits_of m1
  have q2 : bits 5 12 wd = a := bits_of m2
  have q3 : bits 5 17 wd = b := bits_of m3
  have q4 : field 3 22 wd = e.code := m4
  have q5 : bits 2 25 wd = k := bits_of m5
  have q6 : flag 27 wd = s := flag_of m6
  have q7 : field 4 28 wd = 2 := m7
  exact .inr ⟨rfl, lt_of p8, par_of m0, by simp [decodeWord, decodeVecInt, q0, q1, q2, q3, q4, q5, q6, q7, Et.ofCode_code, hv]⟩
theorem EncodeDecode.vimac (d : BitVec 5) (a : BitVec 5) (b : BitVec 5) (e : Et) (k : BitVec 2) (s : Bool) : EncodeDecode.Statement (.vimac d a b e k s) := by
  intro hw nb wd hq
  have hv : ((!e.isFloat : Bool)) = true := hw
  simp at hv
  obtain ⟨rfl, he⟩ := word_eq (show some (32, Sys2Proof.fill 0x30000023 [(7, d.toNat), (12, a.toNat), (17, b.toNat), (22, e.code), (25, k.toNat), (27, boolNat s)]) = some (nb, wd) from hq)
  simp only [Sys2Proof.fill] at he
  have p0 : wd / 2 ^ 0 = 35 + 2 ^ 7 * (d.toNat + 2 ^ 5 * (a.toNat + 2 ^ 5 * (b.toNat + 2 ^ 5 * (e.code + 2 ^ 3 * (k.toNat + 2 ^ 2 * (boolNat s + 2 ^ 1 * (3 + 2 ^ 4 * 0))))))) := by omega
  have ⟨m0, p1⟩ := peel p0 (by decide)
  have ⟨m1, p2⟩ := peel p1 (d.isLt)
  have ⟨m2, p3⟩ := peel p2 (a.isLt)
  have ⟨m3, p4⟩ := peel p3 (b.isLt)
  have ⟨m4, p5⟩ := peel p4 (Et.code_lt e)
  have ⟨m5, p6⟩ := peel p5 (k.isLt)
  have ⟨m6, p7⟩ := peel p6 (boolNat_lt s)
  have ⟨m7, p8⟩ := peel p7 (by decide)
  have q0 : wd % 128 = 35 := (by simpa using m0)
  have q1 : bits 5 7 wd = d := bits_of m1
  have q2 : bits 5 12 wd = a := bits_of m2
  have q3 : bits 5 17 wd = b := bits_of m3
  have q4 : field 3 22 wd = e.code := m4
  have q5 : bits 2 25 wd = k := bits_of m5
  have q6 : flag 27 wd = s := flag_of m6
  have q7 : field 4 28 wd = 3 := m7
  exact .inr ⟨rfl, lt_of p8, par_of m0, by simp [decodeWord, decodeVecInt, q0, q1, q2, q3, q4, q5, q6, q7, Et.ofCode_code, hv]⟩
theorem EncodeDecode.vand (d : BitVec 5) (a : BitVec 5) (b : BitVec 5) (e : Et) (k : BitVec 2) : EncodeDecode.Statement (.vand d a b e k) := by
  intro hw nb wd hq
  obtain ⟨rfl, he⟩ := word_eq (show some (32, Sys2Proof.fill 0x25 [(7, d.toNat), (12, a.toNat), (17, b.toNat), (22, e.code), (25, k.toNat)]) = some (nb, wd) from hq)
  simp only [Sys2Proof.fill] at he
  have p0 : wd / 2 ^ 0 = 37 + 2 ^ 7 * (d.toNat + 2 ^ 5 * (a.toNat + 2 ^ 5 * (b.toNat + 2 ^ 5 * (e.code + 2 ^ 3 * (k.toNat + 2 ^ 2 * (0 + 2 ^ 1 * (0 + 2 ^ 4 * 0))))))) := by omega
  have ⟨m0, p1⟩ := peel p0 (by decide)
  have ⟨m1, p2⟩ := peel p1 (d.isLt)
  have ⟨m2, p3⟩ := peel p2 (a.isLt)
  have ⟨m3, p4⟩ := peel p3 (b.isLt)
  have ⟨m4, p5⟩ := peel p4 (Et.code_lt e)
  have ⟨m5, p6⟩ := peel p5 (k.isLt)
  have ⟨m6, p7⟩ := peel p6 (by decide)
  have ⟨m7, p8⟩ := peel p7 (by decide)
  have q0 : wd % 128 = 37 := (by simpa using m0)
  have q1 : bits 5 7 wd = d := bits_of m1
  have q2 : bits 5 12 wd = a := bits_of m2
  have q3 : bits 5 17 wd = b := bits_of m3
  have q4 : field 3 22 wd = e.code := m4
  have q5 : bits 2 25 wd = k := bits_of m5
  have q6 : field 1 27 wd = 0 := m6
  have q7 : field 4 28 wd = 0 := m7
  exact .inr ⟨rfl, lt_of p8, par_of m0, by simp [decodeWord, decodeVecLogic, q0, q1, q2, q3, q4, q5, q6, q7, Et.ofCode_code]⟩
theorem EncodeDecode.vor (d : BitVec 5) (a : BitVec 5) (b : BitVec 5) (e : Et) (k : BitVec 2) : EncodeDecode.Statement (.vor d a b e k) := by
  intro hw nb wd hq
  obtain ⟨rfl, he⟩ := word_eq (show some (32, Sys2Proof.fill 0x10000025 [(7, d.toNat), (12, a.toNat), (17, b.toNat), (22, e.code), (25, k.toNat)]) = some (nb, wd) from hq)
  simp only [Sys2Proof.fill] at he
  have p0 : wd / 2 ^ 0 = 37 + 2 ^ 7 * (d.toNat + 2 ^ 5 * (a.toNat + 2 ^ 5 * (b.toNat + 2 ^ 5 * (e.code + 2 ^ 3 * (k.toNat + 2 ^ 2 * (0 + 2 ^ 1 * (1 + 2 ^ 4 * 0))))))) := by omega
  have ⟨m0, p1⟩ := peel p0 (by decide)
  have ⟨m1, p2⟩ := peel p1 (d.isLt)
  have ⟨m2, p3⟩ := peel p2 (a.isLt)
  have ⟨m3, p4⟩ := peel p3 (b.isLt)
  have ⟨m4, p5⟩ := peel p4 (Et.code_lt e)
  have ⟨m5, p6⟩ := peel p5 (k.isLt)
  have ⟨m6, p7⟩ := peel p6 (by decide)
  have ⟨m7, p8⟩ := peel p7 (by decide)
  have q0 : wd % 128 = 37 := (by simpa using m0)
  have q1 : bits 5 7 wd = d := bits_of m1
  have q2 : bits 5 12 wd = a := bits_of m2
  have q3 : bits 5 17 wd = b := bits_of m3
  have q4 : field 3 22 wd = e.code := m4
  have q5 : bits 2 25 wd = k := bits_of m5
  have q6 : field 1 27 wd = 0 := m6
  have q7 : field 4 28 wd = 1 := m7
  exact .inr ⟨rfl, lt_of p8, par_of m0, by simp [decodeWord, decodeVecLogic, q0, q1, q2, q3, q4, q5, q6, q7, Et.ofCode_code]⟩
theorem EncodeDecode.vxor (d : BitVec 5) (a : BitVec 5) (b : BitVec 5) (e : Et) (k : BitVec 2) : EncodeDecode.Statement (.vxor d a b e k) := by
  intro hw nb wd hq
  obtain ⟨rfl, he⟩ := word_eq (show some (32, Sys2Proof.fill 0x20000025 [(7, d.toNat), (12, a.toNat), (17, b.toNat), (22, e.code), (25, k.toNat)]) = some (nb, wd) from hq)
  simp only [Sys2Proof.fill] at he
  have p0 : wd / 2 ^ 0 = 37 + 2 ^ 7 * (d.toNat + 2 ^ 5 * (a.toNat + 2 ^ 5 * (b.toNat + 2 ^ 5 * (e.code + 2 ^ 3 * (k.toNat + 2 ^ 2 * (0 + 2 ^ 1 * (2 + 2 ^ 4 * 0))))))) := by omega
  have ⟨m0, p1⟩ := peel p0 (by decide)
  have ⟨m1, p2⟩ := peel p1 (d.isLt)
  have ⟨m2, p3⟩ := peel p2 (a.isLt)
  have ⟨m3, p4⟩ := peel p3 (b.isLt)
  have ⟨m4, p5⟩ := peel p4 (Et.code_lt e)
  have ⟨m5, p6⟩ := peel p5 (k.isLt)
  have ⟨m6, p7⟩ := peel p6 (by decide)
  have ⟨m7, p8⟩ := peel p7 (by decide)
  have q0 : wd % 128 = 37 := (by simpa using m0)
  have q1 : bits 5 7 wd = d := bits_of m1
  have q2 : bits 5 12 wd = a := bits_of m2
  have q3 : bits 5 17 wd = b := bits_of m3
  have q4 : field 3 22 wd = e.code := m4
  have q5 : bits 2 25 wd = k := bits_of m5
  have q6 : field 1 27 wd = 0 := m6
  have q7 : field 4 28 wd = 2 := m7
  exact .inr ⟨rfl, lt_of p8, par_of m0, by simp [decodeWord, decodeVecLogic, q0, q1, q2, q3, q4, q5, q6, q7, Et.ofCode_code]⟩
theorem EncodeDecode.vshl (d : BitVec 5) (a : BitVec 5) (b : BitVec 5) (e : Et) (k : BitVec 2) : EncodeDecode.Statement (.vshl d a b e k) := by
  intro hw nb wd hq
  have hv : ((!e.isFloat : Bool)) = true := hw
  simp at hv
  obtain ⟨rfl, he⟩ := word_eq (show some (32, Sys2Proof.fill 0x30000025 [(7, d.toNat), (12, a.toNat), (17, b.toNat), (22, e.code), (25, k.toNat)]) = some (nb, wd) from hq)
  simp only [Sys2Proof.fill] at he
  have p0 : wd / 2 ^ 0 = 37 + 2 ^ 7 * (d.toNat + 2 ^ 5 * (a.toNat + 2 ^ 5 * (b.toNat + 2 ^ 5 * (e.code + 2 ^ 3 * (k.toNat + 2 ^ 2 * (0 + 2 ^ 1 * (3 + 2 ^ 4 * 0))))))) := by omega
  have ⟨m0, p1⟩ := peel p0 (by decide)
  have ⟨m1, p2⟩ := peel p1 (d.isLt)
  have ⟨m2, p3⟩ := peel p2 (a.isLt)
  have ⟨m3, p4⟩ := peel p3 (b.isLt)
  have ⟨m4, p5⟩ := peel p4 (Et.code_lt e)
  have ⟨m5, p6⟩ := peel p5 (k.isLt)
  have ⟨m6, p7⟩ := peel p6 (by decide)
  have ⟨m7, p8⟩ := peel p7 (by decide)
  have q0 : wd % 128 = 37 := (by simpa using m0)
  have q1 : bits 5 7 wd = d := bits_of m1
  have q2 : bits 5 12 wd = a := bits_of m2
  have q3 : bits 5 17 wd = b := bits_of m3
  have q4 : field 3 22 wd = e.code := m4
  have q5 : bits 2 25 wd = k := bits_of m5
  have q6 : field 1 27 wd = 0 := m6
  have q7 : field 4 28 wd = 3 := m7
  exact .inr ⟨rfl, lt_of p8, par_of m0, by simp [decodeWord, decodeVecLogic, q0, q1, q2, q3, q4, q5, q6, q7, Et.ofCode_code, hv]⟩
theorem EncodeDecode.vshr (d : BitVec 5) (a : BitVec 5) (b : BitVec 5) (e : Et) (k : BitVec 2) : EncodeDecode.Statement (.vshr d a b e k) := by
  intro hw nb wd hq
  have hv : ((!e.isFloat : Bool)) = true := hw
  simp at hv
  obtain ⟨rfl, he⟩ := word_eq (show some (32, Sys2Proof.fill 0x40000025 [(7, d.toNat), (12, a.toNat), (17, b.toNat), (22, e.code), (25, k.toNat)]) = some (nb, wd) from hq)
  simp only [Sys2Proof.fill] at he
  have p0 : wd / 2 ^ 0 = 37 + 2 ^ 7 * (d.toNat + 2 ^ 5 * (a.toNat + 2 ^ 5 * (b.toNat + 2 ^ 5 * (e.code + 2 ^ 3 * (k.toNat + 2 ^ 2 * (0 + 2 ^ 1 * (4 + 2 ^ 4 * 0))))))) := by omega
  have ⟨m0, p1⟩ := peel p0 (by decide)
  have ⟨m1, p2⟩ := peel p1 (d.isLt)
  have ⟨m2, p3⟩ := peel p2 (a.isLt)
  have ⟨m3, p4⟩ := peel p3 (b.isLt)
  have ⟨m4, p5⟩ := peel p4 (Et.code_lt e)
  have ⟨m5, p6⟩ := peel p5 (k.isLt)
  have ⟨m6, p7⟩ := peel p6 (by decide)
  have ⟨m7, p8⟩ := peel p7 (by decide)
  have q0 : wd % 128 = 37 := (by simpa using m0)
  have q1 : bits 5 7 wd = d := bits_of m1
  have q2 : bits 5 12 wd = a := bits_of m2
  have q3 : bits 5 17 wd = b := bits_of m3
  have q4 : field 3 22 wd = e.code := m4
  have q5 : bits 2 25 wd = k := bits_of m5
  have q6 : field 1 27 wd = 0 := m6
  have q7 : field 4 28 wd = 4 := m7
  exact .inr ⟨rfl, lt_of p8, par_of m0, by simp [decodeWord, decodeVecLogic, q0, q1, q2, q3, q4, q5, q6, q7, Et.ofCode_code, hv]⟩
theorem EncodeDecode.vsra (d : BitVec 5) (a : BitVec 5) (b : BitVec 5) (e : Et) (k : BitVec 2) : EncodeDecode.Statement (.vsra d a b e k) := by
  intro hw nb wd hq
  have hv : ((!e.isFloat : Bool)) = true := hw
  simp at hv
  obtain ⟨rfl, he⟩ := word_eq (show some (32, Sys2Proof.fill 0x50000025 [(7, d.toNat), (12, a.toNat), (17, b.toNat), (22, e.code), (25, k.toNat)]) = some (nb, wd) from hq)
  simp only [Sys2Proof.fill] at he
  have p0 : wd / 2 ^ 0 = 37 + 2 ^ 7 * (d.toNat + 2 ^ 5 * (a.toNat + 2 ^ 5 * (b.toNat + 2 ^ 5 * (e.code + 2 ^ 3 * (k.toNat + 2 ^ 2 * (0 + 2 ^ 1 * (5 + 2 ^ 4 * 0))))))) := by omega
  have ⟨m0, p1⟩ := peel p0 (by decide)
  have ⟨m1, p2⟩ := peel p1 (d.isLt)
  have ⟨m2, p3⟩ := peel p2 (a.isLt)
  have ⟨m3, p4⟩ := peel p3 (b.isLt)
  have ⟨m4, p5⟩ := peel p4 (Et.code_lt e)
  have ⟨m5, p6⟩ := peel p5 (k.isLt)
  have ⟨m6, p7⟩ := peel p6 (by decide)
  have ⟨m7, p8⟩ := peel p7 (by decide)
  have q0 : wd % 128 = 37 := (by simpa using m0)
  have q1 : bits 5 7 wd = d := bits_of m1
  have q2 : bits 5 12 wd = a := bits_of m2
  have q3 : bits 5 17 wd = b := bits_of m3
  have q4 : field 3 22 wd = e.code := m4
  have q5 : bits 2 25 wd = k := bits_of m5
  have q6 : field 1 27 wd = 0 := m6
  have q7 : field 4 28 wd = 5 := m7
  exact .inr ⟨rfl, lt_of p8, par_of m0, by simp [decodeWord, decodeVecLogic, q0, q1, q2, q3, q4, q5, q6, q7, Et.ofCode_code, hv]⟩
theorem EncodeDecode.vcmp (d : BitVec 5) (a : BitVec 5) (b : BitVec 5) (e : Et) (k : BitVec 2) (u : Bool) (c : VCond) : EncodeDecode.Statement (.vcmp d a b e k u c) := by
  intro hw nb wd hq
  have hv : (decide (d.toNat < 4) && !(u && e.isFloat)) = true := hw
  simp only [Bool.and_eq_true, decide_eq_true_eq] at hv
  obtain ⟨hd, hv⟩ := hv
  simp at hv
  obtain ⟨rfl, he⟩ := word_eq (show some (32, Sys2Proof.fill 0x27 [(7, d.toNat), (12, a.toNat), (17, b.toNat), (22, e.code), (25, k.toNat), (27, boolNat u), (28, c.code)]) = some (nb, wd) from hq)
  simp only [Sys2Proof.fill] at he
  have p0 : wd / 2 ^ 0 = 39 + 2 ^ 7 * (d.toNat + 2 ^ 5 * (a.toNat + 2 ^ 5 * (b.toNat + 2 ^ 5 * (e.code + 2 ^ 3 * (k.toNat + 2 ^ 2 * (boolNat u + 2 ^ 1 * (c.code + 2 ^ 4 * 0))))))) := by omega
  have ⟨m0, p1⟩ := peel p0 (by decide)
  have ⟨m1, p2⟩ := peel p1 (d.isLt)
  have ⟨m2, p3⟩ := peel p2 (a.isLt)
  have ⟨m3, p4⟩ := peel p3 (b.isLt)
  have ⟨m4, p5⟩ := peel p4 (Et.code_lt e)
  have ⟨m5, p6⟩ := peel p5 (k.isLt)
  have ⟨m6, p7⟩ := peel p6 (boolNat_lt u)
  have ⟨m7, p8⟩ := peel p7 (Nat.lt_of_lt_of_le (VCond.code_lt c) (by decide))
  have q0 : wd % 128 = 39 := (by simpa using m0)
  have q1 : bits 5 7 wd = d := bits_of m1
  have q2 : bits 5 12 wd = a := bits_of m2
  have q3 : bits 5 17 wd = b := bits_of m3
  have q4 : field 3 22 wd = e.code := m4
  have q5 : bits 2 25 wd = k := bits_of m5
  have q6 : flag 27 wd = u := flag_of m6
  have q7 : field 4 28 wd = c.code := m7
  have q8 : field 3 9 wd = 0 := by show wd / 2 ^ 9 % 2 ^ 3 = 0; omega
  exact .inr ⟨rfl, lt_of p8, par_of m0, by cases c <;> (simp [decodeWord, decodeVecCompare, q8, q0, q1, q2, q3, q4, q5, q6, q7, VCond.code, VCond.ofCode, Et.ofCode_code, VCond.ofCode_code]; intro hu; simpa [hu] using hv)⟩
theorem EncodeDecode.vsel (d : BitVec 5) (a : BitVec 5) (b : BitVec 5) (e : Et) (k : BitVec 2) : EncodeDecode.Statement (.vsel d a b e k) := by
  intro hw nb wd hq
  obtain ⟨rfl, he⟩ := word_eq (show some (32, Sys2Proof.fill 0x60000027 [(7, d.toNat), (12, a.toNat), (17, b.toNat), (22, e.code), (25, k.toNat)]) = some (nb, wd) from hq)
  simp only [Sys2Proof.fill] at he
  have p0 : wd / 2 ^ 0 = 39 + 2 ^ 7 * (d.toNat + 2 ^ 5 * (a.toNat + 2 ^ 5 * (b.toNat + 2 ^ 5 * (e.code + 2 ^ 3 * (k.toNat + 2 ^ 2 * (0 + 2 ^ 1 * (6 + 2 ^ 4 * 0))))))) := by omega
  have ⟨m0, p1⟩ := peel p0 (by decide)
  have ⟨m1, p2⟩ := peel p1 (d.isLt)
  have ⟨m2, p3⟩ := peel p2 (a.isLt)
  have ⟨m3, p4⟩ := peel p3 (b.isLt)
  have ⟨m4, p5⟩ := peel p4 (Et.code_lt e)
  have ⟨m5, p6⟩ := peel p5 (k.isLt)
  have ⟨m6, p7⟩ := peel p6 (by decide)
  have ⟨m7, p8⟩ := peel p7 (by decide)
  have q0 : wd % 128 = 39 := (by simpa using m0)
  have q1 : bits 5 7 wd = d := bits_of m1
  have q2 : bits 5 12 wd = a := bits_of m2
  have q3 : bits 5 17 wd = b := bits_of m3
  have q4 : field 3 22 wd = e.code := m4
  have q5 : bits 2 25 wd = k := bits_of m5
  have q6 : field 1 27 wd = 0 := m6
  have q7 : field 4 28 wd = 6 := m7
  exact .inr ⟨rfl, lt_of p8, par_of m0, by simp [decodeWord, decodeVecCompare, q0, q1, q2, q3, q4, q5, q6, q7, Et.ofCode_code]⟩
theorem EncodeDecode.vmskAnd (d : BitVec 2) (a : BitVec 2) (b : BitVec 2) : EncodeDecode.Statement (.vmskAnd d a b) := by
  intro hw nb wd hq
  obtain ⟨rfl, he⟩ := word_eq (show some (32, Sys2Proof.fill 0x70000027 [(7, d.toNat), (12, a.toNat), (17, b.toNat)]) = some (nb, wd) from hq)
  simp only [Sys2Proof.fill] at he
  have p0 : wd / 2 ^ 0 = 39 + 2 ^ 7 * (d.toNat + 2 ^ 2 * (0 + 2 ^ 3 * (a.toNat + 2 ^ 2 * (0 + 2 ^ 3 * (b.toNat + 2 ^ 2 * (0 + 2 ^ 9 * (7 + 2 ^ 4 * 0))))))) := by omega
  have ⟨m0, p1⟩ := peel p0 (by decide)
  have ⟨m1, p2⟩ := peel p1 (d.isLt)
  have ⟨m2, p3⟩ := peel p2 (by decide)
  have ⟨m3, p4⟩ := peel p3 (a.isLt)
  have ⟨m4, p5⟩ := peel p4 (by decide)
  have ⟨m5, p6⟩ := peel p5 (b.isLt)
  have ⟨m6, p7⟩ := peel p6 (by decide)
  have ⟨m7, p8⟩ := peel p7 (by decide)
  have q0 : wd % 128 = 39 := (by simpa using m0)
  have q1 : bits 2 7 wd = d := bits_of m1
  have q2 : field 3 9 wd = 0 := m2
  have q3 : bits 2 12 wd = a := bits_of m3
  have q4 : field 3 14 wd = 0 := m4
  have q5 : bits 2 17 wd = b := bits_of m5
  have q6 : field 9 19 wd = 0 := m6
  have q7 : field 4 28 wd = 7 := m7
  exact .inr ⟨rfl, lt_of p8, par_of m0, by simp [decodeWord, decodeVecCompare, q0, q1, q2, q3, q4, q5, q6, q7]⟩
theorem EncodeDecode.vmskOr (d : BitVec 2) (a : BitVec 2) (b : BitVec 2) : EncodeDecode.Statement (.vmskOr d a b) := by
  intro hw nb wd hq
  obtain ⟨rfl, he⟩ := word_eq (show some (32, Sys2Proof.fill 0x80000027 [(7, d.toNat), (12, a.toNat), (17, b.toNat)]) = some (nb, wd) from hq)
  simp only [Sys2Proof.fill] at he
  have p0 : wd / 2 ^ 0 = 39 + 2 ^ 7 * (d.toNat + 2 ^ 2 * (0 + 2 ^ 3 * (a.toNat + 2 ^ 2 * (0 + 2 ^ 3 * (b.toNat + 2 ^ 2 * (0 + 2 ^ 9 * (8 + 2 ^ 4 * 0))))))) := by omega
  have ⟨m0, p1⟩ := peel p0 (by decide)
  have ⟨m1, p2⟩ := peel p1 (d.isLt)
  have ⟨m2, p3⟩ := peel p2 (by decide)
  have ⟨m3, p4⟩ := peel p3 (a.isLt)
  have ⟨m4, p5⟩ := peel p4 (by decide)
  have ⟨m5, p6⟩ := peel p5 (b.isLt)
  have ⟨m6, p7⟩ := peel p6 (by decide)
  have ⟨m7, p8⟩ := peel p7 (by decide)
  have q0 : wd % 128 = 39 := (by simpa using m0)
  have q1 : bits 2 7 wd = d := bits_of m1
  have q2 : field 3 9 wd = 0 := m2
  have q3 : bits 2 12 wd = a := bits_of m3
  have q4 : field 3 14 wd = 0 := m4
  have q5 : bits 2 17 wd = b := bits_of m5
  have q6 : field 9 19 wd = 0 := m6
  have q7 : field 4 28 wd = 8 := m7
  exact .inr ⟨rfl, lt_of p8, par_of m0, by simp [decodeWord, decodeVecCompare, q0, q1, q2, q3, q4, q5, q6, q7]⟩
theorem EncodeDecode.vmskXor (d : BitVec 2) (a : BitVec 2) (b : BitVec 2) : EncodeDecode.Statement (.vmskXor d a b) := by
  intro hw nb wd hq
  obtain ⟨rfl, he⟩ := word_eq (show some (32, Sys2Proof.fill 0x90000027 [(7, d.toNat), (12, a.toNat), (17, b.toNat)]) = some (nb, wd) from hq)
  simp only [Sys2Proof.fill] at he
  have p0 : wd / 2 ^ 0 = 39 + 2 ^ 7 * (d.toNat + 2 ^ 2 * (0 + 2 ^ 3 * (a.toNat + 2 ^ 2 * (0 + 2 ^ 3 * (b.toNat + 2 ^ 2 * (0 + 2 ^ 9 * (9 + 2 ^ 4 * 0))))))) := by omega
  have ⟨m0, p1⟩ := peel p0 (by decide)
  have ⟨m1, p2⟩ := peel p1 (d.isLt)
  have ⟨m2, p3⟩ := peel p2 (by decide)
  have ⟨m3, p4⟩ := peel p3 (a.isLt)
  have ⟨m4, p5⟩ := peel p4 (by decide)
  have ⟨m5, p6⟩ := peel p5 (b.isLt)
  have ⟨m6, p7⟩ := peel p6 (by decide)
  have ⟨m7, p8⟩ := peel p7 (by decide)
  have q0 : wd % 128 = 39 := (by simpa using m0)
  have q1 : bits 2 7 wd = d := bits_of m1
  have q2 : field 3 9 wd = 0 := m2
  have q3 : bits 2 12 wd = a := bits_of m3
  have q4 : field 3 14 wd = 0 := m4
  have q5 : bits 2 17 wd = b := bits_of m5
  have q6 : field 9 19 wd = 0 := m6
  have q7 : field 4 28 wd = 9 := m7
  exact .inr ⟨rfl, lt_of p8, par_of m0, by simp [decodeWord, decodeVecCompare, q0, q1, q2, q3, q4, q5, q6, q7]⟩
theorem EncodeDecode.vmskAndn (d : BitVec 2) (a : BitVec 2) (b : BitVec 2) : EncodeDecode.Statement (.vmskAndn d a b) := by
  intro hw nb wd hq
  obtain ⟨rfl, he⟩ := word_eq (show some (32, Sys2Proof.fill 0xa0000027 [(7, d.toNat), (12, a.toNat), (17, b.toNat)]) = some (nb, wd) from hq)
  simp only [Sys2Proof.fill] at he
  have p0 : wd / 2 ^ 0 = 39 + 2 ^ 7 * (d.toNat + 2 ^ 2 * (0 + 2 ^ 3 * (a.toNat + 2 ^ 2 * (0 + 2 ^ 3 * (b.toNat + 2 ^ 2 * (0 + 2 ^ 9 * (10 + 2 ^ 4 * 0))))))) := by omega
  have ⟨m0, p1⟩ := peel p0 (by decide)
  have ⟨m1, p2⟩ := peel p1 (d.isLt)
  have ⟨m2, p3⟩ := peel p2 (by decide)
  have ⟨m3, p4⟩ := peel p3 (a.isLt)
  have ⟨m4, p5⟩ := peel p4 (by decide)
  have ⟨m5, p6⟩ := peel p5 (b.isLt)
  have ⟨m6, p7⟩ := peel p6 (by decide)
  have ⟨m7, p8⟩ := peel p7 (by decide)
  have q0 : wd % 128 = 39 := (by simpa using m0)
  have q1 : bits 2 7 wd = d := bits_of m1
  have q2 : field 3 9 wd = 0 := m2
  have q3 : bits 2 12 wd = a := bits_of m3
  have q4 : field 3 14 wd = 0 := m4
  have q5 : bits 2 17 wd = b := bits_of m5
  have q6 : field 9 19 wd = 0 := m6
  have q7 : field 4 28 wd = 10 := m7
  exact .inr ⟨rfl, lt_of p8, par_of m0, by simp [decodeWord, decodeVecCompare, q0, q1, q2, q3, q4, q5, q6, q7]⟩
theorem EncodeDecode.vmskMov (d : BitVec 2) (a : BitVec 5) : EncodeDecode.Statement (.vmskMov d a) := by
  intro hw nb wd hq
  obtain ⟨rfl, he⟩ := word_eq (show some (32, Sys2Proof.fill 0xb0000027 [(7, d.toNat), (12, a.toNat)]) = some (nb, wd) from hq)
  simp only [Sys2Proof.fill] at he
  have p0 : wd / 2 ^ 0 = 39 + 2 ^ 7 * (d.toNat + 2 ^ 2 * (0 + 2 ^ 3 * (a.toNat + 2 ^ 5 * (0 + 2 ^ 11 * (11 + 2 ^ 4 * 0))))) := by omega
  have ⟨m0, p1⟩ := peel p0 (by decide)
  have ⟨m1, p2⟩ := peel p1 (d.isLt)
  have ⟨m2, p3⟩ := peel p2 (by decide)
  have ⟨m3, p4⟩ := peel p3 (a.isLt)
  have ⟨m4, p5⟩ := peel p4 (by decide)
  have ⟨m5, p6⟩ := peel p5 (by decide)
  have q0 : wd % 128 = 39 := (by simpa using m0)
  have q1 : bits 2 7 wd = d := bits_of m1
  have q2 : field 3 9 wd = 0 := m2
  have q3 : bits 5 12 wd = a := bits_of m3
  have q4 : field 11 17 wd = 0 := m4
  have q5 : field 4 28 wd = 11 := m5
  exact .inr ⟨rfl, lt_of p6, par_of m0, by simp [decodeWord, decodeVecCompare, q0, q1, q2, q3, q4, q5]⟩
theorem EncodeDecode.vmskGet (d : BitVec 5) (a : BitVec 2) : EncodeDecode.Statement (.vmskGet d a) := by
  intro hw nb wd hq
  obtain ⟨rfl, he⟩ := word_eq (show some (32, Sys2Proof.fill 0xc0000027 [(7, d.toNat), (12, a.toNat)]) = some (nb, wd) from hq)
  simp only [Sys2Proof.fill] at he
  have p0 : wd / 2 ^ 0 = 39 + 2 ^ 7 * (d.toNat + 2 ^ 5 * (a.toNat + 2 ^ 2 * (0 + 2 ^ 14 * (12 + 2 ^ 4 * 0)))) := by omega
  have ⟨m0, p1⟩ := peel p0 (by decide)
  have ⟨m1, p2⟩ := peel p1 (d.isLt)
  have ⟨m2, p3⟩ := peel p2 (a.isLt)
  have ⟨m3, p4⟩ := peel p3 (by decide)
  have ⟨m4, p5⟩ := peel p4 (by decide)
  have q0 : wd % 128 = 39 := (by simpa using m0)
  have q1 : bits 5 7 wd = d := bits_of m1
  have q2 : bits 2 12 wd = a := bits_of m2
  have q3 : field 4 28 wd = 12 := m4
  have q4 : field 14 14 wd = 0 := m3
  exact .inr ⟨rfl, lt_of p5, par_of m0, by simp [decodeWord, decodeVecCompare, q0, q1, q2, q3, q4]⟩
theorem EncodeDecode.vrcp (d : BitVec 5) (a : BitVec 5) (e : Et) (k : BitVec 2) : EncodeDecode.Statement (.vrcp d a e k) := by
  intro hw nb wd hq
  have hv : ((e.isWideFloat : Bool)) = true := hw
  obtain ⟨rfl, he⟩ := word_eq (show some (32, Sys2Proof.fill 0x29 [(7, d.toNat), (12, a.toNat), (22, e.code), (25, k.toNat)]) = some (nb, wd) from hq)
  simp only [Sys2Proof.fill] at he
  have p0 : wd / 2 ^ 0 = 41 + 2 ^ 7 * (d.toNat + 2 ^ 5 * (a.toNat + 2 ^ 5 * (0 + 2 ^ 5 * (e.code + 2 ^ 3 * (k.toNat + 2 ^ 2 * (0 + 2 ^ 1 * (0 + 2 ^ 4 * 0))))))) := by omega
  have ⟨m0, p1⟩ := peel p0 (by decide)
  have ⟨m1, p2⟩ := peel p1 (d.isLt)
  have ⟨m2, p3⟩ := peel p2 (a.isLt)
  have ⟨m3, p4⟩ := peel p3 (by decide)
  have ⟨m4, p5⟩ := peel p4 (Et.code_lt e)
  have ⟨m5, p6⟩ := peel p5 (k.isLt)
  have ⟨m6, p7⟩ := peel p6 (by decide)
  have ⟨m7, p8⟩ := peel p7 (by decide)
  have q0 : wd % 128 = 41 := (by simpa using m0)
  have q1 : bits 5 7 wd = d := bits_of m1
  have q2 : bits 5 12 wd = a := bits_of m2
  have q3 : field 5 17 wd = 0 := m3
  have q4 : field 3 22 wd = e.code := m4
  have q5 : bits 2 25 wd = k := bits_of m5
  have q6 : field 1 27 wd = 0 := m6
  have q7 : field 4 28 wd = 0 := m7
  exact .inr ⟨rfl, lt_of p8, par_of m0, by simp [decodeWord, decodeVecSpecial, q0, q1, q2, q3, q4, q5, q6, q7, Et.ofCode_code, hv]⟩
theorem EncodeDecode.vrsq (d : BitVec 5) (a : BitVec 5) (e : Et) (k : BitVec 2) : EncodeDecode.Statement (.vrsq d a e k) := by
  intro hw nb wd hq
  have hv : ((e.isWideFloat : Bool)) = true := hw
  obtain ⟨rfl, he⟩ := word_eq (show some (32, Sys2Proof.fill 0x10000029 [(7, d.toNat), (12, a.toNat), (22, e.code), (25, k.toNat)]) = some (nb, wd) from hq)
  simp only [Sys2Proof.fill] at he
  have p0 : wd / 2 ^ 0 = 41 + 2 ^ 7 * (d.toNat + 2 ^ 5 * (a.toNat + 2 ^ 5 * (0 + 2 ^ 5 * (e.code + 2 ^ 3 * (k.toNat + 2 ^ 2 * (0 + 2 ^ 1 * (1 + 2 ^ 4 * 0))))))) := by omega
  have ⟨m0, p1⟩ := peel p0 (by decide)
  have ⟨m1, p2⟩ := peel p1 (d.isLt)
  have ⟨m2, p3⟩ := peel p2 (a.isLt)
  have ⟨m3, p4⟩ := peel p3 (by decide)
  have ⟨m4, p5⟩ := peel p4 (Et.code_lt e)
  have ⟨m5, p6⟩ := peel p5 (k.isLt)
  have ⟨m6, p7⟩ := peel p6 (by decide)
  have ⟨m7, p8⟩ := peel p7 (by decide)
  have q0 : wd % 128 = 41 := (by simpa using m0)
  have q1 : bits 5 7 wd = d := bits_of m1
  have q2 : bits 5 12 wd = a := bits_of m2
  have q3 : field 5 17 wd = 0 := m3
  have q4 : field 3 22 wd = e.code := m4
  have q5 : bits 2 25 wd = k := bits_of m5
  have q6 : field 1 27 wd = 0 := m6
  have q7 : field 4 28 wd = 1 := m7
  exact .inr ⟨rfl, lt_of p8, par_of m0, by simp [decodeWord, decodeVecSpecial, q0, q1, q2, q3, q4, q5, q6, q7, Et.ofCode_code, hv]⟩
theorem EncodeDecode.vsqrt (d : BitVec 5) (a : BitVec 5) (e : Et) (k : BitVec 2) : EncodeDecode.Statement (.vsqrt d a e k) := by
  intro hw nb wd hq
  have hv : ((e.isWideFloat : Bool)) = true := hw
  obtain ⟨rfl, he⟩ := word_eq (show some (32, Sys2Proof.fill 0x20000029 [(7, d.toNat), (12, a.toNat), (22, e.code), (25, k.toNat)]) = some (nb, wd) from hq)
  simp only [Sys2Proof.fill] at he
  have p0 : wd / 2 ^ 0 = 41 + 2 ^ 7 * (d.toNat + 2 ^ 5 * (a.toNat + 2 ^ 5 * (0 + 2 ^ 5 * (e.code + 2 ^ 3 * (k.toNat + 2 ^ 2 * (0 + 2 ^ 1 * (2 + 2 ^ 4 * 0))))))) := by omega
  have ⟨m0, p1⟩ := peel p0 (by decide)
  have ⟨m1, p2⟩ := peel p1 (d.isLt)
  have ⟨m2, p3⟩ := peel p2 (a.isLt)
  have ⟨m3, p4⟩ := peel p3 (by decide)
  have ⟨m4, p5⟩ := peel p4 (Et.code_lt e)
  have ⟨m5, p6⟩ := peel p5 (k.isLt)
  have ⟨m6, p7⟩ := peel p6 (by decide)
  have ⟨m7, p8⟩ := peel p7 (by decide)
  have q0 : wd % 128 = 41 := (by simpa using m0)
  have q1 : bits 5 7 wd = d := bits_of m1
  have q2 : bits 5 12 wd = a := bits_of m2
  have q3 : field 5 17 wd = 0 := m3
  have q4 : field 3 22 wd = e.code := m4
  have q5 : bits 2 25 wd = k := bits_of m5
  have q6 : field 1 27 wd = 0 := m6
  have q7 : field 4 28 wd = 2 := m7
  exact .inr ⟨rfl, lt_of p8, par_of m0, by simp [decodeWord, decodeVecSpecial, q0, q1, q2, q3, q4, q5, q6, q7, Et.ofCode_code, hv]⟩
theorem EncodeDecode.vdiv (d : BitVec 5) (a : BitVec 5) (b : BitVec 5) (e : Et) (k : BitVec 2) : EncodeDecode.Statement (.vdiv d a b e k) := by
  intro hw nb wd hq
  have hv : ((e.isWideFloat : Bool)) = true := hw
  obtain ⟨rfl, he⟩ := word_eq (show some (32, Sys2Proof.fill 0x30000029 [(7, d.toNat), (12, a.toNat), (17, b.toNat), (22, e.code), (25, k.toNat)]) = some (nb, wd) from hq)
  simp only [Sys2Proof.fill] at he
  have p0 : wd / 2 ^ 0 = 41 + 2 ^ 7 * (d.toNat + 2 ^ 5 * (a.toNat + 2 ^ 5 * (b.toNat + 2 ^ 5 * (e.code + 2 ^ 3 * (k.toNat + 2 ^ 2 * (0 + 2 ^ 1 * (3 + 2 ^ 4 * 0))))))) := by omega
  have ⟨m0, p1⟩ := peel p0 (by decide)
  have ⟨m1, p2⟩ := peel p1 (d.isLt)
  have ⟨m2, p3⟩ := peel p2 (a.isLt)
  have ⟨m3, p4⟩ := peel p3 (b.isLt)
  have ⟨m4, p5⟩ := peel p4 (Et.code_lt e)
  have ⟨m5, p6⟩ := peel p5 (k.isLt)
  have ⟨m6, p7⟩ := peel p6 (by decide)
  have ⟨m7, p8⟩ := peel p7 (by decide)
  have q0 : wd % 128 = 41 := (by simpa using m0)
  have q1 : bits 5 7 wd = d := bits_of m1
  have q2 : bits 5 12 wd = a := bits_of m2
  have q3 : bits 5 17 wd = b := bits_of m3
  have q4 : field 3 22 wd = e.code := m4
  have q5 : bits 2 25 wd = k := bits_of m5
  have q6 : field 1 27 wd = 0 := m6
  have q7 : field 4 28 wd = 3 := m7
  exact .inr ⟨rfl, lt_of p8, par_of m0, by simp [decodeWord, decodeVecSpecial, q0, q1, q2, q3, q4, q5, q6, q7, Et.ofCode_code, hv]⟩
theorem EncodeDecode.vexp (d : BitVec 5) (a : BitVec 5) (e : Et) (k : BitVec 2) : EncodeDecode.Statement (.vexp d a e k) := by
  intro hw nb wd hq
  have hv : ((e.isWideFloat : Bool)) = true := hw
  obtain ⟨rfl, he⟩ := word_eq (show some (32, Sys2Proof.fill 0x40000029 [(7, d.toNat), (12, a.toNat), (22, e.code), (25, k.toNat)]) = some (nb, wd) from hq)
  simp only [Sys2Proof.fill] at he
  have p0 : wd / 2 ^ 0 = 41 + 2 ^ 7 * (d.toNat + 2 ^ 5 * (a.toNat + 2 ^ 5 * (0 + 2 ^ 5 * (e.code + 2 ^ 3 * (k.toNat + 2 ^ 2 * (0 + 2 ^ 1 * (4 + 2 ^ 4 * 0))))))) := by omega
  have ⟨m0, p1⟩ := peel p0 (by decide)
  have ⟨m1, p2⟩ := peel p1 (d.isLt)
  have ⟨m2, p3⟩ := peel p2 (a.isLt)
  have ⟨m3, p4⟩ := peel p3 (by decide)
  have ⟨m4, p5⟩ := peel p4 (Et.code_lt e)
  have ⟨m5, p6⟩ := peel p5 (k.isLt)
  have ⟨m6, p7⟩ := peel p6 (by decide)
  have ⟨m7, p8⟩ := peel p7 (by decide)
  have q0 : wd % 128 = 41 := (by simpa using m0)
  have q1 : bits 5 7 wd = d := bits_of m1
  have q2 : bits 5 12 wd = a := bits_of m2
  have q3 : field 5 17 wd = 0 := m3
  have q4 : field 3 22 wd = e.code := m4
  have q5 : bits 2 25 wd = k := bits_of m5
  have q6 : field 1 27 wd = 0 := m6
  have q7 : field 4 28 wd = 4 := m7
  exact .inr ⟨rfl, lt_of p8, par_of m0, by simp [decodeWord, decodeVecSpecial, q0, q1, q2, q3, q4, q5, q6, q7, Et.ofCode_code, hv]⟩
theorem EncodeDecode.vexp2 (d : BitVec 5) (a : BitVec 5) (e : Et) (k : BitVec 2) : EncodeDecode.Statement (.vexp2 d a e k) := by
  intro hw nb wd hq
  have hv : ((e.isWideFloat : Bool)) = true := hw
  obtain ⟨rfl, he⟩ := word_eq (show some (32, Sys2Proof.fill 0x50000029 [(7, d.toNat), (12, a.toNat), (22, e.code), (25, k.toNat)]) = some (nb, wd) from hq)
  simp only [Sys2Proof.fill] at he
  have p0 : wd / 2 ^ 0 = 41 + 2 ^ 7 * (d.toNat + 2 ^ 5 * (a.toNat + 2 ^ 5 * (0 + 2 ^ 5 * (e.code + 2 ^ 3 * (k.toNat + 2 ^ 2 * (0 + 2 ^ 1 * (5 + 2 ^ 4 * 0))))))) := by omega
  have ⟨m0, p1⟩ := peel p0 (by decide)
  have ⟨m1, p2⟩ := peel p1 (d.isLt)
  have ⟨m2, p3⟩ := peel p2 (a.isLt)
  have ⟨m3, p4⟩ := peel p3 (by decide)
  have ⟨m4, p5⟩ := peel p4 (Et.code_lt e)
  have ⟨m5, p6⟩ := peel p5 (k.isLt)
  have ⟨m6, p7⟩ := peel p6 (by decide)
  have ⟨m7, p8⟩ := peel p7 (by decide)
  have q0 : wd % 128 = 41 := (by simpa using m0)
  have q1 : bits 5 7 wd = d := bits_of m1
  have q2 : bits 5 12 wd = a := bits_of m2
  have q3 : field 5 17 wd = 0 := m3
  have q4 : field 3 22 wd = e.code := m4
  have q5 : bits 2 25 wd = k := bits_of m5
  have q6 : field 1 27 wd = 0 := m6
  have q7 : field 4 28 wd = 5 := m7
  exact .inr ⟨rfl, lt_of p8, par_of m0, by simp [decodeWord, decodeVecSpecial, q0, q1, q2, q3, q4, q5, q6, q7, Et.ofCode_code, hv]⟩
theorem EncodeDecode.vlog (d : BitVec 5) (a : BitVec 5) (e : Et) (k : BitVec 2) : EncodeDecode.Statement (.vlog d a e k) := by
  intro hw nb wd hq
  have hv : ((e.isWideFloat : Bool)) = true := hw
  obtain ⟨rfl, he⟩ := word_eq (show some (32, Sys2Proof.fill 0x60000029 [(7, d.toNat), (12, a.toNat), (22, e.code), (25, k.toNat)]) = some (nb, wd) from hq)
  simp only [Sys2Proof.fill] at he
  have p0 : wd / 2 ^ 0 = 41 + 2 ^ 7 * (d.toNat + 2 ^ 5 * (a.toNat + 2 ^ 5 * (0 + 2 ^ 5 * (e.code + 2 ^ 3 * (k.toNat + 2 ^ 2 * (0 + 2 ^ 1 * (6 + 2 ^ 4 * 0))))))) := by omega
  have ⟨m0, p1⟩ := peel p0 (by decide)
  have ⟨m1, p2⟩ := peel p1 (d.isLt)
  have ⟨m2, p3⟩ := peel p2 (a.isLt)
  have ⟨m3, p4⟩ := peel p3 (by decide)
  have ⟨m4, p5⟩ := peel p4 (Et.code_lt e)
  have ⟨m5, p6⟩ := peel p5 (k.isLt)
  have ⟨m6, p7⟩ := peel p6 (by decide)
  have ⟨m7, p8⟩ := peel p7 (by decide)
  have q0 : wd % 128 = 41 := (by simpa using m0)
  have q1 : bits 5 7 wd = d := bits_of m1
  have q2 : bits 5 12 wd = a := bits_of m2
  have q3 : field 5 17 wd = 0 := m3
  have q4 : field 3 22 wd = e.code := m4
  have q5 : bits 2 25 wd = k := bits_of m5
  have q6 : field 1 27 wd = 0 := m6
  have q7 : field 4 28 wd = 6 := m7
  exact .inr ⟨rfl, lt_of p8, par_of m0, by simp [decodeWord, decodeVecSpecial, q0, q1, q2, q3, q4, q5, q6, q7, Et.ofCode_code, hv]⟩
theorem EncodeDecode.vlog2 (d : BitVec 5) (a : BitVec 5) (e : Et) (k : BitVec 2) : EncodeDecode.Statement (.vlog2 d a e k) := by
  intro hw nb wd hq
  have hv : ((e.isWideFloat : Bool)) = true := hw
  obtain ⟨rfl, he⟩ := word_eq (show some (32, Sys2Proof.fill 0x70000029 [(7, d.toNat), (12, a.toNat), (22, e.code), (25, k.toNat)]) = some (nb, wd) from hq)
  simp only [Sys2Proof.fill] at he
  have p0 : wd / 2 ^ 0 = 41 + 2 ^ 7 * (d.toNat + 2 ^ 5 * (a.toNat + 2 ^ 5 * (0 + 2 ^ 5 * (e.code + 2 ^ 3 * (k.toNat + 2 ^ 2 * (0 + 2 ^ 1 * (7 + 2 ^ 4 * 0))))))) := by omega
  have ⟨m0, p1⟩ := peel p0 (by decide)
  have ⟨m1, p2⟩ := peel p1 (d.isLt)
  have ⟨m2, p3⟩ := peel p2 (a.isLt)
  have ⟨m3, p4⟩ := peel p3 (by decide)
  have ⟨m4, p5⟩ := peel p4 (Et.code_lt e)
  have ⟨m5, p6⟩ := peel p5 (k.isLt)
  have ⟨m6, p7⟩ := peel p6 (by decide)
  have ⟨m7, p8⟩ := peel p7 (by decide)
  have q0 : wd % 128 = 41 := (by simpa using m0)
  have q1 : bits 5 7 wd = d := bits_of m1
  have q2 : bits 5 12 wd = a := bits_of m2
  have q3 : field 5 17 wd = 0 := m3
  have q4 : field 3 22 wd = e.code := m4
  have q5 : bits 2 25 wd = k := bits_of m5
  have q6 : field 1 27 wd = 0 := m6
  have q7 : field 4 28 wd = 7 := m7
  exact .inr ⟨rfl, lt_of p8, par_of m0, by simp [decodeWord, decodeVecSpecial, q0, q1, q2, q3, q4, q5, q6, q7, Et.ofCode_code, hv]⟩
theorem EncodeDecode.vtanh (d : BitVec 5) (a : BitVec 5) (e : Et) (k : BitVec 2) : EncodeDecode.Statement (.vtanh d a e k) := by
  intro hw nb wd hq
  have hv : ((e.isWideFloat : Bool)) = true := hw
  obtain ⟨rfl, he⟩ := word_eq (show some (32, Sys2Proof.fill 0x80000029 [(7, d.toNat), (12, a.toNat), (22, e.code), (25, k.toNat)]) = some (nb, wd) from hq)
  simp only [Sys2Proof.fill] at he
  have p0 : wd / 2 ^ 0 = 41 + 2 ^ 7 * (d.toNat + 2 ^ 5 * (a.toNat + 2 ^ 5 * (0 + 2 ^ 5 * (e.code + 2 ^ 3 * (k.toNat + 2 ^ 2 * (0 + 2 ^ 1 * (8 + 2 ^ 4 * 0))))))) := by omega
  have ⟨m0, p1⟩ := peel p0 (by decide)
  have ⟨m1, p2⟩ := peel p1 (d.isLt)
  have ⟨m2, p3⟩ := peel p2 (a.isLt)
  have ⟨m3, p4⟩ := peel p3 (by decide)
  have ⟨m4, p5⟩ := peel p4 (Et.code_lt e)
  have ⟨m5, p6⟩ := peel p5 (k.isLt)
  have ⟨m6, p7⟩ := peel p6 (by decide)
  have ⟨m7, p8⟩ := peel p7 (by decide)
  have q0 : wd % 128 = 41 := (by simpa using m0)
  have q1 : bits 5 7 wd = d := bits_of m1
  have q2 : bits 5 12 wd = a := bits_of m2
  have q3 : field 5 17 wd = 0 := m3
  have q4 : field 3 22 wd = e.code := m4
  have q5 : bits 2 25 wd = k := bits_of m5
  have q6 : field 1 27 wd = 0 := m6
  have q7 : field 4 28 wd = 8 := m7
  exact .inr ⟨rfl, lt_of p8, par_of m0, by simp [decodeWord, decodeVecSpecial, q0, q1, q2, q3, q4, q5, q6, q7, Et.ofCode_code, hv]⟩
theorem EncodeDecode.vsigm (d : BitVec 5) (a : BitVec 5) (e : Et) (k : BitVec 2) : EncodeDecode.Statement (.vsigm d a e k) := by
  intro hw nb wd hq
  have hv : ((e.isWideFloat : Bool)) = true := hw
  obtain ⟨rfl, he⟩ := word_eq (show some (32, Sys2Proof.fill 0x90000029 [(7, d.toNat), (12, a.toNat), (22, e.code), (25, k.toNat)]) = some (nb, wd) from hq)
  simp only [Sys2Proof.fill] at he
  have p0 : wd / 2 ^ 0 = 41 + 2 ^ 7 * (d.toNat + 2 ^ 5 * (a.toNat + 2 ^ 5 * (0 + 2 ^ 5 * (e.code + 2 ^ 3 * (k.toNat + 2 ^ 2 * (0 + 2 ^ 1 * (9 + 2 ^ 4 * 0))))))) := by omega
  have ⟨m0, p1⟩ := peel p0 (by decide)
  have ⟨m1, p2⟩ := peel p1 (d.isLt)
  have ⟨m2, p3⟩ := peel p2 (a.isLt)
  have ⟨m3, p4⟩ := peel p3 (by decide)
  have ⟨m4, p5⟩ := peel p4 (Et.code_lt e)
  have ⟨m5, p6⟩ := peel p5 (k.isLt)
  have ⟨m6, p7⟩ := peel p6 (by decide)
  have ⟨m7, p8⟩ := peel p7 (by decide)
  have q0 : wd % 128 = 41 := (by simpa using m0)
  have q1 : bits 5 7 wd = d := bits_of m1
  have q2 : bits 5 12 wd = a := bits_of m2
  have q3 : field 5 17 wd = 0 := m3
  have q4 : field 3 22 wd = e.code := m4
  have q5 : bits 2 25 wd = k := bits_of m5
  have q6 : field 1 27 wd = 0 := m6
  have q7 : field 4 28 wd = 9 := m7
  exact .inr ⟨rfl, lt_of p8, par_of m0, by simp [decodeWord, decodeVecSpecial, q0, q1, q2, q3, q4, q5, q6, q7, Et.ofCode_code, hv]⟩
theorem EncodeDecode.vcvt (d : BitVec 5) (a : BitVec 5) (c : Et) (e : Et) (s : Bool) (p : BitVec 2) : EncodeDecode.Statement (.vcvt d a c e s p) := by
  intro hw nb wd hq
  have hv : ((p.toNat < vcvtRatio e c : Bool)) = true := hw
  simp at hv
  obtain ⟨rfl, he⟩ := word_eq (show some (32, Sys2Proof.fill 0x2b [(7, d.toNat), (12, a.toNat), (17, c.code), (22, e.code), (27, boolNat s), (28, p.toNat)]) = some (nb, wd) from hq)
  simp only [Sys2Proof.fill] at he
  have p0 : wd / 2 ^ 0 = 43 + 2 ^ 7 * (d.toNat + 2 ^ 5 * (a.toNat + 2 ^ 5 * (c.code + 2 ^ 3 * (0 + 2 ^ 2 * (e.code + 2 ^ 3 * (0 + 2 ^ 2 * (boolNat s + 2 ^ 1 * (p.toNat + 2 ^ 2 * (0 + 2 ^ 2 * 0))))))))) := by omega
  have ⟨m0, p1⟩ := peel p0 (by decide)
  have ⟨m1, p2⟩ := peel p1 (d.isLt)
  have ⟨m2, p3⟩ := peel p2 (a.isLt)
  have ⟨m3, p4⟩ := peel p3 (Et.code_lt c)
  have ⟨m4, p5⟩ := peel p4 (by decide)
  have ⟨m5, p6⟩ := peel p5 (Et.code_lt e)
  have ⟨m6, p7⟩ := peel p6 (by decide)
  have ⟨m7, p8⟩ := peel p7 (boolNat_lt s)
  have ⟨m8, p9⟩ := peel p8 (p.isLt)
  have ⟨m9, p10⟩ := peel p9 (by decide)
  have p0 := he
  have q0 : wd % 128 = 43 := (by simpa using m0)
  have q1 : bits 5 7 wd = d := bits_of m1
  have q2 : bits 5 12 wd = a := bits_of m2
  have q3 : field 3 17 wd = c.code := m3
  have q4 : field 2 20 wd = 0 := m4
  have q5 : field 3 22 wd = e.code := m5
  have q6 : field 2 25 wd = 0 := m6
  have q7 : flag 27 wd = s := flag_of m7
  have q8 : bits 2 28 wd = p := bits_of m8
  have q9 : field 4 28 wd = p.toNat := by have := d.isLt; have := a.isLt; have := Et.code_lt c; have := Et.code_lt e; have := boolNat_lt s; have := p.isLt; simp only [field]; omega
  have hb := p.isLt
  have hp : p.toNat = 0 ∨ p.toNat = 1 ∨ p.toNat = 2 ∨ p.toNat = 3 := by omega
  exact .inr ⟨rfl, lt_of p10, par_of m0, by rcases hp with hp | hp | hp | hp <;> (rw [hp] at q9; simp [decodeWord, decodeVecConvert, q0, q1, q2, q3, q4, q5, q6, q7, q8, q9, hv, Et.ofCode_code])⟩
theorem EncodeDecode.vqnt (d : BitVec 5) (a : BitVec 5) (p : BitVec 5) (e : Et) (k : BitVec 2) (s : Bool) : EncodeDecode.Statement (.vqnt d a p e k s) := by
  intro hw nb wd hq
  obtain ⟨rfl, he⟩ := word_eq (show some (32, Sys2Proof.fill 0x4000002b [(7, d.toNat), (12, a.toNat), (17, p.toNat), (22, e.code), (25, k.toNat), (27, boolNat s)]) = some (nb, wd) from hq)
  simp only [Sys2Proof.fill] at he
  have p0 : wd / 2 ^ 0 = 43 + 2 ^ 7 * (d.toNat + 2 ^ 5 * (a.toNat + 2 ^ 5 * (p.toNat + 2 ^ 5 * (e.code + 2 ^ 3 * (k.toNat + 2 ^ 2 * (boolNat s + 2 ^ 1 * (4 + 2 ^ 4 * 0))))))) := by omega
  have ⟨m0, p1⟩ := peel p0 (by decide)
  have ⟨m1, p2⟩ := peel p1 (d.isLt)
  have ⟨m2, p3⟩ := peel p2 (a.isLt)
  have ⟨m3, p4⟩ := peel p3 (p.isLt)
  have ⟨m4, p5⟩ := peel p4 (Et.code_lt e)
  have ⟨m5, p6⟩ := peel p5 (k.isLt)
  have ⟨m6, p7⟩ := peel p6 (boolNat_lt s)
  have ⟨m7, p8⟩ := peel p7 (by decide)
  have q0 : wd % 128 = 43 := (by simpa using m0)
  have q1 : bits 5 7 wd = d := bits_of m1
  have q2 : bits 5 12 wd = a := bits_of m2
  have q3 : bits 5 17 wd = p := bits_of m3
  have q4 : field 3 22 wd = e.code := m4
  have q5 : bits 2 25 wd = k := bits_of m5
  have q6 : flag 27 wd = s := flag_of m6
  have q7 : field 4 28 wd = 4 := m7
  exact .inr ⟨rfl, lt_of p8, par_of m0, by simp [decodeWord, decodeVecConvert, q0, q1, q2, q3, q4, q5, q6, q7, Et.ofCode_code]⟩
theorem EncodeDecode.vdqn (d : BitVec 5) (a : BitVec 5) (p : BitVec 5) (e : Et) (k : BitVec 2) : EncodeDecode.Statement (.vdqn d a p e k) := by
  intro hw nb wd hq
  obtain ⟨rfl, he⟩ := word_eq (show some (32, Sys2Proof.fill 0x5000002b [(7, d.toNat), (12, a.toNat), (17, p.toNat), (22, e.code), (25, k.toNat)]) = some (nb, wd) from hq)
  simp only [Sys2Proof.fill] at he
  have p0 : wd / 2 ^ 0 = 43 + 2 ^ 7 * (d.toNat + 2 ^ 5 * (a.toNat + 2 ^ 5 * (p.toNat + 2 ^ 5 * (e.code + 2 ^ 3 * (k.toNat + 2 ^ 2 * (0 + 2 ^ 1 * (5 + 2 ^ 4 * 0))))))) := by omega
  have ⟨m0, p1⟩ := peel p0 (by decide)
  have ⟨m1, p2⟩ := peel p1 (d.isLt)
  have ⟨m2, p3⟩ := peel p2 (a.isLt)
  have ⟨m3, p4⟩ := peel p3 (p.isLt)
  have ⟨m4, p5⟩ := peel p4 (Et.code_lt e)
  have ⟨m5, p6⟩ := peel p5 (k.isLt)
  have ⟨m6, p7⟩ := peel p6 (by decide)
  have ⟨m7, p8⟩ := peel p7 (by decide)
  have q0 : wd % 128 = 43 := (by simpa using m0)
  have q1 : bits 5 7 wd = d := bits_of m1
  have q2 : bits 5 12 wd = a := bits_of m2
  have q3 : bits 5 17 wd = p := bits_of m3
  have q4 : field 3 22 wd = e.code := m4
  have q5 : bits 2 25 wd = k := bits_of m5
  have q6 : field 1 27 wd = 0 := m6
  have q7 : field 4 28 wd = 5 := m7
  exact .inr ⟨rfl, lt_of p8, par_of m0, by simp [decodeWord, decodeVecConvert, q0, q1, q2, q3, q4, q5, q6, q7, Et.ofCode_code]⟩
theorem EncodeDecode.vbaddq (d : BitVec 5) (a : BitVec 5) (b : BitVec 5) (k : BitVec 2) : EncodeDecode.Statement (.vbaddq d a b k) := by
  intro hw nb wd hq
  obtain ⟨rfl, he⟩ := word_eq (show some (32, Sys2Proof.fill 0x6000002b [(7, d.toNat), (12, a.toNat), (17, b.toNat), (25, k.toNat)]) = some (nb, wd) from hq)
  simp only [Sys2Proof.fill] at he
  have p0 : wd / 2 ^ 0 = 43 + 2 ^ 7 * (d.toNat + 2 ^ 5 * (a.toNat + 2 ^ 5 * (b.toNat + 2 ^ 5 * (0 + 2 ^ 3 * (k.toNat + 2 ^ 2 * (0 + 2 ^ 1 * (6 + 2 ^ 4 * 0))))))) := by omega
  have ⟨m0, p1⟩ := peel p0 (by decide)
  have ⟨m1, p2⟩ := peel p1 (d.isLt)
  have ⟨m2, p3⟩ := peel p2 (a.isLt)
  have ⟨m3, p4⟩ := peel p3 (b.isLt)
  have ⟨m4, p5⟩ := peel p4 (by decide)
  have ⟨m5, p6⟩ := peel p5 (k.isLt)
  have ⟨m6, p7⟩ := peel p6 (by decide)
  have ⟨m7, p8⟩ := peel p7 (by decide)
  have q0 : wd % 128 = 43 := (by simpa using m0)
  have q1 : bits 5 7 wd = d := bits_of m1
  have q2 : bits 5 12 wd = a := bits_of m2
  have q3 : bits 5 17 wd = b := bits_of m3
  have q4 : field 3 22 wd = 0 := m4
  have q5 : bits 2 25 wd = k := bits_of m5
  have q6 : field 1 27 wd = 0 := m6
  have q7 : field 4 28 wd = 6 := m7
  exact .inr ⟨rfl, lt_of p8, par_of m0, by simp [decodeWord, decodeVecConvert, q0, q1, q2, q3, q4, q5, q6, q7]⟩
theorem EncodeDecode.vperm (d : BitVec 5) (a : BitVec 5) (b : BitVec 5) (e : Et) (k : BitVec 2) : EncodeDecode.Statement (.vperm d a b e k) := by
  intro hw nb wd hq
  obtain ⟨rfl, he⟩ := word_eq (show some (32, Sys2Proof.fill 0x2d [(7, d.toNat), (12, a.toNat), (17, b.toNat), (22, e.code), (25, k.toNat)]) = some (nb, wd) from hq)
  simp only [Sys2Proof.fill] at he
  have p0 : wd / 2 ^ 0 = 45 + 2 ^ 7 * (d.toNat + 2 ^ 5 * (a.toNat + 2 ^ 5 * (b.toNat + 2 ^ 5 * (e.code + 2 ^ 3 * (k.toNat + 2 ^ 2 * (0 + 2 ^ 1 * (0 + 2 ^ 4 * 0))))))) := by omega
  have ⟨m0, p1⟩ := peel p0 (by decide)
  have ⟨m1, p2⟩ := peel p1 (d.isLt)
  have ⟨m2, p3⟩ := peel p2 (a.isLt)
  have ⟨m3, p4⟩ := peel p3 (b.isLt)
  have ⟨m4, p5⟩ := peel p4 (Et.code_lt e)
  have ⟨m5, p6⟩ := peel p5 (k.isLt)
  have ⟨m6, p7⟩ := peel p6 (by decide)
  have ⟨m7, p8⟩ := peel p7 (by decide)
  have q0 : wd % 128 = 45 := (by simpa using m0)
  have q1 : bits 5 7 wd = d := bits_of m1
  have q2 : bits 5 12 wd = a := bits_of m2
  have q3 : bits 5 17 wd = b := bits_of m3
  have q4 : field 3 22 wd = e.code := m4
  have q5 : bits 2 25 wd = k := bits_of m5
  have q6 : field 1 27 wd = 0 := m6
  have q7 : field 4 28 wd = 0 := m7
  exact .inr ⟨rfl, lt_of p8, par_of m0, by simp [decodeWord, decodeVecPermute, q0, q1, q2, q3, q4, q5, q6, q7, Et.ofCode_code]⟩
theorem EncodeDecode.vbcast (d : BitVec 5) (a : BitVec 5) (e : Et) (k : BitVec 2) : EncodeDecode.Statement (.vbcast d a e k) := by
  intro hw nb wd hq
  obtain ⟨rfl, he⟩ := word_eq (show some (32, Sys2Proof.fill 0x1000002d [(7, d.toNat), (12, a.toNat), (22, e.code), (25, k.toNat)]) = some (nb, wd) from hq)
  simp only [Sys2Proof.fill] at he
  have p0 : wd / 2 ^ 0 = 45 + 2 ^ 7 * (d.toNat + 2 ^ 5 * (a.toNat + 2 ^ 5 * (0 + 2 ^ 5 * (e.code + 2 ^ 3 * (k.toNat + 2 ^ 2 * (0 + 2 ^ 1 * (1 + 2 ^ 4 * 0))))))) := by omega
  have ⟨m0, p1⟩ := peel p0 (by decide)
  have ⟨m1, p2⟩ := peel p1 (d.isLt)
  have ⟨m2, p3⟩ := peel p2 (a.isLt)
  have ⟨m3, p4⟩ := peel p3 (by decide)
  have ⟨m4, p5⟩ := peel p4 (Et.code_lt e)
  have ⟨m5, p6⟩ := peel p5 (k.isLt)
  have ⟨m6, p7⟩ := peel p6 (by decide)
  have ⟨m7, p8⟩ := peel p7 (by decide)
  have q0 : wd % 128 = 45 := (by simpa using m0)
  have q1 : bits 5 7 wd = d := bits_of m1
  have q2 : bits 5 12 wd = a := bits_of m2
  have q3 : field 5 17 wd = 0 := m3
  have q4 : field 3 22 wd = e.code := m4
  have q5 : bits 2 25 wd = k := bits_of m5
  have q6 : field 1 27 wd = 0 := m6
  have q7 : field 4 28 wd = 1 := m7
  exact .inr ⟨rfl, lt_of p8, par_of m0, by simp [decodeWord, decodeVecPermute, q0, q1, q2, q3, q4, q5, q6, q7, Et.ofCode_code]⟩
theorem EncodeDecode.vbcastLane (d : BitVec 5) (a : BitVec 5) (i : BitVec 5) (e : Et) (k : BitVec 2) : EncodeDecode.Statement (.vbcastLane d a i e k) := by
  intro hw nb wd hq
  have hv : ((i.toNat < e.lanes : Bool)) = true := hw
  simp at hv
  obtain ⟨rfl, he⟩ := word_eq (show some (32, Sys2Proof.fill 0x1800002d [(7, d.toNat), (12, a.toNat), (17, i.toNat), (22, e.code), (25, k.toNat)]) = some (nb, wd) from hq)
  simp only [Sys2Proof.fill] at he
  have p0 : wd / 2 ^ 0 = 45 + 2 ^ 7 * (d.toNat + 2 ^ 5 * (a.toNat + 2 ^ 5 * (i.toNat + 2 ^ 5 * (e.code + 2 ^ 3 * (k.toNat + 2 ^ 2 * (1 + 2 ^ 1 * (1 + 2 ^ 4 * 0))))))) := by omega
  have ⟨m0, p1⟩ := peel p0 (by decide)
  have ⟨m1, p2⟩ := peel p1 (d.isLt)
  have ⟨m2, p3⟩ := peel p2 (a.isLt)
  have ⟨m3, p4⟩ := peel p3 (i.isLt)
  have ⟨m4, p5⟩ := peel p4 (Et.code_lt e)
  have ⟨m5, p6⟩ := peel p5 (k.isLt)
  have ⟨m6, p7⟩ := peel p6 (by decide)
  have ⟨m7, p8⟩ := peel p7 (by decide)
  have q0 : wd % 128 = 45 := (by simpa using m0)
  have q1 : bits 5 7 wd = d := bits_of m1
  have q2 : bits 5 12 wd = a := bits_of m2
  have q3 : field 5 17 wd = i.toNat := m3
  have q4 : bits 5 17 wd = i := bits_of m3
  have q5 : field 3 22 wd = e.code := m4
  have q6 : bits 2 25 wd = k := bits_of m5
  have q7 : field 1 27 wd = 1 := m6
  have q8 : field 4 28 wd = 1 := m7
  exact .inr ⟨rfl, lt_of p8, par_of m0, by simp [decodeWord, decodeVecPermute, q0, q1, q2, q3, q4, q5, q6, q7, q8, Et.ofCode_code, hv]⟩
theorem EncodeDecode.vbcastLaneHigh (d : BitVec 5) (a : BitVec 5) (i : BitVec 5) (e : Et) (k : BitVec 2) : EncodeDecode.Statement (.vbcastLaneHigh d a i e k) := by
  intro hw nb wd hq
  have hv : ((e.lanes == 64 : Bool)) = true := hw
  simp at hv
  obtain ⟨rfl, he⟩ := word_eq (show some (32, Sys2Proof.fill 0x7800002d [(7, d.toNat), (12, a.toNat), (17, i.toNat), (22, e.code), (25, k.toNat)]) = some (nb, wd) from hq)
  simp only [Sys2Proof.fill] at he
  have p0 : wd / 2 ^ 0 = 45 + 2 ^ 7 * (d.toNat + 2 ^ 5 * (a.toNat + 2 ^ 5 * (i.toNat + 2 ^ 5 * (e.code + 2 ^ 3 * (k.toNat + 2 ^ 2 * (1 + 2 ^ 1 * (7 + 2 ^ 4 * 0))))))) := by omega
  have ⟨m0, p1⟩ := peel p0 (by decide)
  have ⟨m1, p2⟩ := peel p1 (d.isLt)
  have ⟨m2, p3⟩ := peel p2 (a.isLt)
  have ⟨m3, p4⟩ := peel p3 (i.isLt)
  have ⟨m4, p5⟩ := peel p4 (Et.code_lt e)
  have ⟨m5, p6⟩ := peel p5 (k.isLt)
  have ⟨m6, p7⟩ := peel p6 (by decide)
  have ⟨m7, p8⟩ := peel p7 (by decide)
  have q0 : wd % 128 = 45 := (by simpa using m0)
  have q1 : bits 5 7 wd = d := bits_of m1
  have q2 : bits 5 12 wd = a := bits_of m2
  have q3 : bits 5 17 wd = i := bits_of m3
  have q4 : field 3 22 wd = e.code := m4
  have q5 : bits 2 25 wd = k := bits_of m5
  have q6 : field 1 27 wd = 1 := m6
  have q7 : field 4 28 wd = 7 := m7
  exact .inr ⟨rfl, lt_of p8, par_of m0, by simp [decodeWord, decodeVecPermute, q0, q1, q2, q3, q4, q5, q6, q7, Et.ofCode_code, hv]⟩
theorem EncodeDecode.vreds (d : BitVec 5) (a : BitVec 5) (e : Et) (k : BitVec 2) : EncodeDecode.Statement (.vreds d a e k) := by
  intro hw nb wd hq
  have hv : ((e.isWideFloat || !e.isFloat : Bool)) = true := hw
  simp at hv
  obtain ⟨rfl, he⟩ := word_eq (show some (32, Sys2Proof.fill 0x2000002d [(7, d.toNat), (12, a.toNat), (22, e.code), (25, k.toNat)]) = some (nb, wd) from hq)
  simp only [Sys2Proof.fill] at he
  have p0 : wd / 2 ^ 0 = 45 + 2 ^ 7 * (d.toNat + 2 ^ 5 * (a.toNat + 2 ^ 5 * (0 + 2 ^ 5 * (e.code + 2 ^ 3 * (k.toNat + 2 ^ 2 * (0 + 2 ^ 1 * (2 + 2 ^ 4 * 0))))))) := by omega
  have ⟨m0, p1⟩ := peel p0 (by decide)
  have ⟨m1, p2⟩ := peel p1 (d.isLt)
  have ⟨m2, p3⟩ := peel p2 (a.isLt)
  have ⟨m3, p4⟩ := peel p3 (by decide)
  have ⟨m4, p5⟩ := peel p4 (Et.code_lt e)
  have ⟨m5, p6⟩ := peel p5 (k.isLt)
  have ⟨m6, p7⟩ := peel p6 (by decide)
  have ⟨m7, p8⟩ := peel p7 (by decide)
  have q0 : wd % 128 = 45 := (by simpa using m0)
  have q1 : bits 5 7 wd = d := bits_of m1
  have q2 : bits 5 12 wd = a := bits_of m2
  have q3 : field 5 17 wd = 0 := m3
  have q4 : field 3 22 wd = e.code := m4
  have q5 : bits 2 25 wd = k := bits_of m5
  have q6 : field 1 27 wd = 0 := m6
  have q7 : field 4 28 wd = 2 := m7
  exact .inr ⟨rfl, lt_of p8, par_of m0, by simp [decodeWord, decodeVecPermute, q0, q1, q2, q3, q4, q5, q6, q7, Et.ofCode_code, hv]⟩
theorem EncodeDecode.vredmMax (d : BitVec 5) (a : BitVec 5) (e : Et) (k : BitVec 2) (u : Bool) : EncodeDecode.Statement (.vredmMax d a e k u) := by
  intro hw nb wd hq
  have hv : ((!(u && e.isFloat) : Bool)) = true := hw
  simp at hv
  obtain ⟨rfl, he⟩ := word_eq (show some (32, Sys2Proof.fill 0x3000002d [(7, d.toNat), (12, a.toNat), (22, e.code), (25, k.toNat), (27, boolNat u)]) = some (nb, wd) from hq)
  simp only [Sys2Proof.fill] at he
  have p0 : wd / 2 ^ 0 = 45 + 2 ^ 7 * (d.toNat + 2 ^ 5 * (a.toNat + 2 ^ 5 * (0 + 2 ^ 5 * (e.code + 2 ^ 3 * (k.toNat + 2 ^ 2 * (boolNat u + 2 ^ 1 * (3 + 2 ^ 4 * 0))))))) := by omega
  have ⟨m0, p1⟩ := peel p0 (by decide)
  have ⟨m1, p2⟩ := peel p1 (d.isLt)
  have ⟨m2, p3⟩ := peel p2 (a.isLt)
  have ⟨m3, p4⟩ := peel p3 (by decide)
  have ⟨m4, p5⟩ := peel p4 (Et.code_lt e)
  have ⟨m5, p6⟩ := peel p5 (k.isLt)
  have ⟨m6, p7⟩ := peel p6 (boolNat_lt u)
  have ⟨m7, p8⟩ := peel p7 (by decide)
  have q0 : wd % 128 = 45 := (by simpa using m0)
  have q1 : bits 5 7 wd = d := bits_of m1
  have q2 : bits 5 12 wd = a := bits_of m2
  have q3 : field 5 17 wd = 0 := m3
  have q4 : field 3 22 wd = e.code := m4
  have q5 : bits 2 25 wd = k := bits_of m5
  have q6 : flag 27 wd = u := flag_of m6
  have q7 : field 4 28 wd = 3 := m7
  exact .inr ⟨rfl, lt_of p8, par_of m0, by simp [decodeWord, decodeVecPermute, q0, q1, q2, q3, q4, q5, q6, q7, Et.ofCode_code, hv]⟩
theorem EncodeDecode.vredmMin (d : BitVec 5) (a : BitVec 5) (e : Et) (k : BitVec 2) (u : Bool) : EncodeDecode.Statement (.vredmMin d a e k u) := by
  intro hw nb wd hq
  have hv : ((!(u && e.isFloat) : Bool)) = true := hw
  simp at hv
  obtain ⟨rfl, he⟩ := word_eq (show some (32, Sys2Proof.fill 0x4000002d [(7, d.toNat), (12, a.toNat), (22, e.code), (25, k.toNat), (27, boolNat u)]) = some (nb, wd) from hq)
  simp only [Sys2Proof.fill] at he
  have p0 : wd / 2 ^ 0 = 45 + 2 ^ 7 * (d.toNat + 2 ^ 5 * (a.toNat + 2 ^ 5 * (0 + 2 ^ 5 * (e.code + 2 ^ 3 * (k.toNat + 2 ^ 2 * (boolNat u + 2 ^ 1 * (4 + 2 ^ 4 * 0))))))) := by omega
  have ⟨m0, p1⟩ := peel p0 (by decide)
  have ⟨m1, p2⟩ := peel p1 (d.isLt)
  have ⟨m2, p3⟩ := peel p2 (a.isLt)
  have ⟨m3, p4⟩ := peel p3 (by decide)
  have ⟨m4, p5⟩ := peel p4 (Et.code_lt e)
  have ⟨m5, p6⟩ := peel p5 (k.isLt)
  have ⟨m6, p7⟩ := peel p6 (boolNat_lt u)
  have ⟨m7, p8⟩ := peel p7 (by decide)
  have q0 : wd % 128 = 45 := (by simpa using m0)
  have q1 : bits 5 7 wd = d := bits_of m1
  have q2 : bits 5 12 wd = a := bits_of m2
  have q3 : field 5 17 wd = 0 := m3
  have q4 : field 3 22 wd = e.code := m4
  have q5 : bits 2 25 wd = k := bits_of m5
  have q6 : flag 27 wd = u := flag_of m6
  have q7 : field 4 28 wd = 4 := m7
  exact .inr ⟨rfl, lt_of p8, par_of m0, by simp [decodeWord, decodeVecPermute, q0, q1, q2, q3, q4, q5, q6, q7, Et.ofCode_code, hv]⟩
theorem EncodeDecode.vtrn (d : AccT) (a : AccT) (e : Et) : EncodeDecode.Statement (.vtrn d a e) := by
  intro hw nb wd hq
  have hv : ((e == .f32 || e == .i32 : Bool)) = true := hw
  simp at hv
  obtain ⟨rfl, he⟩ := word_eq (show some (32, Sys2Proof.fill 0x5000002d [(11, d.code), (16, a.code), (22, e.code)]) = some (nb, wd) from hq)
  simp only [Sys2Proof.fill] at he
  have p0 : wd / 2 ^ 0 = 45 + 2 ^ 7 * (0 + 2 ^ 4 * (d.code + 2 ^ 1 * (0 + 2 ^ 4 * (a.code + 2 ^ 1 * (0 + 2 ^ 5 * (e.code + 2 ^ 3 * (0 + 2 ^ 3 * (5 + 2 ^ 4 * 0)))))))) := by omega
  have ⟨m0, p1⟩ := peel p0 (by decide)
  have ⟨m1, p2⟩ := peel p1 (by decide)
  have ⟨m2, p3⟩ := peel p2 (AccT.code_lt d)
  have ⟨m3, p4⟩ := peel p3 (by decide)
  have ⟨m4, p5⟩ := peel p4 (AccT.code_lt a)
  have ⟨m5, p6⟩ := peel p5 (by decide)
  have ⟨m6, p7⟩ := peel p6 (Et.code_lt e)
  have ⟨m7, p8⟩ := peel p7 (by decide)
  have ⟨m8, p9⟩ := peel p8 (by decide)
  have q0 : wd % 128 = 45 := (by simpa using m0)
  have q1 : field 4 7 wd = 0 := m1
  have q2 : field 1 11 wd = d.code := m2
  have q3 : field 4 12 wd = 0 := m3
  have q4 : field 1 16 wd = a.code := m4
  have q5 : field 5 17 wd = 0 := m5
  have q6 : field 3 22 wd = e.code := m6
  have q7 : field 3 25 wd = 0 := m7
  have q8 : field 4 28 wd = 5 := m8
  exact .inr ⟨rfl, lt_of p9, par_of m0, by simp [decodeWord, decodeVecPermute, q0, q1, q2, q3, q4, q5, q6, q7, q8, AccT.ofCode_code, Et.ofCode_code, hv]⟩
theorem EncodeDecode.vgx (d : BitVec 5) (a : BitVec 5) (r : GDir) : EncodeDecode.Statement (.vgx d a r) := by
  intro hw nb wd hq
  obtain ⟨rfl, he⟩ := word_eq (show some (32, Sys2Proof.fill 0x6000002d [(7, d.toNat), (12, a.toNat), (17, r.code)]) = some (nb, wd) from hq)
  simp only [Sys2Proof.fill] at he
  have p0 : wd / 2 ^ 0 = 45 + 2 ^ 7 * (d.toNat + 2 ^ 5 * (a.toNat + 2 ^ 5 * (r.code + 2 ^ 2 * (0 + 2 ^ 9 * (6 + 2 ^ 4 * 0))))) := by omega
  have ⟨m0, p1⟩ := peel p0 (by decide)
  have ⟨m1, p2⟩ := peel p1 (d.isLt)
  have ⟨m2, p3⟩ := peel p2 (a.isLt)
  have ⟨m3, p4⟩ := peel p3 (GDir.code_lt r)
  have ⟨m4, p5⟩ := peel p4 (by decide)
  have ⟨m5, p6⟩ := peel p5 (by decide)
  have q0 : wd % 128 = 45 := (by simpa using m0)
  have q1 : bits 5 7 wd = d := bits_of m1
  have q2 : bits 5 12 wd = a := bits_of m2
  have q3 : field 2 17 wd = r.code := m3
  have q4 : field 9 19 wd = 0 := m4
  have q5 : field 4 28 wd = 6 := m5
  exact .inr ⟨rfl, lt_of p6, par_of m0, by simp [decodeWord, decodeVecPermute, q0, q1, q2, q3, q4, q5, GDir.ofCode_code]⟩
theorem EncodeDecode.vmovi (d : BitVec 5) (e : Et) (i : BitVec 16) : EncodeDecode.Statement (.vmovi d e i) := by
  intro hw nb wd hq
  obtain ⟨rfl, he⟩ := word_eq (show some (32, Sys2Proof.fill 0x2f [(7, d.toNat), (12, e.code), (16, i.toNat)]) = some (nb, wd) from hq)
  simp only [Sys2Proof.fill] at he
  have p0 : wd / 2 ^ 0 = 47 + 2 ^ 7 * (d.toNat + 2 ^ 5 * (e.code + 2 ^ 3 * (0 + 2 ^ 1 * (i.toNat + 2 ^ 16 * 0)))) := by omega
  have ⟨m0, p1⟩ := peel p0 (by decide)
  have ⟨m1, p2⟩ := peel p1 (d.isLt)
  have ⟨m2, p3⟩ := peel p2 (Et.code_lt e)
  have ⟨m3, p4⟩ := peel p3 (by decide)
  have ⟨m4, p5⟩ := peel p4 (i.isLt)
  have q0 : wd % 128 = 47 := (by simpa using m0)
  have q1 : bits 5 7 wd = d := bits_of m1
  have q2 : field 3 12 wd = e.code := m2
  have q3 : field 1 15 wd = 0 := m3
  have q4 : bits 16 16 wd = i := bits_of m4
  exact .inr ⟨rfl, lt_of p5, par_of m0, by simp [decodeWord, decodeVecImm, q0, q1, q2, q3, q4, Et.ofCode_code]⟩
theorem EncodeDecode.vmuli (d : BitVec 5) (e : Et) (i : BitVec 16) : EncodeDecode.Statement (.vmuli d e i) := by
  intro hw nb wd hq
  have hv : ((e.isFloat : Bool)) = true := hw
  obtain ⟨rfl, he⟩ := word_eq (show some (32, Sys2Proof.fill 0x802f [(7, d.toNat), (12, e.code), (16, i.toNat)]) = some (nb, wd) from hq)
  simp only [Sys2Proof.fill] at he
  have p0 : wd / 2 ^ 0 = 47 + 2 ^ 7 * (d.toNat + 2 ^ 5 * (e.code + 2 ^ 3 * (1 + 2 ^ 1 * (i.toNat + 2 ^ 16 * 0)))) := by omega
  have ⟨m0, p1⟩ := peel p0 (by decide)
  have ⟨m1, p2⟩ := peel p1 (d.isLt)
  have ⟨m2, p3⟩ := peel p2 (Et.code_lt e)
  have ⟨m3, p4⟩ := peel p3 (by decide)
  have ⟨m4, p5⟩ := peel p4 (i.isLt)
  have q0 : wd % 128 = 47 := (by simpa using m0)
  have q1 : bits 5 7 wd = d := bits_of m1
  have q2 : field 3 12 wd = e.code := m2
  have q3 : field 1 15 wd = 1 := m3
  have q4 : bits 16 16 wd = i := bits_of m4
  exact .inr ⟨rfl, lt_of p5, par_of m0, by simp [decodeWord, decodeVecImm, q0, q1, q2, q3, q4, Et.ofCode_code, hv]⟩
theorem EncodeDecode.vaddi (d : BitVec 5) (e : Et) (i : BitVec 16) : EncodeDecode.Statement (.vaddi d e i) := by
  intro hw nb wd hq
  have hv : ((!e.isFloat : Bool)) = true := hw
  simp at hv
  obtain ⟨rfl, he⟩ := word_eq (show some (32, Sys2Proof.fill 0x802f [(7, d.toNat), (12, e.code), (16, i.toNat)]) = some (nb, wd) from hq)
  simp only [Sys2Proof.fill] at he
  have p0 : wd / 2 ^ 0 = 47 + 2 ^ 7 * (d.toNat + 2 ^ 5 * (e.code + 2 ^ 3 * (1 + 2 ^ 1 * (i.toNat + 2 ^ 16 * 0)))) := by omega
  have ⟨m0, p1⟩ := peel p0 (by decide)
  have ⟨m1, p2⟩ := peel p1 (d.isLt)
  have ⟨m2, p3⟩ := peel p2 (Et.code_lt e)
  have ⟨m3, p4⟩ := peel p3 (by decide)
  have ⟨m4, p5⟩ := peel p4 (i.isLt)
  have q0 : wd % 128 = 47 := (by simpa using m0)
  have q1 : bits 5 7 wd = d := bits_of m1
  have q2 : field 3 12 wd = e.code := m2
  have q3 : field 1 15 wd = 1 := m3
  have q4 : bits 16 16 wd = i := bits_of m4
  exact .inr ⟨rfl, lt_of p5, par_of m0, by simp [decodeWord, decodeVecImm, q0, q1, q2, q3, q4, Et.ofCode_code, hv]⟩
theorem EncodeDecode.rep (c : BitVec 6) (s : BitVec 3) (t : BitVec 2) : EncodeDecode.Statement (.rep c s t) := by
  intro hw nb wd hq
  obtain ⟨rfl, he⟩ := word_eq (show some (32, Sys2Proof.fill 0x7d [(7, c.toNat), (13, s.toNat), (16, t.toNat)]) = some (nb, wd) from hq)
  simp only [Sys2Proof.fill] at he
  have p0 : wd / 2 ^ 0 = 125 + 2 ^ 7 * (c.toNat + 2 ^ 6 * (s.toNat + 2 ^ 3 * (t.toNat + 2 ^ 2 * (0 + 2 ^ 14 * 0)))) := by omega
  have ⟨m0, p1⟩ := peel p0 (by decide)
  have ⟨m1, p2⟩ := peel p1 (c.isLt)
  have ⟨m2, p3⟩ := peel p2 (s.isLt)
  have ⟨m3, p4⟩ := peel p3 (t.isLt)
  have ⟨m4, p5⟩ := peel p4 (by decide)
  have q0 : wd % 128 = 125 := (by simpa using m0)
  have q1 : bits 6 7 wd = c := bits_of m1
  have q2 : bits 3 13 wd = s := bits_of m2
  have q3 : bits 2 16 wd = t := bits_of m3
  have q4 : field 14 18 wd = 0 := m4
  exact .inr ⟨rfl, lt_of p5, par_of m0, by simp [decodeWord, decodeRepeatWord, q0, q1, q2, q3, q4]⟩
theorem EncodeDecode.oclm (d : BitVec 5) (a : BitVec 5) (p : Bool) : EncodeDecode.Statement (.oclm d a p) := by
  intro hw nb wd hq
  obtain ⟨rfl, he⟩ := word_eq (show some (32, Sys2Proof.fill 0x31 [(7, d.toNat), (19, a.toNat), (24, boolNat p)]) = some (nb, wd) from hq)
  simp only [Sys2Proof.fill] at he
  have p0 : wd / 2 ^ 0 = 49 + 2 ^ 7 * (d.toNat + 2 ^ 5 * (0 + 2 ^ 7 * (a.toNat + 2 ^ 5 * (boolNat p + 2 ^ 1 * (0 + 2 ^ 2 * (0 + 2 ^ 5 * 0)))))) := by omega
  have ⟨m0, p1⟩ := peel p0 (by decide)
  have ⟨m1, p2⟩ := peel p1 (d.isLt)
  have ⟨m2, p3⟩ := peel p2 (by decide)
  have ⟨m3, p4⟩ := peel p3 (a.isLt)
  have ⟨m4, p5⟩ := peel p4 (boolNat_lt p)
  have ⟨m5, p6⟩ := peel p5 (by decide)
  have ⟨m6, p7⟩ := peel p6 (by decide)
  have q0 : wd % 128 = 49 := (by simpa using m0)
  have q1 : bits 5 7 wd = d := bits_of m1
  have q2 : field 7 12 wd = 0 := m2
  have q3 : bits 5 19 wd = a := bits_of m3
  have q4 : flag 24 wd = p := flag_of m4
  have q5 : field 2 25 wd = 0 := m5
  have q6 : field 5 27 wd = 0 := m6
  exact .inr ⟨rfl, lt_of p7, par_of m0, by simp [decodeWord, decodeOperandSlot, q0, q1, q2, q3, q4, q5, q6]⟩
theorem EncodeDecode.orel (a : BitVec 5) : EncodeDecode.Statement (.orel a) := by
  intro hw nb wd hq
  obtain ⟨rfl, he⟩ := word_eq (show some (32, Sys2Proof.fill 0x8000031 [(7, a.toNat)]) = some (nb, wd) from hq)
  simp only [Sys2Proof.fill] at he
  have p0 : wd / 2 ^ 0 = 49 + 2 ^ 7 * (a.toNat + 2 ^ 5 * (0 + 2 ^ 15 * (1 + 2 ^ 5 * 0))) := by omega
  have ⟨m0, p1⟩ := peel p0 (by decide)
  have ⟨m1, p2⟩ := peel p1 (a.isLt)
  have ⟨m2, p3⟩ := peel p2 (by decide)
  have ⟨m3, p4⟩ := peel p3 (by decide)
  have q0 : wd % 128 = 49 := (by simpa using m0)
  have q1 : bits 5 7 wd = a := bits_of m1
  have q2 : field 5 27 wd = 1 := m3
  have q3 : field 15 12 wd = 0 := m2
  exact .inr ⟨rfl, lt_of p4, par_of m0, by simp [decodeWord, decodeOperandSlot, q0, q1, q2, q3]⟩
theorem EncodeDecode.old (n : BitVec 3) (k : BitVec 2) (h : BitVec 4) (a : BitVec 3) (s : Side) (e : BitVec 3) : EncodeDecode.Statement (.old n k h a s e) := by
  intro hw nb wd hq
  obtain ⟨rfl, he⟩ := word_eq (show some (32, Sys2Proof.fill 0x10000031 [(7, n.toNat), (10, k.toNat), (12, h.toNat), (16, a.toNat), (19, s.code), (20, e.toNat)]) = some (nb, wd) from hq)
  simp only [Sys2Proof.fill] at he
  have p0 : wd / 2 ^ 0 = 49 + 2 ^ 7 * (n.toNat + 2 ^ 3 * (k.toNat + 2 ^ 2 * (h.toNat + 2 ^ 4 * (a.toNat + 2 ^ 3 * (s.code + 2 ^ 1 * (e.toNat + 2 ^ 3 * (0 + 2 ^ 4 * (2 + 2 ^ 5 * 0)))))))) := by omega
  have ⟨m0, p1⟩ := peel p0 (by decide)
  have ⟨m1, p2⟩ := peel p1 (n.isLt)
  have ⟨m2, p3⟩ := peel p2 (k.isLt)
  have ⟨m3, p4⟩ := peel p3 (h.isLt)
  have ⟨m4, p5⟩ := peel p4 (a.isLt)
  have ⟨m5, p6⟩ := peel p5 (Side.code_lt s)
  have ⟨m6, p7⟩ := peel p6 (e.isLt)
  have ⟨m7, p8⟩ := peel p7 (by decide)
  have ⟨m8, p9⟩ := peel p8 (by decide)
  have q0 : wd % 128 = 49 := (by simpa using m0)
  have q1 : bits 3 7 wd = n := bits_of m1
  have q2 : bits 2 10 wd = k := bits_of m2
  have q3 : bits 4 12 wd = h := bits_of m3
  have q4 : bits 3 16 wd = a := bits_of m4
  have q5 : field 1 19 wd = s.code := m5
  have q6 : bits 3 20 wd = e := bits_of m6
  have q7 : field 4 23 wd = 0 := m7
  have q8 : field 5 27 wd = 2 := m8
  exact .inr ⟨rfl, lt_of p9, par_of m0, by simp [decodeWord, decodeOperandSlot, q0, q1, q2, q3, q4, q5, q6, q7, q8, Side.ofCode_code]⟩
theorem EncodeDecode.mma (d : AccT) (a : BitVec 2) (b : BitVec 2) (e : BitVec 3) (n : Bool) (t : BitVec 3) (s : BitVec 3) : EncodeDecode.Statement (.mma d a b e n t s) := by
  intro hw nb wd hq
  obtain ⟨rfl, he⟩ := word_eq (show some (32, Sys2Proof.fill 0x33 [(11, d.code), (12, a.toNat), (14, b.toNat), (16, e.toNat), (19, boolNat n), (21, t.toNat), (24, s.toNat)]) = some (nb, wd) from hq)
  simp only [Sys2Proof.fill] at he
  have p0 : wd / 2 ^ 0 = 51 + 2 ^ 7 * (0 + 2 ^ 4 * (d.code + 2 ^ 1 * (a.toNat + 2 ^ 2 * (b.toNat + 2 ^ 2 * (e.toNat + 2 ^ 3 * (boolNat n + 2 ^ 1 * (0 + 2 ^ 1 * (t.toNat + 2 ^ 3 * (s.toNat + 2 ^ 3 * (0 + 2 ^ 5 * 0)))))))))) := by omega
  have ⟨m0, p1⟩ := peel p0 (by decide)
  have ⟨m1, p2⟩ := peel p1 (by decide)
  have ⟨m2, p3⟩ := peel p2 (AccT.code_lt d)
  have ⟨m3, p4⟩ := peel p3 (a.isLt)
  have ⟨m4, p5⟩ := peel p4 (b.isLt)
  have ⟨m5, p6⟩ := peel p5 (e.isLt)
  have ⟨m6, p7⟩ := peel p6 (boolNat_lt n)
  have ⟨m7, p8⟩ := peel p7 (by decide)
  have ⟨m8, p9⟩ := peel p8 (t.isLt)
  have ⟨m9, p10⟩ := peel p9 (s.isLt)
  have ⟨m10, p11⟩ := peel p10 (by decide)
  have q0 : wd % 128 = 51 := (by simpa using m0)
  have q1 : field 4 7 wd = 0 := m1
  have q2 : field 1 11 wd = d.code := m2
  have q3 : bits 2 12 wd = a := bits_of m3
  have q4 : bits 2 14 wd = b := bits_of m4
  have q5 : bits 3 16 wd = e := bits_of m5
  have q6 : flag 19 wd = n := flag_of m6
  have q7 : field 1 20 wd = 0 := m7
  have q8 : bits 3 21 wd = t := bits_of m8
  have q9 : bits 3 24 wd = s := bits_of m9
  have q10 : field 5 27 wd = 0 := m10
  exact .inr ⟨rfl, lt_of p11, par_of m0, by simp [decodeWord, decodeMatrix, q0, q1, q2, q3, q4, q5, q6, q7, q8, q9, q10, AccT.ofCode_code]⟩
theorem EncodeDecode.mmap (d : AccT) (a : BitVec 2) (b : BitVec 2) (e : BitVec 3) (n : Bool) (t : BitVec 3) (s : BitVec 3) : EncodeDecode.Statement (.mmap d a b e n t s) := by
  intro hw nb wd hq
  obtain ⟨rfl, he⟩ := word_eq (show some (32, Sys2Proof.fill 0x8000033 [(11, d.code), (12, a.toNat), (14, b.toNat), (16, e.toNat), (19, boolNat n), (21, t.toNat), (24, s.toNat)]) = some (nb, wd) from hq)
  simp only [Sys2Proof.fill] at he
  have p0 : wd / 2 ^ 0 = 51 + 2 ^ 7 * (0 + 2 ^ 4 * (d.code + 2 ^ 1 * (a.toNat + 2 ^ 2 * (b.toNat + 2 ^ 2 * (e.toNat + 2 ^ 3 * (boolNat n + 2 ^ 1 * (0 + 2 ^ 1 * (t.toNat + 2 ^ 3 * (s.toNat + 2 ^ 3 * (1 + 2 ^ 5 * 0)))))))))) := by omega
  have ⟨m0, p1⟩ := peel p0 (by decide)
  have ⟨m1, p2⟩ := peel p1 (by decide)
  have ⟨m2, p3⟩ := peel p2 (AccT.code_lt d)
  have ⟨m3, p4⟩ := peel p3 (a.isLt)
  have ⟨m4, p5⟩ := peel p4 (b.isLt)
  have ⟨m5, p6⟩ := peel p5 (e.isLt)
  have ⟨m6, p7⟩ := peel p6 (boolNat_lt n)
  have ⟨m7, p8⟩ := peel p7 (by decide)
  have ⟨m8, p9⟩ := peel p8 (t.isLt)
  have ⟨m9, p10⟩ := peel p9 (s.isLt)
  have ⟨m10, p11⟩ := peel p10 (by decide)
  have q0 : wd % 128 = 51 := (by simpa using m0)
  have q1 : field 4 7 wd = 0 := m1
  have q2 : field 1 11 wd = d.code := m2
  have q3 : bits 2 12 wd = a := bits_of m3
  have q4 : bits 2 14 wd = b := bits_of m4
  have q5 : bits 3 16 wd = e := bits_of m5
  have q6 : flag 19 wd = n := flag_of m6
  have q7 : field 1 20 wd = 0 := m7
  have q8 : bits 3 21 wd = t := bits_of m8
  have q9 : bits 3 24 wd = s := bits_of m9
  have q10 : field 5 27 wd = 1 := m10
  exact .inr ⟨rfl, lt_of p11, par_of m0, by simp [decodeWord, decodeMatrix, q0, q1, q2, q3, q4, q5, q6, q7, q8, q9, q10, AccT.ofCode_code]⟩
theorem EncodeDecode.mzero (d : AccT) (n : Bool) : EncodeDecode.Statement (.mzero d n) := by
  intro hw nb wd hq
  obtain ⟨rfl, he⟩ := word_eq (show some (32, Sys2Proof.fill 0x10000033 [(11, d.code), (19, boolNat n)]) = some (nb, wd) from hq)
  simp only [Sys2Proof.fill] at he
  have p0 : wd / 2 ^ 0 = 51 + 2 ^ 7 * (0 + 2 ^ 4 * (d.code + 2 ^ 1 * (0 + 2 ^ 7 * (boolNat n + 2 ^ 1 * (0 + 2 ^ 7 * (2 + 2 ^ 5 * 0)))))) := by omega
  have ⟨m0, p1⟩ := peel p0 (by decide)
  have ⟨m1, p2⟩ := peel p1 (by decide)
  have ⟨m2, p3⟩ := peel p2 (AccT.code_lt d)
  have ⟨m3, p4⟩ := peel p3 (by decide)
  have ⟨m4, p5⟩ := peel p4 (boolNat_lt n)
  have ⟨m5, p6⟩ := peel p5 (by decide)
  have ⟨m6, p7⟩ := peel p6 (by decide)
  have q0 : wd % 128 = 51 := (by simpa using m0)
  have q1 : field 4 7 wd = 0 := m1
  have q2 : field 1 11 wd = d.code := m2
  have q3 : field 7 12 wd = 0 := m3
  have q4 : flag 19 wd = n := flag_of m4
  have q5 : field 7 20 wd = 0 := m5
  have q6 : field 5 27 wd = 2 := m6
  exact .inr ⟨rfl, lt_of p7, par_of m0, by simp [decodeWord, decodeMatrix, q0, q1, q2, q3, q4, q5, q6, AccT.ofCode_code]⟩
theorem EncodeDecode.hbind (n : BitVec 4) (h : BitVec 4) (c : BitVec 3) : EncodeDecode.Statement (.hbind n h c) := by
  intro hw nb wd hq
  obtain ⟨rfl, he⟩ := word_eq (show some (32, Sys2Proof.fill 0x35 [(7, n.toNat), (12, h.toNat), (16, c.toNat)]) = some (nb, wd) from hq)
  simp only [Sys2Proof.fill] at he
  have p0 : wd / 2 ^ 0 = 53 + 2 ^ 7 * (n.toNat + 2 ^ 4 * (0 + 2 ^ 1 * (h.toNat + 2 ^ 4 * (c.toNat + 2 ^ 3 * (0 + 2 ^ 8 * (0 + 2 ^ 5 * 0)))))) := by omega
  have ⟨m0, p1⟩ := peel p0 (by decide)
  have ⟨m1, p2⟩ := peel p1 (n.isLt)
  have ⟨m2, p3⟩ := peel p2 (by decide)
  have ⟨m3, p4⟩ := peel p3 (h.isLt)
  have ⟨m4, p5⟩ := peel p4 (c.isLt)
  have ⟨m5, p6⟩ := peel p5 (by decide)
  have ⟨m6, p7⟩ := peel p6 (by decide)
  have q0 : wd % 128 = 53 := (by simpa using m0)
  have q1 : bits 4 7 wd = n := bits_of m1
  have q2 : field 1 11 wd = 0 := m2
  have q3 : bits 4 12 wd = h := bits_of m3
  have q4 : bits 3 16 wd = c := bits_of m4
  have q5 : field 8 19 wd = 0 := m5
  have q6 : field 5 27 wd = 0 := m6
  exact .inr ⟨rfl, lt_of p7, par_of m0, by simp [decodeWord, decodeHusk, q0, q1, q2, q3, q4, q5, q6]⟩
theorem EncodeDecode.mmd (n : BitVec 4) (v : AccT) (h : BitVec 4) (e : BitVec 3) (f : Bool) (t : BitVec 3) (s : BitVec 3) : EncodeDecode.Statement (.mmd n v h e f t s) := by
  intro hw nb wd hq
  obtain ⟨rfl, he⟩ := word_eq (show some (32, Sys2Proof.fill 0x8000035 [(7, n.toNat), (11, v.code), (12, h.toNat), (16, e.toNat), (19, boolNat f), (21, t.toNat), (24, s.toNat)]) = some (nb, wd) from hq)
  simp only [Sys2Proof.fill] at he
  have p0 : wd / 2 ^ 0 = 53 + 2 ^ 7 * (n.toNat + 2 ^ 4 * (v.code + 2 ^ 1 * (h.toNat + 2 ^ 4 * (e.toNat + 2 ^ 3 * (boolNat f + 2 ^ 1 * (0 + 2 ^ 1 * (t.toNat + 2 ^ 3 * (s.toNat + 2 ^ 3 * (1 + 2 ^ 5 * 0))))))))) := by omega
  have ⟨m0, p1⟩ := peel p0 (by decide)
  have ⟨m1, p2⟩ := peel p1 (n.isLt)
  have ⟨m2, p3⟩ := peel p2 (AccT.code_lt v)
  have ⟨m3, p4⟩ := peel p3 (h.isLt)
  have ⟨m4, p5⟩ := peel p4 (e.isLt)
  have ⟨m5, p6⟩ := peel p5 (boolNat_lt f)
  have ⟨m6, p7⟩ := peel p6 (by decide)
  have ⟨m7, p8⟩ := peel p7 (t.isLt)
  have ⟨m8, p9⟩ := peel p8 (s.isLt)
  have ⟨m9, p10⟩ := peel p9 (by decide)
  have q0 : wd % 128 = 53 := (by simpa using m0)
  have q1 : bits 4 7 wd = n := bits_of m1
  have q2 : field 1 11 wd = v.code := m2
  have q3 : bits 4 12 wd = h := bits_of m3
  have q4 : bits 3 16 wd = e := bits_of m4
  have q5 : flag 19 wd = f := flag_of m5
  have q6 : field 1 20 wd = 0 := m6
  have q7 : bits 3 21 wd = t := bits_of m7
  have q8 : bits 3 24 wd = s := bits_of m8
  have q9 : field 5 27 wd = 1 := m9
  exact .inr ⟨rfl, lt_of p10, par_of m0, by simp [decodeWord, decodeHusk, q0, q1, q2, q3, q4, q5, q6, q7, q8, q9, AccT.ofCode_code]⟩
theorem EncodeDecode.hkill (n : BitVec 4) (l : Bool) : EncodeDecode.Statement (.hkill n l) := by
  intro hw nb wd hq
  have hv : ((!(l && n != 0) : Bool)) = true := hw
  simp at hv
  obtain ⟨rfl, he⟩ := word_eq (show some (32, Sys2Proof.fill 0x10000035 [(7, n.toNat), (11, boolNat l)]) = some (nb, wd) from hq)
  simp only [Sys2Proof.fill] at he
  have p0 : wd / 2 ^ 0 = 53 + 2 ^ 7 * (n.toNat + 2 ^ 4 * (boolNat l + 2 ^ 1 * (0 + 2 ^ 15 * (2 + 2 ^ 5 * 0)))) := by omega
  have ⟨m0, p1⟩ := peel p0 (by decide)
  have ⟨m1, p2⟩ := peel p1 (n.isLt)
  have ⟨m2, p3⟩ := peel p2 (boolNat_lt l)
  have ⟨m3, p4⟩ := peel p3 (by decide)
  have ⟨m4, p5⟩ := peel p4 (by decide)
  have q0 : wd % 128 = 53 := (by simpa using m0)
  have q1 : bits 4 7 wd = n := bits_of m1
  have q2 : flag 11 wd = l := flag_of m2
  have q3 : field 5 27 wd = 2 := m4
  have q4 : field 15 12 wd = 0 := m3
  exact .inr ⟨rfl, lt_of p5, par_of m0, by simp [decodeWord, decodeHusk, q0, q1, q2, q3, q4, hv]⟩
theorem EncodeDecode.hstat (d : BitVec 5) (n : BitVec 4) (b : Bool) : EncodeDecode.Statement (.hstat d n b) := by
  intro hw nb wd hq
  obtain ⟨rfl, he⟩ := word_eq (show some (32, Sys2Proof.fill 0x18000035 [(7, d.toNat), (19, n.toNat), (23, boolNat b)]) = some (nb, wd) from hq)
  simp only [Sys2Proof.fill] at he
  have p0 : wd / 2 ^ 0 = 53 + 2 ^ 7 * (d.toNat + 2 ^ 5 * (0 + 2 ^ 7 * (n.toNat + 2 ^ 4 * (boolNat b + 2 ^ 1 * (0 + 2 ^ 3 * (3 + 2 ^ 5 * 0)))))) := by omega
  have ⟨m0, p1⟩ := peel p0 (by decide)
  have ⟨m1, p2⟩ := peel p1 (d.isLt)
  have ⟨m2, p3⟩ := peel p2 (by decide)
  have ⟨m3, p4⟩ := peel p3 (n.isLt)
  have ⟨m4, p5⟩ := peel p4 (boolNat_lt b)
  have ⟨m5, p6⟩ := peel p5 (by decide)
  have ⟨m6, p7⟩ := peel p6 (by decide)
  have q0 : wd % 128 = 53 := (by simpa using m0)
  have q1 : bits 5 7 wd = d := bits_of m1
  have q2 : field 7 12 wd = 0 := m2
  have q3 : bits 4 19 wd = n := bits_of m3
  have q4 : flag 23 wd = b := flag_of m4
  have q5 : field 3 24 wd = 0 := m5
  have q6 : field 5 27 wd = 3 := m6
  exact .inr ⟨rfl, lt_of p7, par_of m0, by simp [decodeWord, decodeHusk, q0, q1, q2, q3, q4, q5, q6]⟩
theorem EncodeDecode.ggeoRng (d : BitVec 3) (h : BitVec 4) (k : BitVec 3) : EncodeDecode.Statement (.ggeoRng d h k) := by
  intro hw nb wd hq
  have hv : ((d.toNat % 2 == 0 : Bool)) = true := hw
  simp at hv
  obtain ⟨rfl, he⟩ := word_eq (show some (32, Sys2Proof.fill 0x37 [(7, d.toNat), (12, h.toNat), (16, k.toNat)]) = some (nb, wd) from hq)
  simp only [Sys2Proof.fill] at he
  have p0 : wd / 2 ^ 0 = 55 + 2 ^ 7 * (d.toNat + 2 ^ 3 * (0 + 2 ^ 2 * (h.toNat + 2 ^ 4 * (k.toNat + 2 ^ 3 * (0 + 2 ^ 8 * (0 + 2 ^ 5 * 0)))))) := by omega
  have ⟨m0, p1⟩ := peel p0 (by decide)
  have ⟨m1, p2⟩ := peel p1 (d.isLt)
  have ⟨m2, p3⟩ := peel p2 (by decide)
  have ⟨m3, p4⟩ := peel p3 (h.isLt)
  have ⟨m4, p5⟩ := peel p4 (k.isLt)
  have ⟨m5, p6⟩ := peel p5 (by decide)
  have ⟨m6, p7⟩ := peel p6 (by decide)
  have q0 : wd % 128 = 55 := (by simpa using m0)
  have q1 : bits 3 7 wd = d := bits_of m1
  have q2 : field 2 10 wd = 0 := m2
  have q3 : bits 4 12 wd = h := bits_of m3
  have q4 : bits 3 16 wd = k := bits_of m4
  have q5 : field 8 19 wd = 0 := m5
  have q6 : field 5 27 wd = 0 := m6
  exact .inr ⟨rfl, lt_of p7, par_of m0, by simp [decodeWord, decodeGeometry, q0, q1, q2, q3, q4, q5, q6, hv]⟩
theorem EncodeDecode.ggeoEdge (d : BitVec 3) (k : BitVec 3) (b : BitVec 5) : EncodeDecode.Statement (.ggeoEdge d k b) := by
  intro hw nb wd hq
  obtain ⟨rfl, he⟩ := word_eq (show some (32, Sys2Proof.fill 0x8000037 [(7, d.toNat), (16, k.toNat), (19, b.toNat)]) = some (nb, wd) from hq)
  simp only [Sys2Proof.fill] at he
  have p0 : wd / 2 ^ 0 = 55 + 2 ^ 7 * (d.toNat + 2 ^ 3 * (0 + 2 ^ 6 * (k.toNat + 2 ^ 3 * (b.toNat + 2 ^ 5 * (0 + 2 ^ 3 * (1 + 2 ^ 5 * 0)))))) := by omega
  have ⟨m0, p1⟩ := peel p0 (by decide)
  have ⟨m1, p2⟩ := peel p1 (d.isLt)
  have ⟨m2, p3⟩ := peel p2 (by decide)
  have ⟨m3, p4⟩ := peel p3 (k.isLt)
  have ⟨m4, p5⟩ := peel p4 (b.isLt)
  have ⟨m5, p6⟩ := peel p5 (by decide)
  have ⟨m6, p7⟩ := peel p6 (by decide)
  have q0 : wd % 128 = 55 := (by simpa using m0)
  have q1 : bits 3 7 wd = d := bits_of m1
  have q2 : field 6 10 wd = 0 := m2
  have q3 : bits 3 16 wd = k := bits_of m3
  have q4 : bits 5 19 wd = b := bits_of m4
  have q5 : field 3 24 wd = 0 := m5
  have q6 : field 5 27 wd = 1 := m6
  exact .inr ⟨rfl, lt_of p7, par_of m0, by simp [decodeWord, decodeGeometry, q0, q1, q2, q3, q4, q5, q6]⟩
theorem EncodeDecode.copy (d : BitVec 4) (h : BitVec 4) (a : BitVec 2) (b : BitVec 5) (n : Bool) : EncodeDecode.Statement (.copy d h a b n) := by
  intro hw nb wd hq
  obtain ⟨rfl, he⟩ := word_eq (show some (32, Sys2Proof.fill 0x39 [(7, d.toNat), (12, h.toNat), (17, a.toNat), (19, b.toNat), (26, boolNat n)]) = some (nb, wd) from hq)
  simp only [Sys2Proof.fill] at he
  have p0 : wd / 2 ^ 0 = 57 + 2 ^ 7 * (d.toNat + 2 ^ 4 * (0 + 2 ^ 1 * (h.toNat + 2 ^ 4 * (0 + 2 ^ 1 * (a.toNat + 2 ^ 2 * (b.toNat + 2 ^ 5 * (0 + 2 ^ 2 * (boolNat n + 2 ^ 1 * (0 + 2 ^ 5 * 0))))))))) := by omega
  have ⟨m0, p1⟩ := peel p0 (by decide)
  have ⟨m1, p2⟩ := peel p1 (d.isLt)
  have ⟨m2, p3⟩ := peel p2 (by decide)
  have ⟨m3, p4⟩ := peel p3 (h.isLt)
  have ⟨m4, p5⟩ := peel p4 (by decide)
  have ⟨m5, p6⟩ := peel p5 (a.isLt)
  have ⟨m6, p7⟩ := peel p6 (b.isLt)
  have ⟨m7, p8⟩ := peel p7 (by decide)
  have ⟨m8, p9⟩ := peel p8 (boolNat_lt n)
  have ⟨m9, p10⟩ := peel p9 (by decide)
  have q0 : wd % 128 = 57 := (by simpa using m0)
  have q1 : bits 4 7 wd = d := bits_of m1
  have q2 : field 1 11 wd = 0 := m2
  have q3 : bits 4 12 wd = h := bits_of m3
  have q4 : field 1 16 wd = 0 := m4
  have q5 : bits 2 17 wd = a := bits_of m5
  have q6 : bits 5 19 wd = b := bits_of m6
  have q7 : field 2 24 wd = 0 := m7
  have q8 : flag 26 wd = n := flag_of m8
  have q9 : field 5 27 wd = 0 := m9
  exact .inr ⟨rfl, lt_of p10, par_of m0, by simp [decodeWord, decodeTransferA, q0, q1, q2, q3, q4, q5, q6, q7, q8, q9]⟩
theorem EncodeDecode.copyMove (d : BitVec 4) (h : BitVec 4) (n : Bool) : EncodeDecode.Statement (.copyMove d h n) := by
  intro hw nb wd hq
  obtain ⟨rfl, he⟩ := word_eq (show some (32, Sys2Proof.fill 0x1000039 [(7, d.toNat), (12, h.toNat), (26, boolNat n)]) = some (nb, wd) from hq)
  simp only [Sys2Proof.fill] at he
  have p0 : wd / 2 ^ 0 = 57 + 2 ^ 7 * (d.toNat + 2 ^ 4 * (0 + 2 ^ 1 * (h.toNat + 2 ^ 4 * (0 + 2 ^ 1 * (0 + 2 ^ 7 * (1 + 2 ^ 2 * (boolNat n + 2 ^ 1 * (0 + 2 ^ 5 * 0)))))))) := by omega
  have ⟨m0, p1⟩ := peel p0 (by decide)
  have ⟨m1, p2⟩ := peel p1 (d.isLt)
  have ⟨m2, p3⟩ := peel p2 (by decide)
  have ⟨m3, p4⟩ := peel p3 (h.isLt)
  have ⟨m4, p5⟩ := peel p4 (by decide)
  have ⟨m5, p6⟩ := peel p5 (by decide)
  have ⟨m6, p7⟩ := peel p6 (by decide)
  have ⟨m7, p8⟩ := peel p7 (boolNat_lt n)
  have ⟨m8, p9⟩ := peel p8 (by decide)
  have p0 := he
  have q0 : wd % 128 = 57 := (by simpa using m0)
  have q1 : bits 4 7 wd = d := bits_of m1
  have q2 : field 1 11 wd = 0 := m2
  have q3 : bits 4 12 wd = h := bits_of m3
  have q4 : field 1 16 wd = 0 := m4
  have q5 : field 10 16 wd = 256 := by have := d.isLt; have := h.isLt; have := boolNat_lt n; simp only [field]; omega
  have q6 : field 2 24 wd = 1 := m6
  have q7 : flag 26 wd = n := flag_of m7
  have q8 : field 5 27 wd = 0 := m8
  exact .inr ⟨rfl, lt_of p9, par_of m0, by simp [decodeWord, decodeTransferA, q0, q1, q2, q3, q4, q5, q6, q7, q8]⟩
theorem EncodeDecode.copyAuto (d : BitVec 4) (h : BitVec 4) (n : Bool) : EncodeDecode.Statement (.copyAuto d h n) := by
  intro hw nb wd hq
  obtain ⟨rfl, he⟩ := word_eq (show some (32, Sys2Proof.fill 0x2000039 [(7, d.toNat), (12, h.toNat), (26, boolNat n)]) = some (nb, wd) from hq)
  simp only [Sys2Proof.fill] at he
  have p0 : wd / 2 ^ 0 = 57 + 2 ^ 7 * (d.toNat + 2 ^ 4 * (0 + 2 ^ 1 * (h.toNat + 2 ^ 4 * (0 + 2 ^ 1 * (0 + 2 ^ 7 * (2 + 2 ^ 2 * (boolNat n + 2 ^ 1 * (0 + 2 ^ 5 * 0)))))))) := by omega
  have ⟨m0, p1⟩ := peel p0 (by decide)
  have ⟨m1, p2⟩ := peel p1 (d.isLt)
  have ⟨m2, p3⟩ := peel p2 (by decide)
  have ⟨m3, p4⟩ := peel p3 (h.isLt)
  have ⟨m4, p5⟩ := peel p4 (by decide)
  have ⟨m5, p6⟩ := peel p5 (by decide)
  have ⟨m6, p7⟩ := peel p6 (by decide)
  have ⟨m7, p8⟩ := peel p7 (boolNat_lt n)
  have ⟨m8, p9⟩ := peel p8 (by decide)
  have p0 := he
  have q0 : wd % 128 = 57 := (by simpa using m0)
  have q1 : bits 4 7 wd = d := bits_of m1
  have q2 : field 1 11 wd = 0 := m2
  have q3 : bits 4 12 wd = h := bits_of m3
  have q4 : field 1 16 wd = 0 := m4
  have q5 : field 10 16 wd = 512 := by have := d.isLt; have := h.isLt; have := boolNat_lt n; simp only [field]; omega
  have q6 : field 2 24 wd = 2 := m6
  have q7 : flag 26 wd = n := flag_of m7
  have q8 : field 5 27 wd = 0 := m8
  exact .inr ⟨rfl, lt_of p9, par_of m0, by simp [decodeWord, decodeTransferA, q0, q1, q2, q3, q4, q5, q6, q7, q8]⟩
theorem EncodeDecode.copyPkt (h : BitVec 4) (b : BitVec 5) : EncodeDecode.Statement (.copyPkt h b) := by
  intro hw nb wd hq
  obtain ⟨rfl, he⟩ := word_eq (show some (32, Sys2Proof.fill 0x8000039 [(12, h.toNat), (19, b.toNat)]) = some (nb, wd) from hq)
  simp only [Sys2Proof.fill] at he
  have p0 : wd / 2 ^ 0 = 57 + 2 ^ 7 * (0 + 2 ^ 5 * (h.toNat + 2 ^ 4 * (0 + 2 ^ 3 * (b.toNat + 2 ^ 5 * (0 + 2 ^ 3 * (1 + 2 ^ 5 * 0)))))) := by omega
  have ⟨m0, p1⟩ := peel p0 (by decide)
  have ⟨m1, p2⟩ := peel p1 (by decide)
  have ⟨m2, p3⟩ := peel p2 (h.isLt)
  have ⟨m3, p4⟩ := peel p3 (by decide)
  have ⟨m4, p5⟩ := peel p4 (b.isLt)
  have ⟨m5, p6⟩ := peel p5 (by decide)
  have ⟨m6, p7⟩ := peel p6 (by decide)
  have q0 : wd % 128 = 57 := (by simpa using m0)
  have q1 : field 5 7 wd = 0 := m1
  have q2 : bits 4 12 wd = h := bits_of m2
  have q3 : field 3 16 wd = 0 := m3
  have q4 : bits 5 19 wd = b := bits_of m4
  have q5 : field 3 24 wd = 0 := m5
  have q6 : field 5 27 wd = 1 := m6
  exact .inr ⟨rfl, lt_of p7, par_of m0, by simp [decodeWord, decodeTransferA, q0, q1, q2, q3, q4, q5, q6]⟩
theorem EncodeDecode.copym (n : BitVec 3) (k : BitVec 2) (h : BitVec 4) (a : BitVec 3) (s : Side) (e : BitVec 3) (c : BitVec 3) (f : Bool) : EncodeDecode.Statement (.copym n k h a s e c f) := by
  intro hw nb wd hq
  obtain ⟨rfl, he⟩ := word_eq (show some (32, Sys2Proof.fill 0x10000039 [(7, n.toNat), (10, k.toNat), (12, h.toNat), (16, a.toNat), (19, s.code), (20, e.toNat), (23, c.toNat), (26, boolNat f)]) = some (nb, wd) from hq)
  simp only [Sys2Proof.fill] at he
  have p0 : wd / 2 ^ 0 = 57 + 2 ^ 7 * (n.toNat + 2 ^ 3 * (k.toNat + 2 ^ 2 * (h.toNat + 2 ^ 4 * (a.toNat + 2 ^ 3 * (s.code + 2 ^ 1 * (e.toNat + 2 ^ 3 * (c.toNat + 2 ^ 3 * (boolNat f + 2 ^ 1 * (2 + 2 ^ 5 * 0))))))))) := by omega
  have ⟨m0, p1⟩ := peel p0 (by decide)
  have ⟨m1, p2⟩ := peel p1 (n.isLt)
  have ⟨m2, p3⟩ := peel p2 (k.isLt)
  have ⟨m3, p4⟩ := peel p3 (h.isLt)
  have ⟨m4, p5⟩ := peel p4 (a.isLt)
  have ⟨m5, p6⟩ := peel p5 (Side.code_lt s)
  have ⟨m6, p7⟩ := peel p6 (e.isLt)
  have ⟨m7, p8⟩ := peel p7 (c.isLt)
  have ⟨m8, p9⟩ := peel p8 (boolNat_lt f)
  have ⟨m9, p10⟩ := peel p9 (by decide)
  have q0 : wd % 128 = 57 := (by simpa using m0)
  have q1 : bits 3 7 wd = n := bits_of m1
  have q2 : bits 2 10 wd = k := bits_of m2
  have q3 : bits 4 12 wd = h := bits_of m3
  have q4 : bits 3 16 wd = a := bits_of m4
  have q5 : field 1 19 wd = s.code := m5
  have q6 : bits 3 20 wd = e := bits_of m6
  have q7 : bits 3 23 wd = c := bits_of m7
  have q8 : flag 26 wd = f := flag_of m8
  have q9 : field 5 27 wd = 2 := m9
  exact .inr ⟨rfl, lt_of p10, par_of m0, by simp [decodeWord, decodeTransferA, q0, q1, q2, q3, q4, q5, q6, q7, q8, q9, Side.ofCode_code]⟩
theorem EncodeDecode.gath (d : BitVec 4) (h : BitVec 4) (a : BitVec 3) (f : Bool) (i : BitVec 4) : EncodeDecode.Statement (.gath d h a f i) := by
  intro hw nb wd hq
  have hv : ((a.toNat < 6 : Bool)) = true := hw
  simp at hv
  obtain ⟨rfl, he⟩ := word_eq (show some (32, Sys2Proof.fill 0x18000039 [(7, d.toNat), (12, h.toNat), (16, a.toNat), (22, boolNat f), (23, i.toNat)]) = some (nb, wd) from hq)
  simp only [Sys2Proof.fill] at he
  have p0 : wd / 2 ^ 0 = 57 + 2 ^ 7 * (d.toNat + 2 ^ 4 * (0 + 2 ^ 1 * (h.toNat + 2 ^ 4 * (a.toNat + 2 ^ 3 * (0 + 2 ^ 3 * (boolNat f + 2 ^ 1 * (i.toNat + 2 ^ 4 * (3 + 2 ^ 5 * 0)))))))) := by omega
  have ⟨m0, p1⟩ := peel p0 (by decide)
  have ⟨m1, p2⟩ := peel p1 (d.isLt)
  have ⟨m2, p3⟩ := peel p2 (by decide)
  have ⟨m3, p4⟩ := peel p3 (h.isLt)
  have ⟨m4, p5⟩ := peel p4 (a.isLt)
  have ⟨m5, p6⟩ := peel p5 (by decide)
  have ⟨m6, p7⟩ := peel p6 (boolNat_lt f)
  have ⟨m7, p8⟩ := peel p7 (i.isLt)
  have ⟨m8, p9⟩ := peel p8 (by decide)
  have q0 : wd % 128 = 57 := (by simpa using m0)
  have q1 : bits 4 7 wd = d := bits_of m1
  have q2 : field 1 11 wd = 0 := m2
  have q3 : bits 4 12 wd = h := bits_of m3
  have q4 : bits 3 16 wd = a := bits_of m4
  have q5 : field 3 19 wd = 0 := m5
  have q6 : flag 22 wd = f := flag_of m6
  have q7 : bits 4 23 wd = i := bits_of m7
  have q8 : field 5 27 wd = 3 := m8
  exact .inr ⟨rfl, lt_of p9, par_of m0, by simp [decodeWord, decodeTransferA, q0, q1, q2, q3, q4, q5, q6, q7, q8, hv]⟩
theorem EncodeDecode.fill (d : BitVec 4) (a : BitVec 2) (b : BitVec 5) (f : Bool) : EncodeDecode.Statement (.fill d a b f) := by
  intro hw nb wd hq
  obtain ⟨rfl, he⟩ := word_eq (show some (32, Sys2Proof.fill 0x20000039 [(7, d.toNat), (17, a.toNat), (19, b.toNat), (26, boolNat f)]) = some (nb, wd) from hq)
  simp only [Sys2Proof.fill] at he
  have p0 : wd / 2 ^ 0 = 57 + 2 ^ 7 * (d.toNat + 2 ^ 4 * (0 + 2 ^ 6 * (a.toNat + 2 ^ 2 * (b.toNat + 2 ^ 5 * (0 + 2 ^ 2 * (boolNat f + 2 ^ 1 * (4 + 2 ^ 5 * 0))))))) := by omega
  have ⟨m0, p1⟩ := peel p0 (by decide)
  have ⟨m1, p2⟩ := peel p1 (d.isLt)
  have ⟨m2, p3⟩ := peel p2 (by decide)
  have ⟨m3, p4⟩ := peel p3 (a.isLt)
  have ⟨m4, p5⟩ := peel p4 (b.isLt)
  have ⟨m5, p6⟩ := peel p5 (by decide)
  have ⟨m6, p7⟩ := peel p6 (boolNat_lt f)
  have ⟨m7, p8⟩ := peel p7 (by decide)
  have q0 : wd % 128 = 57 := (by simpa using m0)
  have q1 : bits 4 7 wd = d := bits_of m1
  have q2 : field 6 11 wd = 0 := m2
  have q3 : bits 2 17 wd = a := bits_of m3
  have q4 : bits 5 19 wd = b := bits_of m4
  have q5 : field 2 24 wd = 0 := m5
  have q6 : flag 26 wd = f := flag_of m6
  have q7 : field 5 27 wd = 4 := m7
  exact .inr ⟨rfl, lt_of p8, par_of m0, by simp [decodeWord, decodeTransferA, q0, q1, q2, q3, q4, q5, q6, q7]⟩
theorem EncodeDecode.srinv (h : BitVec 4) (a : BitVec 3) : EncodeDecode.Statement (.srinv h a) := by
  intro hw nb wd hq
  obtain ⟨rfl, he⟩ := word_eq (show some (32, Sys2Proof.fill 0x3b [(12, h.toNat), (16, a.toNat)]) = some (nb, wd) from hq)
  simp only [Sys2Proof.fill] at he
  have p0 : wd / 2 ^ 0 = 59 + 2 ^ 7 * (0 + 2 ^ 5 * (h.toNat + 2 ^ 4 * (a.toNat + 2 ^ 3 * (0 + 2 ^ 8 * (0 + 2 ^ 5 * 0))))) := by omega
  have ⟨m0, p1⟩ := peel p0 (by decide)
  have ⟨m1, p2⟩ := peel p1 (by decide)
  have ⟨m2, p3⟩ := peel p2 (h.isLt)
  have ⟨m3, p4⟩ := peel p3 (a.isLt)
  have ⟨m4, p5⟩ := peel p4 (by decide)
  have ⟨m5, p6⟩ := peel p5 (by decide)
  have q0 : wd % 128 = 59 := (by simpa using m0)
  have q1 : field 5 7 wd = 0 := m1
  have q2 : bits 4 12 wd = h := bits_of m2
  have q3 : bits 3 16 wd = a := bits_of m3
  have q4 : field 8 19 wd = 0 := m4
  have q5 : field 5 27 wd = 0 := m5
  exact .inr ⟨rfl, lt_of p6, par_of m0, by simp [decodeWord, decodeTransferB, q0, q1, q2, q3, q4, q5]⟩
theorem EncodeDecode.srinvAll : EncodeDecode.Statement .srinvAll := by
  intro hw nb wd hq
  obtain ⟨rfl, he⟩ := word_eq (show some (32, Sys2Proof.fill 0x400003b []) = some (nb, wd) from hq)
  simp only [Sys2Proof.fill] at he
  have p0 : wd / 2 ^ 0 = 59 + 2 ^ 7 * (0 + 2 ^ 5 * (0 + 2 ^ 7 * (128 + 2 ^ 8 * (0 + 2 ^ 5 * 0)))) := by omega
  have ⟨m0, p1⟩ := peel p0 (by decide)
  have ⟨m1, p2⟩ := peel p1 (by decide)
  have ⟨m2, p3⟩ := peel p2 (by decide)
  have ⟨m3, p4⟩ := peel p3 (by decide)
  have ⟨m4, p5⟩ := peel p4 (by decide)
  have p0 := he
  have q0 : wd % 128 = 59 := (by simpa using m0)
  have q1 : field 5 7 wd = 0 := m1
  have q2 : field 8 19 wd = 128 := m3
  have q3 : field 5 27 wd = 0 := m4
  have q4 : field 20 7 wd = 524288 := by  simp only [field]; omega
  exact .inr ⟨rfl, lt_of p5, par_of m0, by simp [decodeWord, decodeTransferB, q0, q1, q2, q3, q4]⟩
theorem EncodeDecode.qapp (d : BitVec 5) (h : BitVec 4) (a : BitVec 3) (b : BitVec 5) (f : Bool) : EncodeDecode.Statement (.qapp d h a b f) := by
  intro hw nb wd hq
  obtain ⟨rfl, he⟩ := word_eq (show some (32, Sys2Proof.fill 0x800003b [(7, d.toNat), (12, h.toNat), (16, a.toNat), (19, b.toNat), (26, boolNat f)]) = some (nb, wd) from hq)
  simp only [Sys2Proof.fill] at he
  have p0 : wd / 2 ^ 0 = 59 + 2 ^ 7 * (d.toNat + 2 ^ 5 * (h.toNat + 2 ^ 4 * (a.toNat + 2 ^ 3 * (b.toNat + 2 ^ 5 * (0 + 2 ^ 2 * (boolNat f + 2 ^ 1 * (1 + 2 ^ 5 * 0))))))) := by omega
  have ⟨m0, p1⟩ := peel p0 (by decide)
  have ⟨m1, p2⟩ := peel p1 (d.isLt)
  have ⟨m2, p3⟩ := peel p2 (h.isLt)
  have ⟨m3, p4⟩ := peel p3 (a.isLt)
  have ⟨m4, p5⟩ := peel p4 (b.isLt)
  have ⟨m5, p6⟩ := peel p5 (by decide)
  have ⟨m6, p7⟩ := peel p6 (boolNat_lt f)
  have ⟨m7, p8⟩ := peel p7 (by decide)
  have q0 : wd % 128 = 59 := (by simpa using m0)
  have q1 : bits 5 7 wd = d := bits_of m1
  have q2 : bits 4 12 wd = h := bits_of m2
  have q3 : bits 3 16 wd = a := bits_of m3
  have q4 : bits 5 19 wd = b := bits_of m4
  have q5 : field 2 24 wd = 0 := m5
  have q6 : flag 26 wd = f := flag_of m6
  have q7 : field 5 27 wd = 1 := m7
  exact .inr ⟨rfl, lt_of p8, par_of m0, by simp [decodeWord, decodeTransferB, q0, q1, q2, q3, q4, q5, q6, q7]⟩
theorem EncodeDecode.selt (d : BitVec 4) (h : BitVec 4) (a : BitVec 2) (b : Bool) (f : Bool) : EncodeDecode.Statement (.selt d h a b f) := by
  intro hw nb wd hq
  obtain ⟨rfl, he⟩ := word_eq (show some (32, Sys2Proof.fill 0x1000003b [(7, d.toNat), (12, h.toNat), (17, a.toNat), (25, boolNat b), (26, boolNat f)]) = some (nb, wd) from hq)
  simp only [Sys2Proof.fill] at he
  have p0 : wd / 2 ^ 0 = 59 + 2 ^ 7 * (d.toNat + 2 ^ 4 * (0 + 2 ^ 1 * (h.toNat + 2 ^ 4 * (0 + 2 ^ 1 * (a.toNat + 2 ^ 2 * (0 + 2 ^ 6 * (boolNat b + 2 ^ 1 * (boolNat f + 2 ^ 1 * (2 + 2 ^ 5 * 0))))))))) := by omega
  have ⟨m0, p1⟩ := peel p0 (by decide)
  have ⟨m1, p2⟩ := peel p1 (d.isLt)
  have ⟨m2, p3⟩ := peel p2 (by decide)
  have ⟨m3, p4⟩ := peel p3 (h.isLt)
  have ⟨m4, p5⟩ := peel p4 (by decide)
  have ⟨m5, p6⟩ := peel p5 (a.isLt)
  have ⟨m6, p7⟩ := peel p6 (by decide)
  have ⟨m7, p8⟩ := peel p7 (boolNat_lt b)
  have ⟨m8, p9⟩ := peel p8 (boolNat_lt f)
  have ⟨m9, p10⟩ := peel p9 (by decide)
  have q0 : wd % 128 = 59 := (by simpa using m0)
  have q1 : bits 4 7 wd = d := bits_of m1
  have q2 : field 1 11 wd = 0 := m2
  have q3 : bits 4 12 wd = h := bits_of m3
  have q4 : field 1 16 wd = 0 := m4
  have q5 : bits 2 17 wd = a := bits_of m5
  have q6 : field 6 19 wd = 0 := m6
  have q7 : flag 25 wd = b := flag_of m7
  have q8 : flag 26 wd = f := flag_of m8
  have q9 : field 5 27 wd = 2 := m9
  exact .inr ⟨rfl, lt_of p10, par_of m0, by simp [decodeWord, decodeTransferB, q0, q1, q2, q3, q4, q5, q6, q7, q8, q9]⟩
theorem EncodeDecode.halo (p : BitVec 4) (h : BitVec 4) (a : BitVec 3) (r : Dir) (f : Bool) : EncodeDecode.Statement (.halo p h a r f) := by
  intro hw nb wd hq
  obtain ⟨rfl, he⟩ := word_eq (show some (32, Sys2Proof.fill 0x3d [(7, p.toNat), (12, h.toNat), (16, a.toNat), (19, r.code), (26, boolNat f)]) = some (nb, wd) from hq)
  simp only [Sys2Proof.fill] at he
  have p0 : wd / 2 ^ 0 = 61 + 2 ^ 7 * (p.toNat + 2 ^ 4 * (0 + 2 ^ 1 * (h.toNat + 2 ^ 4 * (a.toNat + 2 ^ 3 * (r.code + 2 ^ 2 * (0 + 2 ^ 5 * (boolNat f + 2 ^ 1 * (0 + 2 ^ 5 * 0)))))))) := by omega
  have ⟨m0, p1⟩ := peel p0 (by decide)
  have ⟨m1, p2⟩ := peel p1 (p.isLt)
  have ⟨m2, p3⟩ := peel p2 (by decide)
  have ⟨m3, p4⟩ := peel p3 (h.isLt)
  have ⟨m4, p5⟩ := peel p4 (a.isLt)
  have ⟨m5, p6⟩ := peel p5 (Dir.code_lt r)
  have ⟨m6, p7⟩ := peel p6 (by decide)
  have ⟨m7, p8⟩ := peel p7 (boolNat_lt f)
  have ⟨m8, p9⟩ := peel p8 (by decide)
  have q0 : wd % 128 = 61 := (by simpa using m0)
  have q1 : bits 4 7 wd = p := bits_of m1
  have q2 : field 1 11 wd = 0 := m2
  have q3 : bits 4 12 wd = h := bits_of m3
  have q4 : bits 3 16 wd = a := bits_of m4
  have q5 : field 2 19 wd = r.code := m5
  have q6 : field 5 21 wd = 0 := m6
  have q7 : flag 26 wd = f := flag_of m7
  have q8 : field 5 27 wd = 0 := m8
  exact .inr ⟨rfl, lt_of p9, par_of m0, by simp [decodeWord, decodeCluster, q0, q1, q2, q3, q4, q5, q6, q7, q8, Dir.ofCode_code]⟩
theorem EncodeDecode.mbox (h : BitVec 4) (d : BitVec 5) : EncodeDecode.Statement (.mbox h d) := by
  intro hw nb wd hq
  obtain ⟨rfl, he⟩ := word_eq (show some (32, Sys2Proof.fill 0x800003d [(12, h.toNat), (19, d.toNat)]) = some (nb, wd) from hq)
  simp only [Sys2Proof.fill] at he
  have p0 : wd / 2 ^ 0 = 61 + 2 ^ 7 * (0 + 2 ^ 5 * (h.toNat + 2 ^ 4 * (0 + 2 ^ 3 * (d.toNat + 2 ^ 5 * (0 + 2 ^ 3 * (1 + 2 ^ 5 * 0)))))) := by omega
  have ⟨m0, p1⟩ := peel p0 (by decide)
  have ⟨m1, p2⟩ := peel p1 (by decide)
  have ⟨m2, p3⟩ := peel p2 (h.isLt)
  have ⟨m3, p4⟩ := peel p3 (by decide)
  have ⟨m4, p5⟩ := peel p4 (d.isLt)
  have ⟨m5, p6⟩ := peel p5 (by decide)
  have ⟨m6, p7⟩ := peel p6 (by decide)
  have q0 : wd % 128 = 61 := (by simpa using m0)
  have q1 : field 5 7 wd = 0 := m1
  have q2 : bits 4 12 wd = h := bits_of m2
  have q3 : field 3 16 wd = 0 := m3
  have q4 : bits 5 19 wd = d := bits_of m4
  have q5 : field 3 24 wd = 0 := m5
  have q6 : field 5 27 wd = 1 := m6
  exact .inr ⟨rfl, lt_of p7, par_of m0, by simp [decodeWord, decodeCluster, q0, q1, q2, q3, q4, q5, q6]⟩
theorem EncodeDecode.mboxWait (h : BitVec 4) (b : BitVec 5) : EncodeDecode.Statement (.mboxWait h b) := by
  intro hw nb wd hq
  obtain ⟨rfl, he⟩ := word_eq (show some (32, Sys2Proof.fill 0xc00003d [(12, h.toNat), (19, b.toNat)]) = some (nb, wd) from hq)
  simp only [Sys2Proof.fill] at he
  have p0 : wd / 2 ^ 0 = 61 + 2 ^ 7 * (0 + 2 ^ 5 * (h.toNat + 2 ^ 4 * (0 + 2 ^ 3 * (b.toNat + 2 ^ 5 * (4 + 2 ^ 3 * (1 + 2 ^ 5 * 0)))))) := by omega
  have ⟨m0, p1⟩ := peel p0 (by decide)
  have ⟨m1, p2⟩ := peel p1 (by decide)
  have ⟨m2, p3⟩ := peel p2 (h.isLt)
  have ⟨m3, p4⟩ := peel p3 (by decide)
  have ⟨m4, p5⟩ := peel p4 (b.isLt)
  have ⟨m5, p6⟩ := peel p5 (by decide)
  have ⟨m6, p7⟩ := peel p6 (by decide)
  have q0 : wd % 128 = 61 := (by simpa using m0)
  have q1 : field 5 7 wd = 0 := m1
  have q2 : bits 4 12 wd = h := bits_of m2
  have q3 : field 3 16 wd = 0 := m3
  have q4 : bits 5 19 wd = b := bits_of m4
  have q5 : field 3 24 wd = 4 := m5
  have q6 : field 5 27 wd = 1 := m6
  exact .inr ⟨rfl, lt_of p7, par_of m0, by simp [decodeWord, decodeCluster, q0, q1, q2, q3, q4, q5, q6]⟩
theorem EncodeDecode.bara (h : BitVec 4) (s : Bool) (a : BitVec 3) (b : BitVec 4) : EncodeDecode.Statement (.bara h s a b) := by
  intro hw nb wd hq
  have hv : ((b.toNat < 10 && (s || h == 0) : Bool)) = true := hw
  simp at hv
  obtain ⟨rfl, he⟩ := word_eq (show some (32, Sys2Proof.fill 0x1000003d [(12, h.toNat), (19, boolNat s), (20, a.toNat), (23, b.toNat)]) = some (nb, wd) from hq)
  simp only [Sys2Proof.fill] at he
  have p0 : wd / 2 ^ 0 = 61 + 2 ^ 7 * (0 + 2 ^ 5 * (h.toNat + 2 ^ 4 * (0 + 2 ^ 3 * (boolNat s + 2 ^ 1 * (a.toNat + 2 ^ 3 * (b.toNat + 2 ^ 4 * (2 + 2 ^ 5 * 0))))))) := by omega
  have ⟨m0, p1⟩ := peel p0 (by decide)
  have ⟨m1, p2⟩ := peel p1 (by decide)
  have ⟨m2, p3⟩ := peel p2 (h.isLt)
  have ⟨m3, p4⟩ := peel p3 (by decide)
  have ⟨m4, p5⟩ := peel p4 (boolNat_lt s)
  have ⟨m5, p6⟩ := peel p5 (a.isLt)
  have ⟨m6, p7⟩ := peel p6 (b.isLt)
  have ⟨m7, p8⟩ := peel p7 (by decide)
  have q0 : wd % 128 = 61 := (by simpa using m0)
  have q1 : field 5 7 wd = 0 := m1
  have q2 : bits 4 12 wd = h := bits_of m2
  have q3 : field 3 16 wd = 0 := m3
  have q4 : flag 19 wd = s := flag_of m4
  have q5 : bits 3 20 wd = a := bits_of m5
  have q6 : bits 4 23 wd = b := bits_of m6
  have q7 : field 5 27 wd = 2 := m7
  exact .inr ⟨rfl, lt_of p8, par_of m0, by simp [decodeWord, decodeCluster, q0, q1, q2, q3, q4, q5, q6, q7, hv]⟩
theorem EncodeDecode.barw : EncodeDecode.Statement .barw := by
  intro hw nb wd hq
  obtain ⟨rfl, he⟩ := word_eq (show some (32, Sys2Proof.fill 0x1800003d []) = some (nb, wd) from hq)
  simp only [Sys2Proof.fill] at he
  have p0 : wd / 2 ^ 0 = 61 + 2 ^ 7 * (0 + 2 ^ 20 * (3 + 2 ^ 5 * 0)) := by omega
  have ⟨m0, p1⟩ := peel p0 (by decide)
  have ⟨m1, p2⟩ := peel p1 (by decide)
  have ⟨m2, p3⟩ := peel p2 (by decide)
  have q0 : wd % 128 = 61 := (by simpa using m0)
  have q1 : field 5 27 wd = 3 := m2
  have q2 : field 20 7 wd = 0 := m1
  exact .inr ⟨rfl, lt_of p3, par_of m0, by simp [decodeWord, decodeCluster, q0, q1, q2]⟩
theorem EncodeDecode.bar (h : BitVec 4) (s : Bool) (a : BitVec 3) (b : BitVec 4) : EncodeDecode.Statement (.bar h s a b) := by
  intro hw nb wd hq
  have hv : ((b.toNat < 10 && (s || h == 0) : Bool)) = true := hw
  simp at hv
  obtain ⟨rfl, he⟩ := word_eq (show some (32, Sys2Proof.fill 0x2000003d [(12, h.toNat), (19, boolNat s), (20, a.toNat), (23, b.toNat)]) = some (nb, wd) from hq)
  simp only [Sys2Proof.fill] at he
  have p0 : wd / 2 ^ 0 = 61 + 2 ^ 7 * (0 + 2 ^ 5 * (h.toNat + 2 ^ 4 * (0 + 2 ^ 3 * (boolNat s + 2 ^ 1 * (a.toNat + 2 ^ 3 * (b.toNat + 2 ^ 4 * (4 + 2 ^ 5 * 0))))))) := by omega
  have ⟨m0, p1⟩ := peel p0 (by decide)
  have ⟨m1, p2⟩ := peel p1 (by decide)
  have ⟨m2, p3⟩ := peel p2 (h.isLt)
  have ⟨m3, p4⟩ := peel p3 (by decide)
  have ⟨m4, p5⟩ := peel p4 (boolNat_lt s)
  have ⟨m5, p6⟩ := peel p5 (a.isLt)
  have ⟨m6, p7⟩ := peel p6 (b.isLt)
  have ⟨m7, p8⟩ := peel p7 (by decide)
  have q0 : wd % 128 = 61 := (by simpa using m0)
  have q1 : field 5 7 wd = 0 := m1
  have q2 : bits 4 12 wd = h := bits_of m2
  have q3 : field 3 16 wd = 0 := m3
  have q4 : flag 19 wd = s := flag_of m4
  have q5 : bits 3 20 wd = a := bits_of m5
  have q6 : bits 4 23 wd = b := bits_of m6
  have q7 : field 5 27 wd = 4 := m7
  exact .inr ⟨rfl, lt_of p8, par_of m0, by simp [decodeWord, decodeCluster, q0, q1, q2, q3, q4, q5, q6, q7, hv]⟩
theorem EncodeDecode.scnb (a : BitVec 5) (c : BitVec 2) : EncodeDecode.Statement (.scnb a c) := by
  intro hw nb wd hq
  obtain ⟨rfl, he⟩ := word_eq (show some (32, Sys2Proof.fill 0x3f [(7, a.toNat), (25, c.toNat)]) = some (nb, wd) from hq)
  simp only [Sys2Proof.fill] at he
  have p0 : wd / 2 ^ 0 = 63 + 2 ^ 7 * (a.toNat + 2 ^ 5 * (0 + 2 ^ 13 * (c.toNat + 2 ^ 2 * (0 + 2 ^ 5 * 0)))) := by omega
  have ⟨m0, p1⟩ := peel p0 (by decide)
  have ⟨m1, p2⟩ := peel p1 (a.isLt)
  have ⟨m2, p3⟩ := peel p2 (by decide)
  have ⟨m3, p4⟩ := peel p3 (c.isLt)
  have ⟨m4, p5⟩ := peel p4 (by decide)
  have q0 : wd % 128 = 63 := (by simpa using m0)
  have q1 : bits 5 7 wd = a := bits_of m1
  have q2 : bits 2 25 wd = c := bits_of m3
  have q3 : field 5 27 wd = 0 := m4
  have q4 : field 13 12 wd = 0 := m2
  exact .inr ⟨rfl, lt_of p5, par_of m0, by simp [decodeWord, decodeScanSweep, q0, q1, q2, q3, q4]⟩
theorem EncodeDecode.scnp (s : BitVec 5) (c : BitVec 2) : EncodeDecode.Statement (.scnp s c) := by
  intro hw nb wd hq
  obtain ⟨rfl, he⟩ := word_eq (show some (32, Sys2Proof.fill 0x800003f [(7, s.toNat), (25, c.toNat)]) = some (nb, wd) from hq)
  simp only [Sys2Proof.fill] at he
  have p0 : wd / 2 ^ 0 = 63 + 2 ^ 7 * (s.toNat + 2 ^ 5 * (0 + 2 ^ 13 * (c.toNat + 2 ^ 2 * (1 + 2 ^ 5 * 0)))) := by omega
  have ⟨m0, p1⟩ := peel p0 (by decide)
  have ⟨m1, p2⟩ := peel p1 (s.isLt)
  have ⟨m2, p3⟩ := peel p2 (by decide)
  have ⟨m3, p4⟩ := peel p3 (c.isLt)
  have ⟨m4, p5⟩ := peel p4 (by decide)
  have q0 : wd % 128 = 63 := (by simpa using m0)
  have q1 : bits 5 7 wd = s := bits_of m1
  have q2 : bits 2 25 wd = c := bits_of m3
  have q3 : field 5 27 wd = 1 := m4
  have q4 : field 13 12 wd = 0 := m2
  exact .inr ⟨rfl, lt_of p5, par_of m0, by simp [decodeWord, decodeScanSweep, q0, q1, q2, q3, q4]⟩
theorem EncodeDecode.scng (d : BitVec 5) (c : BitVec 2) : EncodeDecode.Statement (.scng d c) := by
  intro hw nb wd hq
  obtain ⟨rfl, he⟩ := word_eq (show some (32, Sys2Proof.fill 0x1000003f [(7, d.toNat), (25, c.toNat)]) = some (nb, wd) from hq)
  simp only [Sys2Proof.fill] at he
  have p0 : wd / 2 ^ 0 = 63 + 2 ^ 7 * (d.toNat + 2 ^ 5 * (0 + 2 ^ 13 * (c.toNat + 2 ^ 2 * (2 + 2 ^ 5 * 0)))) := by omega
  have ⟨m0, p1⟩ := peel p0 (by decide)
  have ⟨m1, p2⟩ := peel p1 (d.isLt)
  have ⟨m2, p3⟩ := peel p2 (by decide)
  have ⟨m3, p4⟩ := peel p3 (c.isLt)
  have ⟨m4, p5⟩ := peel p4 (by decide)
  have q0 : wd % 128 = 63 := (by simpa using m0)
  have q1 : bits 5 7 wd = d := bits_of m1
  have q2 : bits 2 25 wd = c := bits_of m3
  have q3 : field 5 27 wd = 2 := m4
  have q4 : field 13 12 wd = 0 := m2
  exact .inr ⟨rfl, lt_of p5, par_of m0, by simp [decodeWord, decodeScanSweep, q0, q1, q2, q3, q4]⟩
theorem EncodeDecode.scne (d : BitVec 5) (c : BitVec 2) : EncodeDecode.Statement (.scne d c) := by
  intro hw nb wd hq
  obtain ⟨rfl, he⟩ := word_eq (show some (32, Sys2Proof.fill 0x1800003f [(7, d.toNat), (25, c.toNat)]) = some (nb, wd) from hq)
  simp only [Sys2Proof.fill] at he
  have p0 : wd / 2 ^ 0 = 63 + 2 ^ 7 * (d.toNat + 2 ^ 5 * (0 + 2 ^ 13 * (c.toNat + 2 ^ 2 * (3 + 2 ^ 5 * 0)))) := by omega
  have ⟨m0, p1⟩ := peel p0 (by decide)
  have ⟨m1, p2⟩ := peel p1 (d.isLt)
  have ⟨m2, p3⟩ := peel p2 (by decide)
  have ⟨m3, p4⟩ := peel p3 (c.isLt)
  have ⟨m4, p5⟩ := peel p4 (by decide)
  have q0 : wd % 128 = 63 := (by simpa using m0)
  have q1 : bits 5 7 wd = d := bits_of m1
  have q2 : bits 2 25 wd = c := bits_of m3
  have q3 : field 5 27 wd = 3 := m4
  have q4 : field 13 12 wd = 0 := m2
  exact .inr ⟨rfl, lt_of p5, par_of m0, by simp [decodeWord, decodeScanSweep, q0, q1, q2, q3, q4]⟩
theorem EncodeDecode.scneClose (d : BitVec 5) (c : BitVec 2) : EncodeDecode.Statement (.scneClose d c) := by
  intro hw nb wd hq
  obtain ⟨rfl, he⟩ := word_eq (show some (32, Sys2Proof.fill 0x1900003f [(7, d.toNat), (25, c.toNat)]) = some (nb, wd) from hq)
  simp only [Sys2Proof.fill] at he
  have p0 : wd / 2 ^ 0 = 63 + 2 ^ 7 * (d.toNat + 2 ^ 5 * (4096 + 2 ^ 13 * (c.toNat + 2 ^ 2 * (3 + 2 ^ 5 * 0)))) := by omega
  have ⟨m0, p1⟩ := peel p0 (by decide)
  have ⟨m1, p2⟩ := peel p1 (d.isLt)
  have ⟨m2, p3⟩ := peel p2 (by decide)
  have ⟨m3, p4⟩ := peel p3 (c.isLt)
  have ⟨m4, p5⟩ := peel p4 (by decide)
  have q0 : wd % 128 = 63 := (by simpa using m0)
  have q1 : bits 5 7 wd = d := bits_of m1
  have q2 : bits 2 25 wd = c := bits_of m3
  have q3 : field 5 27 wd = 3 := m4
  have q4 : field 13 12 wd = 4096 := m2
  exact .inr ⟨rfl, lt_of p5, par_of m0, by simp [decodeWord, decodeScanSweep, q0, q1, q2, q3, q4]⟩
theorem EncodeDecode.swcr (d : BitVec 5) (c : BitVec 3) (a : BitVec 5) : EncodeDecode.Statement (.swcr d c a) := by
  intro hw nb wd hq
  obtain ⟨rfl, he⟩ := word_eq (show some (32, Sys2Proof.fill 0x2000003f [(7, d.toNat), (16, c.toNat), (22, a.toNat)]) = some (nb, wd) from hq)
  simp only [Sys2Proof.fill] at he
  have p0 : wd / 2 ^ 0 = 63 + 2 ^ 7 * (d.toNat + 2 ^ 5 * (0 + 2 ^ 4 * (c.toNat + 2 ^ 3 * (0 + 2 ^ 3 * (a.toNat + 2 ^ 5 * (4 + 2 ^ 5 * 0)))))) := by omega
  have ⟨m0, p1⟩ := peel p0 (by decide)
  have ⟨m1, p2⟩ := peel p1 (d.isLt)
  have ⟨m2, p3⟩ := peel p2 (by decide)
  have ⟨m3, p4⟩ := peel p3 (c.isLt)
  have ⟨m4, p5⟩ := peel p4 (by decide)
  have ⟨m5, p6⟩ := peel p5 (a.isLt)
  have ⟨m6, p7⟩ := peel p6 (by decide)
  have q0 : wd % 128 = 63 := (by simpa using m0)
  have q1 : bits 5 7 wd = d := bits_of m1
  have q2 : field 4 12 wd = 0 := m2
  have q3 : bits 3 16 wd = c := bits_of m3
  have q4 : field 3 19 wd = 0 := m4
  have q5 : bits 5 22 wd = a := bits_of m5
  have q6 : field 5 27 wd = 4 := m6
  exact .inr ⟨rfl, lt_of p7, par_of m0, by simp [decodeWord, decodeScanSweep, q0, q1, q2, q3, q4, q5, q6]⟩
theorem EncodeDecode.swadd (d : BitVec 5) (c : BitVec 3) (a : BitVec 5) : EncodeDecode.Statement (.swadd d c a) := by
  intro hw nb wd hq
  obtain ⟨rfl, he⟩ := word_eq (show some (32, Sys2Proof.fill 0x2800003f [(7, d.toNat), (16, c.toNat), (22, a.toNat)]) = some (nb, wd) from hq)
  simp only [Sys2Proof.fill] at he
  have p0 : wd / 2 ^ 0 = 63 + 2 ^ 7 * (d.toNat + 2 ^ 5 * (0 + 2 ^ 4 * (c.toNat + 2 ^ 3 * (0 + 2 ^ 3 * (a.toNat + 2 ^ 5 * (5 + 2 ^ 5 * 0)))))) := by omega
  have ⟨m0, p1⟩ := peel p0 (by decide)
  have ⟨m1, p2⟩ := peel p1 (d.isLt)
  have ⟨m2, p3⟩ := peel p2 (by decide)
  have ⟨m3, p4⟩ := peel p3 (c.isLt)
  have ⟨m4, p5⟩ := peel p4 (by decide)
  have ⟨m5, p6⟩ := peel p5 (a.isLt)
  have ⟨m6, p7⟩ := peel p6 (by decide)
  have q0 : wd % 128 = 63 := (by simpa using m0)
  have q1 : bits 5 7 wd = d := bits_of m1
  have q2 : field 4 12 wd = 0 := m2
  have q3 : bits 3 16 wd = c := bits_of m3
  have q4 : field 3 19 wd = 0 := m4
  have q5 : bits 5 22 wd = a := bits_of m5
  have q6 : field 5 27 wd = 5 := m6
  exact .inr ⟨rfl, lt_of p7, par_of m0, by simp [decodeWord, decodeScanSweep, q0, q1, q2, q3, q4, q5, q6]⟩
theorem EncodeDecode.swdel (a : BitVec 5) : EncodeDecode.Statement (.swdel a) := by
  intro hw nb wd hq
  obtain ⟨rfl, he⟩ := word_eq (show some (32, Sys2Proof.fill 0x3000003f [(22, a.toNat)]) = some (nb, wd) from hq)
  simp only [Sys2Proof.fill] at he
  have p0 : wd / 2 ^ 0 = 63 + 2 ^ 7 * (0 + 2 ^ 15 * (a.toNat + 2 ^ 5 * (6 + 2 ^ 5 * 0))) := by omega
  have ⟨m0, p1⟩ := peel p0 (by decide)
  have ⟨m1, p2⟩ := peel p1 (by decide)
  have ⟨m2, p3⟩ := peel p2 (a.isLt)
  have ⟨m3, p4⟩ := peel p3 (by decide)
  have q0 : wd % 128 = 63 := (by simpa using m0)
  have q1 : bits 5 22 wd = a := bits_of m2
  have q2 : field 5 27 wd = 6 := m3
  have q3 : field 15 7 wd = 0 := m1
  exact .inr ⟨rfl, lt_of p4, par_of m0, by simp [decodeWord, decodeScanSweep, q0, q1, q2, q3]⟩
theorem EncodeDecode.swnxt (d : BitVec 5) (a : BitVec 5) : EncodeDecode.Statement (.swnxt d a) := by
  intro hw nb wd hq
  obtain ⟨rfl, he⟩ := word_eq (show some (32, Sys2Proof.fill 0x3800003f [(7, d.toNat), (22, a.toNat)]) = some (nb, wd) from hq)
  simp only [Sys2Proof.fill] at he
  have p0 : wd / 2 ^ 0 = 63 + 2 ^ 7 * (d.toNat + 2 ^ 5 * (0 + 2 ^ 10 * (a.toNat + 2 ^ 5 * (7 + 2 ^ 5 * 0)))) := by omega
  have ⟨m0, p1⟩ := peel p0 (by decide)
  have ⟨m1, p2⟩ := peel p1 (d.isLt)
  have ⟨m2, p3⟩ := peel p2 (by decide)
  have ⟨m3, p4⟩ := peel p3 (a.isLt)
  have ⟨m4, p5⟩ := peel p4 (by decide)
  have q0 : wd % 128 = 63 := (by simpa using m0)
  have q1 : bits 5 7 wd = d := bits_of m1
  have q2 : field 10 12 wd = 0 := m2
  have q3 : bits 5 22 wd = a := bits_of m3
  have q4 : field 5 27 wd = 7 := m4
  exact .inr ⟨rfl, lt_of p5, par_of m0, by simp [decodeWord, decodeScanSweep, q0, q1, q2, q3, q4]⟩
theorem EncodeDecode.swrpt (b : BitVec 5) (a : BitVec 5) : EncodeDecode.Statement (.swrpt b a) := by
  intro hw nb wd hq
  obtain ⟨rfl, he⟩ := word_eq (show some (32, Sys2Proof.fill 0x4000003f [(7, b.toNat), (22, a.toNat)]) = some (nb, wd) from hq)
  simp only [Sys2Proof.fill] at he
  have p0 : wd / 2 ^ 0 = 63 + 2 ^ 7 * (b.toNat + 2 ^ 5 * (0 + 2 ^ 10 * (a.toNat + 2 ^ 5 * (8 + 2 ^ 5 * 0)))) := by omega
  have ⟨m0, p1⟩ := peel p0 (by decide)
  have ⟨m1, p2⟩ := peel p1 (b.isLt)
  have ⟨m2, p3⟩ := peel p2 (by decide)
  have ⟨m3, p4⟩ := peel p3 (a.isLt)
  have ⟨m4, p5⟩ := peel p4 (by decide)
  have q0 : wd % 128 = 63 := (by simpa using m0)
  have q1 : bits 5 7 wd = b := bits_of m1
  have q2 : field 10 12 wd = 0 := m2
  have q3 : bits 5 22 wd = a := bits_of m3
  have q4 : field 5 27 wd = 8 := m4
  exact .inr ⟨rfl, lt_of p5, par_of m0, by simp [decodeWord, decodeScanSweep, q0, q1, q2, q3, q4]⟩
theorem EncodeDecode.swset (b : BitVec 5) (c : BitVec 3) (a : BitVec 5) : EncodeDecode.Statement (.swset b c a) := by
  intro hw nb wd hq
  obtain ⟨rfl, he⟩ := word_eq (show some (32, Sys2Proof.fill 0x4800003f [(7, b.toNat), (16, c.toNat), (22, a.toNat)]) = some (nb, wd) from hq)
  simp only [Sys2Proof.fill] at he
  have p0 : wd / 2 ^ 0 = 63 + 2 ^ 7 * (b.toNat + 2 ^ 5 * (0 + 2 ^ 4 * (c.toNat + 2 ^ 3 * (0 + 2 ^ 3 * (a.toNat + 2 ^ 5 * (9 + 2 ^ 5 * 0)))))) := by omega
  have ⟨m0, p1⟩ := peel p0 (by decide)
  have ⟨m1, p2⟩ := peel p1 (b.isLt)
  have ⟨m2, p3⟩ := peel p2 (by decide)
  have ⟨m3, p4⟩ := peel p3 (c.isLt)
  have ⟨m4, p5⟩ := peel p4 (by decide)
  have ⟨m5, p6⟩ := peel p5 (a.isLt)
  have ⟨m6, p7⟩ := peel p6 (by decide)
  have p0 := he
  have q0 : wd % 128 = 63 := (by simpa using m0)
  have q1 : bits 5 7 wd = b := bits_of m1
  have q2 : field 9 7 wd = b.toNat := by have := b.isLt; have := c.isLt; have := a.isLt; simp only [field]; omega
  have q3 : field 4 12 wd = 0 := m2
  have q4 : bits 3 16 wd = c := bits_of m3
  have q5 : field 3 19 wd = 0 := m4
  have q6 : bits 5 22 wd = a := bits_of m5
  have q7 : field 5 27 wd = 9 := m6
  exact .inr ⟨rfl, lt_of p7, par_of m0, by simp [decodeWord, decodeScanSweep, q0, q1, q2, q3, q4, q5, q6, q7]⟩
theorem EncodeDecode.swsetNb (c : BitVec 3) (a : BitVec 5) : EncodeDecode.Statement (.swsetNb c a) := by
  intro hw nb wd hq
  obtain ⟨rfl, he⟩ := word_eq (show some (32, Sys2Proof.fill 0x4808003f [(16, c.toNat), (22, a.toNat)]) = some (nb, wd) from hq)
  simp only [Sys2Proof.fill] at he
  have p0 : wd / 2 ^ 0 = 63 + 2 ^ 7 * (0 + 2 ^ 9 * (c.toNat + 2 ^ 3 * (1 + 2 ^ 3 * (a.toNat + 2 ^ 5 * (9 + 2 ^ 5 * 0))))) := by omega
  have ⟨m0, p1⟩ := peel p0 (by decide)
  have ⟨m1, p2⟩ := peel p1 (by decide)
  have ⟨m2, p3⟩ := peel p2 (c.isLt)
  have ⟨m3, p4⟩ := peel p3 (by decide)
  have ⟨m4, p5⟩ := peel p4 (a.isLt)
  have ⟨m5, p6⟩ := peel p5 (by decide)
  have p0 := he
  have q0 : wd % 128 = 63 := (by simpa using m0)
  have q1 : field 9 7 wd = 0 := m1
  have q2 : field 4 12 wd = 0 := by have := c.isLt; have := a.isLt; simp only [field]; omega
  have q3 : bits 3 16 wd = c := bits_of m2
  have q4 : field 3 19 wd = 1 := m3
  have q5 : bits 5 22 wd = a := bits_of m4
  have q6 : field 5 27 wd = 9 := m5
  exact .inr ⟨rfl, lt_of p6, par_of m0, by simp [decodeWord, decodeScanSweep, q0, q1, q2, q3, q4, q5, q6]⟩
theorem EncodeDecode.swnb (d : BitVec 5) (i : Bool) (k : BitVec 2) (a : BitVec 5) : EncodeDecode.Statement (.swnb d i k a) := by
  intro hw nb wd hq
  obtain ⟨rfl, he⟩ := word_eq (show some (32, Sys2Proof.fill 0x5000003f [(7, d.toNat), (19, boolNat i), (20, k.toNat), (22, a.toNat)]) = some (nb, wd) from hq)
  simp only [Sys2Proof.fill] at he
  have p0 : wd / 2 ^ 0 = 63 + 2 ^ 7 * (d.toNat + 2 ^ 5 * (0 + 2 ^ 7 * (boolNat i + 2 ^ 1 * (k.toNat + 2 ^ 2 * (a.toNat + 2 ^ 5 * (10 + 2 ^ 5 * 0)))))) := by omega
  have ⟨m0, p1⟩ := peel p0 (by decide)
  have ⟨m1, p2⟩ := peel p1 (d.isLt)
  have ⟨m2, p3⟩ := peel p2 (by decide)
  have ⟨m3, p4⟩ := peel p3 (boolNat_lt i)
  have ⟨m4, p5⟩ := peel p4 (k.isLt)
  have ⟨m5, p6⟩ := peel p5 (a.isLt)
  have ⟨m6, p7⟩ := peel p6 (by decide)
  have q0 : wd % 128 = 63 := (by simpa using m0)
  have q1 : bits 5 7 wd = d := bits_of m1
  have q2 : field 7 12 wd = 0 := m2
  have q3 : flag 19 wd = i := flag_of m3
  have q4 : bits 2 20 wd = k := bits_of m4
  have q5 : bits 5 22 wd = a := bits_of m5
  have q6 : field 5 27 wd = 10 := m6
  exact .inr ⟨rfl, lt_of p7, par_of m0, by simp [decodeWord, decodeScanSweep, q0, q1, q2, q3, q4, q5, q6]⟩
theorem EncodeDecode.swadv (d : BitVec 5) (a : BitVec 5) : EncodeDecode.Statement (.swadv d a) := by
  intro hw nb wd hq
  obtain ⟨rfl, he⟩ := word_eq (show some (32, Sys2Proof.fill 0x5800003f [(7, d.toNat), (22, a.toNat)]) = some (nb, wd) from hq)
  simp only [Sys2Proof.fill] at he
  have p0 : wd / 2 ^ 0 = 63 + 2 ^ 7 * (d.toNat + 2 ^ 5 * (0 + 2 ^ 10 * (a.toNat + 2 ^ 5 * (11 + 2 ^ 5 * 0)))) := by omega
  have ⟨m0, p1⟩ := peel p0 (by decide)
  have ⟨m1, p2⟩ := peel p1 (d.isLt)
  have ⟨m2, p3⟩ := peel p2 (by decide)
  have ⟨m3, p4⟩ := peel p3 (a.isLt)
  have ⟨m4, p5⟩ := peel p4 (by decide)
  have q0 : wd % 128 = 63 := (by simpa using m0)
  have q1 : bits 5 7 wd = d := bits_of m1
  have q2 : field 10 12 wd = 0 := m2
  have q3 : bits 5 22 wd = a := bits_of m3
  have q4 : field 5 27 wd = 11 := m4
  exact .inr ⟨rfl, lt_of p5, par_of m0, by simp [decodeWord, decodeScanSweep, q0, q1, q2, q3, q4]⟩
theorem EncodeDecode.cswdRead (d : BitVec 5) : EncodeDecode.Statement (.cswdRead d) := fun _ _ _ h => nomatch (show none = some _ from h)
theorem EncodeDecode.cswdWrite (s : BitVec 5) : EncodeDecode.Statement (.cswdWrite s) := fun _ _ _ h => nomatch (show none = some _ from h)
theorem EncodeDecode.controlSpaceWrite (die : Nat) (off : Nat) (acc : BarAccess) : EncodeDecode.Statement (.controlSpaceWrite die off acc) := fun _ _ _ h => nomatch (show none = some _ from h)
theorem EncodeDecode.elstatClear (die : Nat) (v : Word) : EncodeDecode.Statement (.elstatClear die v) := fun _ _ _ h => nomatch (show none = some _ from h)
theorem EncodeDecode.winreqGo (v : Word) : EncodeDecode.Statement (.winreqGo v) := fun _ _ _ h => nomatch (show none = some _ from h)
theorem EncodeDecode.winfree (v : Word) : EncodeDecode.Statement (.winfree v) := fun _ _ _ h => nomatch (show none = some _ from h)
theorem EncodeDecode.peerEpochWrite (dev : Nat) (v : Word) : EncodeDecode.Statement (.peerEpochWrite dev v) := fun _ _ _ h => nomatch (show none = some _ from h)
theorem EncodeDecode.shareTableWrite (die : Nat) (off : Nat) (v : Word) : EncodeDecode.Statement (.shareTableWrite die off v) := fun _ _ _ h => nomatch (show none = some _ from h)
theorem EncodeDecode.queueTableWrite (die : Nat) (off : Nat) (v : Word) : EncodeDecode.Statement (.queueTableWrite die off v) := fun _ _ _ h => nomatch (show none = some _ from h)
theorem EncodeDecode.translationInvalidate (asid : BitVec 14) : EncodeDecode.Statement (.translationInvalidate asid) := fun _ _ _ h => nomatch (show none = some _ from h)
theorem EncodeDecode.seize : EncodeDecode.Statement (.seize) := fun _ _ _ h => nomatch (show none = some _ from h)
theorem EncodeDecode.resumeFromImage : EncodeDecode.Statement (.resumeFromImage) := fun _ _ _ h => nomatch (show none = some _ from h)
theorem EncodeDecode.thaw : EncodeDecode.Statement (.thaw) := fun _ _ _ h => nomatch (show none = some _ from h)
theorem EncodeDecode.quiesceComplete : EncodeDecode.Statement (.quiesceComplete) := fun _ _ _ h => nomatch (show none = some _ from h)
theorem EncodeDecode.streamComplete : EncodeDecode.Statement (.streamComplete) := fun _ _ _ h => nomatch (show none = some _ from h)
theorem EncodeDecode.streamPortsFailed : EncodeDecode.Statement (.streamPortsFailed) := fun _ _ _ h => nomatch (show none = some _ from h)
theorem EncodeDecode.restoreComplete : EncodeDecode.Statement (.restoreComplete) := fun _ _ _ h => nomatch (show none = some _ from h)
theorem EncodeDecode.restoreFailure : EncodeDecode.Statement (.restoreFailure) := fun _ _ _ h => nomatch (show none = some _ from h)
theorem EncodeDecode.reset : EncodeDecode.Statement (.reset) := fun _ _ _ h => nomatch (show none = some _ from h)
theorem EncodeDecode.configBlockLoad (blk : ConfigBlock) (signed : Bool) : EncodeDecode.Statement (.configBlockLoad blk signed) := fun _ _ _ h => nomatch (show none = some _ from h)
theorem EncodeDecode.launch (q : Nat) (idx : Nat) : EncodeDecode.Statement (.launch q idx) := fun _ _ _ h => nomatch (show none = some _ from h)
theorem EncodeDecode.launchComplete (l : Nat) : EncodeDecode.Statement (.launchComplete l) := fun _ _ _ h => nomatch (show none = some _ from h)
theorem EncodeDecode.signalPacket (q : Nat) (idx : Nat) : EncodeDecode.Statement (.signalPacket q idx) := fun _ _ _ h => nomatch (show none = some _ from h)
theorem EncodeDecode.spawnPacket (q : Nat) (idx : Nat) : EncodeDecode.Statement (.spawnPacket q idx) := fun _ _ _ h => nomatch (show none = some _ from h)
theorem EncodeDecode.capabilityMessageConsume (q : Nat) (idx : Nat) : EncodeDecode.Statement (.capabilityMessageConsume q idx) := fun _ _ _ h => nomatch (show none = some _ from h)
theorem EncodeDecode.hostConsume (q : Nat) (idx : Nat) : EncodeDecode.Statement (.hostConsume q idx) := fun _ _ _ h => nomatch (show none = some _ from h)
theorem EncodeDecode.queueConsume (q : Nat) : EncodeDecode.Statement (.queueConsume q) := fun _ _ _ h => nomatch (show none = some _ from h)
theorem EncodeDecode.copyPacketConsume (q : Nat) (idx : Nat) : EncodeDecode.Statement (.copyPacketConsume q idx) := fun _ _ _ h => nomatch (show none = some _ from h)
theorem EncodeDecode.qappEntryWrite (tile : Nat) (op : Nat) : EncodeDecode.Statement (.qappEntryWrite tile op) := fun _ _ _ h => nomatch (show none = some _ from h)
theorem EncodeDecode.timerTick (die : Nat) : EncodeDecode.Statement (.timerTick die) := fun _ _ _ h => nomatch (show none = some _ from h)
theorem EncodeDecode.ptpStep (now : Nat) : EncodeDecode.Statement (.ptpStep now) := fun _ _ _ h => nomatch (show none = some _ from h)
theorem EncodeDecode.ptpLockLost (offset : Word) : EncodeDecode.Statement (.ptpLockLost offset) := fun _ _ _ h => nomatch (show none = some _ from h)
theorem EncodeDecode.rotationBoundary (tile : Nat) : EncodeDecode.Statement (.rotationBoundary tile) := fun _ _ _ h => nomatch (show none = some _ from h)
theorem EncodeDecode.shareWindowStart (tile : Nat) : EncodeDecode.Statement (.shareWindowStart tile) := fun _ _ _ h => nomatch (show none = some _ from h)
theorem EncodeDecode.rampInterval (tile : Nat) : EncodeDecode.Statement (.rampInterval tile) := fun _ _ _ h => nomatch (show none = some _ from h)
theorem EncodeDecode.budg (tid : BitVec 32) : EncodeDecode.Statement (.budg tid) := fun _ _ _ h => nomatch (show none = some _ from h)
theorem EncodeDecode.wdog (tid : BitVec 32) : EncodeDecode.Statement (.wdog tid) := fun _ _ _ h => nomatch (show none = some _ from h)
theorem EncodeDecode.slotChoice (tile : Nat) (slot : Nat) : EncodeDecode.Statement (.slotChoice tile slot) := fun _ _ _ h => nomatch (show none = some _ from h)
theorem EncodeDecode.dequePlaceFreed (tile : Nat) : EncodeDecode.Statement (.dequePlaceFreed tile) := fun _ _ _ h => nomatch (show none = some _ from h)
theorem EncodeDecode.stealRound (tile : Nat) (victims : List Nat) : EncodeDecode.Statement (.stealRound tile victims) := fun _ _ _ h => nomatch (show none = some _ from h)
theorem EncodeDecode.stealRequest (thief : Nat) (victim : Nat) (far : Bool) : EncodeDecode.Statement (.stealRequest thief victim far) := fun _ _ _ h => nomatch (show none = some _ from h)
theorem EncodeDecode.stealOffer (thief : Nat) (victim : Nat) (tid : BitVec 32) : EncodeDecode.Statement (.stealOffer thief victim tid) := fun _ _ _ h => nomatch (show none = some _ from h)
theorem EncodeDecode.donationArrival (donor : BitVec 32) (donee : BitVec 32) (prio : Nat) (hops : Nat) : EncodeDecode.Statement (.donationArrival donor donee prio hops) := fun _ _ _ h => nomatch (show none = some _ from h)
theorem EncodeDecode.waitConditionMet (tid : BitVec 32) (no : Nat) : EncodeDecode.Statement (.waitConditionMet tid no) := fun _ _ _ h => nomatch (show none = some _ from h)
theorem EncodeDecode.taskRequeue (tid : BitVec 32) : EncodeDecode.Statement (.taskRequeue tid) := fun _ _ _ h => nomatch (show none = some _ from h)
theorem EncodeDecode.userEvent (tid : BitVec 32) : EncodeDecode.Statement (.userEvent tid) := fun _ _ _ h => nomatch (show none = some _ from h)
theorem EncodeDecode.loadResponse (tid : BitVec 32) (no : Nat) : EncodeDecode.Statement (.loadResponse tid no) := fun _ _ _ h => nomatch (show none = some _ from h)
theorem EncodeDecode.homePerform (id : Nat) : EncodeDecode.Statement (.homePerform id) := fun _ _ _ h => nomatch (show none = some _ from h)
theorem EncodeDecode.storeBufferDrain (tile : Nat) (idx : Nat) : EncodeDecode.Statement (.storeBufferDrain tile idx) := fun _ _ _ h => nomatch (show none = some _ from h)
theorem EncodeDecode.walkStart (die : Nat) : EncodeDecode.Statement (.walkStart die) := fun _ _ _ h => nomatch (show none = some _ from h)
theorem EncodeDecode.walkComplete (die : Nat) (idx : Nat) : EncodeDecode.Statement (.walkComplete die idx) := fun _ _ _ h => nomatch (show none = some _ from h)
theorem EncodeDecode.matrixOpStart (tile : Nat) : EncodeDecode.Statement (.matrixOpStart tile) := fun _ _ _ h => nomatch (show none = some _ from h)
theorem EncodeDecode.matrixOpComplete (tile : Nat) (upsets : List Upset) : EncodeDecode.Statement (.matrixOpComplete tile upsets) := fun _ _ _ h => nomatch (show none = some _ from h)
theorem EncodeDecode.oldJoin (tile : Nat) (op : Nat) (err : Option LegError) : EncodeDecode.Statement (.oldJoin tile op err) := fun _ _ _ h => nomatch (show none = some _ from h)
theorem EncodeDecode.transferJoin (tile : Nat) (op : Nat) : EncodeDecode.Statement (.transferJoin tile op) := fun _ _ _ h => nomatch (show none = some _ from h)
theorem EncodeDecode.engineLegError (tile : Nat) (op : Nat) (leg : Nat) (done : Nat) (err : LegError) : EncodeDecode.Statement (.engineLegError tile op leg done err) := fun _ _ _ h => nomatch (show none = some _ from h)
theorem EncodeDecode.scanUnitLeg (tile : Nat) (op : Nat) (channel : Nat) : EncodeDecode.Statement (.scanUnitLeg tile op channel) := fun _ _ _ h => nomatch (show none = some _ from h)
theorem EncodeDecode.csendDelivery (id : Nat) : EncodeDecode.Statement (.csendDelivery id) := fun _ _ _ h => nomatch (show none = some _ from h)
theorem EncodeDecode.moveBytesLanded (id : Nat) : EncodeDecode.Statement (.moveBytesLanded id) := fun _ _ _ h => nomatch (show none = some _ from h)
theorem EncodeDecode.bounceEnqueue (tid : BitVec 32) : EncodeDecode.Statement (.bounceEnqueue tid) := fun _ _ _ h => nomatch (show none = some _ from h)
theorem EncodeDecode.tileAsidClear (tile : Nat) (asid : BitVec 14) : EncodeDecode.Statement (.tileAsidClear tile asid) := fun _ _ _ h => nomatch (show none = some _ from h)
theorem EncodeDecode.channelWordArrival (tid : BitVec 32) (dir : Dir) : EncodeDecode.Statement (.channelWordArrival tid dir) := fun _ _ _ h => nomatch (show none = some _ from h)
theorem EncodeDecode.channelCreditReturn (tid : BitVec 32) (dir : Dir) : EncodeDecode.Statement (.channelCreditReturn tid dir) := fun _ _ _ h => nomatch (show none = some _ from h)
theorem EncodeDecode.neighbourExitedFlag (tid : BitVec 32) (dir : Dir) : EncodeDecode.Statement (.neighbourExitedFlag tid dir) := fun _ _ _ h => nomatch (show none = some _ from h)
theorem EncodeDecode.haloReceive (tile : Nat) (op : Nat) : EncodeDecode.Statement (.haloReceive tile op) := fun _ _ _ h => nomatch (show none = some _ from h)
theorem EncodeDecode.haloReply (tile : Nat) (op : Nat) : EncodeDecode.Statement (.haloReply tile op) := fun _ _ _ h => nomatch (show none = some _ from h)
theorem EncodeDecode.haloDepositJoin (tile : Nat) (op : Nat) : EncodeDecode.Statement (.haloDepositJoin tile op) := fun _ _ _ h => nomatch (show none = some _ from h)
theorem EncodeDecode.barrierRelease (l : Nat) (g : Subgroup) : EncodeDecode.Statement (.barrierRelease l g) := fun _ _ _ h => nomatch (show none = some _ from h)
theorem EncodeDecode.scanCarryReady (tid : BitVec 32) (no : Nat) : EncodeDecode.Statement (.scanCarryReady tid no) := fun _ _ _ h => nomatch (show none = some _ from h)
theorem EncodeDecode.epochClose (tid : BitVec 32) (ctx : Nat) (epoch : Nat) : EncodeDecode.Statement (.epochClose tid ctx epoch) := fun _ _ _ h => nomatch (show none = some _ from h)
theorem EncodeDecode.leavingMark (tid : BitVec 32) (ctx : Nat) : EncodeDecode.Statement (.leavingMark tid ctx) := fun _ _ _ h => nomatch (show none = some _ from h)
theorem EncodeDecode.sweepRelease (die : Nat) (cal : Nat) : EncodeDecode.Statement (.sweepRelease die cal) := fun _ _ _ h => nomatch (show none = some _ from h)
theorem EncodeDecode.hbmRecalibration (die : Nat) (channel : Nat) : EncodeDecode.Statement (.hbmRecalibration die channel) := fun _ _ _ h => nomatch (show none = some _ from h)
theorem EncodeDecode.alertBackoff (die : Nat) (channel : Nat) (bank : Nat) : EncodeDecode.Statement (.alertBackoff die channel bank) := fun _ _ _ h => nomatch (show none = some _ from h)
theorem EncodeDecode.powerMeasurement (power : Nat) (draw : List Nat) (restore : Nat) : EncodeDecode.Statement (.powerMeasurement power draw restore) := fun _ _ _ h => nomatch (show none = some _ from h)
theorem EncodeDecode.thermalReading (die : Nat) (celsius : Nat) : EncodeDecode.Statement (.thermalReading die celsius) := fun _ _ _ h => nomatch (show none = some _ from h)
theorem EncodeDecode.clockStepChange (die : Nat) (step : Nat) : EncodeDecode.Statement (.clockStepChange die step) := fun _ _ _ h => nomatch (show none = some _ from h)
theorem EncodeDecode.ageingMonitorRead (read : MonitorRead) : EncodeDecode.Statement (.ageingMonitorRead read) := fun _ _ _ h => nomatch (show none = some _ from h)
theorem EncodeDecode.meshFlitCrcError (die : Nat) (link : Nat) : EncodeDecode.Statement (.meshFlitCrcError die link) := fun _ _ _ h => nomatch (show none = some _ from h)
theorem EncodeDecode.torusRestitch (l : Nat) : EncodeDecode.Statement (.torusRestitch l) := fun _ _ _ h => nomatch (show none = some _ from h)
theorem EncodeDecode.replay (l : Nat) : EncodeDecode.Statement (.replay l) := fun _ _ _ h => nomatch (show none = some _ from h)
theorem EncodeDecode.portRetrain (port : Nat) (lanes : Nat) : EncodeDecode.Statement (.portRetrain port lanes) := fun _ _ _ h => nomatch (show none = some _ from h)
theorem EncodeDecode.hostHntWrite (port : Nat) (size : Nat) (p : Packet) : EncodeDecode.Statement (.hostHntWrite port size p) := fun _ _ _ h => nomatch (show none = some _ from h)
theorem EncodeDecode.hpkstRead (port : Nat) : EncodeDecode.Statement (.hpkstRead port) := fun _ _ _ h => nomatch (show none = some _ from h)
theorem EncodeDecode.hostTicketClaim (op : HostAtomic) : EncodeDecode.Statement (.hostTicketClaim op) := fun _ _ _ h => nomatch (show none = some _ from h)
theorem EncodeDecode.hostRingWrite (q : Nat) (idx : Nat) (entry : List Word) : EncodeDecode.Statement (.hostRingWrite q idx entry) := fun _ _ _ h => nomatch (show none = some _ from h)
theorem EncodeDecode.hostWindowAccess (line : Nat) (acc : WindowAccess) : EncodeDecode.Statement (.hostWindowAccess line acc) := fun _ _ _ h => nomatch (show none = some _ from h)
theorem EncodeDecode.flushPacket (port : Nat) : EncodeDecode.Statement (.flushPacket port) := fun _ _ _ h => nomatch (show none = some _ from h)
theorem EncodeDecode.write (p : Packet) : EncodeDecode.Statement (.write p) := fun _ _ _ h => nomatch (show none = some _ from h)
theorem EncodeDecode.read (p : Packet) : EncodeDecode.Statement (.read p) := fun _ _ _ h => nomatch (show none = some _ from h)
theorem EncodeDecode.rdresp (p : Packet) : EncodeDecode.Statement (.rdresp p) := fun _ _ _ h => nomatch (show none = some _ from h)
theorem EncodeDecode.atomic (p : Packet) : EncodeDecode.Statement (.atomic p) := fun _ _ _ h => nomatch (show none = some _ from h)
theorem EncodeDecode.atresp (p : Packet) : EncodeDecode.Statement (.atresp p) := fun _ _ _ h => nomatch (show none = some _ from h)
theorem EncodeDecode.capxfer (p : Packet) : EncodeDecode.Statement (.capxfer p) := fun _ _ _ h => nomatch (show none = some _ from h)
theorem EncodeDecode.ack (p : Packet) : EncodeDecode.Statement (.ack p) := fun _ _ _ h => nomatch (show none = some _ from h)
theorem EncodeDecode.nak (p : Packet) : EncodeDecode.Statement (.nak p) := fun _ _ _ h => nomatch (show none = some _ from h)
theorem EncodeDecode.revoke (p : Packet) : EncodeDecode.Statement (.revoke p) := fun _ _ _ h => nomatch (show none = some _ from h)
theorem EncodeDecode.wrenq (p : Packet) : EncodeDecode.Statement (.wrenq p) := fun _ _ _ h => nomatch (show none = some _ from h)
theorem EncodeDecode.redblk (port : Nat) (p : Packet) : EncodeDecode.Statement (.redblk port p) := fun _ _ _ h => nomatch (show none = some _ from h)
theorem EncodeDecode.resync (p : Packet) : EncodeDecode.Statement (.resync p) := fun _ _ _ h => nomatch (show none = some _ from h)
theorem EncodeDecode.frz (p : Packet) : EncodeDecode.Statement (.frz p) := fun _ _ _ h => nomatch (show none = some _ from h)
theorem EncodeDecode.hntAckTimer (dev : Nat) : EncodeDecode.Statement (.hntAckTimer dev) := fun _ _ _ h => nomatch (show none = some _ from h)
theorem EncodeDecode.hntRetransmit (dev : Nat) : EncodeDecode.Statement (.hntRetransmit dev) := fun _ _ _ h => nomatch (show none = some _ from h)
theorem EncodeDecode.hntBeyondRecovery (dev : Nat) : EncodeDecode.Statement (.hntBeyondRecovery dev) := fun _ _ _ h => nomatch (show none = some _ from h)
theorem EncodeDecode.getVersion (port : Nat) : EncodeDecode.Statement (.getVersion port) := fun _ _ _ h => nomatch (show none = some _ from h)
theorem EncodeDecode.getCapabilities (port : Nat) : EncodeDecode.Statement (.getCapabilities port) := fun _ _ _ h => nomatch (show none = some _ from h)
theorem EncodeDecode.negotiateAlgorithms (port : Nat) : EncodeDecode.Statement (.negotiateAlgorithms port) := fun _ _ _ h => nomatch (show none = some _ from h)
theorem EncodeDecode.getCertificate (port : Nat) : EncodeDecode.Statement (.getCertificate port) := fun _ _ _ h => nomatch (show none = some _ from h)
theorem EncodeDecode.challenge (port : Nat) (nonce : BitVec 256) : EncodeDecode.Statement (.challenge port nonce) := fun _ _ _ h => nomatch (show none = some _ from h)
theorem EncodeDecode.getMeasurements (port : Nat) (nonce : BitVec 256) : EncodeDecode.Statement (.getMeasurements port nonce) := fun _ _ _ h => nomatch (show none = some _ from h)
theorem EncodeDecode.portFailure (port : Nat) : EncodeDecode.Statement (.portFailure port) := fun _ _ _ h => nomatch (show none = some _ from h)
theorem EncodeDecode.queueViewCreate (q : Nat) (asid : BitVec 14) : EncodeDecode.Statement (.queueViewCreate q asid) := fun _ _ _ h => nomatch (show none = some _ from h)
theorem EncodeDecode.sinkCreate (asid : BitVec 14) (dev : Nat) (port : Nat) (len : Nat) : EncodeDecode.Statement (.sinkCreate asid dev port len) := fun _ _ _ h => nomatch (show none = some _ from h)

end Sys2Proof.Laws
end

