-- ==== Sys2Proof/Laws/State.lean ====
section
/-!
SUPPORT. Every field of the machine after each of the six updates of its parts: one lemma per field and update.
-/
namespace Sys2Proof.Machine

open Sys2Proof

@[simp] theorem State.setHart_hart (s : State) (h : Hart) : (s.setHart h).hart = h := rfl
@[simp] theorem State.setHart_task (s : State) (h : Hart) : (s.setHart h).task = s.task := rfl
@[simp] theorem State.setHart_tile (s : State) (h : Hart) : (s.setHart h).tile = s.tile := rfl
@[simp] theorem State.setHart_harts (s : State) (h : Hart) : (s.setHart h).harts = s.harts := rfl
@[simp] theorem State.setHart_tasks (s : State) (h : Hart) : (s.setHart h).tasks = s.tasks := rfl
@[simp] theorem State.setHart_tiles (s : State) (h : Hart) : (s.setHart h).tiles = s.tiles := rfl
@[simp] theorem State.setHart_clusters (s : State) (h : Hart) : (s.setHart h).clusters = s.clusters := rfl
@[simp] theorem State.setHart_dies (s : State) (h : Hart) : (s.setHart h).dies = s.dies := rfl
@[simp] theorem State.setHart_quire (s : State) (h : Hart) : (s.setHart h).quire = s.quire := rfl
@[simp] theorem State.setHart_mem (s : State) (h : Hart) : (s.setHart h).mem = s.mem := rfl
@[simp] theorem State.setHart_ue (s : State) (h : Hart) : (s.setHart h).ue = s.ue := rfl
@[simp] theorem State.setHart_ce (s : State) (h : Hart) : (s.setHart h).ce = s.ce := rfl
@[simp] theorem State.setHart_quireCE (s : State) (h : Hart) : (s.setHart h).quireCE = s.quireCE := rfl
@[simp] theorem State.setHart_quireUE (s : State) (h : Hart) : (s.setHart h).quireUE = s.quireUE := rfl
@[simp] theorem State.setHart_quireBad (s : State) (h : Hart) : (s.setHart h).quireBad = s.quireBad := rfl
@[simp] theorem State.setHart_tick (s : State) (h : Hart) : (s.setHart h).tick = s.tick := rfl
@[simp] theorem State.setHart_power (s : State) (h : Hart) : (s.setHart h).power = s.power := rfl
@[simp] theorem State.setHart_ageingAt (s : State) (h : Hart) : (s.setHart h).ageingAt = s.ageingAt := rfl
@[simp] theorem State.setHart_pages (s : State) (h : Hart) : (s.setHart h).pages = s.pages := rfl
@[simp] theorem State.setHart_groupModes (s : State) (h : Hart) : (s.setHart h).groupModes = s.groupModes := rfl
@[simp] theorem State.setHart_launches (s : State) (h : Hart) : (s.setHart h).launches = s.launches := rfl
@[simp] theorem State.setHart_ptp (s : State) (h : Hart) : (s.setHart h).ptp = s.ptp := rfl
@[simp] theorem State.setHart_ptpLocked (s : State) (h : Hart) : (s.setHart h).ptpLocked = s.ptpLocked := rfl
@[simp] theorem State.setHart_clk (s : State) (h : Hart) : (s.setHart h).clk = s.clk := rfl
@[simp] theorem State.setHart_cursor (s : State) (h : Hart) : (s.setHart h).cursor = s.cursor := rfl
@[simp] theorem State.setHart_agenda (s : State) (h : Hart) : (s.setHart h).agenda = s.agenda := rfl
@[simp] theorem State.setHart_free (s : State) (h : Hart) : (s.setHart h).free = s.free := rfl
@[simp] theorem State.setHart_asids (s : State) (h : Hart) : (s.setHart h).asids = s.asids := rfl
@[simp] theorem State.setHart_queues (s : State) (h : Hart) : (s.setHart h).queues = s.queues := rfl
@[simp] theorem State.setHart_pcap (s : State) (h : Hart) : (s.setHart h).pcap = s.pcap := rfl
@[simp] theorem State.setHart_hntcfg (s : State) (h : Hart) : (s.setHart h).hntcfg = s.hntcfg := rfl
@[simp] theorem State.setHart_peers (s : State) (h : Hart) : (s.setHart h).peers = s.peers := rfl
@[simp] theorem State.setHart_winres (s : State) (h : Hart) : (s.setHart h).winres = s.winres := rfl
@[simp] theorem State.setHart_winHeld (s : State) (h : Hart) : (s.setHart h).winHeld = s.winHeld := rfl
@[simp] theorem State.setHart_winDirty (s : State) (h : Hart) : (s.setHart h).winDirty = s.winDirty := rfl
@[simp] theorem State.setHart_winSnooped (s : State) (h : Hart) : (s.setHart h).winSnooped = s.winSnooped := rfl
@[simp] theorem State.setHart_hostWrites (s : State) (h : Hart) : (s.setHart h).hostWrites = s.hostWrites := rfl
@[simp] theorem State.setHart_ringMsgs (s : State) (h : Hart) : (s.setHart h).ringMsgs = s.ringMsgs := rfl
@[simp] theorem State.setHart_transits (s : State) (h : Hart) : (s.setHart h).transits = s.transits := rfl
@[simp] theorem State.setHart_nextId (s : State) (h : Hart) : (s.setHart h).nextId = s.nextId := rfl
@[simp] theorem State.setHart_links (s : State) (h : Hart) : (s.setHart h).links = s.links := rfl
@[simp] theorem State.setHart_wire (s : State) (h : Hart) : (s.setHart h).wire = s.wire := rfl
@[simp] theorem State.setHart_lanes (s : State) (h : Hart) : (s.setHart h).lanes = s.lanes := rfl
@[simp] theorem State.setHart_portDown (s : State) (h : Hart) : (s.setHart h).portDown = s.portDown := rfl
@[simp] theorem State.setHart_flushWait (s : State) (h : Hart) : (s.setHart h).flushWait = s.flushWait := rfl
@[simp] theorem State.setHart_hpkstFailed (s : State) (h : Hart) : (s.setHart h).hpkstFailed = s.hpkstFailed := rfl
@[simp] theorem State.setHart_hpkstLast (s : State) (h : Hart) : (s.setHart h).hpkstLast = s.hpkstLast := rfl
@[simp] theorem State.setHart_wrenqs (s : State) (h : Hart) : (s.setHart h).wrenqs = s.wrenqs := rfl
@[simp] theorem State.setHart_hostPackets (s : State) (h : Hart) : (s.setHart h).hostPackets = s.hostPackets := rfl
@[simp] theorem State.setHart_seize (s : State) (h : Hart) : (s.setHart h).seize = s.seize := rfl
@[simp] theorem State.setHart_config (s : State) (h : Hart) : (s.setHart h).config = s.config := rfl
@[simp] theorem State.setHart_configGood (s : State) (h : Hart) : (s.setHart h).configGood = s.configGood := rfl
@[simp] theorem State.setHart_calmTicks (s : State) (h : Hart) : (s.setHart h).calmTicks = s.calmTicks := rfl
@[simp] theorem State.setHart_measure3 (s : State) (h : Hart) : (s.setHart h).measure3 = s.measure3 := rfl
@[simp] theorem State.setHart_mailbox (s : State) (h : Hart) : (s.setHart h).mailbox = s.mailbox := rfl
@[simp] theorem State.setHart_images (s : State) (h : Hart) : (s.setHart h).images = s.images := rfl

@[simp] theorem State.setTask_hart (s : State) (t : Task) : (s.setTask t).hart = s.hart := rfl
@[simp] theorem State.setTask_task (s : State) (t : Task) : (s.setTask t).task = t := rfl
@[simp] theorem State.setTask_tile (s : State) (t : Task) : (s.setTask t).tile = s.tile := rfl
@[simp] theorem State.setTask_harts (s : State) (t : Task) : (s.setTask t).harts = s.harts := rfl
@[simp] theorem State.setTask_tasks (s : State) (t : Task) : (s.setTask t).tasks = s.tasks := rfl
@[simp] theorem State.setTask_tiles (s : State) (t : Task) : (s.setTask t).tiles = s.tiles := rfl
@[simp] theorem State.setTask_clusters (s : State) (t : Task) : (s.setTask t).clusters = s.clusters := rfl
@[simp] theorem State.setTask_dies (s : State) (t : Task) : (s.setTask t).dies = s.dies := rfl
@[simp] theorem State.setTask_quire (s : State) (t : Task) : (s.setTask t).quire = s.quire := rfl
@[simp] theorem State.setTask_mem (s : State) (t : Task) : (s.setTask t).mem = s.mem := rfl
@[simp] theorem State.setTask_ue (s : State) (t : Task) : (s.setTask t).ue = s.ue := rfl
@[simp] theorem State.setTask_ce (s : State) (t : Task) : (s.setTask t).ce = s.ce := rfl
@[simp] theorem State.setTask_quireCE (s : State) (t : Task) : (s.setTask t).quireCE = s.quireCE := rfl
@[simp] theorem State.setTask_quireUE (s : State) (t : Task) : (s.setTask t).quireUE = s.quireUE := rfl
@[simp] theorem State.setTask_quireBad (s : State) (t : Task) : (s.setTask t).quireBad = s.quireBad := rfl
@[simp] theorem State.setTask_tick (s : State) (t : Task) : (s.setTask t).tick = s.tick := rfl
@[simp] theorem State.setTask_power (s : State) (t : Task) : (s.setTask t).power = s.power := rfl
@[simp] theorem State.setTask_ageingAt (s : State) (t : Task) : (s.setTask t).ageingAt = s.ageingAt := rfl
@[simp] theorem State.setTask_pages (s : State) (t : Task) : (s.setTask t).pages = s.pages := rfl
@[simp] theorem State.setTask_groupModes (s : State) (t : Task) : (s.setTask t).groupModes = s.groupModes := rfl
@[simp] theorem State.setTask_launches (s : State) (t : Task) : (s.setTask t).launches = s.launches := rfl
@[simp] theorem State.setTask_ptp (s : State) (t : Task) : (s.setTask t).ptp = s.ptp := rfl
@[simp] theorem State.setTask_ptpLocked (s : State) (t : Task) : (s.setTask t).ptpLocked = s.ptpLocked := rfl
@[simp] theorem State.setTask_clk (s : State) (t : Task) : (s.setTask t).clk = s.clk := rfl
@[simp] theorem State.setTask_cursor (s : State) (t : Task) : (s.setTask t).cursor = s.cursor := rfl
@[simp] theorem State.setTask_agenda (s : State) (t : Task) : (s.setTask t).agenda = s.agenda := rfl
@[simp] theorem State.setTask_free (s : State) (t : Task) : (s.setTask t).free = s.free := rfl
@[simp] theorem State.setTask_asids (s : State) (t : Task) : (s.setTask t).asids = s.asids := rfl
@[simp] theorem State.setTask_queues (s : State) (t : Task) : (s.setTask t).queues = s.queues := rfl
@[simp] theorem State.setTask_pcap (s : State) (t : Task) : (s.setTask t).pcap = s.pcap := rfl
@[simp] theorem State.setTask_hntcfg (s : State) (t : Task) : (s.setTask t).hntcfg = s.hntcfg := rfl
@[simp] theorem State.setTask_peers (s : State) (t : Task) : (s.setTask t).peers = s.peers := rfl
@[simp] theorem State.setTask_winres (s : State) (t : Task) : (s.setTask t).winres = s.winres := rfl
@[simp] theorem State.setTask_winHeld (s : State) (t : Task) : (s.setTask t).winHeld = s.winHeld := rfl
@[simp] theorem State.setTask_winDirty (s : State) (t : Task) : (s.setTask t).winDirty = s.winDirty := rfl
@[simp] theorem State.setTask_winSnooped (s : State) (t : Task) : (s.setTask t).winSnooped = s.winSnooped := rfl
@[simp] theorem State.setTask_hostWrites (s : State) (t : Task) : (s.setTask t).hostWrites = s.hostWrites := rfl
@[simp] theorem State.setTask_ringMsgs (s : State) (t : Task) : (s.setTask t).ringMsgs = s.ringMsgs := rfl
@[simp] theorem State.setTask_transits (s : State) (t : Task) : (s.setTask t).transits = s.transits := rfl
@[simp] theorem State.setTask_nextId (s : State) (t : Task) : (s.setTask t).nextId = s.nextId := rfl
@[simp] theorem State.setTask_links (s : State) (t : Task) : (s.setTask t).links = s.links := rfl
@[simp] theorem State.setTask_wire (s : State) (t : Task) : (s.setTask t).wire = s.wire := rfl
@[simp] theorem State.setTask_lanes (s : State) (t : Task) : (s.setTask t).lanes = s.lanes := rfl
@[simp] theorem State.setTask_portDown (s : State) (t : Task) : (s.setTask t).portDown = s.portDown := rfl
@[simp] theorem State.setTask_flushWait (s : State) (t : Task) : (s.setTask t).flushWait = s.flushWait := rfl
@[simp] theorem State.setTask_hpkstFailed (s : State) (t : Task) : (s.setTask t).hpkstFailed = s.hpkstFailed := rfl
@[simp] theorem State.setTask_hpkstLast (s : State) (t : Task) : (s.setTask t).hpkstLast = s.hpkstLast := rfl
@[simp] theorem State.setTask_wrenqs (s : State) (t : Task) : (s.setTask t).wrenqs = s.wrenqs := rfl
@[simp] theorem State.setTask_hostPackets (s : State) (t : Task) : (s.setTask t).hostPackets = s.hostPackets := rfl
@[simp] theorem State.setTask_seize (s : State) (t : Task) : (s.setTask t).seize = s.seize := rfl
@[simp] theorem State.setTask_config (s : State) (t : Task) : (s.setTask t).config = s.config := rfl
@[simp] theorem State.setTask_configGood (s : State) (t : Task) : (s.setTask t).configGood = s.configGood := rfl
@[simp] theorem State.setTask_calmTicks (s : State) (t : Task) : (s.setTask t).calmTicks = s.calmTicks := rfl
@[simp] theorem State.setTask_measure3 (s : State) (t : Task) : (s.setTask t).measure3 = s.measure3 := rfl
@[simp] theorem State.setTask_mailbox (s : State) (t : Task) : (s.setTask t).mailbox = s.mailbox := rfl
@[simp] theorem State.setTask_images (s : State) (t : Task) : (s.setTask t).images = s.images := rfl

@[simp] theorem State.setTile_hart (s : State) (t : Tile) : (s.setTile t).hart = s.hart := rfl
@[simp] theorem State.setTile_task (s : State) (t : Tile) : (s.setTile t).task = s.task := rfl
@[simp] theorem State.setTile_tile (s : State) (t : Tile) : (s.setTile t).tile = t := rfl
@[simp] theorem State.setTile_harts (s : State) (t : Tile) : (s.setTile t).harts = s.harts := rfl
@[simp] theorem State.setTile_tasks (s : State) (t : Tile) : (s.setTile t).tasks = s.tasks := rfl
@[simp] theorem State.setTile_tiles (s : State) (t : Tile) : (s.setTile t).tiles = s.tiles := rfl
@[simp] theorem State.setTile_clusters (s : State) (t : Tile) : (s.setTile t).clusters = s.clusters := rfl
@[simp] theorem State.setTile_dies (s : State) (t : Tile) : (s.setTile t).dies = s.dies := rfl
@[simp] theorem State.setTile_quire (s : State) (t : Tile) : (s.setTile t).quire = s.quire := rfl
@[simp] theorem State.setTile_mem (s : State) (t : Tile) : (s.setTile t).mem = s.mem := rfl
@[simp] theorem State.setTile_ue (s : State) (t : Tile) : (s.setTile t).ue = s.ue := rfl
@[simp] theorem State.setTile_ce (s : State) (t : Tile) : (s.setTile t).ce = s.ce := rfl
@[simp] theorem State.setTile_quireCE (s : State) (t : Tile) : (s.setTile t).quireCE = s.quireCE := rfl
@[simp] theorem State.setTile_quireUE (s : State) (t : Tile) : (s.setTile t).quireUE = s.quireUE := rfl
@[simp] theorem State.setTile_quireBad (s : State) (t : Tile) : (s.setTile t).quireBad = s.quireBad := rfl
@[simp] theorem State.setTile_tick (s : State) (t : Tile) : (s.setTile t).tick = s.tick := rfl
@[simp] theorem State.setTile_power (s : State) (t : Tile) : (s.setTile t).power = s.power := rfl
@[simp] theorem State.setTile_ageingAt (s : State) (t : Tile) : (s.setTile t).ageingAt = s.ageingAt := rfl
@[simp] theorem State.setTile_pages (s : State) (t : Tile) : (s.setTile t).pages = s.pages := rfl
@[simp] theorem State.setTile_groupModes (s : State) (t : Tile) : (s.setTile t).groupModes = s.groupModes := rfl
@[simp] theorem State.setTile_launches (s : State) (t : Tile) : (s.setTile t).launches = s.launches := rfl
@[simp] theorem State.setTile_ptp (s : State) (t : Tile) : (s.setTile t).ptp = s.ptp := rfl
@[simp] theorem State.setTile_ptpLocked (s : State) (t : Tile) : (s.setTile t).ptpLocked = s.ptpLocked := rfl
@[simp] theorem State.setTile_clk (s : State) (t : Tile) : (s.setTile t).clk = s.clk := rfl
@[simp] theorem State.setTile_cursor (s : State) (t : Tile) : (s.setTile t).cursor = s.cursor := rfl
@[simp] theorem State.setTile_agenda (s : State) (t : Tile) : (s.setTile t).agenda = s.agenda := rfl
@[simp] theorem State.setTile_free (s : State) (t : Tile) : (s.setTile t).free = s.free := rfl
@[simp] theorem State.setTile_asids (s : State) (t : Tile) : (s.setTile t).asids = s.asids := rfl
@[simp] theorem State.setTile_queues (s : State) (t : Tile) : (s.setTile t).queues = s.queues := rfl
@[simp] theorem State.setTile_pcap (s : State) (t : Tile) : (s.setTile t).pcap = s.pcap := rfl
@[simp] theorem State.setTile_hntcfg (s : State) (t : Tile) : (s.setTile t).hntcfg = s.hntcfg := rfl
@[simp] theorem State.setTile_peers (s : State) (t : Tile) : (s.setTile t).peers = s.peers := rfl
@[simp] theorem State.setTile_winres (s : State) (t : Tile) : (s.setTile t).winres = s.winres := rfl
@[simp] theorem State.setTile_winHeld (s : State) (t : Tile) : (s.setTile t).winHeld = s.winHeld := rfl
@[simp] theorem State.setTile_winDirty (s : State) (t : Tile) : (s.setTile t).winDirty = s.winDirty := rfl
@[simp] theorem State.setTile_winSnooped (s : State) (t : Tile) : (s.setTile t).winSnooped = s.winSnooped := rfl
@[simp] theorem State.setTile_hostWrites (s : State) (t : Tile) : (s.setTile t).hostWrites = s.hostWrites := rfl
@[simp] theorem State.setTile_ringMsgs (s : State) (t : Tile) : (s.setTile t).ringMsgs = s.ringMsgs := rfl
@[simp] theorem State.setTile_transits (s : State) (t : Tile) : (s.setTile t).transits = s.transits := rfl
@[simp] theorem State.setTile_nextId (s : State) (t : Tile) : (s.setTile t).nextId = s.nextId := rfl
@[simp] theorem State.setTile_links (s : State) (t : Tile) : (s.setTile t).links = s.links := rfl
@[simp] theorem State.setTile_wire (s : State) (t : Tile) : (s.setTile t).wire = s.wire := rfl
@[simp] theorem State.setTile_lanes (s : State) (t : Tile) : (s.setTile t).lanes = s.lanes := rfl
@[simp] theorem State.setTile_portDown (s : State) (t : Tile) : (s.setTile t).portDown = s.portDown := rfl
@[simp] theorem State.setTile_flushWait (s : State) (t : Tile) : (s.setTile t).flushWait = s.flushWait := rfl
@[simp] theorem State.setTile_hpkstFailed (s : State) (t : Tile) : (s.setTile t).hpkstFailed = s.hpkstFailed := rfl
@[simp] theorem State.setTile_hpkstLast (s : State) (t : Tile) : (s.setTile t).hpkstLast = s.hpkstLast := rfl
@[simp] theorem State.setTile_wrenqs (s : State) (t : Tile) : (s.setTile t).wrenqs = s.wrenqs := rfl
@[simp] theorem State.setTile_hostPackets (s : State) (t : Tile) : (s.setTile t).hostPackets = s.hostPackets := rfl
@[simp] theorem State.setTile_seize (s : State) (t : Tile) : (s.setTile t).seize = s.seize := rfl
@[simp] theorem State.setTile_config (s : State) (t : Tile) : (s.setTile t).config = s.config := rfl
@[simp] theorem State.setTile_configGood (s : State) (t : Tile) : (s.setTile t).configGood = s.configGood := rfl
@[simp] theorem State.setTile_calmTicks (s : State) (t : Tile) : (s.setTile t).calmTicks = s.calmTicks := rfl
@[simp] theorem State.setTile_measure3 (s : State) (t : Tile) : (s.setTile t).measure3 = s.measure3 := rfl
@[simp] theorem State.setTile_mailbox (s : State) (t : Tile) : (s.setTile t).mailbox = s.mailbox := rfl
@[simp] theorem State.setTile_images (s : State) (t : Tile) : (s.setTile t).images = s.images := rfl

@[simp] theorem State.setQuire_hart (s : State) (q : List CapRec) : (s.setQuire q).hart = s.hart := rfl
@[simp] theorem State.setQuire_task (s : State) (q : List CapRec) : (s.setQuire q).task = s.task := rfl
@[simp] theorem State.setQuire_tile (s : State) (q : List CapRec) : (s.setQuire q).tile = s.tile := rfl
@[simp] theorem State.setQuire_harts (s : State) (q : List CapRec) : (s.setQuire q).harts = s.harts := rfl
@[simp] theorem State.setQuire_tasks (s : State) (q : List CapRec) : (s.setQuire q).tasks = s.tasks := rfl
@[simp] theorem State.setQuire_tiles (s : State) (q : List CapRec) : (s.setQuire q).tiles = s.tiles := rfl
@[simp] theorem State.setQuire_clusters (s : State) (q : List CapRec) : (s.setQuire q).clusters = s.clusters := rfl
@[simp] theorem State.setQuire_dies (s : State) (q : List CapRec) : (s.setQuire q).dies = s.dies := rfl
@[simp] theorem State.setQuire_quire (s : State) (q : List CapRec) : (s.setQuire q).quire = q := rfl
@[simp] theorem State.setQuire_mem (s : State) (q : List CapRec) : (s.setQuire q).mem = s.mem := rfl
@[simp] theorem State.setQuire_ue (s : State) (q : List CapRec) : (s.setQuire q).ue = s.ue := rfl
@[simp] theorem State.setQuire_ce (s : State) (q : List CapRec) : (s.setQuire q).ce = s.ce := rfl
@[simp] theorem State.setQuire_quireCE (s : State) (q : List CapRec) : (s.setQuire q).quireCE = s.quireCE := rfl
@[simp] theorem State.setQuire_quireUE (s : State) (q : List CapRec) : (s.setQuire q).quireUE = s.quireUE := rfl
@[simp] theorem State.setQuire_quireBad (s : State) (q : List CapRec) : (s.setQuire q).quireBad = s.quireBad := rfl
@[simp] theorem State.setQuire_tick (s : State) (q : List CapRec) : (s.setQuire q).tick = s.tick := rfl
@[simp] theorem State.setQuire_power (s : State) (q : List CapRec) : (s.setQuire q).power = s.power := rfl
@[simp] theorem State.setQuire_ageingAt (s : State) (q : List CapRec) : (s.setQuire q).ageingAt = s.ageingAt := rfl
@[simp] theorem State.setQuire_pages (s : State) (q : List CapRec) : (s.setQuire q).pages = s.pages := rfl
@[simp] theorem State.setQuire_groupModes (s : State) (q : List CapRec) : (s.setQuire q).groupModes = s.groupModes := rfl
@[simp] theorem State.setQuire_launches (s : State) (q : List CapRec) : (s.setQuire q).launches = s.launches := rfl
@[simp] theorem State.setQuire_ptp (s : State) (q : List CapRec) : (s.setQuire q).ptp = s.ptp := rfl
@[simp] theorem State.setQuire_ptpLocked (s : State) (q : List CapRec) : (s.setQuire q).ptpLocked = s.ptpLocked := rfl
@[simp] theorem State.setQuire_clk (s : State) (q : List CapRec) : (s.setQuire q).clk = s.clk := rfl
@[simp] theorem State.setQuire_cursor (s : State) (q : List CapRec) : (s.setQuire q).cursor = s.cursor := rfl
@[simp] theorem State.setQuire_agenda (s : State) (q : List CapRec) : (s.setQuire q).agenda = s.agenda := rfl
@[simp] theorem State.setQuire_free (s : State) (q : List CapRec) : (s.setQuire q).free = s.free := rfl
@[simp] theorem State.setQuire_asids (s : State) (q : List CapRec) : (s.setQuire q).asids = s.asids := rfl
@[simp] theorem State.setQuire_queues (s : State) (q : List CapRec) : (s.setQuire q).queues = s.queues := rfl
@[simp] theorem State.setQuire_pcap (s : State) (q : List CapRec) : (s.setQuire q).pcap = s.pcap := rfl
@[simp] theorem State.setQuire_hntcfg (s : State) (q : List CapRec) : (s.setQuire q).hntcfg = s.hntcfg := rfl
@[simp] theorem State.setQuire_peers (s : State) (q : List CapRec) : (s.setQuire q).peers = s.peers := rfl
@[simp] theorem State.setQuire_winres (s : State) (q : List CapRec) : (s.setQuire q).winres = s.winres := rfl
@[simp] theorem State.setQuire_winHeld (s : State) (q : List CapRec) : (s.setQuire q).winHeld = s.winHeld := rfl
@[simp] theorem State.setQuire_winDirty (s : State) (q : List CapRec) : (s.setQuire q).winDirty = s.winDirty := rfl
@[simp] theorem State.setQuire_winSnooped (s : State) (q : List CapRec) : (s.setQuire q).winSnooped = s.winSnooped := rfl
@[simp] theorem State.setQuire_hostWrites (s : State) (q : List CapRec) : (s.setQuire q).hostWrites = s.hostWrites := rfl
@[simp] theorem State.setQuire_ringMsgs (s : State) (q : List CapRec) : (s.setQuire q).ringMsgs = s.ringMsgs := rfl
@[simp] theorem State.setQuire_transits (s : State) (q : List CapRec) : (s.setQuire q).transits = s.transits := rfl
@[simp] theorem State.setQuire_nextId (s : State) (q : List CapRec) : (s.setQuire q).nextId = s.nextId := rfl
@[simp] theorem State.setQuire_links (s : State) (q : List CapRec) : (s.setQuire q).links = s.links := rfl
@[simp] theorem State.setQuire_wire (s : State) (q : List CapRec) : (s.setQuire q).wire = s.wire := rfl
@[simp] theorem State.setQuire_lanes (s : State) (q : List CapRec) : (s.setQuire q).lanes = s.lanes := rfl
@[simp] theorem State.setQuire_portDown (s : State) (q : List CapRec) : (s.setQuire q).portDown = s.portDown := rfl
@[simp] theorem State.setQuire_flushWait (s : State) (q : List CapRec) : (s.setQuire q).flushWait = s.flushWait := rfl
@[simp] theorem State.setQuire_hpkstFailed (s : State) (q : List CapRec) : (s.setQuire q).hpkstFailed = s.hpkstFailed := rfl
@[simp] theorem State.setQuire_hpkstLast (s : State) (q : List CapRec) : (s.setQuire q).hpkstLast = s.hpkstLast := rfl
@[simp] theorem State.setQuire_wrenqs (s : State) (q : List CapRec) : (s.setQuire q).wrenqs = s.wrenqs := rfl
@[simp] theorem State.setQuire_hostPackets (s : State) (q : List CapRec) : (s.setQuire q).hostPackets = s.hostPackets := rfl
@[simp] theorem State.setQuire_seize (s : State) (q : List CapRec) : (s.setQuire q).seize = s.seize := rfl
@[simp] theorem State.setQuire_config (s : State) (q : List CapRec) : (s.setQuire q).config = s.config := rfl
@[simp] theorem State.setQuire_configGood (s : State) (q : List CapRec) : (s.setQuire q).configGood = s.configGood := rfl
@[simp] theorem State.setQuire_calmTicks (s : State) (q : List CapRec) : (s.setQuire q).calmTicks = s.calmTicks := rfl
@[simp] theorem State.setQuire_measure3 (s : State) (q : List CapRec) : (s.setQuire q).measure3 = s.measure3 := rfl
@[simp] theorem State.setQuire_mailbox (s : State) (q : List CapRec) : (s.setQuire q).mailbox = s.mailbox := rfl
@[simp] theorem State.setQuire_images (s : State) (q : List CapRec) : (s.setQuire q).images = s.images := rfl

@[simp] theorem State.setMem_hart (s : State) (m : List Host.Cell) : (s.setMem m).hart = s.hart := rfl
@[simp] theorem State.setMem_task (s : State) (m : List Host.Cell) : (s.setMem m).task = s.task := rfl
@[simp] theorem State.setMem_tile (s : State) (m : List Host.Cell) : (s.setMem m).tile = s.tile := rfl
@[simp] theorem State.setMem_harts (s : State) (m : List Host.Cell) : (s.setMem m).harts = s.harts := rfl
@[simp] theorem State.setMem_tasks (s : State) (m : List Host.Cell) : (s.setMem m).tasks = s.tasks := rfl
@[simp] theorem State.setMem_tiles (s : State) (m : List Host.Cell) : (s.setMem m).tiles = s.tiles := rfl
@[simp] theorem State.setMem_clusters (s : State) (m : List Host.Cell) : (s.setMem m).clusters = s.clusters := rfl
@[simp] theorem State.setMem_dies (s : State) (m : List Host.Cell) : (s.setMem m).dies = s.dies := rfl
@[simp] theorem State.setMem_quire (s : State) (m : List Host.Cell) : (s.setMem m).quire = s.quire := rfl
@[simp] theorem State.setMem_mem (s : State) (m : List Host.Cell) : (s.setMem m).mem = m := rfl
@[simp] theorem State.setMem_ue (s : State) (m : List Host.Cell) : (s.setMem m).ue = s.ue := rfl
@[simp] theorem State.setMem_ce (s : State) (m : List Host.Cell) : (s.setMem m).ce = s.ce := rfl
@[simp] theorem State.setMem_quireCE (s : State) (m : List Host.Cell) : (s.setMem m).quireCE = s.quireCE := rfl
@[simp] theorem State.setMem_quireUE (s : State) (m : List Host.Cell) : (s.setMem m).quireUE = s.quireUE := rfl
@[simp] theorem State.setMem_quireBad (s : State) (m : List Host.Cell) : (s.setMem m).quireBad = s.quireBad := rfl
@[simp] theorem State.setMem_tick (s : State) (m : List Host.Cell) : (s.setMem m).tick = s.tick := rfl
@[simp] theorem State.setMem_power (s : State) (m : List Host.Cell) : (s.setMem m).power = s.power := rfl
@[simp] theorem State.setMem_ageingAt (s : State) (m : List Host.Cell) : (s.setMem m).ageingAt = s.ageingAt := rfl
@[simp] theorem State.setMem_pages (s : State) (m : List Host.Cell) : (s.setMem m).pages = s.pages := rfl
@[simp] theorem State.setMem_groupModes (s : State) (m : List Host.Cell) : (s.setMem m).groupModes = s.groupModes := rfl
@[simp] theorem State.setMem_launches (s : State) (m : List Host.Cell) : (s.setMem m).launches = s.launches := rfl
@[simp] theorem State.setMem_ptp (s : State) (m : List Host.Cell) : (s.setMem m).ptp = s.ptp := rfl
@[simp] theorem State.setMem_ptpLocked (s : State) (m : List Host.Cell) : (s.setMem m).ptpLocked = s.ptpLocked := rfl
@[simp] theorem State.setMem_clk (s : State) (m : List Host.Cell) : (s.setMem m).clk = s.clk := rfl
@[simp] theorem State.setMem_cursor (s : State) (m : List Host.Cell) : (s.setMem m).cursor = s.cursor := rfl
@[simp] theorem State.setMem_agenda (s : State) (m : List Host.Cell) : (s.setMem m).agenda = s.agenda := rfl
@[simp] theorem State.setMem_free (s : State) (m : List Host.Cell) : (s.setMem m).free = s.free := rfl
@[simp] theorem State.setMem_asids (s : State) (m : List Host.Cell) : (s.setMem m).asids = s.asids := rfl
@[simp] theorem State.setMem_queues (s : State) (m : List Host.Cell) : (s.setMem m).queues = s.queues := rfl
@[simp] theorem State.setMem_pcap (s : State) (m : List Host.Cell) : (s.setMem m).pcap = s.pcap := rfl
@[simp] theorem State.setMem_hntcfg (s : State) (m : List Host.Cell) : (s.setMem m).hntcfg = s.hntcfg := rfl
@[simp] theorem State.setMem_peers (s : State) (m : List Host.Cell) : (s.setMem m).peers = s.peers := rfl
@[simp] theorem State.setMem_winres (s : State) (m : List Host.Cell) : (s.setMem m).winres = s.winres := rfl
@[simp] theorem State.setMem_winHeld (s : State) (m : List Host.Cell) : (s.setMem m).winHeld = s.winHeld := rfl
@[simp] theorem State.setMem_winDirty (s : State) (m : List Host.Cell) : (s.setMem m).winDirty = s.winDirty := rfl
@[simp] theorem State.setMem_winSnooped (s : State) (m : List Host.Cell) : (s.setMem m).winSnooped = s.winSnooped := rfl
@[simp] theorem State.setMem_hostWrites (s : State) (m : List Host.Cell) : (s.setMem m).hostWrites = s.hostWrites := rfl
@[simp] theorem State.setMem_ringMsgs (s : State) (m : List Host.Cell) : (s.setMem m).ringMsgs = s.ringMsgs := rfl
@[simp] theorem State.setMem_transits (s : State) (m : List Host.Cell) : (s.setMem m).transits = s.transits := rfl
@[simp] theorem State.setMem_nextId (s : State) (m : List Host.Cell) : (s.setMem m).nextId = s.nextId := rfl
@[simp] theorem State.setMem_links (s : State) (m : List Host.Cell) : (s.setMem m).links = s.links := rfl
@[simp] theorem State.setMem_wire (s : State) (m : List Host.Cell) : (s.setMem m).wire = s.wire := rfl
@[simp] theorem State.setMem_lanes (s : State) (m : List Host.Cell) : (s.setMem m).lanes = s.lanes := rfl
@[simp] theorem State.setMem_portDown (s : State) (m : List Host.Cell) : (s.setMem m).portDown = s.portDown := rfl
@[simp] theorem State.setMem_flushWait (s : State) (m : List Host.Cell) : (s.setMem m).flushWait = s.flushWait := rfl
@[simp] theorem State.setMem_hpkstFailed (s : State) (m : List Host.Cell) : (s.setMem m).hpkstFailed = s.hpkstFailed := rfl
@[simp] theorem State.setMem_hpkstLast (s : State) (m : List Host.Cell) : (s.setMem m).hpkstLast = s.hpkstLast := rfl
@[simp] theorem State.setMem_wrenqs (s : State) (m : List Host.Cell) : (s.setMem m).wrenqs = s.wrenqs := rfl
@[simp] theorem State.setMem_hostPackets (s : State) (m : List Host.Cell) : (s.setMem m).hostPackets = s.hostPackets := rfl
@[simp] theorem State.setMem_seize (s : State) (m : List Host.Cell) : (s.setMem m).seize = s.seize := rfl
@[simp] theorem State.setMem_config (s : State) (m : List Host.Cell) : (s.setMem m).config = s.config := rfl
@[simp] theorem State.setMem_configGood (s : State) (m : List Host.Cell) : (s.setMem m).configGood = s.configGood := rfl
@[simp] theorem State.setMem_calmTicks (s : State) (m : List Host.Cell) : (s.setMem m).calmTicks = s.calmTicks := rfl
@[simp] theorem State.setMem_measure3 (s : State) (m : List Host.Cell) : (s.setMem m).measure3 = s.measure3 := rfl
@[simp] theorem State.setMem_mailbox (s : State) (m : List Host.Cell) : (s.setMem m).mailbox = s.mailbox := rfl
@[simp] theorem State.setMem_images (s : State) (m : List Host.Cell) : (s.setMem m).images = s.images := rfl

@[simp] theorem State.setAgenda_hart (s : State) (a : List (Nat × Event)) : (s.setAgenda a).hart = s.hart := rfl
@[simp] theorem State.setAgenda_task (s : State) (a : List (Nat × Event)) : (s.setAgenda a).task = s.task := rfl
@[simp] theorem State.setAgenda_tile (s : State) (a : List (Nat × Event)) : (s.setAgenda a).tile = s.tile := rfl
@[simp] theorem State.setAgenda_harts (s : State) (a : List (Nat × Event)) : (s.setAgenda a).harts = s.harts := rfl
@[simp] theorem State.setAgenda_tasks (s : State) (a : List (Nat × Event)) : (s.setAgenda a).tasks = s.tasks := rfl
@[simp] theorem State.setAgenda_tiles (s : State) (a : List (Nat × Event)) : (s.setAgenda a).tiles = s.tiles := rfl
@[simp] theorem State.setAgenda_clusters (s : State) (a : List (Nat × Event)) : (s.setAgenda a).clusters = s.clusters := rfl
@[simp] theorem State.setAgenda_dies (s : State) (a : List (Nat × Event)) : (s.setAgenda a).dies = s.dies := rfl
@[simp] theorem State.setAgenda_quire (s : State) (a : List (Nat × Event)) : (s.setAgenda a).quire = s.quire := rfl
@[simp] theorem State.setAgenda_mem (s : State) (a : List (Nat × Event)) : (s.setAgenda a).mem = s.mem := rfl
@[simp] theorem State.setAgenda_ue (s : State) (a : List (Nat × Event)) : (s.setAgenda a).ue = s.ue := rfl
@[simp] theorem State.setAgenda_ce (s : State) (a : List (Nat × Event)) : (s.setAgenda a).ce = s.ce := rfl
@[simp] theorem State.setAgenda_quireCE (s : State) (a : List (Nat × Event)) : (s.setAgenda a).quireCE = s.quireCE := rfl
@[simp] theorem State.setAgenda_quireUE (s : State) (a : List (Nat × Event)) : (s.setAgenda a).quireUE = s.quireUE := rfl
@[simp] theorem State.setAgenda_quireBad (s : State) (a : List (Nat × Event)) : (s.setAgenda a).quireBad = s.quireBad := rfl
@[simp] theorem State.setAgenda_tick (s : State) (a : List (Nat × Event)) : (s.setAgenda a).tick = s.tick := rfl
@[simp] theorem State.setAgenda_power (s : State) (a : List (Nat × Event)) : (s.setAgenda a).power = s.power := rfl
@[simp] theorem State.setAgenda_ageingAt (s : State) (a : List (Nat × Event)) : (s.setAgenda a).ageingAt = s.ageingAt := rfl
@[simp] theorem State.setAgenda_pages (s : State) (a : List (Nat × Event)) : (s.setAgenda a).pages = s.pages := rfl
@[simp] theorem State.setAgenda_groupModes (s : State) (a : List (Nat × Event)) : (s.setAgenda a).groupModes = s.groupModes := rfl
@[simp] theorem State.setAgenda_launches (s : State) (a : List (Nat × Event)) : (s.setAgenda a).launches = s.launches := rfl
@[simp] theorem State.setAgenda_ptp (s : State) (a : List (Nat × Event)) : (s.setAgenda a).ptp = s.ptp := rfl
@[simp] theorem State.setAgenda_ptpLocked (s : State) (a : List (Nat × Event)) : (s.setAgenda a).ptpLocked = s.ptpLocked := rfl
@[simp] theorem State.setAgenda_clk (s : State) (a : List (Nat × Event)) : (s.setAgenda a).clk = s.clk := rfl
@[simp] theorem State.setAgenda_cursor (s : State) (a : List (Nat × Event)) : (s.setAgenda a).cursor = s.cursor := rfl
@[simp] theorem State.setAgenda_agenda (s : State) (a : List (Nat × Event)) : (s.setAgenda a).agenda = a := rfl
@[simp] theorem State.setAgenda_free (s : State) (a : List (Nat × Event)) : (s.setAgenda a).free = s.free := rfl
@[simp] theorem State.setAgenda_asids (s : State) (a : List (Nat × Event)) : (s.setAgenda a).asids = s.asids := rfl
@[simp] theorem State.setAgenda_queues (s : State) (a : List (Nat × Event)) : (s.setAgenda a).queues = s.queues := rfl
@[simp] theorem State.setAgenda_pcap (s : State) (a : List (Nat × Event)) : (s.setAgenda a).pcap = s.pcap := rfl
@[simp] theorem State.setAgenda_hntcfg (s : State) (a : List (Nat × Event)) : (s.setAgenda a).hntcfg = s.hntcfg := rfl
@[simp] theorem State.setAgenda_peers (s : State) (a : List (Nat × Event)) : (s.setAgenda a).peers = s.peers := rfl
@[simp] theorem State.setAgenda_winres (s : State) (a : List (Nat × Event)) : (s.setAgenda a).winres = s.winres := rfl
@[simp] theorem State.setAgenda_winHeld (s : State) (a : List (Nat × Event)) : (s.setAgenda a).winHeld = s.winHeld := rfl
@[simp] theorem State.setAgenda_winDirty (s : State) (a : List (Nat × Event)) : (s.setAgenda a).winDirty = s.winDirty := rfl
@[simp] theorem State.setAgenda_winSnooped (s : State) (a : List (Nat × Event)) : (s.setAgenda a).winSnooped = s.winSnooped := rfl
@[simp] theorem State.setAgenda_hostWrites (s : State) (a : List (Nat × Event)) : (s.setAgenda a).hostWrites = s.hostWrites := rfl
@[simp] theorem State.setAgenda_ringMsgs (s : State) (a : List (Nat × Event)) : (s.setAgenda a).ringMsgs = s.ringMsgs := rfl
@[simp] theorem State.setAgenda_transits (s : State) (a : List (Nat × Event)) : (s.setAgenda a).transits = s.transits := rfl
@[simp] theorem State.setAgenda_nextId (s : State) (a : List (Nat × Event)) : (s.setAgenda a).nextId = s.nextId := rfl
@[simp] theorem State.setAgenda_links (s : State) (a : List (Nat × Event)) : (s.setAgenda a).links = s.links := rfl
@[simp] theorem State.setAgenda_wire (s : State) (a : List (Nat × Event)) : (s.setAgenda a).wire = s.wire := rfl
@[simp] theorem State.setAgenda_lanes (s : State) (a : List (Nat × Event)) : (s.setAgenda a).lanes = s.lanes := rfl
@[simp] theorem State.setAgenda_portDown (s : State) (a : List (Nat × Event)) : (s.setAgenda a).portDown = s.portDown := rfl
@[simp] theorem State.setAgenda_flushWait (s : State) (a : List (Nat × Event)) : (s.setAgenda a).flushWait = s.flushWait := rfl
@[simp] theorem State.setAgenda_hpkstFailed (s : State) (a : List (Nat × Event)) : (s.setAgenda a).hpkstFailed = s.hpkstFailed := rfl
@[simp] theorem State.setAgenda_hpkstLast (s : State) (a : List (Nat × Event)) : (s.setAgenda a).hpkstLast = s.hpkstLast := rfl
@[simp] theorem State.setAgenda_wrenqs (s : State) (a : List (Nat × Event)) : (s.setAgenda a).wrenqs = s.wrenqs := rfl
@[simp] theorem State.setAgenda_hostPackets (s : State) (a : List (Nat × Event)) : (s.setAgenda a).hostPackets = s.hostPackets := rfl
@[simp] theorem State.setAgenda_seize (s : State) (a : List (Nat × Event)) : (s.setAgenda a).seize = s.seize := rfl
@[simp] theorem State.setAgenda_config (s : State) (a : List (Nat × Event)) : (s.setAgenda a).config = s.config := rfl
@[simp] theorem State.setAgenda_configGood (s : State) (a : List (Nat × Event)) : (s.setAgenda a).configGood = s.configGood := rfl
@[simp] theorem State.setAgenda_calmTicks (s : State) (a : List (Nat × Event)) : (s.setAgenda a).calmTicks = s.calmTicks := rfl
@[simp] theorem State.setAgenda_measure3 (s : State) (a : List (Nat × Event)) : (s.setAgenda a).measure3 = s.measure3 := rfl
@[simp] theorem State.setAgenda_mailbox (s : State) (a : List (Nat × Event)) : (s.setAgenda a).mailbox = s.mailbox := rfl
@[simp] theorem State.setAgenda_images (s : State) (a : List (Nat × Event)) : (s.setAgenda a).images = s.images := rfl

@[simp] theorem State.setHart_setHart (s : State) (h : Hart) (h2 : Hart) : (s.setHart h).setHart h2 = s.setHart h2 := rfl
@[simp] theorem State.setTask_setTask (s : State) (t : Task) (t2 : Task) : (s.setTask t).setTask t2 = s.setTask t2 := rfl
@[simp] theorem State.setTile_setTile (s : State) (t : Tile) (t2 : Tile) : (s.setTile t).setTile t2 = s.setTile t2 := rfl
@[simp] theorem State.setQuire_setQuire (s : State) (q : List CapRec) (q2 : List CapRec) : (s.setQuire q).setQuire q2 = s.setQuire q2 := rfl
@[simp] theorem State.setMem_setMem (s : State) (m : List Host.Cell) (m2 : List Host.Cell) : (s.setMem m).setMem m2 = s.setMem m2 := rfl
@[simp] theorem State.setAgenda_setAgenda (s : State) (a : List (Nat × Event)) (a2 : List (Nat × Event)) : (s.setAgenda a).setAgenda a2 = s.setAgenda a2 := rfl

end Sys2Proof.Machine
end

