-- ==== Sys2Proof/Laws/Tasks.lean ====
section
/-!
SUPPORT. Queue registers, records read by SPAWN, and tasks that leave their slot.
-/
namespace Sys2Proof.Machine

open Sys2Proof

theorem holds_words {t : Task} {n : BitVec 3} {l : List Word} (h : t.holds n l) : t.words n = l := by
  obtain ⟨h1, h2⟩ := h
  unfold Task.words
  have : n.toNat % 4 = n.toNat := Nat.mod_eq_of_lt h1
  simp only [queueIx, Fin.getElem_fin, this]
  simpa [h1] using h2

theorem holds_set {t : Task} {n m : BitVec 3} {l k : List Word} (hn : n.toNat < 4) (h : m ≠ n → t.holds m k) (hm : m.toNat < 4) (e : m = n → k = l) : (t.setWords n l).holds m k := by
  refine ⟨hm, ?_⟩
  unfold Task.setWords
  have a1 : n.toNat % 4 = n.toNat := Nat.mod_eq_of_lt hn
  by_cases q : m = n
  · subst q; simp [queueIx, a1, hn, e]
  · have := (h q).2
    have ne : n.toNat ≠ m.toNat := fun x => q (BitVec.eq_of_toNat_eq x).symm
    simp [queueIx, a1, ne, hm] at this ⊢; exact this

theorem holdsR_rows {t : Task} {n : BitVec 3} {l : List QRow} (h : t.holdsRows n l) : t.rows n = l := by
  obtain ⟨h1, h2⟩ := h
  unfold Task.rows
  have : n.toNat % 4 = n.toNat - 4 := by have := n.isLt; omega
  simp only [queueIx, Fin.getElem_fin, this]
  have hl : n.toNat - 4 < 4 := by have := n.isLt; omega
  simpa [hl] using h2

theorem holdsR_set {t : Task} {n m : BitVec 3} {l k : List QRow} (hn : 4 ≤ n.toNat) (h : m ≠ n → t.holdsRows m k) (hm : 4 ≤ m.toNat) (e : m = n → k = l) : (t.setRows n l).holdsRows m k := by
  refine ⟨hm, ?_⟩
  unfold Task.setRows
  have a1 : n.toNat % 4 = n.toNat - 4 := by have := n.isLt; omega
  have a2 : n.toNat - 4 < 4 := by have := n.isLt; omega
  have a3 : m.toNat - 4 < 4 := by have := m.isLt; omega
  by_cases q : m = n
  · subst q; simp [queueIx, a1, a2, e]
  · have := (h q).2
    have ne : n.toNat - 4 ≠ m.toNat - 4 := fun x => q (BitVec.eq_of_toNat_eq (by omega)).symm
    simp [queueIx, a1, ne, a3] at this ⊢; exact this

theorem noteStream_mem (v : Vector (List Nat) 8) (n : BitVec 3) (no : Nat) : no ∈ (noteStream v n no)[n.toNat] := by
  unfold noteStream
  simp only [Vector.getElem_set_self]
  split
  · rename_i h; simpa using h
  · simp

theorem find_streams (live : List Nat) (k : Nat) (h : k = 1 ∧ 1 ∉ live ∨ k = 2 ∧ 1 ∈ live ∧ 2 ∉ live) : [1, 2].find? (fun k => !live.contains k) = some k := by
  rcases h with ⟨rfl, h⟩ | ⟨rfl, h1, h2⟩
  · simp [h]
  · simp [h1, h2]

theorem putTask_focus (s : State) (t : Task) (h : s.task.tid ≠ t.tid) : (s.putTask t).task = s.task := by
  unfold State.putTask; rw [if_neg h]; split <;> rfl

theorem modTask_focus {s : State} {tid : Tid} {r : Task} {f : Task → Task} (h : s.taskAt? tid = some r) (h1 : s.task.tid ≠ tid) (h2 : (f r).tid = r.tid) : (s.modTask tid f).task = s.task := by
  unfold State.modTask; rw [h]; exact putTask_focus _ _ (by rw [h2, task_tid h]; exact h1)

theorem hart_put (s : State) (h : Hart) (hl : h.live = true) : (s.putHart h).hartAt? h.tid h.no = some h := by
  unfold State.putHart
  split
  · simp [State.hartAt?, hl]
  · rename_i e; have e2 : ¬ (s.hart.tid = h.tid ∧ s.hart.no = h.no ∧ s.hart.live = true) := fun q => e ⟨q.1, q.2.1⟩
    simp only [State.hartAt?, hl, e2, if_false, if_true, findBy_putBy]; exact if_pos rfl

theorem bytes_le (n : Nat) (bs : List Byte) (h : bs.length = n) : bytesOf n (leValue bs) = bs := by
  induction bs generalizing n with
  | nil => subst h; rfl
  | cons b r ih =>
    subst h
    show bytesOf (r.length + 1) (b.toNat + 256 * leValue r) = _
    have hb := b.isLt
    simp only [bytesOf]
    have e1 : (b.toNat + 256 * leValue r) / 256 = leValue r := by omega
    have e2 : BitVec.ofNat 8 (b.toNat + 256 * leValue r) = b := by apply BitVec.eq_of_toNat_eq; simp only [BitVec.toNat_ofNat]; omega
    rw [e1, e2, ih _ rfl]

theorem memBytes_len (n a : Nat) (m : List Host.Cell) : (memBytes n a m).length = n := by
  induction n generalizing a with
  | zero => rfl
  | succ n ih => simp [memBytes, ih]

theorem memBytes_drop (n k a : Nat) (m : List Host.Cell) : (memBytes n a m).drop k = memBytes (n - k) (a + k) m := by
  induction k generalizing n a with
  | zero => simp
  | succ k ih => cases n with
    | zero => simp [memBytes]
    | succ n => simp only [memBytes, List.drop_succ_cons, ih]; congr 1 <;> omega

theorem memBytes_take (n k a : Nat) (m : List Host.Cell) (h : k ≤ n) : (memBytes n a m).take k = memBytes k a m := by
  induction k generalizing n a with
  | zero => simp [memBytes]
  | succ k ih => cases n with
    | zero => omega
    | succ n => simp only [memBytes, List.take_succ_cons]; rw [ih n (a + 1) (by omega)]

theorem packet_words (s : State) (a : Nat) : packetWords (bytesOf 64 (leValue (s.readPhys a 64))) = (List.range 8).map fun i => BitVec.ofNat 64 (s.little (a + 8 * i) 8) := by
  unfold State.readPhys
  rw [bytes_le 64 _ (memBytes_len ..)]
  unfold packetWords
  apply List.map_congr_left
  intro i hi
  have : i < 8 := by simpa using hi
  rw [memBytes_drop, memBytes_take _ _ _ _ (by omega), leValue_memBytes]; rfl

theorem tile_mod_only (s : State) (i : Nat) (f : Tile → Tile) : ∃ t ts, s.modTile i f = { s with tile := t, tiles := ts } := putTile_only ..

theorem modDie_only (s : State) (i : Nat) (f : Die → Die) : ∃ d, s.modDie i f = { s with dies := d } := ⟨_, rfl⟩

theorem modLaunch_only (s : State) (i : Nat) (f : Launch → Launch) : ∃ l, s.modLaunch i f = { s with launches := l } := by
  unfold State.modLaunch; split
  · exact ⟨_, rfl⟩
  · exact ⟨s.launches, rfl⟩

theorem spillWritten_only (s : State) (tile j : Nat) : ∃ u c, s.spillWritten tile j = { s with ue := u, ce := c } := ⟨_, _, rfl⟩

/-- What a record's entry into a deque or a wheel changes, and that its task, which is not the one in focus, stands as it did. -/
theorem enqueue_ok (s : State) (tile : Nat) (r : TaskRec) (since : Option Nat) (T : Task) (hf : s.task.tid ≠ r.tid) (hT : s.taskAt? r.tid = some T) (hx : T.state ≠ .exited)
    (hq : ¬ s.ptp < r.release.toNat → T.state = .queued) :
    ∃ t ts d u c tks, s.enqueue tile r since = { s with tile := t, tiles := ts, dies := d, ue := u, ce := c, tasks := tks } ∧ (s.enqueue tile r since).taskAt? r.tid = some T := by
  have key (t : Tile) (ts : List Tile) (d : List Die) (u c : List Nat) (y : State) (e : y = { s with tile := t, tiles := ts, dies := d, ue := u, ce := c }) :
      y.taskAt? r.tid = some T := by subst e; exact hT
  unfold State.enqueue
  split
  · dsimp only; split
    · exact ⟨s.tile, s.tiles, _, s.ue, s.ce, s.tasks, rfl, key s.tile s.tiles _ s.ue s.ce _ rfl⟩
    · exact ⟨s.tile, s.tiles, _, s.ue, s.ce, s.tasks, rfl, key s.tile s.tiles _ s.ue s.ce _ rfl⟩
  · rename_i hn
    have plain (f : Tile → Tile) : ∃ t ts d u c tks, s.modTile tile f = { s with tile := t, tiles := ts, dies := d, ue := u, ce := c, tasks := tks } ∧ (s.modTile tile f).taskAt? r.tid = some T := by
      obtain ⟨t, ts, e⟩ := tile_mod_only s tile f
      exact ⟨t, ts, s.dies, s.ue, s.ce, s.tasks, e, key t ts s.dies s.ue s.ce _ e⟩
    have enter : ∃ t ts d u c tks, s.enterDeque tile r = { s with tile := t, tiles := ts, dies := d, ue := u, ce := c, tasks := tks } ∧ (s.enterDeque tile r).taskAt? r.tid = some T := by
      have pushed (y : State) (t : Tile) (ts : List Tile) (u c : List Nat) (e : y = { s with tile := t, tiles := ts, ue := u, ce := c }) :
          ∃ t ts d u c tks, y.modTask r.tid (fun t => { t with state := .queued }) = { s with tile := t, tiles := ts, dies := d, ue := u, ce := c, tasks := tks } ∧
            (y.modTask r.tid (fun t => { t with state := .queued })).taskAt? r.tid = some T := by
        have h1 := key t ts s.dies u c y e
        have e1 : ({ T with state := .queued } : Task) = T := by rw [← hq hn]
        refine ⟨t, ts, s.dies, u, c, putBy Task.key T s.tasks, ?_, ?_⟩
        · unfold State.modTask; rw [h1]; dsimp only; rw [e1]
          unfold State.putTask; rw [if_neg hx]
          subst e
          exact if_neg (show ¬ s.task.tid = T.tid by rw [task_tid hT]; exact hf)
        · have := task_mod (s := y) (fun t => { t with state := .queued }) h1 rfl (by rw [e1]; exact hx)
          rw [this, e1]
      unfold State.enterDeque; dsimp only
      obtain ⟨t, ts, e⟩ := tile_mod_only s tile fun t => { t.push r s.clk with dequeAt := s.clk + 1 }
      split
      · split
        · obtain ⟨u, c, e2⟩ := spillWritten_only (s.modTile tile fun t => { t.push r s.clk with dequeAt := s.clk + 1 }) tile ‹Queued›.place
          refine pushed _ t ts u c ?_
          rw [e2, e]
        · exact pushed _ t ts s.ue s.ce e
      · exact pushed _ t ts s.ue s.ce e
    unfold State.pushRecord; dsimp only
    split
    · split
      · exact plain _
      · exact enter
    · split
      · exact plain _
      · split
        · exact plain _
        · exact enter

theorem newTid_only {s u : State} {tile : Nat} {tid : Tid} (h : s.newTid tile = some (tid, u)) : ∃ t ts, u = { s with tile := t, tiles := ts } := by
  unfold State.newTid at h
  dsimp only at h
  split at h
  · cases h
  · split at h
    · cases h
    · cases h; exact tile_mod_only ..

theorem putTask_away (s : State) (t : Task) (h : s.task.tid ≠ t.tid) (h2 : t.state ≠ .exited) : s.putTask t = { s with tasks := putBy Task.key t s.tasks } := by
  unfold State.putTask; rw [if_neg h, if_neg h2]

/-- What a new task changes: its record enters a deque or a wheel, and the task holds its handles (R94). -/
theorem spawnTask_ok (s : State) (r : TaskRec) (dest : Nat) (since : Option Nat) (hf : s.task.tid ≠ r.tid) :
    ∃ ts t tls d l u c, s.spawnTask r dest since = { s with tasks := ts, tile := t, tiles := tls, dies := d, launches := l, ue := u, ce := c } ∧
      (s.spawnTask r dest since).taskAt? r.tid = some { r.task dest with state := if s.ptp < r.release.toNat then .timed else .queued, h := placeHandles r.h (r.task dest).h } := by
  unfold State.spawnTask State.admitRecord
  dsimp only
  let T : Task := { r.task dest with state := if s.ptp < r.release.toNat then .timed else .queued }
  have hT : T.state ≠ .exited := by show (if s.ptp < r.release.toNat then TaskState.timed else .queued) ≠ .exited; split <;> decide
  have e1 : s.putTask T = { s with tasks := putBy Task.key T s.tasks } := by
    exact putTask_away s T hf hT
  rw [show s.putTask { r.task dest with state := if s.ptp < r.release.toNat then .timed else .queued } = _ from e1]
  have h0 : ({ s with tasks := putBy Task.key T s.tasks } : State).taskAt? r.tid = some T := by
    unfold State.taskAt?
    refine (if_neg hf).trans ?_
    exact (findBy_putBy Task.key T _ _).trans (if_pos rfl)
  obtain ⟨t, ts, d, u, c, tks, e2, h1⟩ := enqueue_ok { s with tasks := putBy Task.key T s.tasks } dest r since T hf h0 hT
    (fun hn => show (if s.ptp < r.release.toNat then TaskState.timed else .queued) = .queued from if_neg hn)
  rw [e2] at h1 ⊢
  have h2 := task_mod (fun t => { t with h := placeHandles r.h t.h }) h1 rfl hT
  have h3 : ({ s with tasks := tks, tile := t, tiles := ts, dies := d, ue := u, ce := c } : State).modTask r.tid (fun t => { t with h := placeHandles r.h t.h }) =
      { s with tasks := putBy Task.key { T with h := placeHandles r.h T.h } tks, tile := t, tiles := ts, dies := d, ue := u, ce := c } := by
    unfold State.modTask
    rw [show ({ s with tasks := tks, tile := t, tiles := ts, dies := d, ue := u, ce := c } : State).taskAt? r.tid = some T from h1]; dsimp only
    exact putTask_away _ _ hf hT
  obtain ⟨l, h4⟩ := modLaunch_only (({ s with tasks := tks, tile := t, tiles := ts, dies := d, ue := u, ce := c } : State).modTask r.tid (fun t => { t with h := placeHandles r.h t.h })) r.launch fun l => { l with spawned := l.spawned ++ [r.tid] }
  refine ⟨putBy Task.key { T with h := placeHandles r.h T.h } tks, t, ts, d, l, u, c, ?_, ?_⟩
  · exact h4.trans (by rw [h3])
  · rw [show State.modLaunch _ r.launch (fun l => { l with spawned := l.spawned ++ [r.tid] }) = _ from h4]; exact h2

theorem spawn_read (at_ : Bool) (s : State) (d : BitVec 5) (h : BitVec 4) (b : BitVec 5) (c : CapRec) (a : Nat) (h1 : s.Reads h (s.x b) 64 false c a) :
    spawn at_ d h b s = spawnFrom at_ d ((List.range 8).map fun i => BitVec.ofNat 64 (s.little (a + 8 * i) 8)) (s.homeLatency (.mem a)) s := by
  unfold spawn readRecord
  rw [readOf_value s 64 h (s.x b) false c a h1]; dsimp only
  have : bytesOf 64 (s.little a 64) = bytesOf 64 (leValue (s.readPhys a 64)) := by
    unfold State.readPhys State.little; rw [leValue_memBytes]
  rw [this, packet_words]

theorem wrote_hart (S : State) (d : BitVec 5) (w : Word) (k n : Nat) (h : S.hart.inRep = false) :
    (((S.setX d w).busy k).done n).hart = { S.hart with x := (((S.setX d w).busy k).done n).hart.x, pc := S.hart.pc + BitVec.ofNat 64 n, wait := none, met := none, order := none, walkFail := none, readyAt := S.clk + k } := by
  unfold State.done State.busy State.setX State.setHart; dsimp only
  rw [setX_only, advance_plain _ _ (by exact h)]

theorem bit_of (p : List Word) : (BitVec.ofNat 12 (pf p 0 15 4)).getLsbD 1 = (pf p 0 5 5 == 1) := by
  rw [BitVec.getLsbD_ofNat, Nat.testBit_eq_decide_div_mod_eq]
  simp only [pf]
  have : ∀ x : Nat, (x / 2 ^ 4 % 2 ^ (15 + 1 - 4) / 2 ^ 1 % 2 = 1) = (x / 2 ^ 5 % 2 ^ (5 + 1 - 5) = 1) := by intro x; apply propext; omega
  simp only [this]; rfl

theorem placed_first (l : List Nat) (h : Vector Word 16) : ∀ n, (∀ x ∈ List.range n, x < 16 ∨ True) → ((List.range n).foldl (fun v i => if k : i < 16 then v.set i (BitVec.ofNat 64 (l.getD i 0)) k else v) h)[0] = if n = 0 then h[0] else BitVec.ofNat 64 (l.getD 0 0) := by
  intro n _
  induction n with
  | zero => rfl
  | succ n ih =>
    rw [List.range_succ, List.foldl_append]
    have ih := ih (by simp)
    generalize (List.range n).foldl _ h = V at *
    simp only [List.foldl]
    split
    · rw [Vector.getElem_set]
      by_cases q : n = 0
      · simp [q]
      · simp [q, ih]
    · rw [ih]; rename_i q; simp; omega

theorem yield_plain (s : State) (n : Nat) (hp : s.Plain) (h1 : s.task.pendErr = none) (h2 : (s.alone && s.outranked) = false) :
    yield n s = .next ((s.past n).setTask { s.task with watchdog := 0 }) := by
  unfold yield
  dsimp only
  have e1 : (s.setTask { s.task with watchdog := 0 }).task.pendErr = none := h1
  have e2 : ((s.setTask { s.task with watchdog := 0 }).alone && (s.setTask { s.task with watchdog := 0 }).outranked) = false := h2
  rw [e1]; dsimp only; rw [e2, if_neg (by decide)]
  exact finish_of (t := s.setTask { s.task with watchdog := 0 }) hp rfl

/-- A task that leaves with its context saved (R119, R269). -/
theorem yield_saves (s : State) (n k p : Nat) (st : TaskState) (hp : s.Plain) (hk : s.hart.slot = some k) (hk8 : k < 8) :
    ∃ m u c, (s.done n).saveContext p st = { s with mem := m, ue := u, ce := c, hart := { (s.past n).hart with slot := none }, task := { s.task with state := st, frame := [(p, 4736)], pinned := true }, tile := { s.tile with freeAt := s.tile.freeAt.set k (s.clk + 48) hk8 } } := by
  have h1 : s.done n = { s with hart := { (s.past n).hart with inRep := s.hart.inRep } } := by unfold State.done State.setHart; rw [advance_plain _ _ hp]; rfl
  rw [h1]
  unfold State.saveContext State.writePhys
  dsimp only
  have hs : ({ (s.past n).hart with inRep := s.hart.inRep } : Hart).slot = some k := hk
  split
  · rename_i j hj
    have e : j = k := by injection hj.symm.trans hs
    subst e
    rw [dif_pos hk8]
    exact ⟨_, _, _, rfl⟩
  · rename_i hj
    cases hj.symm.trans hs

theorem die_mod (u : State) (i : Nat) (f : Die → Die) (hf : ∀ d, (f d).idx = d.idx) : (u.modDie i f).dieAt i = f (u.dieAt i) := by
  have hix : (u.dieAt i).idx = i := by
    unfold State.dieAt; cases q : findBy Die.idx i u.dies with
    | none => rfl
    | some d => exact findBy_key q
  unfold State.modDie State.putDie
  show (findBy Die.idx i (putBy Die.idx (f (u.dieAt i)) u.dies)).getD _ = _
  rw [findBy_putBy, hf, hix, if_pos rfl]; rfl

theorem enqueue_timed (u : State) (tile : Nat) (r : TaskRec) (since : Option Nat) (h : u.ptp < r.release.toNat) (hw : u.wheelFull (dieOf tile) = false) :
    u.enqueue tile r since = u.modDie (dieOf tile) fun d => { d with wheel := d.wheel ++ [⟨{ r with home := tile }, none⟩] } := by
  unfold State.enqueue; rw [if_pos h]; dsimp only; rw [hw]; exact if_neg (by decide)

theorem enqueue_push (u : State) (tile : Nat) (r : TaskRec) (h : ¬ u.ptp < r.release.toNat) (hf : u.dequeFull tile = false) (hc : ¬ u.clk < (u.tileAt tile).dequeAt)
    (hw : (u.tileAt tile).waiting = []) : u.enqueue tile r = u.enterDeque tile r := by
  unfold State.enqueue State.pushRecord; rw [if_neg h]; dsimp only
  rw [hf, hw, if_neg (by decide), if_neg (by decide), if_neg]
  rintro (q | q)
  · exact hc q
  · exact absurd q (by decide)

theorem taken_same (s : State) (t : Task) (h1 : t.state = s.task.state) (h2 : t.frame = s.task.frame) : (s.setTask t).takenOnChip = s.takenOnChip := by
  unfold State.takenOnChip State.allTasks State.setTask
  dsimp only
  rw [h1]
  split
  · rfl
  · simp only [List.map_cons, h2]

theorem dequeFull_mono (u s : State) (i : Nat) (h1 : (u.tileAt i).deque = (s.tileAt i).deque) (h2 : (u.tileAt i).spill = (s.tileAt i).spill) (h0 : (u.tileAt i).waiting = (s.tileAt i).waiting)
    (hd : u.dies = s.dies) (h3 : u.harts = s.harts) (h4 : u.hart.live = s.hart.live) (h5 : u.hart.granted i = false) (h6 : u.hart.wait = none) (h : s.dequeFull i = false) : u.dequeFull i = false := by
  have key : ∀ P : Hart → Bool, P u.hart = false → (u.allHarts.filter P).length ≤ (s.allHarts.filter P).length := by
    intro P hP
    unfold State.allHarts
    rw [h3, h4]
    split
    · rw [List.filter_cons, List.filter_cons, hP, if_neg (by decide)]
      split <;> simp
    · exact Nat.le_refl _
  have hh : u.dieAt (dieOf i) = s.dieAt (dieOf i) := by unfold State.dieAt; rw [hd]
  unfold State.dequeFull at h ⊢
  rw [decide_eq_false_iff_not] at h ⊢
  refine fun q => h (Nat.le_trans q ?_)
  rw [h1, h2, h0, hh]
  refine Nat.add_le_add_right (Nat.add_le_add_left (key _ ?_) _) _
  rw [h5, h6]; rfl

theorem modTile_focus (u : State) (i : Nat) (f : Tile → Tile) (hu : u.tile.idx = i) (hf : ∀ t, (f t).idx = t.idx) : u.modTile i f = { u with tile := f u.tile } := by
  unfold State.modTile State.putTile State.tileAt
  rw [if_pos hu, hf, if_pos rfl]

theorem push_idx (r : TaskRec) (clk : Nat) (t : Tile) : (t.push r clk).idx = t.idx := by
  unfold Tile.push; dsimp only; split
  · rfl
  · split <;> rfl

theorem tileAt_focus (u : State) (i : Nat) (h : u.tile.idx = i) : u.tileAt i = u.tile := if_pos h

theorem push_place (t : Tile) (r : TaskRec) (clk : Nat) (h : t.deque.length < 32) :
    (t.push r clk).deque = t.deque ++ [⟨r, clk, false, 0⟩] ∧ (t.push r clk).spill = t.spill ∧ (t.push r clk).freeAt = t.freeAt ∧ (t.push r clk).idx = t.idx := by
  unfold Tile.push; dsimp only; rw [if_pos h]; exact ⟨rfl, rfl, rfl, rfl⟩

/-- The record of the task in focus enters the deque of its tile, which has a place in hardware. -/
theorem enterDeque_focus (u : State) (i : Nat) (r : TaskRec) (hu : u.tile.idx = i) (hr : r.tid = u.task.tid) (hx : u.task.state ≠ .exited) (h : u.tile.deque.length < 32) :
    u.enterDeque i r = { u with tile := { u.tile.push r u.clk with dequeAt := u.clk + 1 }, task := { u.task with state := .queued } } := by
  obtain ⟨-, p2, -, p4⟩ := push_place u.tile r u.clk h
  unfold State.enterDeque
  have e1 : u.modTile i (fun t => { t.push r u.clk with dequeAt := u.clk + 1 }) = { u with tile := { u.tile.push r u.clk with dequeAt := u.clk + 1 } } :=
    modTile_focus _ _ _ hu fun t => push_idx r u.clk t
  have e2 : ({ u with tile := { u.tile.push r u.clk with dequeAt := u.clk + 1 } } : State).tileAt i = { u.tile.push r u.clk with dequeAt := u.clk + 1 } := if_pos (p4.trans hu)
  dsimp only
  rw [tileAt_focus _ _ hu, e1, e2]
  dsimp only
  rw [p2]
  have e3 : ∀ y : State, y.task = u.task → y.modTask r.tid (fun t => { t with state := .queued }) = { y with task := { u.task with state := .queued } } := by
    intro y hy
    have : y.taskAt? r.tid = some y.task := by unfold State.taskAt?; rw [hr, hy]; exact (if_pos rfl).trans (if_neg hx)
    unfold State.modTask; rw [this, hy]; unfold State.putTask; rw [hy]; exact if_pos rfl
  split
  · rw [if_neg (Nat.lt_irrefl _)]; exact e3 _ rfl
  · exact e3 _ rfl

/-! Standing in line. -/

theorem lineUp_only (s : State) (u : ServedBy) : ∃ o n, s.lineUp u = { s with hart := { s.hart with order := o }, nextId := n } := by
  unfold State.lineUp; split
  · exact ⟨s.hart.order, s.nextId, rfl⟩
  · exact ⟨_, _, rfl⟩

theorem lineUp_release (s : State) (u : ServedBy) (h : s.releaseWait = none) : (s.lineUp u).releaseWait = none := by
  obtain ⟨o, n, e⟩ := lineUp_only s u
  rw [e]
  have key (t : State) (h1 : t.ownEntries = s.ownEntries) (h2 : t.hart.posted = s.hart.posted) (h3 : t.remoteOpen t.hart.tid t.hart.no = s.remoteOpen s.hart.tid s.hart.no) : t.releaseWait = none := by
    unfold State.releaseWait at h ⊢
    rw [h1, h2, h3]
    split at h
    · cases h
    · rename_i g1
      split at h
      · cases h
      · rename_i g2
        split at h
        · cases h
        · rename_i g3
          rw [if_neg g1, if_neg g2, if_neg g3]
  exact key _ rfl rfl rfl

theorem lineUp_free (s : State) (u : ServedBy) (i : Nat) : (s.lineUp u).freeSlots i = s.freeSlots i := by
  obtain ⟨o, n, e⟩ := lineUp_only s u
  rw [e]
  unfold State.freeSlots State.slotFree State.allHarts
  dsimp only
  congr 1
  funext k
  split
  · rfl
  · rfl

end Sys2Proof.Machine
end

