-- ==== Sys2Proof/Tests/Slice0.lean ====
section
/-!
SUPPORT. The model's own tests: a word of every encoding, written out from the opcode table's match and fields, decodes to its instruction; each check of WellFormed refuses an ill-formed term; and for every obligation with hypotheses a small state meets them together. The expected values of the last part are the worked examples of the spec.
-/
namespace Sys2Proof.Tests
open Sys2Proof Sys2Proof.Machine

set_option Elab.async false

/-! # Decoding -/

set_option maxRecDepth 4000 in
theorem test_decode_compact :
    decodeTableWord 16 0x4E82 = some (.cAddi 20 19) ∧
    decodeTableWord 16 0x0F24 = some (.cMov 25 3) ∧
    decodeTableWord 16 0x1886 = some (.cAdd 4 6) ∧
    decodeTableWord 16 0x62E8 = some (.cLd 23 0 6) ∧
    decodeTableWord 16 0xD04A = some (.cSt 2 0 13) ∧
    decodeTableWord 16 0x234C = some (.cBeqz 26 8) ∧
    decodeTableWord 16 0x2DEE = some (.cBnez 15 11) ∧
    decodeTableWord 16 0xD950 = some (.cJ 1738) ∧
    decodeTableWord 16 0x0012 = some (.cYield) ∧
    decodeTableWord 16 0x0014 = some (.cNop) ∧
    decodeTableWord 16 0x0476 = some (.cQr 3 1) ∧
    decodeTableWord 16 0x01D8 = some (.cQw 14 0) := by
  decide

set_option maxRecDepth 4000 in
theorem test_decode_mop01 :
    decodeTableWord 32 0x001C3C83 = some (.add 25 3 14) ∧
    decodeTableWord 32 0x02248103 = some (.sub 2 8 18) ∧
    decodeTableWord 32 0x040E9D03 = some (.min 26 9 7) ∧
    decodeTableWord 32 0x060CB983 = some (.max 19 11 6) ∧
    decodeTableWord 32 0x080D7603 = some (.minu 12 23 6) ∧
    decodeTableWord 32 0x0A1A3203 = some (.maxu 4 3 13) ∧
    decodeTableWord 32 0x0C29BF83 = some (.slt 31 27 20) ∧
    decodeTableWord 32 0x0E2FDE83 = some (.sltu 29 29 23) ∧
    decodeTableWord 32 0x1016F983 = some (.and 19 15 11) ∧
    decodeTableWord 32 0x12265783 = some (.or 15 5 19) ∧
    decodeTableWord 32 0x14395F83 = some (.xor 31 21 28) ∧
    decodeTableWord 32 0x160E4903 = some (.andn 18 4 7) ∧
    decodeTableWord 32 0x182AAD03 = some (.sel 26 10 21) ∧
    decodeTableWord 32 0x1A35F483 = some (.sll 9 31 26) ∧
    decodeTableWord 32 0x1C284103 = some (.srl 2 4 20) ∧
    decodeTableWord 32 0x1E3F6A83 = some (.sra 21 22 31) ∧
    decodeTableWord 32 0x20004E83 = some (.clz 29 4) ∧
    decodeTableWord 32 0x22011283 = some (.ctz 5 17) ∧
    decodeTableWord 32 0x24004F03 = some (.popc 30 4) ∧
    decodeTableWord 32 0x26393183 = some (.mul 3 19 28) ∧
    decodeTableWord 32 0x282D8903 = some (.mulh 18 24 22) ∧
    decodeTableWord 32 0x2A2DD083 = some (.mulhu 1 29 22) ∧
    decodeTableWord 32 0x2C3E7503 = some (.div 10 7 31) ∧
    decodeTableWord 32 0x2E24D183 = some (.divu 3 13 18) ∧
    decodeTableWord 32 0x3032F403 = some (.rem 8 15 25) ∧
    decodeTableWord 32 0x320BFC83 = some (.remu 25 31 5) := by
  decide

set_option maxRecDepth 4000 in
theorem test_decode_mop02 :
    decodeTableWord 32 0xCDA1C505 = some (.addi 10 28 3290) ∧
    decodeTableWord 32 0xDC628885 = some (.andi 17 8 3526) ∧
    decodeTableWord 32 0xB7B5A885 = some (.ori 17 26 2939) ∧
    decodeTableWord 32 0x4D46EC05 = some (.xori 24 14 1236) ∧
    decodeTableWord 32 0x0138B285 = some (.slli 5 11 19) ∧
    decodeTableWord 32 0x4018E705 = some (.srli 14 14 1) ∧
    decodeTableWord 32 0x8218BF85 = some (.srai 31 11 33) ∧
    decodeTableWord 32 0x4A9A0905 = some (.slti 18 0 1193) ∧
    decodeTableWord 32 0xA32D7D05 = some (.sltiu 26 23 2610) := by
  decide

set_option maxRecDepth 4000 in
theorem test_decode_mop03 :
    decodeTableWord 32 0x1BA4E407 = some (.lui 8 56615) ∧
    decodeTableWord 32 0xC8E5FE87 = some (.addpc 29 411439) := by
  decide

set_option maxRecDepth 4000 in
theorem test_decode_mop04 :
    decodeTableWord 32 0xC9C19C89 = some (.beq 25 25 3228) ∧
    decodeTableWord 32 0xCD03E309 = some (.bne 6 30 3280) ∧
    decodeTableWord 32 0x2274C189 = some (.blt 3 12 551) ∧
    decodeTableWord 32 0x5317C689 = some (.bge 13 28 1329) ∧
    decodeTableWord 32 0x1AE95389 = some (.bltu 7 21 430) ∧
    decodeTableWord 32 0x4D7A0309 = some (.bgeu 6 0 1239) := by
  decide

set_option maxRecDepth 4000 in
theorem test_decode_mop05 :
    decodeTableWord 32 0xBA2B130B = some (.jal 6 762545) := by
  decide

set_option maxRecDepth 4000 in
theorem test_decode_mop06 :
    decodeTableWord 32 0x6A78408D = some (.jalr 1 4 13628) := by
  decide

set_option maxRecDepth 4000 in
theorem test_decode_mop07 :
    decodeTableWord 32 0x02A09C0F = some (.fadd 24 9 16 .rup .f64) ∧
    decodeTableWord 32 0x06CE7F0F = some (.fsub 30 7 7 .rdn .f64) ∧
    decodeTableWord 32 0x0827EF0F = some (.fmul 30 30 19 .rne .f32) ∧
    decodeTableWord 32 0x0CE1530F = some (.fma 6 21 16 .rdn .f32) ∧
    decodeTableWord 32 0x106ED08F = some (.fdiv 1 13 23 .rtz .f32) ∧
    decodeTableWord 32 0x1740598F = some (.fsqrt 19 5 .dyn .f64) ∧
    decodeTableWord 32 0x182CAB8F = some (.fmin 23 10 22 .f32) ∧
    decodeTableWord 32 0x1C18EA8F = some (.fmax 21 14 12 .f32) ∧
    decodeTableWord 32 0x2318EC8F = some (.fcmp 25 14 12 .ne .f64) ∧
    decodeTableWord 32 0x26801B0F = some (.fcvt 22 1 .otherPrec .rup .f64) ∧
    decodeTableWord 32 0x2A00C80F = some (.fclass 16 12 .f64) := by
  decide

set_option maxRecDepth 4000 in
theorem test_decode_mop08 :
    decodeTableWord 32 0x2917BE11 = some (.ldB 28 11 23 41) ∧
    decodeTableWord 32 0xF02E3711 = some (.ldBu 14 3 14 240) ∧
    decodeTableWord 32 0xF74DA611 = some (.ldH 12 10 13 247) ∧
    decodeTableWord 32 0x2B76F011 = some (.ldHu 0 15 22 43) ∧
    decodeTableWord 32 0xF48CC391 = some (.ldW 7 12 12 244) ∧
    decodeTableWord 32 0x2CB5D591 = some (.ldWu 11 13 21 44) ∧
    decodeTableWord 32 0x2BD9EC91 = some (.ldD 25 14 25 43) ∧
    decodeTableWord 32 0x0EE85511 = some (.ldv 10 5 8 14) := by
  decide

set_option maxRecDepth 4000 in
theorem test_decode_mop09 :
    decodeTableWord 32 0xF209E493 = some (.stB 9 14 9 242) ∧
    decodeTableWord 32 0x0A284B13 = some (.stH 22 4 8 10) ∧
    decodeTableWord 32 0xDE483013 = some (.stW 0 3 8 222) ∧
    decodeTableWord 32 0x80616613 = some (.stD 12 6 1 128) ∧
    decodeTableWord 32 0xA68F9693 = some (.stv 13 9 15 166) ∧
    decodeTableWord 32 0x1FA8D813 = some (.stlW 16 13 8 31) ∧
    decodeTableWord 32 0x42DAEB13 = some (.stlD 22 14 26 66) := by
  decide

set_option maxRecDepth 4000 in
theorem test_decode_mop0a :
    decodeTableWord 32 0x00380495 = some (.amoAdd 9 0 28 .w .none) ∧
    decodeTableWord 32 0x02525495 = some (.amoAnd 9 5 9 .d .none) ∧
    decodeTableWord 32 0x043CA195 = some (.amoOr 3 10 30 .w .none) ∧
    decodeTableWord 32 0x06226795 = some (.amoXor 15 6 17 .w .none) ∧
    decodeTableWord 32 0x09480E15 = some (.amoMin 28 0 4 .d .rel) ∧
    decodeTableWord 32 0x0AF88615 = some (.amoMax 12 8 28 .d .acq) ∧
    decodeTableWord 32 0x0DB86815 = some (.amoMinu 16 6 28 .w .ar) ∧
    decodeTableWord 32 0x0E78C395 = some (.amoMaxu 7 12 28 .d .none) ∧
    decodeTableWord 32 0x1108D795 = some (.amoSwap 15 13 4 .w .rel) ∧
    decodeTableWord 32 0x132E4315 = some (.cas 3 4 23 .w .rel) ∧
    decodeTableWord 32 0x141CE415 = some (.lda 8 14 14 .w) := by
  decide

set_option maxRecDepth 4000 in
theorem test_decode_mop0b :
    decodeTableWord 32 0x0095F617 = some (.calloc 12 31 10 .hbm) ∧
    decodeTableWord 32 0x02007017 = some (.cfree 7) ∧
    decodeTableWord 32 0x0580D517 = some (.cget 10 13 6) ∧
    decodeTableWord 32 0x060CD517 = some (.cnarrow 10 13 6) ∧
    decodeTableWord 32 0x080AA597 = some (.csplit 11 10 5) ∧
    decodeTableWord 32 0x0A00B017 = some (.cjoin 11 0) ∧
    decodeTableWord 32 0x0C38EA97 = some (.csendKeep 21 14 28) ∧
    decodeTableWord 32 0x0C448817 = some (.csendMove 16 8 2) ∧
    decodeTableWord 32 0x0C908597 = some (.csendAuto 11 8 8) ∧
    decodeTableWord 32 0x0CE8F497 = some (.csendDup 9 15 20) ∧
    decodeTableWord 32 0x0E224697 = some (.crecv 13 4 17 .task) ∧
    decodeTableWord 32 0x10402017 = some (.cwait 2 .nodr) ∧
    decodeTableWord 32 0x12002017 = some (.crevoke 2 .frozen) ∧
    decodeTableWord 32 0x14002017 = some (.cmarkFill 2) ∧
    decodeTableWord 32 0x14408017 = some (.cmarkFull 8) ∧
    decodeTableWord 32 0x14803017 = some (.cmarkClrp 3) := by
  decide

set_option maxRecDepth 4000 in
theorem test_decode_mop0c :
    decodeTableWord 32 0x0001D019 = some (.qw 29 0) ∧
    decodeTableWord 32 0x02040899 = some (.qr 17 2) ∧
    decodeTableWord 32 0x04093019 = some (.vqw 19 4) ∧
    decodeTableWord 32 0x06080699 = some (.vqr 13 4) ∧
    decodeTableWord 32 0x0822BE19 = some (.sfork 28 11 17) ∧
    decodeTableWord 32 0x0A016019 = some (.sjoin 22) ∧
    decodeTableWord 32 0x0C041019 = some (.chw 1 .s) ∧
    decodeTableWord 32 0x0E000119 = some (.chr 2 .n) := by
  decide

set_option maxRecDepth 4000 in
theorem test_decode_mop0d :
    decodeTableWord 32 0x003C609B = some (.spawn 1 6 30) ∧
    decodeTableWord 32 0x020CE79B = some (.spawnat 15 14 6) ∧
    decodeTableWord 32 0x0400001B = some (.joinw) ∧
    decodeTableWord 32 0x0600001B = some (.yield) ∧
    decodeTableWord 32 0x0800001B = some (.exit) ∧
    decodeTableWord 32 0x0A01B01B = some (.wakeat 27) := by
  decide

set_option maxRecDepth 4000 in
theorem test_decode_mop0e :
    decodeTableWord 32 0x0033F01D = some (.evth 31 25) ∧
    decodeTableWord 32 0x0200001D = some (.evret) ∧
    decodeTableWord 32 0x0401301D = some (.trap 19) ∧
    decodeTableWord 32 0x0600001D = some (.eret) ∧
    decodeTableWord 32 0x0800B69D = some (.rds 13 11) ∧
    decodeTableWord 32 0x0A02161D = some (.wrs 12 33) ∧
    decodeTableWord 32 0x0C00001D = some (.ewait) ∧
    decodeTableWord 32 0x0E00001D = some (.bkpt) := by
  decide

set_option maxRecDepth 4000 in
theorem test_decode_mop0f :
    decodeTableWord 32 0x4276129F = some (.oxl 5 1 8507) ∧
    decodeTableWord 32 0x0000241F = some (.oxlH 0 2) ∧
    decodeTableWord 32 0x5395BA1F = some (.oxli 4 27 10698) := by
  decide

set_option maxRecDepth 4000 in
theorem test_decode_mop10 :
    decodeTableWord 32 0x033051A1 = some (.vadd 3 5 24 .e5m2 1) ∧
    decodeTableWord 32 0x12BA2921 = some (.vsub 18 2 29 .f16 1) ∧
    decodeTableWord 32 0x2501C8A1 = some (.vmul 17 28 0 .e5m2 2) ∧
    decodeTableWord 32 0x341F4AA1 = some (.vfma 21 20 15 .f32 2) ∧
    decodeTableWord 32 0x441766A1 = some (.vfnma 13 22 11 .f32 2) ∧
    decodeTableWord 32 0x533C5C21 = some (.vmin 24 5 30 .e5m2 1) ∧
    decodeTableWord 32 0x610A07A1 = some (.vmax 15 0 5 .e5m2 0) ∧
    decodeTableWord 32 0x760194A1 = some (.vabs 9 25 .f32 3) ∧
    decodeTableWord 32 0x830130A1 = some (.vneg 1 19 .e5m2 1) := by
  decide

set_option maxRecDepth 4000 in
theorem test_decode_mop11 :
    decodeTableWord 32 0x077092A3 = some (.viadd 5 9 24 .i32 3 false) ∧
    decodeTableWord 32 0x13849923 = some (.visub 18 9 2 .i16 1 false) ∧
    decodeTableWord 32 0x21C10FA3 = some (.vimul 31 16 0 .i8 0 false) ∧
    decodeTableWord 32 0x37FAE6A3 = some (.vimac 13 14 29 .i8 3 false) := by
  decide

set_option maxRecDepth 4000 in
theorem test_decode_mop12 :
    decodeTableWord 32 0x00C52F25 = some (.vand 30 18 2 .e4m3 0) ∧
    decodeTableWord 32 0x132154A5 = some (.vor 9 21 16 .e5m2 1) ∧
    decodeTableWord 32 0x25C7E025 = some (.vxor 0 30 3 .i8 2) ∧
    decodeTableWord 32 0x37FEEBA5 = some (.vshl 23 14 31 .i8 3) ∧
    decodeTableWord 32 0x47C0A0A5 = some (.vshr 1 10 0 .i8 3) ∧
    decodeTableWord 32 0x55933CA5 = some (.vsra 25 19 9 .i16 2) := by
  decide

set_option maxRecDepth 4000 in
theorem test_decode_mop13 :
    decodeTableWord 32 0x294F4127 = some (.vcmp 2 20 7 .i32 0 true .lt) ∧
    decodeTableWord 32 0x294F4C27 = none ∧
    decodeTableWord 32 0x64187CA7 = some (.vsel 25 7 12 .f32 2) ∧
    decodeTableWord 32 0x70002127 = some (.vmskAnd 2 2 0) ∧
    decodeTableWord 32 0x800031A7 = some (.vmskOr 3 3 0) ∧
    decodeTableWord 32 0x90043127 = some (.vmskXor 2 3 2) ∧
    decodeTableWord 32 0xA0002027 = some (.vmskAndn 0 2 0) ∧
    decodeTableWord 32 0xB0012027 = some (.vmskMov 0 18) ∧
    decodeTableWord 32 0xC00014A7 = some (.vmskGet 9 1) := by
  decide

set_option maxRecDepth 4000 in
theorem test_decode_mop14 :
    decodeTableWord 32 0x0601BBA9 = some (.vrcp 23 27 .f32 3) ∧
    decodeTableWord 32 0x160056A9 = some (.vrsq 13 5 .f32 3) ∧
    decodeTableWord 32 0x268081A9 = some (.vsqrt 3 8 .f16 3) ∧
    decodeTableWord 32 0x30947CA9 = some (.vdiv 25 7 10 .f16 0) ∧
    decodeTableWord 32 0x4240F629 = some (.vexp 12 15 .bf16 1) ∧
    decodeTableWord 32 0x508019A9 = some (.vexp2 19 1 .f16 0) ∧
    decodeTableWord 32 0x62800129 = some (.vlog 2 0 .f16 1) ∧
    decodeTableWord 32 0x74813129 = some (.vlog2 2 19 .f16 2) ∧
    decodeTableWord 32 0x80407DA9 = some (.vtanh 27 7 .bf16 0) ∧
    decodeTableWord 32 0x94000729 = some (.vsigm 14 0 .f32 2) := by
  decide

set_option maxRecDepth 4000 in
theorem test_decode_mop15 :
    decodeTableWord 32 0x010C17AB = some (.vcvt 15 1 .i16 .e5m2 false 0) ∧
    decodeTableWord 32 0x4475F62B = some (.vqnt 12 31 26 .bf16 2 false) ∧
    decodeTableWord 32 0x51DD7DAB = some (.vdqn 27 23 14 .i8 0) ∧
    decodeTableWord 32 0x662FAAAB = some (.vbaddq 21 26 23 3) := by
  decide

set_option maxRecDepth 4000 in
theorem test_decode_mop16 :
    decodeTableWord 32 0x0264062D = some (.vperm 12 0 18 .bf16 1) ∧
    decodeTableWord 32 0x1300CFAD = some (.vbcast 31 12 .e5m2 1) ∧
    decodeTableWord 32 0x1D1DD72D = some (.vbcastLane 14 29 14 .e5m2 2) ∧
    decodeTableWord 32 0x7ED7F32D = some (.vbcastLaneHigh 6 31 11 .e4m3 3) ∧
    decodeTableWord 32 0x26803D2D = some (.vreds 26 3 .f16 3) ∧
    decodeTableWord 32 0x39C0B62D = some (.vredmMax 12 11 .i8 0 true) ∧
    decodeTableWord 32 0x47417C2D = some (.vredmMin 24 23 .i32 3 false) ∧
    decodeTableWord 32 0x5140082D = some (.vtrn .t1 .t0 .i32) ∧
    decodeTableWord 32 0x60047D2D = some (.vgx 26 7 .d) := by
  decide

set_option maxRecDepth 4000 in
theorem test_decode_mop17 :
    decodeTableWord 32 0xB69866AF = some (.vmovi 13 .i16 46744) ∧
    decodeTableWord 32 0xC04A8CAF = some (.vmuli 25 .f32 49226) ∧
    decodeTableWord 32 0x200AF12F = some (.vaddi 2 .i8 8202) := by
  decide

set_option maxRecDepth 4000 in
theorem test_decode_mop3e :
    decodeTableWord 32 0x000183FD = some (.rep 7 4 1) := by
  decide

set_option maxRecDepth 4000 in
theorem test_decode_mop18 :
    decodeTableWord 32 0x01A80231 = some (.oclm 4 21 true) ∧
    decodeTableWord 32 0x080008B1 = some (.orel 17) ∧
    decodeTableWord 32 0x104D82B1 = some (.old 5 0 8 5 .b 4) := by
  decide

set_option maxRecDepth 4000 in
theorem test_decode_mop19 :
    decodeTableWord 32 0x07E30033 = some (.mma .t0 0 0 3 false 7 7) ∧
    decodeTableWord 32 0x0AE7E833 = some (.mmap .t1 2 3 7 false 7 2) ∧
    decodeTableWord 32 0x10080033 = some (.mzero .t0 true) := by
  decide

set_option maxRecDepth 4000 in
theorem test_decode_mop1a :
    decodeTableWord 32 0x00057235 = some (.hbind 4 7 5) ∧
    decodeTableWord 32 0x0AC1BD35 = some (.mmd 10 .t1 11 1 false 6 2) ∧
    decodeTableWord 32 0x10000135 = some (.hkill 2 false) ∧
    decodeTableWord 32 0x18500F35 = some (.hstat 30 10 false) := by
  decide

set_option maxRecDepth 4000 in
theorem test_decode_mop1b :
    decodeTableWord 32 0x00013337 = some (.ggeoRng 6 3 1) ∧
    decodeTableWord 32 0x08690237 = some (.ggeoEdge 4 1 13) := by
  decide

set_option maxRecDepth 4000 in
theorem test_decode_mop1c :
    decodeTableWord 32 0x00E6D1B9 = some (.copy 3 13 3 28 false) ∧
    decodeTableWord 32 0x050043B9 = some (.copyMove 7 4 true) ∧
    decodeTableWord 32 0x02007739 = some (.copyAuto 14 7 false) ∧
    decodeTableWord 32 0x08909039 = some (.copyPkt 9 18) ∧
    decodeTableWord 32 0x13BCBA39 = some (.copym 4 2 11 4 .b 3 7 false) ∧
    decodeTableWord 32 0x1C8372B9 = some (.gath 5 7 3 false 9) ∧
    decodeTableWord 32 0x24240339 = some (.fill 6 2 4 true) := by
  decide

set_option maxRecDepth 4000 in
theorem test_decode_mop1d :
    decodeTableWord 32 0x0003803B = some (.srinv 8 3) ∧
    decodeTableWord 32 0x0400003B = some (.srinvAll) ∧
    decodeTableWord 32 0x0817373B = some (.qapp 14 3 7 2 false) ∧
    decodeTableWord 32 0x1602F03B = some (.selt 0 15 1 true true) := by
  decide

set_option maxRecDepth 4000 in
theorem test_decode_mop1e :
    decodeTableWord 32 0x000390BD = some (.halo 1 9 3 .n false) ∧
    decodeTableWord 32 0x0860603D = some (.mbox 6 12) ∧
    decodeTableWord 32 0x0CB8203D = some (.mboxWait 2 23) ∧
    decodeTableWord 32 0x1048503D = some (.bara 5 true 4 0) ∧
    decodeTableWord 32 0x1800003D = some (.barw) ∧
    decodeTableWord 32 0x20B8303D = some (.bar 3 true 3 1) := by
  decide

set_option maxRecDepth 4000 in
theorem test_decode_mop1f :
    decodeTableWord 32 0x04000BBF = some (.scnb 23 2) ∧
    decodeTableWord 32 0x080004BF = some (.scnp 9 0) ∧
    decodeTableWord 32 0x140006BF = some (.scng 13 2) ∧
    decodeTableWord 32 0x1A00013F = some (.scne 2 1) ∧
    decodeTableWord 32 0x1D00003F = some (.scneClose 0 2) ∧
    decodeTableWord 32 0x22C50D3F = some (.swcr 26 5 11) ∧
    decodeTableWord 32 0x2B4109BF = some (.swadd 19 1 13) ∧
    decodeTableWord 32 0x3080003F = some (.swdel 2) ∧
    decodeTableWord 32 0x3F800FBF = some (.swnxt 31 30) ∧
    decodeTableWord 32 0x4680023F = some (.swrpt 4 26) ∧
    decodeTableWord 32 0x4A46033F = some (.swset 6 6 9) ∧
    decodeTableWord 32 0x4A89003F = some (.swsetNb 1 10) ∧
    decodeTableWord 32 0x54B80CBF = some (.swnb 25 true 3 18) ∧
    decodeTableWord 32 0x5E8009BF = some (.swadv 19 26) := by
  decide

/-! # Terms that no encoding holds (R58) -/

theorem test_ill_formed_registers : ((.cAddi 0 1 : Instr).wf || (.cMov 0 1 : Instr).wf || (.cAdd 0 1 : Instr).wf || (.cas 0 1 2 .w .none : Instr).wf || (.crecv 1 3 2 .task : Instr).wf ||
    (.csendKeep 1 2 3 : Instr).wf || (.csendMove 1 2 3 : Instr).wf || (.csendAuto 1 2 3 : Instr).wf || (.csendDup 1 2 3 : Instr).wf || (.ggeoRng 1 2 3 : Instr).wf) = false := by decide
theorem test_ill_formed_queues : ((.cQr 1 4 : Instr).wf || (.cQw 1 4 : Instr).wf || (.qr 1 4 : Instr).wf || (.qw 1 4 : Instr).wf || (.vqr 1 3 : Instr).wf || (.vqw 1 3 : Instr).wf) = false := by decide
theorem test_ill_formed_special : ((.rds 1 15 : Instr).wf || (.wrs 1 0x38 : Instr).wf || (.wrs 1 0x1F : Instr).wf || (.rds 1 0x24 : Instr).wf) = false := by decide
theorem test_ill_formed_float : ([Instr.vadd 1 2 3 .i32 0, .vsub 1 2 3 .i32 0, .vmul 1 2 3 .i16 0, .vfma 1 2 3 .i8 0, .vfnma 1 2 3 .i8 0, .vmin 1 2 3 .i32 0, .vmax 1 2 3 .i32 0, .vabs 1 2 .i16 0, .vneg 1 2 .i8 0, .vmuli 1 .i32 0].any Instr.wf) = false := by decide
theorem test_ill_formed_integer : ([Instr.viadd 1 2 3 .f32 0 false, .visub 1 2 3 .bf16 0 false, .vimul 1 2 3 .f16 0 false, .vimac 1 2 3 .e4m3 0 false, .vshl 1 2 3 .f32 0, .vshr 1 2 3 .e5m2 0, .vsra 1 2 3 .f32 0, .vaddi 1 .f32 0,
    .vcmp 1 2 3 .f32 0 true .lt, .vredmMax 1 2 .f32 0 true, .vredmMin 1 2 .bf16 0 true].any Instr.wf) = false := by decide
theorem test_ill_formed_wide : ([Instr.vrcp 1 2 .e4m3 0, .vrsq 1 2 .i32 0, .vsqrt 1 2 .e5m2 0, .vdiv 1 2 3 .e4m3 0, .vexp 1 2 .i8 0, .vexp2 1 2 .e4m3 0, .vlog 1 2 .e4m3 0, .vlog2 1 2 .e5m2 0, .vtanh 1 2 .i16 0, .vsigm 1 2 .e4m3 0, .vreds 1 2 .e4m3 0].any Instr.wf) = false := by decide
theorem test_ill_formed_lanes : ([Instr.vcvt 1 2 .f32 .f32 false 1, .vcvt 1 2 .f32 .bf16 false 2, .vbcastLane 1 2 16 .f32 0, .vbcastLaneHigh 1 2 3 .bf16 0, .vtrn .t0 .t1 .bf16].any Instr.wf) = false := by decide
theorem test_ill_formed_engines : ([Instr.hkill 1 true, .gath 1 2 6 false 3, .bara 1 false 0 2, .bara 0 true 0 10, .bar 1 false 0 2, .bar 0 true 0 10].any Instr.wf) = false := by decide
/-- The words of C_ADDI with d = 0, QW with n = 4 and RDS of register 0x00F are no instructions. -/
theorem test_reserved_words : decodeTableWord 16 0x0402 = none ∧ decodeTableWord 32 (0x19 + 4 * 2 ^ 17) = none ∧ decodeTableWord 32 (0x0800001D + 0xF * 2 ^ 12) = none ∧ decodeTableWord 32 0xFFFFFFFF = none := by decide

/-! # Small states -/

/-- Task 1 of a launch on tile 0, its one stream in slot 0 at U; the code is record 1, 4096 bytes at address 0. -/
def run : State := State.reset.placeCode []
/-- As run, with the general registers that a list gives, from x1 on. -/
def withX (l : List Word) (s : State) : State := s.setHart { s.hart with x := Vector.ofFn fun i => if i.val = 0 then 0 else l.getD (i.val - 1) 0 }
/-- A buffer of task 1 with all rights: record img, len bytes at an address. -/
def buf (img a len : Nat) (kind : CapKind := .excl) : CapRec := CapRec.fresh img a .tile kind len 0 1
/-- The records of a list stand in the quire, and the handles from h1 on name them. -/
def withCaps (l : List CapRec) (s : State) : State :=
  let s := l.foldl State.putRec s
  s.setTask { s.task with h := Vector.ofFn fun i => if i.val = 0 then 0 else match l[i.val - 1]? with | some c => BitVec.ofNat 64 c.image | none => 0 }
/-- As run, with a supervisor vector. -/
def handled : State := { run with launches := run.launches.map fun l => { l with vector := 0x100 } }
/-- A record found at a home, with the state that the search leaves. -/
def found : Found → Option (CapRec × Home × State)
  | .at_ c h s => some (c, h, s)
  | _ => none
theorem found_eq {f : Found} {c : CapRec} {h : Home} {s : State} (e : found f = some (c, h, s)) : f = .at_ c h s := by
  cases f <;> simp_all [found]
/-- The record that a check of a handle gives. -/
def passes : Except TrapInfo CapRec → Option CapRec
  | .ok c => some c
  | .error _ => none
theorem passes_eq {r : Except TrapInfo CapRec} {c : CapRec} (e : passes r = some c) : r = .ok c := by
  cases r <;> simp_all [passes]
theorem noPairs_of {s : State} (e : s.hartsOf s.task.tid = [s.hart]) (w : s.hart.wait = none) : s.NoPairs := by
  intro h hh; rw [e, List.mem_singleton] at hh; subst hh; rw [w]; trivial
theorem canonical_of {s : State} (a : Memory.wf s.mem = true) (b : Quire.wf s.quire = true) (c : s.images = []) : s.Canonical :=
  ⟨⟨a, b⟩, by simp [c]⟩
/-- The record that the gate of an engine gives. -/
def gated : Gate → Option CapRec
  | .ok c => some c
  | _ => none
theorem gated_eq {g : Gate} {c : CapRec} (e : gated g = some c) : g = .ok c := by
  cases g <;> simp_all [gated]
/-- The state after an instruction, where it goes on. -/
def goes (i : Instr) (s : State) : Bool := match exec i s with | .next _ => true | _ => false
def after (i : Instr) (s : State) : State := match exec i s with | .next t => t | _ => s
theorem after_eq {i : Instr} {s : State} (h : goes i s = true) : exec i s = .next (after i s) := by
  unfold goes at h; unfold after; split at h
  · rename_i t e; rw [e]
  · simp at h

/-! # What the statements assume, met by a state -/

theorem witness_integers : run.Plain ∧ (withX [0, 0x8000000000000000, -1] run).x 1 = 0 ∧ (withX [0, 0x8000000000000000, -1] run).x 2 = 0x8000000000000000 ∧
    (withX [0, 0x8000000000000000, -1] run).x 3 = -1 := by
  refine ⟨rfl, ?_, ?_, ?_⟩ <;> decide +kernel
theorem witness_branches : (withX [1, 2] run).Plain ∧ (BitVec.ofInt 64 (((withX [1, 2] run).x 1).toInt + (0 : BitVec 15).toInt)).getLsbD 0 = true ∧
    (BitVec.ofInt 64 (((withX [1, 2] run).x 2).toInt + (0 : BitVec 15).toInt)).getLsbD 0 = false := by
  refine ⟨rfl, ?_, ?_⟩ <;> decide +kernel
theorem witness_trap_entry : handled.Handled ∧ Cause.ill ≠ .revk ∧ (255 : Nat) < 256 ∧ (4 : Word).getLsbD 0 = false ∧ handled.hart.errstSeiz = none :=
  ⟨⟨rfl, by decide +kernel, noPairs_of (by decide +kernel) rfl⟩, by decide, by decide, by decide, rfl⟩
/-- As run, in the supervisor handler, with x31 = w. -/
def inHandler (w : Word) : State := run.setHart { run.hart with level := .s, x := run.hart.x.set 31 w }
theorem witness_eret : (inHandler 4).hart.level = .s ∧ ((inHandler 4).x 31).getLsbD 0 = false ∧ (inHandler 4).hart.errstSeiz = none ∧ ((inHandler 5).x 31).getLsbD 0 = true ∧ run.hart.level = .u := by
  decide +kernel
/-- As run, in an event handler, with x31 = w. -/
def inEvent (w : Word) : State := run.setHart { run.hart with evhpc := 2 ^ 63, x := run.hart.x.set 31 w }
theorem witness_user_events : (inEvent 4).Plain ∧ wordBits 63 63 (inEvent 4).hart.evhpc = 1 ∧ ((inEvent 4).x 31).getLsbD 0 = false ∧ ((inEvent 5).x 31).getLsbD 0 = true ∧
    wordBits 63 63 run.hart.evhpc = 0 ∧ run.releaseWait = none ∧ run.task.pendErr = none ∧
    (let s := withX [0xFFFFFFFFFFFE, 7, 2 ^ 48] run
     ((s.x 1).getLsbD 0 = false ∧ wordBits 63 48 (s.x 1) = 0 ∧ wordBits 63 3 (s.x 2) = 0) ∧ ¬(wordBits 63 48 (s.x 3) = 0)) := by
  refine ⟨rfl, ?_⟩; decide +kernel
theorem witness_special_registers : let s := withX [12, 31, 0xFFFFFFFF] run
    s.Plain ∧ s.hart.level = .u ∧ (s.x 1).toNat < 16 ∧ (s.x 1).toNat % 8 ≤ 4 ∧ (s.x 2).toNat < 32 ∧ (s.x 3).toNat < 2 ^ 32 := by
  refine ⟨rfl, ?_⟩; decide +kernel
theorem witness_scalar_float : let s := withX [0x7FC00000, 0x3F800000] run
    s.Plain ∧ (2 : BitVec 5) ≠ 0 ∧ (s.fpRead .f32 1).isNaN = true ∧ (s.fpRead .f32 2).isNaN = false := by
  refine ⟨rfl, ?_⟩; decide +kernel

/-- Buffers of task 1: h1 of 64 bytes at 0x1000, then one filling, one revoked, one poisoned, one of another owner, one without WR and a COMMONS one. x1 = 8, x2 = 0, x3 = 64. -/
def loads : State := withX [8, 0, 64] (withCaps [buf 2 0x1000 64, { buf 3 0x2000 64 with state := .filling }, { buf 4 0x3000 64 with revoked := true }, { buf 5 0x4000 64 with poisoned := true },
  { buf 6 0x5000 64 with owner := 2 }, { buf 7 0x6000 64 with rights := ⟨true, true, false, true⟩ }, buf 8 0x7000 64 .commons] run)
theorem witness_loads (n : Nat) (h : n = 1 ∨ n = 2 ∨ n = 4 ∨ n = 8) : loads.Loads 1 (loads.x 1 + BitVec.ofNat 64 (0 * n)) n (buf 2 0x1000 64) 0x1008 := by
  rcases h with rfl | rfl | rfl | rfl <;> exact ⟨found_eq (by decide +kernel), rfl, by decide +kernel, by decide +kernel, by decide +kernel⟩
theorem witness_row_loads : loads.Plain ∧ loads.rowWait [2] = none ∧ loads.Loads 1 (loads.x 2 + BitVec.ofNat 64 (0 * 64)) 64 (buf 2 0x1000 64) 0x1000 ∧
    loads.Loads 1 (BitVec.ofInt 64 ((7 : BitVec 15).toInt * 8)) 8 (buf 2 0x1000 64) 0x1038 ∧ loads.Loads ((1 : BitVec 2).zeroExtend 4) (BitVec.ofNat 64 (7 * 8)) 8 (buf 2 0x1000 64) 0x1038 := by
  refine ⟨rfl, by decide +kernel, ⟨found_eq ?_, rfl, ?_, ?_, ?_⟩, ⟨found_eq ?_, rfl, ?_, ?_, ?_⟩, ⟨found_eq ?_, rfl, ?_, ?_, ?_⟩⟩ <;> decide +kernel
theorem witness_access_checks : loads.Plain ∧ passes (loads.checkHandle 1 needRD) = some (buf 2 0x1000 64) ∧ passes (loads.checkHandle 8 needRD) = none ∧ passes (loads.checkHandle 6 needWR) = none ∧
    ((1 : Word).toNat % 2 ≠ 0) ∧ ((loads.x 3).toNat % 8 = 0 ∧ (buf 2 0x1000 64).len < (loads.x 3).toNat + 8) ∧
    (passes (loads.checkHandle 7 needRD) = some (buf 8 0x7000 64 .commons) ∧ loads.admits (buf 8 0x7000 64 .commons) (.load false) = .no subKIND) := by
  refine ⟨rfl, ?_, ?_, ?_, ?_, ?_, ?_⟩ <;> decide +kernel
theorem witness_handle_checks : loads.quireBad = [] ∧ loads.handle 8 = 0 ∧ (loads.handle 5 ≠ 0 ∧ ∃ c, loads.rec? (imgOf (loads.handle 5)) = some c ∧ c.usableBy loads.task = false) ∧
    (∃ c, loads.handle 3 ≠ 0 ∧ loads.rec? (imgOf (loads.handle 3)) = some c ∧ c.usableBy loads.task = true ∧ c.revoked = true) ∧
    (∃ c, loads.handle 4 ≠ 0 ∧ loads.rec? (imgOf (loads.handle 4)) = some c ∧ c.usableBy loads.task = true ∧ c.revoked = false ∧ c.poisoned = true) ∧
    (∃ c, loads.handle 1 ≠ 0 ∧ loads.rec? (imgOf (loads.handle 1)) = some c ∧ c.usableBy loads.task = true ∧ c.revoked = false ∧ c.poisoned = false ∧ c.rights.lacks needRD = false) ∧
    ((loads.dropRec 2).handle 1 ≠ 0 ∧ (loads.dropRec 2).rec? (imgOf ((loads.dropRec 2).handle 1)) = none) := by
  refine ⟨?_, ?_, ⟨?_, { buf 6 0x5000 64 with owner := 2 }, ?_, ?_⟩, ⟨{ buf 4 0x3000 64 with revoked := true }, ?_, ?_, ?_, ?_⟩, ⟨{ buf 5 0x4000 64 with poisoned := true }, ?_, ?_, ?_, ?_, ?_⟩, ⟨buf 2 0x1000 64, ?_, ?_, ?_, ?_, ?_, ?_⟩, ?_, ?_⟩ <;> decide +kernel

theorem witness_stores (n : Nat) (h : n = 1 ∨ n = 2 ∨ n = 4 ∨ n = 8) (release : Bool) : loads.Stores 1 (loads.x 1 + BitVec.ofNat 64 (0 * n)) n release (buf 2 0x1000 64) 0x1008 := by
  rcases h with rfl | rfl | rfl | rfl <;> exact ⟨found_eq (by decide +kernel), by decide, by decide +kernel, .inr (by decide +kernel)⟩
theorem witness_row_stores : loads.rowWait [2] = none ∧ loads.Stores 1 (loads.x 2 + BitVec.ofNat 64 (0 * 64)) 64 false (buf 2 0x1000 64) 0x1000 ∧
    loads.Stores ((1 : BitVec 2).zeroExtend 4) (BitVec.ofNat 64 (7 * 8)) 8 false (buf 2 0x1000 64) 0x1038 := by
  refine ⟨by decide +kernel, ⟨found_eq ?_, ?_, ?_, .inr ?_⟩, ⟨found_eq ?_, ?_, ?_, .inr ?_⟩⟩ <;> decide +kernel
/-- The entry that a byte store to 0x1008 leaves in the store buffer. -/
def stored : SbEntry := { id := 0, key := 2, asid := 0, image := (buf 2 0x1000 64).image, words := false, packable := false, slot := 0, tid := 1, no := 0, handle := 1, img := 2, granule := 0, mask := 256, data := 0, version := 0, release := false, home := .mem 0x1000, due := 0 }
def draining : State := loads.setTile { loads.tile with sb := [stored] }
theorem witness_drains : draining.Canonical ∧ draining.drains 0 0 = true ∧ (draining.tileAt 0).sb[0]? = some stored ∧ stored.home = .mem 0x1000 ∧ 0x1000 + 64 ≤ 2 ^ 41 := by
  refine ⟨canonical_of ?_ ?_ rfl, ?_, ?_, ?_, ?_⟩ <;> decide +kernel
theorem witness_atomics (z : Sz) (o : Order) : loads.Plain ∧ loads.Canonical ∧ loads.Atomic 1 (loads.x 1) (szBytes z) o (buf 2 0x1000 64) 0x1008 := by
  refine ⟨rfl, canonical_of (by decide +kernel) (by decide +kernel) rfl, passes_eq (by decide +kernel), .inl ⟨rfl, by decide +kernel⟩, .inl rfl, by cases z <;> decide +kernel, by cases z <;> decide +kernel,
    fun _ => by decide +kernel, by decide +kernel, found_eq (by decide +kernel), by cases z <;> decide +kernel, by cases z <;> decide +kernel⟩
theorem witness_lda (z : Sz) : loads.find 1 (loads.x 1) (szBytes z) needRD (.load true) false = .at_ (buf 2 0x1000 64) (.mem 0x1008) loads ∧ isView 0x1008 = false := by
  refine ⟨by cases z <;> exact found_eq (by decide +kernel), by decide +kernel⟩

theorem witness_calloc : let n := (loads.x 3).toNat
    loads.handle 8 = 0 ∧ wordBits 63 26 (loads.x 2) = 0 ∧ kindFits (kindOfCode (wordBits 25 24 (loads.x 2))) .tile = true ∧ 0 < n ∧ n ≤ levelMax .tile ∧
    kindOfCode (wordBits 25 24 (loads.x 2)) ≠ .phase ∧ (loads.freeRecord (dieOf loads.tile.idx)).isSome = true ∧ (loads.takeStorage .tile .excl n).isSome = true := by decide +kernel
theorem witness_calloc_full : (loads.takeStorage .tile .excl (2 ^ 18)).isSome = false := by decide +kernel
/-- Buffers of task 1: a root, a fraction of it with two shares, a COMMONS root and its duplicate, one lent by a launch, a root with one frozen fraction out, and that fraction. -/
def shares : State := withX [1, 2, 3 * 2 ^ 32] (withCaps [{ buf 2 0x1000 64 with count := 2 }, { buf 3 0x1000 64 .frac with count := 2, root := 2, rights := ⟨false, true, false, true⟩ },
  { buf 4 0x2000 64 .commons with count := 2 }, { buf 5 0x2000 64 .commons with root := 4 }, { buf 6 0x3000 64 with owner := launchOwner, launch := some 0 }, buf 7 0x4000 64, { buf 8 0x5000 64 with count := 1 }, { buf 9 0x5000 64 .frac with count := 1, root := 8, frozen := true }] run)
theorem witness_cfree : shares.Canonical ∧ (∃ c, passes (shares.checkHandle 6 needNone) = some c ∧ c.owner ≠ launchOwner ∧ shares.admits c .free = .ok ∧ c.kind ≠ .commons ∧ c.level = .tile ∧ c.window = false) ∧
    (∃ c r, passes (shares.checkHandle 4 needNone) = some c ∧ shares.admits c .free = .ok ∧ c.kind = .commons ∧ c.isRoot = false ∧ c.root ≠ c.img ∧ shares.rec? c.root = some r ∧ 1 < r.count) := by
  refine ⟨canonical_of ?_ ?_ rfl, ⟨buf 7 0x4000 64, ?_⟩, ⟨{ buf 5 0x2000 64 .commons with root := 4 }, { buf 4 0x2000 64 .commons with count := 2 }, ?_⟩⟩ <;> decide +kernel
theorem witness_cget : loads.handle 1 ≠ 0 ∧ loads.rec? (imgOf (loads.handle 1)) = some (buf 2 0x1000 64) ∧ loads.handle 9 = 0 := by decide +kernel
theorem witness_cnarrow : shares.Plain ∧ shares.handle 9 = 0 ∧ passes (shares.checkHandle 6 needNone) = some (buf 7 0x4000 64) ∧ (buf 7 0x4000 64).owner ≠ launchOwner ∧ (buf 7 0x4000 64).count = 0 ∧
    passes (shares.checkHandle 1 needNone) = some { buf 2 0x1000 64 with count := 2 } := by refine ⟨rfl, ?_⟩; decide +kernel
theorem witness_csplit : (∃ c, passes (shares.checkHandle 1 needXFER) = some c ∧ shares.admits c .split = .ok ∧ (shares.freeRecord (c.root / 2 ^ 20)).isSome = true ∧ c.proxy = none ∧ c.kind = .excl ∧ c.root = c.img ∧
      1 ≤ (shares.x 1).toNat ∧ c.count + (shares.x 1).toNat ≤ 64) ∧
    (∃ c, passes (shares.checkHandle 2 needXFER) = some c ∧ shares.admits c .split = .ok ∧ (shares.freeRecord (c.root / 2 ^ 20)) = some 10 ∧ c.proxy = none ∧ c.kind = .frac ∧ c.root ≠ c.img ∧ c.root ≠ 10 ∧
      1 ≤ (shares.x 1).toNat ∧ (shares.x 1).toNat < c.count) := by
  refine ⟨⟨{ buf 2 0x1000 64 with count := 2 }, ?_⟩, ⟨{ buf 3 0x1000 64 .frac with count := 2, root := 2, rights := ⟨false, true, false, true⟩ }, ?_⟩⟩ <;> decide +kernel
theorem witness_cjoin : ∃ a b, passes (shares.checkHandle 1 needNone) = some a ∧ passes (shares.checkHandle 2 needNone) = some b ∧ b.kind = .frac ∧ a.rootKey = b.rootKey ∧ a.img ≠ b.img := by
  refine ⟨{ buf 2 0x1000 64 with count := 2 }, { buf 3 0x1000 64 .frac with count := 2, root := 2, rights := ⟨false, true, false, true⟩ }, ?_⟩; decide +kernel
theorem witness_crevoke : (∃ c, passes (shares.checkHandle 7 needROOT) = some c ∧ c.grants = [] ∧
      (shares.quire.filter fun f => f.kind == .frac && f.root == c.img && f.proxy.isNone && !f.revoked && f.frozen) ≠ [] ∧ c.kind ≠ .frac) ∧
    (∃ c, passes (shares.checkHandle 6 needROOT) = some c ∧ c.grants = [] ∧ (shares.quire.filter fun f => f.kind == .frac && f.root == c.img && f.proxy.isNone && !f.revoked) = []) := by
  refine ⟨⟨{ buf 8 0x5000 64 with count := 1 }, ?_⟩, ⟨buf 7 0x4000 64, ?_⟩⟩ <;> decide +kernel
theorem witness_cmark : (passes (loads.checkHandle 1 needWR) = some (buf 2 0x1000 64) ∧ (buf 2 0x1000 64).state = .full ∧ (buf 2 0x1000 64).count = 0 ∧ (buf 2 0x1000 64).isRoot = true) ∧
    (∃ c, passes (loads.checkHandle 2 needWR) = some c ∧ c.kind = .excl ∧ c.state = .filling ∧ c.writers = 0 ∧ loads.releaseWait = none) ∧
    (∃ c, passes (loads.checkHandle 4 needWR true) = some c ∧ c.kind = .excl ∧ c.isRoot = true ∧ c.count = 0 ∧ c.state = .full) := by
  refine ⟨?_, ⟨{ buf 3 0x2000 64 with state := .filling }, ?_⟩, ⟨{ buf 5 0x4000 64 with poisoned := true }, ?_⟩⟩ <;> decide +kernel
theorem witness_cwait : passes (loads.checkHandle 1 needNone) = some (buf 2 0x1000 64) ∧ loads.capState (buf 2 0x1000 64) = .full ∧
    (buf 2 0x1000 64).isRoot = true ∧
    loads.capCount (buf 2 0x1000 64) = 0 ∧ (let f := { buf 3 0x1000 64 .frac with count := 2, root := 2, rights := ⟨false, true, false, true⟩ }; passes (shares.checkHandle 2 needNone) = some f ∧ f.isRoot = false) := by decide +kernel

/-- Task 2 of the launch, on the tile east of tile 0, with the state s of task 1. -/
def task2 : Task := { Task.blank with tid := 2, state := .running, tile := tileIx 0 1, coord := some (0, 1), join := 1 }
def two (s : State) : State := { s with tasks := [task2], launches := s.launches.map fun l => { l with cols := 2, members := [(0, 0, 1), (0, 1, 2)] } }
/-- Two tasks; the registers of task 1 name task 2, a task that has ended, the inbox of tile 0 and a task inbox of a COMMONS message. -/
def sending : State := withX [2 * 2 ^ 32, 7 * 2 ^ 32, 1, 0] (two shares)
theorem witness_csend : sending.Plain ∧ passes (sending.checkHandle 6 needXFER) = some (buf 7 0x4000 64) ∧ sending.releaseWait = none ∧
    (∀ p < 3, sending.admits (buf 7 0x4000 64) (.send p) = .ok) ∧
    (sending.x 1 = BitVec.ofNat 64 (2 * 2 ^ 32 + 0) ∧ sending.taskAt? 2 = some task2 ∧ sending.taskInboxFull task2 = false) ∧
    (sending.x 2 = BitVec.ofNat 64 (7 * 2 ^ 32 + 0) ∧ sending.taskAt? 7 = none ∧ sending.task.state ≠ .exited ∧ sending.task.inbox.length < 8 ∧ sending.task.returns = []) ∧
    (sending.x 3 = BitVec.ofNat 64 (0 * 2 ^ 32 + 1) ∧ sending.tenantOn 0 sending.task.asid = true ∧ sending.tileInboxFull 0 = false) := by
  refine ⟨rfl, ?_⟩; decide +kernel
theorem witness_csend_dup : ∃ c root, passes (sending.checkHandle 4 needXFER) = some c ∧ c.kind = .commons ∧ c.img ≠ c.root ∧ sending.freeRecord (c.root / 2 ^ 20) = some 10 ∧ 10 ≠ c.root ∧ sending.rec? c.root = some root := by
  refine ⟨{ buf 5 0x2000 64 .commons with root := 4 }, { buf 4 0x2000 64 .commons with count := 2 }, ?_⟩; decide +kernel
/-- A message that carries buffer 7. -/
def msg : Msg := { cap := some 7, p0 := 5, p1 := 6, sender := 2, asid := 0 }
def receiving : State := (shares.setTask { shares.task with inbox := [msg] }).setTile { shares.tile with inbox := [{ msg with asid := 1 }, msg] }
theorem witness_crecv : receiving.Plain ∧ receiving.handle 9 = 0 ∧ receiving.task.inbox = msg :: [] ∧ receiving.tile.inbox = [{ msg with asid := 1 }] ++ msg :: [] ∧ msg.asid = receiving.task.asid ∧ run.task.inbox = [] := by
  refine ⟨rfl, ?_⟩; decide +kernel
/-- A message on its way to task 2, and one whose bytes move to record 9. -/
def onWay : Transit := ⟨3, msg, 0, none, 2, none, none, 0⟩
def moving : Transit := ⟨4, { msg with cap := some 2 }, 1, none, 2, none, some 7, 0⟩
def arriving : State := { two shares with transits := [onWay, moving], tasks := [{ task2 with returns := [msg] }] }
theorem witness_arrivals : arriving.transits.find? (fun t => t.id == onWay.id && t.moving.isNone) = some onWay ∧ onWay.ring = none ∧ onWay.toTile = none ∧
    arriving.transits.find? (fun t => t.id == 4) = some moving ∧ moving.msg.cap.bind arriving.rec? = some { buf 2 0x1000 64 with count := 2 } ∧ arriving.rec? 7 = some (buf 7 0x4000 64) ∧
    (arriving.readUpTo { buf 2 0x1000 64 with count := 2 } 64 0).2 = none ∧ arriving.taskAt? 2 = some { task2 with returns := [msg] } ∧ task2.state ≠ .exited := by decide +kernel
theorem witness_tile_asid_clear : (run.tenantStands 5 3 && run.asidLive 3) = false ∧ ∀ m ∈ (run.tileAt 5).inbox, m.asid ≠ 3 := by decide +kernel
/-- Queue registers with one word and one row. -/
def queued : State := run.setTask { run.task with q := #v[[5], [], [], []], qv := #v[[⟨6, none⟩], [], [], []] }
theorem witness_queue_registers : queued.Plain ∧ queued.task.holds 0 [5] ∧ queued.task.holds 3 [] ∧ queued.task.holdsRows 4 [⟨6, none⟩] ∧ queued.task.holdsRows 7 [] ∧ queued.rowWait [2] = none ∧ queued.releaseWait = none := by
  refine ⟨rfl, ⟨by decide, rfl⟩, ⟨by decide, rfl⟩, ⟨by decide, rfl⟩, ⟨by decide, rfl⟩, ?_, ?_⟩ <;> decide +kernel
/-- Two neighbours with a word in the channel from the east. -/
def channels : State := two (run.setTask { run.task with chan := #v[[], [9], [], []] })
theorem witness_channels : channels.Plain ∧ (∃ l, channels.Neighbour .e l (0, 1) task2) ∧ channels.task.gone[dirIx .e] = false ∧ 0 < channels.task.credits[dirIx .e] ∧ channels.releaseWait = none ∧
    channels.task.chan[dirIx .e] = 9 :: [] ∧ channels.Served (.chanOut .e) ∧ channels.Served (.chanIn .e) := by
  refine ⟨rfl, ⟨channels.launches.headD (mkLaunch 0 0 [] 0 0), ?_, ⟨(0, 0), ?_, ?_⟩, ?_, ?_, ?_, ?_⟩, ?_, ?_, ?_, ?_, ?_, ?_⟩ <;> (try unfold State.Served) <;> decide +kernel
theorem witness_channel_events : let r := { task2 with arriving := #v[[], [(0, 9)], [], []], credits := #v[3, 3, 3, 3] }
    ({ run with tasks := [r] } : State).taskAt? 2 = some r ∧ r.state ≠ .exited ∧ r.arriving[dirIx .e] = (0, 9) :: [] ∧ r.credits[dirIx .w] < 4 := by decide +kernel
/-- As run, with siblings of the numbers of a list. -/
def siblings (l : List Nat) : State := { withX [0x40, 1] run with harts := l.map fun n => { Hart.blank with tid := 1, no := n, slot := some n, live := true } }
theorem witness_siblings : (siblings []).Plain ∧ (siblings []).hart.live = true ∧ (siblings []).hart.tid = (siblings []).task.tid ∧
    ((siblings []).x 1).getLsbD 0 = false ∧ ((siblings []).x 2).getLsbD 0 = true ∧
    1 ∈ ((siblings [1, 2]).hartsOf 1).map (·.no) ∧ 2 ∈ ((siblings [1, 2]).hartsOf 1).map (·.no) ∧
    (1 ∉ ((siblings []).hartsOf 1).map (·.no) ∧ (siblings []).freeSlots 0 ≠ [] ∧ (siblings []).releaseWait = none) ∧
    (1 ∈ ((siblings [1]).hartsOf 1).map (·.no) ∧ 2 ∉ ((siblings [1]).hartsOf 1).map (·.no) ∧ (siblings [1]).freeSlots 0 ≠ [] ∧ (siblings [1]).releaseWait = none) ∧
    ((siblings []).lineUp .fork).forkRoom = true ∧ ((siblings [1]).lineUp .fork).forkRoom = true := by
  refine ⟨rfl, ?_⟩; decide +kernel
theorem witness_sjoin (l : List Nat) (a : BitVec 5) (h : l = [] ∨ l = [2] ∧ a = 2) : let s := siblings l
    ∀ n, n ≠ s.hart.no → ((s.x a = 1 ∨ s.x a = 2) → (s.x a).toNat ≠ s.hart.no → n = (s.x a).toNat) → n ∉ (s.hartsOf s.task.tid).map (·.no) := by
  intro s n g w
  rcases h with rfl | ⟨rfl, rfl⟩
  · have e : (s.hartsOf s.task.tid).map (·.no) = [0] := by decide +kernel
    rw [e, List.mem_singleton]; exact g
  · have e : (s.hartsOf s.task.tid).map (·.no) = [0, 2] := by decide +kernel
    rw [w (by decide +kernel) (by decide +kernel), e]; decide +kernel

/-- A tenant's task with a task record in its buffer: all zeros, or naming handle 6. -/
def spawning : State := withX [0] { shares with asids := [(0, 2 ^ 63)] }
def spawningAt : State := spawning.writePhys (0x1000 + 48) [0x16]
theorem spawning_reads (s : State) (h : s = spawning ∨ s = spawningAt) : s.Reads 1 (s.x 1) 64 false { buf 2 0x1000 64 with count := 2 } 0x1000 := by
  rcases h with rfl | rfl <;> exact ⟨found_eq (by decide +kernel), rfl, by decide +kernel, by decide +kernel, by decide +kernel, by decide +kernel⟩
theorem witness_spawns : ∃ tid lat, spawning.Spawns 1 (spawning.x 1) (List.replicate 8 0) lat tid := by
  refine ⟨2, spawning.homeLatency (.mem 0x1000), ⟨{ buf 2 0x1000 64 with count := 2 }, 0x1000, spawning_reads _ (.inl rfl), rfl, ?_⟩, ?_, ?_, ?_, ?_, ?_, ?_, ?_, ⟨spawning.modTile 0 fun t => { t with tidNext := 2 }, ?_⟩, ?_, ?_⟩ <;> decide +kernel
theorem witness_spawnat : ∃ tid u, spawningAt.Plain ∧ (∃ f, spawningAt.Reads 1 (spawningAt.x 1) 64 false f 0x1000) ∧
    (let p := (List.range 8).map fun i => BitVec.ofNat 64 (spawningAt.little (0x1000 + 8 * i) 8)
     spawningAt.r5 p = true ∧ spawningAt.recordOk p true = true ∧ handleFields p = [(0, (6 : BitVec 4).toNat)] ∧ ¬(spawningAt.ptp < (pw p 3).toNat ∧ spawningAt.wheelFull 0 = true)) ∧
    spawningAt.passHandle 6 = .ok (buf 7 0x4000 64) ∧ (buf 7 0x4000 64).owner ≠ launchOwner ∧ (buf 7 0x4000 64).level = .tile ∧ spawningAt.dequeFull (0x4000 / 2 ^ 18) = false ∧ spawningAt.task.join < 65535 ∧ spawningAt.releaseWait = none ∧
    spawningAt.newTid spawningAt.tile.idx = some (tid, u) ∧ spawningAt.taskAt? tid = none ∧ tid ≠ spawningAt.task.tid := by
  refine ⟨2, spawningAt.modTile 0 fun t => { t with tidNext := 2 }, rfl, ⟨{ buf 2 0x1000 64 with count := 2 }, spawning_reads _ (.inr rfl)⟩, ?_, ?_, ?_, ?_, ?_, ?_, ?_, ?_, ?_, ?_⟩ <;> decide +kernel

/-- A task record that outranks task 1 in the deque of tile 0. -/
def urgent : TaskRec := { tid := 9, flags := 0, asid := 0, cls := 0, prio := 10, replayable := false, pinned := false, entry := 0, deadline := 0, release := 0, parent := 0, budget := 0, arg := 7, h := [], fs := [], launch := 0, coord := none, saved := false, home := 0, donations := [] }
/-- Task 1 with such a record and a time in x1. -/
def outranked (w : Word) : State := (withX [w] run).setTile { run.tile with deque := [⟨urgent, 0, false, 0⟩] }
theorem witness_yield : run.Plain ∧ run.task.join = 0 ∧ run.task.pendErr = none ∧ (run.alone && run.outranked) = false ∧ run.hart.met ≠ some (.time (run.x 1)) ∧ (run.x 1).toNat ≤ run.ptp ∧
    (let s := run.setHart { run.hart with met := some (.time 0) }; s.hart.met = some (.time (s.x 1))) := by refine ⟨rfl, ?_⟩; decide +kernel
theorem witness_leaving : let s := outranked 1
    s.Plain ∧ s.hart.slot = some 0 ∧ s.hart.no = 0 ∧ s.hart.tile = s.tile.idx ∧ s.task.tile = s.tile.idx ∧ s.alone = true ∧ s.saveWait = none ∧ (s.framePlace s.tile.idx).isSome = true ∧
    s.wheelFull (dieOf s.tile.idx) = false ∧ s.ptp < (s.x 1).toNat ∧ s.hart.met ≠ some (.time (s.x 1)) ∧ s.task.pendErr = none ∧ s.outranked = true ∧ s.dequeFull s.tile.idx = false ∧ s.tile.deque.length < 32 ∧ s.tile.dequeAt ≤ s.clk ∧ s.tile.waiting = [] := by
  refine ⟨rfl, ?_⟩; decide +kernel
/-- As run, in a sibling. -/
def sibling : State := run.setHart { run.hart with no := 1, slot := some 1 }
theorem witness_exit_sibling : sibling.hart.level = .u ∧ sibling.hart.no ≠ 0 ∧ sibling.task.pendErr = none ∧ sibling.releaseWait = none := by decide +kernel
/-- Task 1 is a child of task 2. -/
def child : State := two (run.setTask { run.task with parent := 2 })
theorem witness_exit : child.hart.level = .u ∧ child.hart.no = 0 ∧ child.hart.live = true ∧ child.hart.tid = child.task.tid ∧ child.task.state ≠ .exited ∧ child.hartsOf child.task.tid = [child.hart] ∧ child.task.join = 0 ∧
    child.taskQuiet child.task.tid child.task.tile = true ∧ child.hart.posted = [] ∧ child.task.pendErr = none ∧ child.task.detached = false ∧ child.task.parent = 2 ∧ child.taskAt? 2 = some task2 ∧ task2.state ≠ .exited := by decide +kernel
/-- As run, with one record of task 1 under h1 and the root that it is of. -/
def holding (c r : CapRec) : State := withCaps [c] (run.putRec r)
theorem witness_exit_disposal : (∀ q ∈ [(buf 9 0x4000 64, buf 3 0x1000 64), ({ buf 9 0x1000 64 .frac with count := 2, root := 3 }, { buf 3 0x1000 64 with count := 5, owner := 2 }),
      ({ buf 9 0x2000 64 .commons with root := 3 }, { buf 3 0x2000 64 .commons with count := 2, owner := noOwner }), (buf 9 0x5000 64 .phase, { buf 3 0x1000 64 with owner := 2 })],
    let s := holding q.1 { q.2 with owner := 2 }
    s.hart.level = .u ∧ s.hart.no = 0 ∧ s.hart.live = true ∧ s.hart.tid = s.task.tid ∧ s.task.state ≠ .exited ∧ s.hartsOf s.task.tid = [s.hart] ∧ s.task.join = 0 ∧ s.taskQuiet s.task.tid s.task.tile = true ∧ s.hart.posted = [] ∧ s.task.pendErr = none ∧
    s.holdings s.task = [q.1.img] ∧ s.rec? q.1.img = some q.1 ∧ q.1.owner ≠ launchOwner ∧ q.1.fromLaunch = none ∧ q.1.revoked = false ∧ q.1.proxy = none ∧ q.1.level ≠ .peer ∧
    (q.1.kind = .frac ∨ q.1.kind = .commons → s.rec? q.1.root = some { q.2 with owner := 2 } ∧ q.1.root ≠ q.1.img) ∧ (q.1.kind = .commons → 2 ≤ q.2.count)) ∧
    (buf 9 0x5000 64 .phase).phase = some ⟨false, Vector.replicate 4 0, 0, false⟩ := by decide +kernel

/-- As run, with two rows and a format. -/
def rows (v1 v2 : Row) (fs0 : Word) : State := run.setHart { run.hart with v := (run.hart.v.set 1 v1).set 2 v2, fs := run.hart.fs.set 0 fs0 }
theorem witness_vectors : run.Plain ∧ run.RowsFree ∧ Et.isFloat .f32 = true ∧ Et.isFloat .e5m2 = true ∧ Et.isWideFloat .f16 = true ∧ Et.isFloat .i32 = false := by
  refine ⟨rfl, ⟨?_, ?_⟩, ?_⟩ <;> decide +kernel
/-- The exponential of 1 and its codes, and two operands in order. -/
theorem witness_special : let y := SpecialFn.exp.exact fp32 false 1 0
    ¬(y.m = 0 ∧ y.sticky = false) ∧ fp32.exactly y = false ∧ SpecialFn.exp.codes fp32 false y ≠ [] ∧ SpecialFn.exp.rank 32 false 0x3F800000 ≤ SpecialFn.exp.rank 32 false 0x40000000 := by decide +kernel
theorem witness_lanes : (15 : BitVec 5).toNat < Et.lanes .f32 ∧ (31 : BitVec 5).toNat + 32 < Et.lanes .i8 := by decide
theorem witness_reductions : ((List.range (Et.lanes .i32)).filter fun i => (run.hart.getM 0).getLsbD i) ≠ [] ∧ ((List.range (Et.lanes .i32)).filter fun i => (run.hart.getM 1).getLsbD i) = [] := by decide +kernel
theorem witness_conversions : (1 : BitVec 2).toNat < vcvtRatio .f32 .bf16 ∧ vcvtRatio .f32 .bf16 ≤ (2 : BitVec 2).toNat ∧
    (let F := (rows 0 0 3).narrowFmt 0; F < 14 ∧ (3 : BitVec 5).toNat * Et.lanes .f32 + Et.lanes .f32 ≤ if elemBits F = 6 then 64 else 512 / elemBits F) ∧
    (let F := (rows 0 0 3).narrowFmt 0; ¬((4 : BitVec 5).toNat * Et.lanes .f32 + Et.lanes .f32 ≤ if elemBits F = 6 then 64 else 512 / elemBits F)) := by decide +kernel
theorem witness_block_add : let s := rows 0 (255 * 2 ^ 256) 0x13
    s.Plain ∧ 3 ≤ s.narrowFmt 0 ∧ s.narrowFmt 0 ≤ 0xD ∧ (s.hart.getFS 0).getLsbD 4 = true ∧ laneOf 8 (s.v 1) 32 ≠ 255 ∧ laneOf 8 (s.v 2) 32 = 255 ∧ (s.hart.getFS 1).getLsbD 4 = false ∧
    (∀ i < 32, (fp32.decode (fpAdd { fmt := fp32, mode := .rne, ftz := false } (scaledElem (s.narrowFmt 0) (laneOf 8 (s.v 1) i) 0) (scaledElem (s.narrowFmt 0) (laneOf 8 (s.v 1) i) 0)).1).isNaN = false) := by
  refine ⟨rfl, ?_⟩; decide +kernel

/-- A REP with a count of four and both fields stepped by one, before a word. -/
def repeating (w repst : Nat) : State := let s := State.reset.placeCode (bytesOf 4 0x000061FD ++ bytesOf 4 w); s.setHart { s.hart with repst := BitVec.ofNat 64 repst }
theorem witness_rep (w repst : Nat) (h : w = 0 ∨ w = 0x000A4183 ∨ w = 0x000A4F83) (h' : repst = 0 ∨ repst = 2 ^ 17 + 3 * 2 ^ 12 + 3 * 64 + 2) :
    (match (repeating w repst).fetchWordAt ((repeating w repst).hart.pc.toNat + 4) with | .ok v => v | .error _ => 1) = w := by
  rcases h with rfl | rfl | rfl <;> rcases h' with rfl | rfl <;> decide +kernel
theorem witness_rep_words : ¬(0 % 2 = 1 ∧ (decodeWord 0).isSome = true) ∧ (0x000A4183 % 2 = 1 ∧ (decodeWord 0x000A4183).isSome = true) ∧ repeatable (0x000A4183 / 2 % 64) ∧
    (∀ f < 3, (3 : BitVec 3).toNat.testBit f = true → ∃ lo, stepPlace 1 f = some lo ∧ 0x000A4183 / 2 ^ lo % 32 + 3 ≤ 31) ∧
    stepPlace 1 0 = some 7 ∧ ¬(0x000A4F83 / 2 ^ 7 % 32 + 3 ≤ 31) ∧ decodeWord (0x000A4183 + steppedBy 1 3 2) = some (.add 5 6 5) := by
  refine ⟨by decide +kernel, by decide +kernel, .inl rfl, ?_, by decide, by decide, by decide +kernel⟩
  intro f hf h; match f, hf with
  | 0, _ => exact ⟨7, by decide⟩
  | 1, _ => exact ⟨12, by decide⟩
  | 2, _ => exact absurd h (by decide)

/-- A gang of two tiles: the stream of task 2 with a wait, or none. -/
def gang (ganged : Bool) (w : Option Wait) : State :=
  let s := two run
  { s with harts := [{ Hart.blank with tid := 2, tile := tileIx 0 1, slot := some 0, live := true, wait := w }], launches := s.launches.map fun l => { l with ganged := ganged } }
theorem witness_vgx : let s := gang true (some (.partner .h (1 + 32 * 2) 9))
    s.Plain ∧ s.RowsFree ∧ (∃ l, s.launchAt? s.task.launch = some l ∧ s.task.coord = some (0, 0) ∧ l.ganged = true ∧ s.hart.no = 0 ∧ (l.rel (0, 0)).1 < l.rows ∧ ((l.rel (0, 0)).2 ^^^ 1) < l.cols ∧ l.tidAt ((l.rel (0, 0)).1, (l.rel (0, 0)).2 ^^^ 1) = some 2) ∧
    s.gangEnded (some 2) = false ∧ (∃ h, s.hartAt? 2 0 = some h ∧ h.wait = some (.partner .h (1 + 32 * 2) 9) ∧ h.tid = 2 ∧ h.no = 0 ∧ h.live = true ∧ 2 ≠ s.hart.tid ∧ h.repst.getLsbD 17 = false) ∧
    (gang true none).gangEnded (some 2) = false ∧ (∃ h, (gang true none).hartAt? 2 0 = some h ∧ h.wait = none) ∧ (∃ l, (gang false none).launchAt? 0 = some l ∧ l.ganged = false) ∧
    (∃ l, ({ gang true none with launches := (gang true none).launches.map fun l => { l with members := [(0, 0, 1)] } } : State).launchAt? 0 = some l ∧ l.tidAt (0, 1) = none) ∧
    ({ gang true none with tasks := [{ task2 with ending := true }] } : State).gangEnded (some 2) = true := by
  refine ⟨rfl, ⟨?_, ?_⟩, ⟨(gang true none).launches.headD (mkLaunch 0 0 [] 0 0), ?_⟩, ?_, ⟨(gang true (some (.partner .h (1 + 32 * 2) 9))).harts.headD Hart.blank, ?_⟩, ?_, ⟨(gang true none).harts.headD Hart.blank, ?_⟩,
    ⟨(gang false none).launches.headD (mkLaunch 0 0 [] 0 0), ?_⟩, ⟨{ (gang true none).launches.headD (mkLaunch 0 0 [] 0 0) with members := [(0, 0, 1)] }, ?_⟩, ?_⟩ <;> decide +kernel

/-- Task 1 with its buffers, operand slots of which the task owns 2 to 7 (4 and 5 as a pair), a format of a byte in fs0 and fs1 and a pair format in fs2, and the edge of one element in OX1; x1 = 0xFF, x2 = 2, x3 = 4, x4 = 5, x5 = 9. -/
def engine : State :=
  let s := withX [0xFF, 2, 4, 5, 9] shares
  let slot (i : Nat) : OperandSlot := { OperandSlot.blank with owner := if i < 2 then 0 else 1, pair := i == 4 || i == 5 }
  (s.setHart { s.hart with fs := #v[3, 3, 0x13, 0], ox := #v[0, 2 ^ 32, 0, 0, 0, 0, 0, 0] }).setTile { s.tile with operands := Vector.ofFn fun i => slot i.val }
theorem witness_oclm : engine.Plain ∧ (engine.x 1).toNat < 256 ∧ ((engine.x 1).getLsbD 0 = true ∧ (engine.tile.slotAt 0).owner = 0 ∧ (engine.tile.slotAt 1).owner = 0) ∧ engine.x 9 = 0 ∧
    (let n := (engine.x 2).toNat; n ≤ 7 ∧ (engine.tile.slotAt n).owner = engine.task.tid ∧ (engine.tile.slotAt n).pair = false ∧ engine.tile.slotInUse n = false) ∧
    (let n := (engine.x 3).toNat; n ≤ 7 ∧ (engine.tile.slotAt n).owner = engine.task.tid ∧ (engine.tile.slotAt n).pair = true ∧ engine.tile.slotInUse n = false ∧ engine.tile.slotInUse (n + 1) = false) ∧
    ((engine.x 4).toNat % 2 = 1 ∧ (engine.tile.slotAt (engine.x 4).toNat).pair = true) ∧ 7 < (engine.x 5).toNat := by
  refine ⟨rfl, ?_⟩; decide +kernel
theorem engine_fills (side : Side) : engine.Fills 2 3 6 (engine.hart.getOX 0) (engine.hart.getOX 1) side (buf 7 0x4000 64) [] engine := by
  refine ⟨by decide +kernel, by decide +kernel, by decide +kernel, passes_eq (by decide +kernel), by decide +kernel, rfl, by decide +kernel, ?_, rfl, by decide +kernel, ?_⟩
  · cases side <;> decide +kernel
  · intro r h; have e : engine.rec? (buf 7 0x4000 64).engineImg = some (buf 7 0x4000 64) := by decide +kernel
    rw [e] at h; cases h; rfl
theorem witness_old : (∀ g ∈ engine.tile.fills, g.due ≠ 0) ∧ engine.tile.accepted < 16 ∧ engine.hart.getOX 2 = 0 ∧ BitVec.ofNat 5 ((engine.hart.getFS 0).toNat % 16) = 3 := by decide +kernel
/-- A fill of slot 2 whose rows may be read. -/
def aFill : FillOp := { seq := 1, tid := 1, no := 0, n := 2, fmt := 3, img := 7, handle := 6, off := 0, stride := 1, kv := 1, skip := 0x8000, transfer := false, ntf := false, table := [], blocks := [], due := 5 }
theorem witness_old_join : let s := engine.setTile { engine.tile with fills := [aFill] }
    s.tile.fills = [aFill] ∧ s.rec? aFill.img = some (buf 7 0x4000 64) ∧ (buf 7 0x4000 64).proxy = none ∧ s.ce = [] ∧ aFill.fmt.toNat % 16 ≠ 0 ∧ aFill.n < 8 ∧ aFill.ntf = false ∧
    (∀ i < 16, aFill.skip.getLsbD i = false → (match s.recBytes (buf 7 0x4000 64) aFill.rowBytes (aFill.rowOff i) with | .ok _ => true | .error _ => false) = true) ∧
    ((s.taskAt? aFill.tid).map (·.ending)) = some false := by decide +kernel
theorem witness_matrix : engine.Plain ∧ engine.tile.matrix.length < 4 ∧ engine.tile.rampHolds engine.clk 8 = false ∧ engine.tile.names engine.task.tid 2 3 = true ∧ engine.tile.names engine.task.tid 3 3 = true ∧
    (engine.hart.getOX 1).toNat < 2 ^ 39 ∧ engine.tile.rampHolds engine.clk (engine.pairClks engine.tile.idx 3 3) = false ∧ (BitVec.ofNat 5 (engine.hart.getFS 2).toNat).getLsbD 4 = true := by
  refine ⟨rfl, ?_⟩; decide +kernel
/-- As engine, with husk 3 bound to buffer 7. -/
def husked : State := engine.setTile { engine.tile with husks := engine.tile.husks.set 3 { Husk.blank with bound := true, root := 7, inFmt := 3 } }
theorem witness_mmd : passes (husked.checkHandle 6 needRD) = some (buf 7 0x4000 64) ∧ husked.admits (buf 7 0x4000 64) .engineRead = .ok ∧ (buf 7 0x4000 64).format.getLsbD 4 = false ∧ (husked.tile.huskAt 3).bound = true ∧
    husked.tile.names husked.task.tid 2 (husked.tile.huskAt 3).inFmt = true ∧ husked.tile.names husked.task.tid 4 (buf 7 0x4000 64).format = true ∧ (husked.tile.huskAt 3).asid = husked.task.asid ∧ (husked.tile.huskAt 3).root = (buf 7 0x4000 64).root ∧
    husked.tile.rampHolds husked.clk (husked.pairClks husked.tile.idx 3 0) = false := by decide +kernel
/-- An operation at the head of the queue of the tile of engine. -/
def matOp (k : MatKind) (f : BitVec 5) : MatOp := { seq := 1, kind := k, tid := 1, no := 0, slot := 0, acc := .t0, sa := 2, sb := 3, fa := f, fb := f, edge := 2 ^ 32 + 1, ntf := false, husk := 0, use := false, delta := false, version := 0
                                                    inject := none, started := false, earliest := 0, due := 0, result := [], skipped := false, checked := false, prior := none, corrected := none, issuer := 1, issuerSlot := 0 }
def headed (o : MatOp) : State := engine.setTile { engine.tile with matrix := [o] }
theorem witness_matrix_start (k : MatKind) (f : BitVec 5) (h : f = 3 ∨ f = 8) : (headed (matOp k f)).tile.matrix = [matOp k f] ∧ (headed (matOp k f)).tile.canStart (headed (matOp k f)).clk = true ∧ edgeKv (matOp k f).edge ≤ 128 ∧
    (∀ n ∈ (matOp k f).reads, ((headed (matOp k f)).tile.slotAt n).poison = false) := by
  rcases h with rfl | rfl <;> cases k <;> decide +kernel
theorem witness_matrix_kinds : (matOp .mma 3).integer = false ∧ (matOp .mma 8).integer = true := by decide
/-- The operation of headed, once it has run. -/
def ranOp : MatOp := { matOp .mma 8 with started := true, checked := true, result := List.replicate 256 1 }
theorem witness_matrix_complete : let s := headed ranOp
    s.tile.matrix = [ranOp] ∧ ranOp.started = true ∧ ranOp.due ≤ s.clk ∧ ranOp.ntf = false ∧ ranOp.inject = none ∧ s.tile.fills = [] ∧ ((s.taskAt? ranOp.tid).map (·.ending)) = some false ∧ s.hart.tid = ranOp.tid ∧
    s.hart.no = ranOp.no ∧ s.hart.live = true ∧ ranOp.checked = true ∧ ranOp.result.length = 256 ∧ ranOp.skipped = false ∧ s.hart.slot = some ranOp.slot := by decide +kernel
theorem witness_husks : let s := husked.setHart { husked.hart with ox := husked.hart.ox.set 2 0x43 }
    s.Plain ∧ s.tile.mmdPending s.task.asid 3 = false ∧ s.tile.mmdPending s.task.asid 16 = false ∧ passes (s.checkHandle 6 needRD) = some (buf 7 0x4000 64) ∧ s.admits (buf 7 0x4000 64) .engineRead = .ok ∧
    (let w := s.hart.getOX 2; wordBits 4 0 w = 3 ∧ wordBits 13 6 w ≠ 0 ∧ wordBits 15 14 w = 0 ∧ wordBits 63 32 w ≤ 0x7F800000) ∧ (wordBits 13 6 (s.hart.getOX 0) = 0) ∧
    ((s.tile.huskAt 3).bound = true ∧ (s.tile.huskAt 3).asid = s.task.asid) ∧ (s.tile.huskAt 2).bound = false := by
  refine ⟨rfl, ?_⟩; decide +kernel
/-- A buffer with a shape record of 20 rows, or of too many. -/
def shaped (rows : Nat) : State := ((withCaps [buf 2 0x1000 256] run).writePhys 0x1000 (bytesOf 8 rows)).setHart { run.hart with geo := BitVec.ofNat 64 (2 ^ 32 + 2 ^ 40) }
theorem witness_ggeo (rows : Nat) (h : rows = 20 ∨ rows = 1048561) : (shaped rows).Plain ∧ passes ((shaped rows).checkHandle 1 needRD) = some (buf 2 0x1000 256) ∧ (shaped rows).admits (buf 2 0x1000 256) .engineRead = .ok ∧
    ((shaped rows).hart.getOX 0).toNat + 192 ≤ (buf 2 0x1000 256).len ∧ (match ((shaped rows).shapeRecord (buf 2 0x1000 256) 0).2 with | .ok w => wordBits 19 0 (pw w 0) | .error _ => 0) = rows := by
  refine ⟨rfl, ?_⟩; rcases h with rfl | rfl <;> decide +kernel

/-- Buffers for the transfer engine: a source (h1), a destination (h2), a list of indices (h3), one in main memory (h4), a COMMONS one (h5); operands for COPY, GATH and SELT; x1 = 64. -/
def xfer : State :=
  let s := withX [64, 0] (withCaps [buf 2 0x1000 256, buf 3 0x2000 256, buf 4 0x3000 64, { buf 5 0x20000000000 64 with level := .hbm }, buf 6 0x4000 64 .commons, { buf 7 0x5000 64 .phase with level := .tile }] run)
  s.setHart { s.hart with ox := #v[0, 0, 2 ^ 40, 2 * 2 ^ 40, 0, 0, 4 * 2 ^ 40, 0x3F800000] }
theorem xfer_ready : xfer.EngineReady := by refine ⟨?_, ?_, ?_⟩ <;> decide +kernel
theorem xfer_source (h : BitVec 4) (c : CapRec) (w : h = 1 ∧ c = buf 2 0x1000 256 ∨ h = 3 ∧ c = buf 4 0x3000 64 ∨ h = 4 ∧ c = { buf 5 0x20000000000 64 with level := .hbm }) : xfer.Source h c c := by
  rcases w with ⟨rfl, rfl⟩ | ⟨rfl, rfl⟩ | ⟨rfl, rfl⟩ <;> (refine ⟨gated_eq ?_, ?_, ?_, ?_, ?_⟩ <;> decide +kernel)
theorem witness_transfers : xfer.Plain ∧ xfer.EngineReady ∧ xfer.gate 2 needWR .engineWrite = .ok (buf 3 0x2000 256) ∧ xfer.rec? 3 = some (buf 3 0x2000 256) ∧ xfer.Source 1 (buf 2 0x1000 256) (buf 2 0x1000 256) ∧ xfer.Source 3 (buf 4 0x3000 64) (buf 4 0x3000 64) ∧
    ((xfer.hart.getOX 0).toNat < 2 ^ 40 ∧ (xfer.hart.getOX 1).toNat < 2 ^ 40 ∧ 0 < (xfer.x 1).toNat ∧ (xfer.hart.getOX 0).toNat + (xfer.x 1).toNat ≤ 256 ∧ (buf 3 0x2000 256).rangeBad (xfer.hart.getOX 1).toNat (xfer.x 1).toNat = false) ∧
    (let w (k : BitVec 3) : Word := xfer.hart.getOX (2 + k)
     (w 2).toNat < 2 ^ 40 ∧ 0 < wordBits 63 40 (w 0) * 16 ∧ 0 < wordBits 63 40 (w 1) ∧ wordBits 39 0 (w 0) % 16 = 0 ∧ wordBits 39 0 (w 1) % 16 = 0 ∧ (w 2).toNat % 4 = 0 ∧ (buf 3 0x2000 256).rangeBad 0 (2 * 16) = false ∧ (w 2).toNat + 4 * 2 ≤ 64) ∧
    (let c := { buf 5 0x20000000000 64 with level := .hbm }
     xfer.Source 4 c c ∧ c.level = .hbm ∧ c.format.toNat ≤ 2 ∧ (xfer.hart.getOX 7).toNat < 2 ^ 32 ∧ isNan32 (xfer.hart.getOX 7).toNat = false ∧ 0 < wordBits 63 40 (xfer.hart.getOX 6) ∧ wordBits 39 0 (xfer.hart.getOX 6) % 4 = 0 ∧ 16 ≤ (buf 3 0x2000 256).len ∧ wordBits 39 0 (xfer.hart.getOX 6) + 4 * 4 ≤ c.len) := by
  refine ⟨rfl, xfer_ready, gated_eq (by decide +kernel), by decide +kernel, xfer_source _ _ (.inl ⟨rfl, rfl⟩), xfer_source _ _ (.inr (.inl ⟨rfl, rfl⟩)), by decide +kernel, by decide +kernel, xfer_source _ _ (.inr (.inr ⟨rfl, rfl⟩)), ?_⟩
  decide +kernel
/-- An operation of task 1 with one leg of n bytes to buffer 3. -/
def leg (n : Nat) : Leg := { dst := 3, handle := 2, off := 0, len := n, due := 0, sent := false, done := 0, status := none }
def op (k : XferKind) (src : Option Image) (n : Nat) : XferOp := { id := 0, seq := 0, tid := 1, no := 0, asid := 0, kind := k, src := src, srcHandle := 1, srcOff := 0, legs := [leg n], ntf := false, due := 0, units := [], fetches := [] }
def engaged (o : XferOp) : State := xfer.setTile { xfer.tile with xfers := [o] }
theorem engaged_joins (k : XferKind) (src : Option Image) (n : Nat) : (engaged (op k src n)).Joins (op k src n) (leg n) (buf 3 0x2000 256) 0x2000 := by
  have e' : (engaged (op k src n)).taskAt? 1 = xfer.taskAt? 1 := rfl
  have e : xfer.taskAt? 1 = some xfer.task := by decide +kernel
  have l : (engaged (op k src n)).lendChain (buf 3 0x2000 256) = xfer.lendChain (buf 3 0x2000 256) := rfl
  refine ⟨rfl, rfl, rfl, rfl, Nat.le_refl 0, rfl, rfl, rfl, rfl, ?_, ?_, rfl, rfl, .inl rfl, ?_, rfl⟩
  · intro q h; have := e.symm.trans (e'.symm.trans h); cases this; decide +kernel
  · show findBy CapRec.img 3 xfer.quire = _; decide +kernel
  · rw [l]; decide +kernel
theorem witness_joins : Memory.wf xfer.mem = true ∧ ¬(isHbm 0x2000 = true) ∧ (let c := buf 2 0x1000 256; xfer.rec? c.img = some c ∧ c.img ≠ 3 ∧ c.kind ≠ .frac ∧ c.proxy = none ∧ (xfer.readUpTo c 64 0).2 = none) ∧
    (let x := buf 4 0x3000 64; xfer.rec? x.img = some x ∧ x.img ≠ 3 ∧ x.img ≠ 2 ∧ x.kind ≠ .frac ∧ x.proxy = none ∧ ∀ k < 2, (xfer.readUpTo x 4 (0 + 4 * k)).1 = [0, 0, 0, 0] ∧ (xfer.readUpTo x 4 (0 + 4 * k)).2 = none) ∧
    (0 ≤ (BitVec.ofNat 32 (leValue [0, 0, 0, 0])).toInt ∧ (xfer.readUpTo (buf 2 0x1000 256) 16 0).2 = none) ∧
    xfer.task.tid = 1 ∧ xfer.task.state ≠ .exited ∧ xfer.task.pendErr = none ∧ xfer.task.ending = false := by decide +kernel
theorem witness_scan_unit : let o := { op (.select 4 0 false) (some 5) 16 with units := [1, 2] }
    (engaged o).tile.xfers = [o] ∧ o.units = 1 :: [2] ∧ [2] ≠ ([] : List Nat) ∧ 1 ∉ ([2] : List Nat) := by decide +kernel
theorem witness_relocation : xfer.handle 8 = 0 ∧ (8 : BitVec 4) ≠ 1 ∧ passes (xfer.checkHandle 1 needXFER) = some (buf 2 0x1000 256) ∧ xfer.admits (buf 2 0x1000 256) (.send 1) = .ok ∧ (buf 2 0x1000 256).level ≠ .peer ∧ (buf 2 0x1000 256).len ≤ 240 * 1024 ∧
    (xfer.allocTile xfer.tile.idx (storageSize .tile .excl 256)).isSome = true ∧ xfer.freeRecord (dieOf xfer.tile.idx) = some 8 ∧ 8 ≠ (buf 2 0x1000 256).img ∧
    (xfer.admits (buf 2 0x1000 256) (.send 2) = .ok ∧ clusterOf ((buf 2 0x1000 256).base / 2 ^ 18) = clusterOf xfer.tile.idx) := by decide +kernel
/-- A buffer on a tile of another cluster, for COPY.auto. -/
def afar : CapRec := buf 9 (tileBase (tileIx 100 300)) 64
theorem witness_relocation_auto : let s := withCaps [afar] run
    passes (s.checkHandle 1 needXFER) = some afar ∧ s.admits afar (.send 2) = .ok ∧ afar.level = .tile ∧ clusterOf (afar.base / 2 ^ 18) ≠ clusterOf s.tile.idx ∧ afar.len ≤ 16 * 1024 ∧ (s.allocTile s.tile.idx 256).isSome = true := by decide +kernel
/-- A copy packet in buffer 4: 64 bytes of h1 to h2. -/
def packet (kind : Nat) : List Word := [BitVec.ofNat 64 kind, 0, 0, 64, BitVec.ofNat 64 (buf 3 0x2000 256).image, 0, 0, 0]
def packed (kind : Nat) : State := let s := { xfer with asids := [(0, 2 ^ 63)] }; s.writePhys 0x3000 (wordBytes ((packet kind).set 1 (BitVec.ofNat 64 (buf 2 0x1000 256).image)))
/-- Buffers that COPY.move and COPY.auto leave where they are: one above 240 KiB, and one of this cluster. -/
theorem witness_relocation_keeps : let s := withCaps [{ buf 2 hbmBase (2 ^ 20) with level := .hbm }, buf 3 0x1000 64] run
    passes (s.checkHandle 1 needXFER) = some { buf 2 hbmBase (2 ^ 20) with level := .hbm } ∧ s.admits { buf 2 hbmBase (2 ^ 20) with level := .hbm } (.send 1) = .ok ∧ s.admits { buf 2 hbmBase (2 ^ 20) with level := .hbm } (.send 2) = .ok ∧
    240 * 1024 < 2 ^ 20 ∧ s.handle 8 = 0 ∧ Memory.wf s.mem = true ∧ s.tile.accepted < 16 ∧ s.releaseWait = none ∧ s.tile.xfers = [] := by decide +kernel
theorem witness_copy_packet (kind : Nat) (h : kind = 2 ∨ kind = 3) : let s := packed kind
    s.find 3 (s.x 2) 64 needRW (.load false) false = .at_ (buf 4 0x3000 64) (.mem 0x3000) s ∧ s.gateRec 3 (buf 4 0x3000 64) .engineWrite = .ok (buf 4 0x3000 64) ∧
    s.rec? 4 = some (buf 4 0x3000 64) ∧ s.forward (buf 4 0x3000 64) (s.x 2).toNat 64 = .home ∧ s.ownPosted (.mem 0x3000) 64 = [] ∧ s.Sound 0x3000 64 ∧
    (let p := s.packetAt 0x3000
     let named (k : Nat) (e : BitVec 4) : Prop := k ≠ 0 ∧ (s.handle e).toNat = k ∧ ∀ j < e, (s.handle j).toNat ≠ k
     s.r5 p = true ∧ pf p 0 3 0 = kind ∧ pf p 1 63 28 = 0 ∧ pf p 2 63 40 = 0 ∧ pf p 2 39 0 % 16 = 0 ∧ pf p 0 5 4 + 1 = 1 ∧ (∀ i < 4, 1 ≤ i → pw p (4 + i) = 0) ∧ pf p 3 63 41 = 0 ∧ pf p 3 40 0 = 64 ∧
     (named (pf p 1 27 0) 1 ∧ named (pf p 4 27 0) 2) ∧ pf p 4 63 28 * 16 + 64 ≤ 256 ∧ (buf 3 0x2000 256).rangeBad (pf p 4 63 28 * 16) 64 = false ∧ ((buf 2 0x1000 256).img :: [(2, buf 3 0x2000 256)].map (fun x : BitVec 4 × CapRec => x.2.img)).Nodup ∧ pf p 2 39 0 + 64 ≤ 256) := by
  rcases h with rfl | rfl <;> (refine ⟨found_eq ?_, gated_eq ?_, ?_, rfl, ?_, ⟨?_, ?_, ?_⟩, ?_⟩ <;> decide +kernel)
theorem packed_gates : (packed 2).EngineReady ∧ (packed 2).Source 1 (buf 2 0x1000 256) (buf 2 0x1000 256) ∧ (packed 2).gate 2 needWR .engineWrite = .ok (buf 3 0x2000 256) ∧ (packed 2).rec? 3 = some (buf 3 0x2000 256) := by
  refine ⟨⟨?_, ?_, ?_⟩, ⟨gated_eq ?_, ?_, ?_, ?_, ?_⟩, gated_eq ?_, ?_⟩ <;> decide +kernel
/-- As engine, with the word of an MMAP of slots 2 and 3 in OX2, of another instruction in OX3 and past its field in OX4. -/
def follow : State := engine.setHart { engine.hart with ox := ((engine.hart.ox.set 2 0x0A614033).set 3 0x000A4183).set 4 (2 ^ 34) }
theorem witness_copym : follow.hart.getOX 5 = 0 ∧ (2 ^ 34 ≤ (follow.hart.getOX 4).toNat) ∧
    (let word := follow.hart.getOX 2
     word.toNat < 2 ^ 34 ∧ wordBits 31 0 word ≠ 0 ∧ (match decode (bytesOf 4 (wordBits 31 0 word)) with | .ok (i, _) => some i | .error _ => none) = some (.mmap .t0 0 1 1 false 3 2) ∧
     (follow.hartAt? follow.task.tid (wordBits 33 32 word)).isSome = true ∧ follow.tile.accepted < 16 ∧ follow.tile.names follow.task.tid 2 3 = true ∧ follow.tile.names follow.task.tid 3 3 = true ∧ (follow.hart.getOX 1).toNat < 2 ^ 39 ∧
     follow.tile.matrix.length < 4 ∧ follow.tile.rampHolds follow.clk (follow.pairClks follow.tile.idx 3 3) = false) := by decide +kernel

/-- A ring of four entries in buffer 6 for queue 0, whose oldest entry holds a packet. -/
def ringed (consumer : Nat) (w ri : Word) (p : List Word) (s : State) : State :=
  (({ s with asids := [(0, 2 ^ 63)] }.putRec { buf 6 0x4000 256 .commons with owner := noOwner }).putQueue 0 #v[BitVec.ofNat 64 (2 ^ 63 + consumer * 2 ^ 60 + 2 * 2 ^ 46), 6, w, ri]).writePhys 0x4000 (wordBytes p)
/-- The words of a signal packet for the inbox of task 1, or of another kind. -/
def signal (kind : Nat) : List Word := [BitVec.ofNat 64 kind, 1, 7, 8, 0, 0, 0, 0]
def appending : State := (ringed 1 0 0 [15] xfer).writePhys 0x3000 (wordBytes (signal 3))
theorem witness_qapp : appending.Plain ∧ appending.EngineReady ∧ (appending.hart.getOX 0).toNat < 2 ^ 14 ∧ appending.ReadsPacket 3 (appending.x 2) (buf 4 0x3000 64) 0x3000 (signal 3) ∧ appending.r5 (signal 3) = true ∧
    pkAsid (signal 3) = appending.task.asid ∧ qValid (appending.queueWords 0) = true ∧ qAsid (appending.queueWords 0) = appending.task.asid ∧ packetHolds (signal 3) = false ∧ qValid (xfer.queueWords 0) = false := by
  refine ⟨rfl, ⟨?_, ?_, ?_⟩, ?_, ⟨⟨found_eq ?_, rfl, ?_, ?_, ?_, ?_⟩, ?_⟩, ?_, ?_, ?_, ?_, ?_, ?_⟩ <;> decide +kernel
def appendOp : XferOp := { op (.append 0 0 (signal 3)) none 0 with legs := [] }
theorem witness_qapp_write : let s := appending.setTile { appending.tile with xfers := [appendOp] }
    s.tile.xfers = [appendOp] ∧ (signal 3).length = 8 ∧ Memory.wf s.mem = true ∧ ((s.taskAt? appendOp.tid).map (·.ending)) = some false ∧ s.ringAddr 0 0 = some 0x4000 ∧ 0 < (s.queueWords 0)[3].toNat + 2 ^ qExp (s.queueWords 0) ∧ s.little 0x4000 8 % 16 = 15 ∧
    ((ringed 1 0 0 [3] xfer).ringAddr 0 0 = some 0x4000 ∧ (ringed 1 0 0 [3] xfer).little 0x4000 8 % 16 ≠ 15) := by decide +kernel
theorem witness_srinv : xfer.ownEntries = false ∧ passes (xfer.checkHandle 1 needRD) = some (buf 2 0x1000 256) ∧ (xfer.hart.getOX 0).toNat < 2 ^ 40 ∧ (xfer.hart.getOX 0).toNat % 64 = 0 := by decide +kernel

/-- Two neighbours with a PHASE buffer each under h6, and an edge of four bytes in OX0. -/
def phased : State :=
  let s := (two xfer).putRec { buf 8 0x6000 64 .phase with owner := 2 }
  ({ s with tasks := [{ task2 with h := task2.h.set 6 (BitVec.ofNat 64 (buf 8 0x6000 64 .phase).image) }] }).setHart { xfer.hart with ox := xfer.hart.ox.set 0 (4 * 2 ^ 48) }
theorem witness_halo : phased.Plain ∧ phased.EngineReady ∧ phased.task.coord.isSome = true ∧ passes (phased.checkHandle 1 needRD) = some (buf 2 0x1000 256) ∧ phased.admits (buf 2 0x1000 256) .engineRead = .ok ∧
    passes (phased.checkHandle 6 needNone) = some (buf 7 0x5000 64 .phase) ∧ (buf 2 0x1000 256).kind = .excl ∧ (buf 2 0x1000 256).level = .tile ∧ (buf 7 0x5000 64 .phase).kind = .phase ∧ phased.rec? (buf 2 0x1000 256).engineImg = some (buf 2 0x1000 256) ∧ (phased.towards .e).map (·.2) = some (0, 1) ∧
    (let w := phased.hart.getOX 0; wordBits 31 0 w % 4 = 0 ∧ wordBits 47 32 w % 4 = 0 ∧ wordBits 63 48 w % 4 = 0 ∧ 4 ≤ wordBits 63 48 w ∧ wordBits 47 32 w + wordBits 63 48 w ≤ 64 / 4 ∧ wordBits 31 0 w + wordBits 63 48 w ≤ 256) := by
  refine ⟨rfl, ⟨?_, ?_, ?_⟩, ?_⟩ <;> decide +kernel
/-- A HALO of phased on its way to a task. -/
def haloOp (rc : Tid) (img : Option Image) : XferOp := op (.halo rc 3 6 64 img []) (some 2) 4
def haloing (rc : Tid) (reply : Nat) : State := (phased.setTile { phased.tile with xfers := [haloOp rc none] }).setHart { phased.hart with wait := some (.halo 0 reply 6) }
theorem witness_halo_receive : (haloing 2 0).tile.xfers = [haloOp 2 none] ∧ (haloing 2 0).hart.live = true ∧ (haloing 2 0).hart.tile = (haloing 2 0).tile.idx ∧ (haloing 2 0).hart.wait = some (.halo 0 0 6) ∧
    (∃ q, (haloing 2 0).taskAt? 2 = some q ∧ q.getH 6 ≠ 0 ∧ (haloing 2 0).rec? (imgOf (q.getH 6)) = some { buf 8 0x6000 64 .phase with owner := 2 }) ∧
    (haloing 7 0).taskAt? 7 = none ∧ (((haloing 7 0).taskAt? 1).map (·.ending)) = some false := by
  refine ⟨?_, ?_, ?_, ?_, ⟨{ task2 with h := task2.h.set 6 (BitVec.ofNat 64 (buf 8 0x6000 64 .phase).image) }, ?_⟩, ?_⟩ <;> decide +kernel
theorem witness_halo_reply (q : Nat) : (haloing 2 q).Plain ∧ (haloing 2 q).hart.live = true ∧ (haloing 2 q).hart.tile = (haloing 2 q).tile.idx ∧ (haloing 2 q).hart.wait = some (.halo 0 q 6) := ⟨rfl, rfl, rfl, rfl⟩
theorem witness_halo_join : let s := phased.setTile { phased.tile with xfers := [haloOp 2 (some 8)] }
    s.tile.xfers = [haloOp 2 (some 8)] ∧ s.ce = [] ∧ Memory.wf s.mem = true ∧ s.rec? 2 = some (buf 2 0x1000 256) ∧ (s.readUpTo (buf 2 0x1000 256) 4 0).2 = none ∧ s.rec? 8 = some { buf 8 0x6000 64 .phase with owner := 2 } ∧
    ({ buf 8 0x6000 64 .phase with owner := 2 } : CapRec).len = 64 ∧ (∀ q ∈ s.allTasks, q.openArrival = none) ∧ ((s.taskAt? 1).map (·.ending)) = some false ∧ ({ buf 8 0x6000 64 .phase with owner := 2 } : CapRec).phase = some ⟨false, Vector.replicate 4 0, 0, false⟩ := by decide +kernel
theorem witness_mbox : passes (phased.checkHandle 6 needNone) = some (buf 7 0x5000 64 .phase) ∧ (phased.x 2).toNat < 2 ^ 32 ∧ ∀ r ∈ [Dir.n, .e, .s, .w], wanted (phased.x 2) r = 0 := by decide +kernel
/-- A count of one is asked of the neighbour in the east, and has come. -/
theorem witness_mbox_counts : let c := { buf 7 0x5000 64 .phase with phase := some ⟨false, #v[0, 1, 0, 0], 0, false⟩ }
    let s := (phased.putRec c).setHart { phased.hart with x := phased.hart.x.set 3 0x100 }
    passes (s.checkHandle 6 needNone) = some c ∧ (s.x 3).toNat < 2 ^ 32 ∧ (s.towards .e).isSome = true ∧ wanted (s.x 3) .e = 1 ∧ wanted (s.x 3) .n = 0 ∧ wanted (s.x 3) .s = 0 ∧ wanted (s.x 3) .w = 0 := by decide +kernel

/-- An arrival of task 1, and its barrier. -/
def arrived (released : Bool) (img : Option Image) : Arrival := ⟨0, 0, 0, img, false, released, some (0, 0)⟩
def barrier (img : Option Image) : Barrier := { a := 0, b := 0, row := 0, col := 0, gen := 0, arrived := [(1, img)], releasing := true }
def atBarrier (released : Bool) (img : Option Image) : State :=
  let s := xfer.setTask { xfer.task with openArrival := some (arrived released img) }
  { s with launches := s.launches.map fun l => { l with barriers := [barrier img] } }
theorem witness_barriers : xfer.Plain ∧ (∃ l, xfer.launchAt? xfer.task.launch = some l) ∧ xfer.task.coord = some (0, 0) ∧ xfer.releaseWait = none ∧ xfer.task.openArrival = none ∧ xfer.handle 8 = 0 ∧ 9 < 10 ∧
    (passes (xfer.checkHandle 6 needNone) = some (buf 7 0x5000 64 .phase) ∧ (buf 7 0x5000 64 .phase).phase = some ⟨false, Vector.replicate 4 0, 0, false⟩) ∧
    (atBarrier true none).task.openArrival = some (arrived true none) ∧ (arrived true none).by_ = some ((atBarrier true none).hart.no, (atBarrier true none).hart.pc) := by
  refine ⟨rfl, ⟨xfer.launches.headD (mkLaunch 0 0 [] 0 0), ?_⟩, ?_⟩ <;> decide +kernel
theorem witness_barrier_release : let s := atBarrier false (some 7)
    s.Plain ∧ (∃ l, s.launchAt? l.idx = some l ∧ l.barriers.find? (fun x => x.group == (barrier (some 7)).group && x.releasing) = some (barrier (some 7))) ∧ s.task.state ≠ .exited ∧ s.hart.live = true ∧ s.hart.tid = s.task.tid ∧
    (s.rec? 7 = some (buf 7 0x5000 64 .phase) ∧ (buf 7 0x5000 64 .phase).openDeposits = 0) ∧ (∀ q ∈ s.hartsOf s.task.tid, q.wait ≠ some .barrier) := by
  refine ⟨rfl, ⟨(atBarrier false (some 7)).launches.headD (mkLaunch 0 0 [] 0 0), ?_⟩, ?_⟩ <;> decide +kernel

/-- A scan context configured for integer sums, and with one deposit whose delay has passed. -/
def onLine : State := after (.scnb 1 0) (withX [8, 0x100] run)
def deposited : State := let t := after (.scnp 2 0) onLine; { t with clk := 1000 }
theorem witness_scnb : let s := withX [8, 5] run
    s.Plain ∧ (s.launchAt? s.task.launch).isSome = true ∧ s.task.coord = some (0, 0) ∧ wordBits 2 0 (s.x 1) ≤ 4 ∧ wordBits 14 13 (s.x 1) = 0 ∧ wordBits 12 9 (s.x 1) ≤ 9 ∧ (s.x 1).toNat < 2 ^ 15 ∧ (s.task.ctx 0).configured = false ∧ ¬(wordBits 2 0 (s.x 2) ≤ 4) := by
  refine ⟨rfl, ?_⟩; decide +kernel
theorem witness_line (s : State) (h : s = onLine ∨ s = deposited) : s.Plain ∧ s.RowsFree ∧ ∃ l ln, s.OnLine 0 l (s.task.ctx 0) ln ∧ ln.broken = false ∧ s.releaseWait = none := by
  rcases h with rfl | rfl
  · refine ⟨by unfold State.Plain; decide +kernel, ⟨by decide +kernel, by decide +kernel⟩, onLine.launches.headD (mkLaunch 0 0 [] 0 0), (onLine.launches.headD (mkLaunch 0 0 [] 0 0)).lines.headD ⟨0, 0, 0, 0, 0, 0, 0, 0, false, [], [], 0, [], false⟩, ⟨?_, ?_, ?_, ?_, ?_⟩, ?_, ?_⟩ <;> decide +kernel
  · refine ⟨by unfold State.Plain; decide +kernel, ⟨by decide +kernel, by decide +kernel⟩, deposited.launches.headD (mkLaunch 0 0 [] 0 0), (deposited.launches.headD (mkLaunch 0 0 [] 0 0)).lines.headD ⟨0, 0, 0, 0, 0, 0, 0, 0, false, [], [], 0, [], false⟩, ⟨?_, ?_, ?_, ?_, ?_⟩, ?_, ?_⟩ <;> decide +kernel
theorem witness_epochs : (onLine.task.ctx 0).op = 0 ∧ (onLine.task.ctx 0).ed = 0 ∧ (onLine.task.ctx 0).er = (onLine.task.ctx 0).ed ∧ (onLine.task.ctx 0).eg = (onLine.task.ctx 0).ed ∧
    (deposited.task.ctx 0).eg < (deposited.task.ctx 0).ed ∧ (deposited.task.ctx 0).er < (deposited.task.ctx 0).ed ∧ (deposited.task.ctx 0).position = 0 := by decide +kernel
theorem witness_ready : let ln := (deposited.launches.headD (mkLaunch 0 0 [] 0 0)).lines.headD ⟨0, 0, 0, 0, 0, 0, 0, 0, false, [], [], 0, [], false⟩
    ln.broken = false ∧ (∀ m ∈ ln.members, m.pos = 0) ∧ (ln.deposits.find? (fun d => d.pos == 0 && d.epoch == 0)).map (fun d => decide (d.clk + ln.delay ≤ deposited.clk)) = some true := by decide +kernel
/-- A stream that waits in a SCNE. -/
def parkedScan : State := deposited.setHart { deposited.hart with wait := some (.scan 0 1 5) }
theorem witness_scan_events : parkedScan.task.state = .running ∧ parkedScan.hart.tid = parkedScan.task.tid ∧ parkedScan.hart.live = true ∧ parkedScan.tile.idx = parkedScan.hart.tile ∧ parkedScan.hart.wait = some (.scan 0 1 5) ∧
    parkedScan.parkedOn parkedScan.task.tid 0 = [parkedScan.hart.no] ∧
    ∃ u, exec (.scne 5 0) (parkedScan.setHart { parkedScan.hart with wait := none, met := none }) = .next u ∧ u.hart.wait = none := by
  refine ⟨?_, ?_, ?_, ?_, ?_, ?_, _, after_eq ?_, ?_⟩ <;> decide +kernel

/-- A member of a set held by participant 0, and one held by nobody here whose neighbour 0 it is. -/
def member (i holder : Nat) : Member :=
  { idx := i, v0 := 0, v1 := 0, slope0 := 0, slope1 := 0, sLast := 0, holder := holder, handed := true, report := 0, pending := false, valid := 1, r := 1, state := .live, slots := #v[1, 1, 1, 1] }
def calendar (members : List Member) (due : List Nat) (arrived done : Bool) : Calendar :=
  { no := 0, asid := 0, launch := 0, a := 0, b := 0, height := 1, width := 1, lo := 0, hi := 0, rmax := 1, extrap := false, s := 0, dueList := due, members := members, parts := [⟨1, arrived, done, false⟩], advancing := arrived, releaseAt := 0, poisoned := false }
/-- Task 1 with a calendar on its die; x1 = 0 names member 0, x2 = 1 member 1; x3 = 2 makes a set of two. -/
def sweeping (c : Calendar) : State := (withX [0, 1, 2, 65537] run).modDie 0 fun d => d.putCalendar c
def set01 : Calendar := calendar [member 0 0, member 1 3] [0] false false
theorem witness_swcr : let s := withX [0, 1, 2, 65537, 10 * 2 ^ 28] run
    s.Plain ∧ (s.launchAt? s.task.launch).isSome = true ∧ s.task.coord = some (0, 0) ∧
    (∀ i ∈ [(3 : BitVec 5), 4], wordBits 63 32 (s.x i) = 0 ∧ wordBits 31 28 (s.x i) ≤ 9 ∧ wordBits 19 17 (s.x i) ≤ wordBits 22 20 (s.x i)) ∧ ¬(wordBits 31 28 (s.x 5) ≤ 9) ∧
    wordBits 27 25 (s.x 3) = 0 ∧ (∃ l, s.launchAt? s.task.launch = some l ∧ dieOf (l.corners (subgroupOf 0 0 (l.rel (0, 0)))).1 = dieOf (l.corners (subgroupOf 0 0 (l.rel (0, 0)))).2) ∧
    thresholdBad (lo32 (s.hart.getOX 0)) = false ∧ thresholdBad (hi32 (s.hart.getOX 0)) = false ∧ fpLt (fp32.decode (hi32 (s.hart.getOX 0)).toNat) (fp32.decode (lo32 (s.hart.getOX 0)).toNat) = false ∧
    wordBits 16 0 (s.x 3) ≤ 65536 ∧ 65536 < wordBits 16 0 (s.x 4) ∧ (s.dieAt s.sweepDie).calendar? 0 = none := by
  refine ⟨rfl, ?_, ?_, ?_, ?_, ?_, ⟨run.launches.headD (mkLaunch 0 0 [] 0 0), ?_⟩, ?_⟩ <;> decide +kernel
theorem witness_sweep_members : let s := sweeping set01
    s.Plain ∧ s.InSet (s.x 1) set01 0 ∧ set01.member? (wordBits 15 0 (s.x 1)) = some (member 0 0) ∧ set01.member? (wordBits 15 0 (s.x 2)) = some (member 1 3) ∧ wordBits 63 24 (s.x 1) = 0 ∧ wordBits 63 20 (s.x 1) = 0 ∧ wordBits 23 20 (s.x 1) = 0 ∧
    (member 0 0).heldBy 0 = true ∧ (member 1 3).heldBy 0 = false ∧ set01.member? 2 = none ∧ (∀ j < 2, (set01.member? j).isSome = true) ∧ (member 0 0).holder = 0 ∧ (member 0 0).handed = true ∧ (member 0 0).state = .live ∧
    (member 0 0).valid.getLsbD 0 = true ∧ (member 0 0).valid.getLsbD 1 = false ∧ set01.member? (member 0 0).slots[0].toNat = some (member 1 3) ∧ set01.extrap = false ∧ set01.dueList = 0 :: [] := by
  refine ⟨rfl, ⟨?_, ?_, ?_, ?_, ?_, ?_, ?_⟩, ?_⟩ <;> decide +kernel
theorem witness_swadv : (∀ q ∈ [(false, false), (false, true)], let c := calendar [member 0 0] [] q.1 q.2
    (sweeping c).task.coord.isSome = true ∧ ((sweeping c).dieAt (sweeping c).sweepDie).calendar? (wordBits 19 16 ((sweeping c).x 1)) = some c ∧ c.asid = (sweeping c).task.asid ∧ c.launch = (sweeping c).task.launch ∧
    c.partOf (sweeping c).task.tid = some 0 ∧ c.poisoned = false ∧ (sweeping c).siblingAt c = false ∧ c.part? (sweeping c).task.tid = some ⟨1, q.1, q.2, false⟩ ∧ (sweeping c).releaseWait = none) := by decide +kernel
theorem witness_sweep_release : let c := calendar [member 0 0] [] true false
    let s := (sweeping c).setHart { (sweeping c).hart with wait := some (.sweep 0 0 5) }
    s.Plain ∧ (s.dieAt 0).calendar? c.no = some c ∧ c.advancing = true ∧ c.releaseAt ≤ s.clk ∧ (c.members.map (·.idx)).Nodup ∧ s.parkedAt 0 c.no = [(s.hart, 5)] ∧ c.part? s.hart.tid = some ⟨1, true, false, false⟩ := by
  refine ⟨rfl, ?_⟩; decide +kernel

theorem witness_control_space : (inHandler 4).Plain ∧ (inHandler 4).hart.level = .s ∧ (0 : Nat) < 8 ∧ (16 ≤ (32 : Word).toNat ∧ (32 : Word).toNat ≤ 32) ∧ (1000 ≤ (1000 : Word).toNat ∧ (1000 : Word).toNat ≤ 4500) ∧
    (let v : Word := 0x8F4240; wordBits 63 24 v = 0 ∧ wordBits 23 20 v ≤ 8 ∧ 100 ≤ wordBits 19 0 v ∧ wordBits 19 0 v ≤ 1000000) ∧
    (let v : Word := 0xFE0100010001EA60; 1 ≤ wordBits 63 56 v ∧ wordBits 63 56 v ≤ 254 ∧ 1 ≤ wordBits 55 48 v ∧ 1 ≤ wordBits 47 32 v ∧ 1 ≤ wordBits 31 16 v ∧ 10 ≤ wordBits 15 0 v ∧ wordBits 15 0 v ≤ 60000) ∧
    (wordBits 63 40 (0xFF : Word) = 0) ∧ (let v : Word := 2 ^ 63; wordBits 62 54 v = 0 ∧ wordBits 15 0 v = 0 ∧ v.getLsbD 63 = true) := by
  refine ⟨rfl, ?_⟩; decide +kernel
theorem witness_elstat : wordBits 31 0 (2 ^ 32 : Word) = 0 ∧ wordBits 31 0 (1 : Word) ≠ 0 ∧ (∀ x ∈ (run.dieAt 0).log, x.tick ≠ run.tick) ∧ (∀ x ∈ (run.dieAt 0).logDropped, x.tick ≠ run.tick) := by decide +kernel
/-- A device with ASID 0 live, and its window record over the last lines. -/
def tenant : State := { run with asids := [(0, 2 ^ 63)] }
def windowed : State := after (.winreqGo (2 ^ 63 + 4094)) tenant
theorem witness_winreq : (let v : Word := 2 ^ 63 + 4094; wordBits 62 46 v = 0 ∧ wordBits 31 24 v = 0 ∧ v.getLsbD 63 = true ∧ tenant.asidLive (BitVec.ofNat 14 (wordBits 45 32 v)) = true ∧ wordBits 11 0 v + (wordBits 23 12 v + 1) ≤ 4095 ∧ (tenant.freeRecord 0).isSome = true) ∧
    run.asidLive (BitVec.ofNat 14 (wordBits 45 32 (2 ^ 63 : Word))) = false ∧ 4095 < wordBits 11 0 (2 ^ 63 + 4095 : Word) + 1 := by decide +kernel
theorem witness_winfree : ∃ c, windowed.rec? (wordBits 22 0 (windowed.winres - 2 ^ 63)) = some c ∧ wordBits 63 28 (windowed.winres - 2 ^ 63) = 0 ∧ c.window = true ∧ isWindow c.base = true ∧ c.isRoot = true ∧ c.count = 0 ∧ c.launch = none ∧ c.image = (windowed.winres - 2 ^ 63).toNat := by
  refine ⟨windowed.quire.getLastD (buf 0 0 0), ?_⟩; decide +kernel
theorem witness_peer_epoch : (1 ≤ 254 ∧ 254 ≤ 254) ∧ wordBits 62 56 (2 ^ 63 : Word) = 0 ∧ wordBits 19 12 (2 ^ 63 : Word) = 0 ∧ wordBits 55 40 (2 ^ 63 : Word) ≠ (run.peerEpochOf 254 + 1) % 65536 := by decide +kernel
theorem witness_tables : (let off := 0x5FFF8; 0x10000 ≤ off ∧ off < 0x60000 ∧ off % 8 = 0 ∧ wordBits 63 19 (2 ^ 19 - 1 : Word) = 0) ∧
    (let off := 0xAFFE8; 0xA0000 ≤ off ∧ off < 0xB0000 ∧ off % 8 = 0 ∧ (off - 0xA0000) / 8 % 4 = 1 ∧ qValid (run.queueWords (2048 * 7 + (off - 0xA0000) / 32)) = false ∧ wordBits 63 23 (2 ^ 23 - 1 : Word) = 0) := by decide +kernel
theorem witness_invalidate : (∀ d ∈ run.dies, ∀ x ∈ d.walks, x.asid ≠ 3) ∧ (let s := run.modDie 0 fun d => { d with walks := [⟨0, 3, 0, 9, false⟩] }; ∃ d ∈ s.dies, ∃ x ∈ d.walks, x.asid = 3) := by
  refine ⟨by decide +kernel, ?_⟩
  exact ⟨{ Die.blank 0 with walks := [⟨0, 3, 0, 9, false⟩] }, by decide +kernel, ⟨0, 3, 0, 9, false⟩, by decide +kernel, rfl⟩

/-- The device alone in a state of the seize machine, with a region in host memory. -/
def seized (st : SeizeState) : State := { State.reset with seize := { SeizeBlock.blank with state := st, base := 0x1000, length := BitVec.ofNat 64 (800 * 2 ^ 30) } }
/-- An image at the base of the block, of a device that holds nothing: signed by its device, or not, and with a digest that its sections match, or not. -/
def anImage (signed sound : Bool) (device : Nat) : Image0 :=
  let d := Config.digest [] + if sound then 0 else 1
  { base := 0x1000, length := 4096, device := device, digest := d, signature := Config.sign device d + if signed then 0 else 1, free := [], contexts := [], records := [], body := Device.blank }
/-- As seized, with such an image whole in host memory. -/
def imaged (st : SeizeState) (signed sound : Bool) (device : Nat) : State := { (seized st).writePhys (hostBase + 0x1000) (anImage signed sound device).header with images := [anImage signed sound device] }
theorem imageAt_of {s : State} {i : Image0} {m : List Host.Cell} (f : s.images.find? (fun x => x.base == s.seize.base.toNat) = some i) (e : s.mem = memPut (hostBase + i.base) i.header m)
    (w : Memory.wf m = true) : s.ImageAt i := by
  have h : i.header.length = 4096 := by simp only [Image0.header, padTo, List.length_take, List.length_append, bytesOf_length]; omega
  refine ⟨f, ?_⟩
  unfold State.readPhys; rw [e]; exact memBytes_memPut _ _ _ _ w h
theorem imaged_mem (st : SeizeState) (signed sound : Bool) (device : Nat) : (imaged st signed sound device).mem = memPut (hostBase + 0x1000) (anImage signed sound device).header [] := by
  simp only [imaged, State.writePhys, seized]; rfl
theorem imaged_at (st : SeizeState) (signed sound : Bool) (device : Nat) : (imaged st signed sound device).ImageAt (anImage signed sound device) :=
  imageAt_of (m := []) (by simp [imaged, seized, anImage, State.writePhys]) (imaged_mem st signed sound device) (by decide)
theorem sound_short {s : State} {i : Image0} (h : i.length = 4096) : s.imageSound i = (Config.digest [] == i.digest) := by
  simp only [State.imageSound, State.readPhys, h, Nat.sub_self, memBytes]
theorem imaged_checks (st : SeizeState) (device : Nat) : (∀ sound, (anImage true sound device).signed = true ∧ (anImage false sound device).signed = false) ∧
    (∀ signed, (imaged st signed true device).imageSound (anImage signed true device) = true ∧ (imaged st signed false device).imageSound (anImage signed false device) = false) := by
  have e (w : Nat) (h : (1 : BitVec w) ≠ 0) (x : BitVec w) : x + 1 ≠ x := fun g => h ((BitVec.add_right_inj x).mp (g.trans (BitVec.add_zero x).symm))
  have r (signed sound : Bool) : (imaged st signed sound device).imageSound (anImage signed sound device) = (Config.digest [] == (anImage signed sound device).digest) := sound_short (by simp only [anImage])
  refine ⟨fun sound => ⟨?_, ?_⟩, fun signed => ⟨?_, ?_⟩⟩
  · simp [anImage, Image0.signed]
  · simp only [anImage, Image0.signed, beq_eq_false_iff_ne]; exact e 1056 (by decide +kernel) _
  · rw [r]; simp [anImage]
  · rw [r]; simp only [anImage, beq_eq_false_iff_ne]; exact (e 512 (by decide +kernel) _).symm
theorem witness_seize : (seized .running).seize.base.toNat % 4096 = 0 ∧ 800 * 2 ^ 30 ≤ (seized .running).seize.length.toNat ∧ (∀ h ∈ (seized .running).allHarts, (seized .running).abandonable h = false) ∧
    (seized .quiescing).settled = true ∧ (seized .frozen).seize.stale = false ∧ ¬(800 * 2 ^ 30 ≤ State.reset.seize.length.toNat) := by decide +kernel
theorem witness_streaming : (seized .streaming).HostReachable ∧ ¬({ seized .streaming with portDown := Vector.replicate 20 true } : State).HostReachable := by
  refine ⟨⟨0, by decide +kernel⟩, ?_⟩
  rintro ⟨p, h, -, e⟩; match p, h with
  | 0, _ | 1, _ | 2, _ | 3, _ => exact absurd e (by decide +kernel)
theorem witness_resume : let s := imaged .running true true 0
    s.launches = [] ∧ (∀ a ∈ s.asids, a.2.getLsbD 63 = false) ∧ (∀ q ∈ s.queues, qValid q.2 = false) ∧ s.seize.base.toNat % 4096 = 0 ∧ 4096 ≤ s.seize.length.toNat ∧ (anImage true true 0).length ≤ s.seize.length.toNat ∧
    (∀ signed sound device, (imaged .running signed sound device).ImageAt (anImage signed sound device) ∧ (anImage signed sound device).device = device) ∧ (∀ i, ¬(seized .running).ImageAt i) := by
  refine ⟨rfl, ?_, ?_, ?_, ?_, ?_, fun a b c => ⟨imaged_at .running a b c, rfl⟩, fun i h => by cases h.1⟩
  · intro a h; cases h
  · intro q h; cases h
  · decide
  · decide
  · decide
theorem witness_restore (sound : Bool) : (imaged .restoring true sound 0).Canonical ∧ (imaged .restoring true sound 0).seize.state = .restoring ∧ (imaged .restoring true sound 0).HostReachable ∧ (imaged .restoring true sound 0).ImageAt (anImage true sound 0) := by
  refine ⟨⟨⟨by rw [imaged_mem]; exact wf_memPut (by decide), by simp [imaged, seized, State.writePhys]; decide +kernel⟩, fun i h => ?_⟩, rfl, ⟨0, ?_, ?_, ?_⟩, imaged_at _ _ _ _⟩
  · have : i = anImage true sound 0 := List.mem_singleton.mp h
    subst this; exact ⟨rfl, rfl⟩
  · decide
  · show State.reset.lanes.toArray.getD 0 0 ≠ 0; decide +kernel
  · show State.reset.portDown.toArray.getD 0 false = false; decide +kernel

/-- The packet p stands at the head of queue 0 of a consumer. -/
theorem head_of {c : Nat} {p : List Word} (h : (ringed c 1 0 p xfer).atHead 0 c 0 = true) (a : (ringed c 1 0 p xfer).ringAddr 0 0 = some 0x4000) (m : Memory.wf (ringed c 1 0 p xfer).mem = true)
    (e : p = (ringed c 1 0 p xfer).packetAt 0x4000) : (ringed c 1 0 p xfer).Head 0 c 0 0x4000 p := ⟨rfl, m, h, a, by decide, e⟩
theorem witness_heads (k : Nat) (h : k = 0 ∨ k = 1 ∨ k = 2 ∨ k = 3 ∨ k = 0x13) (c : Nat) (hc : c = 0 ∨ c = 1 ∨ c = 2) : (ringed c 1 0 (signal k) xfer).Head 0 c 0 0x4000 (signal k) := by
  rcases hc with rfl | rfl | rfl <;> rcases h with rfl | rfl | rfl | rfl | rfl <;> exact head_of (by decide +kernel) (by decide +kernel) (by decide +kernel) (by decide +kernel)
theorem witness_no_head : xfer.atHead 0 1 (qRI (xfer.queueWords 0)) = false ∧ xfer.atHead 0 2 (qRI (xfer.queueWords 0)) = false ∧ qRI ((ringed 1 1 0 (signal 3) xfer).queueWords 0) = 0 := by decide +kernel
/-- Signals for the inbox of task 1 and for the inbox of tile 0. -/
def forTask (kind : Nat) : List Word := [BitVec.ofNat 64 kind, BitVec.ofNat 64 (1 * 2 ^ 32), 7, 8, 0, 0, 0, 0]
theorem witness_signals (p : List Word) (h : p = signal 3 ∨ p = forTask 3 ∨ p = forTask 0x13) : (ringed 1 1 0 p xfer).Head 0 1 0 0x4000 p ∧ (ringed 1 1 0 p xfer).r5 p = true ∧ (∀ k < 4, pw p (4 + k) = 0) ∧ (Dest.of (pw p 1)).isSome = true ∧
    (ringed 1 1 0 p xfer).isThisDevice 0 = true ∧ ((ringed 1 1 0 p xfer).taskAt? 1).isSome = true ∧ (ringed 1 1 0 p xfer).tileInboxFull 0 = false ∧ (ringed 1 1 0 p xfer).tenantOn 0 (pkAsid p) = true := by
  rcases h with rfl | rfl | rfl <;> refine ⟨head_of (by decide +kernel) (by decide +kernel) (by decide +kernel) (by decide +kernel), ?_⟩ <;> decide +kernel
theorem witness_destinations : Dest.of 1 = some ⟨1, 0, 0⟩ ∧ Dest.of (1 * 2 ^ 32) = some ⟨0, 0, 1⟩ ∧ Dest.of 4 = none ∧ (Dest.of 2).map (·.type) = some 2 := by decide
/-- A spawn packet for a detached child of task 1, and a copy packet of h1 to h2. -/
def spawnPkt : List Word := [0x20, 0, 0, 0, BitVec.ofNat 64 (1 * 2 ^ 32), 7, 0, 0]
def copyPkt : List Word := (packet 2).set 1 (BitVec.ofNat 64 (buf 2 0x1000 256).image)
theorem witness_spawn_packet : let s := ringed 1 1 0 spawnPkt { xfer with launches := xfer.launches.map fun l => { l with code := 2 } }
    s.atHead 0 1 0 = true ∧ spawnPkt = s.packetAt 0x4000 ∧ s.taskAt? (BitVec.ofNat 32 (pf spawnPkt 4 63 32)) = some s.task ∧ (∃ l, s.launchAt? s.task.launch = some l ∧ s.rec? l.code = some (buf 2 0x1000 256)) ∧ s.r5 spawnPkt = true ∧
    pf spawnPkt 0 5 5 = 1 ∧ handleFields spawnPkt = [] ∧ handleFieldsOk spawnPkt = true ∧ s.task.asid = qAsid (s.queueWords 0) ∧ pkAsid spawnPkt = s.task.asid ∧ (pf spawnPkt 0 47 47 = 1 ↔ s.replayable s.task.launch = true) ∧
    pf spawnPkt 1 63 48 = 0 ∧ pf spawnPkt 1 0 0 = 0 ∧ pf spawnPkt 1 47 0 < 256 ∧ s.dequeFull s.task.tile = false ∧ ((s.newTid s.task.tile).map (·.1)) = some 2 ∧ s.taskAt? 2 = none := by
  refine ⟨?_, ?_, ?_, ⟨{ xfer.launches.headD (mkLaunch 0 0 [] 0 0) with code := 2 }, ?_⟩, ?_⟩ <;> decide +kernel
/-- A ring whose message names buffer 2. -/
def mailed (c : Nat) (p : List Word) : State := { ringed c 1 0 p xfer with ringMsgs := [⟨0, 0, 2, 1⟩] }
theorem witness_ring_messages : (mailed 1 (forTask 0x13)).ringMsg 0 0 = some ⟨0, 0, 2, 1⟩ ∧ (mailed 1 (forTask 0x13)).atHead 0 1 0 = true ∧ pkKind (forTask 0x13) = 3 ∧ pf (forTask 0x13) 0 4 4 = 1 ∧ (mailed 1 (signal 0x13)).atHead 0 1 0 = true ∧
    (mailed 0 (signal 0x13)).atHead 0 0 0 = true ∧ (mailed 0 (signal 0x13)).ringMsg 0 0 = some ⟨0, 0, 2, 1⟩ ∧ (xfer.ringMsg 0 0 = none) ∧
    ((mailed 1 (forTask 0x13)).taskAt? 1).map (fun r => decide (r.inbox.length < 8) && r.returns.isEmpty) = some true ∧
    (let p := (forTask 0x13).set 1 (BitVec.ofNat 64 (9 * 2 ^ 32)); (mailed 1 p).atHead 0 1 0 = true ∧ (mailed 1 p).taskAt? 9 = none) := by decide +kernel
theorem witness_copy_ring : let s := ringed 2 1 0 copyPkt xfer
    s.atHead 0 2 0 = true ∧ copyPkt = s.packetAt 0x4000 ∧ pkKind copyPkt = 2 ∧ s.r5 copyPkt = true ∧ copyPacketOk copyPkt = true ∧ copyLenOk copyPkt = true ∧ s.ringRecords 0 copyPkt = some [buf 2 0x1000 256, buf 3 0x2000 256] ∧
    s.ringAdmit [buf 2 0x1000 256, buf 3 0x2000 256] = .ok ∧ packetRanges copyPkt [buf 2 0x1000 256, buf 3 0x2000 256] = none := by decide +kernel

/-- Entries of a ring without errors, a message that breaks R5, and a packet whose launch table is sound. -/
theorem witness_rings : (∀ c ∈ [(0 : Nat), 1, 2], let s := ringed c 1 0 (signal 3) xfer; s.touchRing 0 0 = s ∧ s.ringBad 0 0 = false) ∧ xfer.touchRing 0 0 = xfer ∧ xfer.ringBad 0 0 = false ∧
    (let p := (forTask 0x13).set 0 (0x13 + 2 ^ 62); (mailed 1 p).r5 p = false ∧ pkKind p = 3 ∧ pf p 0 4 4 = 1 ∧ (mailed 1 p).atHead 0 1 0 = true) ∧ (ringed 1 1 0 (signal 1) xfer).touchTable 0 (signal 1) = ringed 1 1 0 (signal 1) xfer ∧
    (let c := { buf 2 0x1000 256 with owner := launchOwner, launch := some 5, lender := 1, fromLaunch := some 5, outer := [(none, 1)] }; c.alsoHeld = [] ∧ c.outer = (none, 1) :: []) := by decide +kernel

/-- A launch of one tile of the machine of xfer. -/
def launchPkt : List Word := [1, BitVec.ofNat 64 (2 ^ 16 + 2 ^ 24), 0, 0, 0, 0, BitVec.ofNat 64 (2 + 4 * 2 ^ 28), 0]
theorem witness_launch : let s := ringed 1 1 0 launchPkt xfer
    s.atHead 0 1 0 = true ∧ launchPkt = s.packetAt 0x4000 ∧ pkKind launchPkt = 1 ∧ s.launchCause launchPkt = none ∧ s.configGood = true ∧ lpPlace launchPkt = false ∧ lpTorus launchPkt = false ∧ lpBuffers launchPkt = 0 ∧ pf launchPkt 0 47 47 = 0 ∧
    s.torusHeld 0 0 1 1 = false ∧ lpCode launchPkt ≠ lpParams launchPkt ∧ s.rec? (lpCode launchPkt) = some (buf 2 0x1000 256) ∧ s.rec? (lpParams launchPkt) = some (buf 4 0x3000 64) ∧
    s.launchIndex (mkLaunch 0 0 launchPkt 0 0) = some 1 ∧ (∀ l ∈ s.launches, l.idx ≠ 1) ∧ (s.newTid 0).isSome = true ∧ (ringed 1 1 0 (signal 1) xfer).launchCause (signal 1) = some 5 := by decide +kernel
/-- A launch without tasks, in a state of its torus, and one that is to be replayed. -/
def ended (stitch : Nat) : Launch := { mkLaunch 0 0 launchPkt 0 0 with idx := 5, stitch := stitch, code := 2, params := 4 }
def ending (l : Launch) : State := { ringed 1 1 1 launchPkt xfer with launches := [l] }
theorem witness_launch_ends : (ending (ended 0)).launchAt? 5 = some (ended 0) ∧ (ending (ended 0)).ringAddr 0 0 = some 0x4000 ∧ Memory.wf (ending (ended 0)).mem = true ∧ (ended 0).members = [] ∧ (ended 0).spawned = [] ∧ (ended 0).replayPending = false ∧ (ended 0).shadows = [] ∧
    (∀ c ∈ (ending (ended 0)).quire, c.launch = none ∧ c.fromLaunch = none) ∧ (ending (ended 1)).launchAt? 5 = some (ended 1) ∧ (ending (ended 1)).regionBusy (some 5) 0 0 1 1 = true ∧
    ({ ending (ended 1) with task := Task.blank } : State).regionBusy (some 5) 0 0 1 1 = false ∧ ({ ended 0 with members := [(0, 0, 1)] } : Launch).members ≠ [] := by decide +kernel
theorem witness_launch_returns : let c := { buf 2 0x1000 256 with owner := launchOwner, launch := some 5, lender := 1 }
    let s := (ending (ended 0)).putRec c
    s.rec? c.img = some c ∧ c.launch = some (ended 0).idx ∧ (s.taskAt? c.lender).isSome = true := by decide +kernel
theorem witness_replay (k : Nat) (h : k = 0 ∨ k = 2) : let l := { ended 0 with replayPending := true, replays := k }
    let s := ending l
    s.launchAt? 5 = some l ∧ s.tasksOf 5 = [] ∧ l.shadows = [] ∧ l.created = [] ∧ l.snapshot = [] ∧ s.ringAddr l.queue l.entry = some 0x4000 ∧ (∀ c ∈ s.quire, c.launch = none ∧ c.fromLaunch = none) ∧
    lpBuffers l.packet = 0 ∧ l.rows = lpRows l.packet ∧ l.cols = lpCols l.packet ∧ 1 ≤ l.cols ∧ l.row + l.rows ≤ 128 ∧ l.col + l.cols ≤ 320 ∧ (s.rec? l.params).isSome = true ∧ (s.newTid 0).isSome = true := by
  rcases h with rfl | rfl <;> decide +kernel

/-- As handled, with a budget, a watchdog and the events of a task. -/
def boundary (f : Task → Task) (evhpc : Word) : State := (handled.setTask (f handled.task)).setHart { handled.hart with evhpc := evhpc }
theorem witness_boundary : let s := boundary (fun t => { t with unlimited := false }) 0
    s.hart.tid = s.task.tid ∧ s.hart.no = 0 ∧ s.hart.live = true ∧ s.tile.idx = s.hart.tile ∧ s.task.state = .running ∧ s.hart.slot.isSome = true ∧ s.hart.level = .u ∧ s.hart.wait = none ∧ s.hart.readyAt ≤ s.clk ∧ s.vector ≠ 0 ∧
    s.hartsOf s.task.tid = [s.hart] ∧ s.task.unlimited = false ∧ s.task.budget = 0 ∧ ¬(2 ^ (s.dieAt (dieOf s.task.tile)).wdlim ≤ s.task.watchdog) ∧
    2 ^ (s.dieAt (dieOf s.task.tile)).wdlim ≤ (boundary (fun t => { t with watchdog := 2 ^ 24 }) 0).task.watchdog := by decide +kernel
theorem witness_user_event : (let s := boundary (fun t => { t with pendErr := some ⟨{ cause := .capv, sub := 4, imprecise := true }, 0⟩ }) (2 ^ 48)
      s.hart.evhpc.getLsbD 63 = false ∧ s.hart.evhpc.getLsbD (47 + 1) = true ∧ s.task.pendErr = some ⟨{ cause := .capv, sub := 4, imprecise := true }, 0⟩ ∧ Cause.capv ∈ [Cause.capv, .revk, .pflt, .ownx]) ∧
    (let s := boundary (fun t => { t with ev2 := true }) (2 ^ 49); s.task.pendErr = none ∧ s.task.ev2 = true ∧ s.hart.evhpc.getLsbD (47 + 2) = true ∧ s.hart.wait = none) ∧
    (let s := boundary (fun t => { t with ev3 := true, ev2 := true }) (2 ^ 50); s.task.ev3 = true ∧ s.hart.evhpc.getLsbD (47 + 3) = true ∧ ¬(s.task.ev2 = true ∧ s.hart.evhpc.getLsbD (47 + 2) = true)) := by decide +kernel
/-- As run, parked. -/
def parked (w : Wait) (s : State) : State := s.setHart { s.hart with wait := some w }
theorem witness_waits (w : Wait) : (parked w xfer).hart.live = true ∧ (parked w xfer).hart.tid = (parked w xfer).task.tid ∧ (parked w xfer).tile.idx = (parked w xfer).hart.tile ∧ (parked w xfer).hart.wait = some w := ⟨rfl, rfl, rfl, rfl⟩
theorem witness_conditions : xfer.task.join = 0 ∧ xfer.tile.sb.length < 16 ∧ xfer.tile.matrix.length < 4 ∧ xfer.tile.accepted < 16 ∧ 0 < xfer.task.credits[dirIx .n] ∧ (xfer.rec? 2 = some (buf 2 0x1000 256) ∧ xfer.capState (buf 2 0x1000 256) = .full) ∧
    receiving.task.inbox ≠ [] ∧ (∃ m ∈ receiving.tile.inbox, m.asid = receiving.task.asid) ∧ (((sweeping set01).dieAt 0).calendar? 0 = some set01 ∧ set01.busyFor 1 = false) := by decide +kernel

/-- A record in the wheel, or in the deque, of tile 0 for a task that is not running. -/
def waitingTask : Task := { Task.blank with tid := 9, state := .timed, tile := 0 }
def timed (wheel : List Timed) (deque : List Queued) : State := ({ run with tasks := [waitingTask] }.modDie 0 fun d => { d with wheel := wheel }).modTile 0 fun t => { t with deque := deque }
theorem witness_timer : let s := timed [⟨urgent, none⟩] []
    (s.dieAt 0).wheel.filter (fun x => decide (x.item.release.toNat ≤ s.ptp / 1000 * 1000)) = [⟨urgent, none⟩] ∧ s.taskAt? urgent.tid = some waitingTask ∧ s.dequeFull 0 = false ∧ (s.tileAt 0).deque.length < 32 ∧ (s.tileAt 0).dequeAt ≤ s.clk ∧ (s.tileAt 0).waiting = [] ∧ (s.dieAt 0).wheelWait = [] ∧
    (let s := timed [⟨{ urgent with release := 1 }, none⟩] []; ∀ w ∈ (s.dieAt 0).wheel, s.ptp / 1000 * 1000 < w.item.release.toNat) := by decide +kernel
theorem witness_shares : (let s := run.modDie 0 fun d => { d with share := [(0, 2 ^ 18 + 5 * 2 ^ 8 + 7)], shareNext := [(1, 7)] }
    findBy (·.1) 1 (s.dieAt (dieOf 0)).shareNext = some (1, 7) ∧ 1 / 8 = coreOf 0 ∧ ((s.dieAt (dieOf 0)).shareNext.map (·.1)).Nodup) ∧ ((run.dieAt 0).shareOf (coreOf 0)) = [] := by decide +kernel
theorem witness_slot_choice : let s := timed [] [⟨urgent, 0, false, 0⟩]
    (s.openSlots 0).contains 1 = true ∧ (s.tileAt 0).dequeAt ≤ s.clk ∧ s.ue = [] ∧ s.ce = [] ∧ bestOf ((s.tileAt 0).eligible 1) = some ⟨urgent, 0, false, 0⟩ ∧ s.taskAt? urgent.tid = some waitingTask ∧ waitingTask.state ≠ .exited ∧ urgent.saved = false ∧ urgent.h = [] ∧ s.hartAt? urgent.tid 0 = none ∧
    (s.openSlots 0).contains 0 = false := by decide +kernel
theorem witness_slot_restore : let s := { timed [] [⟨{ urgent with saved := true }, 0, false, 0⟩] with harts := [{ Hart.blank with tid := 9, live := true }] }
    (s.openSlots 0).contains 1 = true ∧ bestOf ((s.tileAt 0).eligible 1) = some ⟨{ urgent with saved := true }, 0, false, 0⟩ ∧ s.hartAt? 9 0 = some { Hart.blank with tid := 9, live := true } := by decide +kernel
theorem witness_deque_place : let s := (timed [] []).modTile 0 fun t => { t with waiting := [⟨urgent, 3, true⟩] }
    s.dequePacked 0 = false ∧ (s.tileAt 0).dequeAt ≤ s.clk ∧ run.dequePacked 0 = false ∧ earliestSeeker (s.placeSeekers 0) = some ⟨3, true, 9, .record⟩ ∧ (s.tileAt 0).waiting.find? (fun w => w.item.tid == 9) = some ⟨urgent, 3, true⟩ ∧ (s.tileAt 0).deque.length < 32 ∧
    (timed [] []).placeSeekers 0 = [] ∧ (let s := parked (.dequeRoom 0 2) run; earliestSeeker (s.placeSeekers 0) = some ⟨2, true, s.hart.tid, .spawner s.hart.no⟩) := by decide +kernel
theorem witness_requeue : let s := (run.setTask { run.task with state := .waiting }).setHart { run.hart with met := some .joinZero, slot := none }
    s.hart.tid = s.task.tid ∧ s.hart.no = 0 ∧ s.hart.live = true ∧ s.task.state = .waiting ∧ s.hart.wait = none ∧ s.hart.met = some .joinZero ∧ s.hasRecord s.task.tid = false ∧ s.task.tile = s.tile.idx ∧ s.dequeFull s.tile.idx = false ∧ s.tile.deque.length < 32 ∧ s.tile.dequeAt ≤ s.clk ∧ s.tile.waiting = [] := by decide +kernel
/-- A deque and a spill region that are full (R268, R382). -/
theorem witness_full_deque : (timed [] (List.replicate 288 ⟨urgent, 0, false, 0⟩)).dequeFull 0 = true ∧ (timed [] (List.replicate 288 ⟨urgent, 0, false, 0⟩)).dequePacked 0 = true := by decide +kernel
theorem witness_steal : (let s := timed [] []; s.mayAsk 5 = true ∧ (s.tileAt 5).rests s.clk = true) ∧
    (let s := { timed [] [⟨urgent, 0, false, 0⟩] with harts := (List.range 7).map fun i => { Hart.blank with tid := BitVec.ofNat 32 (20 + i), slot := some (i + 1), live := true } }
     (s.freeSlots 0).isEmpty = true ∧ ((s.tileAt 0).spill ++ (s.tileAt 0).deque).filter (fun q => !q.offered && !q.item.pinned && !q.item.saved && (!false || q.item.flags.getLsbD 0)) = [⟨urgent, 0, false, 0⟩]) ∧
    (let s := timed [] [⟨urgent, 0, true, 0⟩]
     ((s.tileAt 0).spill ++ (s.tileAt 0).deque).find? (fun x => x.item.tid == 9 && x.offered) = some ⟨urgent, 0, true, 0⟩ ∧ s.taskAt? 9 = some waitingTask ∧ (s.tileAt 0).dequeAt ≤ s.clk ∧ s.wantsRecord 0 = false ∧ (s.tileAt 5).dequeAt ≤ s.clk ∧ (s.tileAt 5).waiting = [] ∧ s.ue = [] ∧ s.ce = [] ∧ s.dequeFull 5 = false ∧ (s.tileAt 5).deque.length < 32) ∧
    (timed [] [⟨{ urgent with tid := 8 }, 0, false, 0⟩]).wantsRecord 0 = true ∧ (run.freeSlots 0).isEmpty = false := by decide +kernel

theorem witness_package : (∀ j < 256, (run.ctlRead 0 (0x1000 + 8 * j)).toNat < 2 ^ 48) ∧ run.config.withdrawn.length < 2 ^ 16 ∧ run.stepOf 0 < 2 ∧ run.pcap.toNat < 4501 ∧ 100 * 4000 < 95 * run.pcap.toNat ∧ run.calmTicks + 1 < 10000 ∧
    ¬(95 * run.pcap.toNat ≤ 100 * 4000) ∧ run.baseStep 0 < 2 ∧ 7 ∉ run.config.fenced ∧ (∀ t ∈ run.allTasks, t.tile ≠ 7) ∧ 7 ∉ run.config.withdrawn ∧ run.task.state ≠ .exited ∧ run.task.pendErr = none ∧
    (run.dieAt 0).burstEnd 5 run.clk = none ∧ run.alertPending 0 5 = false ∧ ((run.dieAt 0).postponed.map (·.1)).Nodup ∧ run.power = [] ∧ run.ageingAt = none ∧
    ((run.modDie 0 fun d => { d with bursts := [(5, 0, 900)] }).dieAt 0).burstEnd 5 0 = some 900 := by decide +kernel
/-- What the means and the clock steps of R330 compare, and the order of R332: a mean above the cap, at it, between and below 95 %, with the steps of a die lowered, and a core withdrawn on a die. -/
theorem witness_power : (let held (l : List Nat) : List Nat := l.take 100
      4500 * (held [5000, 5000]).length < (held [5000, 5000]).sum ∧ (held [4400]).sum ≤ 4500 * (held [4400]).length ∧ 95 * (4500 * (held [4400]).length) ≤ 100 * (held [4400]).sum ∧
      100 * (held [4000]).sum < 95 * (4500 * (held [4000]).length)) ∧
    run.stepOf 0 < 2 ∧ 2 ≤ (run.modDie 0 fun d => { d with clockStep := 2 }).stepOf 0 ∧
    (let s := { run.modDie 0 fun d => { d with clockStep := 1 } with calmTicks := 9999 }; 10000 ≤ s.calmTicks + 1 ∧ s.baseStep 0 < s.stepOf 0 ∧ s.stepOf 0 ≤ 2) ∧
    (∀ d < 8, run.stepOf d ≤ run.baseStep d) ∧
    (let s := { run with config := { run.config with withdrawn := [7] }, tick := 1440000000000, ageingAt := some 0 }
     (∃ t, s.ageingAt = some t ∧ t + 1440000000000 ≤ s.tick) ∧ (∃ t ∈ s.config.withdrawn, dieOf t = 0) ∧ s.baseStep 0 < 2 ∧ s.baseStep (dieOf 7) = 0) ∧
    (let s := { run with config := { run.config with withdrawn := [7], steps := [1] } }; 7 ∈ s.config.withdrawn ∧ 0 < s.baseStep (dieOf 7) ∧ 7 ∉ s.config.fenced) := by
  refine ⟨?_, ?_, ?_, ?_, ?_, ⟨⟨0, ?_⟩, ⟨7, ?_⟩, ?_⟩, ?_⟩ <;> decide +kernel
theorem witness_accesses : (let s := parked (.reply 5) run; s.hart.live = true ∧ s.hart.wait = some (.reply 5)) ∧
    (let w : HostWrite := ⟨3, hostBase, [1, 2], 0, 1, 0⟩; let s := { run with hostWrites := [w] }
     s.hostWrites.find? (fun x => x.id == w.id) = some w ∧ Memory.wf s.mem = true ∧ s.hostWrites.filter (fun x => x.port == 0) = [w]) ∧
    (let w : Walk := ⟨0, 3, 0, 9, false⟩; let s := run.modDie 0 fun d => { d with walkQ := [w] }; (s.dieAt 0).walkQ = [w] ∧ (s.dieAt 0).walks.length < 256) := by decide +kernel
/-- A walk that ends while the stream waits for it, with a page table of two levels, whose first entry is given. -/
def walking (discard : Bool) (entry : Nat) : State :=
  let s := (parked (.walk 3 0) { run with asids := [(3, 2 ^ 63)], clk := 9 }).modDie 0 fun d => { d with walks := [⟨0, 3, 0, 9, discard⟩] }
  (s.writePhys hbmBase (bytesOf 8 entry)).writePhys (hbmBase + 4096) (bytesOf 8 15)
theorem witness_walks : let w : Walk := ⟨0, 3, 0, 9, false⟩
    (∀ h ∈ (walking false 0).harts, ¬(h.tid = (walking false 0).hart.tid ∧ h.no = (walking false 0).hart.no)) ∧ ((walking false 0).dieAt 0).walks = w :: [] ∧ w.due ≤ (walking false 0).clk ∧ (walking false 0).walk 3 (0 * 2 ^ 16) = .noMap false ∧
    (match (walking false 0x1001).walk 3 (0 * 2 ^ 16) with | .page _ => true | _ => false) = true ∧
    ((walking true 0).dieAt 0).walks = { w with discard := true } :: [] ∧ (walking false 0).hart.live = true ∧ clusterOf (walking false 0).hart.tile = w.cluster ∧ (walking false 0).hart.wait = some (.walk 3 0) := by decide +kernel
theorem witness_host : let s := ringed 1 0 0 [15] xfer
    (signal 3).length = 8 ∧ s.ringAddr 0 0 = some 0x4000 ∧ Memory.wf s.mem = true ∧ xfer.hostHeld 0 = false ∧ ({ xfer with hostPackets := [(0, ⟨0, 0, 0, 0, 0, 0, 0, 0, 0, 0, 0, 0, 0, 0, []⟩)] } : State).hostHeld 0 = true ∧
    (xfer.freeRecord (dieOfQueue 0)).isSome = true ∧ wordBits 63 2 (4 : Word) ≠ 0 ∧ (xfer.freeRecord 0).isSome = true := by decide +kernel
/-- A packet of the host that writes two bytes of buffer 2, as it is taken, and on buffers that refuse it. -/
def hostPkt : Packet := { kind := 0, src := 0, dst := 1, seq := 0, len := 2, rsv0 := 0, asid := 0, version := 0, rsv1 := 0, root := 2, arg := 0, off := 0, stamp := 0, status := 0, payload := [1, 2] }
theorem witness_host_packets : let s := { xfer with hntcfg := 0x0180006400080064, asids := [(0, 2 ^ 63)] }
    let c := buf 2 0x1000 256
    s.hostPacketOk 34 hostPkt = true ∧ s.hostPacketOk 33 hostPkt = false ∧ s.seize.state = .running ∧ s.hostHeld 0 = false ∧ s.asidLive 0 = true ∧ s.rec? 2 = some c ∧ Memory.wf s.mem = true ∧ c.asid = 0 ∧ c.revoked = false ∧ c.isRoot = true ∧
    staleVersion c.version 0 c.revVersion = false ∧ c.poisoned = false ∧ c.level = .tile ∧ c.phase = none ∧ s.lendChain c = [] ∧ (s.linkAt 0).arriving = [] ∧ c.rights.wr = true ∧ s.admits c (.store (wholeWords 0 2)) = .ok ∧ 0 + 2 ≤ c.len ∧ c.base + c.len ≤ 2 ^ 40 ∧
    s.admits { c with len := 1 } (.store (wholeWords 0 2)) = .ok ∧ ({ c with rights := ⟨true, true, false, true⟩ } : CapRec).rights.wr = false ∧ (1 ≤ 254 ∧ 3 < 20) ∧ State.reset.seize.state ≠ .quiescing ∧ ({ SeizeBlock.blank with state := .streaming } : SeizeBlock).state = .streaming := by decide +kernel

/-- Device 1 with device 2 as a valid peer over port 4, and a tenant. -/
def peered (s : State) : State := { s with hntcfg := 0x0180006400080064, peers := [(2, BitVec.ofNat 64 (2 ^ 63 + 2 ^ 24))], asids := [(0, 2 ^ 63)] }
/-- A packet of the peer that names buffer 2, next in its sequence. -/
def pkt (kind arg : Nat) (payload : List Byte) : Packet :=
  { kind := kind, src := 2, dst := 1, seq := 1, len := payload.length, rsv0 := 0, asid := 0, version := 0, rsv1 := 0, root := 2, arg := BitVec.ofNat 24 arg, off := 0, stamp := 0, status := 0, payload := payload }
theorem witness_sequence (p : Packet) (h : p = pkt 0 0 [1, 2] ∨ p = pkt 1 7 [] ∨ p = pkt 3 8 [1, 0, 0, 0, 0, 0, 0, 0] ∨ p = pkt 3 0x98 ([0, 0, 0, 0, 0, 0, 0, 0] ++ [1, 0, 0, 0, 0, 0, 0, 0]) ∨ p = pkt 8 1 (bytesOf 8 3) ∨ p = pkt 12 15 [] ∨ p = pkt 10 0 (bytesOf 64 5)) :
    (peered xfer).InSequence p := by
  rcases h with rfl | rfl | rfl | rfl | rfl | rfl | rfl <;> exact ⟨rfl, by decide +kernel, by decide +kernel, by decide +kernel, by decide +kernel⟩
theorem witness_named (p : Packet) (n : Nat) (h : p = pkt 0 0 [1, 2] ∧ n = 2 ∨ p = pkt 1 7 [] ∧ n = 8 ∨ p = pkt 3 8 [1, 0, 0, 0, 0, 0, 0, 0] ∧ n = 8) : (peered xfer).NamesRoot p (buf 2 0x1000 256) n := by
  rcases h with ⟨rfl, rfl⟩ | ⟨rfl, rfl⟩ | ⟨rfl, rfl⟩ <;> (refine ⟨?_, ?_, ?_, ?_, ?_, ?_, ?_, ?_, ?_, ?_, ?_, ?_, ?_⟩ <;> decide +kernel)
theorem witness_peer_checks : (let s := peered xfer
      s.admits (buf 2 0x1000 256) (.store (wordSize 2)) = .ok ∧ s.admits (buf 2 0x1000 256) (.load (wordSize 8)) = .ok ∧ s.admitAtomic (buf 2 0x1000 256) true = .ok ∧ (s.readUpTo (buf 2 0x1000 256) 8 0).2 = none ∧ s.hasUE 0x1000 8 = false ∧ s.little 0x1000 8 = 0 ∧
      s.rec? 3 = some (buf 3 0x2000 256) ∧ s.asidLive 3 = false ∧ s.rec? 99 = none ∧ s.accepts { pkt 0 0 [1] with dst := 9 } = false ∧ s.accepts { pkt 0 0 [1] with seq := 2 } = true ∧ (s.linkAt 2).expect < 2 ∧ staleVersion 5 2 3 = true) ∧
    (let s := (peered xfer).putLink { Link.blank 2 with expect := 2, kept := [(1, pkt 6 0 [])] }
     s.accepts (pkt 0 0 [1, 2]) = true ∧ (s.linkAt 2).kept.find? (fun k => k.1 == 1) = some (1, pkt 6 0 [])) := by decide +kernel
theorem witness_wrenq : let s := ringed 1 0 0 [15] (peered xfer)
    let p := pkt 9 0 (bytesOf 66 0x0302)
    s.accepts p = true ∧ (s.linkAt 2).expect = 1 ∧ Memory.wf s.mem = true ∧ 64 < p.len ∧ (buf 2 0x1000 256).rights.wr = true ∧ s.rec? 2 = some (buf 2 0x1000 256) ∧ s.admits (buf 2 0x1000 256) (.store (wordSize (p.len - 64))) = .ok ∧ s.wrenq? none 2 1 = none ∧
    qValid (s.queueWords 0) = true ∧ qAsid (s.queueWords 0) = p.asid ∧ s.ringAddr 0 (qW (s.queueWords 0)) = some 0x4000 ∧ s.ringRoom 0 (qW (s.queueWords 0)) = true ∧ 0x1000 + (p.len - 64) ≤ 0x4000 := by decide +kernel
/-- A tile task of launch 0 at the gateway of port 0, and the block queue that feeds it. -/
def gateway : Task := { Task.blank with tid := 3, state := .running, tile := gatewayTile 0 0, coord := some (0, 8) }
theorem witness_blocks : let s := ({ peered xfer with tasks := [gateway] } : State).modDie (dieOfPort 0) fun d => { d with bqcfg := d.bqcfg.set 0 (2 ^ 63) }
    let w := (s.dieAt (dieOfPort 0)).bqcfg.toArray.getD (portPlace 0) 0
    w.getLsbD 63 = true ∧ wordBits 45 32 w = 0 ∧ s.asidLive 0 = true ∧ (s.dieAt (dieOfPort 0)).blocks = [] ∧ s.gatewayOf 0 0 = some gateway ∧ gateway.state ≠ .exited ∧ s.taskAt? 3 = some gateway ∧ gateway.q[0].length < 16 ∧ gateway.qv[0].length < 4 := by decide +kernel
/-- Transfers for task 1: a fraction that device 2 owns, and a root with its bytes. -/
def offer (kind phase : Nat) : Packet := pkt 5 0 (wordBytes [BitVec.ofNat 64 (kind * 2 ^ 52 + phase * 2 ^ 56), 255, BitVec.ofNat 64 (2 * 2 ^ 23 + 5 + 2 ^ 31), BitVec.ofNat 64 (1 * 2 ^ 32), 7, 8, 0, 0])
theorem witness_capxfer : let s := peered xfer
    (∀ q ∈ [(0, 0), (1, 0), (0, 1)], s.accepts (offer q.1 q.2) = true ∧ xferOk (offer q.1 q.2) = true ∧ wordBits 57 56 (packetWord (offer q.1 q.2) 0) = q.2 ∧ (xKind (offer q.1 q.2)).code = q.1 ∧ s.inboxDest (packetWord (offer q.1 q.2) 3) = some ⟨0, 0, 1⟩) ∧
    s.taskAt? 1 = some s.task ∧ s.task.state ≠ .exited ∧ s.taskInboxFull s.task = false ∧ xOwner (offer 1 0) ≠ s.ownDevice ∧ (s.freeRecord (dieOf s.task.tile)).isSome = true ∧ (s.xferPlace (offer 0 0) 0).isSome = true ∧
    (let s := (s.putRec { buf 2 0x1000 256 with state := .filling, writers := 1 }).putLink { Link.blank 2 with arriving := [2] }
     (s.linkAt 2).arriving.contains 2 = true ∧ s.rec? 2 = some { buf 2 0x1000 256 with state := .filling, writers := 1 }) := by decide +kernel

/-- Shares of a root of this device come back to a task of it: the packet names the root and its owner, device 1. -/
def homeward (kind : Nat) : Packet := pkt 5 0 (wordBytes [BitVec.ofNat 64 (kind * 2 ^ 52), 255, BitVec.ofNat 64 (1 * 2 ^ 23 + 2 + 2 ^ 31), BitVec.ofNat 64 (1 * 2 ^ 32), 7, 8, 0, 0])
theorem witness_shares_home : ∀ kind ∈ [1, 2], let s := peered xfer
    let p := homeward kind
    s.accepts p = true ∧ xferOk p = true ∧ s.asidLive p.asid = true ∧ s.inboxDest (packetWord p 3) = some ⟨0, 0, 1⟩ ∧ wordBits 57 56 (packetWord p 0) = 0 ∧ (xKind p = .frac ∨ xKind p = .commons) ∧ xOwner p = s.ownDevice ∧ packetWord p 3 ≠ 0 ∧
    s.rec? (xRoot p) = some (buf 2 0x1000 256) ∧ (buf 2 0x1000 256).isRoot = true ∧ staleVersion 0 p.version 0 = false ∧ (s.freeRecord (xRoot p / 2 ^ 20)).isSome = true ∧ s.taskAt? 1 = some s.task ∧ s.taskInboxFull s.task = false := by decide +kernel
/-- Packets while the device seizes, and refused transfers. -/
theorem witness_seized_packets : ({ peered xfer with seize := { SeizeBlock.blank with state := .frozen } } : State).fillsOld (pkt 0 0 [1]) = false ∧ (peered xfer).InSequence (offer 1 0) ∧ ((peered xfer).xferPlace (offer 0 0) 0).isSome = true := by
  refine ⟨?_, ⟨rfl, ?_, ?_, ?_, ?_⟩, ?_⟩ <;> decide +kernel

/-- A request of the stream that waits for the peer's answer, and the link that holds it. -/
def asked (kind : Nat) : Sent := { packet := { pkt kind 7 [] with dst := 2, src := 1, seq := 4 }, at_ := 0, tid := 1, no := 0, handle := 1, xfer := none, cap := none }
def remoteWait (kind : Nat) (r : Reply) : State :=
  ((peered run).putLink { Link.blank 2 with asked := [asked kind], unacked := [asked kind], nextSeq := 5 }).setHart { run.hart with wait := some (.peerReply 2 4), remote := some ⟨2, 4, r, 1, 2, 4, false⟩ }
theorem witness_rdresp (kind : Nat) (h : kind = 1 ∨ kind = 3) (r : Reply) : (remoteWait kind r).InSequence (pkt 2 0 (bytesOf 8 5)) ∧ (remoteWait kind r).Plain ∧ (remoteWait kind r).hart.wait = some (.peerReply 2 (asked kind).packet.seq) ∧
    ((remoteWait kind r).linkAt 2).asked.find? (fun y => y.packet.kind == kind && y.packet.root == (pkt 2 0 (bytesOf 8 5)).root && y.packet.off == (pkt 2 0 (bytesOf 8 5)).off) = some (asked kind) := by
  refine ⟨⟨rfl, ?_, rfl, ?_, ?_⟩, rfl, rfl, ?_⟩
  · show (peered run).accepts _ = true; decide +kernel
  · show ((peered run).linkAt 2).sinceAck + 1 < 16; decide +kernel
  · show Memory.wf run.mem = true; decide +kernel
  · rcases h with rfl | rfl <;> rfl
theorem witness_answers : let s := remoteWait 1 (.x 5 8 false)
    s.accepts (pkt 6 0 []) = true ∧ (s.linkAt 2).waiting = [] ∧ (s.linkAt 2).unacked.find? (fun y => y.packet.seq == 4) = some (asked 1) ∧ (s.linkAt 2).peerEpoch = (pkt 11 0 []).arg.toNat % 65536 ∧ s.task.pendErr = none ∧ (asked 0).packet.kind = 0 ∧ (asked 0).tid = s.task.tid := by decide +kernel
theorem witness_link_timers : (run.linkAt 2).sinceAck = 0 ∧ (let s := (peered run).putLink { Link.blank 2 with sinceAck := 1, unacked := [asked 1], unansweredAt := some 0 }
    (s.linkAt 2).sinceAck ≠ 0 ∧ (s.linkAt 2).unacked = asked 1 :: [] ∧ (s.peerPort 2).isSome = true ∧ s.ptp < (asked 1).at_ + 4 * s.hntTarget ∧ (s.linkAt 2).unansweredAt = some 0 ∧ s.ptp < 0 + s.hntTimeout ∧
    ({ s with ptp := 10 ^ 12 } : State).ptp ≥ 4 * s.hntTarget ∧ 0 + s.hntTimeout ≤ 10 ^ 12) ∧ (run.linkAt 2).unansweredAt = none := by decide +kernel

/-- Packets that a RESYNC renumbers: one in doubt, one unacknowledged, one that waits, none with a capability; and a link given up. -/
theorem witness_resync : let l := { Link.blank 2 with doubt := [{ asked 1 with packet := { (asked 1).packet with seq := 2 } }], unacked := [asked 1], waiting := [{ asked 1 with packet := { (asked 1).packet with seq := 5 } }] }
    let s := (peered run).putLink l
    (s.linkAt 2).peerEpoch = (pkt 11 0 []).arg.toNat % 65536 ∧ (∀ x ∈ (s.linkAt 2).doubt ++ (s.linkAt 2).unacked ++ (s.linkAt 2).waiting, x.xfer = none ∧ x.cap = none) ∧ s.accepts (pkt 11 0 []) = true ∧
    (let s := (peered run).putLink { l with unansweredAt := some 0, unacked := [{ asked 1 with cap := some 2 }] }
     (s.linkAt 2).unansweredAt = some 0 ∧ 0 + s.hntTimeout ≤ ({ s with ptp := 10 ^ 12 } : State).ptp ∧ (∃ x ∈ (s.linkAt 2).unacked ++ (s.linkAt 2).waiting, x.cap.isSome = true)) := by
  refine ⟨?_, ?_, ?_, ?_, ?_, ⟨{ asked 1 with cap := some 2 }, ?_⟩⟩ <;> decide +kernel

/-- Conditions of the completion statement that no other statement has: CSWD of the watchdog register, a launch's code in an own barrier, a zero count, and an SJOIN without siblings. -/
theorem witness_completions : (inHandler 20).hart.cswa = 0 ∧ (inHandler 20).hart.level = .s ∧ (16 ≤ ((inHandler 20).x 31).toNat ∧ ((inHandler 20).x 31).toNat ≤ 32) ∧ (phased.x 9 = 0 ∧ (buf 7 0x5000 64 .phase).phase.isSome = true) ∧
    (xfer.task.coord.isSome = true ∧ (xfer.launchAt? xfer.task.launch).isSome = true ∧ xfer.task.openArrival = none) ∧ ((siblings []).hartsOf (siblings []).task.tid).map (·.no) = [(siblings []).hart.no] ∧
    (let s := sweeping (calendar [member 0 0] [] false true); ∃ c, (s.dieAt s.sweepDie).calendar? (wordBits 19 16 (s.x 1)) = some c ∧ (c.part? s.task.tid).map (·.done) = some true ∧ wordBits 63 20 (s.x 1) = 0) := by
  refine ⟨?_, ?_, ?_, ?_, ?_, ?_, ⟨calendar [member 0 0] [] false true, ?_⟩⟩ <;> decide +kernel

/-- The state whose next step is ADD x3, x4, x5. -/
def fetching : State := State.reset.withFetchWord 32 0x000A4183
/-- That state with its stream in focus for its turn. -/
def turned : State :=
  let g : State := { fetching with cursor := 1 }
  (g.setTile { g.tile with prevSlot := g.tile.lastSlot, lastSlot := 0 }).setHart { g.hart with wait := none }
theorem witness_step : fetching.TurnOf turned ∧ turned.BoundaryClear ∧ turned.CodeAt (bytesOf 4 0x000A4183) ∧ (turned.noteFetch turned.hart.pc.toNat).CodeAt (bytesOf 4 0x000A4183) ∧ turned.ue = [] ∧ turned.ce = [] ∧ turned.groupModes = [] := by
  have e : ∀ {r : Except TrapInfo (List Byte)} {l : List Byte}, (match r with | .ok b => some b | .error _ => none) = some l → r = .ok l := by intro r l h; cases r <;> simp_all
  refine ⟨⟨?_, ?_, ?_, ?_, 0, fetching.hart, { fetching with cursor := 1 }, ?_, ?_, ?_, rfl⟩, ⟨?_, .inr (.inr ⟨?_, ?_⟩)⟩, ⟨{ CapRec.fresh 1 0 .tile .commons 4096 0 0 with rights := ⟨false, false, false, true⟩ }, ?_, ?_, ?_, e ?_⟩, ⟨{ CapRec.fresh 1 0 .tile .commons 4096 0 0 with rights := ⟨false, false, false, true⟩ }, ?_, ?_, ?_, e ?_⟩, ?_, ?_, ?_⟩
  all_goals decide +kernel
theorem witness_decode : (match decode (bytesOf 4 0x000A4183) with | .ok (i, n, r) => decide (i = .add 3 4 5 ∧ n = 4 ∧ r = []) | .error _ => false) = true ∧ (Instr.add 3 4 5).wf = true ∧ encodeWord (.add 3 4 5) = some (32, 0x000A4183) := by decide +kernel
theorem witness_canonical : State.reset.Canonical := canonical_of rfl rfl rfl
/-- What a step of a state leaves in a register and in the PC. -/
def stepped (s : State) : Option (Word × Word) := match step (s.setHart { s.hart with x := (s.hart.x.set 4 7).set 5 8 }) with | .next t => some (t.x 3, t.hart.pc) | _ => none
theorem test_step_add : stepped fetching = some (15, 4) := by decide +kernel

/-! # Worked examples of the spec -/

/-- The rows of R135's table that convert finite values. -/
theorem test_conversions : (let v (f : FpFmt) (sat : Bool) : Env := { fmt := f, mode := .rne, ftz := false, sat := sat }
    let w (c : Nat) := fp32.decode c
    [fpConvert (v e4m3 true) (w 0x447A0000), fpConvert (v e4m3 false) (w 0x447A0000), fpConvert (v e4m3 false) (w 0x3E99999A), fpConvert (v e2m1 false) (w 0x3E99999A), fpConvert (v e2m1 false) (w 0x40200000),
     fpConvert (v e2m1 false) (w 0x40300000), fpConvert (v e2m1 false) (w 0xC0E00000), fpConvert (v e5m2 true) (w 0x7F800000), fpConvert (v e2m1 false) (w 0x7FC00000)]) =
    [(0x7E, flOF ||| flNX), (0x7F, flOF ||| flNX), (0x2A, flNX), (1, flUF ||| flNX), (4, flNX), (5, flNX), (0xF, flOF ||| flNX), (0x7B, 0), (0, flNV)] := by decide +kernel
/-- The example of R130: 1.25 to E2M1 goes down for u up to 0x7FFF. -/
theorem test_stochastic : (fpConvert { fmt := e2m1, mode := .rs, ftz := false, u := 0x7FFF } (fp32.decode 0x3FA00000)).1 = 2 ∧ (fpConvert { fmt := e2m1, mode := .rs, ftz := false, u := 0x8000 } (fp32.decode 0x3FA00000)).1 = 3 := by decide +kernel
/-- The example of R147: FCLASS of -0.75. -/
theorem test_class : fpClass fp32 0xBF400000 = 0xFFFA := by decide +kernel
/-- The worked rotation of R114: classes 5 and 9 of weights 3 and 1. -/
theorem test_owners : ownersOf [(5, 3), (9, 1)] (fun _ => 0) = #v[5, 5, 5, 5, 5, 9, 5, 9] ∧ ownersOf [(5, 3), (9, 1)] (fun c => if c = 5 then -32 else 0) = #v[5, 5, 5, 5, 9, 5, 9, 5] := by decide +kernel
/-- The two values of R343. -/
theorem test_seize_bound : seizeBound 64 = 1757199 ∧ seizeBound 56 = 2008084 := by decide +kernel
/-- The quotients and remainders of R77 that do not follow from division. -/
theorem test_division : (after (.div 3 4 5) (withX [0, 0, 0, 2 ^ 63, BitVec.ofInt 64 (-1)] run)).x 3 = 0x7FFFFFFFFFFFFFFF ∧ (after (.rem 3 4 5) (withX [0, 0, 0, BitVec.ofInt 64 (-7), 2] run)).x 3 = BitVec.ofInt 64 (-1) := by decide +kernel
/-- The example of R159: four lanes quantised to FP4 with their flags. -/
theorem test_quantise : (let s := run.setV 2 (BitVec.ofNat 512 (0x3E99999A + 0x40200000 * 2 ^ 32 + 0x40300000 * 2 ^ 64 + 0xC0E00000 * 2 ^ 96))
    let t := after (.vqnt 9 2 0 .f32 1 false) (s.setHart { s.hart with fs := s.hart.fs.set 1 7 })
    (t.v 9 = BitVec.ofNat 512 0xF541 ∧ t.hart.fflg = 7)) := by decide +kernel
/-- The worked example of R189. -/
theorem test_edge : blockEdge (BitVec.ofNat 64 (300 * 2 ^ 40 + 22 * 2 ^ 20 + 40)) (BitVec.ofNat 64 (2 * 2 ^ 32 + 2 ^ 16 + 2)) = 0x0000002CFFC0FF00 := by decide +kernel

end Sys2Proof.Tests
end

section
/-!
PROOFS. Every step goes on and keeps the canonical forms.
-/
namespace Sys2Proof.Machine

open Sys2Proof

/-- A meaning that goes on names its next state, and that state is canonical. -/
theorem GoodOut.next_canonical {o : Out} (h : GoodOut o) : ∃ t, o = .next t ∧ t.Canonical := by
  cases o with
  | next t => exact ⟨t, rfl, h⟩
  | _ => exact h.elim

/-- A running device advances, every other one takes a step of its seize; both keep the canonical forms. -/
theorem good_step (s : State) (h : Good s) : GoodOut (step s) := by
  unfold step State.cycle
  split
  · exact good_State_advance s h
  · exact good_State_seized s h

/-- Settles O59: what each part of a step keeps (good_State_advance, good_State_seized), put together. -/
theorem stepKeepsCanonical : Obligations.StepKeepsCanonical := by
  intro s hs
  exact (good_step s hs).next_canonical

end Sys2Proof.Machine
end

section
/-!
PROOFS. Loads whose checks pass.
-/
namespace Sys2Proof.Machine

open Sys2Proof

/-- A load into a general register: its value extended, the stream past it and waiting for the data. -/
theorem load_x_waits (s : State) (hp : s.Plain) (nb : Nat) (d : BitVec 5) (size : Nat) (sg : Bool) (h : BitVec 4) (off : Word) (c : CapRec) (a : Nat) (hl : s.Loads h off size c a) :
    ∃ t, load nb (.x d size sg) size h off s = .next t ∧ WroteX d (extendBytes size sg (s.little a size))
      (s.awaits nb (s.clk + s.homeLatency (.mem a)) { pc := s.hart.pc, repst := s.hart.repst, x := some (d, s.x d) }) t :=
  ⟨_, load_next s nb _ size h off c a hl, loaded_x s hp nb d size sg _ _⟩

theorem load_signed_waits (s : State) (hp : s.Plain) (nb : Nat) (d : BitVec 5) (size : Nat) (h0 : 0 < size) (h : BitVec 4) (off : Word) (c : CapRec) (a : Nat) (hl : s.Loads h off size c a) :
    ∃ t, load nb (.x d size true) size h off s = .next t ∧ WroteX d (BitVec.ofInt 64 (signedNat size (s.little a size)))
      (s.awaits nb (s.clk + s.homeLatency (.mem a)) { pc := s.hart.pc, repst := s.hart.repst, x := some (d, s.x d) }) t := by
  rw [← extend_signed size _ (little_lt s a size) h0]
  exact load_x_waits s hp nb d size true h off c a hl

theorem load_unsigned_waits (s : State) (hp : s.Plain) (nb : Nat) (d : BitVec 5) (size : Nat) (h : BitVec 4) (off : Word) (c : CapRec) (a : Nat) (hl : s.Loads h off size c a) :
    ∃ t, load nb (.x d size false) size h off s = .next t ∧ WroteX d (BitVec.ofInt 64 (s.little a size : Int))
      (s.awaits nb (s.clk + s.homeLatency (.mem a)) { pc := s.hart.pc, repst := s.hart.repst, x := some (d, s.x d) }) t := by
  rw [← extend_unsigned size _ (little_lt s a size)]
  exact load_x_waits s hp nb d size false h off c a hl

/-- The offset of C.LD: the register x0 adds nothing. -/
theorem offset_x0 (s : State) (o : BitVec 4) : s.offset 0 (o.zeroExtend 8) 8 = BitVec.ofNat 64 (o.toNat * 8) := by
  rw [offset_eq, x_zero]
  have : (o.zeroExtend 8).toNat = o.toNat := by simp; omega
  rw [this]
  exact BitVec.zero_add _

/-- The offset of OXL: its immediate counts words of 8 bytes. -/
theorem sx_mul_eight {n : Nat} (j : BitVec n) : (sx j * 8 : Word) = BitVec.ofInt 64 (j.toInt * 8) := by
  rw [sx_int, BitVec.ofInt_mul]; rfl

theorem ldv_waits (s : State) (hp : s.Plain) (d : BitVec 5) (h : BitVec 4) (off : Word) (c : CapRec) (a : Nat) (hl : s.Loads h off 64 c a) :
    load 4 (.v d) 64 h off s = .next ((s.awaits 4 (s.clk + s.homeLatency (.mem a)) { pc := s.hart.pc, repst := s.hart.repst, v := some (d, s.v d) }).setV d (BitVec.ofNat 512 (s.little a 64))) := by
  rw [load_next s 4 _ 64 h off c a hl]
  unfold State.loaded State.done State.writeReply
  rw [advance_plain _ _ (by exact hp)]
  rfl

theorem oxl_waits (s : State) (hp : s.Plain) (n : BitVec 3) (h : BitVec 4) (off : Word) (c : CapRec) (a : Nat) (hl : s.Loads h off 8 c a) :
    load 4 (.ox n) 8 h off s = .next ((s.awaits 4 (s.clk + s.homeLatency (.mem a)) { pc := s.hart.pc, repst := s.hart.repst }).setOX n (BitVec.ofNat 64 (s.little a 8))) := by
  rw [load_next s 4 _ 8 h off c a hl]
  unfold State.loaded State.done State.writeReply
  rw [advance_plain _ _ (by exact hp)]
  rfl

/-- Writing an extension register and going on leaves the stream past the instruction. -/
theorem finish_setOX (s : State) (hp : s.Plain) (n : BitVec 3) (w : Word) : finish 4 (s.setOX n w) = .next ((s.past 4).setOX n w) := by
  exact finish_of (t := s.setOX n w) hp rfl

/-- Settles O9: each form is the shared load with its size and its extension. -/
theorem loadsComplete : Obligations.LoadsComplete := by
  refine ⟨fun s d h x i n2 o4 c a hp => ?_, fun s d h x i n j c a hp => ?_⟩
  · dsimp only
    refine ⟨?_, ?_, ?_, ?_, ?_, ?_, ?_, ?_⟩
    · exact load_signed_waits s hp 4 d 1 (by decide) h _ c a
    · exact load_unsigned_waits s hp 4 d 1 h _ c a
    · exact load_signed_waits s hp 4 d 2 (by decide) h _ c a
    · exact load_unsigned_waits s hp 4 d 2 h _ c a
    · exact load_signed_waits s hp 4 d 4 (by decide) h _ c a
    · exact load_unsigned_waits s hp 4 d 4 h _ c a
    · exact load_unsigned_waits s hp 4 d 8 h _ c a
    · intro hl
      have hr := load_unsigned_waits s hp 2 d 8 _ _ c a hl
      rw [BitVec.ofInt_natCast, ← offset_x0 s o4] at hr
      exact hr
  · dsimp only
    refine ⟨fun hw hl => ?_, fun hl => ?_, ?_, ?_⟩
    · have he : exec (.ldv d h x i) s = load 4 (.v d) 64 h (s.offset x i 64) s := by
        show execLdv d h x i s = _
        unfold execLdv
        rw [hw]
      rw [he]
      exact ldv_waits s hp d h _ c a hl
    · show load 4 (.ox n) 8 h (sx j * 8) s = _
      rw [sx_mul_eight]
      exact oxl_waits s hp n h _ c a hl
    · exact finish_setOX s hp n (s.handle h)
    · have hw : BitVec.ofInt 64 ((s.x d).toInt + j.toInt) = s.x d + sx j := by
        rw [BitVec.ofInt_add, BitVec.ofInt_toInt, sx_int]
      rw [hw]
      exact finish_setOX s hp n _

end Sys2Proof.Machine
end

section
/-!
PROOFS. SPAWN and SPAWNAT of records that pass their checks.
-/
namespace Sys2Proof.Machine

open Sys2Proof

/-- The spawner once its record's capabilities have left it and its join counter counts the task (R9, R94). -/
def State.spawner (u : State) (p : List Word) (caps : List (Nat × CapRec)) : State :=
  if pf p 0 5 5 = 0 then (u.moveHandles caps (handleFields p)).setTask { (u.moveHandles caps (handleFields p)).task with join := (u.moveHandles caps (handleFields p)).task.join + 1 }
  else u.moveHandles caps (handleFields p)

/-- The spawner past its instruction, its new task in a deque or the wheel. -/
def State.spawnDone (v : State) (r : TaskRec) (dest : Nat) (d : BitVec 5) (n : Nat) : State :=
  ((((v.setHart { v.hart with met := none }).spawnTask r dest (v.hart.grantSince dest)).setX d (r.tid.zeroExtend 64)).busy n).done 4

/-- What a task's record and place must meet for the spawn to go on (R94, R272, R382). -/
structure State.SpawnRoom (s : State) (p : List Word) (dest : Nat) : Prop where
  deque : s.dequeFull dest = false
  wheel : ¬(s.ptp < (pw p 3).toNat ∧ s.wheelFull (dieOf dest) = true)
  join : s.task.join < 65535
  released : s.releaseWait = none

/-- The tile of a new task: the spawner's own, or for SPAWNAT the one to which the record's first capability sends it (R94). -/
def State.SpawnsTo (s : State) (at_ : Bool) (caps : List (Nat × CapRec)) (dest : Nat) : Prop :=
  (at_ = false ∧ dest = s.tile.idx) ∨ (at_ = true ∧ ∃ c cs, caps = c :: cs ∧ s.ownerTile c.2 = .ok (dest, s))

/-- A spawn that passes its checks and finds room makes its task. -/
theorem spawnFrom_next {s u : State} {at_ : Bool} {d : BitVec 5} {p : List Word} {n dest : Nat} {tid : Tid} {caps : List (Nat × CapRec)}
    (h5 : s.r5 p = true) (hr : s.recordOk p at_ = true) (hp : s.passAll (handleFields p) = (.wait .remote, caps)) (hl : caps.length = (handleFields p).length)
    (hd : s.SpawnsTo at_ caps dest) (room : s.SpawnRoom p dest) (ht : s.newTid s.tile.idx = some (tid, u)) :
    spawnFrom at_ d p n s = .next ((u.spawner p caps).spawnDone (u.queuedForm p tid at_ caps dest) dest d n) := by
  obtain ⟨hq, hw, hj, hrel⟩ := room
  have hj2 : ¬(pf p 0 5 5 = 0 ∧ 65535 ≤ s.task.join) := by omega
  have hl2 : ¬caps.length < (handleFields p).length := by omega
  unfold spawnFrom
  rcases hd with ⟨rfl, rfl⟩ | ⟨rfl, c, cs, rfl, ho⟩
  · simp only [h5, hr, hp, if_neg hl2, hq, if_neg hw, if_neg hj2, hrel, ht, Bool.not_true, Bool.false_and, Bool.false_eq_true, if_false]
    rfl
  · simp only [h5, hr, hp, if_neg hl2, ho, hq, if_neg hw, if_neg hj2, hrel, ht, Bool.not_true, Bool.false_and, Bool.false_eq_true, if_false, if_true]
    rfl

/-- The state of a task that a spawn makes: its record's fields, QUEUED or TIMED by its release time (R13). -/
def TaskRec.spawned (r : TaskRec) (ptp dest : Nat) : Task :=
  { r.task dest with state := if ptp < r.release.toNat then .timed else .queued, h := placeHandles r.h (r.task dest).h }

/-- A spawn writes its register and steps on; of the rest only the new task, its record's place and its launch are touched. -/
theorem spawnDone_ok (v : State) (hp : v.Plain) (r : TaskRec) (dest : Nat) (d : BitVec 5) (n : Nat) (hf : v.task.tid ≠ r.tid) :
    let t := v.spawnDone r dest d n
    (∀ k, t.x k = if k = 0 then 0 else if k = d then r.tid.zeroExtend 64 else v.x k) ∧ t.hart = { (v.past 4).hart with x := t.hart.x, readyAt := v.clk + n } ∧
      t.mem = v.mem ∧ t.quire = v.quire ∧ t.task = v.task ∧ t.taskAt? r.tid = some (r.spawned v.ptp dest) := by
  obtain ⟨ts, tl, tls, ds, l, ue, ce, e, ht⟩ := spawnTask_ok (v.setHart { v.hart with met := none }) r dest (v.hart.grantSince dest) hf
  unfold State.spawnDone
  generalize (v.setHart { v.hart with met := none }).spawnTask r dest (v.hart.grantSince dest) = w at e ht
  have hh : w.hart = { v.hart with met := none } := by rw [e]; rfl
  have hclk : w.clk = v.clk := by rw [e]; rfl
  have hrest : w.mem = v.mem ∧ w.quire = v.quire ∧ w.task = v.task := by rw [e]; exact ⟨rfl, rfl, rfl⟩
  obtain ⟨hm, hq, hk⟩ := hrest
  refine ⟨fun k => ?_, ?_, hm, hq, hk, ht⟩
  · rw [done_x]
    refine (x_setX w d k _).trans ?_
    unfold State.x
    rw [hh]
    rfl
  · rw [wrote_hart w d _ n 4 (by rw [hh]; exact hp), hh, hclk]
    rfl

/-- The fields of a written-form record that its task shows (R8). -/
theorem spawned_fields (u : State) (p : List Word) (tid : Tid) (at_ : Bool) (caps : List (Nat × CapRec)) (ptp dest : Nat) :
    let r := (u.queuedForm p tid at_ caps dest).spawned ptp dest
    r.state = (if ptp < (pw p 3).toNat then .timed else .queued) ∧ r.parent = u.task.tid ∧ r.asid = pkAsid p ∧ r.launch = u.task.launch ∧ r.arg = pw p 5 ∧ r.deadline = pw p 2 ∧
      r.prioBase = pf p 0 21 16 ∧ r.tile = dest ∧ r.detached = (pf p 0 5 5 == 1) ∧ r.pinned = (at_ || pf p 0 46 46 == 1) :=
  ⟨rfl, rfl, rfl, rfl, rfl, rfl, rfl, rfl, bit_of p, rfl⟩

/-- A legal record carries the ASID of its spawner (R94). -/
theorem recordOk_asid {s : State} {p : List Word} {at_ : Bool} (h : s.recordOk p at_ = true) : pkAsid p = s.task.asid := by
  unfold State.recordOk at h
  simp only [Bool.and_eq_true, beq_iff_eq] at h
  grind

/-- Without handles only the join counter of the spawner changes. -/
theorem spawner_without (u : State) {p : List Word} (h : handleFields p = []) :
    u.spawner p [] = u.setTask { u.task with join := if pf p 0 5 5 = 0 then u.task.join + 1 else u.task.join } := by
  have e : u.moveHandles [] (handleFields p) = u := by rw [h]; rfl
  unfold State.spawner
  rw [e]
  split <;> rfl

/-- One handle leaves its spawner with its capability. -/
theorem moveHandles_one (u : State) (i : Nat) (k : BitVec 4) (c : CapRec) (h : c.owner ≠ launchOwner) :
    u.moveHandles [(i, c)] [(i, k.toNat)] = (u.putRec { c with owner := noOwner }).setHandle k 0 := by
  unfold State.moveHandles
  simp only [List.zip_cons_cons, List.zip_nil_left, List.foldl_cons, List.foldl_nil, if_neg h, BitVec.ofNat_toNat, BitVec.setWidth_eq]

/-- The spawner of a record with one handle: its handle reads zero, and its capability belongs to nobody until the task issues (R9, R23). -/
theorem spawner_one (u : State) {p : List Word} {i : Nat} {k : BitVec 4} {c : CapRec} (hf : handleFields p = [(i, k.toNat)]) (h : c.owner ≠ launchOwner) :
    let v := u.spawner p [(i, c)]
    v.hart = u.hart ∧ v.mem = u.mem ∧ v.quire = putBy CapRec.img { c with owner := noOwner } u.quire ∧ v.task.tid = u.task.tid ∧ ∀ e, v.task.getH e = if e = k then 0 else u.handle e := by
  have hm := moveHandles_one u i k c h
  rw [← hf] at hm
  unfold State.spawner
  rw [hm]
  split <;> exact ⟨rfl, rfl, rfl, rfl, fun e => setH_get u.task k e 0⟩

/-- The first handle of a record is handle 0 of its task (R9). -/
theorem placeHandles_first (i : Nat) (l : List Nat) (h : Vector Word 16) : (placeHandles (i :: l) h)[0] = BitVec.ofNat 64 i :=
  (placed_first (i :: l) h (l.length + 1) fun _ _ => .inr trivial).trans (by simp)

/-- The first capability of a record with one handle is handle 0 of its task. -/
theorem queuedForm_handle (u : State) (p : List Word) (tid : Tid) (at_ : Bool) (c : CapRec) (ptp dest : Nat) :
    ((u.queuedForm p tid at_ [(0, c)] dest).spawned ptp dest).h[0] = BitVec.ofNat 64 c.image :=
  placeHandles_first c.image [0, 0, 0] _

/-- A new TID is noted at its tile and nowhere else. -/
theorem newTid_kept {s u : State} {tile : Nat} {tid : Tid} (h : s.newTid tile = some (tid, u)) :
    u.hart = s.hart ∧ u.mem = s.mem ∧ u.quire = s.quire ∧ u.task = s.task ∧ u.ptp = s.ptp ∧ u.clk = s.clk := by
  obtain ⟨t, ts, rfl⟩ := newTid_only h
  exact ⟨rfl, rfl, rfl, rfl, rfl, rfl⟩

/-- SPAWN of a record without handles. -/
theorem spawn_makes_task (s : State) (d : BitVec 5) (h : BitVec 4) (b : BitVec 5) (p : List Word) (lat : Nat) (tid : Tid) (hp : s.Plain) (hs : s.Spawns h (s.x b) p lat tid) :
    ∃ t r, exec (.spawn d h b) s = .next t ∧ (∀ k, t.x k = if k = 0 then 0 else if k = d then tid.zeroExtend 64 else s.x k) ∧
        t.hart = { (s.past 4).hart with x := t.hart.x, readyAt := s.clk + lat } ∧ t.mem = s.mem ∧
        t.task = { s.task with join := if pf p 0 5 5 = 0 then s.task.join + 1 else s.task.join } ∧
        t.taskAt? tid = some r ∧ r.state = (if s.ptp < (pw p 3).toNat then .timed else .queued) ∧ r.parent = s.task.tid ∧ r.asid = s.task.asid ∧
        r.launch = s.task.launch ∧ r.arg = pw p 5 ∧ r.deadline = pw p 2 ∧ r.prioBase = pf p 0 21 16 ∧ r.tile = s.tile.idx ∧ r.detached = (pf p 0 5 5 == 1) := by
  obtain ⟨⟨c, a, hread, rfl, hw8⟩, h5, hr, hf, hq, hw, hj, hrel, ⟨u, ht⟩, -, hne⟩ := hs
  have hpass : s.passAll (handleFields p) = (.wait .remote, []) := by rw [hf]; rfl
  have hgo := spawnFrom_next (d := d) (n := s.homeLatency (.mem a)) h5 hr hpass (by rw [hf]; rfl) (.inl ⟨rfl, rfl⟩) ⟨hq, hw, hj, hrel⟩ ht
  rw [hw8, ← spawn_read false s d h b c a hread, ← hw8] at hgo
  obtain ⟨uh, um, -, uk, up, uc⟩ := newTid_kept ht
  obtain ⟨f1, f2, f3, f4, f5, f6, f7, f8, f9, -⟩ := spawned_fields u p tid false [] u.ptp s.tile.idx
  have hv := spawner_without u hf
  obtain ⟨hx, hh, hm, -, hk, hat⟩ := spawnDone_ok (u.setTask { u.task with join := if pf p 0 5 5 = 0 then u.task.join + 1 else u.task.join })
    (by unfold State.Plain; rw [State.setTask_hart, uh]; exact hp) (u.queuedForm p tid false [] s.tile.idx) s.tile.idx d (s.homeLatency (.mem a)) (by rw [State.setTask_task, uk]; exact hne.symm)
  rw [hv] at hgo
  refine ⟨_, _, hgo, fun k => ?_, ?_, hm.trans um, ?_, hat, ?_, ?_, f3.trans (recordOk_asid hr), ?_, f5, f6, f7, f8, f9⟩
  · rw [hx, show State.x (u.setTask _) k = s.x k from by unfold State.x; rw [State.setTask_hart, uh]]
    rfl
  · rw [hh]
    unfold State.past State.stands
    rw [State.setTask_hart, State.setTask_clk, uh, uc]
  · rw [hk, State.setTask_task, uk]
  · rw [State.setTask_ptp, f1, up]
  · rw [State.setTask_ptp, f2, uk]
  · rw [State.setTask_ptp, f4, uk]

/-- SPAWNAT of a record with one handle, whose buffer lies on a tile. -/
theorem spawnat_makes_task (s : State) (d : BitVec 5) (h : BitVec 4) (b : BitVec 5) (p : List Word) (k : BitVec 4) (c : CapRec) (v : Nat) (tid : Tid) (u : State) (hp : s.Plain)
    (hread : ∃ f, s.Reads h (s.x b) 64 false f v) (hw8 : p = (List.range 8).map fun i => BitVec.ofNat 64 (s.little (v + 8 * i) 8)) (h5 : s.r5 p = true) (hr : s.recordOk p true = true)
    (hf : handleFields p = [(0, k.toNat)]) (hk : s.passHandle k = .ok c) (hown : c.owner ≠ launchOwner) (hlev : c.level = .tile) (room : s.SpawnRoom p (c.base / 2 ^ 18))
    (ht : s.newTid s.tile.idx = some (tid, u)) (hne : tid ≠ s.task.tid) :
    ∃ t r, exec (.spawnat d h b) s = .next t ∧ (∀ i, t.x i = if i = 0 then 0 else if i = d then tid.zeroExtend 64 else s.x i) ∧ t.mem = s.mem ∧
        (∀ e, t.handle e = if e = k then 0 else s.handle e) ∧ t.rec? c.img = some { c with owner := noOwner } ∧ OtherRecords [c.img] s t ∧
        t.taskAt? tid = some r ∧ r.tile = c.base / 2 ^ 18 ∧ r.parent = s.task.tid ∧ r.h[0] = BitVec.ofNat 64 c.image ∧ r.pinned = true := by
  obtain ⟨f, hread⟩ := hread
  have hpass : s.passAll (handleFields p) = (.wait .remote, [(0, c)]) := by
    rw [hf]
    simp only [State.passAll, BitVec.ofNat_toNat, BitVec.setWidth_eq, hk]
  have howner : s.ownerTile c = .ok (c.base / 2 ^ 18, s) := by unfold State.ownerTile; rw [hlev]
  have hgo := spawnFrom_next (d := d) (n := s.homeLatency (.mem v)) h5 hr hpass (by rw [hf]; rfl) (.inr ⟨rfl, _, _, rfl, howner⟩) room ht
  rw [hw8, ← spawn_read true s d h b f v hread, ← hw8] at hgo
  obtain ⟨uh, um, uq, uk, -, -⟩ := newTid_kept ht
  obtain ⟨wh, wm, wq, wk, wd⟩ := spawner_one u (i := 0) hf hown
  generalize u.spawner p [(0, c)] = w at hgo wh wm wq wk wd
  obtain ⟨hx, -, hm, hq, htask, hat⟩ := spawnDone_ok w (by unfold State.Plain; rw [wh, uh]; exact hp) (u.queuedForm p tid true [(0, c)] (c.base / 2 ^ 18)) (c.base / 2 ^ 18) d (s.homeLatency (.mem v))
    (by rw [wk, uk]; exact hne.symm)
  obtain ⟨-, f2, -, -, -, -, -, f8, -, f10⟩ := spawned_fields u p tid true [(0, c)] w.ptp (c.base / 2 ^ 18)
  have hrec (i : Nat) : (w.spawnDone (u.queuedForm p tid true [(0, c)] (c.base / 2 ^ 18)) (c.base / 2 ^ 18) d (s.homeLatency (.mem v))).rec? i = if i = c.img then some { c with owner := noOwner } else s.rec? i := by
    unfold State.rec?
    rw [hq, wq, uq]
    exact findBy_putBy ..
  refine ⟨_, _, hgo, fun i => ?_, hm.trans (wm.trans um), fun e => ?_, (hrec _).trans (if_pos rfl), fun i hi => (hrec i).trans (if_neg (by simpa using hi)), hat, f8, f2.trans (by rw [uk]), queuedForm_handle .., f10⟩
  · rw [hx, show w.x i = s.x i from by unfold State.x; rw [wh, uh]]
    rfl
  · unfold State.handle at wd ⊢
    rw [htask, wd, uk]

/-- Settles O21: both forms are spawnFrom on the record read, which goes on to make the task (spawnFrom_next, spawnDone_ok). -/
theorem spawnTask : Obligations.SpawnTask := by
  refine ⟨fun s d h b p lat tid hp hs => spawn_makes_task s d h b p lat tid hp hs, ?_⟩
  intro s d h b p k c v tid u hp hread hw8 h5 hr hf hk hown hlev hq hw hj hrel ht _ hne
  exact spawnat_makes_task s d h b p k c v tid u hp hread hw8 h5 hr hf hk hown hlev ⟨hq, hw, hj, hrel⟩ ht hne

end Sys2Proof.Machine
end

section
/-!
PROOFS. Entries of a ring: where they stand, and what consuming one changes.
-/
namespace Sys2Proof.Machine

open Sys2Proof

/-! ## The address of an entry -/

/-- Two states whose queues and rings are the same: what the address of an entry rests on is kept, and no error in storage is added. -/
structure State.SameRings (s u : State) : Prop where
  mem : u.mem = s.mem
  quire : u.quire = s.quire
  queues : u.queues = s.queues
  pages : u.pages = s.pages
  asids : u.asids = s.asids
  groupModes : u.groupModes = s.groupModes
  clk : u.clk = s.clk
  ue : ∀ x ∈ u.ue, x ∈ s.ue
  shadows : ∀ l, (u.launchAt? l).map (·.shadows) = (s.launchAt? l).map (·.shadows)

section
variable {s u : State} (h : s.SameRings u)
include h

theorem State.SameRings.hasUE {a n : Nat} (hs : s.hasUE a n = false) : u.hasUE a n = false := by
  unfold State.hasUE at hs ⊢
  rw [h.groupModes]
  simp only [Bool.or_eq_false_iff, List.any_eq_false] at hs ⊢
  exact ⟨fun x hx => hs.1 x (h.ue x hx), hs.2⟩

theorem State.SameRings.tableWord {a e : Nat} (hs : s.tableWord a = some e) : u.tableWord a = some e := by
  unfold State.tableWord State.readPhys at hs ⊢
  rw [h.mem]
  split at hs
  · cases hs
  · rename_i hn
    rw [h.hasUE (by simpa using hn)]
    exact hs

/-- A walk that ends at a page ends there when fewer words of its tables are lost. -/
theorem State.SameRings.walkLevels {asid : Asid} {va : Nat} {p : PageMap} (ls : List (Nat × Nat × Nat × Nat)) (table : Nat)
    (hs : s.walkLevels asid va ls table = .page p) : u.walkLevels asid va ls table = .page p := by
  induction ls generalizing table with
  | nil => exact hs
  | cons l ls ih =>
    obtain ⟨lo, w, leaf, next⟩ := l
    unfold State.walkLevels at hs ⊢
    split at hs
    · cases hs
    · rename_i e he
      rw [h.tableWord he]
      dsimp only at hs ⊢
      grind

theorem State.SameRings.walk {asid : Asid} {va : Nat} {p : PageMap} (hs : s.walk asid va = .page p) : u.walk asid va = .page p := by
  have ha : ∀ a, u.asidWord a = s.asidWord a := fun a => by unfold State.asidWord; rw [h.asids]
  unfold State.walk State.asidLive at hs ⊢
  simp only [h.pages, ha]
  split at hs
  · exact hs
  · split at hs
    · rename_i hl
      rw [if_pos hl]
      exact h.walkLevels _ _ hs
    · cases hs

theorem State.SameRings.rawPhys {c : CapRec} {off a : Nat} {w : Bool} (hs : s.rawPhys c off w = .ok a) : u.rawPhys c off w = .ok a := by
  unfold State.rawPhys at hs ⊢
  split at hs
  · exact hs
  · exact hs
  · split at hs
    · rename_i hp; rw [h.walk hp]; exact hs
    · cases hs
    · cases hs
  · split at hs
    · rename_i hp; rw [h.walk hp]; exact hs
    · cases hs
    · cases hs
  · cases hs

theorem State.SameRings.rec? (i : Nat) : u.rec? i = s.rec? i := by
  unfold State.rec?; rw [h.quire]

theorem State.SameRings.shadowOf (l a : Nat) : u.shadowOf l a = s.shadowOf l a := by
  have hl := h.shadows l
  unfold State.shadowOf
  cases hu : u.launchAt? l <;> cases hs : s.launchAt? l <;> rw [hu, hs] at hl
  · cases hl
  · cases hl
  · simp only [Option.map_some, Option.some.injEq] at hl
    dsimp only
    rw [hl]

theorem State.SameRings.physOf {c : CapRec} {off a : Nat} {w : Bool} (hs : s.physOf c off w = .ok a) : u.physOf c off w = .ok a := by
  unfold State.physOf State.shadowView State.lendChain at hs ⊢
  split at hs
  · rename_i b hb
    rw [h.rawPhys hb]
    simp only [h.rec?, h.shadowOf]
    exact hs
  · cases hs

theorem State.SameRings.queueWords (q : Nat) : u.queueWords q = s.queueWords q := by
  unfold State.queueWords; rw [h.queues]

theorem State.SameRings.ringRec (q : Nat) : u.ringRec q = s.ringRec q := by
  unfold State.ringRec; rw [h.queueWords, h.rec?]

theorem State.SameRings.ringAddr {q n a : Nat} (hs : s.ringAddr q n = some a) : u.ringAddr q n = some a := by
  unfold State.ringAddr State.ringOff at hs ⊢
  rw [h.ringRec, h.queueWords]
  split at hs
  · cases hs
  · split at hs
    · rename_i hp; rw [h.physOf hp]; exact hs
    · cases hs

end

/-! ## Writing an entry and stepping RI -/

theorem correct_only (s : State) (a n : Nat) : ∃ d c, s.correct a n = { s with dies := d, ce := c } := by
  unfold State.correct
  obtain ⟨d, e⟩ := foldl_dies (fun (st : State) u => st.log (memSite u).1 3 (memSite u).2.1 (memSite u).2.2.1 (BitVec.ofNat 64 (memSite u).2.2.2) 0) (fun s u => ⟨_, rfl⟩)
    (s.ce.filter fun u => decide (u < a + n ∧ a < u + unitSize u)) { s with ce := s.ce.filter fun u => !decide (u < a + n ∧ a < u + unitSize u) }
  exact ⟨d, _, e⟩

theorem foldl_correct_only (l : List Nat) (whole : Nat → Bool) (s : State) :
    ∃ d c, l.foldl (fun (st : State) g => if whole g then st else st.correct g 256) s = { s with dies := d, ce := c } := by
  refine List.foldlRecOn l _ (motive := fun (t : State) => ∃ d c, t = { s with dies := d, ce := c }) ⟨s.dies, s.ce, rfl⟩ ?_
  rintro t ⟨d, c, rfl⟩ g -
  split
  · exact ⟨d, c, rfl⟩
  · obtain ⟨d', c', e⟩ := correct_only { s with dies := d, ce := c } g 256
    exact ⟨d', c', e⟩

theorem foldl_packGroup_only (l : List Nat) (s : State) : ∃ d g, l.foldl State.packGroup s = { s with dies := d, groupModes := g } := by
  refine List.foldlRecOn l _ (motive := fun (t : State) => ∃ d g, t = { s with dies := d, groupModes := g }) ⟨s.dies, s.groupModes, rfl⟩ ?_
  rintro t ⟨d, g, rfl⟩ x -
  exact ⟨_, _, rfl⟩

/-- Bytes written through a record are put in memory; the packer counts on the dies for a packable record alone (R324). -/
theorem writeVia_only (s : State) (packable : Bool) (a : Nat) (bs : List Byte) (hb : bs ≠ []) :
    ∃ ue ce g d, s.writeVia packable a bs = { s with mem := memPut a bs s.mem, ue := ue, ce := ce, groupModes := g, dies := d } ∧ (packable = false → d = s.dies) := by
  have hruns : [(a, bs)].filter (fun r => !r.2.isEmpty) = [(a, bs)] := by
    cases bs with
    | nil => exact absurd rfl hb
    | cons b bs => rfl
  unfold State.writeVia State.writeRuns
  rw [hruns]
  dsimp only [List.foldl_cons, List.foldl_nil]
  cases packable with
  | false => exact ⟨_, _, _, _, rfl, fun _ => rfl⟩
  | true =>
    generalize List.eraseDups (α := Nat) _ = groups
    simp only [true_and, if_true]
    split
    · obtain ⟨d, c, e⟩ := foldl_correct_only groups (fun g => [(a, bs)].any fun r => decide (r.1 ≤ g ∧ g + 256 ≤ r.1 + r.2.length)) s
      rw [e]
      obtain ⟨d', g, e'⟩ := foldl_packGroup_only groups (State.writePhys { s with dies := d, ce := c } a bs)
      exact ⟨_, _, g, d', e', nofun⟩
    · obtain ⟨d, g, e⟩ := foldl_packGroup_only groups (s.writePhys a bs)
      exact ⟨_, _, g, d, e, nofun⟩

theorem foldl_schedule_only {α : Type} (f : State → α → State) (hf : ∀ s x, ∃ g, f s x = { s with agenda := g }) (l : List α) (s : State) : ∃ g, l.foldl f s = { s with agenda := g } := by
  refine List.foldlRecOn l f (motive := fun (t : State) => ∃ g, t = { s with agenda := g }) ⟨s.agenda, rfl⟩ ?_
  rintro t ⟨g, rfl⟩ x -
  obtain ⟨g', e⟩ := hf { s with agenda := g } x
  exact ⟨g', e⟩

theorem wakeProducers_only (s : State) (q : Nat) : ∃ g, s.wakeProducers q = { s with agenda := g } := by
  unfold State.wakeProducers
  dsimp only
  generalize List.flatten _ = ops
  obtain ⟨g, e⟩ := foldl_schedule_only (fun (st : State) (x : Nat × Nat) => st.schedule (st.clk + 1) (.qappEntryWrite x.1 x.2)) (fun _ _ => ⟨_, rfl⟩) ops s
  rw [e]
  exact foldl_schedule_only (fun (st : State) (t : Transit) => st.schedule (st.clk + 1) (.csendDelivery t.id)) (fun _ _ => ⟨_, rfl⟩) _ { s with agenda := g }

theorem queueWords_put (s : State) (q : Nat) (w : Vector Word 4) (k : Nat) : (s.putQueue q w).queueWords k = if k = q then w else s.queueWords k := by
  unfold State.queueWords State.putQueue
  dsimp only
  rw [findBy_putBy]
  dsimp only
  split <;> rfl

/-- A step of RI changes its queue and the agenda, and its consumer looks again in the next clock. -/
theorem stepRI_only (s : State) (q : Nat) : ∃ qs g, s.stepRI q = { s with queues := qs, agenda := g } ∧ Stepped s (s.stepRI q) q := by
  obtain ⟨g, e⟩ := wakeProducers_only (s.putQueue q ((s.queueWords q).set 3 ((s.queueWords q)[3] + 1))) q
  have hw (k : Nat) := queueWords_put s q ((s.queueWords q).set 3 ((s.queueWords q)[3] + 1)) k
  unfold State.stepRI
  dsimp only
  rw [e]
  split
  · rename_i h0
    exact ⟨_, g, rfl, hw, fun hc => absurd h0 hc⟩
  · exact ⟨_, _, rfl, hw, fun _ => agenda_mem _ _ _⟩

/-- An entry consumed: its word 0 is all ones, RI steps, and of the rest only the storage around the word, the agenda and, for a packable ring, the counters of the dies are touched. -/
theorem consume_only {u : State} {q n a : Nat} (hwf : Memory.wf u.mem = true) (ha : u.ringAddr q n = some a) :
    ∃ m ue ce g d qs ag, u.consume q n = { u with mem := m, ue := ue, ce := ce, groupModes := g, dies := d, queues := qs, agenda := ag } ∧
      EntryPassed u (u.consume q n) q a (BitVec.allOnes 64) ∧ u.CountsOnly q u (u.consume q n) := by
  obtain ⟨c, hc⟩ : ∃ c, u.ringRec q = some c := by
    unfold State.ringAddr at ha
    split at ha
    · cases ha
    · exact ⟨_, ‹_›⟩
  have hl : (bytesOf 8 (BitVec.allOnes 64).toNat).length = 8 := bytesOf_length ..
  obtain ⟨ue, ce, g, d, e, hd⟩ := writeVia_only u c.packable a (bytesOf 8 (BitVec.allOnes 64).toNat) (fun h0 => by rw [h0] at hl; cases hl)
  have hw : u.entryWord0 q n (BitVec.allOnes 64) = { u with mem := memPut a (bytesOf 8 (BitVec.allOnes 64).toNat) u.mem, ue := ue, ce := ce, groupModes := g, dies := d } := by
    unfold State.entryWord0 State.ringWrite
    rw [hc, ha]
    exact e
  unfold State.consume
  rw [hw]
  obtain ⟨qs, ag, e2, hs⟩ := stepRI_only { u with mem := memPut a (bytesOf 8 (BitVec.allOnes 64).toNat) u.mem, ue := ue, ce := ce, groupModes := g, dies := d } q
  refine ⟨_, ue, ce, g, d, qs, ag, e2, ⟨?_, hs⟩, ?_⟩
  · rw [e2]
    refine ⟨fun k hk => ?_, fun b hb => ?_⟩
    · rw [memGet_memPut hwf, dif_pos (by omega)]
      simp only [Nat.add_sub_cancel_left, List.getElem?_eq_getElem hk, Option.getD_some]
    · rw [memGet_memPut hwf, dif_neg (by omega)]
  · intro hp
    rw [e2]
    exact hd (hp c hc)

theorem State.SameRings.entryPassed {s u t : State} (h : s.SameRings u) {q a : Nat} {w : Word} (he : EntryPassed u t q a w) : EntryPassed s t q a w := by
  obtain ⟨⟨h1, h2⟩, h3, h4⟩ := he
  simp only [h.mem, h.queueWords, h.clk] at h1 h2 h3 h4
  exact ⟨⟨h1, h2⟩, h3, h4⟩

end Sys2Proof.Machine
end

section
/-!
PROOFS. Packets taken from the head of a ring, rejected or performed.
-/
namespace Sys2Proof.Machine

open Sys2Proof

/-! ## One event of the log -/

theorem die_other (u : State) (i d : Nat) (f : Die → Die) (hf : ∀ x, (f x).idx = x.idx) (h : d ≠ i) : (u.modDie i f).dieAt d = u.dieAt d := by
  have hix : (u.dieAt i).idx = i := by
    unfold State.dieAt
    cases q : findBy Die.idx i u.dies with
    | none => rfl
    | some x => exact findBy_key q
  unfold State.modDie State.putDie
  show (findBy Die.idx d (putBy Die.idx (f (u.dieAt i)) u.dies)).getD _ = _
  rw [findBy_putBy, hf, hix, if_neg h]
  rfl

theorem filter_tick_none {l : List LogEntry} {tick : Nat} (h : ∀ x ∈ l, x.tick ≠ tick) : (l.filter fun x => x.tick == tick) = [] ∧ (l.filter fun x => x.tick != tick) = l := by
  refine ⟨List.filter_eq_nil_iff.2 fun x hx => by simpa using h x hx, List.filter_eq_self.2 fun x hx => by simpa using h x hx⟩

/-- An event of the log of a die: its class is counted, and its entry is made where the log has room (R328). -/
theorem log_logged (s : State) (die sub src : Nat) (cls : Fin 12) (a b : Word) : Logged s (s.log die cls.val sub src a b) die cls a b := by
  have hat : (s.log die cls.val sub src a b).dieAt die = (s.dieAt die).logEvent s.tick s.ptp cls.val sub src a b := die_mod s die _ fun _ => rfl
  refine ⟨rfl, fun d hd => die_other s die d _ (fun _ => rfl) hd, ?_⟩
  dsimp only
  rw [hat]
  refine ⟨rfl, fun k => ?_, fun h1 h2 hl => ?_, fun h1 h2 hl => ?_⟩
  · simp only [Die.logEvent, dif_pos cls.isLt]
    by_cases hk : k = cls
    · subst hk
      simp
    · have hv : cls.val ≠ k.val := fun e => hk (Fin.ext e.symm)
      rw [if_neg hk]
      exact Vector.getElem_set_ne cls.isLt k.isLt hv
  all_goals
    obtain ⟨e1, e2⟩ := filter_tick_none h1
    obtain ⟨e3, -⟩ := filter_tick_none h2
    simp only [Die.logEvent, e1, e2, e3, List.append_nil, placeBySource, hl]
  · have hroom : 32 - (s.dieAt die).log.length = (31 - (s.dieAt die).log.length) + 1 := by omega
    rw [hroom, List.take_succ_cons, List.take_nil]
    exact ⟨_, rfl, rfl, rfl, rfl, rfl, rfl, if_pos (by simp)⟩
  · exact ⟨by simp [givePlaces], by simp⟩

/-! ## The head of a ring -/

section
variable {s : State} {q consumer n a : Nat} {p : List Word} (h : s.Head q consumer n a p)
include h

theorem State.Head.takes : s.takesPackets = true := by
  unfold State.takesPackets
  rw [h.1]
  rfl

theorem State.Head.standing : s.atHead q consumer n = true := by
  obtain ⟨-, -, hat, -, -, -⟩ := h
  exact hat

theorem State.Head.entry : s.ringEntry q n = p := by
  obtain ⟨-, -, -, ha, -, rfl⟩ := h
  unfold State.ringEntry
  rw [ha]
  dsimp only
  rw [← bytes_le 64 (s.readPhys a 64) (memBytes_len ..), packet_words]
  rfl

theorem State.Head.other {k : Nat} (hk : consumer ≠ k) (m : Nat) : s.atHead q k m = false := by
  have hc := h.standing
  unfold State.atHead at hc ⊢
  simp only [Bool.and_eq_true, beq_iff_eq] at hc
  have : (qConsumer (s.queueWords q) == k) = false := by
    rw [beq_eq_false_iff_ne]
    omega
  simp only [this, Bool.and_false, Bool.false_and]

/-- What consuming the entry at the head changes, in a state whose rings are as at the head. -/
theorem State.Head.consumed {u : State} (hu : s.SameRings u) :
    ∃ m ue ce g d qs ag, u.consume q n = { u with mem := m, ue := ue, ce := ce, groupModes := g, dies := d, queues := qs, agenda := ag } ∧
      EntryPassed s (u.consume q n) q a (BitVec.allOnes 64) ∧ EntryPassed u (u.consume q n) q a (BitVec.allOnes 64) ∧ s.CountsOnly q u (u.consume q n) := by
  obtain ⟨-, hwf, -, ha, -, -⟩ := h
  obtain ⟨m, ue, ce, g, d, qs, ag, e, hp, hc⟩ := consume_only (u := u) (by rw [hu.mem]; exact hwf) (hu.ringAddr ha)
  refine ⟨m, ue, ce, g, d, qs, ag, e, hu.entryPassed hp, hp, fun hs => hc ?_⟩
  rw [hu.ringRec]
  exact hs

/-- A packet logged in class 6 and consumed is rejected (R5, R217). -/
theorem State.Head.rejects {i : Instr} {src : Nat} (e : exec i s = .next ((s.reject (dieOfQueue q) src p 1).consume q n)) : RejectsPacket s i q a p := by
  obtain ⟨m, ue, ce, g, d, qs, ag, e2, -, hp, hc⟩ := h.consumed (u := s.reject (dieOfQueue q) src p 1) ⟨rfl, rfl, rfl, rfl, rfl, rfl, rfl, fun _ hx => hx, fun _ => rfl⟩
  refine ⟨_, _, e, log_logged s (dieOfQueue q) 0 src 6 (pw p 0) 1, hp, hc, ?_⟩
  rw [e2]
  exact ⟨rfl, rfl, rfl⟩

end

theorem State.SameRings.refl (s : State) : s.SameRings s := ⟨rfl, rfl, rfl, rfl, rfl, rfl, rfl, fun _ hx => hx, fun _ => rfl⟩

/-! ## Destinations and inboxes -/

theorem dest_type {w : Word} {d : Dest} (h : Dest.of w = some d) : d.type ≤ 2 := by
  unfold Dest.of at h
  have hb : wordBits 1 0 w ≤ 3 := by unfold wordBits; omega
  grind

theorem inboxDest_here {s : State} {w : Word} {d : Dest} (h : Dest.of w = some d) (ht : d.type ≤ 1) (hd : s.isThisDevice d.dev = true) : s.inboxDest w = some d := by
  unfold State.inboxDest
  rw [h]
  exact if_pos ⟨ht, hd⟩

theorem inboxDest_elsewhere {s : State} {w : Word} (h : Dest.of w = none ∨ ∃ d, Dest.of w = some d ∧ (d.type = 2 ∨ s.isThisDevice d.dev = false)) : s.inboxDest w = none := by
  unfold State.inboxDest
  rcases h with h | ⟨d, h, h2⟩
  · rw [h]
  · rw [h]
    refine if_neg fun k => ?_
    rcases h2 with h2 | h2
    · omega
    · rw [h2] at k
      cases k.2

theorem landing_task {s : State} {asid : Asid} {d : Dest} {r : Task} (ht : d.type = 0) (hr : s.taskAt? (BitVec.ofNat 32 d.target) = some r) (hf : s.taskInboxFull r = false) :
    s.landing asid d = .task r.tid := by
  unfold State.landing
  rw [if_pos ht, hr]
  dsimp only
  rw [hf]
  rfl

theorem landing_tile {s : State} {asid : Asid} {d : Dest} (ht : d.type = 1) (hon : s.tenantOn d.target asid = true) (hf : s.tileInboxFull d.target = false) :
    s.landing asid d = .tile d.target := by
  unfold State.landing
  rw [if_neg (by omega), hon, hf]
  rfl

theorem landing_gone {s : State} {asid : Asid} {d : Dest} (ht : d.type = 0) (hr : s.taskAt? (BitVec.ofNat 32 d.target) = none) : s.landing asid d = .gone := by
  unfold State.landing
  rw [if_pos ht, hr]

/-- A message that enters the inbox of a task changes that task alone. -/
theorem enterInbox_ok {s : State} {tid : Tid} {r : Task} (m : Msg) (hr : s.taskAt? tid = some r) (hx : r.state ≠ .exited) :
    ∃ t ts, s.enterInbox r.tid m = { s with task := t, tasks := ts } ∧ (s.enterInbox r.tid m).taskAt? r.tid = some { r with inbox := r.inbox ++ [m], ev2 := r.ev2 || r.inbox.isEmpty } := by
  have hr' : s.taskAt? r.tid = some r := by rw [task_tid hr]; exact hr
  obtain ⟨t, ts, e⟩ := modTask_only s r.tid fun t => { t with inbox := t.inbox ++ [m], ev2 := t.ev2 || t.inbox.isEmpty }
  exact ⟨t, ts, e, task_mod _ hr' rfl hx⟩

/-- A message returns to a sender that lives and has a place (R34). -/
theorem bounce_enters {s : State} {m : Msg} {r : Task} (hd : m.dev = 0) (hr : s.taskAt? m.sender = some r) (hl : r.inbox.length < 8) (hn : r.returns = []) :
    s.bounce m = s.enterInbox r.tid { m with outcome := 3, nak := 0 } := by
  unfold State.bounce
  dsimp only
  rw [if_pos hd, hr]
  dsimp only
  rw [if_pos ⟨hl, by rw [hn]; rfl⟩, task_tid hr]

/-- Tasks, tiles and the messages of rings are no part of what the address of an entry rests on. -/
theorem SameRings.tables (s : State) (t : Task) (ts : List Task) (k : Tile) (ks : List Tile) (ms : List RingMsg) :
    s.SameRings { s with task := t, tasks := ts, tile := k, tiles := ks, ringMsgs := ms } :=
  ⟨rfl, rfl, rfl, rfl, rfl, rfl, rfl, fun _ hx => hx, fun _ => rfl⟩

end Sys2Proof.Machine
end

section
/-!
PROOFS. What each consumer of a device queue does with the packet at its head.
-/
namespace Sys2Proof.Machine

open Sys2Proof

/-! ## The consumer looks at its ring -/

theorem touched {s : State} {q n : Nat} (ht : s.touchRing q n = s) : (if n < qW (s.queueWords q) then s.touchRing q n else s) = s := by
  split
  · exact ht
  · rfl

/-- What the launch machinery does with the packet at the head of a device queue, by its kind (R217). -/
def State.takeDevice (s : State) (q n : Nat) (p : List Word) : Out :=
  match pkKind p with
  | 0 => .next (s.schedule s.clk (.spawnPacket q n))
  | 1 => .next (s.schedule s.clk (.launch q n))
  | 3 => .next (s.schedule s.clk (if pf p 0 4 4 = 1 then .capabilityMessageConsume q n else .signalPacket q n))
  | _ => .next (s.rejectAt q n p)

theorem queueConsume_device {s : State} {q n a : Nat} {p : List Word} (hn : n = qRI (s.queueWords q)) (h : s.Head q 1 n a p) (ht : s.touchRing q n = s) :
    let next (e : Event) : Prop := exec (.queueConsume q) s = .next (s.schedule s.clk e)
    (pkKind p = 0 → next (.spawnPacket q n)) ∧ (pkKind p = 1 → next (.launch q n)) ∧ (pkKind p = 3 → pf p 0 4 4 = 0 → next (.signalPacket q n)) ∧
      (pkKind p = 3 → pf p 0 4 4 = 1 → next (.capabilityMessageConsume q n)) ∧ (pkKind p ∉ [0, 1, 3] → RejectsPacket s (.queueConsume q) q a p) := by
  have hat := h.standing
  have he : exec (.queueConsume q) s = s.takeDevice q n p := by
    show execQueueConsume q s = _
    unfold execQueueConsume
    dsimp only
    rw [← hn, touched ht, if_pos hat, h.entry, h.takes, if_neg (by decide)]
    rfl
  dsimp only
  rw [he]
  unfold State.takeDevice
  refine ⟨fun k => by rw [k]; rfl, fun k => by rw [k]; rfl, fun k k4 => ?_, fun k k4 => ?_, fun k => h.rejects (src := srcLaunch) ?_⟩
  · rw [k, k4]; rfl
  · rw [k, k4]; rfl
  · rw [he]
    unfold State.takeDevice
    split
    · rename_i k0; simp [k0] at k
    · rename_i k1; simp [k1] at k
    · rename_i k3; simp [k3] at k
    · rfl

theorem queueConsume_engine {s : State} {q n a : Nat} {p : List Word} (hn : n = qRI (s.queueWords q)) (h : s.Head q 2 n a p) (ht : s.touchRing q n = s) :
    (pkKind p = 2 → exec (.queueConsume q) s = .next (s.schedule s.clk (.copyPacketConsume q n))) ∧ (pkKind p ≠ 2 → RejectsPacket s (.queueConsume q) q a p) := by
  have hat := h.standing
  have he : exec (.queueConsume q) s = (if pkKind p = 2 then .next (s.schedule s.clk (.copyPacketConsume q n))
      else .next ((s.reject (dieOfQueue q) (srcTile (s.copyTile (dieOfQueue q))) p 1).consume q n)) := by
    show execQueueConsume q s = _
    unfold execQueueConsume
    dsimp only
    rw [← hn, touched ht, if_neg (by rw [h.other (by decide)]; decide), h.takes, hat, if_pos (by decide), h.entry]
  exact ⟨fun k => he.trans (if_pos k), fun k => h.rejects (he.trans (if_neg k))⟩

theorem queueConsume_idle {s : State} {q n : Nat} (hn : n = qRI (s.queueWords q)) (h1 : s.atHead q 1 n = false) (h2 : s.atHead q 2 n = false) (ht : s.touchRing q n = s) (hb : s.ringBad q n = false) :
    exec (.queueConsume q) s = .next s := by
  show execQueueConsume q s = _
  unfold execQueueConsume
  dsimp only
  rw [← hn, touched ht, h1, if_neg (by decide), h2, Bool.and_false, if_neg (by decide), hb, if_neg (by simp)]

/-! ## Signals (R266) -/

/-- What a legal signal packet is but for its destination. -/
def State.signalOk (s : State) (p : List Word) : Prop := s.r5 p = true ∧ ∀ k < 4, pw p (4 + k) = 0

theorem signalOk_iff {s : State} {p : List Word} : ¬s.signalOk p ↔ (!s.r5 p) = true ∨ ((upTo 4).any fun i => pw p (4 + i) != 0) = true := by
  unfold State.signalOk upTo
  simp only [Bool.not_eq_true', List.any_eq_true, List.mem_range, bne_iff_ne, ne_eq]
  grind

/-- The message of a signal packet: an empty capability and sender 0. -/
def signalMsg (p : List Word) : Msg := { cap := none, p0 := pw p 2, p1 := pw p 3, sender := 0, asid := pkAsid p }

section
variable {s : State} {q n a : Nat} {p : List Word} (h : s.Head q 1 n a p) (hk : pkKind p = 3)
include h hk

theorem signal_rejected (h4 : pf p 0 4 4 = 0) (hbad : ¬s.signalOk p ∨ s.inboxDest (pw p 1) = none) : RejectsPacket s (.signalPacket q n) q a p := by
  refine h.rejects (src := srcLaunch) ?_
  show execSignalPacket q n s = _
  unfold execSignalPacket
  rw [if_neg (by rw [h.takes, h.standing]; decide)]
  dsimp only
  rw [h.entry, if_neg (by omega)]
  cases hd : s.inboxDest (pw p 1) with
  | none => rfl
  | some d =>
    rw [hd] at hbad
    dsimp only
    rw [if_pos (signalOk_iff.1 (hbad.resolve_right nofun))]
    rfl

theorem signal_lands (h4 : pf p 0 4 4 = 0) (hok : s.signalOk p) {d : Dest} (hd : s.inboxDest (pw p 1) = some d) {x : Landing} (hx : s.landing (pkAsid p) d = x) (hf : x ≠ .full) :
    exec (.signalPacket q n) s = .next ((s.land (signalMsg p) x).consume q n) := by
  show execSignalPacket q n s = _
  unfold execSignalPacket
  rw [if_neg (by rw [h.takes, h.standing]; decide)]
  dsimp only
  rw [h.entry, if_neg (by omega), hd]
  dsimp only
  rw [if_neg (fun k => signalOk_iff.2 k hok), hx]
  cases x with
  | full => exact absurd rfl hf
  | _ => rfl

end

/-- A message for a task stands in its inbox once the entry is consumed. -/
theorem land_task_consumed {s u : State} {q n a consumer : Nat} {p : List Word} (h : s.Head q consumer n a p) (hu : ∃ ms, u = { s with ringMsgs := ms }) {tid : Tid} {r : Task} (m : Msg)
    (hr : s.taskAt? tid = some r) (hx : r.state ≠ .exited) :
    let t := (u.enterInbox r.tid m).consume q n
    EntryPassed s t q a (BitVec.allOnes 64) ∧ t.hart = s.hart ∧ t.quire = s.quire ∧ t.ringMsgs = u.ringMsgs ∧ t.taskAt? r.tid = some { r with inbox := r.inbox ++ [m], ev2 := r.ev2 || r.inbox.isEmpty } := by
  obtain ⟨ms, rfl⟩ := hu
  obtain ⟨t, ts, e, hat⟩ := enterInbox_ok (s := { s with ringMsgs := ms }) m hr hx
  rw [e] at hat ⊢
  obtain ⟨m', ue, ce, g, d, qs, ag, e2, hp, -, -⟩ := h.consumed (SameRings.tables s t ts s.tile s.tiles ms)
  refine ⟨hp, ?_⟩
  rw [e2]
  exact ⟨rfl, rfl, rfl, hat⟩

/-- A message for a tile stands in its inbox once the entry is consumed. -/
theorem land_tile_consumed {s u : State} {q n a consumer : Nat} {p : List Word} (h : s.Head q consumer n a p) (hu : ∃ ms, u = { s with ringMsgs := ms }) (k : Nat) (m : Msg) :
    let t := (u.land m (.tile k)).consume q n
    EntryPassed s t q a (BitVec.allOnes 64) ∧ t.hart = s.hart ∧ t.task = s.task ∧ t.quire = s.quire ∧ t.ringMsgs = u.ringMsgs ∧ (t.tileAt k).inbox = (s.tileAt k).inbox ++ [m] := by
  obtain ⟨ms, rfl⟩ := hu
  obtain ⟨t, ts, e⟩ := tile_mod_only { s with ringMsgs := ms } k fun t => { t with inbox := t.inbox ++ [m] }
  have hat := tile_mod { s with ringMsgs := ms } k (fun t => { t with inbox := t.inbox ++ [m] }) fun _ => rfl
  rw [show State.land { s with ringMsgs := ms } m (.tile k) = _ from e]
  rw [e] at hat
  obtain ⟨m', ue, ce, g, d, qs, ag, e2, hp, -, -⟩ := h.consumed (SameRings.tables s s.task s.tasks t ts ms)
  refine ⟨hp, ?_⟩
  rw [e2]
  exact ⟨rfl, rfl, rfl, rfl, congrArg (·.inbox) hat⟩

end Sys2Proof.Machine
end

section
/-!
PROOFS. Signals, spawn packets, capability messages and entries of host queues.
-/
namespace Sys2Proof.Machine

open Sys2Proof

/-! ## Updates that keep the rings -/

theorem State.SameRings.trans {s u t : State} (h : s.SameRings u) (k : u.SameRings t) : s.SameRings t where
  mem := k.mem.trans h.mem
  quire := k.quire.trans h.quire
  queues := k.queues.trans h.queues
  pages := k.pages.trans h.pages
  asids := k.asids.trans h.asids
  groupModes := k.groupModes.trans h.groupModes
  clk := k.clk.trans h.clk
  ue := fun x hx => h.ue x (k.ue x hx)
  shadows := fun l => (k.shadows l).trans (h.shadows l)

theorem rings_modTile (s : State) (i : Nat) (f : Tile → Tile) : s.SameRings (s.modTile i f) := by
  obtain ⟨t, ts, e⟩ := tile_mod_only s i f
  rw [e]
  exact SameRings.tables s s.task s.tasks t ts s.ringMsgs

theorem rings_putTask (s : State) (t : Task) : s.SameRings (s.putTask t) := by
  obtain ⟨k, ks, e⟩ := putTask_only s t
  rw [e]
  exact SameRings.tables s k ks s.tile s.tiles s.ringMsgs

theorem rings_modTask (s : State) (tid : Tid) (f : Task → Task) : s.SameRings (s.modTask tid f) := by
  obtain ⟨k, ks, e⟩ := modTask_only s tid f
  rw [e]
  exact SameRings.tables s k ks s.tile s.tiles s.ringMsgs

theorem rings_modDie (s : State) (i : Nat) (f : Die → Die) : s.SameRings (s.modDie i f) :=
  ⟨rfl, rfl, rfl, rfl, rfl, rfl, rfl, fun _ hx => hx, fun _ => rfl⟩

theorem rings_spillWritten (s : State) (tile j : Nat) : s.SameRings (s.spillWritten tile j) :=
  ⟨rfl, rfl, rfl, rfl, rfl, rfl, rfl, fun _ hx => (List.mem_filter.1 hx).1, fun _ => rfl⟩

/-- An update of a launch that keeps its number and its shadow versions (R348). -/
theorem rings_modLaunch (s : State) (i : Nat) (f : Launch → Launch) (hi : ∀ l, (f l).idx = l.idx) (hs : ∀ l, (f l).shadows = l.shadows) : s.SameRings (s.modLaunch i f) := by
  obtain ⟨ls, e⟩ := modLaunch_only s i f
  have hl (j : Nat) : ((s.modLaunch i f).launchAt? j).map (·.shadows) = (s.launchAt? j).map (·.shadows) := by
    unfold State.modLaunch
    cases hf : s.launchAt? i with
    | none => rfl
    | some l =>
      have hk : l.idx = i := findBy_key hf
      show (findBy Launch.idx j (putBy Launch.idx (f l) s.launches)).map _ = _
      rw [findBy_putBy, hi, hk]
      split
      · rename_i hj
        rw [hj, hf]
        exact congrArg some (hs l)
      · rfl
  rw [e] at hl ⊢
  exact ⟨rfl, rfl, rfl, rfl, rfl, rfl, rfl, fun _ hx => hx, hl⟩

theorem rings_enterDeque (s : State) (tile : Nat) (r : TaskRec) : s.SameRings (s.enterDeque tile r) := by
  unfold State.enterDeque
  dsimp only
  refine State.SameRings.trans (rings_modTile s tile fun t => { t.push r s.clk with dequeAt := s.clk + 1 }) ?_
  split
  · split
    · exact (rings_spillWritten _ _ _).trans (rings_modTask _ _ _)
    · exact rings_modTask _ _ _
  · exact rings_modTask _ _ _

theorem rings_enqueue (s : State) (tile : Nat) (r : TaskRec) (since : Option Nat) : s.SameRings (s.enqueue tile r since) := by
  unfold State.enqueue
  split
  · dsimp only
    split <;> exact rings_modDie _ _ _
  · unfold State.pushRecord
    dsimp only
    split
    · split
      · exact rings_modTile _ _ _
      · exact rings_enterDeque _ _ _
    · split
      · exact rings_modTile _ _ _
      · split
        · exact rings_modTile _ _ _
        · exact rings_enterDeque _ _ _

/-- A new task takes its place and is counted by its launch without touching a ring. -/
theorem rings_spawnTask (s : State) (r : TaskRec) (dest : Nat) (since : Option Nat) : s.SameRings (s.spawnTask r dest since) :=
  (rings_putTask s _).trans <| (rings_enqueue _ dest r since).trans <| (rings_modTask _ r.tid _).trans <| rings_modLaunch _ r.launch _ (fun _ => rfl) fun _ => rfl

theorem rings_newTid {s u : State} {tile : Nat} {tid : Tid} (h : s.newTid tile = some (tid, u)) : s.SameRings u := by
  obtain ⟨t, ts, rfl⟩ := newTid_only h
  exact SameRings.tables s s.task s.tasks t ts s.ringMsgs

/-! ## Spawn packets (R266) -/

/-- The record of the task that a spawn packet of parent r makes: unpinned, without handles, on the tile of its parent (R266). -/
def State.packetRec (u : State) (p : List Word) (r : Task) (tid : Tid) : TaskRec :=
  { tid := tid, flags := BitVec.ofNat 12 (pf p 0 15 4), asid := r.asid, cls := BitVec.ofNat 10 (pf p 0 31 22), prio := pkPrio p
    replayable := pf p 0 47 47 == 1, pinned := false, entry := pf p 1 47 0, deadline := pw p 2, release := pw p 3, parent := r.tid
    budget := BitVec.ofNat 32 (pf p 4 31 0), arg := pw p 5, h := [], fs := u.formatsOf r.tid, launch := r.launch, coord := none
    saved := false, home := r.tile, donations := [] }

/-- What a spawn packet for a task must meet, beside its kind (R8, R266). -/
def State.spawnPacketOk (s : State) (q : Nat) (p : List Word) (r : Task) (c : CapRec) : Prop :=
  s.r5 p = true ∧ pf p 0 5 5 = 1 ∧ handleFields p = [] ∧ handleFieldsOk p = true ∧ r.asid = qAsid (s.queueWords q) ∧ pkAsid p = r.asid ∧ (pf p 0 47 47 = 1 ↔ s.replayable r.launch = true) ∧
    pf p 1 63 48 = 0 ∧ pf p 1 0 0 = 0 ∧ pf p 1 47 0 < c.len

section
variable {s : State} {q n a : Nat} {p : List Word} {r : Task} {l : Launch} {c : CapRec} (hk : pkKind p = 0) (hr : s.taskAt? (BitVec.ofNat 32 (pf p 4 63 32)) = some r)
  (hl : s.launchAt? r.launch = some l) (hc : s.rec? l.code = some c)
include hk hr hl hc

/-- The packet's parent is the task it names, when the packet is legal. -/
theorem spawnParent_eq : (s.spawnPacketOk q p r c → s.spawnParent q p = some r) ∧ (¬s.spawnPacketOk q p r c → s.spawnParent q p = none) := by
  have hbit : ((pf p 0 47 47 == 1) == s.replayable r.launch) = true ↔ (pf p 0 47 47 = 1 ↔ s.replayable r.launch = true) := by
    rw [beq_iff_eq, Bool.eq_iff_iff, beq_iff_eq]
  unfold State.spawnParent State.spawnPacketOk
  rw [hr]
  dsimp only
  rw [hl, Option.bind_some, hc]
  dsimp only
  refine ⟨fun h => if_pos ?_, fun h => if_neg fun h2 => h ?_⟩
  · obtain ⟨h1, h2, h3, h4, h5, h6, h7, h8, h9, h10⟩ := h
    rw [h1, hk, h2, h3, h4, ← h5, h6, hbit.2 h7, h8, h9, decide_eq_true h10]
    simp
  · simp only [Bool.and_eq_true, hbit, beq_iff_eq, List.isEmpty_iff, decide_eq_true_eq] at h2
    obtain ⟨⟨⟨⟨⟨⟨⟨⟨⟨⟨h1, -⟩, h2⟩, h3⟩, h4⟩, h5⟩, h6⟩, h7⟩, h8⟩, h9⟩, h10⟩ := h2
    exact ⟨h1, h2, h3, h4, h5, h6, h7, h8, h9, h10⟩

variable (h : s.Head q 1 n a p)
include h

theorem spawnPacket_rejected (hbad : ¬s.spawnPacketOk q p r c) : RejectsPacket s (.spawnPacket q n) q a p := by
  refine h.rejects (src := srcLaunch) ?_
  show execSpawnPacket q n s = _
  unfold execSpawnPacket
  rw [if_neg (by rw [h.takes, h.standing]; decide)]
  dsimp only
  rw [h.entry, if_neg (by omega), (spawnParent_eq hk hr hl hc).2 hbad]
  rfl

theorem spawnPacket_spawns (hok : s.spawnPacketOk q p r c) (hf : s.dequeFull r.tile = false) (hw : ¬(s.ptp < (pw p 3).toNat ∧ s.wheelFull (dieOf r.tile) = true)) {tid : Tid} {u : State}
    (ht : s.newTid r.tile = some (tid, u)) (hne : tid ≠ s.task.tid) :
    ∃ t k, exec (.spawnPacket q n) s = .next t ∧ EntryPassed s t q a (BitVec.allOnes 64) ∧ t.hart = s.hart ∧ t.task = s.task ∧ t.taskAt? tid = some k ∧ k.parent = r.tid ∧ k.launch = r.launch ∧ k.asid = r.asid ∧
      k.tile = r.tile ∧ k.pinned = false ∧ k.detached = true ∧ k.arg = pw p 5 ∧ k.deadline = pw p 2 ∧ k.budget = BitVec.ofNat 32 (pf p 4 31 0) ∧ k.prioBase = pkPrio p ∧
      k.state = if s.ptp < (pw p 3).toNat then .timed else .queued := by
  have he : exec (.spawnPacket q n) s = .next ((u.spawnTask (u.packetRec p r tid) r.tile none).consume q n) := by
    show execSpawnPacket q n s = _
    unfold execSpawnPacket
    rw [if_neg (by rw [h.takes, h.standing]; decide)]
    dsimp only
    rw [h.entry, if_neg (by omega), (spawnParent_eq hk hr hl hc).1 hok]
    dsimp only
    rw [if_neg (by rw [hf]; exact fun k => k.elim nofun hw), ht]
    rfl
  obtain ⟨m, ue, ce, g, d, qs, ag, e, hp, -, -⟩ := h.consumed ((rings_newTid ht).trans (rings_spawnTask u (u.packetRec p r tid) r.tile none))
  obtain ⟨uh, -, -, uk, up, -⟩ := newTid_kept ht
  obtain ⟨ts, tl, tls, ds, ls, ue', ce', e2, hat⟩ := spawnTask_ok u (u.packetRec p r tid) r.tile none (by rw [uk]; exact hne.symm)
  refine ⟨_, (u.packetRec p r tid).spawned u.ptp r.tile, he, hp, ?_, ?_, ?_, rfl, rfl, rfl, rfl, rfl, ?_, rfl, rfl, rfl, rfl, ?_⟩
  rotate_left 2
  · rw [e]
    exact hat
  · exact (bit_of p).trans (by rw [hok.2.1]; rfl)
  · show (if u.ptp < (pw p 3).toNat then TaskState.timed else TaskState.queued) = _
    rw [up]
  · rw [e, e2]
    exact uh
  · rw [e, e2]
    exact uk

end

/-! ## Capability messages (R218) -/

theorem dropRingMsg_only (s : State) (q n : Nat) : ∃ ms, s.dropRingMsg q n = { s with ringMsgs := ms } := ⟨_, rfl⟩

theorem ringMsg_dropped {s t : State} {q n : Nat} (h : t.ringMsgs = (s.dropRingMsg q n).ringMsgs) : t.ringMsg q n = none := by
  unfold State.ringMsg
  rw [h]
  exact List.find?_eq_none.2 fun x hx hb => by have hk := (List.mem_filter.1 hx).2; rw [hb] at hk; cases hk

/-- The message that a capability message delivers. -/
def deliveredMsg (m : RingMsg) (p : List Word) : Msg := { cap := some m.img, p0 := pw p 2, p1 := 0, sender := m.sender, asid := pkAsid p }
/-- The message that returns to the sender of a capability message, with both payload words. -/
def returnedMsg (m : RingMsg) (p : List Word) : Msg := { cap := some m.img, p0 := pw p 1, p1 := pw p 2, sender := m.sender, asid := pkAsid p, outcome := 3 }

/-- A capability that returns enters the inbox of its sender. -/
theorem returnRingMsg_enters {s : State} {q n : Nat} {m : RingMsg} {r : Task} (p : List Word) (hr : s.taskAt? m.sender = some r) (hl : r.inbox.length < 8) (hn : r.returns = []) :
    (s.dropRingMsg q n).returnRingMsg m p = (s.dropRingMsg q n).enterInbox r.tid (returnedMsg m p) := by
  unfold State.returnRingMsg
  exact bounce_enters (s := s.dropRingMsg q n) rfl hr hl hn

section
variable {s : State} {q n a : Nat} {p : List Word} {m : RingMsg} (h : s.Head q 1 n a p) (hk : pkKind p = 3) (h4 : pf p 0 4 4 = 1) (hm : s.ringMsg q n = some m)
include h hk h4 hm

theorem capabilityMessage_breaks (h5 : s.r5 p = false) : exec (.capabilityMessageConsume q n) s = .next (((s.dropRingMsg q n).returnRingMsg m p).rejectAt q n p) := by
  show execCapabilityMessageConsume q n s = _
  unfold execCapabilityMessageConsume
  rw [if_neg (by rw [h.takes, h.standing]; decide)]
  dsimp only
  rw [h.entry, if_neg (by omega), hm]
  dsimp only
  rw [h5, if_pos (by decide)]

theorem capabilityMessage_goes (h5 : s.r5 p = true) {d : Dest} (hd : s.inboxDest (pw p 1) = some d) {x : Landing} (hx : s.landing (pkAsid p) d = x) (hf : x ≠ .full) :
    exec (.capabilityMessageConsume q n) s =
      .next ((if x = .gone then (s.dropRingMsg q n).returnRingMsg m p else (s.dropRingMsg q n).land (deliveredMsg m p) x).consume q n) := by
  show execCapabilityMessageConsume q n s = _
  unfold execCapabilityMessageConsume
  rw [if_neg (by rw [h.takes, h.standing]; decide)]
  dsimp only
  rw [h.entry, if_neg (by omega), hm]
  dsimp only
  rw [h5, if_neg (by decide), hd]
  dsimp only
  rw [hx]
  cases x with
  | full => exact absurd rfl hf
  | gone => rw [if_pos rfl]
  | task tid => rw [if_neg nofun]; rfl
  | tile t => rw [if_neg nofun]; rfl

end

end Sys2Proof.Machine
end

section
/-!
PROOFS. Copy packets taken from a ring (R204, R205, R217).
-/
namespace Sys2Proof.Machine

open Sys2Proof

/-! ## What the fork of an operation changes -/

/-- Between s and u only records, husks and links differ: every record stays that of the same peer or of this device, and the operations of every tile are as they were. -/
structure State.Forked (s u : State) : Prop where
  rest : ∃ q t ts l w, u = { s with quire := q, tile := t, tiles := ts, links := l, wire := w }
  proxy : ∀ i, (u.rec? i).map (·.proxy) = (s.rec? i).map (·.proxy)
  xfers : ∀ k, (u.tileAt k).xfers = (s.tileAt k).xfers ∧ (u.tileAt k).xferNext = (s.tileAt k).xferNext

theorem State.Forked.refl (s : State) : s.Forked s := ⟨⟨s.quire, s.tile, s.tiles, s.links, s.wire, rfl⟩, fun _ => rfl, fun _ => ⟨rfl, rfl⟩⟩

theorem State.Forked.trans {s u t : State} (h : s.Forked u) (k : u.Forked t) : s.Forked t := by
  obtain ⟨⟨q, tl, tls, l, w, rfl⟩, hp, hx⟩ := h
  obtain ⟨⟨q', tl', tls', l', w', rfl⟩, kp, kx⟩ := k
  exact ⟨⟨q', tl', tls', l', w', rfl⟩, fun i => (kp i).trans (hp i), fun i => ⟨(kx i).1.trans (hx i).1, (kx i).2.trans (hx i).2⟩⟩

theorem forked_foldl {α : Type} (f : State → α → State) (hf : ∀ (s : State) x, s.Forked (f s x)) (l : List α) (s : State) : s.Forked (l.foldl f s) :=
  List.foldlRecOn l f (motive := fun (t : State) => s.Forked t) (State.Forked.refl s) fun _ ht x _ => ht.trans (hf _ x)

theorem forked_modRec (s : State) (i : Nat) (f : CapRec → CapRec) (hi : ∀ c, (f c).img = c.img) (hp : ∀ c, (f c).proxy = c.proxy) : s.Forked (s.modRec i f) := by
  obtain ⟨q, e⟩ := modRec_only s i f
  refine ⟨⟨q, s.tile, s.tiles, s.links, s.wire, e⟩, fun j => ?_, fun k => ?_⟩
  · rw [rec_mod s i f hi]
    split
    · rename_i hj
      rw [hj, Option.map_map]
      exact congrArg (fun g => (s.rec? i).map g) (funext hp)
    · rfl
  · rw [e]
    exact ⟨rfl, rfl⟩

/-- A tile whose husks of a root are no longer valid (R32). -/
def Tile.loseHusks (root : Nat) (t : Tile) : Tile := { t with husks := t.husks.map fun h => if h.bound && h.root == root then { h with valid := false } else h }

/-- Husks that a version leaves behind are no operations. -/
theorem invalidateHusks_xfers (s : State) (root k : Nat) : ((s.invalidateHusks root).tileAt k).xfers = (s.tileAt k).xfers ∧ ((s.invalidateHusks root).tileAt k).xferNext = (s.tileAt k).xferNext := by
  have e : s.invalidateHusks root = { s with tile := s.tile.loseHusks root, tiles := s.tiles.map (Tile.loseHusks root) } := rfl
  rw [e]
  unfold State.tileAt
  by_cases hk : s.tile.idx = k
  · rw [if_pos hk, if_pos (show (s.tile.loseHusks root).idx = k from hk)]
    exact ⟨rfl, rfl⟩
  · rw [if_neg hk, if_neg (show ¬(s.tile.loseHusks root).idx = k from hk)]
    dsimp only
    rw [findBy_map (Tile.loseHusks root) (fun _ => rfl)]
    cases findBy Tile.idx k s.tiles <;> exact ⟨rfl, rfl⟩

theorem tellWrap_tileAt (s : State) (root k : Nat) : (s.tellWrap root).tileAt k = s.tileAt k := by
  obtain ⟨l, w, e⟩ := tellWrap_only s root
  rw [e]
  rfl

theorem forked_bumpVersion (s : State) (root : Nat) : s.Forked (s.bumpVersion root) := by
  cases hr : s.rec? root with
  | none =>
    have e : s.bumpVersion root = s := by unfold State.bumpVersion; rw [hr]
    rw [e]
    exact State.Forked.refl s
  | some r =>
    obtain ⟨q, t, ts, l, w, e, -, -⟩ := bump_only s root
    refine ⟨⟨q, t, ts, l, w, e⟩, fun i => ?_, fun k => ?_⟩
    · rw [bump_rec hr, Option.map_map]
      refine congrArg (fun g => (s.rec? i).map g) (funext fun c => ?_)
      dsimp only [Function.comp]
      split
      · rfl
      · split <;> rfl
    · unfold State.bumpVersion
      rw [hr]
      dsimp only
      split
      · rw [tellWrap_tileAt]
        exact invalidateHusks_xfers _ root k
      · exact ⟨rfl, rfl⟩

theorem forked_forkRead (s : State) (i : Image) (tid : Tid) : s.Forked (s.forkRead i tid) := by
  unfold State.forkRead
  split
  · exact State.Forked.refl s
  · exact forked_modRec _ _ _ (fun _ => rfl) fun _ => rfl

theorem forked_forkWrite (s : State) (i : Image) (tid : Tid) : s.Forked (s.forkWrite i tid) :=
  (forked_bumpVersion s i).trans (forked_modRec _ _ _ (fun _ => rfl) fun _ => rfl)

/-- An operation of a packet whose source lies on this device asks no peer. -/
theorem askFirst_here (s : State) (tile : Nat) (o : XferOp) {x : Option (Image × Nat)} {y : Option (Nat × Nat)} {i : Image} (hk : o.kind = .packet x y) (hs : o.src = some i)
    (hp : ∀ c, s.rec? i = some c → c.proxy = none) : s.askFirst tile o = (s, o) := by
  unfold State.askFirst
  rw [hk, hs]
  dsimp only
  split
  · rename_i c hc
    unfold State.askPeer
    rw [hp c hc]
  · rfl

/-- An operation as an engine takes it, with its number and its place in the order of issue (R175, R199). -/
def Tile.numbered (t : Tile) (o : XferOp) : XferOp := { o with id := t.xferNext, seq := t.opSeq }
/-- A tile whose engine takes an operation. -/
def Tile.accept (t : Tile) (o : XferOp) : Tile := { t with xfers := t.xfers ++ [t.numbered o], xferNext := t.xferNext + 1, opSeq := t.opSeq + 1 }

/-- Putting the operation that was taken last in its own place changes nothing. -/
theorem accept_again (t : Tile) (o : XferOp) (h : ∀ z ∈ t.xfers, z.id ≠ t.xferNext) :
    (t.accept o).xfers.map (fun (x : XferOp) => if x.id = (t.numbered o).id then t.numbered o else x) = t.xfers ++ [t.numbered o] := by
  unfold Tile.accept
  dsimp only
  rw [List.map_append]
  congr 1
  · exact (List.map_congr_left fun z hz => if_neg (h z hz)).trans (List.map_id' _)
  · exact congrArg (fun x => [x]) (if_pos rfl)

/-- The records and tiles at the fork of an operation: its sources drain and its destinations fill (R27, R198). -/
def State.forkEdge (s : State) (tid : Tid) (srcs dsts : List Image) : State :=
  dsts.foldl (fun (st : State) i => st.forkWrite i tid) (srcs.foldl (fun (st : State) i => st.forkRead i tid) s)
/-- The events that carry an operation on: its units, then its joins. -/
def State.scheduleJoins (s : State) (tile : Nat) (o : XferOp) : State :=
  let s := o.units.foldl (fun (st : State) ch => st.schedule o.due (.scanUnitLeg tile o.id ch)) s
  match o.kind with
  | .append _ _ _ => s.schedule o.due (.qappEntryWrite tile o.id)
  | .halo _ _ _ _ _ _ => s
  | _ => ((o.legs.map (·.due)) ++ (o.legs.map fun l => if s.postsTo l then l.due - Config.latL5 else l.due) ++ (if o.legs.isEmpty then [o.due] else [])).eraseDups.foldl (fun (st : State) d => st.schedule d (.transferJoin tile o.id)) s

theorem forkXfer_eq (s : State) (tile : Nat) (o : XferOp) (srcs dsts : List Image) :
    let u := s.forkEdge o.tid srcs dsts
    let a := (u.putTile ((u.tileAt tile).accept o)).askFirst tile ((u.tileAt tile).numbered o)
    s.forkXfer tile o srcs dsts = (a.1.setXfer tile a.2).scheduleJoins tile a.2 := rfl

theorem forked_forkEdge (s : State) (tid : Tid) (srcs dsts : List Image) : s.Forked (s.forkEdge tid srcs dsts) :=
  (forked_foldl _ (fun s x => forked_forkRead s x tid) srcs s).trans (forked_foldl _ (fun s x => forked_forkWrite s x tid) dsts _)

theorem scheduleJoins_packet (s : State) (tile : Nat) (o : XferOp) {x : Option (Image × Nat)} {y : Option (Nat × Nat)} (hk : o.kind = .packet x y) (hu : o.units = []) :
    ∃ g, s.scheduleJoins tile o = { s with agenda := g } := by
  unfold State.scheduleJoins
  rw [hu, hk]
  exact foldl_schedule_only _ (fun _ _ => ⟨_, rfl⟩) _ s

/-- The operation of a packet enters its engine last, with the next number; its joins are put in the agenda. -/
theorem forkXfer_packet (s : State) (tile : Nat) (o : XferOp) (srcs dsts : List Image) {x : Option (Image × Nat)} {y : Option (Nat × Nat)} {i : Image} (hk : o.kind = .packet x y) (hs : o.src = some i)
    (hu : o.units = []) (hp : ∀ c, s.rec? i = some c → c.proxy = none) (hfresh : ∀ z ∈ (s.tileAt tile).xfers, z.id ≠ (s.tileAt tile).xferNext) :
    ∃ q t ts l w g k seq, s.forkXfer tile o srcs dsts = { s with quire := q, tile := t, tiles := ts, links := l, wire := w, agenda := g } ∧
      ((s.forkXfer tile o srcs dsts).tileAt tile).xfers = (s.tileAt tile).xfers ++ [{ o with id := k, seq := seq }] := by
  obtain ⟨⟨q, t, ts, l, w, hrest⟩, hproxy, hxfers⟩ := forked_forkEdge s o.tid srcs dsts
  obtain ⟨hx, hn⟩ := hxfers tile
  rw [forkXfer_eq]
  generalize s.forkEdge o.tid srcs dsts = u at hrest hproxy hx hn ⊢
  have hidx : ((u.tileAt tile).accept o).idx = tile := tile_idx u tile
  have hput := tile_put u ((u.tileAt tile).accept o)
  obtain ⟨t1, ts1, e1⟩ := putTile_only u ((u.tileAt tile).accept o)
  have hask : (u.putTile ((u.tileAt tile).accept o)).askFirst tile ((u.tileAt tile).numbered o) = (u.putTile ((u.tileAt tile).accept o), (u.tileAt tile).numbered o) := by
    refine askFirst_here _ tile _ (x := x) (y := y) (i := i) hk hs fun c hc => ?_
    have hcu : u.rec? i = some c := by rw [e1] at hc; exact hc
    have hpu := hproxy i
    rw [hcu] at hpu
    obtain ⟨d, hd, hdc⟩ := Option.map_eq_some_iff.1 hpu.symm
    exact hdc.symm.trans (hp d hd)
  rw [hask, hidx] at *
  generalize u.putTile ((u.tileAt tile).accept o) = v at e1 hput ⊢
  dsimp only
  have hset := tile_mod v tile (fun t => { t with xfers := t.xfers.map fun (x : XferOp) => if x.id = ((u.tileAt tile).numbered o).id then (u.tileAt tile).numbered o else x }) fun _ => rfl
  obtain ⟨t2, ts2, e2⟩ := tile_mod_only v tile fun t => { t with xfers := t.xfers.map fun (x : XferOp) => if x.id = ((u.tileAt tile).numbered o).id then (u.tileAt tile).numbered o else x }
  obtain ⟨g, e3⟩ := scheduleJoins_packet (v.setXfer tile ((u.tileAt tile).numbered o)) tile ((u.tileAt tile).numbered o) (x := x) (y := y) hk hu
  rw [e3]
  refine ⟨q, t2, ts2, l, w, g, (u.tileAt tile).xferNext, (u.tileAt tile).opSeq, ?_, ?_⟩
  · rw [show v.setXfer tile ((u.tileAt tile).numbered o) = _ from e2, e1, hrest]
  · refine (congrArg Tile.xfers hset).trans ?_
    dsimp only
    rw [hput, accept_again _ o (by rw [hx, hn]; exact hfresh), hx]
    rfl

/-! ## The records of a packet -/

theorem packetDests_le (p : List Word) : packetDests p ≤ 4 := by
  unfold packetDests pf
  omega

/-- One more record of a packet before those found (R217, R24). -/
def State.addRecord (s : State) (q : Nat) (x : Nat × Bool) (acc : Option (List CapRec)) : Option (List CapRec) :=
  match acc, s.rec? (x.1 % 2 ^ 23) with
  | some l, some c =>
    if c.image = x.1 ∧ c.asid = qAsid (s.queueWords q) ∧ !c.revoked ∧ !c.poisoned ∧ !c.rights.lacks (if x.2 then needWR else needRD) ∧ s.peerOk c then some (c :: l) else none
  | _, _ => none

theorem ringRecords_eq (s : State) (q : Nat) (p : List Word) : s.ringRecords q p = ((packetImages p).zip (false :: List.replicate 4 true)).foldr (s.addRecord q) (some []) := rfl

theorem addRecord_some {s : State} {q : Nat} {x : Nat × Bool} {acc : Option (List CapRec)} {cs : List CapRec} (h : s.addRecord q x acc = some cs) :
    ∃ c l, acc = some l ∧ s.rec? (x.1 % 2 ^ 23) = some c ∧ cs = c :: l := by
  unfold State.addRecord at h
  cases acc with
  | none => cases h
  | some l =>
    cases hc : s.rec? (x.1 % 2 ^ 23) with
    | none => rw [hc] at h; cases h
    | some c =>
      rw [hc] at h
      dsimp only at h
      obtain ⟨-, hcs⟩ := Option.ite_none_right_eq_some.1 h
      exact ⟨c, l, rfl, rfl, (Option.some.inj hcs).symm⟩

/-- The records that a packet names are as many as its images, and each is that of the quire. -/
theorem addRecord_foldr {s : State} {q : Nat} (xs : List (Nat × Bool)) {cs : List CapRec} (h : xs.foldr (s.addRecord q) (some []) = some cs) :
    cs.length = xs.length ∧ ∀ c ∈ cs, s.rec? c.img = some c := by
  induction xs generalizing cs with
  | nil =>
    rw [List.foldr_nil, Option.some.injEq] at h
    subst h
    exact ⟨rfl, fun c hc => absurd hc List.not_mem_nil⟩
  | cons x xs ih =>
    rw [List.foldr_cons] at h
    obtain ⟨c, l, hl, hc, rfl⟩ := addRecord_some h
    obtain ⟨h1, h2⟩ := ih hl
    refine ⟨congrArg (· + 1) h1, fun d hd => ?_⟩
    rcases List.mem_cons.1 hd with rfl | hd
    · rw [rec_img hc]; exact hc
    · exact h2 d hd

theorem ringRecords_some {s : State} {q : Nat} {p : List Word} {src : CapRec} {ds : List CapRec} (h : s.ringRecords q p = some (src :: ds)) :
    s.rec? src.img = some src ∧ ds.length = packetDests p := by
  rw [ringRecords_eq] at h
  obtain ⟨h1, h2⟩ := addRecord_foldr _ h
  refine ⟨h2 src List.mem_cons_self, ?_⟩
  have := packetDests_le p
  simp only [packetImages, List.length_zip, List.length_cons, List.length_map, List.length_range, List.length_replicate] at h1
  omega

/-- The operation that a copy packet of a ring asks for (R205). -/
def State.ringXfer (s : State) (q n tile : Nat) (p : List Word) (cs : List CapRec) : XferOp :=
  { s.packetXfer { id := 0, seq := 0, tid := 0, no := 0, asid := qAsid (s.queueWords q), kind := .packet none (some (q, n)), src := none
                   srcHandle := 0, srcOff := 0, legs := [], ntf := false, due := s.clk + 1, units := [], fetches := [] } tile p (cs.map fun c => (0, c)) with ntf := false }

/-- One leg for each destination, at its offset and of the packet's length (R204). -/
theorem ringXfer_legs (s : State) (q n tile : Nat) (p : List Word) (src : CapRec) (ds : List CapRec) (hl : ds.length = packetDests p) :
    (s.ringXfer q n tile p (src :: ds)).legs.length = ds.length ∧
      ∀ (k : Nat) (d : CapRec) (l : Leg), ds[k]? = some d → (s.ringXfer q n tile p (src :: ds)).legs[k]? = some l → l.dst = d.img ∧ l.off = pf p (4 + k) 63 28 * 16 ∧ l.len = pf p 3 40 0 := by
  have he : (s.ringXfer q n tile p (src :: ds)).legs =
      ((ds.map fun c => ((0 : BitVec 4), c)).zip (packetOffs p)).map fun x => mkLeg x.1.2 x.1.1 x.2 (pf p 3 40 0) (s.clk + s.xferClks tile [src, x.1.2] (pf p 3 40 0)) := rfl
  rw [he]
  unfold packetOffs
  refine ⟨by simp [hl], fun k d l hd hleg => ?_⟩
  have hk : k < packetDests p := by
    rw [← hl]
    exact (List.getElem?_eq_some_iff.1 hd).1
  have hz : ((ds.map fun c => ((0 : BitVec 4), c)).zip ((List.range (packetDests p)).map fun i => pf p (4 + i) 63 28 * 16))[k]? = some ((0, d), pf p (4 + k) 63 28 * 16) := by
    rw [List.getElem?_zip_eq_some]
    refine ⟨?_, ?_⟩
    · rw [List.getElem?_map, hd]; rfl
    · rw [List.getElem?_map, List.getElem?_range hk]; rfl
  rw [List.getElem?_map, hz] at hleg
  cases hleg
  exact ⟨rfl, rfl, rfl⟩

/-! ## The consumer of copy packets -/

section
variable {s : State} {q n a : Nat} {p : List Word} (h : s.Head q 2 n a p) (hk : pkKind p = 2)
include h hk

theorem copyPacket_rejected (hbad : s.r5 p = false ∨ copyPacketOk p = false ∨ copyLenOk p = false ∨ s.ringRecords q p = none) : RejectsPacket s (.copyPacketConsume q n) q a p := by
  refine h.rejects (src := srcTile (s.copyTile (dieOfQueue q))) ?_
  show execCopyPacketConsume q n s = _
  unfold execCopyPacketConsume
  rw [if_neg (by rw [h.takes, h.standing]; decide)]
  dsimp only
  rw [h.entry, if_neg (by omega)]
  split
  · rfl
  · rename_i hgood
    have hnone : s.ringRecords q p = none := by
      rcases hbad with hb | hb | hb | hb
      · exact absurd (.inl (by rw [hb]; rfl)) hgood
      · exact absurd (.inr (.inl (by rw [hb]; rfl))) hgood
      · exact absurd (.inr (.inr (by rw [hb]; rfl))) hgood
      · exact hb
    rw [hnone]

theorem copyPacket_accepted {src : CapRec} {ds : List CapRec} (h5 : s.r5 p = true) (hok : copyPacketOk p = true) (hlen : copyLenOk p = true) (hrec : s.ringRecords q p = some (src :: ds))
    (hadm : s.ringAdmit (src :: ds) = .ok) (hrange : packetRanges p (src :: ds) = none) (hproxy : src.proxy = none) (himg : src.engineImg = src.img)
    (hroom : (s.tileAt (s.copyTile (dieOfQueue q))).accepted < 16) (hfresh : ∀ x ∈ (s.tileAt (s.copyTile (dieOfQueue q))).xfers, x.id ≠ (s.tileAt (s.copyTile (dieOfQueue q))).xferNext) :
    ∃ t o, exec (.copyPacketConsume q n) s = .next t ∧ Stepped s t q ∧ t.hart = s.hart ∧ t.task = s.task ∧ t.mem = s.mem ∧
      (t.tileAt (s.copyTile (dieOfQueue q))).xfers = (s.tileAt (s.copyTile (dieOfQueue q))).xfers ++ [o] ∧ o.kind = .packet none (some (q, n)) ∧
      o.src = some src.img ∧ o.srcOff = pf p 2 39 0 ∧ o.asid = qAsid (s.queueWords q) ∧ o.ntf = false ∧ o.legs.length = ds.length ∧
      ∀ k d l, ds[k]? = some d → o.legs[k]? = some l → l.dst = d.img ∧ l.off = pf p (4 + k) 63 28 * 16 ∧ l.len = pf p 3 40 0 := by
  obtain ⟨hsrc, hdests⟩ := ringRecords_some hrec
  generalize htile : s.copyTile (dieOfQueue q) = tile at hroom hfresh ⊢
  let o := s.ringXfer q n tile p (src :: ds)
  have ho : o.src = some src.img := congrArg some himg
  have he : exec (.copyPacketConsume q n) s = .next ((s.forkXfer tile o o.src.toList (o.legs.map (·.dst))).stepRI q) := by
    show execCopyPacketConsume q n s = _
    unfold execCopyPacketConsume
    rw [if_neg (by rw [h.takes, h.standing]; decide)]
    dsimp only
    rw [h.entry, if_neg (by omega), if_neg (by rw [h5, hok, hlen]; decide), hrec]
    dsimp only
    rw [hadm, hrange, htile]
    dsimp only
    rw [if_neg (by omega)]
    rfl
  obtain ⟨qr, tl, tls, l, w, g, k, seq, e, hx⟩ := forkXfer_packet s tile o o.src.toList (o.legs.map (·.dst)) (x := none) (y := some (q, n)) rfl ho rfl
    (fun c hc => by rw [hsrc] at hc; cases hc; exact hproxy) hfresh
  obtain ⟨hlegs, hleg⟩ := ringXfer_legs s q n tile p src ds hdests
  generalize s.forkXfer tile o o.src.toList (o.legs.map (·.dst)) = u at he e hx
  obtain ⟨qs, ag, e2, hq, hc⟩ := stepRI_only u q
  have hwords (k : Nat) : u.queueWords k = s.queueWords k := by rw [e]; rfl
  refine ⟨_, { o with id := k, seq := seq }, he, ⟨?_, ?_⟩, ?_, ?_, ?_, ?_, rfl, ho, rfl, rfl, rfl, hlegs, hleg⟩
  · intro k
    rw [hq, hwords, hwords]
  · rw [hwords, show u.clk = s.clk by rw [e]] at hc
    exact hc
  · rw [e2, e]
  · rw [e2, e]
  · rw [e2, e]
  · rw [e2]
    exact hx

end

end Sys2Proof.Machine
end

section
/-!
PROOFS. The packets of queues, put together.
-/
namespace Sys2Proof.Machine

open Sys2Proof

section
variable {s : State} {q n a : Nat} {p : List Word} {m : RingMsg} (h : s.Head q 1 n a p) (hk : pkKind p = 3) (h4 : pf p 0 4 4 = 1) (hm : s.ringMsg q n = some m)
include h hk h4 hm

/-- A capability message whose receiver has a place is delivered, and its entry is consumed. -/
theorem capabilityMessage_delivered (h5 : s.r5 p = true) {d : Dest} (hd : s.inboxDest (pw p 1) = some d) :
    (∀ r, d.type = 0 → s.taskAt? (BitVec.ofNat 32 d.target) = some r → s.taskInboxFull r = false → r.state ≠ .exited →
      ∃ t, exec (.capabilityMessageConsume q n) s = .next t ∧ EntryPassed s t q a (BitVec.allOnes 64) ∧ t.ringMsg q n = none ∧ t.quire = s.quire ∧
        t.taskAt? r.tid = some { r with inbox := r.inbox ++ [deliveredMsg m p], ev2 := r.ev2 || r.inbox.isEmpty }) ∧
    (d.type = 1 → s.tenantOn d.target (pkAsid p) = true → s.tileInboxFull d.target = false →
      ∃ t, exec (.capabilityMessageConsume q n) s = .next t ∧ EntryPassed s t q a (BitVec.allOnes 64) ∧ t.ringMsg q n = none ∧ t.quire = s.quire ∧
        (t.tileAt d.target).inbox = (s.tileAt d.target).inbox ++ [deliveredMsg m p]) := by
  refine ⟨fun r ht hr hf hx => ?_, fun ht hon hf => ?_⟩
  · have he := capabilityMessage_goes h hk h4 hm h5 hd (landing_task ht hr hf) nofun
    rw [if_neg nofun] at he
    obtain ⟨hp, -, hq, hms, hat⟩ := land_task_consumed h (dropRingMsg_only s q n) (deliveredMsg m p) hr hx
    exact ⟨_, he, hp, ringMsg_dropped hms, hq, hat⟩
  · have he := capabilityMessage_goes h hk h4 hm h5 hd (landing_tile ht hon hf) nofun
    rw [if_neg nofun] at he
    obtain ⟨hp, -, -, hq, hms, hat⟩ := land_tile_consumed h (dropRingMsg_only s q n) d.target (deliveredMsg m p)
    exact ⟨_, he, hp, ringMsg_dropped hms, hq, hat⟩

/-- A capability message whose receiver is gone returns to its sender (R34). -/
theorem capabilityMessage_returned (h5 : s.r5 p = true) {d : Dest} (hd : s.inboxDest (pw p 1) = some d) {r : Task} (ht : d.type = 0) (hgone : s.taskAt? (BitVec.ofNat 32 d.target) = none)
    (hr : s.taskAt? m.sender = some r) (hx : r.state ≠ .exited) (hl : r.inbox.length < 8) (hn : r.returns = []) :
    ∃ t, exec (.capabilityMessageConsume q n) s = .next t ∧ EntryPassed s t q a (BitVec.allOnes 64) ∧ t.ringMsg q n = none ∧ t.quire = s.quire ∧
      t.taskAt? r.tid = some { r with inbox := r.inbox ++ [returnedMsg m p], ev2 := r.ev2 || r.inbox.isEmpty } := by
  have he := capabilityMessage_goes h hk h4 hm h5 hd (landing_gone ht hgone) nofun
  rw [if_pos rfl, returnRingMsg_enters p hr hl hn] at he
  obtain ⟨hp, -, hq, hms, hat⟩ := land_task_consumed h (dropRingMsg_only s q n) (returnedMsg m p) hr hx
  exact ⟨_, he, hp, ringMsg_dropped hms, hq, hat⟩

/-- A capability message that breaks R5 is logged and passed, and its capability returns to its sender (log 92). -/
theorem capabilityMessage_rejected (h5 : s.r5 p = false) {r : Task} (hr : s.taskAt? m.sender = some r) (hx : r.state ≠ .exited) (hl : r.inbox.length < 8) (hn : r.returns = []) :
    ∃ b u t, exec (.capabilityMessageConsume q n) s = .next t ∧ b.dies = s.dies ∧ b.mem = s.mem ∧ b.quire = s.quire ∧ Logged b u (dieOfQueue q) 6 (pw p 0) 1 ∧
      EntryPassed u t q a (BitVec.allOnes 64) ∧ s.CountsOnly q u t ∧ t.ringMsg q n = none ∧ t.quire = s.quire ∧
      t.taskAt? r.tid = some { r with inbox := r.inbox ++ [returnedMsg m p], ev2 := r.ev2 || r.inbox.isEmpty } := by
  have he := capabilityMessage_breaks h hk h4 hm h5
  rw [returnRingMsg_enters p hr hl hn] at he
  obtain ⟨t, ts, e, hat⟩ := enterInbox_ok (s := s.dropRingMsg q n) (returnedMsg m p) hr hx
  rw [e] at he hat
  obtain ⟨m', ue, ce, g, d, qs, ag, e2, -, hp, hc⟩ := h.consumed ((SameRings.tables s t ts s.tile s.tiles (s.dropRingMsg q n).ringMsgs).trans (rings_modDie _ (dieOfQueue q) _))
  refine ⟨{ s.dropRingMsg q n with task := t, tasks := ts }, _, _, he, rfl, rfl, rfl, log_logged _ (dieOfQueue q) 0 srcLaunch 6 (pw p 0) 1, hp, hc, ringMsg_dropped (s := s) ?_, ?_, ?_⟩
  · exact congrArg (·.ringMsgs) e2
  · exact congrArg (·.quire) e2
  · exact (congrArg (State.taskAt? · r.tid) e2).trans hat

end

/-- An entry of a host queue is consumed; a capability message in it returns to its sender (R217, R218). -/
theorem hostConsume_passes {s : State} {q n a : Nat} {p : List Word} (h : s.Head q 0 n a p) :
    (s.ringMsg q n = none → ∃ t, exec (.hostConsume q n) s = .next t ∧ EntryPassed s t q a (BitVec.allOnes 64) ∧ t.hart = s.hart ∧ t.task = s.task ∧ t.quire = s.quire) ∧
    (∀ m r, s.ringMsg q n = some m → s.taskAt? m.sender = some r → r.state ≠ .exited → r.inbox.length < 8 → r.returns = [] →
      ∃ t, exec (.hostConsume q n) s = .next t ∧ EntryPassed s t q a (BitVec.allOnes 64) ∧ t.ringMsg q n = none ∧
        t.taskAt? r.tid = some { r with inbox := r.inbox ++ [returnedMsg m p], ev2 := r.ev2 || r.inbox.isEmpty }) := by
  have hat := h.standing
  refine ⟨fun hm => ?_, fun m r hm hr hx hl hn => ?_⟩
  · have he : exec (.hostConsume q n) s = .next (s.consume q n) := by
      show execHostConsume q n s = _
      unfold execHostConsume
      rw [hat, if_neg (by decide), hm]
    obtain ⟨m, ue, ce, g, d, qs, ag, e, hp, -, -⟩ := h.consumed (State.SameRings.refl s)
    refine ⟨_, he, hp, ?_⟩
    rw [e]
    exact ⟨rfl, rfl, rfl⟩
  · have he : exec (.hostConsume q n) s = .next (((s.dropRingMsg q n).enterInbox r.tid (returnedMsg m p)).consume q n) := by
      show execHostConsume q n s = _
      unfold execHostConsume
      rw [hat, if_neg (by decide), hm]
      dsimp only
      rw [h.entry, returnRingMsg_enters p hr hl hn]
    obtain ⟨hp, -, -, hms, hin⟩ := land_task_consumed h (dropRingMsg_only s q n) (returnedMsg m p) hr hx
    exact ⟨_, he, hp, ringMsg_dropped hms, hin⟩

/-- Settles O45, one clause for each consumer: each takes the packet at the head and consumes its entry (State.Head.consumed, State.Head.rejects) in a state whose rings are as they were. -/
theorem queuePackets : Obligations.QueuePackets := by
  refine ⟨?_, ?_, ?_, ?_, ?_, ?_, ?_⟩
  · intro s q n a p hn
    exact ⟨fun h ht => queueConsume_device hn h ht, fun h ht => queueConsume_engine hn h ht, fun h1 h2 ht hb => queueConsume_idle hn h1 h2 ht hb⟩
  · intro s q n a p h hk h4
    refine ⟨fun d hd hdev hok => ⟨fun r ht hr hf hx => ?_, fun ht hon hf => ?_⟩, fun hbad => signal_rejected h hk h4 ?_⟩
    · have he := signal_lands h hk h4 hok (inboxDest_here hd (by omega) hdev) (landing_task ht hr hf) nofun
      obtain ⟨hp, hh, hq, -, hin⟩ := land_task_consumed h ⟨_, rfl⟩ (signalMsg p) hr hx
      exact ⟨_, he, hp, hh, hq, hin⟩
    · have he := signal_lands h hk h4 hok (inboxDest_here hd (by omega) hdev) (landing_tile ht hon hf) nofun
      obtain ⟨hp, hh, htask, hq, -, hin⟩ := land_tile_consumed h ⟨_, rfl⟩ d.target (signalMsg p)
      exact ⟨_, he, hp, hh, htask, hq, hin⟩
    · rcases hbad with hb | hb
      · exact .inl hb
      · exact .inr (inboxDest_elsewhere hb)
  · intro s q n a p r l c tid u h hk hr hl hc
    exact ⟨fun hbad => spawnPacket_rejected hk hr hl hc h hbad, fun hok hf hw ht _ hne => spawnPacket_spawns hk hr hl hc h hok hf hw ht hne⟩
  · intro s q n a p m d h hk h4 hm hd hdev h5
    have here (ht : d.type ≤ 1) := inboxDest_here hd ht hdev
    refine ⟨fun r ht => (capabilityMessage_delivered h hk h4 hm h5 (here (by omega))).1 r ht, fun ht => (capabilityMessage_delivered h hk h4 hm h5 (here (by omega))).2 ht, ?_⟩
    intro r ht hgone hr hx hl hn
    exact capabilityMessage_returned h hk h4 hm h5 (here (by omega)) ht hgone hr hx hl hn
  · intro s q n a p m r h hk h4 hm h5 hr hx hl hn
    exact capabilityMessage_rejected h hk h4 hm h5 hr hx hl hn
  · intro s q n a p h
    exact hostConsume_passes h
  · intro s q n a p src ds h hk
    refine ⟨fun hbad => copyPacket_rejected h hk hbad, ?_⟩
    intro h5 hok hlen hrec hadm hrange _ hproxy himg hroom hfresh
    exact copyPacket_accepted h hk h5 hok hlen hrec hadm hrange hproxy himg hroom hfresh

end Sys2Proof.Machine
end
